-- ==== Sys2Proof/Config.lean ====
section
/-!
DEFINITION. What an AMZ40-B fixes (spec/00 R1 and the capacities of the chapters), and the free values:
opaque constants for what the manual leaves open. No free value has a body, so nothing can be proved of it.
-/
namespace Sys2Proof.Config

/-- Quads of a die (R1). -/
def quadsPerDie : Nat := 2560
/-- Bytes of private memory of a core (R1). -/
def privBytes : Nat := 0x8000
/-- Bytes of shared SRAM of a die (R122). -/
def sharedBytes : Nat := 0xC0000000
/-- Bytes of bonded DRAM of the package (R396). -/
def dramBytes : Nat := 2 ^ 38
/-- Bytes of bonded DRAM of one die (R396). -/
def dramDieBytes : Nat := 2 ^ 36
/-- Packages of a pod (R2). -/
def podPackages : Nat := 640
/-- Entries of a core's store buffer (R24). -/
def storeBuffer : Nat := 32
/-- Entries of a die's wait-for table (R188). -/
def waitTable : Nat := 131072
/-- Traversed edges at which a walk stops (R192). -/
def walkLimit : Nat := 64
/-- Unchecked edges one pass of the background checker walks (R193). -/
def checkerPass : Nat := 2048
/-- Hands of a bank, entries of a hand, entries of an overflow list (R118). -/
def hands : Nat := 64
def handEntries : Nat := 16
def overflowEntries : Nat := 4096
/-- Full/empty waiters of a bank, and of a memory controller for other cores (R128). -/
def bankWaiters : Nat := 2048
def controllerWaiters : Nat := 32
/-- Reservations of a bank (R136). -/
def reservations : Nat := 1024
/-- Claim slots and guard entries of a thread (R34, R43), unjoined children (R46). -/
def claimSlots : Nat := 8
def guardEntries : Nat := 8
def maxChildren : Nat := 64
/-- Largest live-claim count of a signal (R32). -/
def maxCnt : Nat := 1048575
/-- Entries of the status cache (R93) and of the handle cache (R262). -/
def statusCache : Nat := 32
def handleCache : Nat := 16
/-- Copy FIFO, copies in flight, mailbox (R330). -/
def copyFifo : Nat := 16
def copiesInFlight : Nat := 48
def mailbox : Nat := 32
/-- Receive store and send buffer of a core (R336, R337). -/
def receiveStore : Nat := 16
def sendBuffer : Nat := 4
/-- Deque and post buffer of a core (R344, R351). -/
def deque : Nat := 64
def postBuffer : Nat := 4
/-- Entries of a hardware queue (R353). -/
def hwQueue : Nat := 8
/-- Ring of an incremental queue, open records that force consolidation, producers, queues (R319, R321, R316, R355). -/
def iqRing : Nat := 32
def iqOpen : Nat := 64
def iqProducers : Nat := 8
def iqPerDomain : Nat := 256
/-- Quad table, die store, walks in flight and miss FIFO (R204, R207). -/
def quadTable : Nat := 64
def dieStore : Nat := 16384
def walksInFlight : Nat := 256
def missFifo : Nat := 1024
/-- Live conversions and granules of a shuffler (R270). -/
def conversions : Nat := 64
def granules : Nat := 262144
/-- Commands of a page and of a command core (R378). -/
def pageCommands : Nat := 16
def coreCommands : Nat := 64
/-- Output records kept (R384). -/
def outputRecords : Nat := 16
/-- The budget and refill of a core at reset (R25). -/
def refill : Nat := 0x1800
/-- Router buffer places per input and channel (R339). -/
def routerBuffer : Nat := 8
/-- Default age limit and drift threshold times ten (R340, R341). -/
def ageLimit : Nat := 512
def driftThreshold : Nat := 15

/-- FREE VALUE (log 4): what a byte of stacked memory written under another key reads as (R140);
the arguments are the quad's memory-key number and the byte's canonical address. -/
opaque freeByte : Nat → Nat → Byte
/-- FREE VALUE (log 32): whether the hypervisor has, at a clock, granted the host a mapping of DRAM from a physical address on, over a
length (22 R376). -/
opaque hostView : Nat → Nat → Nat → Bool
/-- FREE VALUE (log 30): the word of memory in which a bit, or two with the flag, has flipped (22 R393). -/
opaque memoryFault : Nat → Option (Nat × Bool)
/-- FREE VALUE (log 6): what a load from another package returns; the argument is the state's free counter. -/
opaque remoteWord : Nat → Word
/-- FREE VALUE (log 6): whether another package has, at a clock, an inbound window for a partition of this one (22 R390); the
arguments are the clock, the package and the partition. -/
opaque remoteAdmits : Nat → Nat → Nat → Bool
/-- FREE VALUES (log 16): steps that a running matrix sequencer takes while a clock passes, and whether it loads a row group ahead
(16 R274, R285). -/
opaque sequencerSteps : Nat → Fin 1024
opaque sequencerAhead : Nat → Bool
/-- FREE VALUE (log 18): clocks that an engine's access to a vault slice takes, which the model performs at once (12 R221). -/
opaque engineLatency : Nat → Nat
/-- FREE VALUE (log 24): the byte count in a conversion's completion word (R270, R318). -/
opaque conversionCount : Nat → BitVec 32
/-- FREE VALUES (log 9): byte `i` of the 320-byte context of a save record, made of the context's values, and the value `i` that a
resume takes from 320 bytes which are not the ones that the save wrote: R201 gives the contents, not their places. -/
opaque contextByte : List Nat → Nat → Byte
opaque contextValue : List Byte → Nat → Nat
/-- FREE VALUES (log 69): whether an error on a link is one that a barrier's network cannot correct, and of which barrier in progress;
and which die of this package is lost (R175, R343). -/
opaque barrierError : Nat → Option Nat
opaque lostDie : Nat → Fin 4
/-- FREE VALUE (log 28): the intermediate quad that drift routing draws for a packet (R341). -/
opaque driftQuad : Nat → Fin 2560
/-- FREE VALUE (log 35): which of the legal places the loader takes for a code image or for DRAM data (R73). -/
opaque loaderPlace : Nat → Nat
/-- FREE VALUE (log 7): an ML-DSA-87 signature over a message, of 4,627 bytes (R392). -/
opaque signature : List Byte → List Byte
/-- FREE VALUE (log 7): whether an ML-DSA-87 signature verifies under a public key (R84 code 2, R389). -/
opaque verifies : List Byte → List Byte → List Byte → Bool
/-- FREE VALUE (log 7): SHA3-512 of the identity public key and of the mask ROM (R392). -/
opaque identityHash : List Byte
opaque romHash : List Byte
/-- FREE VALUE (log 8): whether the host answers a PCIe AtomicOp (R167). -/
opaque hostAtomics : Bool

end Sys2Proof.Config
end

