-- ==== Sys2Proof/Syntax.lean ====
section
/-!
DEFINITION. The syntax: one constructor per row of spec/opcode_table.json. The first 243 are the operations of the
opcode map (R63); an operation with a modifier or an operand that selects another meaning has one constructor per
meaning, as the table has. The last 64 are the steps of the machine's other agents, which no encoding names.
Predication (R58), bundles (R60) and tail lengths (R54) belong to a head, not to an instruction: see Sys2Proof/Decode.lean.
-/
namespace Sys2Proof

/-- A register field of five bits: g0 to g31 (R59). -/
abbrev Reg := Fin 32
/-- A predicate register p0 to p7 (R59). -/
abbrev PReg := Fin 8
/-- A scope code: core 0, quad 1, die 2, pkg 3, pod 4, ten 5, sys 6; code 7 raises a scope fault (R62). -/
abbrev Scope := Fin 8

/-- The element width of m kind el (R62). -/
inductive ElW where
  | e64 | e32 | e16 | e8
  deriving DecidableEq, Repr

/-- The access width of m kind mw (R62). -/
inductive MemW where
  | b | h | w | d
  deriving DecidableEq, Repr

/-- A signal operand: an immediate number, or the low 12 bits of a register (R59, R90). -/
inductive SigOp where
  | imm (n : Fin 4096)
  | ind (b : Reg)
  deriving DecidableEq, Repr

/-- An output of a router: its four neighbours and its own quad (R339). -/
inductive Dir where
  | north | east | south | west | here
  deriving DecidableEq, Repr

/-- The instructions: the rows of spec/opcode_table.json. -/
inductive Instr where
  /-- `NOP`, R88. -/
  | nop
  /-- `BR`, R88. -/
  | br (slot : Fin 64) (imm : BitVec 32)
  /-- `BRC`, R88. -/
  | brc (e : Fin 128) (a : Reg) (b : Reg) (slot : Fin 64) (imm : BitVec 32)
  /-- `BRR`, R88. -/
  | brr (a : Reg)
  /-- `CALL`, R88. -/
  | call (d : Reg) (slot : Fin 64) (imm : BitVec 32)
  /-- `RET`, R88. -/
  | ret (a : Reg)
  /-- `LOOP`, R88. -/
  | loop (d : Reg) (slot : Fin 64) (imm : BitVec 32)
  /-- `HALT`, R35. -/
  | halt
  /-- `PAUSE`, R35. -/
  | pause
  /-- `EMIT`, R92. -/
  | emit (sig : SigOp)
  /-- `EMITV`, R92. -/
  | emitv (a : Reg) (sig : SigOp)
  /-- `PRES`, R93. -/
  | pres (pd : PReg) (sig : SigOp)
  /-- `CEDE`, R92. -/
  | cede (sig : SigOp)
  /-- `CLAIM`, R34. -/
  | claim (d : Reg) (sig : SigOp)
  /-- `UNCLAIM`, R92. -/
  | unclaim (sig : SigOp)
  /-- `SIGV_CUR`, R40. -/
  | sigvCur (d : Reg) (sig : SigOp)
  /-- `SIGV_PREV`, R40. -/
  | sigvPrev (d : Reg) (sig : SigOp)
  /-- `ABORTW`, R94. -/
  | abortw (sn : Fin 4096) (slot : Fin 64) (imm : BitVec 32)
  /-- `SUSPW`, R94. -/
  | suspw (sig : SigOp)
  /-- `ENDW`, R43. -/
  | endw
  /-- `FORK`, R95. -/
  | fork (d : Reg) (slot : Fin 64) (imm : BitVec 32)
  /-- `JOIN`, R46. -/
  | join
  /-- `INST_NUM`, R96. -/
  | instNum (d : Reg)
  /-- `INST_SEED`, R96. -/
  | instSeed (d : Reg)
  /-- `INST_NSIG`, R96. -/
  | instNsig (d : Reg)
  /-- `TRIG`, R97. -/
  | trig (sc : Scope)
  /-- `GANG_WAIT`, R98. -/
  | gangWait
  /-- `GANG_ON`, R98. -/
  | gangOn (d : Reg)
  /-- `GANG_OFF`, R98. -/
  | gangOff
  /-- `ADD`, R101. -/
  | add (d : Reg) (a : Reg) (b : Reg) (w : ElW)
  /-- `SUB`, R101. -/
  | sub (d : Reg) (a : Reg) (b : Reg) (w : ElW)
  /-- `ADDI`, R101. -/
  | addi (d : Reg) (a : Reg) (imm : BitVec 32)
  /-- `MUL`, R101. -/
  | mul (d : Reg) (a : Reg) (b : Reg) (w : ElW)
  /-- `MULH`, R101. -/
  | mulh (d : Reg) (a : Reg) (b : Reg) (u : Bool) (w : ElW)
  /-- `DIV`, R102. -/
  | div (d : Reg) (a : Reg) (b : Reg) (u : Bool) (w : ElW)
  /-- `REM`, R102. -/
  | rem (d : Reg) (a : Reg) (b : Reg) (u : Bool) (w : ElW)
  /-- `MIN`, R101. -/
  | min (d : Reg) (a : Reg) (b : Reg) (u : Bool) (w : ElW)
  /-- `MAX`, R101. -/
  | max (d : Reg) (a : Reg) (b : Reg) (u : Bool) (w : ElW)
  /-- `ABS`, R101. -/
  | abs (d : Reg) (a : Reg) (w : ElW)
  /-- `AND`, R103. -/
  | and (d : Reg) (a : Reg) (b : Reg)
  /-- `OR`, R103. -/
  | or (d : Reg) (a : Reg) (b : Reg)
  /-- `XOR`, R103. -/
  | xor (d : Reg) (a : Reg) (b : Reg)
  /-- `ANDN`, R103. -/
  | andn (d : Reg) (a : Reg) (b : Reg)
  /-- `ORN`, R103. -/
  | orn (d : Reg) (a : Reg) (b : Reg)
  /-- `SHL`, R104. -/
  | shl (d : Reg) (a : Reg) (b : Reg) (w : ElW)
  /-- `SHL_IMM`, R104. -/
  | shlImm (d : Reg) (a : Reg) (w : ElW) (imm : BitVec 32)
  /-- `SHR`, R104. -/
  | shr (d : Reg) (a : Reg) (b : Reg) (w : ElW)
  /-- `SHR_IMM`, R104. -/
  | shrImm (d : Reg) (a : Reg) (w : ElW) (imm : BitVec 32)
  /-- `SAR`, R104. -/
  | sar (d : Reg) (a : Reg) (b : Reg) (w : ElW)
  /-- `SAR_IMM`, R104. -/
  | sarImm (d : Reg) (a : Reg) (w : ElW) (imm : BitVec 32)
  /-- `ROL`, R104. -/
  | rol (d : Reg) (a : Reg) (b : Reg) (w : ElW)
  /-- `ROL_IMM`, R104. -/
  | rolImm (d : Reg) (a : Reg) (w : ElW) (imm : BitVec 32)
  /-- `CLZ`, R105. -/
  | clz (d : Reg) (a : Reg)
  /-- `CTZ`, R105. -/
  | ctz (d : Reg) (a : Reg)
  /-- `POPC`, R105. -/
  | popc (d : Reg) (a : Reg)
  /-- `BREV`, R105. -/
  | brev (d : Reg) (a : Reg)
  /-- `BFX`, R106. -/
  | bfx (d : Reg) (a : Reg) (pos : Fin 64) (e : Fin 128) (c : Fin 32)
  /-- `BFI`, R106. -/
  | bfi (d : Reg) (a : Reg) (pos : Fin 64) (e : Fin 128)
  /-- `CMP`, R107. -/
  | cmp (pd : PReg) (a : Reg) (b : Reg) (cc : Fin 64)
  /-- `CMPI`, R107. -/
  | cmpi (pd : PReg) (a : Reg) (cc : Fin 64) (imm : BitVec 32)
  /-- `SEL`, R107. -/
  | sel (d : Reg) (pc : PReg) (a : Reg) (b : Reg)
  /-- `MOVI`, R108. -/
  | movi (d : Reg) (imm : BitVec 32)
  /-- `MOVI_ZX`, R108. -/
  | moviZx (d : Reg) (imm : BitVec 32)
  /-- `MOVI_HI`, R108. -/
  | moviHi (d : Reg) (imm : BitVec 32)
  /-- `MOV`, R109. -/
  | mov (d : Reg) (a : Reg)
  /-- `MOV_FROM_SPECIAL`, R109. -/
  | movFromSpecial (d : Reg) (n : Reg)
  /-- `MRCV_READ`, R336. -/
  | mrcvRead (d : Reg)
  /-- `MSND_WRITE`, R335. -/
  | msndWrite (n : Reg) (a : Reg)
  /-- `MOV_FROM_PRED`, R109. -/
  | movFromPred (d : Reg) (pa : PReg)
  /-- `MOV_TO_PRED`, R109. -/
  | movToPred (pd : PReg) (a : Reg)
  /-- `PLOG`, R107. -/
  | plog (pd : PReg) (pa : PReg) (pb : PReg) (op : Fin 64)
  /-- `LEA`, R110. -/
  | lea (d : Reg) (a : Reg) (b : Reg) (sh : Fin 64) (imm : BitVec 32)
  /-- `MAD`, R101. -/
  | mad (d : Reg) (a : Reg) (b : Reg) (c : Reg) (w : ElW)
  /-- `SEXT`, R111. -/
  | sext (d : Reg) (a : Reg) (w : ElW)
  /-- `ZEXT`, R111. -/
  | zext (d : Reg) (a : Reg) (w : ElW)
  /-- `CVTI`, R112. -/
  | cvti (d : Reg) (a : Reg) (op : Fin 64)
  /-- `FADD`, R113. -/
  | fadd (d : Reg) (a : Reg) (b : Reg) (rm : Fin 64)
  /-- `FMUL`, R113. -/
  | fmul (d : Reg) (a : Reg) (b : Reg) (rm : Fin 64)
  /-- `FFMA`, R113. -/
  | ffma (d : Reg) (a : Reg) (b : Reg) (c : Reg) (rm : Fin 64)
  /-- `FCMP`, R114. -/
  | fcmp (pd : PReg) (a : Reg) (b : Reg) (cc : Fin 64)
  /-- `LD`, R158. -/
  | ld (d : Reg) (a : Reg) (s : Bool) (mw : MemW) (imm : BitVec 32)
  /-- `ST`, R158. -/
  | st (a : Reg) (b : Reg) (mw : MemW) (e : Fin 128) (imm : BitVec 32)
  /-- `LDFE`, R164. -/
  | ldfe (d : Reg) (a : Reg) (sc : Scope) (s : Bool) (mw : MemW) (imm : BitVec 32)
  /-- `STEF`, R164. -/
  | stef (a : Reg) (b : Reg) (sc : Scope) (mw : MemW) (e : Fin 128) (imm : BitVec 32)
  /-- `LDFF`, R164. -/
  | ldff (d : Reg) (a : Reg) (sc : Scope) (s : Bool) (mw : MemW) (imm : BitVec 32)
  /-- `STFF`, R164. -/
  | stff (a : Reg) (b : Reg) (sc : Scope) (mw : MemW) (e : Fin 128) (imm : BitVec 32)
  /-- `FESET_FULL`, R165. -/
  | fesetFull (a : Reg) (imm : BitVec 32)
  /-- `FESET_EMPTY`, R165. -/
  | fesetEmpty (a : Reg) (imm : BitVec 32)
  /-- `FEQRY`, R165. -/
  | feqry (d : Reg) (a : Reg) (imm : BitVec 32)
  /-- `LDP`, R159. -/
  | ldp (d : Reg) (a : Reg) (imm : BitVec 32)
  /-- `STP`, R159. -/
  | stp (a : Reg) (b : Reg) (imm : BitVec 32)
  /-- `LDC`, R162. -/
  | ldc (d : Reg) (a : Reg) (c : Reg) (s : Bool) (mw : MemW) (imm : BitVec 32)
  /-- `UPD`, R168. -/
  | upd (a : Reg) (b : Reg) (fn : Fin 64) (imm : BitVec 32)
  /-- `UPDR`, R168. -/
  | updr (d : Reg) (pc : PReg) (a : Reg) (b : Reg) (fn : Fin 64) (imm : BitVec 32)
  /-- `UPDCFG_LD`, R116. -/
  | updcfgLd (d : Reg) (a : Reg) (b : Reg) (imm : BitVec 32)
  /-- `UPDCFG_ST`, R116. -/
  | updcfgSt (d : Reg) (b : Reg) (imm : BitVec 32)
  /-- `UPDCFG_CLR`, R116. -/
  | updcfgClr (d : Reg) (b : Reg) (imm : BitVec 32)
  /-- `CAS`, R166. -/
  | cas (d : Reg) (a : Reg) (b : Reg) (c : Reg) (sc : Scope) (s : Bool) (mw : MemW)
  /-- `LRW`, R170. -/
  | lrw (d : Reg) (pb : PReg) (a : Reg) (sc : Scope) (s : Bool) (mw : MemW)
  /-- `SCH`, R170. -/
  | sch (pd : PReg) (a : Reg) (b : Reg) (sc : Scope) (mw : MemW)
  /-- `RSVX`, R170. -/
  | rsvx (a : Reg)
  /-- `FENCE_CORE`, R172. -/
  | fenceCore
  /-- `FENCE`, R172. -/
  | fence (sc : Scope)
  /-- `FENCE_DRN`, R172. -/
  | fenceDrn (sc : Scope)
  /-- `LDA`, R158. -/
  | lda (d : Reg) (a : Reg) (sc : Scope) (s : Bool) (mw : MemW) (imm : BitVec 32)
  /-- `STL`, R158. -/
  | stl (a : Reg) (b : Reg) (sc : Scope) (mw : MemW) (e : Fin 128) (imm : BitVec 32)
  /-- `BAR_NETWORK`, R117. -/
  | barNetwork (d : Reg) (b : Reg) (c : Reg) (red : Fin 4) (sc : Scope)
  /-- `BAR_DRAIN`, R117. -/
  | barDrain (d : Reg) (a : Reg) (b : Reg) (c : Reg) (red : Fin 4) (sc : Scope)
  /-- `BAR_OBJECT`, R177. -/
  | barObject (d : Reg) (a : Reg) (sc : Scope)
  /-- `BARINIT`, R177. -/
  | barinit (d : Reg) (a : Reg) (b : Reg) (e : Fin 128) (sc : Scope)
  /-- `MIGR`, R179. -/
  | migr (d : Reg) (a : Reg)
  /-- `SWAP`, R166. -/
  | swap (d : Reg) (a : Reg) (b : Reg) (sc : Scope) (s : Bool) (mw : MemW)
  /-- `STM`, R160. -/
  | stm (a : Reg) (b : Reg) (c : Reg) (op : Fin 64) (imm : BitVec 32)
  /-- `FETCHADD`, R166. -/
  | fetchadd (d : Reg) (a : Reg) (b : Reg) (sc : Scope) (s : Bool) (mw : MemW)
  /-- `FETCHADD_IMM`, R166. -/
  | fetchaddImm (d : Reg) (a : Reg) (b : Reg) (sc : Scope) (s : Bool) (mw : MemW) (imm : BitVec 32)
  /-- `ZFILL`, R161. -/
  | zfill (a : Reg) (op : Fin 64) (imm : BitVec 32)
  /-- `WREG_HOLD`, R213. -/
  | wregHold (d : Reg) (a : Reg)
  /-- `WREG_FE`, R213. -/
  | wregFe (d : Reg) (a : Reg)
  /-- `WUNREG`, R213. -/
  | wunreg (d : Reg) (a : Reg)
  /-- `WWAIT`, R213. -/
  | wwait (d : Reg) (a : Reg)
  /-- `WSIG`, R213. -/
  | wsig (d : Reg) (a : Reg)
  /-- `PRIO_SET`, R215. -/
  | prioSet (d : Reg) (a : Reg)
  /-- `PRIO_MAX`, R215. -/
  | prioMax (d : Reg)
  /-- `TRAP_NOTHING`, R217. -/
  | trapNothing (d : Reg) (imm : BitVec 32)
  /-- `TRAP_TIME`, R217. -/
  | trapTime (d : Reg)
  /-- `TRAP_USER_ABORT`, R217. -/
  | trapUserAbort (d : Reg)
  /-- `TRAP_POST_FAULT_QUEUE`, R217. -/
  | trapPostFaultQueue (d : Reg)
  /-- `RFT`, R218. -/
  | rft
  /-- `SRR`, R219. -/
  | srr (d : Reg) (e : Fin 128) (c : Fin 32)
  /-- `SRW`, R219. -/
  | srw (a : Reg) (e : Fin 128) (c : Fin 32)
  /-- `SRW_EBUD`, R219. -/
  | srwEbud (a : Reg) (c : Fin 32)
  /-- `TLBI_ALL`, R220. -/
  | tlbiAll
  /-- `TLBI_PAGE`, R220. -/
  | tlbiPage (a : Reg)
  /-- `TLBI_ASID`, R220. -/
  | tlbiAsid (a : Reg)
  /-- `MON_SEL`, R221. -/
  | monSel (d : Reg) (c : Fin 32) (a : Reg)
  /-- `MON_EDGE`, R221. -/
  | monEdge (c : Fin 32) (a : Reg)
  /-- `MON_RD`, R221. -/
  | monRd (d : Reg) (c : Fin 32) (b : Reg)
  /-- `MON_OFF`, R221. -/
  | monOff (c : Fin 32)
  /-- `WDARM`, R222. -/
  | wdarm (d : Reg) (a : Reg)
  /-- `VADD`, R293. -/
  | vadd (d : Reg) (a : Reg) (b : Reg) (th : Bool) (fmt : Fin 16)
  /-- `VSUB`, R293. -/
  | vsub (d : Reg) (a : Reg) (b : Reg) (th : Bool) (fmt : Fin 16)
  /-- `VMUL`, R293. -/
  | vmul (d : Reg) (a : Reg) (b : Reg) (th : Bool) (fmt : Fin 16)
  /-- `VFMA`, R293. -/
  | vfma (d : Reg) (a : Reg) (b : Reg) (c : Reg) (th : Bool) (fmt : Fin 16)
  /-- `VDIV`, R293. -/
  | vdiv (d : Reg) (a : Reg) (b : Reg) (th : Bool) (fmt : Fin 16)
  /-- `VMIN`, R293. -/
  | vmin (d : Reg) (a : Reg) (b : Reg) (th : Bool) (fmt : Fin 16)
  /-- `VMAX`, R293. -/
  | vmax (d : Reg) (a : Reg) (b : Reg) (th : Bool) (fmt : Fin 16)
  /-- `VABS`, R293. -/
  | vabs (d : Reg) (a : Reg) (th : Bool) (fmt : Fin 16)
  /-- `VNEG`, R293. -/
  | vneg (d : Reg) (a : Reg) (th : Bool) (fmt : Fin 16)
  /-- `VCMP`, R294. -/
  | vcmp (d : Reg) (a : Reg) (b : Reg) (e : Fin 128) (th : Bool) (fmt : Fin 16)
  /-- `VSEL`, R294. -/
  | vsel (d : Reg) (a : Reg) (b : Reg) (c : Reg) (th : Bool) (fmt : Fin 16)
  /-- `VAND`, R294. -/
  | vand (d : Reg) (a : Reg) (b : Reg) (th : Bool) (fmt : Fin 16)
  /-- `VOR`, R294. -/
  | vor (d : Reg) (a : Reg) (b : Reg) (th : Bool) (fmt : Fin 16)
  /-- `VXOR`, R294. -/
  | vxor (d : Reg) (a : Reg) (b : Reg) (th : Bool) (fmt : Fin 16)
  /-- `VSHL`, R294. -/
  | vshl (d : Reg) (a : Reg) (b : Reg) (th : Bool) (fmt : Fin 16)
  /-- `VSHR`, R294. -/
  | vshr (d : Reg) (a : Reg) (b : Reg) (th : Bool) (fmt : Fin 16)
  /-- `VSAR`, R294. -/
  | vsar (d : Reg) (a : Reg) (b : Reg) (th : Bool) (fmt : Fin 16)
  /-- `VEXP`, R296. -/
  | vexp (d : Reg) (a : Reg) (th : Bool) (fmt : Fin 16)
  /-- `VEXP2`, R296. -/
  | vexp2 (d : Reg) (a : Reg) (th : Bool) (fmt : Fin 16)
  /-- `VLOG`, R296. -/
  | vlog (d : Reg) (a : Reg) (th : Bool) (fmt : Fin 16)
  /-- `VRCP`, R296. -/
  | vrcp (d : Reg) (a : Reg) (th : Bool) (fmt : Fin 16)
  /-- `VRSQ`, R296. -/
  | vrsq (d : Reg) (a : Reg) (th : Bool) (fmt : Fin 16)
  /-- `VSQRT`, R296. -/
  | vsqrt (d : Reg) (a : Reg) (th : Bool) (fmt : Fin 16)
  /-- `VTANH`, R296. -/
  | vtanh (d : Reg) (a : Reg) (th : Bool) (fmt : Fin 16)
  /-- `VSGM`, R296. -/
  | vsgm (d : Reg) (a : Reg) (th : Bool) (fmt : Fin 16)
  /-- `VSILU`, R296. -/
  | vsilu (d : Reg) (a : Reg) (th : Bool) (fmt : Fin 16)
  /-- `VCVT`, R298. -/
  | vcvt (d : Reg) (a : Reg) (c : Fin 32) (e : Fin 128) (th : Bool) (rm : Fin 8)
  /-- `VQNT`, R298. -/
  | vqnt (d : Reg) (a : Reg) (b : Reg) (c : Fin 32) (e : Fin 128) (th : Bool) (rm : Fin 8)
  /-- `VDEQ`, R298. -/
  | vdeq (d : Reg) (a : Reg) (b : Reg) (c : Fin 32) (e : Fin 128) (th : Bool) (rm : Fin 8)
  /-- `VSCL`, R232. -/
  | vscl (d : Reg) (a : Reg) (b : Reg) (fmt : Fin 16)
  /-- `VFILL`, R294. -/
  | vfill (d : Reg) (a : Reg) (th : Bool) (fmt : Fin 16)
  /-- `VCPY`, R294. -/
  | vcpy (d : Reg) (a : Reg) (th : Bool) (fmt : Fin 16)
  /-- `VBCAST`, R294. -/
  | vbcast (d : Reg) (a : Reg) (b : Reg) (fmt : Fin 16)
  /-- `VPERM`, R294. -/
  | vperm (d : Reg) (a : Reg) (b : Reg) (c : Reg) (fmt : Fin 16)
  /-- `VCLAMP`, R293. -/
  | vclamp (d : Reg) (a : Reg) (b : Reg) (c : Reg) (th : Bool) (fmt : Fin 16)
  /-- `VROUND`, R298. -/
  | vround (d : Reg) (a : Reg) (c : Fin 32) (th : Bool) (rm : Fin 8)
  /-- `VDOT`, R299. -/
  | vdot (d : Reg) (a : Reg) (b : Reg) (th : Bool) (fmt : Fin 16)
  /-- `VLERP`, R293. -/
  | vlerp (d : Reg) (a : Reg) (b : Reg) (c : Reg) (th : Bool) (fmt : Fin 16)
  /-- `VNORM`, R300. -/
  | vnorm (d : Reg) (a : Reg) (b : Reg) (th : Bool) (fmt : Fin 16)
  /-- `VMASK`, R294. -/
  | vmask (d : Reg) (a : Reg) (b : Reg) (th : Bool) (fmt : Fin 16)
  /-- `VSUM`, R301. -/
  | vsum (d : Reg) (a : Reg) (th : Bool) (fmt : Fin 16)
  /-- `VRMAX`, R301. -/
  | vrmax (d : Reg) (a : Reg) (th : Bool) (fmt : Fin 16)
  /-- `VRMIN`, R301. -/
  | vrmin (d : Reg) (a : Reg) (th : Bool) (fmt : Fin 16)
  /-- `VSCAN`, R301. -/
  | vscan (d : Reg) (a : Reg) (th : Bool) (fmt : Fin 16)
  /-- `VTOPK`, R230. -/
  | vtopk (d : Reg) (a : Reg) (b : Reg) (e : Fin 128) (th : Bool) (fmt : Fin 16)
  /-- `VMRGK_LOCAL`, R231. -/
  | vmrgkLocal (d : Reg) (a : Reg) (b : Reg) (e : Fin 128) (fmt : Fin 16)
  /-- `VMRGK_BANK`, R231. -/
  | vmrgkBank (d : Reg) (a : Reg) (e : Fin 128) (fmt : Fin 16)
  /-- `VSMX`, R233. -/
  | vsmx (d : Reg) (a : Reg) (th : Bool) (fmt : Fin 16)
  /-- `VSMN`, R233. -/
  | vsmn (d : Reg) (a : Reg) (b : Reg) (th : Bool) (fmt : Fin 16)
  /-- `VSAMP`, R235. -/
  | vsamp (d : Reg) (a : Reg) (b : Reg) (fmt : Fin 16)
  /-- `RNG`, R234. -/
  | rng (d : Reg) (a : Reg) (b : Reg)
  /-- `VRNG`, R303. -/
  | vrng (d : Reg) (a : Reg) (b : Reg) (th : Bool) (fmt : Fin 16)
  /-- `VCNT`, R295. -/
  | vcnt (d : Reg) (a : Reg) (th : Bool) (fmt : Fin 16)
  /-- `MLOAD`, R305. -/
  | mload (d : Reg) (a : Reg) (op : Fin 64) (e : Fin 128)
  /-- `MMUL`, R228. -/
  | mmul (d : Reg) (a : Reg) (op : Fin 64) (imm : BitVec 32)
  /-- `MCFG_MASK`, R306. -/
  | mcfgMask (d : Reg) (a : Reg) (b : Reg) (c : Reg) (e : Fin 128)
  /-- `MCFG_CANCEL`, R306. -/
  | mcfgCancel (d : Reg)
  /-- `MACC_CLR`, R307. -/
  | maccClr (d : Reg) (a : Reg)
  /-- `MACC_SCL`, R307. -/
  | maccScl (d : Reg) (a : Reg) (b : Reg)
  /-- `MSTAT`, R308. -/
  | mstat (d : Reg)
  /-- `THDEF`, R309. -/
  | thdef (d : Reg) (a : Reg) (b : Reg) (c : Reg) (op : Fin 64)
  /-- `THLD`, R310. -/
  | thld (d : Reg) (a : Reg) (b : Reg) (c : Reg) (th : Bool) (fmt : Fin 16)
  /-- `THST`, R310. -/
  | thst (d : Reg) (a : Reg) (b : Reg) (c : Reg) (th : Bool) (fmt : Fin 16)
  /-- `THADDR`, R311. -/
  | thaddr (d : Reg) (a : Reg) (b : Reg) (c : Reg)
  /-- `RELAY`, R312. -/
  | relay (d : Reg) (a : Reg) (b : Reg) (c : Reg) (e : Fin 128)
  /-- `THQRY`, R313. -/
  | thqry (d : Reg) (a : Reg) (op : Fin 64)
  /-- `THSYNC`, R314. -/
  | thsync (d : Reg) (a : Reg)
  /-- `SEND`, R360. -/
  | send (a : Reg) (b : Reg) (op : Fin 64)
  /-- `RECV_WAIT`, R361. -/
  | recvWait (d : Reg)
  /-- `RECV_POLL`, R361. -/
  | recvPoll (d : Reg) (pb : PReg)
  /-- `CONT`, R362. -/
  | cont (d : Reg) (a : Reg)
  /-- `WAITR`, R363. -/
  | waitr (d : Reg)
  /-- `CPYQ`, R317. -/
  | cpyq (d : Reg) (a : Reg)
  /-- `CPYQW`, R317. -/
  | cpyqw (d : Reg) (a : Reg)
  /-- `GATH`, R365. -/
  | gath (d : Reg) (a : Reg) (wt : Bool)
  /-- `SCAT`, R365. -/
  | scat (d : Reg) (a : Reg) (wt : Bool)
  /-- `MBOX`, R366. -/
  | mbox (d : Reg) (pb : PReg)
  /-- `WAITM`, R318. -/
  | waitm (d : Reg)
  /-- `UISET_OFF`, R367. -/
  | uisetOff (d : Reg)
  /-- `UISET_ON`, R367. -/
  | uisetOn (d : Reg)
  /-- `RSPAWN`, R352. -/
  | rspawn (d : Reg) (a : Reg) (b : Reg) (slot : Fin 64) (imm : BitVec 32)
  /-- `SPAWN`, R345. -/
  | spawn (d : Reg) (a : Reg) (b : Reg) (slot : Fin 64) (imm : BitVec 32)
  /-- `FJOIN`, R348. -/
  | fjoin (d : Reg) (a : Reg) (b : Reg)
  /-- `FJOIN_SYNC`, R348. -/
  | fjoinSync (d : Reg) (a : Reg)
  /-- `QMAP_SET`, R369. -/
  | qmapSet (d : Reg) (a : Reg)
  /-- `QMAP_OFF`, R369. -/
  | qmapOff (d : Reg)
  /-- `IQDEF_NEW`, R372. -/
  | iqdefNew (d : Reg) (a : Reg) (b : Reg) (c : Reg)
  /-- `IQDEF_DEL`, R372. -/
  | iqdefDel (d : Reg) (a : Reg)
  /-- `IQPUSH`, R320. -/
  | iqpush (d : Reg) (a : Reg) (b : Reg)
  /-- `IQPOP`, R322. -/
  | iqpop (d : Reg) (pb : PReg) (a : Reg)
  /-- `IQCONS`, R373. -/
  | iqcons (d : Reg) (a : Reg)
  /-- `ARRGET`, R326. -/
  | arrget (d : Reg) (pc : PReg) (a : Reg) (b : Reg)
  /-- `ARRADD`, R325. -/
  | arradd (a : Reg) (b : Reg) (c : Reg)
  /-- `IQBIND`, R316. -/
  | iqbind (d : Reg) (a : Reg) (b : Reg) (e : Fin 128)
  /-- `IQSTAT`, R374. -/
  | iqstat (d : Reg) (a : Reg)
  /-- `PKT_BEG`, R226. -/
  | pktBeg (d : Reg) (a : Reg)
  /-- `PKT_END`, R226. -/
  | pktEnd
  /-- `PKT_DISP`, R371. -/
  | pktDisp (d : Reg) (a : Reg) (b : Reg)
  /-- Step `COMMAND_SUBMISSION`, R378. -/
  | commandSubmission (fn page : Nat) (cmd : List Byte)
  /-- Step `ATTACH`, R386. -/
  | attach (fn page : Nat)
  /-- Step `RE_ATTACH`, R386. -/
  | reAttach (fn page : Nat)
  /-- Step `LOAD`, R84. -/
  | load (fn page : Nat)
  /-- Step `LAUNCH`, R16. -/
  | launch (fn page : Nat)
  /-- Step `EMIT_INPUT`, R383. -/
  | emitInput (fn page : Nat)
  /-- Step `READ_OUTPUTS`, R384. -/
  | readOutputs (fn page : Nat)
  /-- Step `SUSPEND`, R201. -/
  | suspend (fn page : Nat)
  /-- Step `RESUME`, R202. -/
  | resume (fn page : Nat)
  /-- Step `ABORT`, R381. -/
  | abort (fn page : Nat)
  /-- Step `END_STATUS`, R385. -/
  | endStatus (fn page : Nat)
  /-- Step `FAULT_ANSWER`, R387. -/
  | faultAnswer (fn page : Nat)
  /-- Step `HEALTH_READ`, R394. -/
  | healthRead (fn page : Nat)
  /-- Step `SET_FAULT_QUEUE`, R387. -/
  | setFaultQueue (fn page : Nat)
  /-- Step `TENANT_CREATE`, R388. -/
  | tenantCreate (fn page : Nat)
  /-- Step `TENANT_TEARDOWN`, R391. -/
  | tenantTeardown (fn page : Nat)
  /-- Step `SET_ROOTS`, R205. -/
  | setRoots (fn page : Nat)
  /-- Step `SET_RATES`, R342. -/
  | setRates (fn page : Nat)
  /-- Step `SET_FABRIC`, R390. -/
  | setFabric (fn page : Nat)
  /-- Step `SET_KEYS`, R389. -/
  | setKeys (fn page : Nat)
  /-- Step `ATTEST`, R392. -/
  | attest (fn page : Nat)
  /-- Step `COMPLETION_RECORD`, R380. -/
  | completionRecord (fn page : Nat)
  /-- Step `CONSUMED_COUNT_POLL`, R380. -/
  | consumedCountPoll (faultRing : Bool) (fn page : Nat)
  /-- Step `HOST_POSTED_WRITE`, R154. -/
  | hostPostedWrite (addr : Nat) (data : List Byte)
  /-- Step `PACKAGE_RESET`, R5. -/
  | packageReset
  /-- Step `LULL`, R42. -/
  | lull (dom : Nat)
  /-- Step `ENERGY_REFILL`, R27. -/
  | energyRefill (core : Nat)
  /-- Step `WATCHDOG_FIRING`, R49. -/
  | watchdogFiring (gid : Nat)
  /-- Step `CEDE_APPLY`, R36. -/
  | cedeApply (req : Nat)
  /-- Step `REPLY_ARRIVAL`, R24. -/
  | replyArrival (req : Nat)
  /-- Step `HOME_ACCESS`, R142. -/
  | homeAccess (req : Nat)
  /-- Step `FE_RETRY_RESEND`, R128. -/
  | feRetryResend (req : Nat)
  /-- Step `BANK_UPDATE_ARRIVAL`, R133. -/
  | bankUpdateArrival (req : Nat)
  /-- Step `DRAIN`, R119. -/
  | drain (bank : Nat)
  /-- Step `BACKGROUND_CHECKER`, R193. -/
  | backgroundChecker (die : Nat)
  /-- Step `WALK_CROSSING`, R191. -/
  | walkCrossing (msg : Nat)
  /-- Step `DEFERRED_FAULT_REPORT`, R163. -/
  | deferredFaultReport (msg : Nat)
  /-- Step `SUPERVISOR_TRAP_SERVICE`, R200. -/
  | supervisorTrapService (core : Nat)
  /-- Step `PAGE_WALK_COMPLETE`, R207. -/
  | pageWalkComplete (walk : Nat)
  /-- Step `WALK_FIFO_RETRY`, R207. -/
  | walkFifoRetry (walk : Nat)
  /-- Step `COPY_START`, R330. -/
  | copyStart (core : Nat)
  /-- Step `COPY_COMPLETION`, R331. -/
  | copyCompletion (copy : Nat)
  /-- Step `STREAMER_COMPLETION`, R333. -/
  | streamerCompletion (copy : Nat)
  /-- Step `USER_LEVEL_INTERRUPT`, R332. -/
  | userLevelInterrupt (gid : Nat)
  /-- Step `MESSAGE_ARRIVAL`, R337. -/
  | messageArrival (req : Nat)
  /-- Step `CONTINUATION_ARRIVAL`, R336. -/
  | continuationArrival (req : Nat)
  /-- Step `MESSAGE_RESEND`, R337. -/
  | messageResend (req : Nat)
  /-- Step `FLIT_ROUTE`, R341. -/
  | flitRoute (quad : Nat) (out : Dir)
  /-- Step `PACKET_URGENT`, R340. -/
  | packetUrgent (req : Nat)
  /-- Step `DRIFT_WINDOW`, R341. -/
  | driftWindow (die : Nat)
  /-- Step `BUCKET_ADMIT`, R342. -/
  | bucketAdmit (req : Nat)
  /-- Step `STEAL_ATTEMPT`, R346. -/
  | stealAttempt (core : Nat)
  /-- Step `POST_BUFFER_DRAIN`, R351. -/
  | postBufferDrain (core : Nat)
  /-- Step `IQ_SPILL_REFILL`, R319. -/
  | iqSpillRefill (queue : Nat)
  /-- Step `GRANULE_MOVE`, R265. -/
  | granuleMove (die : Nat)
  /-- Step `CONVERSION_COMPLETE`, R270. -/
  | conversionComplete (handle : Nat)
  /-- Step `CONVERSION_STOP`, R271. -/
  | conversionStop (handle : Nat)
  /-- Step `MMUL_COMPLETE`, R228. -/
  | mmulComplete (rect : Nat) (checksum : Bool)
  /-- Step `SEQUENCER_STOP`, R282. -/
  | sequencerStop (rect : Nat)
  /-- Step `PATROL_SCRUB`, R393. -/
  | patrolScrub (word : Nat)
  /-- Step `LINK_FLIT_ERROR`, R393. -/
  | linkFlitError (die : Nat)
  /-- Step `MACHINE_CHECK`, R393. -/
  | machineCheck (core : Nat)
  /-- Step `PACKAGE_LOSS`, R343. -/
  | packageLoss (pkg : Nat)
  /-- Step `THERMAL_ALARM`, R395. -/
  | thermalAlarm (die refill : Nat)
  /-- Step `MONITOR_SAMPLE`, R221. -/
  | monitorSample (quad unit value : Nat)
  /-- Step `ARRANGEMENT_ADD_APPLY`, R324. -/
  | arrangementAddApply (req : Nat)
  /-- Step `BARREL_ISSUE`, R23. -/
  | barrelIssue (core : Nat)
  /-- Step `MLOAD_COMPLETE`, R305. -/
  | mloadComplete (rect : Nat)
  /-- Step `POSTED_RECEIVE_EXPIRY`, R361. -/
  | postedReceiveExpiry (core slot : Nat)
  /-- Step `REGISTERS_WINDOW_READ`, R376. -/
  | registersWindowRead (addr : Nat)
  deriving DecidableEq, Repr

end Sys2Proof
end

