-- ==== Sys2Proof/WellFormed.lean ====
section
/-!
DEFINITION. When an instruction is well formed: every field inside the range its description gives (R59, R62 and the
range sentences of the instruction chapters). A head whose instruction is not well formed raises illegal opcode (R64).
Reserved fields have no place in the syntax; the decoder refuses them.
-/
namespace Sys2Proof

/-- A register group of class V or of four words: a multiple of 4 from 4 to 24 (R59, R358). -/
def isGroup (r : Reg) : Bool := r.val % 4 == 0 && 4 <= r.val && r.val <= 24
/-- A vector operand: a group in register mode, any register in handle mode (R59). -/
def grp (th : Bool) (r : Reg) : Bool := th || isGroup r
/-- The even register fields of `ldp` and `stp` (R159). -/
def evenReg (r : Reg) : Bool := r.val % 2 == 0 && 2 <= r.val
/-- Sign extension is illegal at width d (R62). -/
def extOk (s : Bool) (mw : MemW) : Bool := !(s && decide (mw = .d))

/-- Format sets of R292, R294 and R302, by format code (R237). -/
def isInt (f : Nat) : Bool := f < 8
def isFlt (f : Nat) : Bool := 8 <= f && f <= 10
def isF8 (f : Nat) : Bool := f == 11 || f == 12
def isArith (f : Nat) : Bool := f <= 12
def isAll (f : Nat) : Bool := f <= 14
def isIntFlt (f : Nat) : Bool := f <= 10
def isFp32 (f : Nat) : Bool := f == 8
def isTopk (f : Nat) : Bool := f <= 12 && f != 3 && f != 7

/-- A format field: in the opcode's set or `inh`, and neither fp4b nor e3m5 in handle mode (R289). -/
def vecOk (set : Nat → Bool) (th : Bool) (f : Fin 16) : Bool :=
  (set f.val || f.val == 15) && !(th && (f.val == 13 || f.val == 14))
/-- The condition of `vcmp` against a format written in the head (R294). -/
def vcmpOk (f : Fin 16) (e : Fin 128) : Bool :=
  if 8 <= f.val && f.val != 15 then e.val < 8 else e.val < 10
/-- `vcvt`: source in bits 4:0 of `e`, `nsat` in bit 5, destination in `c` (R297). -/
def vcvtOk (th : Bool) (c : Fin 32) (e : Fin 128) : Bool :=
  let src := e.val % 32
  let nsat := e.val / 32 % 2 == 1
  e.val < 64 && (isAll src || src == 15) && isAll c.val && (!nsat || c.val == 11)
    && !(th && (src == 13 || c.val == 13))
/-- `vqnt`: fp32, fp16, bf16 or `inh` to fp4b (R297). -/
def vqntOk (c : Fin 32) (e : Fin 128) : Bool := (isFlt e.val || e.val == 15) && c.val == 13
/-- `vdeq`: fp4b or `inh` to fp32, fp16, bf16, e4m3 or e5m2, `nsat` only toward e4m3 (R297). -/
def vdeqOk (c : Fin 32) (e : Fin 128) : Bool :=
  let nsat := e.val / 32 % 2 == 1
  e.val < 64 && (e.val % 32 == 13 || e.val % 32 == 15) && 8 <= c.val && c.val <= 12 && (!nsat || c.val == 11)
/-- The format of `vround`: any but fp4b and e3m5 (R298). -/
def roundFmt (c : Fin 32) : Bool := isArith c.val || c.val == 15
/-- `mmul` flags: rows 1 to 64, reserved bits zero (R228). -/
def mmulOk (imm : BitVec 32) : Bool :=
  let v := imm.toNat
  1 <= v % 128 && v % 128 <= 64 && v / 128 % 512 == 0 && v / 2 ^ 21 == 0

/-- Every field in the range of its opcode's description; a step of another agent has no encoding to judge. -/
def wellFormed (i : Instr) : Bool :=
  match i with
  | .nop => true
  | .br _ _ => true
  | .brc e _ _ _ _ => e.val < 10
  | .brr _ => true
  | .call _ _ _ => true
  | .ret _ => true
  | .loop d _ _ => d.val != 0
  | .halt => true
  | .pause => true
  | .emit _ => true
  | .emitv _ _ => true
  | .pres _ _ => true
  | .cede _ => true
  | .claim _ _ => true
  | .unclaim _ => true
  | .sigvCur _ _ => true
  | .sigvPrev _ _ => true
  | .abortw _ _ _ => true
  | .suspw _ => true
  | .endw => true
  | .fork _ _ _ => true
  | .join => true
  | .instNum _ => true
  | .instSeed _ => true
  | .instNsig _ => true
  | .trig _ => true
  | .gangWait => true
  | .gangOn _ => true
  | .gangOff => true
  | .add _ _ _ _ => true
  | .sub _ _ _ _ => true
  | .addi _ _ _ => true
  | .mul _ _ _ _ => true
  | .mulh _ _ _ _ _ => true
  | .div _ _ _ _ _ => true
  | .rem _ _ _ _ _ => true
  | .min _ _ _ _ _ => true
  | .max _ _ _ _ _ => true
  | .abs _ _ _ => true
  | .and _ _ _ => true
  | .or _ _ _ => true
  | .xor _ _ _ => true
  | .andn _ _ _ => true
  | .orn _ _ _ => true
  | .shl _ _ _ _ => true
  | .shlImm _ _ _ _ => true
  | .shr _ _ _ _ => true
  | .shrImm _ _ _ _ => true
  | .sar _ _ _ _ => true
  | .sarImm _ _ _ _ => true
  | .rol _ _ _ _ => true
  | .rolImm _ _ _ _ => true
  | .clz _ _ => true
  | .ctz _ _ => true
  | .popc _ _ => true
  | .brev _ _ => true
  | .bfx _ _ pos e c => 1 <= e.val && e.val <= 64 && pos.val + e.val <= 64 && c.val <= 1
  | .bfi _ _ pos e => 1 <= e.val && e.val <= 64 && pos.val + e.val <= 64
  | .cmp _ _ _ cc => cc.val < 10
  | .cmpi _ _ cc _ => cc.val < 10
  | .sel _ _ _ _ => true
  | .movi _ _ => true
  | .moviZx _ _ => true
  | .moviHi _ _ => true
  | .mov _ _ => true
  | .movFromSpecial _ n => 2 <= n.val && n.val <= 9
  | .mrcvRead _ => true
  | .msndWrite n _ => n.val == 0 || (2 <= n.val && n.val <= 9)
  | .movFromPred _ _ => true
  | .movToPred _ _ => true
  | .plog _ _ pb op => op.val < 5 || (op.val == 5 && pb.val == 0)
  | .lea _ _ _ sh _ => sh.val < 4
  | .mad _ _ _ _ _ => true
  | .sext _ _ _ => true
  | .zext _ _ _ => true
  | .cvti _ _ op => op.val < 6
  | .fadd _ _ _ rm => rm.val < 5
  | .fmul _ _ _ rm => rm.val < 5
  | .ffma _ _ _ _ rm => rm.val < 5
  | .fcmp _ _ _ cc => cc.val < 8
  | .ld _ _ s mw _ => extOk s mw
  | .st _ _ _ _ _ => true
  | .ldfe _ _ _ s mw _ => extOk s mw
  | .stef _ _ _ _ _ _ => true
  | .ldff _ _ _ s mw _ => extOk s mw
  | .stff _ _ _ _ _ _ => true
  | .fesetFull _ _ => true
  | .fesetEmpty _ _ => true
  | .feqry _ _ _ => true
  | .ldp d _ _ => evenReg d
  | .stp _ b _ => evenReg b
  | .ldc _ _ _ s mw _ => extOk s mw
  | .upd _ _ fn _ => fn.val < 16
  | .updr _ _ _ _ fn _ => fn.val < 16
  | .updcfgLd _ _ _ imm => imm.toNat < 16
  | .updcfgSt _ _ imm => imm.toNat < 16
  | .updcfgClr _ _ imm => imm.toNat < 16
  | .cas _ _ _ _ _ s mw => extOk s mw
  | .lrw _ _ _ _ s mw => extOk s mw
  | .sch _ _ _ _ _ => true
  | .rsvx _ => true
  | .fenceCore => true
  | .fence _ => true
  | .fenceDrn sc => 2 <= sc.val
  | .lda _ _ _ s mw _ => extOk s mw
  | .stl _ _ _ _ _ _ => true
  | .barNetwork _ _ _ _ _ => true
  | .barDrain _ a _ _ _ _ => a.val != 0
  | .barObject _ a _ => a.val != 0
  | .barinit _ _ _ e _ => e.val < 2
  | .migr _ _ => true
  | .swap _ _ _ _ s mw => extOk s mw
  | .stm _ b _ op _ => 1 <= op.val && op.val <= 4 && b.val + op.val <= 32
  | .fetchadd _ _ _ _ s mw => extOk s mw
  | .fetchaddImm _ _ _ _ s mw _ => extOk s mw
  | .zfill _ op _ => op.val < 3
  | .wregHold _ _ => true
  | .wregFe _ _ => true
  | .wunreg _ _ => true
  | .wwait _ _ => true
  | .wsig _ _ => true
  | .prioSet _ _ => true
  | .prioMax _ => true
  | .trapNothing _ imm => imm != 1 && imm != 2 && imm != 3
  | .trapTime _ => true
  | .trapUserAbort _ => true
  | .trapPostFaultQueue _ => true
  | .rft => true
  | .srr _ e c => e.val < 13 && (c.val == 0 || 16 <= c.val)
  | .srw _ e c => e.val < 13 && e.val != 4 && (c.val == 0 || 16 <= c.val)
  | .srwEbud _ c => c.val == 0 || 16 <= c.val
  | .tlbiAll => true
  | .tlbiPage _ => true
  | .tlbiAsid _ => true
  | .monSel _ c _ => c.val < 4
  | .monEdge c _ => c.val < 4
  | .monRd _ c _ => c.val < 4
  | .monOff c => c.val < 4
  | .wdarm _ _ => true
  | .vadd d a b th fmt => vecOk isArith th fmt && grp th d && grp th a && grp th b
  | .vsub d a b th fmt => vecOk isArith th fmt && grp th d && grp th a && grp th b
  | .vmul d a b th fmt => vecOk isArith th fmt && grp th d && grp th a && grp th b
  | .vfma d a b c th fmt => vecOk isArith th fmt && grp th d && grp th a && grp th b && grp th c
  | .vdiv d a b th fmt => vecOk isArith th fmt && grp th d && grp th a && grp th b
  | .vmin d a b th fmt => vecOk isArith th fmt && grp th d && grp th a && grp th b
  | .vmax d a b th fmt => vecOk isArith th fmt && grp th d && grp th a && grp th b
  | .vabs d a th fmt => vecOk isArith th fmt && grp th d && grp th a
  | .vneg d a th fmt => vecOk isArith th fmt && grp th d && grp th a
  | .vcmp d a b e th fmt => vecOk isArith th fmt && grp th d && grp th a && grp th b && vcmpOk fmt e
  | .vsel d a b c th fmt => vecOk isAll th fmt && grp th d && grp th a && grp th b && grp th c
  | .vand d a b th fmt => vecOk isAll th fmt && grp th d && grp th a && grp th b
  | .vor d a b th fmt => vecOk isAll th fmt && grp th d && grp th a && grp th b
  | .vxor d a b th fmt => vecOk isAll th fmt && grp th d && grp th a && grp th b
  | .vshl d a b th fmt => vecOk isInt th fmt && grp th d && grp th a && grp th b
  | .vshr d a b th fmt => vecOk isInt th fmt && grp th d && grp th a && grp th b
  | .vsar d a b th fmt => vecOk isInt th fmt && grp th d && grp th a && grp th b
  | .vexp d a th fmt => vecOk isFlt th fmt && grp th d && grp th a
  | .vexp2 d a th fmt => vecOk isFlt th fmt && grp th d && grp th a
  | .vlog d a th fmt => vecOk isFlt th fmt && grp th d && grp th a
  | .vrcp d a th fmt => vecOk isFlt th fmt && grp th d && grp th a
  | .vrsq d a th fmt => vecOk isFlt th fmt && grp th d && grp th a
  | .vsqrt d a th fmt => vecOk isFlt th fmt && grp th d && grp th a
  | .vtanh d a th fmt => vecOk isFlt th fmt && grp th d && grp th a
  | .vsgm d a th fmt => vecOk isFlt th fmt && grp th d && grp th a
  | .vsilu d a th fmt => vecOk isFlt th fmt && grp th d && grp th a
  | .vcvt d a c e th rm => grp th d && grp th a && rm.val < 5 && vcvtOk th c e
  | .vqnt d a b c e th rm => grp th d && grp th a && rm.val < 5 && vqntOk c e && (!th || b.val == 0)
  | .vdeq d a b c e th rm => grp th d && grp th a && rm.val < 5 && vdeqOk c e && (!th || b.val == 0)
  | .vscl d a _ fmt => vecOk isFlt false fmt && grp false d && grp false a
  | .vfill d _ th fmt => vecOk isAll th fmt && grp th d
  | .vcpy d a th fmt => vecOk isAll th fmt && grp th d && grp th a
  | .vbcast d a _ fmt => vecOk isAll false fmt && grp false d && grp false a
  | .vperm d a b c fmt => vecOk isAll false fmt && grp false d && grp false a && grp false b && grp false c
  | .vclamp d a b c th fmt => vecOk isArith th fmt && grp th d && grp th a && grp th b && grp th c
  | .vround d a c th rm => grp th d && grp th a && rm.val < 5 && roundFmt c
  | .vdot _ a b th fmt => vecOk isArith th fmt && grp th a && grp th b
  | .vlerp d a b c th fmt => vecOk isFlt th fmt && grp th d && grp th a && grp th b && grp th c
  | .vnorm d a _ th fmt => vecOk isFlt th fmt && grp th d && grp th a
  | .vmask d _ _ th fmt => vecOk isAll th fmt && grp th d
  | .vsum _ a th fmt => vecOk isArith th fmt && grp th a
  | .vrmax _ a th fmt => vecOk isArith th fmt && grp th a
  | .vrmin _ a th fmt => vecOk isArith th fmt && grp th a
  | .vscan d a th fmt => vecOk isArith th fmt && grp th d && grp th a
  | .vtopk _ _ _ e th fmt => vecOk isTopk th fmt && th && 1 <= e.val && e.val <= 64
  | .vmrgkLocal _ _ b e fmt => vecOk isTopk false fmt && b.val != 0 && 1 <= e.val && e.val <= 64
  | .vmrgkBank _ _ e fmt => vecOk isTopk false fmt && 1 <= e.val && e.val <= 64
  | .vsmx _ a th fmt => vecOk isFlt th fmt && grp th a
  | .vsmn d a _ th fmt => vecOk isFlt th fmt && grp th d && grp th a
  | .vsamp _ a _ fmt => vecOk isFp32 false fmt && grp false a
  | .rng _ a b => a.val != 0 || b.val == 0
  | .vrng d a b th fmt => vecOk isIntFlt th fmt && grp th d && (a.val != 0 || b.val == 0)
  | .vcnt _ a th fmt => vecOk isAll th fmt && grp th a
  | .mload _ _ op e => op.val < 8 && e.val < 16
  | .mmul _ _ op imm => op.val < 16 && mmulOk imm
  | .mcfgMask _ _ _ _ e => e.val <= 64
  | .mcfgCancel _ => true
  | .maccClr _ _ => true
  | .maccScl _ _ _ => true
  | .mstat d => 1 <= d.val && d.val <= 29
  | .thdef _ _ _ c op => op.val < 5 && (op.val == 2 || c.val == 0)
  | .thld d _ _ c th fmt => vecOk isAll true fmt && (if th then c.val == 0 else grp false d)
  | .thst d _ _ c th fmt => vecOk isAll true fmt && (if th then c.val == 0 else grp false d)
  | .thaddr _ _ _ _ => true
  | .relay _ _ _ _ e => e.val < 7
  | .thqry _ _ op => op.val < 3
  | .thsync _ _ => true
  | .send _ b op => op.val < 8 && (if op.val == 0 then b.val == 0 else 1 <= b.val && b.val + op.val <= 32)
  | .recvWait d => 1 <= d.val && d.val <= 24
  | .recvPoll d _ => 1 <= d.val && d.val <= 24
  | .cont _ a => a.val != 0
  | .waitr _ => true
  | .cpyq _ a => isGroup a
  | .cpyqw _ a => isGroup a
  | .gath _ a _ => isGroup a
  | .scat _ a _ => isGroup a
  | .mbox _ _ => true
  | .waitm _ => true
  | .uisetOff _ => true
  | .uisetOn _ => true
  | .rspawn _ _ b _ _ => isGroup b
  | .spawn _ a b _ _ => isGroup b && a.val != 0
  | .fjoin _ _ b => b.val != 0
  | .fjoinSync _ _ => true
  | .qmapSet d a => d.val < 28 && a.val < 28
  | .qmapOff d => d.val < 28
  | .iqdefNew _ _ _ _ => true
  | .iqdefDel _ _ => true
  | .iqpush _ _ b => isGroup b
  | .iqpop d _ _ => isGroup d
  | .iqcons _ _ => true
  | .arrget _ _ _ _ => true
  | .arradd _ _ _ => true
  | .iqbind _ _ b e => e.val < 4 && (e.val / 2 % 2 == 1 || b.val == 0)
  | .iqstat _ _ => true
  | .pktBeg _ _ => true
  | .pktEnd => true
  | .pktDisp _ _ _ => true
  | .commandSubmission _ _ _ => true
  | .attach _ _ => true
  | .reAttach _ _ => true
  | .load _ _ => true
  | .launch _ _ => true
  | .emitInput _ _ => true
  | .readOutputs _ _ => true
  | .suspend _ _ => true
  | .resume _ _ => true
  | .abort _ _ => true
  | .endStatus _ _ => true
  | .faultAnswer _ _ => true
  | .healthRead _ _ => true
  | .setFaultQueue _ _ => true
  | .tenantCreate _ _ => true
  | .tenantTeardown _ _ => true
  | .setRoots _ _ => true
  | .setRates _ _ => true
  | .setFabric _ _ => true
  | .setKeys _ _ => true
  | .attest _ _ => true
  | .completionRecord _ _ => true
  | .consumedCountPoll _ _ _ => true
  | .hostPostedWrite _ _ => true
  | .packageReset => true
  | .lull _ => true
  | .energyRefill _ => true
  | .watchdogFiring _ => true
  | .cedeApply _ => true
  | .replyArrival _ => true
  | .homeAccess _ => true
  | .feRetryResend _ => true
  | .bankUpdateArrival _ => true
  | .drain _ => true
  | .backgroundChecker _ => true
  | .walkCrossing _ => true
  | .deferredFaultReport _ => true
  | .supervisorTrapService _ => true
  | .pageWalkComplete _ => true
  | .walkFifoRetry _ => true
  | .copyStart _ => true
  | .copyCompletion _ => true
  | .streamerCompletion _ => true
  | .userLevelInterrupt _ => true
  | .messageArrival _ => true
  | .continuationArrival _ => true
  | .messageResend _ => true
  | .flitRoute _ _ => true
  | .packetUrgent _ => true
  | .driftWindow _ => true
  | .bucketAdmit _ => true
  | .stealAttempt _ => true
  | .postBufferDrain _ => true
  | .iqSpillRefill _ => true
  | .granuleMove _ => true
  | .conversionComplete _ => true
  | .conversionStop _ => true
  | .mmulComplete _ _ => true
  | .sequencerStop _ => true
  | .patrolScrub _ => true
  | .linkFlitError _ => true
  | .machineCheck _ => true
  | .packageLoss _ => true
  | .thermalAlarm _ _ => true
  | .monitorSample _ _ _ => true
  | .arrangementAddApply _ => true
  | .barrelIssue _ => true
  | .mloadComplete _ => true
  | .postedReceiveExpiry _ _ => true
  | .registersWindowRead _ => true

end Sys2Proof
end

