-- ==== Sys2Proof/Decode.lean ====
section
/-!
DEFINITION. Lines, heads and tails (R52 to R57), the decoder of a head with its tail and, after it, the encoder written
from the same tables (R63). Decoding is total: `none` is R64's illegal opcode. `decodeTableWord` numbers bits as
spec/opcode_table.json does: the head in bits 31:16 and T1 in bits 15:0 of a 32-bit row.
-/
namespace Sys2Proof

/-- The fields of a head and its tail, as numbers (R53, R54). -/
structure RawOp where
  op : Nat := 0
  tl : Nat := 0
  bp : Nat := 0
  d : Nat := 0
  a : Nat := 0
  b : Nat := 0
  m : Nat := 0
  p : Nat := 0
  pn : Nat := 0
  c : Nat := 0
  e : Nat := 0
  imm : Nat := 0
  deriving DecidableEq, Repr

/-- A decoded head: its instruction, tail format, bundle bit and predicate (R53, R58). -/
structure Op where
  instr : Instr
  tl : Nat
  bp : Bool
  p : PReg
  pn : Bool
  deriving DecidableEq, Repr

/-- Bit `k` of a field. -/
def bit (x k : Nat) : Bool := x / 2 ^ k % 2 == 1
def reg (n : Nat) : Reg := Fin.ofNat 32 n
def preg (n : Nat) : PReg := Fin.ofNat 8 n

/-- Codes of the m kinds `el` and `mw` (R62). -/
def ElW.code : ElW → Nat
  | .e64 => 0 | .e32 => 1 | .e16 => 2 | .e8 => 3
def ElW.ofCode (m : Nat) : ElW :=
  match m % 4 with | 0 => .e64 | 1 => .e32 | 2 => .e16 | _ => .e8
def MemW.code : MemW → Nat
  | .b => 0 | .h => 1 | .w => 2 | .d => 3
def MemW.ofCode (m : Nat) : MemW :=
  match m % 4 with | 0 => .b | 1 => .h | 2 => .w | _ => .d

/-- The fields of a signal operand (R59, R90). -/
def SigOp.m : SigOp → Nat
  | .imm _ => 0 | .ind _ => 1
def SigOp.b : SigOp → Nat
  | .imm _ => 0 | .ind r => r.val
def SigOp.c : SigOp → Nat
  | .imm n => n.val / 128 | .ind _ => 0
def SigOp.e : SigOp → Nat
  | .imm n => n.val % 128 | .ind _ => 0
def SigOp.ofFields (r : RawOp) : SigOp :=
  if bit r.m 0 then .ind (reg r.b) else .imm (Fin.ofNat 4096 (128 * r.c + r.e))

/-- The fields an instruction is encoded with; every field it does not name is zero (R59). None for a step of another agent. -/
def fieldsOf (i : Instr) : Option RawOp :=
  match i with
  | .nop => some { op := 0x00 }
  | .br slot imm => some { op := 0x01, imm := imm.toNat, m := slot.val }
  | .brc e a b slot imm => some { op := 0x02, a := a.val, b := b.val, e := e.val, imm := imm.toNat, m := slot.val }
  | .brr a => some { op := 0x03, a := a.val }
  | .call d slot imm => some { op := 0x04, d := d.val, imm := imm.toNat, m := slot.val }
  | .ret a => some { op := 0x05, a := a.val }
  | .loop d slot imm => some { op := 0x06, d := d.val, imm := imm.toNat, m := slot.val }
  | .halt => some { op := 0x07 }
  | .pause => some { op := 0x08 }
  | .emit sig => some { op := 0x09, b := sig.b, c := sig.c, e := sig.e, m := sig.m }
  | .emitv a sig => some { op := 0x0A, a := a.val, b := sig.b, c := sig.c, e := sig.e, m := sig.m }
  | .pres pd sig => some { op := 0x0B, b := sig.b, c := sig.c, d := pd.val, e := sig.e, m := sig.m }
  | .cede sig => some { op := 0x0C, b := sig.b, c := sig.c, e := sig.e, m := sig.m }
  | .claim d sig => some { op := 0x0D, b := sig.b, c := sig.c, d := d.val, e := sig.e, m := sig.m }
  | .unclaim sig => some { op := 0x0E, b := sig.b, c := sig.c, e := sig.e, m := sig.m }
  | .sigvCur d sig => some { op := 0x0F, b := sig.b, c := sig.c, d := d.val, e := sig.e, m := sig.m }
  | .sigvPrev d sig => some { op := 0x0F, b := sig.b, c := sig.c, d := d.val, e := sig.e, m := 2 + sig.m }
  | .abortw sn slot imm => some { op := 0x10, c := sn.val / 128, e := sn.val % 128, imm := imm.toNat, m := slot.val }
  | .suspw sig => some { op := 0x11, b := sig.b, c := sig.c, e := sig.e, m := sig.m }
  | .endw => some { op := 0x12 }
  | .fork d slot imm => some { op := 0x13, d := d.val, imm := imm.toNat, m := slot.val }
  | .join => some { op := 0x14 }
  | .instNum d => some { op := 0x15, d := d.val }
  | .instSeed d => some { op := 0x15, d := d.val, m := 1 }
  | .instNsig d => some { op := 0x15, d := d.val, m := 2 }
  | .trig sc => some { op := 0x16, m := sc.val }
  | .gangWait => some { op := 0x17 }
  | .gangOn d => some { op := 0x17, d := d.val, m := 1 }
  | .gangOff => some { op := 0x17, m := 2 }
  | .add d a b w => some { op := 0x18, a := a.val, b := b.val, d := d.val, m := w.code }
  | .sub d a b w => some { op := 0x19, a := a.val, b := b.val, d := d.val, m := w.code }
  | .addi d a imm => some { op := 0x1A, a := a.val, d := d.val, imm := imm.toNat }
  | .mul d a b w => some { op := 0x1B, a := a.val, b := b.val, d := d.val, m := w.code }
  | .mulh d a b u w => some { op := 0x1C, a := a.val, b := b.val, d := d.val, m := 4 * u.toNat + w.code }
  | .div d a b u w => some { op := 0x1D, a := a.val, b := b.val, d := d.val, m := 4 * u.toNat + w.code }
  | .rem d a b u w => some { op := 0x1E, a := a.val, b := b.val, d := d.val, m := 4 * u.toNat + w.code }
  | .min d a b u w => some { op := 0x1F, a := a.val, b := b.val, d := d.val, m := 4 * u.toNat + w.code }
  | .max d a b u w => some { op := 0x20, a := a.val, b := b.val, d := d.val, m := 4 * u.toNat + w.code }
  | .abs d a w => some { op := 0x21, a := a.val, d := d.val, m := w.code }
  | .and d a b => some { op := 0x22, a := a.val, b := b.val, d := d.val }
  | .or d a b => some { op := 0x23, a := a.val, b := b.val, d := d.val }
  | .xor d a b => some { op := 0x24, a := a.val, b := b.val, d := d.val }
  | .andn d a b => some { op := 0x25, a := a.val, b := b.val, d := d.val }
  | .orn d a b => some { op := 0x26, a := a.val, b := b.val, d := d.val }
  | .shl d a b w => some { op := 0x27, a := a.val, b := b.val, d := d.val, m := w.code }
  | .shlImm d a w imm => some { op := 0x27, a := a.val, d := d.val, imm := imm.toNat, m := w.code }
  | .shr d a b w => some { op := 0x28, a := a.val, b := b.val, d := d.val, m := w.code }
  | .shrImm d a w imm => some { op := 0x28, a := a.val, d := d.val, imm := imm.toNat, m := w.code }
  | .sar d a b w => some { op := 0x29, a := a.val, b := b.val, d := d.val, m := w.code }
  | .sarImm d a w imm => some { op := 0x29, a := a.val, d := d.val, imm := imm.toNat, m := w.code }
  | .rol d a b w => some { op := 0x2A, a := a.val, b := b.val, d := d.val, m := w.code }
  | .rolImm d a w imm => some { op := 0x2A, a := a.val, d := d.val, imm := imm.toNat, m := w.code }
  | .clz d a => some { op := 0x2B, a := a.val, d := d.val }
  | .ctz d a => some { op := 0x2C, a := a.val, d := d.val }
  | .popc d a => some { op := 0x2D, a := a.val, d := d.val }
  | .brev d a => some { op := 0x2E, a := a.val, d := d.val }
  | .bfx d a pos e c => some { op := 0x2F, a := a.val, c := c.val, d := d.val, e := e.val, m := pos.val }
  | .bfi d a pos e => some { op := 0x30, a := a.val, d := d.val, e := e.val, m := pos.val }
  | .cmp pd a b cc => some { op := 0x31, a := a.val, b := b.val, d := pd.val, m := cc.val }
  | .cmpi pd a cc imm => some { op := 0x32, a := a.val, d := pd.val, imm := imm.toNat, m := cc.val }
  | .sel d pc a b => some { op := 0x33, a := a.val, b := b.val, c := pc.val, d := d.val }
  | .movi d imm => some { op := 0x34, d := d.val, imm := imm.toNat }
  | .moviZx d imm => some { op := 0x34, d := d.val, imm := imm.toNat, m := 1 }
  | .moviHi d imm => some { op := 0x34, d := d.val, imm := imm.toNat, m := 2 }
  | .mov d a => some { op := 0x35, a := a.val, d := d.val }
  | .movFromSpecial d n => some { op := 0x35, b := n.val, d := d.val, m := 1 }
  | .mrcvRead d => some { op := 0x35, b := 1, d := d.val, m := 1 }
  | .msndWrite n a => some { op := 0x35, a := a.val, d := n.val, m := 2 }
  | .movFromPred d pa => some { op := 0x35, a := pa.val, d := d.val, m := 3 }
  | .movToPred pd a => some { op := 0x35, a := a.val, d := pd.val, m := 4 }
  | .plog pd pa pb op => some { op := 0x36, a := pa.val, b := pb.val, d := pd.val, m := op.val }
  | .lea d a b sh imm => some { op := 0x37, a := a.val, b := b.val, d := d.val, imm := imm.toNat, m := sh.val }
  | .mad d a b c w => some { op := 0x38, a := a.val, b := b.val, c := c.val, d := d.val, m := w.code }
  | .sext d a w => some { op := 0x39, a := a.val, d := d.val, m := w.code }
  | .zext d a w => some { op := 0x3A, a := a.val, d := d.val, m := w.code }
  | .cvti d a op => some { op := 0x3B, a := a.val, d := d.val, m := op.val }
  | .fadd d a b rm => some { op := 0x3C, a := a.val, b := b.val, d := d.val, m := rm.val }
  | .fmul d a b rm => some { op := 0x3D, a := a.val, b := b.val, d := d.val, m := rm.val }
  | .ffma d a b c rm => some { op := 0x3E, a := a.val, b := b.val, c := c.val, d := d.val, m := rm.val }
  | .fcmp pd a b cc => some { op := 0x3F, a := a.val, b := b.val, d := pd.val, m := cc.val }
  | .ld d a s mw imm => some { op := 0x40, a := a.val, d := d.val, imm := imm.toNat, m := 4 * s.toNat + mw.code }
  | .st a b mw e imm => some { op := 0x41, a := a.val, b := b.val, e := e.val, imm := imm.toNat, m := mw.code }
  | .ldfe d a sc s mw imm => some { op := 0x42, a := a.val, d := d.val, imm := imm.toNat, m := 8 * sc.val + 4 * s.toNat + mw.code }
  | .stef a b sc mw e imm => some { op := 0x43, a := a.val, b := b.val, e := e.val, imm := imm.toNat, m := 8 * sc.val + mw.code }
  | .ldff d a sc s mw imm => some { op := 0x44, a := a.val, d := d.val, imm := imm.toNat, m := 8 * sc.val + 4 * s.toNat + mw.code }
  | .stff a b sc mw e imm => some { op := 0x45, a := a.val, b := b.val, e := e.val, imm := imm.toNat, m := 8 * sc.val + mw.code }
  | .fesetFull a imm => some { op := 0x46, a := a.val, imm := imm.toNat }
  | .fesetEmpty a imm => some { op := 0x46, a := a.val, imm := imm.toNat, m := 1 }
  | .feqry d a imm => some { op := 0x47, a := a.val, d := d.val, imm := imm.toNat }
  | .ldp d a imm => some { op := 0x48, a := a.val, d := d.val, imm := imm.toNat }
  | .stp a b imm => some { op := 0x49, a := a.val, b := b.val, imm := imm.toNat }
  | .ldc d a c s mw imm => some { op := 0x4A, a := a.val, c := c.val, d := d.val, imm := imm.toNat, m := 4 * s.toNat + mw.code }
  | .upd a b fn imm => some { op := 0x4B, a := a.val, b := b.val, imm := imm.toNat, m := fn.val }
  | .updr d pc a b fn imm => some { op := 0x4C, a := a.val, b := b.val, c := pc.val, d := d.val, imm := imm.toNat, m := fn.val }
  | .updcfgLd d a b imm => some { op := 0x4D, a := a.val, b := b.val, d := d.val, imm := imm.toNat }
  | .updcfgSt d b imm => some { op := 0x4D, b := b.val, d := d.val, imm := imm.toNat, m := 1 }
  | .updcfgClr d b imm => some { op := 0x4D, b := b.val, d := d.val, imm := imm.toNat, m := 2 }
  | .cas d a b c sc s mw => some { op := 0x4E, a := a.val, b := b.val, c := c.val, d := d.val, m := 8 * sc.val + 4 * s.toNat + mw.code }
  | .lrw d pb a sc s mw => some { op := 0x4F, a := a.val, b := pb.val, d := d.val, m := 8 * sc.val + 4 * s.toNat + mw.code }
  | .sch pd a b sc mw => some { op := 0x50, a := a.val, b := b.val, d := pd.val, m := 8 * sc.val + mw.code }
  | .rsvx a => some { op := 0x51, a := a.val }
  | .fenceCore => some { op := 0x52 }
  | .fence sc => some { op := 0x52, m := sc.val }
  | .fenceDrn sc => some { op := 0x52, m := 8 + sc.val }
  | .lda d a sc s mw imm => some { op := 0x53, a := a.val, d := d.val, imm := imm.toNat, m := 8 * sc.val + 4 * s.toNat + mw.code }
  | .stl a b sc mw e imm => some { op := 0x54, a := a.val, b := b.val, e := e.val, imm := imm.toNat, m := 8 * sc.val + mw.code }
  | .barNetwork d b c red sc => some { op := 0x55, b := b.val, c := c.val, d := d.val, m := 16 * red.val + sc.val }
  | .barDrain d a b c red sc => some { op := 0x55, a := a.val, b := b.val, c := c.val, d := d.val, m := 8 + 16 * red.val + sc.val }
  | .barObject d a sc => some { op := 0x55, a := a.val, d := d.val, m := sc.val }
  | .barinit d a b e sc => some { op := 0x56, a := a.val, b := b.val, d := d.val, e := e.val, m := sc.val }
  | .migr d a => some { op := 0x57, a := a.val, d := d.val }
  | .swap d a b sc s mw => some { op := 0x58, a := a.val, b := b.val, d := d.val, m := 8 * sc.val + 4 * s.toNat + mw.code }
  | .stm a b c op imm => some { op := 0x59, a := a.val, b := b.val, c := c.val, imm := imm.toNat, m := op.val }
  | .fetchadd d a b sc s mw => some { op := 0x5A, a := a.val, b := b.val, d := d.val, m := 8 * sc.val + 4 * s.toNat + mw.code }
  | .fetchaddImm d a b sc s mw imm => some { op := 0x5A, a := a.val, b := b.val, d := d.val, imm := imm.toNat, m := 8 * sc.val + 4 * s.toNat + mw.code }
  | .zfill a op imm => some { op := 0x5B, a := a.val, imm := imm.toNat, m := op.val }
  | .wregHold d a => some { op := 0x5C, a := a.val, d := d.val }
  | .wregFe d a => some { op := 0x5C, a := a.val, d := d.val, m := 1 }
  | .wunreg d a => some { op := 0x5D, a := a.val, d := d.val }
  | .wwait d a => some { op := 0x5E, a := a.val, d := d.val }
  | .wsig d a => some { op := 0x5F, a := a.val, d := d.val }
  | .prioSet d a => some { op := 0x60, a := a.val, d := d.val }
  | .prioMax d => some { op := 0x60, d := d.val, m := 1 }
  | .trapNothing d imm => some { op := 0x61, d := d.val, imm := imm.toNat }
  | .trapTime d => some { op := 0x61, d := d.val, imm := 1 }
  | .trapUserAbort d => some { op := 0x61, d := d.val, imm := 2 }
  | .trapPostFaultQueue d => some { op := 0x61, d := d.val, imm := 3 }
  | .rft => some { op := 0x62 }
  | .srr d e c => some { op := 0x63, c := c.val, d := d.val, e := e.val }
  | .srw a e c => some { op := 0x64, a := a.val, c := c.val, e := e.val }
  | .srwEbud a c => some { op := 0x64, a := a.val, c := c.val, e := 4 }
  | .tlbiAll => some { op := 0x65 }
  | .tlbiPage a => some { op := 0x65, a := a.val, m := 1 }
  | .tlbiAsid a => some { op := 0x65, a := a.val, m := 2 }
  | .monSel d c a => some { op := 0x66, a := a.val, c := c.val, d := d.val }
  | .monEdge c a => some { op := 0x66, a := a.val, c := c.val, m := 1 }
  | .monRd d c b => some { op := 0x66, b := b.val, c := c.val, d := d.val, m := 2 }
  | .monOff c => some { op := 0x66, c := c.val, m := 3 }
  | .wdarm d a => some { op := 0x67, a := a.val, d := d.val }
  | .vadd d a b th fmt => some { op := 0x68, a := a.val, b := b.val, d := d.val, m := 16 * th.toNat + fmt.val }
  | .vsub d a b th fmt => some { op := 0x69, a := a.val, b := b.val, d := d.val, m := 16 * th.toNat + fmt.val }
  | .vmul d a b th fmt => some { op := 0x6A, a := a.val, b := b.val, d := d.val, m := 16 * th.toNat + fmt.val }
  | .vfma d a b c th fmt => some { op := 0x6B, a := a.val, b := b.val, c := c.val, d := d.val, m := 16 * th.toNat + fmt.val }
  | .vdiv d a b th fmt => some { op := 0x6C, a := a.val, b := b.val, d := d.val, m := 16 * th.toNat + fmt.val }
  | .vmin d a b th fmt => some { op := 0x6D, a := a.val, b := b.val, d := d.val, m := 16 * th.toNat + fmt.val }
  | .vmax d a b th fmt => some { op := 0x6E, a := a.val, b := b.val, d := d.val, m := 16 * th.toNat + fmt.val }
  | .vabs d a th fmt => some { op := 0x6F, a := a.val, d := d.val, m := 16 * th.toNat + fmt.val }
  | .vneg d a th fmt => some { op := 0x70, a := a.val, d := d.val, m := 16 * th.toNat + fmt.val }
  | .vcmp d a b e th fmt => some { op := 0x71, a := a.val, b := b.val, d := d.val, e := e.val, m := 16 * th.toNat + fmt.val }
  | .vsel d a b c th fmt => some { op := 0x72, a := a.val, b := b.val, c := c.val, d := d.val, m := 16 * th.toNat + fmt.val }
  | .vand d a b th fmt => some { op := 0x73, a := a.val, b := b.val, d := d.val, m := 16 * th.toNat + fmt.val }
  | .vor d a b th fmt => some { op := 0x74, a := a.val, b := b.val, d := d.val, m := 16 * th.toNat + fmt.val }
  | .vxor d a b th fmt => some { op := 0x75, a := a.val, b := b.val, d := d.val, m := 16 * th.toNat + fmt.val }
  | .vshl d a b th fmt => some { op := 0x76, a := a.val, b := b.val, d := d.val, m := 16 * th.toNat + fmt.val }
  | .vshr d a b th fmt => some { op := 0x77, a := a.val, b := b.val, d := d.val, m := 16 * th.toNat + fmt.val }
  | .vsar d a b th fmt => some { op := 0x78, a := a.val, b := b.val, d := d.val, m := 16 * th.toNat + fmt.val }
  | .vexp d a th fmt => some { op := 0x79, a := a.val, d := d.val, m := 16 * th.toNat + fmt.val }
  | .vexp2 d a th fmt => some { op := 0x7A, a := a.val, d := d.val, m := 16 * th.toNat + fmt.val }
  | .vlog d a th fmt => some { op := 0x7B, a := a.val, d := d.val, m := 16 * th.toNat + fmt.val }
  | .vrcp d a th fmt => some { op := 0x7C, a := a.val, d := d.val, m := 16 * th.toNat + fmt.val }
  | .vrsq d a th fmt => some { op := 0x7D, a := a.val, d := d.val, m := 16 * th.toNat + fmt.val }
  | .vsqrt d a th fmt => some { op := 0x7E, a := a.val, d := d.val, m := 16 * th.toNat + fmt.val }
  | .vtanh d a th fmt => some { op := 0x7F, a := a.val, d := d.val, m := 16 * th.toNat + fmt.val }
  | .vsgm d a th fmt => some { op := 0x80, a := a.val, d := d.val, m := 16 * th.toNat + fmt.val }
  | .vsilu d a th fmt => some { op := 0x81, a := a.val, d := d.val, m := 16 * th.toNat + fmt.val }
  | .vcvt d a c e th rm => some { op := 0x82, a := a.val, c := c.val, d := d.val, e := e.val, m := 8 * th.toNat + rm.val }
  | .vqnt d a b c e th rm => some { op := 0x83, a := a.val, b := b.val, c := c.val, d := d.val, e := e.val, m := 8 * th.toNat + rm.val }
  | .vdeq d a b c e th rm => some { op := 0x84, a := a.val, b := b.val, c := c.val, d := d.val, e := e.val, m := 8 * th.toNat + rm.val }
  | .vscl d a b fmt => some { op := 0x85, a := a.val, b := b.val, d := d.val, m := fmt.val }
  | .vfill d a th fmt => some { op := 0x86, a := a.val, d := d.val, m := 16 * th.toNat + fmt.val }
  | .vcpy d a th fmt => some { op := 0x87, a := a.val, d := d.val, m := 16 * th.toNat + fmt.val }
  | .vbcast d a b fmt => some { op := 0x88, a := a.val, b := b.val, d := d.val, m := fmt.val }
  | .vperm d a b c fmt => some { op := 0x89, a := a.val, b := b.val, c := c.val, d := d.val, m := fmt.val }
  | .vclamp d a b c th fmt => some { op := 0x8A, a := a.val, b := b.val, c := c.val, d := d.val, m := 16 * th.toNat + fmt.val }
  | .vround d a c th rm => some { op := 0x8B, a := a.val, c := c.val, d := d.val, m := 8 * th.toNat + rm.val }
  | .vdot d a b th fmt => some { op := 0x8C, a := a.val, b := b.val, d := d.val, m := 16 * th.toNat + fmt.val }
  | .vlerp d a b c th fmt => some { op := 0x8D, a := a.val, b := b.val, c := c.val, d := d.val, m := 16 * th.toNat + fmt.val }
  | .vnorm d a b th fmt => some { op := 0x8E, a := a.val, b := b.val, d := d.val, m := 16 * th.toNat + fmt.val }
  | .vmask d a b th fmt => some { op := 0x8F, a := a.val, b := b.val, d := d.val, m := 16 * th.toNat + fmt.val }
  | .vsum d a th fmt => some { op := 0x90, a := a.val, d := d.val, m := 16 * th.toNat + fmt.val }
  | .vrmax d a th fmt => some { op := 0x91, a := a.val, d := d.val, m := 16 * th.toNat + fmt.val }
  | .vrmin d a th fmt => some { op := 0x92, a := a.val, d := d.val, m := 16 * th.toNat + fmt.val }
  | .vscan d a th fmt => some { op := 0x93, a := a.val, d := d.val, m := 16 * th.toNat + fmt.val }
  | .vtopk d a b e th fmt => some { op := 0x94, a := a.val, b := b.val, d := d.val, e := e.val, m := 16 * th.toNat + fmt.val }
  | .vmrgkLocal d a b e fmt => some { op := 0x95, a := a.val, b := b.val, d := d.val, e := e.val, m := fmt.val }
  | .vmrgkBank d a e fmt => some { op := 0x95, a := a.val, d := d.val, e := e.val, m := fmt.val }
  | .vsmx d a th fmt => some { op := 0x96, a := a.val, d := d.val, m := 16 * th.toNat + fmt.val }
  | .vsmn d a b th fmt => some { op := 0x97, a := a.val, b := b.val, d := d.val, m := 16 * th.toNat + fmt.val }
  | .vsamp d a b fmt => some { op := 0x98, a := a.val, b := b.val, d := d.val, m := fmt.val }
  | .rng d a b => some { op := 0x99, a := a.val, b := b.val, d := d.val }
  | .vrng d a b th fmt => some { op := 0x9A, a := a.val, b := b.val, d := d.val, m := 16 * th.toNat + fmt.val }
  | .vcnt d a th fmt => some { op := 0x9B, a := a.val, d := d.val, m := 16 * th.toNat + fmt.val }
  | .mload d a op e => some { op := 0x9C, a := a.val, d := d.val, e := e.val, m := op.val }
  | .mmul d a op imm => some { op := 0x9D, a := a.val, d := d.val, imm := imm.toNat, m := op.val }
  | .mcfgMask d a b c e => some { op := 0x9E, a := a.val, b := b.val, c := c.val, d := d.val, e := e.val }
  | .mcfgCancel d => some { op := 0x9E, d := d.val, m := 1 }
  | .maccClr d a => some { op := 0x9F, a := a.val, d := d.val }
  | .maccScl d a b => some { op := 0x9F, a := a.val, b := b.val, d := d.val, m := 1 }
  | .mstat d => some { op := 0xA0, d := d.val }
  | .thdef d a b c op => some { op := 0xA1, a := a.val, b := b.val, c := c.val, d := d.val, m := op.val }
  | .thld d a b c th fmt => some { op := 0xA2, a := a.val, b := b.val, c := c.val, d := d.val, m := 16 * th.toNat + fmt.val }
  | .thst d a b c th fmt => some { op := 0xA3, a := a.val, b := b.val, c := c.val, d := d.val, m := 16 * th.toNat + fmt.val }
  | .thaddr d a b c => some { op := 0xA4, a := a.val, b := b.val, c := c.val, d := d.val }
  | .relay d a b c e => some { op := 0xA5, a := a.val, b := b.val, c := c.val, d := d.val, e := e.val }
  | .thqry d a op => some { op := 0xA6, a := a.val, d := d.val, m := op.val }
  | .thsync d a => some { op := 0xA7, a := a.val, d := d.val }
  | .send a b op => some { op := 0xA8, a := a.val, b := b.val, m := op.val }
  | .recvWait d => some { op := 0xA9, d := d.val }
  | .recvPoll d pb => some { op := 0xA9, b := pb.val, d := d.val, m := 1 }
  | .cont d a => some { op := 0xAA, a := a.val, d := d.val }
  | .waitr d => some { op := 0xAB, d := d.val }
  | .cpyq d a => some { op := 0xAC, a := a.val, d := d.val }
  | .cpyqw d a => some { op := 0xAD, a := a.val, d := d.val }
  | .gath d a wt => some { op := 0xAE, a := a.val, d := d.val, m := wt.toNat }
  | .scat d a wt => some { op := 0xAF, a := a.val, d := d.val, m := wt.toNat }
  | .mbox d pb => some { op := 0xB0, b := pb.val, d := d.val }
  | .waitm d => some { op := 0xB1, d := d.val }
  | .uisetOff d => some { op := 0xB2, d := d.val }
  | .uisetOn d => some { op := 0xB2, d := d.val, m := 1 }
  | .rspawn d a b slot imm => some { op := 0xB3, a := a.val, b := b.val, d := d.val, imm := imm.toNat, m := slot.val }
  | .spawn d a b slot imm => some { op := 0xB4, a := a.val, b := b.val, d := d.val, imm := imm.toNat, m := slot.val }
  | .fjoin d a b => some { op := 0xB5, a := a.val, b := b.val, d := d.val }
  | .fjoinSync d a => some { op := 0xB5, a := a.val, d := d.val }
  | .qmapSet d a => some { op := 0xB6, a := a.val, d := d.val }
  | .qmapOff d => some { op := 0xB6, d := d.val, m := 1 }
  | .iqdefNew d a b c => some { op := 0xB7, a := a.val, b := b.val, c := c.val, d := d.val }
  | .iqdefDel d a => some { op := 0xB7, a := a.val, d := d.val, m := 1 }
  | .iqpush d a b => some { op := 0xB8, a := a.val, b := b.val, d := d.val }
  | .iqpop d pb a => some { op := 0xB9, a := a.val, b := pb.val, d := d.val }
  | .iqcons d a => some { op := 0xBA, a := a.val, d := d.val }
  | .arrget d pc a b => some { op := 0xBB, a := a.val, b := b.val, c := pc.val, d := d.val }
  | .arradd a b c => some { op := 0xBC, a := a.val, b := b.val, c := c.val }
  | .iqbind d a b e => some { op := 0xBD, a := a.val, b := b.val, d := d.val, e := e.val }
  | .iqstat d a => some { op := 0xBE, a := a.val, d := d.val }
  | .pktBeg d a => some { op := 0xBF, a := a.val, d := d.val }
  | .pktEnd => some { op := 0xBF, m := 1 }
  | .pktDisp d a b => some { op := 0xBF, a := a.val, b := b.val, d := d.val, m := 2 }
  | .commandSubmission _ _ _ => none
  | .attach _ _ => none
  | .reAttach _ _ => none
  | .load _ _ => none
  | .launch _ _ => none
  | .emitInput _ _ => none
  | .readOutputs _ _ => none
  | .suspend _ _ => none
  | .resume _ _ => none
  | .abort _ _ => none
  | .endStatus _ _ => none
  | .faultAnswer _ _ => none
  | .healthRead _ _ => none
  | .setFaultQueue _ _ => none
  | .tenantCreate _ _ => none
  | .tenantTeardown _ _ => none
  | .setRoots _ _ => none
  | .setRates _ _ => none
  | .setFabric _ _ => none
  | .setKeys _ _ => none
  | .attest _ _ => none
  | .completionRecord _ _ => none
  | .consumedCountPoll _ _ _ => none
  | .hostPostedWrite _ _ => none
  | .packageReset => none
  | .lull _ => none
  | .energyRefill _ => none
  | .watchdogFiring _ => none
  | .cedeApply _ => none
  | .replyArrival _ => none
  | .homeAccess _ => none
  | .feRetryResend _ => none
  | .bankUpdateArrival _ => none
  | .drain _ => none
  | .backgroundChecker _ => none
  | .walkCrossing _ => none
  | .deferredFaultReport _ => none
  | .supervisorTrapService _ => none
  | .pageWalkComplete _ => none
  | .walkFifoRetry _ => none
  | .copyStart _ => none
  | .copyCompletion _ => none
  | .streamerCompletion _ => none
  | .userLevelInterrupt _ => none
  | .messageArrival _ => none
  | .continuationArrival _ => none
  | .messageResend _ => none
  | .flitRoute _ _ => none
  | .packetUrgent _ => none
  | .driftWindow _ => none
  | .bucketAdmit _ => none
  | .stealAttempt _ => none
  | .postBufferDrain _ => none
  | .iqSpillRefill _ => none
  | .granuleMove _ => none
  | .conversionComplete _ => none
  | .conversionStop _ => none
  | .mmulComplete _ _ => none
  | .sequencerStop _ => none
  | .patrolScrub _ => none
  | .linkFlitError _ => none
  | .machineCheck _ => none
  | .packageLoss _ => none
  | .thermalAlarm _ _ => none
  | .monitorSample _ _ _ => none
  | .arrangementAddApply _ => none
  | .barrelIssue _ => none
  | .mloadComplete _ => none
  | .postedReceiveExpiry _ _ => none
  | .registersWindowRead _ => none

/-- The least and greatest tail format an instruction is carried in (R54, R63, R104). -/
def tailRange (i : Instr) : Nat × Nat :=
  match i with
  | .nop => (0, 3)
  | .br _ _ => (3, 3)
  | .brc _ _ _ _ _ => (3, 3)
  | .brr _ => (1, 3)
  | .call _ _ _ => (3, 3)
  | .ret _ => (1, 3)
  | .loop _ _ _ => (3, 3)
  | .halt => (0, 3)
  | .pause => (0, 3)
  | .emit _ => (2, 3)
  | .emitv _ _ => (2, 3)
  | .pres _ _ => (2, 3)
  | .cede _ => (2, 3)
  | .claim _ _ => (2, 3)
  | .unclaim _ => (2, 3)
  | .sigvCur _ _ => (2, 3)
  | .sigvPrev _ _ => (2, 3)
  | .abortw _ _ _ => (3, 3)
  | .suspw _ => (2, 3)
  | .endw => (0, 3)
  | .fork _ _ _ => (3, 3)
  | .join => (0, 3)
  | .instNum _ => (0, 3)
  | .instSeed _ => (0, 3)
  | .instNsig _ => (0, 3)
  | .trig _ => (1, 3)
  | .gangWait => (1, 3)
  | .gangOn _ => (1, 3)
  | .gangOff => (1, 3)
  | .add _ _ _ _ => (1, 3)
  | .sub _ _ _ _ => (1, 3)
  | .addi _ _ _ => (3, 3)
  | .mul _ _ _ _ => (1, 3)
  | .mulh _ _ _ _ _ => (1, 3)
  | .div _ _ _ _ _ => (1, 3)
  | .rem _ _ _ _ _ => (1, 3)
  | .min _ _ _ _ _ => (1, 3)
  | .max _ _ _ _ _ => (1, 3)
  | .abs _ _ _ => (1, 3)
  | .and _ _ _ => (1, 3)
  | .or _ _ _ => (1, 3)
  | .xor _ _ _ => (1, 3)
  | .andn _ _ _ => (1, 3)
  | .orn _ _ _ => (1, 3)
  | .shl _ _ _ _ => (1, 2)
  | .shlImm _ _ _ _ => (3, 3)
  | .shr _ _ _ _ => (1, 2)
  | .shrImm _ _ _ _ => (3, 3)
  | .sar _ _ _ _ => (1, 2)
  | .sarImm _ _ _ _ => (3, 3)
  | .rol _ _ _ _ => (1, 2)
  | .rolImm _ _ _ _ => (3, 3)
  | .clz _ _ => (1, 3)
  | .ctz _ _ => (1, 3)
  | .popc _ _ => (1, 3)
  | .brev _ _ => (1, 3)
  | .bfx _ _ _ _ _ => (2, 3)
  | .bfi _ _ _ _ => (2, 3)
  | .cmp _ _ _ _ => (1, 3)
  | .cmpi _ _ _ _ => (3, 3)
  | .sel _ _ _ _ => (2, 3)
  | .movi _ _ => (3, 3)
  | .moviZx _ _ => (3, 3)
  | .moviHi _ _ => (3, 3)
  | .mov _ _ => (1, 3)
  | .movFromSpecial _ _ => (1, 3)
  | .mrcvRead _ => (1, 3)
  | .msndWrite _ _ => (1, 3)
  | .movFromPred _ _ => (1, 3)
  | .movToPred _ _ => (1, 3)
  | .plog _ _ _ _ => (2, 3)
  | .lea _ _ _ _ _ => (1, 3)
  | .mad _ _ _ _ _ => (2, 3)
  | .sext _ _ _ => (1, 3)
  | .zext _ _ _ => (1, 3)
  | .cvti _ _ _ => (1, 3)
  | .fadd _ _ _ _ => (1, 3)
  | .fmul _ _ _ _ => (1, 3)
  | .ffma _ _ _ _ _ => (2, 3)
  | .fcmp _ _ _ _ => (1, 3)
  | .ld _ _ _ _ _ => (1, 3)
  | .st _ _ _ _ _ => (1, 3)
  | .ldfe _ _ _ _ _ _ => (1, 3)
  | .stef _ _ _ _ _ _ => (1, 3)
  | .ldff _ _ _ _ _ _ => (1, 3)
  | .stff _ _ _ _ _ _ => (1, 3)
  | .fesetFull _ _ => (1, 3)
  | .fesetEmpty _ _ => (1, 3)
  | .feqry _ _ _ => (1, 3)
  | .ldp _ _ _ => (1, 3)
  | .stp _ _ _ => (1, 3)
  | .ldc _ _ _ _ _ _ => (2, 3)
  | .upd _ _ _ _ => (2, 3)
  | .updr _ _ _ _ _ _ => (2, 3)
  | .updcfgLd _ _ _ _ => (3, 3)
  | .updcfgSt _ _ _ => (3, 3)
  | .updcfgClr _ _ _ => (3, 3)
  | .cas _ _ _ _ _ _ _ => (2, 3)
  | .lrw _ _ _ _ _ _ => (1, 3)
  | .sch _ _ _ _ _ => (1, 3)
  | .rsvx _ => (1, 3)
  | .fenceCore => (0, 0)
  | .fence _ => (1, 3)
  | .fenceDrn _ => (1, 3)
  | .lda _ _ _ _ _ _ => (1, 3)
  | .stl _ _ _ _ _ _ => (1, 3)
  | .barNetwork _ _ _ _ _ => (1, 3)
  | .barDrain _ _ _ _ _ _ => (1, 3)
  | .barObject _ _ _ => (1, 3)
  | .barinit _ _ _ _ _ => (2, 3)
  | .migr _ _ => (1, 3)
  | .swap _ _ _ _ _ _ => (1, 3)
  | .stm _ _ _ _ _ => (2, 3)
  | .fetchadd _ _ _ _ _ _ => (1, 2)
  | .fetchaddImm _ _ _ _ _ _ _ => (3, 3)
  | .zfill _ _ _ => (1, 3)
  | .wregHold _ _ => (1, 3)
  | .wregFe _ _ => (1, 3)
  | .wunreg _ _ => (1, 3)
  | .wwait _ _ => (1, 3)
  | .wsig _ _ => (1, 3)
  | .prioSet _ _ => (1, 3)
  | .prioMax _ => (1, 3)
  | .trapNothing _ _ => (3, 3)
  | .trapTime _ => (3, 3)
  | .trapUserAbort _ => (3, 3)
  | .trapPostFaultQueue _ => (3, 3)
  | .rft => (0, 3)
  | .srr _ _ _ => (2, 3)
  | .srw _ _ _ => (2, 3)
  | .srwEbud _ _ => (2, 3)
  | .tlbiAll => (1, 3)
  | .tlbiPage _ => (1, 3)
  | .tlbiAsid _ => (1, 3)
  | .monSel _ _ _ => (2, 3)
  | .monEdge _ _ => (2, 3)
  | .monRd _ _ _ => (2, 3)
  | .monOff _ => (2, 3)
  | .wdarm _ _ => (1, 3)
  | .vadd _ _ _ _ _ => (1, 3)
  | .vsub _ _ _ _ _ => (1, 3)
  | .vmul _ _ _ _ _ => (1, 3)
  | .vfma _ _ _ _ _ _ => (2, 3)
  | .vdiv _ _ _ _ _ => (1, 3)
  | .vmin _ _ _ _ _ => (1, 3)
  | .vmax _ _ _ _ _ => (1, 3)
  | .vabs _ _ _ _ => (1, 3)
  | .vneg _ _ _ _ => (1, 3)
  | .vcmp _ _ _ _ _ _ => (2, 3)
  | .vsel _ _ _ _ _ _ => (2, 3)
  | .vand _ _ _ _ _ => (1, 3)
  | .vor _ _ _ _ _ => (1, 3)
  | .vxor _ _ _ _ _ => (1, 3)
  | .vshl _ _ _ _ _ => (1, 3)
  | .vshr _ _ _ _ _ => (1, 3)
  | .vsar _ _ _ _ _ => (1, 3)
  | .vexp _ _ _ _ => (1, 3)
  | .vexp2 _ _ _ _ => (1, 3)
  | .vlog _ _ _ _ => (1, 3)
  | .vrcp _ _ _ _ => (1, 3)
  | .vrsq _ _ _ _ => (1, 3)
  | .vsqrt _ _ _ _ => (1, 3)
  | .vtanh _ _ _ _ => (1, 3)
  | .vsgm _ _ _ _ => (1, 3)
  | .vsilu _ _ _ _ => (1, 3)
  | .vcvt _ _ _ _ _ _ => (2, 3)
  | .vqnt _ _ _ _ _ _ _ => (2, 3)
  | .vdeq _ _ _ _ _ _ _ => (2, 3)
  | .vscl _ _ _ _ => (1, 3)
  | .vfill _ _ _ _ => (1, 3)
  | .vcpy _ _ _ _ => (1, 3)
  | .vbcast _ _ _ _ => (1, 3)
  | .vperm _ _ _ _ _ => (2, 3)
  | .vclamp _ _ _ _ _ _ => (2, 3)
  | .vround _ _ _ _ _ => (1, 3)
  | .vdot _ _ _ _ _ => (1, 3)
  | .vlerp _ _ _ _ _ _ => (2, 3)
  | .vnorm _ _ _ _ _ => (1, 3)
  | .vmask _ _ _ _ _ => (1, 3)
  | .vsum _ _ _ _ => (1, 3)
  | .vrmax _ _ _ _ => (1, 3)
  | .vrmin _ _ _ _ => (1, 3)
  | .vscan _ _ _ _ => (1, 3)
  | .vtopk _ _ _ _ _ _ => (2, 3)
  | .vmrgkLocal _ _ _ _ _ => (2, 3)
  | .vmrgkBank _ _ _ _ => (2, 3)
  | .vsmx _ _ _ _ => (1, 3)
  | .vsmn _ _ _ _ _ => (1, 3)
  | .vsamp _ _ _ _ => (2, 3)
  | .rng _ _ _ => (1, 3)
  | .vrng _ _ _ _ _ => (1, 3)
  | .vcnt _ _ _ _ => (1, 3)
  | .mload _ _ _ _ => (2, 3)
  | .mmul _ _ _ _ => (3, 3)
  | .mcfgMask _ _ _ _ _ => (2, 3)
  | .mcfgCancel _ => (2, 3)
  | .maccClr _ _ => (1, 3)
  | .maccScl _ _ _ => (1, 3)
  | .mstat _ => (1, 3)
  | .thdef _ _ _ _ _ => (2, 3)
  | .thld _ _ _ _ _ _ => (2, 3)
  | .thst _ _ _ _ _ _ => (2, 3)
  | .thaddr _ _ _ _ => (2, 3)
  | .relay _ _ _ _ _ => (2, 3)
  | .thqry _ _ _ => (1, 3)
  | .thsync _ _ => (1, 3)
  | .send _ _ _ => (1, 3)
  | .recvWait _ => (1, 3)
  | .recvPoll _ _ => (1, 3)
  | .cont _ _ => (1, 3)
  | .waitr _ => (1, 3)
  | .cpyq _ _ => (2, 3)
  | .cpyqw _ _ => (2, 3)
  | .gath _ _ _ => (2, 3)
  | .scat _ _ _ => (2, 3)
  | .mbox _ _ => (1, 3)
  | .waitm _ => (1, 3)
  | .uisetOff _ => (1, 3)
  | .uisetOn _ => (1, 3)
  | .rspawn _ _ _ _ _ => (3, 3)
  | .spawn _ _ _ _ _ => (3, 3)
  | .fjoin _ _ _ => (1, 3)
  | .fjoinSync _ _ => (1, 3)
  | .qmapSet _ _ => (1, 3)
  | .qmapOff _ => (1, 3)
  | .iqdefNew _ _ _ _ => (2, 3)
  | .iqdefDel _ _ => (2, 3)
  | .iqpush _ _ _ => (1, 3)
  | .iqpop _ _ _ => (1, 3)
  | .iqcons _ _ => (1, 3)
  | .arrget _ _ _ _ => (2, 3)
  | .arradd _ _ _ => (2, 3)
  | .iqbind _ _ _ _ => (2, 3)
  | .iqstat _ _ => (1, 3)
  | .pktBeg _ _ => (2, 3)
  | .pktEnd => (2, 3)
  | .pktDisp _ _ _ => (2, 3)
  | .commandSubmission _ _ _ => (1, 0)
  | .attach _ _ => (1, 0)
  | .reAttach _ _ => (1, 0)
  | .load _ _ => (1, 0)
  | .launch _ _ => (1, 0)
  | .emitInput _ _ => (1, 0)
  | .readOutputs _ _ => (1, 0)
  | .suspend _ _ => (1, 0)
  | .resume _ _ => (1, 0)
  | .abort _ _ => (1, 0)
  | .endStatus _ _ => (1, 0)
  | .faultAnswer _ _ => (1, 0)
  | .healthRead _ _ => (1, 0)
  | .setFaultQueue _ _ => (1, 0)
  | .tenantCreate _ _ => (1, 0)
  | .tenantTeardown _ _ => (1, 0)
  | .setRoots _ _ => (1, 0)
  | .setRates _ _ => (1, 0)
  | .setFabric _ _ => (1, 0)
  | .setKeys _ _ => (1, 0)
  | .attest _ _ => (1, 0)
  | .completionRecord _ _ => (1, 0)
  | .consumedCountPoll _ _ _ => (1, 0)
  | .hostPostedWrite _ _ => (1, 0)
  | .packageReset => (1, 0)
  | .lull _ => (1, 0)
  | .energyRefill _ => (1, 0)
  | .watchdogFiring _ => (1, 0)
  | .cedeApply _ => (1, 0)
  | .replyArrival _ => (1, 0)
  | .homeAccess _ => (1, 0)
  | .feRetryResend _ => (1, 0)
  | .bankUpdateArrival _ => (1, 0)
  | .drain _ => (1, 0)
  | .backgroundChecker _ => (1, 0)
  | .walkCrossing _ => (1, 0)
  | .deferredFaultReport _ => (1, 0)
  | .supervisorTrapService _ => (1, 0)
  | .pageWalkComplete _ => (1, 0)
  | .walkFifoRetry _ => (1, 0)
  | .copyStart _ => (1, 0)
  | .copyCompletion _ => (1, 0)
  | .streamerCompletion _ => (1, 0)
  | .userLevelInterrupt _ => (1, 0)
  | .messageArrival _ => (1, 0)
  | .continuationArrival _ => (1, 0)
  | .messageResend _ => (1, 0)
  | .flitRoute _ _ => (1, 0)
  | .packetUrgent _ => (1, 0)
  | .driftWindow _ => (1, 0)
  | .bucketAdmit _ => (1, 0)
  | .stealAttempt _ => (1, 0)
  | .postBufferDrain _ => (1, 0)
  | .iqSpillRefill _ => (1, 0)
  | .granuleMove _ => (1, 0)
  | .conversionComplete _ => (1, 0)
  | .conversionStop _ => (1, 0)
  | .mmulComplete _ _ => (1, 0)
  | .sequencerStop _ => (1, 0)
  | .patrolScrub _ => (1, 0)
  | .linkFlitError _ => (1, 0)
  | .machineCheck _ => (1, 0)
  | .packageLoss _ => (1, 0)
  | .thermalAlarm _ _ => (1, 0)
  | .monitorSample _ _ _ => (1, 0)
  | .arrangementAddApply _ => (1, 0)
  | .barrelIssue _ => (1, 0)
  | .mloadComplete _ => (1, 0)
  | .postedReceiveExpiry _ _ => (1, 0)
  | .registersWindowRead _ => (1, 0)

def tailOk (i : Instr) (tl : Nat) : Bool := (tailRange i).1 <= tl && tl <= (tailRange i).2

/-- The instruction an opcode 0x00 to 0x0F names, its fields read out (R63). -/
def candidate0 (r : RawOp) : Option Instr :=
  match r.op with
  | 0x00 => some .nop
  | 0x01 => some (.br (Fin.ofNat 64 r.m) (BitVec.ofNat 32 r.imm))
  | 0x02 => some (.brc (Fin.ofNat 128 r.e) (reg r.a) (reg r.b) (Fin.ofNat 64 r.m) (BitVec.ofNat 32 r.imm))
  | 0x03 => some (.brr (reg r.a))
  | 0x04 => some (.call (reg r.d) (Fin.ofNat 64 r.m) (BitVec.ofNat 32 r.imm))
  | 0x05 => some (.ret (reg r.a))
  | 0x06 => some (.loop (reg r.d) (Fin.ofNat 64 r.m) (BitVec.ofNat 32 r.imm))
  | 0x07 => some .halt
  | 0x08 => some .pause
  | 0x09 => some (.emit (SigOp.ofFields r))
  | 0x0A => some (.emitv (reg r.a) (SigOp.ofFields r))
  | 0x0B => some (.pres (preg r.d) (SigOp.ofFields r))
  | 0x0C => some (.cede (SigOp.ofFields r))
  | 0x0D => some (.claim (reg r.d) (SigOp.ofFields r))
  | 0x0E => some (.unclaim (SigOp.ofFields r))
  | 0x0F => if bit r.m 1 then some (.sigvPrev (reg r.d) (SigOp.ofFields r)) else some (.sigvCur (reg r.d) (SigOp.ofFields r))
  | _ => none

/-- The instruction an opcode 0x10 to 0x1F names, its fields read out (R63). -/
def candidate1 (r : RawOp) : Option Instr :=
  match r.op with
  | 0x10 => some (.abortw (Fin.ofNat 4096 (128 * r.c + r.e)) (Fin.ofNat 64 r.m) (BitVec.ofNat 32 r.imm))
  | 0x11 => some (.suspw (SigOp.ofFields r))
  | 0x12 => some .endw
  | 0x13 => some (.fork (reg r.d) (Fin.ofNat 64 r.m) (BitVec.ofNat 32 r.imm))
  | 0x14 => some .join
  | 0x15 => if r.m = 0 then some (.instNum (reg r.d)) else if r.m = 1 then some (.instSeed (reg r.d)) else if r.m = 2 then some (.instNsig (reg r.d)) else none
  | 0x16 => some (.trig (Fin.ofNat 8 r.m))
  | 0x17 => if r.m = 0 then some (.gangWait) else if r.m = 1 then some (.gangOn (reg r.d)) else if r.m = 2 then some (.gangOff) else none
  | 0x18 => some (.add (reg r.d) (reg r.a) (reg r.b) (ElW.ofCode r.m))
  | 0x19 => some (.sub (reg r.d) (reg r.a) (reg r.b) (ElW.ofCode r.m))
  | 0x1A => some (.addi (reg r.d) (reg r.a) (BitVec.ofNat 32 r.imm))
  | 0x1B => some (.mul (reg r.d) (reg r.a) (reg r.b) (ElW.ofCode r.m))
  | 0x1C => some (.mulh (reg r.d) (reg r.a) (reg r.b) (bit r.m 2) (ElW.ofCode r.m))
  | 0x1D => some (.div (reg r.d) (reg r.a) (reg r.b) (bit r.m 2) (ElW.ofCode r.m))
  | 0x1E => some (.rem (reg r.d) (reg r.a) (reg r.b) (bit r.m 2) (ElW.ofCode r.m))
  | 0x1F => some (.min (reg r.d) (reg r.a) (reg r.b) (bit r.m 2) (ElW.ofCode r.m))
  | _ => none

/-- The instruction an opcode 0x20 to 0x2F names, its fields read out (R63). -/
def candidate2 (r : RawOp) : Option Instr :=
  match r.op with
  | 0x20 => some (.max (reg r.d) (reg r.a) (reg r.b) (bit r.m 2) (ElW.ofCode r.m))
  | 0x21 => some (.abs (reg r.d) (reg r.a) (ElW.ofCode r.m))
  | 0x22 => some (.and (reg r.d) (reg r.a) (reg r.b))
  | 0x23 => some (.or (reg r.d) (reg r.a) (reg r.b))
  | 0x24 => some (.xor (reg r.d) (reg r.a) (reg r.b))
  | 0x25 => some (.andn (reg r.d) (reg r.a) (reg r.b))
  | 0x26 => some (.orn (reg r.d) (reg r.a) (reg r.b))
  | 0x27 => if r.tl = 3 then some (.shlImm (reg r.d) (reg r.a) (ElW.ofCode r.m) (BitVec.ofNat 32 r.imm)) else some (.shl (reg r.d) (reg r.a) (reg r.b) (ElW.ofCode r.m))
  | 0x28 => if r.tl = 3 then some (.shrImm (reg r.d) (reg r.a) (ElW.ofCode r.m) (BitVec.ofNat 32 r.imm)) else some (.shr (reg r.d) (reg r.a) (reg r.b) (ElW.ofCode r.m))
  | 0x29 => if r.tl = 3 then some (.sarImm (reg r.d) (reg r.a) (ElW.ofCode r.m) (BitVec.ofNat 32 r.imm)) else some (.sar (reg r.d) (reg r.a) (reg r.b) (ElW.ofCode r.m))
  | 0x2A => if r.tl = 3 then some (.rolImm (reg r.d) (reg r.a) (ElW.ofCode r.m) (BitVec.ofNat 32 r.imm)) else some (.rol (reg r.d) (reg r.a) (reg r.b) (ElW.ofCode r.m))
  | 0x2B => some (.clz (reg r.d) (reg r.a))
  | 0x2C => some (.ctz (reg r.d) (reg r.a))
  | 0x2D => some (.popc (reg r.d) (reg r.a))
  | 0x2E => some (.brev (reg r.d) (reg r.a))
  | 0x2F => some (.bfx (reg r.d) (reg r.a) (Fin.ofNat 64 r.m) (Fin.ofNat 128 r.e) (reg r.c))
  | _ => none

/-- The instruction an opcode 0x30 to 0x3F names, its fields read out (R63). -/
def candidate3 (r : RawOp) : Option Instr :=
  match r.op with
  | 0x30 => some (.bfi (reg r.d) (reg r.a) (Fin.ofNat 64 r.m) (Fin.ofNat 128 r.e))
  | 0x31 => some (.cmp (preg r.d) (reg r.a) (reg r.b) (Fin.ofNat 64 r.m))
  | 0x32 => some (.cmpi (preg r.d) (reg r.a) (Fin.ofNat 64 r.m) (BitVec.ofNat 32 r.imm))
  | 0x33 => some (.sel (reg r.d) (preg r.c) (reg r.a) (reg r.b))
  | 0x34 => if r.m = 0 then some (.movi (reg r.d) (BitVec.ofNat 32 r.imm)) else if r.m = 1 then some (.moviZx (reg r.d) (BitVec.ofNat 32 r.imm)) else if r.m = 2 then some (.moviHi (reg r.d) (BitVec.ofNat 32 r.imm)) else none
  | 0x35 => if r.m = 0 then some (.mov (reg r.d) (reg r.a)) else if r.m = 1 ∧ r.b = 1 then some (.mrcvRead (reg r.d)) else if r.m = 1 then some (.movFromSpecial (reg r.d) (reg r.b)) else if r.m = 2 then some (.msndWrite (reg r.d) (reg r.a)) else if r.m = 3 then some (.movFromPred (reg r.d) (preg r.a)) else if r.m = 4 then some (.movToPred (preg r.d) (reg r.a)) else none
  | 0x36 => some (.plog (preg r.d) (preg r.a) (preg r.b) (Fin.ofNat 64 r.m))
  | 0x37 => some (.lea (reg r.d) (reg r.a) (reg r.b) (Fin.ofNat 64 r.m) (BitVec.ofNat 32 r.imm))
  | 0x38 => some (.mad (reg r.d) (reg r.a) (reg r.b) (reg r.c) (ElW.ofCode r.m))
  | 0x39 => some (.sext (reg r.d) (reg r.a) (ElW.ofCode r.m))
  | 0x3A => some (.zext (reg r.d) (reg r.a) (ElW.ofCode r.m))
  | 0x3B => some (.cvti (reg r.d) (reg r.a) (Fin.ofNat 64 r.m))
  | 0x3C => some (.fadd (reg r.d) (reg r.a) (reg r.b) (Fin.ofNat 64 r.m))
  | 0x3D => some (.fmul (reg r.d) (reg r.a) (reg r.b) (Fin.ofNat 64 r.m))
  | 0x3E => some (.ffma (reg r.d) (reg r.a) (reg r.b) (reg r.c) (Fin.ofNat 64 r.m))
  | 0x3F => some (.fcmp (preg r.d) (reg r.a) (reg r.b) (Fin.ofNat 64 r.m))
  | _ => none

/-- The instruction an opcode 0x40 to 0x4F names, its fields read out (R63). -/
def candidate4 (r : RawOp) : Option Instr :=
  match r.op with
  | 0x40 => some (.ld (reg r.d) (reg r.a) (bit r.m 2) (MemW.ofCode r.m) (BitVec.ofNat 32 r.imm))
  | 0x41 => some (.st (reg r.a) (reg r.b) (MemW.ofCode r.m) (Fin.ofNat 128 r.e) (BitVec.ofNat 32 r.imm))
  | 0x42 => some (.ldfe (reg r.d) (reg r.a) (Fin.ofNat 8 (r.m / 8)) (bit r.m 2) (MemW.ofCode r.m) (BitVec.ofNat 32 r.imm))
  | 0x43 => some (.stef (reg r.a) (reg r.b) (Fin.ofNat 8 (r.m / 8)) (MemW.ofCode r.m) (Fin.ofNat 128 r.e) (BitVec.ofNat 32 r.imm))
  | 0x44 => some (.ldff (reg r.d) (reg r.a) (Fin.ofNat 8 (r.m / 8)) (bit r.m 2) (MemW.ofCode r.m) (BitVec.ofNat 32 r.imm))
  | 0x45 => some (.stff (reg r.a) (reg r.b) (Fin.ofNat 8 (r.m / 8)) (MemW.ofCode r.m) (Fin.ofNat 128 r.e) (BitVec.ofNat 32 r.imm))
  | 0x46 => if r.m = 0 then some (.fesetFull (reg r.a) (BitVec.ofNat 32 r.imm)) else if r.m = 1 then some (.fesetEmpty (reg r.a) (BitVec.ofNat 32 r.imm)) else none
  | 0x47 => some (.feqry (reg r.d) (reg r.a) (BitVec.ofNat 32 r.imm))
  | 0x48 => some (.ldp (reg r.d) (reg r.a) (BitVec.ofNat 32 r.imm))
  | 0x49 => some (.stp (reg r.a) (reg r.b) (BitVec.ofNat 32 r.imm))
  | 0x4A => some (.ldc (reg r.d) (reg r.a) (reg r.c) (bit r.m 2) (MemW.ofCode r.m) (BitVec.ofNat 32 r.imm))
  | 0x4B => some (.upd (reg r.a) (reg r.b) (Fin.ofNat 64 r.m) (BitVec.ofNat 32 r.imm))
  | 0x4C => some (.updr (reg r.d) (preg r.c) (reg r.a) (reg r.b) (Fin.ofNat 64 r.m) (BitVec.ofNat 32 r.imm))
  | 0x4D => if r.m = 0 then some (.updcfgLd (reg r.d) (reg r.a) (reg r.b) (BitVec.ofNat 32 r.imm)) else if r.m = 1 then some (.updcfgSt (reg r.d) (reg r.b) (BitVec.ofNat 32 r.imm)) else if r.m = 2 then some (.updcfgClr (reg r.d) (reg r.b) (BitVec.ofNat 32 r.imm)) else none
  | 0x4E => some (.cas (reg r.d) (reg r.a) (reg r.b) (reg r.c) (Fin.ofNat 8 (r.m / 8)) (bit r.m 2) (MemW.ofCode r.m))
  | 0x4F => some (.lrw (reg r.d) (preg r.b) (reg r.a) (Fin.ofNat 8 (r.m / 8)) (bit r.m 2) (MemW.ofCode r.m))
  | _ => none

/-- The instruction an opcode 0x50 to 0x5F names, its fields read out (R63). -/
def candidate5 (r : RawOp) : Option Instr :=
  match r.op with
  | 0x50 => some (.sch (preg r.d) (reg r.a) (reg r.b) (Fin.ofNat 8 (r.m / 8)) (MemW.ofCode r.m))
  | 0x51 => some (.rsvx (reg r.a))
  | 0x52 => if r.tl = 0 then some (.fenceCore) else if bit r.m 3 then some (.fenceDrn (Fin.ofNat 8 r.m)) else some (.fence (Fin.ofNat 8 r.m))
  | 0x53 => some (.lda (reg r.d) (reg r.a) (Fin.ofNat 8 (r.m / 8)) (bit r.m 2) (MemW.ofCode r.m) (BitVec.ofNat 32 r.imm))
  | 0x54 => some (.stl (reg r.a) (reg r.b) (Fin.ofNat 8 (r.m / 8)) (MemW.ofCode r.m) (Fin.ofNat 128 r.e) (BitVec.ofNat 32 r.imm))
  | 0x55 => if bit r.m 3 then some (.barDrain (reg r.d) (reg r.a) (reg r.b) (reg r.c) (Fin.ofNat 4 (r.m / 16)) (Fin.ofNat 8 r.m)) else if r.a = 0 then some (.barNetwork (reg r.d) (reg r.b) (reg r.c) (Fin.ofNat 4 (r.m / 16)) (Fin.ofNat 8 r.m)) else some (.barObject (reg r.d) (reg r.a) (Fin.ofNat 8 r.m))
  | 0x56 => some (.barinit (reg r.d) (reg r.a) (reg r.b) (Fin.ofNat 128 r.e) (Fin.ofNat 8 r.m))
  | 0x57 => some (.migr (reg r.d) (reg r.a))
  | 0x58 => some (.swap (reg r.d) (reg r.a) (reg r.b) (Fin.ofNat 8 (r.m / 8)) (bit r.m 2) (MemW.ofCode r.m))
  | 0x59 => some (.stm (reg r.a) (reg r.b) (reg r.c) (Fin.ofNat 64 r.m) (BitVec.ofNat 32 r.imm))
  | 0x5A => if r.tl = 3 then some (.fetchaddImm (reg r.d) (reg r.a) (reg r.b) (Fin.ofNat 8 (r.m / 8)) (bit r.m 2) (MemW.ofCode r.m) (BitVec.ofNat 32 r.imm)) else some (.fetchadd (reg r.d) (reg r.a) (reg r.b) (Fin.ofNat 8 (r.m / 8)) (bit r.m 2) (MemW.ofCode r.m))
  | 0x5B => some (.zfill (reg r.a) (Fin.ofNat 64 r.m) (BitVec.ofNat 32 r.imm))
  | 0x5C => if r.m = 0 then some (.wregHold (reg r.d) (reg r.a)) else if r.m = 1 then some (.wregFe (reg r.d) (reg r.a)) else none
  | 0x5D => some (.wunreg (reg r.d) (reg r.a))
  | 0x5E => some (.wwait (reg r.d) (reg r.a))
  | 0x5F => some (.wsig (reg r.d) (reg r.a))
  | _ => none

/-- The instruction an opcode 0x60 to 0x6F names, its fields read out (R63). -/
def candidate6 (r : RawOp) : Option Instr :=
  match r.op with
  | 0x60 => if r.m = 0 then some (.prioSet (reg r.d) (reg r.a)) else if r.m = 1 then some (.prioMax (reg r.d)) else none
  | 0x61 => if r.imm = 1 then some (.trapTime (reg r.d)) else if r.imm = 2 then some (.trapUserAbort (reg r.d)) else if r.imm = 3 then some (.trapPostFaultQueue (reg r.d)) else some (.trapNothing (reg r.d) (BitVec.ofNat 32 r.imm))
  | 0x62 => some .rft
  | 0x63 => some (.srr (reg r.d) (Fin.ofNat 128 r.e) (reg r.c))
  | 0x64 => if r.e = 4 then some (.srwEbud (reg r.a) (reg r.c)) else some (.srw (reg r.a) (Fin.ofNat 128 r.e) (reg r.c))
  | 0x65 => if r.m = 0 then some (.tlbiAll) else if r.m = 1 then some (.tlbiPage (reg r.a)) else if r.m = 2 then some (.tlbiAsid (reg r.a)) else none
  | 0x66 => if r.m = 0 then some (.monSel (reg r.d) (reg r.c) (reg r.a)) else if r.m = 1 then some (.monEdge (reg r.c) (reg r.a)) else if r.m = 2 then some (.monRd (reg r.d) (reg r.c) (reg r.b)) else if r.m = 3 then some (.monOff (reg r.c)) else none
  | 0x67 => some (.wdarm (reg r.d) (reg r.a))
  | 0x68 => some (.vadd (reg r.d) (reg r.a) (reg r.b) (bit r.m 4) (Fin.ofNat 16 r.m))
  | 0x69 => some (.vsub (reg r.d) (reg r.a) (reg r.b) (bit r.m 4) (Fin.ofNat 16 r.m))
  | 0x6A => some (.vmul (reg r.d) (reg r.a) (reg r.b) (bit r.m 4) (Fin.ofNat 16 r.m))
  | 0x6B => some (.vfma (reg r.d) (reg r.a) (reg r.b) (reg r.c) (bit r.m 4) (Fin.ofNat 16 r.m))
  | 0x6C => some (.vdiv (reg r.d) (reg r.a) (reg r.b) (bit r.m 4) (Fin.ofNat 16 r.m))
  | 0x6D => some (.vmin (reg r.d) (reg r.a) (reg r.b) (bit r.m 4) (Fin.ofNat 16 r.m))
  | 0x6E => some (.vmax (reg r.d) (reg r.a) (reg r.b) (bit r.m 4) (Fin.ofNat 16 r.m))
  | 0x6F => some (.vabs (reg r.d) (reg r.a) (bit r.m 4) (Fin.ofNat 16 r.m))
  | _ => none

/-- The instruction an opcode 0x70 to 0x7F names, its fields read out (R63). -/
def candidate7 (r : RawOp) : Option Instr :=
  match r.op with
  | 0x70 => some (.vneg (reg r.d) (reg r.a) (bit r.m 4) (Fin.ofNat 16 r.m))
  | 0x71 => some (.vcmp (reg r.d) (reg r.a) (reg r.b) (Fin.ofNat 128 r.e) (bit r.m 4) (Fin.ofNat 16 r.m))
  | 0x72 => some (.vsel (reg r.d) (reg r.a) (reg r.b) (reg r.c) (bit r.m 4) (Fin.ofNat 16 r.m))
  | 0x73 => some (.vand (reg r.d) (reg r.a) (reg r.b) (bit r.m 4) (Fin.ofNat 16 r.m))
  | 0x74 => some (.vor (reg r.d) (reg r.a) (reg r.b) (bit r.m 4) (Fin.ofNat 16 r.m))
  | 0x75 => some (.vxor (reg r.d) (reg r.a) (reg r.b) (bit r.m 4) (Fin.ofNat 16 r.m))
  | 0x76 => some (.vshl (reg r.d) (reg r.a) (reg r.b) (bit r.m 4) (Fin.ofNat 16 r.m))
  | 0x77 => some (.vshr (reg r.d) (reg r.a) (reg r.b) (bit r.m 4) (Fin.ofNat 16 r.m))
  | 0x78 => some (.vsar (reg r.d) (reg r.a) (reg r.b) (bit r.m 4) (Fin.ofNat 16 r.m))
  | 0x79 => some (.vexp (reg r.d) (reg r.a) (bit r.m 4) (Fin.ofNat 16 r.m))
  | 0x7A => some (.vexp2 (reg r.d) (reg r.a) (bit r.m 4) (Fin.ofNat 16 r.m))
  | 0x7B => some (.vlog (reg r.d) (reg r.a) (bit r.m 4) (Fin.ofNat 16 r.m))
  | 0x7C => some (.vrcp (reg r.d) (reg r.a) (bit r.m 4) (Fin.ofNat 16 r.m))
  | 0x7D => some (.vrsq (reg r.d) (reg r.a) (bit r.m 4) (Fin.ofNat 16 r.m))
  | 0x7E => some (.vsqrt (reg r.d) (reg r.a) (bit r.m 4) (Fin.ofNat 16 r.m))
  | 0x7F => some (.vtanh (reg r.d) (reg r.a) (bit r.m 4) (Fin.ofNat 16 r.m))
  | _ => none

/-- The instruction an opcode 0x80 to 0x8F names, its fields read out (R63). -/
def candidate8 (r : RawOp) : Option Instr :=
  match r.op with
  | 0x80 => some (.vsgm (reg r.d) (reg r.a) (bit r.m 4) (Fin.ofNat 16 r.m))
  | 0x81 => some (.vsilu (reg r.d) (reg r.a) (bit r.m 4) (Fin.ofNat 16 r.m))
  | 0x82 => some (.vcvt (reg r.d) (reg r.a) (reg r.c) (Fin.ofNat 128 r.e) (bit r.m 3) (Fin.ofNat 8 r.m))
  | 0x83 => some (.vqnt (reg r.d) (reg r.a) (reg r.b) (reg r.c) (Fin.ofNat 128 r.e) (bit r.m 3) (Fin.ofNat 8 r.m))
  | 0x84 => some (.vdeq (reg r.d) (reg r.a) (reg r.b) (reg r.c) (Fin.ofNat 128 r.e) (bit r.m 3) (Fin.ofNat 8 r.m))
  | 0x85 => some (.vscl (reg r.d) (reg r.a) (reg r.b) (Fin.ofNat 16 r.m))
  | 0x86 => some (.vfill (reg r.d) (reg r.a) (bit r.m 4) (Fin.ofNat 16 r.m))
  | 0x87 => some (.vcpy (reg r.d) (reg r.a) (bit r.m 4) (Fin.ofNat 16 r.m))
  | 0x88 => some (.vbcast (reg r.d) (reg r.a) (reg r.b) (Fin.ofNat 16 r.m))
  | 0x89 => some (.vperm (reg r.d) (reg r.a) (reg r.b) (reg r.c) (Fin.ofNat 16 r.m))
  | 0x8A => some (.vclamp (reg r.d) (reg r.a) (reg r.b) (reg r.c) (bit r.m 4) (Fin.ofNat 16 r.m))
  | 0x8B => some (.vround (reg r.d) (reg r.a) (reg r.c) (bit r.m 3) (Fin.ofNat 8 r.m))
  | 0x8C => some (.vdot (reg r.d) (reg r.a) (reg r.b) (bit r.m 4) (Fin.ofNat 16 r.m))
  | 0x8D => some (.vlerp (reg r.d) (reg r.a) (reg r.b) (reg r.c) (bit r.m 4) (Fin.ofNat 16 r.m))
  | 0x8E => some (.vnorm (reg r.d) (reg r.a) (reg r.b) (bit r.m 4) (Fin.ofNat 16 r.m))
  | 0x8F => some (.vmask (reg r.d) (reg r.a) (reg r.b) (bit r.m 4) (Fin.ofNat 16 r.m))
  | _ => none

/-- The instruction an opcode 0x90 to 0x9F names, its fields read out (R63). -/
def candidate9 (r : RawOp) : Option Instr :=
  match r.op with
  | 0x90 => some (.vsum (reg r.d) (reg r.a) (bit r.m 4) (Fin.ofNat 16 r.m))
  | 0x91 => some (.vrmax (reg r.d) (reg r.a) (bit r.m 4) (Fin.ofNat 16 r.m))
  | 0x92 => some (.vrmin (reg r.d) (reg r.a) (bit r.m 4) (Fin.ofNat 16 r.m))
  | 0x93 => some (.vscan (reg r.d) (reg r.a) (bit r.m 4) (Fin.ofNat 16 r.m))
  | 0x94 => some (.vtopk (reg r.d) (reg r.a) (reg r.b) (Fin.ofNat 128 r.e) (bit r.m 4) (Fin.ofNat 16 r.m))
  | 0x95 => if r.b = 0 then some (.vmrgkBank (reg r.d) (reg r.a) (Fin.ofNat 128 r.e) (Fin.ofNat 16 r.m)) else some (.vmrgkLocal (reg r.d) (reg r.a) (reg r.b) (Fin.ofNat 128 r.e) (Fin.ofNat 16 r.m))
  | 0x96 => some (.vsmx (reg r.d) (reg r.a) (bit r.m 4) (Fin.ofNat 16 r.m))
  | 0x97 => some (.vsmn (reg r.d) (reg r.a) (reg r.b) (bit r.m 4) (Fin.ofNat 16 r.m))
  | 0x98 => some (.vsamp (reg r.d) (reg r.a) (reg r.b) (Fin.ofNat 16 r.m))
  | 0x99 => some (.rng (reg r.d) (reg r.a) (reg r.b))
  | 0x9A => some (.vrng (reg r.d) (reg r.a) (reg r.b) (bit r.m 4) (Fin.ofNat 16 r.m))
  | 0x9B => some (.vcnt (reg r.d) (reg r.a) (bit r.m 4) (Fin.ofNat 16 r.m))
  | 0x9C => some (.mload (reg r.d) (reg r.a) (Fin.ofNat 64 r.m) (Fin.ofNat 128 r.e))
  | 0x9D => some (.mmul (reg r.d) (reg r.a) (Fin.ofNat 64 r.m) (BitVec.ofNat 32 r.imm))
  | 0x9E => if r.m = 0 then some (.mcfgMask (reg r.d) (reg r.a) (reg r.b) (reg r.c) (Fin.ofNat 128 r.e)) else if r.m = 1 then some (.mcfgCancel (reg r.d)) else none
  | 0x9F => if r.m = 0 then some (.maccClr (reg r.d) (reg r.a)) else if r.m = 1 then some (.maccScl (reg r.d) (reg r.a) (reg r.b)) else none
  | _ => none

/-- The instruction an opcode 0xA0 to 0xAF names, its fields read out (R63). -/
def candidate10 (r : RawOp) : Option Instr :=
  match r.op with
  | 0xA0 => some (.mstat (reg r.d))
  | 0xA1 => some (.thdef (reg r.d) (reg r.a) (reg r.b) (reg r.c) (Fin.ofNat 64 r.m))
  | 0xA2 => some (.thld (reg r.d) (reg r.a) (reg r.b) (reg r.c) (bit r.m 4) (Fin.ofNat 16 r.m))
  | 0xA3 => some (.thst (reg r.d) (reg r.a) (reg r.b) (reg r.c) (bit r.m 4) (Fin.ofNat 16 r.m))
  | 0xA4 => some (.thaddr (reg r.d) (reg r.a) (reg r.b) (reg r.c))
  | 0xA5 => some (.relay (reg r.d) (reg r.a) (reg r.b) (reg r.c) (Fin.ofNat 128 r.e))
  | 0xA6 => some (.thqry (reg r.d) (reg r.a) (Fin.ofNat 64 r.m))
  | 0xA7 => some (.thsync (reg r.d) (reg r.a))
  | 0xA8 => some (.send (reg r.a) (reg r.b) (Fin.ofNat 64 r.m))
  | 0xA9 => if r.m = 0 then some (.recvWait (reg r.d)) else if r.m = 1 then some (.recvPoll (reg r.d) (preg r.b)) else none
  | 0xAA => some (.cont (reg r.d) (reg r.a))
  | 0xAB => some (.waitr (reg r.d))
  | 0xAC => some (.cpyq (reg r.d) (reg r.a))
  | 0xAD => some (.cpyqw (reg r.d) (reg r.a))
  | 0xAE => some (.gath (reg r.d) (reg r.a) (bit r.m 0))
  | 0xAF => some (.scat (reg r.d) (reg r.a) (bit r.m 0))
  | _ => none

/-- The instruction an opcode 0xB0 to 0xBF names, its fields read out (R63). -/
def candidate11 (r : RawOp) : Option Instr :=
  match r.op with
  | 0xB0 => some (.mbox (reg r.d) (preg r.b))
  | 0xB1 => some (.waitm (reg r.d))
  | 0xB2 => if r.m = 0 then some (.uisetOff (reg r.d)) else if r.m = 1 then some (.uisetOn (reg r.d)) else none
  | 0xB3 => some (.rspawn (reg r.d) (reg r.a) (reg r.b) (Fin.ofNat 64 r.m) (BitVec.ofNat 32 r.imm))
  | 0xB4 => some (.spawn (reg r.d) (reg r.a) (reg r.b) (Fin.ofNat 64 r.m) (BitVec.ofNat 32 r.imm))
  | 0xB5 => if r.b = 0 then some (.fjoinSync (reg r.d) (reg r.a)) else some (.fjoin (reg r.d) (reg r.a) (reg r.b))
  | 0xB6 => if r.m = 0 then some (.qmapSet (reg r.d) (reg r.a)) else if r.m = 1 then some (.qmapOff (reg r.d)) else none
  | 0xB7 => if r.m = 0 then some (.iqdefNew (reg r.d) (reg r.a) (reg r.b) (reg r.c)) else if r.m = 1 then some (.iqdefDel (reg r.d) (reg r.a)) else none
  | 0xB8 => some (.iqpush (reg r.d) (reg r.a) (reg r.b))
  | 0xB9 => some (.iqpop (reg r.d) (preg r.b) (reg r.a))
  | 0xBA => some (.iqcons (reg r.d) (reg r.a))
  | 0xBB => some (.arrget (reg r.d) (preg r.c) (reg r.a) (reg r.b))
  | 0xBC => some (.arradd (reg r.a) (reg r.b) (reg r.c))
  | 0xBD => some (.iqbind (reg r.d) (reg r.a) (reg r.b) (Fin.ofNat 128 r.e))
  | 0xBE => some (.iqstat (reg r.d) (reg r.a))
  | 0xBF => if r.m = 0 then some (.pktBeg (reg r.d) (reg r.a)) else if r.m = 1 then some (.pktEnd) else if r.m = 2 then some (.pktDisp (reg r.d) (reg r.a) (reg r.b)) else none
  | _ => none

/-- The instruction the opcode and fields name; reserved fields are judged afterwards by encoding it again (R59). -/
def candidate (r : RawOp) : Option Instr :=
  match r.op / 16 with
  | 0 => candidate0 r
  | 1 => candidate1 r
  | 2 => candidate2 r
  | 3 => candidate3 r
  | 4 => candidate4 r
  | 5 => candidate5 r
  | 6 => candidate6 r
  | 7 => candidate7 r
  | 8 => candidate8 r
  | 9 => candidate9 r
  | 10 => candidate10 r
  | 11 => candidate11 r
  | _ => none

/-- The operand fields alone: no tail format, bundle bit or predicate. -/
def RawOp.operands (r : RawOp) : RawOp := { r with tl := 0, bp := 0, p := 0, pn := 0 }
/-- The operand fields in which a reserved one is looked for. The object form of `bar` reads neither `b` nor `c`, but its opcode's
description does, so they are not reserved there (R59; 09 R173). -/
def RawOp.judged (r : RawOp) : RawOp :=
  if r.op = 0x55 && r.a != 0 && !bit r.m 3 then { r.operands with b := 0, c := 0 } else r.operands

/-- The instruction of a head's fields, or none where a tail is too short or a reserved field is not zero (R64). -/
def decodeFields (r : RawOp) : Option Instr :=
  match candidate r with
  | some i => if fieldsOf i = some r.judged && tailOk i r.tl then some i else none
  | none => none

/-- Half-words of a tail format (R53). -/
def tailLen (tl : Nat) : Nat := if tl = 3 then 4 else tl

/-- The fields of a head and the half-words of its tail; a field outside the tail reads zero (R54). -/
def rawOf (head : Nat) (tail : Nat → Nat) : RawOp :=
  let tl := head / 64 % 4
  let t1 := if 1 <= tl then tail 0 else 0
  let t2 := if 2 <= tl then tail 1 else 0
  { op := head / 256 % 256, tl := tl, bp := head / 32 % 2, d := head % 32,
    a := t1 / 2048 % 32, b := t1 / 64 % 32, m := t1 % 64,
    p := t2 / 8192 % 8, pn := t2 / 4096 % 2, c := t2 / 128 % 32, e := t2 % 128,
    imm := if tl = 3 then tail 2 % 65536 + 65536 * (tail 3 % 65536) else 0 }

/-- Decode a head and its tail (R53, R54, R58); none is illegal opcode, fields outside their range excepted
(those are judged by `wellFormed`). -/
def decodeHead (head : Nat) (tail : Nat → Nat) : Option Op :=
  let r := rawOf head tail
  match decodeFields r with
  | some i => some { instr := i, tl := r.tl, bp := r.bp == 1, p := preg r.p, pn := r.pn == 1 }
  | none => none

/-- The head half-word and the four tail half-words of a raw operation; only the first `tailLen` of them are stored. -/
def RawOp.head (r : RawOp) : Nat := r.op * 256 + r.tl * 64 + r.bp * 32 + r.d
def RawOp.t1 (r : RawOp) : Nat := r.a * 2048 + r.b * 64 + r.m
def RawOp.t2 (r : RawOp) : Nat := r.p * 8192 + r.pn * 4096 + r.c * 128 + r.e
def RawOp.tail (r : RawOp) (k : Nat) : Nat :=
  match k with
  | 0 => r.t1 | 1 => r.t2 | 2 => r.imm % 65536 | 3 => r.imm / 65536 | _ => 0

/-- The fields of a decoded head. -/
def Op.raw (o : Op) : Option RawOp :=
  match fieldsOf o.instr with
  | some r => some { r with tl := o.tl, bp := o.bp.toNat, p := o.p.val, pn := o.pn.toNat }
  | none => none

/-- Whether the fields of a raw operation lie inside its tail (R54). -/
def RawOp.fits (r : RawOp) : Bool :=
  (1 <= r.tl || (r.a == 0 && r.b == 0 && r.m == 0)) &&
  (2 <= r.tl || (r.p == 0 && r.pn == 0 && r.c == 0 && r.e == 0)) && (r.tl == 3 || r.imm == 0)

/-- A head that can be encoded: a well-formed instruction in a tail its opcode admits that holds all its fields. -/
def Op.wf (o : Op) : Bool :=
  match o.raw with
  | some r => wellFormed o.instr && tailOk o.instr o.tl && r.fits
  | none => false

/-- The words of a head: its half-word, then the half-words of its tail in order (R54). -/
def encode (o : Op) : List Nat :=
  match o.raw with
  | some r => r.head :: (List.range (tailLen r.tl)).map r.tail
  | none => []

/-- Decode the words `encode` lays out. -/
def decodeWords (ws : List Nat) : Option Op :=
  match ws with
  | h :: t => decodeHead h (fun k => t.getD k 0)
  | [] => none

/-- A line: 32 half-words, header first (R52). -/
abbrev Line := List Nat

def Line.hw (l : Line) (i : Nat) : Nat := l.getD i 0
/-- Number of heads and number of tail half-words (R52). -/
def Line.nh (l : Line) : Nat := l.hw 0 % 32
def Line.nt (l : Line) : Nat := l.hw 0 / 32 % 32
/-- Tail length of head `i`. -/
def Line.headLen (l : Line) (i : Nat) : Nat := tailLen (l.hw i / 64 % 4)
/-- Sum of the tail lengths of heads 1 to `k`. -/
def Line.lens (l : Line) : Nat → Nat
  | 0 => 0
  | k + 1 => l.lens k + l.headLen (k + 1)
/-- The half-word at which the tail of head `i` begins (R55). -/
def Line.tailStart (l : Line) (i : Nat) : Nat := 32 - l.nt + l.lens (i - 1)
/-- A legal line (R52). -/
def Line.legal (l : Line) : Bool :=
  1 <= l.nh && l.nh + l.nt <= 31 && l.lens l.nh == l.nt && l.hw 0 / 1024 == 0
/-- Decode head `i` of a line. -/
def Line.decode (l : Line) (i : Nat) : Option Op :=
  decodeHead (l.hw i) (fun k => l.hw (l.tailStart i + k))

/-- A line of one head, its tail packed at the back, padding zero (R52). -/
def lineOf (head : Nat) (tail : Nat → Nat) : Line :=
  let n := tailLen (head / 64 % 4)
  (n * 32 + 1) :: head :: ((List.replicate (30 - n) 0) ++ (List.range n).map tail)

/-- The head and tail of a table word: a 16-bit row is a head; in a longer row the head stands in the top half-word
and T1, T2 and the halves of imm32 follow downward. Bits the row does not give are zero. -/
def tableHead (nbits w : Nat) : Nat := w / 2 ^ (nbits - 16) % 65536
def tableTail (nbits w k : Nat) : Nat :=
  if 16 * (k + 2) <= nbits then w / 2 ^ (nbits - 16 * (k + 2)) % 65536 else 0

/-- The instruction the decoder reads from a table word. -/
def decodeTableWord (nbits w : Nat) : Option Instr :=
  match decodeHead (tableHead nbits w) (tableTail nbits w) with
  | some o => some o.instr
  | none => none

end Sys2Proof
end

