-- ==== Sys2Proof/Machine/Bits.lean ====
section
/-!
DEFINITION. Bit fields, sign extension, packed elements and little-endian byte strings (R4, R85, R100).
-/
namespace Sys2Proof.Machine

/-- Bits `hi:lo` of a number. -/
def bits (x hi lo : Nat) : Nat := x / 2 ^ lo % 2 ^ (hi + 1 - lo)
/-- Bit `k` of a number. -/
def tbit (x k : Nat) : Bool := x / 2 ^ k % 2 == 1
/-- `x` with bits `hi:lo` replaced. -/
def setBits (x hi lo v : Nat) : Nat :=
  x - bits x hi lo * 2 ^ lo + v % 2 ^ (hi + 1 - lo) * 2 ^ lo

/-- A 64-bit word of a number, modulo 2^64. -/
def wd (n : Nat) : Word := BitVec.ofNat 64 n
/-- A 64-bit word of an integer, modulo 2^64. -/
def wdInt (n : Int) : Word := BitVec.ofInt 64 n

/-- The low `w` bits, as a two's complement integer. -/
def signed (w x : Nat) : Int :=
  let v := x % 2 ^ w
  if 2 ^ (w - 1) ≤ v then (v : Int) - 2 ^ w else v
/-- An integer as `w` bits of two's complement. -/
def unsignedOf (w : Nat) (x : Int) : Nat := (x % (2 ^ w : Nat)).toNat
/-- `sx(v, w)` and `zx(v, w)` of R85. -/
def sx (w : Nat) (v : Word) : Word := wdInt (signed w v.toNat)
def zx (w : Nat) (v : Word) : Word := wd (v.toNat % 2 ^ w)
/-- The signed 32-bit immediate as a 64-bit word. -/
def sxImm (imm : BitVec 32) : Word := wdInt (signed 32 imm.toNat)

/-- The elements of width `w` of an `n`-bit value, least significant first (R85, R100). -/
def elems (w n x : Nat) : List Nat := (List.range (n / w)).map fun i => x / 2 ^ (w * i) % 2 ^ w
/-- Pack elements of width `w`, the first least significant. -/
def packEl (w : Nat) : List Nat → Nat
  | [] => 0
  | e :: es => e % 2 ^ w + 2 ^ w * packEl w es

/-- Element-wise functions of one, two and three packed words (R100). -/
def map1 (w : Nat) (f : Nat → Nat) (x : Word) : Word := wd (packEl w ((elems w 64 x.toNat).map f))
def map2 (w : Nat) (f : Nat → Nat → Nat) (x y : Word) : Word :=
  wd (packEl w (List.zipWith f (elems w 64 x.toNat) (elems w 64 y.toNat)))

/-- Bytes of a number, least significant first (R4). -/
def bytesOf : Nat → Nat → List Byte
  | 0, _ => []
  | n + 1, x => BitVec.ofNat 8 x :: bytesOf n (x / 256)
/-- The number whose little-endian bytes these are. -/
def ofBytes : List Byte → Nat
  | [] => 0
  | b :: bs => b.toNat + 256 * ofBytes bs

/-- The little-endian field of `n` bytes at an offset of a byte string. -/
def field (bs : List Byte) (off n : Nat) : Nat := ofBytes ((bs.drop off).take n)

/-- Round `n` up to a multiple of `k`. -/
def roundUp (n k : Nat) : Nat := (n + k - 1) / k * k
/-- Quotient rounded up. -/
def cdiv (n k : Nat) : Nat := (n + k - 1) / k

/-- Replace the entry at a place of a list. -/
def setAt {α : Type} (l : List α) (i : Nat) (v : α) : List α := l.set i v

/-- Insert into a strictly rising list of numbers; a number already there stays once. -/
def insertNat (k : Nat) : List Nat → List Nat
  | [] => [k]
  | x :: xs => if k < x then k :: x :: xs else if k = x then x :: xs else x :: insertNat k xs

/-- Insert into a list kept in rising order of a key, before the first greater entry. -/
def insertBy {α : Type} (key : α → Nat) (a : α) : List α → List α
  | [] => [a]
  | x :: xs => if key a < key x then a :: x :: xs else x :: insertBy key a xs
/-- Sort by a key; entries of equal key keep their order. -/
def sortBy {α : Type} (key : α → Nat) : List α → List α
  | [] => []
  | x :: xs => insertBefore x (sortBy key xs)
where
  insertBefore (a : α) : List α → List α
    | [] => [a]
    | x :: xs => if key a ≤ key x then a :: x :: xs else x :: insertBefore a xs

/-- No repeats, first occurrences kept. -/
def dedup : List Nat → List Nat
  | [] => []
  | x :: xs => x :: (dedup xs).filter (fun y => y != x)

end Sys2Proof.Machine
end

