-- ==== Sys2Proof/Machine/State.lean ====
section
/-!
DEFINITION. The state of one AMZ40-B package, as plain data, and the state after reset. Every structure's docstring names
the rules of spec/ its fields come from; a value the spec gives no reset for is named in notes/assumptions.
Memory bytes are keyed by canonical physical address: selector 1 form for private memory, selector 2 form for shared
SRAM, 4, 5 or 6 times 2^60 plus the physical address for DRAM, CXL and host memory. A quad key is die * 4096 + quad.
-/
namespace Sys2Proof.Machine

/-- What stops the machine. No instruction ends in one of these: where a rule names a trap or gives a result, that is a
next state. The type has one constructor so that a stop could be told from a refusal. -/
inductive Fault where
  /-- A step whose state holds no such agent (raised by no meaning of this model; safe). -/
  | noAgent
  deriving DecidableEq, Repr

/-- Why the model gives no next state. -/
inductive Refusal where
  /-- An instruction without a meaning, raised in Dispatch only (safe). -/
  | notModelled (mnemonic : String)
  /-- A read of the BAR 2 registers window: R376 says that its reads have effects and does not say which. Raised by
  REGISTERS_WINDOW_READ only (safe). -/
  | registersWindow
  deriving DecidableEq, Repr

/-- The bytes of memory: listed cells in strictly rising order, none equal to what its address reads unlisted, and the
number of the memory key under which each quad's stacked memory was last given out (07 R139, R140). -/
structure Memory where
  cells : List Host.Cell
  keyNo : List (Nat × Nat)
  deriving DecidableEq, Repr

/-- A held claim, live or ceded in the current instant (02 R34, R35). -/
structure Claim where
  sig : Nat
  live : Bool
  deriving DecidableEq, Repr

/-- A guard entry: kind, signal, exit, block instance, and whether this thread owns the instance (02 R43). -/
structure Guard where
  abort : Bool
  sig : Nat
  exit : Nat
  id : Nat
  own : Bool
  deriving DecidableEq, Repr

/-- Thread states of 02 R21; a terminated thread stands in `ended`, no longer among the threads. -/
inductive TStat where
  | running | held | parked | paused | suspended | terminated
  deriving DecidableEq, Repr

/-- How a waiting instruction completes: destinations of its value, second value and predicate, access width and sign,
and the PC that follows it. A destination of 0 discards. -/
structure Done where
  d : Nat
  d2 : Nat
  pd : Nat
  width : Nat
  sext : Bool
  succ : Nat
  deriving DecidableEq, Repr

/-- What a thread out of rotation waits for (02 R24, 11 R190, 12 R217). -/
inductive Why where
  /-- The reply to a request. -/
  | reply (req : Nat)
  /-- Parked on an object of kind `ok` (09 R178, 11 R190). -/
  | parked (obj ok : Nat)
  /-- Parked on the children it has not seen end (02 R46). -/
  | children
  /-- A page walk, or the host's answer to its missing translation (11 R207, R208). -/
  | walk (id : Nat)
  /-- Its earlier accesses homed in an extent, updates and cedes too (08 R144, R149; 05 R86). -/
  | drain (scope : Nat)
  /-- Its earlier die-local accesses and messages (08 R144). -/
  | near
  /-- Its earlier accesses homed in an extent, but no update and no cede: a release that does not wait for those
  (08 R147, R149). -/
  | stores (scope : Nat)
  /-- What a fence covers, and the fault reports still on their way to it (09 R163, R172). -/
  | fence (scope : Nat)
  /-- Its own earlier accesses, other than plain stores, to the words of an extent (08 R143). -/
  | words (key len : Nat)
  /-- Its own earlier additions to an arrangement (18 R326). -/
  | adds (base : Nat)
  /-- The drains that its `fence.drn` has sent (09 R172). -/
  | drains
  /-- The walks of an identifier that began before its `tlbi` (12 R220): the number of the first later one. -/
  | tlbi (asid before : Nat)
  /-- Every earlier access of its own to the words of an extent: what it does at once comes after them (08 R143). -/
  | same (key len : Nat)
  /-- The words that its handle-mode chunk reads, asked of their homes, each with its address, by requests numbered from `since`
  (17 R290). -/
  | gather (since : Nat) (words : List (Nat × Nat))
  /-- Writes to a word that were admitted before, and reads of one (15 R265 to R267). -/
  | moves (word : Nat)
  | readers (word : Nat)
  /-- Room in the store buffer for `n` entries (02 R24). -/
  | buffer (n : Nat)
  /-- Room in the send buffer, the copy FIFO or the post buffer (19 R337, R330; 20 R351). -/
  | sendRoom | copyRoom | postRoom
  /-- The value of its live continuation (21 R363). -/
  | cont
  /-- The end of a handle's conversion (17 R314). -/
  | sync (handle : Nat)
  /-- A fabric channel (19 R334). -/
  | channel (desc : Nat)
  /-- Its operation on a rectangle's sequencer (16 R287). -/
  | matrix (rect : Nat)
  /-- The supervisor context (12 R217, 11 R200). -/
  | super
  deriving DecidableEq, Repr

/-- A wait. `again` marks an instruction that issues afresh when its wait is over, having had no effect; `half` one
half of a bundle whose other half has completed (03 R61). -/
structure Wait where
  why : Why
  again : Bool
  half : Bool
  fin : Done
  deriving DecidableEq, Repr

/-- A trap: class, `sr.tval` and the `kind` bit (11 R198, 12 R216). -/
structure Trap where
  cls : Nat
  tval : Nat
  kind : Nat
  deriving DecidableEq, Repr

/-- A handle-mode issue under way: its operation, the PC of its head, the PC after it, whether a bundle partner has
completed, the next chunk, what the chunks so far have gathered, the registers and popped values its first chunk
read, and the counter its draws begin at (14 R243; 17 R290). -/
structure Stream where
  instr : Instr
  head : Nat
  next : Nat
  half : Bool
  chunk : Nat
  acc : List Nat
  regs : Vector Word 32
  pops : List (Nat × Word)
  ctr : Nat
  deriving DecidableEq, Repr

/-- An operation parked before it had any effect: its head and the second head of its bundle, which completes when it is
woken and is not issued again (00 R9; 15 R266; 20 R353), with the PC after it and the leader's outcome in a gang. -/
structure Parked where
  op : Op
  v : Option Op
  succ : Nat
  lead : Option (Nat × Bool)
  half : Bool
  deriving DecidableEq, Repr

/-- What a later chunk of a handle-mode issue leaves when it parks: the stream itself stands in the thread. -/
def Parked.ofStream (x : Stream) : Parked :=
  { op := { instr := x.instr, tl := 0, bp := false, p := 0, pn := false }, v := none, succ := x.next, lead := none, half := x.half }

/-- A thread context; `heldBy` is the instance of the suspend guard that holds it (02 R22, R44; 12 R219; 05 R109; 11 R198; 21 R362, R369; 14 R248; 19 R335). -/
structure Thread where
  gid : Nat
  uid : Nat
  dom : Nat
  stat : TStat
  regs : Vector Word 32
  preds : Vector Bool 8
  pc : Word
  shFmt : Word
  shScl : Word
  args : Vector Word 4
  launchArgs : Vector Word 4
  tidNo : Nat
  prioBase : Nat
  prioCeil : Nat
  wdlim : Nat
  wdlimMax : Nat
  wdStart : Nat
  wdRun : Bool
  wdFired : Bool
  wdArmed : Bool
  cause : Word
  tval : Word
  epc : Word
  trec : Word
  uih : Word
  uien : Word
  asid : Nat
  claims : List Claim
  guards : List Guard
  shadow : Vector Word 4
  saved : Vector Word 4
  handler : Bool
  uiOn : Bool
  uiOnce : Bool
  halfOnly : Bool
  qmap : Nat
  contSeq : Nat
  contReg : Option Nat
  contVal : Option Word
  sqKey : Nat
  sqCtr : Nat
  task : Bool
  triggered : Bool
  depRec : Nat
  children : List Nat
  sendPart : Option (Nat × List Nat)
  recvPart : List Nat
  wait : Option Wait
  lastIssue : Option Nat
  stream : Option Stream
  streamQ : List Stream
  parked : Option Parked
  dfr : List Trap
  cycle : Option Trap
  wdPending : Bool
  heldBy : Option Nat
  seq : Nat
  words : List (Nat × Nat × Bool)
  /-- Entries that the instruction at the PC has put in the store buffer so far, and the packet of a dependant that it has still to post
  (02 R24; 20 R351). -/
  entered : Nat
  postDue : Nat
  /-- The elements that the chunk at the PC has taken from channels or put into them so far, in order (19 R334). -/
  took : List Nat
  deriving DecidableEq, Repr

/-- A place in the mesh: channel (0 req, 1 rep, 2 msg, 3 blk.a, 4 blk.b), where it stands, where it goes, under drift routing where it
goes on to from its intermediate quad, the port it came in by, since when it waits there, its age and urgency (19 R339 to R341). -/
structure Hop where
  chan : Nat
  cur : Nat
  dst : Nat
  mid : Option Nat
  port : Dir
  since : Nat
  age : Nat
  urgent : Bool
  deriving DecidableEq, Repr

/-- What a request does at its home (07, 08, 09, 18). -/
inductive ReqOp where
  | load (n : Nat)
  | pair
  | ldc (n : Nat) (sext : Bool) (cont : Nat)
  | feqry
  | store (bytes : List Byte) (mask : Nat)
  | zero (len : Nat)
  | feset (empty : Bool)
  | fe (wantFull isLoad makeEmpty : Bool) (n data : Nat)
  | upd (fn operand : Nat)
  | updr (fn operand : Nat)
  | updcfgLd (fn : Nat) (image : Nat)
  | updcfgSt (fn : Nat)
  | updcfgClr (fn : Nat)
  | cas (n cmp new : Nat)
  | swap (n v : Nat)
  | fadd (n v : Nat)
  | lrw (n : Nat)
  | sch (n v : Nat)
  | rsvx
  | barinit (auto : Bool) (cnt : Nat)
  | barObj
  /-- A signal or queue operation, or a question, whose effect at its home is done: its answer is on the way (02 R24). -/
  | asked
  /-- The second half of an `ldp` of CXL or host memory, with the first half's value (09 R159). -/
  | pairHi (lo : Nat)
  | cede (sig : Nat)
  | arrget (key : Nat)
  /-- The masked elements of a row, for the outlier core of a rectangle, and that core's contributions to a core of the south edge (16
  R279). -/
  | masked (rect row : Nat) (els : List Nat)
  | contrib (rect row core : Nat)
  /-- 64 bytes in one access, for the chunk that waits for them (15 R262; 17 R309). -/
  | line
  | arradd (akey v : Nat)
  | copyEl (bytes : List Byte)
  | iqbind (oth : Bool) (tid : Nat) (prod : Bool)
  /-- A result of the matrix sequencer written to its tile element, or added to it (16 R288). -/
  | tile (acc : Bool) (v : Nat)
  /-- The sequencer's answer to `mstat`, with its third word (17 R308). -/
  | stat (third : Nat)
  /-- A word that a handle-mode chunk reads (17 R289, R290). -/
  | word
  /-- A bank's top-k merge of some entries into the list of `k` at its word, in a format (13 R231). -/
  | topk (fmt k : Nat) (entries : List Nat)
  deriving DecidableEq, Repr

/-- The answer of a home: value, second value, predicate, a trap, or that the request parked. -/
structure Res where
  val : Nat
  val2 : Nat
  pred : Bool
  trap : Option Trap
  deriving DecidableEq, Repr

/-- A request of a thread or an engine, in the store buffer, in the mesh, at its home or on its way back (02 R24,
08 R142 to R149, 07 R135). `uid` 0 marks an engine's write; `seq` is the thread's program order; `place` is the home's
quad; `carried` marks a request combined into another, which lists it in `comb`. -/
structure Req where
  id : Nat
  gid : Nat
  uid : Nat
  seq : Nat
  op : ReqOp
  key : Nat
  len : Nat
  va : Nat
  place : Nat
  scope : Nat
  rel : Bool
  acq : Bool
  posted : Bool
  part : Nat
  dom : Nat
  prio : Nat
  hop : Hop
  res : Option Res
  resendAt : Nat
  bucket : Bool
  comb : List Nat
  carried : Bool
  born : Nat
  /-- The conversion (by its handle's key) and granule at which a write was admitted, or whose move it is (15 R265, R266). -/
  adm : Option (Nat × Nat) := none
  deriving DecidableEq, Repr

/-- A full/empty operation waiting at its word's home, in arrival order (07 R128, R129). -/
structure FeWait where
  word : Nat
  req : Req
  remote : Bool
  deriving DecidableEq, Repr

/-- A reservation, held or queued, in arrival order of its word, with the scope of its `lrw` and the offset it reads at
(07 R136, R137; 08 R148). -/
structure Rsv where
  word : Nat
  gid : Nat
  uid : Nat
  hold : Bool
  scope : Nat
  off : Nat
  deriving DecidableEq, Repr

/-- A thread parked at a barrier object, with the generation it arrived at (09 R176, R177). -/
structure BarWait where
  word : Nat
  gid : Nat
  uid : Nat
  gen : Nat
  deriving DecidableEq, Repr

/-- An arrival at a network barrier: operand, the bank it drains, and whether its thread has trapped since (06 R117;
09 R173 to R175). -/
structure Arrival where
  gid : Nat
  uid : Nat
  operand : Nat
  drain : Option Nat
  gone : Bool
  deriving DecidableEq, Repr

/-- A network barrier in progress; once every participant has arrived, `draining` lists the drains it waits for (06 R117,
09 R174, R175). -/
structure NetBar where
  dom : Nat
  obj : Nat
  scope : Nat
  red : Nat
  drn : Bool
  arrivals : List Arrival
  poisoned : Bool
  draining : Option (List Nat)
  deriving DecidableEq, Repr

/-- An entry of a die's wait-for table (11 R188). -/
structure Edge where
  die : Nat
  idx : Nat
  obj : Nat
  ok : Nat
  ek : Nat
  gid : Nat
  unc : Bool
  deriving DecidableEq, Repr

/-- A drain on its way to a bank: the thread whose `fence.drn` waits for it, or, with `uid` 0, the network barrier of a domain
that does (06 R117, R119; 09 R172). -/
structure DrainMsg where
  bank : Nat
  uid : Nat
  dom : Nat
  obj : Nat
  deriving DecidableEq, Repr

/-- A message between dies about a wait on an object of another die: the woken thread and how it completes (11 R191). -/
structure Crossing where
  id : Nat
  gid : Nat
  uid : Nat
  val : Nat
  val2 : Nat
  pred : Bool
  deriving DecidableEq, Repr

/-- A walk for cycles that goes on at another die: the thread whose wait edge started it, that edge, whether the background
checker did, the edges traversed, the threads seen, and the edges to follow, each with the path to it (11 R191 to R193). -/
structure WalkMsg where
  id : Nat
  die : Nat
  gid : Nat
  uid : Nat
  edge : Edge
  checker : Bool
  n : Nat
  seen : List Nat
  work : List (Edge × List Edge)
  deriving DecidableEq, Repr

/-- A deferred fault on its way to its thread (09 R163). -/
structure Report where
  id : Nat
  uid : Nat
  trap : Trap
  deriving DecidableEq, Repr

/-- A translation entry (11 R204 to R206). -/
structure Tlb where
  asid : Nat
  sel : Nat
  va : Nat
  size : Nat
  pa : Nat
  perm : Nat
  deriving DecidableEq, Repr

/-- A walk in flight, a miss in the FIFO, or a walk that awaits the host: the threads that wait on it, each with its first
faulting address, and what it is about (11 R207, R208; 22 R387). `state`: 0 in the FIFO, 1 in flight,
2 waiting for room in the host's queue, 3 posted to the host, 4 to be retried because the FIFO was full, at the clock `num`. -/
structure Walk where
  id : Nat
  die : Nat
  quad : Nat
  part : Nat
  dom : Nat
  asid : Nat
  sel : Nat
  va : Nat
  acc : Nat
  first : Nat
  waiters : List (Nat × Nat)
  state : Nat
  num : Nat
  discard : Bool
  deriving DecidableEq, Repr

/-- An image installed in a bank: its 64 bytes, its status word and its squall counter (07 R130, R131; 06 R120; 14 R243). -/
structure BankFn where
  num : Nat
  image : Nat
  nspill : Nat
  unord : Bool
  ovf : Bool
  sqCtr : Nat
  deriving DecidableEq, Repr

/-- A held update: its issuer and partition, and the address the issuer used (06 R118, 07 R140, 09 R163). -/
structure Held where
  gid : Nat
  uid : Nat
  part : Nat
  va : Nat
  seq : Nat
  word : Nat
  fn : Nat
  operand : Nat
  deriving DecidableEq, Repr

/-- A bank update unit: user functions, hands (each bound to a word) and overflow list (06 R118, 07 R130). -/
structure Bank where
  key : Nat
  fns : List BankFn
  hands : List (Nat × List Held)
  overN : List Held
  deriving DecidableEq, Repr

/-- A monitor unit (12 R221). -/
structure Mon where
  on : Bool
  src : Nat
  min : Nat
  max : Nat
  total : Nat
  seen : Bool
  bins : List Nat
  edges : List Nat
  /-- Of the times that are multiples of 64 clocks, the last one sampled. -/
  tick : Nat
  deriving DecidableEq, Repr

/-- A gang: its leader's core and slot, and the issues its followers still owe: follower, PC, the clock it is due, and
the leader's next PC and predicate outcome (02 R28, R29). -/
structure Gang where
  leader : Nat
  slot : Nat
  todo : List (Nat × Nat × Nat × Nat × Bool)
  deriving DecidableEq, Repr

/-- A row of activations in a row buffer: its number, whether every group is finite, and of each group of 32 the mantissas and
the exponent (14 R246; 16 R274). -/
structure BufRow where
  row : Nat
  finite : Bool
  groups : List (List Int × Int)
  deriving DecidableEq, Repr

/-- A quad: owner, translation table, monitors, gang, its macro's slot images, and its router: for each output the channel
whose turn it is and the flits left of it, and the input buffers that signal stop (22 R388; 11 R204; 12 R221; 02 R28; 16
R272; 19 R339, R340). -/
structure Quad where
  key : Nat
  part : Option Nat
  tlb : List Tlb
  mons : List Mon
  gang : Option Gang
  slots : List (Nat × Nat)
  /-- The checksum rows of its macro's slots, the rows in its row buffer, and the partials that its macro holds for a row (16 R272,
  R274, R275, R286). -/
  sums : List (Nat × List Int)
  rowBuf : List BufRow
  parts : List (Nat × List Nat)
  turns : List (Nat × Nat × Nat)
  stops : List (Nat × Nat)
  /-- The clock at which a flit last left each input buffer, by port and channel (19 R340). -/
  gone : List ((Nat × Nat) × Nat)
  deriving DecidableEq, Repr

/-- A deque or post-buffer entry (20 R344). -/
structure DEnt where
  pc : Nat
  frame : Nat
  regs : List Nat
  gid : Nat
  uid : Nat
  task : Bool
  dom : Nat
  ra : Nat
  rb : Nat
  seq : Nat
  prio : Nat
  deriving DecidableEq, Repr

/-- A completion in a mailbox: its word, the thread it is addressed to and the command's scope (18 R318, 19 R330, 08 R151). -/
structure Compl where
  slot : Nat
  uid : Nat
  dom : Nat
  word : Nat
  scope : Nat
  acq : Bool
  deriving DecidableEq, Repr

/-- A flit of a message: header, payload, and its sender (19 R335). -/
structure Flit where
  hdr : Nat
  words : List Nat
  src : Nat
  dom : Nat
  deriving DecidableEq, Repr

/-- A message between injection and acceptance (19 R335 to R338). -/
structure Msg where
  id : Nat
  flit : Flit
  seq : Nat
  srcUid : Nat
  hop : Hop
  resendAt : Nat
  prio : Nat
  ldc : Option Nat
  deriving DecidableEq, Repr

/-- A core; `issuedAt` is the clock of its latest issue (02 R23 to R27; 05 R93; 15 R262; 19 R330, R336, R337; 20 R344, R351, R353; 11 R200). -/
structure Core where
  key : Nat
  budget : Int
  refill : Nat
  last : Nat
  released : List Nat
  relClock : Nat
  status : List (Nat × Nat × Bool)
  handles : List (Nat × Nat × Nat)
  fifo : List Nat
  mail : List Compl
  deque : List DEnt
  dseq : Nat
  post : List DEnt
  hwq : Vector (List Word) 4
  recv : List Flit
  posted : List (Nat × Nat)
  halted : Bool
  issuedAt : Option Nat
  deriving DecidableEq, Repr

/-- A copy or streamer command: its request words, issuer and flags, and how far it has come (19 R328 to R333).
`kind`: 0 copy, 1 gather, 2 scatter, 3 the completion of a conversion. `state`: 0 in the FIFO, 1 in flight, 2 finished and
waiting for a mailbox place. `total` counts elements done. -/
structure Copy where
  id : Nat
  core : Nat
  gid : Nat
  uid : Nat
  dom : Nat
  part : Nat
  asid : Nat
  ef : Nat
  seq : Nat
  kind : Nat
  w0 : Nat
  w1 : Nat
  w2 : Nat
  w3 : Nat
  state : Nat
  total : Nat
  cnt : Nat
  status : Nat
  deriving DecidableEq, Repr

/-- A conversion at a die's shuffler (15 R263 to R271). Granule states: 0 old, 1 moving, 2 new. `stop` is 0, 2 or 3. -/
structure Conv where
  handle : Nat
  handleVa : Nat
  die : Nat
  record : Nat
  oldBase : Nat
  oldCtl : Nat
  gran : List Nat
  stop : Nat
  tval : Nat
  flags : Nat
  gid : Nat
  uid : Nat
  dom : Nat
  part : Nat
  asid : Nat
  ef : Nat
  /-- The issuer's accesses so far, which an acquire flag orders before the shuffler's reads (15 R263; 08 R150). -/
  seq : Nat
  /-- The moving granule's elements have been read, and their writes are on their way (15 R265). -/
  copied : Bool
  deriving DecidableEq, Repr

/-- A sequencer operation: which, by whom, and its operands as read at issue (16 R280 to R288; 17 R304 to R307). -/
inductive MatOp where
  | mload (slot : Nat) (handle : Nat) (flags : Nat) (raw : Nat)
  | mmul (op : Nat) (handle : Nat) (imm : Nat) (shFmt shScl : Nat) (raw : Nat)
  | mask (list : List Nat) (core handle : Nat)
  | cancel
  | clr (rows : Nat)
  | scl (rows factor : Nat)
  deriving DecidableEq, Repr

/-- A rectangle and its sequencer (04 R79; 16 R273, R279, R281; 17 R305; 11 R201). -/
structure Rect where
  id : Nat
  dom : Nat
  part : Nat
  die : Nat
  quad : Nat
  rows : Nat
  cols : Nat
  acc : Nat
  st : Nat
  why : Nat
  mr : Nat
  accF : Bool
  slot : Nat
  grp : Nat
  step : Nat
  aAddr : Nat
  imm : Nat
  mask : List Nat
  maskCore : Nat
  maskHandle : Nat
  reload : List (Nat × Nat)
  queue : List (Nat × Nat × MatOp)
  /-- Row groups that are loaded, whether a checksum has failed, the masked elements of the rows in hand, and the weights that meet
  them (16 R274, R279, R286). -/
  loaded : Nat
  failed : Bool
  sent : List (Nat × List Nat)
  weights : List (Nat × List Nat)
  /-- The contributions of the outlier core that have come to the south edge: row and core (16 R279). -/
  got : List (Nat × Nat)
  /-- The address space of the operation at the head, and whether its domain has ended while it runs on (16 R282). -/
  asid : Nat
  orphan : Bool
  deriving DecidableEq, Repr

/-- A signal entry with its current and previous value (02 R31, R32, R33). `st`, `pst`: 0 undecided or none, 1 present, 2 absent. -/
structure Sig where
  st : Nat
  out : Bool
  cmb : Nat
  ty : Nat
  cnt : Nat
  inst : Nat
  pst : Nat
  val : Nat
  prev : Nat
  deriving DecidableEq, Repr

/-- Domain states of 02 R30; `closing k` has performed dealer steps 1 to k. -/
inductive DStat where
  | created | reacting | closing (k : Nat) | suspended | terminated | aborted
  deriving DecidableEq, Repr

/-- A domain; `largs` are its launch arguments (02 R22, R30; 01 R16; 03 R56; 05 R109; 22 R381 to R385). -/
structure Domain where
  num : Nat
  stat : DStat
  fn : Nat
  part : Nat
  asid : Nat
  seed : Nat
  wdlim : Nat
  home : Nat
  sigOff : Nat
  sigs : List Sig
  inst : Nat
  inputs : List (Nat × Nat)
  outs : List (Nat × List (Nat × Nat × Nat))
  endWord : Nat
  endVal : Nat
  endTval : Nat
  code : List (Nat × Nat)
  forks : List Nat
  tidCtr : Nat
  largs : Vector Word 4
  suspendTo : Option Nat
  saveAt : Option Nat
  deriving DecidableEq, Repr

/-- A record of an incremental queue (18 R315, R321). -/
structure IqRec where
  key : Nat
  val : Nat
  mult : Nat
  time : Nat
  isOpen : Bool
  deriving DecidableEq, Repr

/-- An incremental queue: ring and spill in one order, the first `ringN` in the ring; `rhead` and `head` are the places of the
oldest record of the ring and of the spill (18 R315 to R322, 20 R355, R356; log 70). -/
structure Iq where
  id : Nat
  dom : Nat
  bank : Nat
  spill : Nat
  cap : Nat
  recs : List IqRec
  ringN : Nat
  rhead : Nat
  head : Nat
  cons : Option Nat
  prods : List Nat
  closed : Bool
  consGone : Bool
  deriving DecidableEq, Repr

/-- An arrangement: the address of its first byte, buckets, and the domains it belongs to (18 R324, R326; 04 R81; log 37). -/
structure Arr where
  base : Nat
  buckets : Nat
  part : Nat
  doms : List Nat
  deriving DecidableEq, Repr

/-- A loaded object: the ranges of its sections, those its allocation map enters as used, and its measurement (04 R82 to R84;
22 R392). -/
structure Obj where
  part : Nat
  doms : List Nat
  sections : List (Nat × Nat)
  used : List (Nat × Nat)
  measure : List Byte
  deriving DecidableEq, Repr

/-- A ring in host memory: base, entries, notify address, consumed-count address, its last reading, records written
(22 R380, R387). -/
structure Ring where
  base : Nat
  entries : Nat
  notify : Nat
  consAt : Nat
  cons : Nat
  n : Nat
  deriving DecidableEq, Repr

/-- A partition. A token bucket is a port and the point, in tokens times 1,024 earned since reset, at which it is full again
(22 R388 to R390; 11 R205; 19 R342). -/
structure Partition where
  num : Nat
  policy : Nat
  keys : List (List Byte × List Byte)
  roots : List (Nat × Nat × Nat × Nat)
  faultQ : Option Ring
  recNum : Nat
  rates : List (Nat × Nat × Nat)
  buckets : List (Nat × Nat)
  deriving DecidableEq, Repr

/-- A command accepted on a page, and its result once its effects are done (22 R378 to R382). -/
structure Cmd where
  bytes : List Byte
  result : Option (Nat × Nat × Nat)
  deriving DecidableEq, Repr

/-- A submission page (22 R377, R380, R386). -/
structure Page where
  fn : Nat
  page : Nat
  gen : Nat
  acc : Nat
  done : Nat
  ring : Ring
  cmds : List Cmd
  recent : List (List Byte × Bool)
  reattach : Bool
  deriving DecidableEq, Repr

/-- A die: wait-for table overflow counter, translation store, health counters, drift routing, and the `refill` field of
its cores that have no record of their own (11 R196, R204; 22 R394, R395; 19 R341; 02 R25). -/
structure Die where
  num : Nat
  overN : Nat
  store : List Tlb
  corrected : Nat
  uncorrectable : Nat
  replays : Nat
  macroFails : Nat
  checks : Nat
  lastBad : Nat
  drift : Bool
  winStart : Nat
  loads : List (Nat × Nat)
  refill : Nat
  deriving DecidableEq, Repr

/-- A pod window (22 R390). -/
structure Window where
  inbound : Bool
  part : Nat
  pkg : Nat
  rpart : Nat
  asid : Nat
  deriving DecidableEq, Repr

/-- What a suspend saved of a domain, kept beside the records it wrote (11 R201, R202; log 9). -/
structure Saved where
  dom : Nat
  area : Nat
  threads : List Thread
  mails : List (Nat × List Compl)
  tasks : List (Nat × List DEnt)
  flits : List (Nat × List Flit)
  tiles : List (Nat × List Host.Cell)
  rects : List Rect
  deriving DecidableEq, Repr

/-- A trap that waits for its core's supervisor context (11 R198, R200). -/
structure SupTrap where
  core : Nat
  gid : Nat
  uid : Nat
  dom : Nat
  kind : Nat
  cls : Nat
  tval : Nat
  epc : Nat
  service : Option (Nat × Nat)
  deriving DecidableEq, Repr

/-- A write of a handle-mode chunk: its key, address and bytes, whether it sets its words full, and the granule it was admitted at
(15 R260, R266; 17 R291). -/
structure Put where
  key : Nat
  va : Nat
  bytes : List Byte
  fills : Bool
  adm : Option (Nat × Nat)
  deriving DecidableEq, Repr

/-- The issue under way: its thread, the PC, opcode and half-word of its head, the PC after it, the values popped from hardware
queues, whether it trapped, whether it is to issue again, whether it has transferred control, for a gang follower the
leader's next PC, and whether it is one half of a bundle whose other half has completed (05 R85; 20 R353; 02 R29; 03 R61);
`plain` where bytes are read and written as a handle-mode instruction's plain accesses, and the writes of its chunk so far (17
R289 to R291). The model's own (log 1). -/
structure Issue where
  gid : Nat
  pc : Nat
  succ : Nat
  opc : Nat
  hw : Nat
  pops : List (Nat × Word)
  trapped : Bool
  again : Bool
  jumped : Bool
  follow : Option Nat
  half : Bool
  plain : Bool
  puts : List Put
  /-- Channel elements that the chunk has met so far: those that it took before it waited are not taken again (19 R334). -/
  nth : Nat
  deriving DecidableEq, Repr

/-- A thread that has halted, as it ended: its registers and last instant (01 R19, 02 R21). -/
structure Ended where
  thread : Thread
  inst : Nat
  deriving DecidableEq, Repr

structure State where
  /-- Clocks since package reset (12 R217). -/
  clock : Nat
  /-- Package index, pod membership, windows, lost packages, and lost dies of this one (00 R2; 22 R390; 19 R343; 09 R175). -/
  pkg : Nat
  members : Nat
  windows : List Window
  lost : List Nat
  lostDies : List Nat
  /-- Age limit and drift threshold times ten (19 R340, R341). -/
  ageLimit : Nat
  driftLimit : Nat
  parts : List Partition
  /-- The tenant key slots that hold a key, by partition number: a key stands for its number, each drawn once (07 R139, R140;
  22 R388). -/
  keySlots : List (Nat × Nat)
  keyCtr : Nat
  pages : List Page
  domains : List Domain
  threads : List Thread
  /-- Threads that have halted, until their slot is taken again or their domain's number is given away. -/
  ended : List Ended
  cores : List Core
  quads : List Quad
  banks : List Bank
  dies : List Die
  rects : List Rect
  mem : Memory
  /-- Words whose full/empty bit says empty; words whose codeword is correctable, and uncorrectable (07 R125, R126). -/
  empties : List Nat
  /-- The sides of fabric channels, by descriptor, writing or reading, that have passed the first half-byte of their byte (15 R261; 19
  R334; log 71). -/
  halves : List (Nat × Bool)
  soft : List Nat
  bad : List Nat
  edges : List Edge
  reqs : List Req
  msgs : List Msg
  feWaits : List FeWait
  rsvs : List Rsv
  barWaits : List BarWait
  netBars : List NetBar
  crossings : List Crossing
  walkMsgs : List WalkMsg
  reports : List Report
  drains : List DrainMsg
  walks : List Walk
  copies : List Copy
  convs : List Conv
  iqs : List Iq
  arrs : List Arr
  objs : List Obj
  saved : List Saved
  sup : List SupTrap
  /-- The model's own fields: threads selected to issue, the steps to come and the clocks before each, the issue under
  way, the counter of free values, and the next thread and request numbers (log 1, log 2). -/
  issueQ : List Nat
  agenda : List (Nat × Instr)
  iss : Issue
  freeCtr : Nat
  nextUid : Nat
  nextId : Nat
  deriving DecidableEq, Repr

/-- No issue under way. -/
def Issue.none : Issue :=
  { gid := 0, pc := 0, succ := 0, opc := 0, hw := 0, pops := [], trapped := false, again := false, jumped := false,
    follow := .none, half := false, plain := false, puts := [], nth := 0 }

/-- The machine right after package reset (00 R5): no thread, domain or partition, every word full, memory with nothing
listed, the tables empty, the timers at 0. -/
def State.reset : State :=
  { clock := 0, pkg := 0, members := 0, windows := [], lost := [], lostDies := [],
    ageLimit := Config.ageLimit, driftLimit := Config.driftThreshold,
    parts := [], keySlots := [], keyCtr := 0, pages := [], domains := [], threads := [], ended := [], cores := [], quads := [], banks := [], dies := [],
    rects := [], mem := { cells := [], keyNo := [] }, empties := [], halves := [], soft := [], bad := [], edges := [], reqs := [],
    msgs := [], feWaits := [], rsvs := [], barWaits := [], netBars := [], crossings := [], walkMsgs := [], reports := [], drains := [], walks := [],
    copies := [], convs := [], iqs := [], arrs := [], objs := [], saved := [], sup := [],
    issueQ := [], agenda := [], iss := Issue.none, freeCtr := 0, nextUid := 1, nextId := 0 }

end Sys2Proof.Machine
end

