-- ==== Sys2Proof/Machine/Memory.lean ====
section
/-!
DEFINITION. Bytes of memory under canonical keys: reading, writing, the canonical form, the key regions of stacked
memory (07 R122, R123, R139, R140, R396), and full/empty and codeword marks of words (07 R125, R126).
-/
namespace Sys2Proof.Machine

/-- Canonical keys: private memory, shared SRAM, DRAM, CXL and host memory (07 R122). -/
def privKey (die quad core off : Nat) : Nat :=
  2 ^ 60 + die * 2 ^ 58 + quad * 2 ^ 46 + core * 2 ^ 44 + off
def sharedKey (die off : Nat) : Nat := 2 * 2 ^ 60 + die * 2 ^ 58 + off
def dramKey (pa : Nat) : Nat := 4 * 2 ^ 60 + pa
def cxlKey (pa : Nat) : Nat := 5 * 2 ^ 60 + pa
def hostKey (pa : Nat) : Nat := 6 * 2 ^ 60 + pa
def keySel (k : Nat) : Nat := k / 2 ^ 60
/-- Physical address of a DRAM, CXL or host key; the offset of a shared key. -/
def keyPa (k : Nat) : Nat := k % 2 ^ 60
def sharedOff (k : Nat) : Nat := k % 2 ^ 58

/-- Quad keys. -/
def qk (die quad : Nat) : Nat := die * 4096 + quad
def qkDie (q : Nat) : Nat := q / 4096
def qkQuad (q : Nat) : Nat := q % 4096

/-- Bank and bank-local offset of a shared offset (07 R123). -/
def sharedBank (off : Nat) : Nat := off / 256 % Config.quadsPerDie
def bankLocal (off : Nat) : Nat := off / 256 / Config.quadsPerDie * 256 + off % 256
/-- The shared offset of a bank-local offset. -/
def sharedOfLocal (bank loc : Nat) : Nat := (loc / 256 * Config.quadsPerDie + bank) * 256 + loc % 256
/-- The local offsets of a bank that a shared range covers, from the first to the one past the last (07 R123). -/
def bankRange (bank off len : Nat) : Option (Nat × Nat) :=
  let n := Config.quadsPerDie
  let last := off + len - 1
  let r0 := (off / 256 + (n - 1) - bank) / n
  let r1 := (last / 256 - bank) / n
  if len = 0 || last / 256 < r0 * n + bank then none
  else some (r0 * 256 + (if r0 * n + bank = off / 256 then off % 256 else 0),
             r1 * 256 + (if r1 * n + bank = last / 256 then last % 256 + 1 else 256))
/-- Backed bytes of a bank (07 R123). -/
def bankBytes (bank : Nat) : Nat := if bank < 512 then 1258496 else 1258240
/-- Home die and quad of a DRAM physical address (07 R396). -/
def dramDie (pa : Nat) : Nat := pa / Config.dramDieBytes
def dramQuad (pa : Nat) : Nat := pa % Config.dramDieBytes / 4096 % Config.quadsPerDie

/-- The quad whose core, bank or vault slice homes a key; CXL and host memory have no quad (08 R144, R145). -/
def homeQuad (k : Nat) : Option Nat :=
  match keySel k with
  | 1 => some (qk (k / 2 ^ 58 % 4) (k / 2 ^ 46 % 4096))
  | 2 => some (qk (k / 2 ^ 58 % 4) (sharedBank (sharedOff k)))
  | 4 => some (qk (dramDie (keyPa k)) (dramQuad (keyPa k)))
  | _ => none
/-- The die that homes a key; `d` where none does. -/
def keyDie (k d : Nat) : Nat := ((homeQuad k).map qkDie).getD d
/-- The core key (quad key * 4 + core) of a private key. -/
def keyCore (k : Nat) : Nat := qk (k / 2 ^ 58 % 4) (k / 2 ^ 46 % 4096) * 4 + k / 2 ^ 44 % 4
/-- The stacked-memory region a key's encryption belongs to: the quad of its bank or vault slice (07 R139). -/
def keyRegion (k : Nat) : Option Nat := if keySel k == 2 || keySel k == 4 then homeQuad k else none

/-- The memory-key number of a quad. -/
def Memory.keyNoOf (m : Memory) (q : Nat) : Nat := ((m.keyNo.find? fun e => e.1 == q).map (·.2)).getD 0

/-- What an address that is not listed reads as: 0, a DESIGN CHOICE for every kind of memory, private memory and shared SRAM
after package reset among them (log 3), or a free byte where stacked memory has been given to another key since it was
written (R140; log 4). -/
def Memory.blank (m : Memory) (k : Nat) : Byte :=
  match keyRegion k with
  | none => 0
  | some q => if m.keyNoOf q = 0 then 0 else Config.freeByte (m.keyNoOf q) k

def lookupCell (k : Nat) : List Host.Cell → Option Byte
  | [] => none
  | (a, b) :: cs => if a = k then some b else lookupCell k cs
/-- Insert or replace a cell, keeping addresses strictly rising. -/
def insertCell (k : Nat) (v : Byte) : List Host.Cell → List Host.Cell
  | [] => [(k, v)]
  | (a, b) :: cs =>
    if k < a then (k, v) :: (a, b) :: cs
    else if k = a then (k, v) :: cs
    else (a, b) :: insertCell k v cs
def eraseCell (k : Nat) : List Host.Cell → List Host.Cell
  | [] => []
  | (a, b) :: cs => if a = k then cs else (a, b) :: eraseCell k cs

/-- One byte. -/
def Memory.byte (m : Memory) (k : Nat) : Byte := (lookupCell k m.cells).getD (m.blank k)
/-- Write one byte; writing what the address reads unlisted removes its cell. -/
def Memory.set (m : Memory) (k : Nat) (v : Byte) : Memory :=
  { m with cells := if v = m.blank k then eraseCell k m.cells else insertCell k v m.cells }

/-- `n` bytes from a key upward, lowest first. -/
def Memory.bytes (m : Memory) (k : Nat) : Nat → List Byte
  | 0 => []
  | n + 1 => m.byte k :: m.bytes (k + 1) n
/-- Little-endian read of `n` bytes (00 R4). -/
def Memory.read (m : Memory) (k n : Nat) : Nat := ofBytes (m.bytes k n)
def Memory.write (m : Memory) (k : Nat) : List Byte → Memory
  | [] => m
  | b :: bs => (m.set k b).write (k + 1) bs

/-- Put a quad's stacked memory under another key: nothing of the old contents is readable (07 R140). -/
def Memory.rekey (m : Memory) (q key : Nat) : Memory :=
  { cells := m.cells.filter (fun c => keyRegion c.1 != some q),
    keyNo := (q, key) :: m.keyNo.filter (fun e => e.1 != q) }
/-- Forget the cells of a core's private memory: it reads zero (22 R391). -/
def Memory.clearCore (m : Memory) (core : Nat) : Memory :=
  { m with cells := m.cells.filter (fun c => !(keySel c.1 == 1 && keyCore c.1 == core)) }

/-- Addresses strictly rising, each above `lo`. -/
def risingFrom (lo : Option Nat) : List Host.Cell → Bool
  | [] => true
  | (a, _) :: cs => (match lo with | none => true | some l => decide (l < a)) && risingFrom (some a) cs
/-- The canonical form. -/
def Memory.wf (m : Memory) : Bool :=
  risingFrom none m.cells && m.cells.all (fun c => c.2 != m.blank c.1)

/-- The key of the aligned word that holds a key (09 R155). -/
def wordKey (k : Nat) : Nat := k / 8 * 8
/-- The word keys an extent touches. -/
def wordsOf (k n : Nat) : List Nat :=
  (List.range ((k + n + 7) / 8 - k / 8)).map fun i => (k / 8 + i) * 8

def State.readN (s : State) (k n : Nat) : Nat := s.mem.read k n
def State.bytesAt (s : State) (k n : Nat) : List Byte := s.mem.bytes k n
/-- Write bytes; a word wholly written has a good codeword again. -/
def State.writeBytes (s : State) (k : Nat) (bs : List Byte) : State :=
  let whole := fun w => decide (k ≤ w) && decide (w + 8 ≤ k + bs.length)
  { s with mem := s.mem.write k bs, bad := s.bad.filter (fun w => !whole w),
           soft := s.soft.filter (fun w => !whole w) }
def State.writeN (s : State) (k n v : Nat) : State := s.writeBytes k (bytesOf n v)

/-- Full/empty state of a word (07 R126). -/
def State.isEmpty (s : State) (k : Nat) : Bool := s.empties.contains (wordKey k)
def State.setEmpty (s : State) (k : Nat) (e : Bool) : State :=
  { s with empties := if e then insertNat (wordKey k) s.empties else s.empties.filter (· != wordKey k) }
def State.markFull (s : State) (k n : Nat) : State :=
  { s with empties := s.empties.filter (fun w => !(wordsOf k n).contains w) }
/-- The first word of an extent whose codeword is uncorrectable (07 R125, check 6). -/
def State.badIn (s : State) (k n : Nat) : Option Nat := (wordsOf k n).find? fun w => s.bad.contains w

end Sys2Proof.Machine
end

