-- ==== Sys2Proof/Machine/Access.lean ====
section
/-!
DEFINITION. Reading and writing the records of the state: threads, cores, quads, banks, dies, domains, partitions; the
fields of a global identifier (00 R2); the registers of the issuing thread, where g0 and p0 are hard-wired (05 R85) and
g28 to g31 name hardware queues while qmap is in force (03 R59, 20 R353).
-/
namespace Sys2Proof.Machine

/-- The outcome of a meaning. -/
abbrev Out := Host.Outcome State Fault Refusal

/-- Fields of a global identifier (00 R2). -/
def gidSlot (g : Nat) : Nat := g % 16
def gidCore (g : Nat) : Nat := g / 16 % 4
def gidQuad (g : Nat) : Nat := g / 64 % 4096
def gidDie (g : Nat) : Nat := g / 2 ^ 18 % 4
def gidPkg (g : Nat) : Nat := g / 2 ^ 20 % 1024
/-- Quad key and core key (quad key * 4 + core) of an identifier. -/
def gidQk (g : Nat) : Nat := g / 64 % 2 ^ 14
def gidCk (g : Nat) : Nat := g / 16 % 2 ^ 16
/-- Identifier of a slot of a core of this package. -/
def State.gidOf (s : State) (core slot : Nat) : Nat := s.pkg * 2 ^ 20 + core * 16 + slot
def ckQuad (c : Nat) : Nat := c / 4
def ckDie (c : Nat) : Nat := c / 16384

/-- A thread at its creation, everything at the values of 02 R22. -/
def Thread.fresh (gid uid dom : Nat) : Thread :=
  { gid := gid, uid := uid, dom := dom, stat := .running, regs := Vector.replicate 32 0, preds := Vector.replicate 8 false,
    pc := 0, shFmt := 0, shScl := 0, args := Vector.replicate 4 0, launchArgs := Vector.replicate 4 0, tidNo := 0,
    prioBase := 0, prioCeil := 0, wdlim := 0, wdlimMax := 0, wdStart := 0, wdRun := true, wdFired := false,
    wdArmed := false, cause := 0, tval := 0, epc := 0, trec := 0, uih := 0, uien := 0, asid := 0, claims := [],
    guards := [], shadow := Vector.replicate 4 0, saved := Vector.replicate 4 0, handler := false, uiOn := false,
    uiOnce := false, halfOnly := false, qmap := 0, contSeq := 0, contReg := none, contVal := none, sqKey := 0, sqCtr := 0,
    task := false, triggered := false, depRec := 0, children := [], sendPart := none, recvPart := [], wait := none,
    lastIssue := none, stream := none, streamQ := [], parked := none, dfr := [], cycle := none, wdPending := false, heldBy := none,
    seq := 0, words := [], entered := 0, postDue := 0, took := [] }
/-- A core, quad, bank and die as package reset leaves them. -/
def Core.fresh (k : Nat) : Core :=
  { key := k, budget := Config.refill, refill := Config.refill, last := 15, released := [], relClock := 0, status := [],
    handles := [], fifo := [], mail := [], deque := [], dseq := 0, post := [], hwq := Vector.replicate 4 [], recv := [],
    posted := [], halted := false, issuedAt := none }
def Mon.fresh : Mon :=
  { on := false, src := 0, min := 0, max := 0, total := 0, seen := false, bins := List.replicate 16 0, edges := List.replicate 15 0, tick := 0 }
def Quad.fresh (k : Nat) : Quad :=
  { key := k, part := none, tlb := [], mons := List.replicate 4 Mon.fresh, gang := none, slots := [], sums := [], rowBuf := [], parts := [], turns := [], stops := [], gone := [] }
def Bank.fresh (k : Nat) : Bank := { key := k, fns := [], hands := [], overN := [] }
def Die.fresh (n : Nat) : Die :=
  { num := n, overN := 0, store := [], corrected := 0, uncorrectable := 0, replays := 0, macroFails := 0, checks := 0,
    lastBad := 0, drift := false, winStart := 0, loads := [], refill := Config.refill }

/-- Replace the record of a key, or add it. -/
def putRec {α : Type} (key : α → Nat) (a : α) : List α → List α
  | [] => [a]
  | x :: xs => if key x = key a then a :: xs else x :: putRec key a xs

def State.quad (s : State) (k : Nat) : Quad := (s.quads.find? (·.key == k)).getD (Quad.fresh k)
def State.bank (s : State) (k : Nat) : Bank := (s.banks.find? (·.key == k)).getD (Bank.fresh k)
def State.die (s : State) (n : Nat) : Die := (s.dies.find? (·.num == n)).getD (Die.fresh n)
def State.core (s : State) (k : Nat) : Core :=
  (s.cores.find? (·.key == k)).getD { Core.fresh k with refill := (s.die (ckDie k)).refill }
def State.domain? (s : State) (n : Nat) : Option Domain := s.domains.find? (·.num == n)
def State.part? (s : State) (n : Nat) : Option Partition := s.parts.find? (·.num == n)
def State.rect? (s : State) (n : Nat) : Option Rect := s.rects.find? (·.id == n)
def State.thread? (s : State) (g : Nat) : Option Thread := s.threads.find? (·.gid == g)
/-- The thread of a unique number. -/
def State.byUid (s : State) (u : Nat) : Option Thread := s.threads.find? (·.uid == u)
def State.thread (s : State) (g : Nat) : Thread := (s.thread? g).getD (Thread.fresh g 0 0)

def State.setCore (s : State) (c : Core) : State := { s with cores := putRec (·.key) c s.cores }
def State.setQuad (s : State) (q : Quad) : State := { s with quads := putRec (·.key) q s.quads }
def State.setBank (s : State) (b : Bank) : State := { s with banks := putRec (·.key) b s.banks }
def State.setDie (s : State) (d : Die) : State := { s with dies := putRec (·.num) d s.dies }
def State.modThread (s : State) (g : Nat) (f : Thread → Thread) : State :=
  { s with threads := s.threads.map fun t => if t.gid == g then f t else t }
def State.modDomain (s : State) (n : Nat) (f : Domain → Domain) : State :=
  { s with domains := s.domains.map fun d => if d.num == n then f d else d }
def State.modPart (s : State) (n : Nat) (f : Partition → Partition) : State :=
  { s with parts := s.parts.map fun p => if p.num == n then f p else p }
def State.modRect (s : State) (n : Nat) (f : Rect → Rect) : State :=
  { s with rects := s.rects.map fun r => if r.id == n then f r else r }
def State.modReq (s : State) (n : Nat) (f : Req → Req) : State :=
  { s with reqs := s.reqs.map fun r => if r.id == n then f r else r }
/-- Threads are kept in rising order of identifier. A thread that halted in the slot is forgotten. -/
def State.addThread (s : State) (t : Thread) : State :=
  { s with threads := insertBy (·.gid) t (s.threads.filter (fun x => x.gid != t.gid)), nextUid := s.nextUid + 1,
           ended := s.ended.filter fun e => e.thread.gid != t.gid }
def State.dropThread (s : State) (g : Nat) : State :=
  { s with threads := s.threads.filter (fun t => t.gid != g) }
/-- A monitor unit of a quad, and changing it. -/
def State.monitor (s : State) (q c : Nat) : Mon := (s.quad q).mons.getD c Mon.fresh
def State.setMonitor (s : State) (qk c : Nat) (m : Mon) : State :=
  let q := s.quad qk
  s.setQuad { q with mons := q.mons.set c m }
/-- One sample: the first bin above whose lower edge it lies counts it; every count saturates (12 R221). -/
def Mon.sample (m : Mon) (v : Nat) : Mon :=
  let cap := 2 ^ 32 - 1
  let v := Nat.min v cap
  let i := (m.edges.filter fun e => decide (e ≤ v)).length
  { m with min := if m.seen then Nat.min m.min v else v, max := Nat.max m.max v, total := Nat.min (m.total + v) cap, seen := true,
           bins := m.bins.set i (Nat.min (m.bins.getD i 0 + 1) cap) }
/-- The same value `n` times more. -/
def Mon.samples (m : Mon) (n v : Nat) : Mon :=
  let cap := 2 ^ 32 - 1
  let x := m.sample v
  let i := (m.edges.filter fun e => decide (e ≤ Nat.min v cap)).length
  if n = 0 then m
  else { x with total := Nat.min (x.total + (n - 1) * Nat.min v cap) cap, bins := x.bins.set i (Nat.min (x.bins.getD i 0 + (n - 1)) cap) }
/-- An event that a source samples: every unit of the quad that samples it takes the value (12 R221). -/
def State.sampled (s : State) (qk src v : Nat) : State :=
  let q := s.quad qk
  if q.mons.any fun m => m.on && m.src == src then
    s.setQuad { q with mons := q.mons.map fun m => if m.on && m.src == src then m.sample v else m }
  else s
/-- Whether the thread of a unique number still lives. -/
def State.uidLive (s : State) (u : Nat) : Bool := s.threads.any (fun t => t.uid == u)
/-- The partition that owns a quad (22 R388). -/
def State.owner (s : State) (q : Nat) : Option Nat := (s.quad q).part

/-- The issuing thread, its core, domain and partition. -/
def State.me (s : State) : Thread := s.thread s.iss.gid
def State.myCore (s : State) : Nat := gidCk s.iss.gid
def State.myDie (s : State) : Nat := gidDie s.iss.gid
def State.myQuad (s : State) : Nat := gidQk s.iss.gid
def State.myDom (s : State) : Nat := s.me.dom
def State.partOf (s : State) (g : Nat) : Nat :=
  match s.domain? (s.thread g).dom with
  | some d => d.part
  | none => ((s.quad (gidQk g)).part).getD 256
def State.myPart (s : State) : Nat := s.partOf s.iss.gid
def State.modMe (s : State) (f : Thread → Thread) : State := s.modThread s.iss.gid f
/-- Slot 15 is the supervisor context (02 R20). -/
def State.inSuper (s : State) : Bool := gidSlot s.iss.gid == 15

/-- A register of a thread; g0 reads 0 (05 R85). -/
def Thread.reg (t : Thread) (r : Nat) : Word := if r = 0 then 0 else t.regs.toList.getD r 0
def Thread.setReg (t : Thread) (r : Nat) (v : Word) : Thread :=
  if r = 0 then t else { t with regs := t.regs.setIfInBounds r v }
/-- A predicate of a thread; p0 reads 1 (05 R85). -/
def Thread.pred (t : Thread) (p : Nat) : Bool := if p = 0 then true else t.preds.toList.getD p false
def Thread.setPred (t : Thread) (p : Nat) (v : Bool) : Thread :=
  if p = 0 then t else { t with preds := t.preds.setIfInBounds p v }

/-- The role of a thread on queue `n`: 0 none, 1 writer, 2 reader (21 R369). -/
def Thread.role (t : Thread) (n : Nat) : Nat := t.qmap / 4 ^ n % 4
/-- Whether a register number names a hardware queue for a thread (20 R353). -/
def Thread.mapped (t : Thread) (r : Nat) : Bool := t.qmap != 0 && 28 ≤ r

/-- Read a register of the issuing thread by number; a mapped number reads the value the issue popped. -/
def State.gN (s : State) (r : Nat) : Word :=
  if s.me.mapped r then ((s.iss.pops.find? fun e => e.1 == r).map (·.2)).getD 0 else s.me.reg r
def State.g (s : State) (r : Reg) : Word := s.gN r.val
/-- The same as a number. -/
def State.gv (s : State) (r : Reg) : Nat := (s.g r).toNat
def State.p (s : State) (i : PReg) : Bool := s.me.pred i.val

/-- Push a value on a hardware queue of a core; the queue has room (20 R353). -/
def State.hwPush (s : State) (core n : Nat) (v : Word) : State :=
  let c := s.core core
  s.setCore { c with hwq := c.hwq.setIfInBounds n (c.hwq.toList.getD n [] ++ [v]) }
/-- Write a register of the issuing thread by number; a mapped number pushes on its queue. -/
def State.putN (s : State) (r : Nat) (v : Word) : State :=
  if s.me.mapped r then s.hwPush s.myCore (r - 28) v else s.modMe (·.setReg r v)
def State.put (s : State) (r : Reg) (v : Word) : State := s.putN r.val v
def State.putP (s : State) (i : PReg) (v : Bool) : State := s.modMe (·.setPred i.val v)

/-- The 256-bit value of a register group (17 R289), and writing one. -/
def State.group (s : State) (r : Nat) : Nat :=
  (s.gN r).toNat + 2 ^ 64 * ((s.gN (r + 1)).toNat + 2 ^ 64 * ((s.gN (r + 2)).toNat + 2 ^ 64 * (s.gN (r + 3)).toNat))
def State.putGroup (s : State) (r v : Nat) : State :=
  (((s.putN r (wd v)).putN (r + 1) (wd (v / 2 ^ 64))).putN (r + 2) (wd (v / 2 ^ 128))).putN (r + 3) (wd (v / 2 ^ 192))

/-- Go on at the PC after the issue, unless the instruction has transferred control (03 R56). -/
def State.advance (s : State) : State :=
  if s.iss.jumped then s else s.modMe fun t => { t with pc := wd s.iss.succ }
/-- Transfer control of the issuing thread; a gang follower goes where its leader went (02 R29). -/
def State.jump (s : State) (pc : Nat) : State :=
  { s.modMe (fun t => { t with pc := wd (s.iss.follow.getD pc) }) with iss := { s.iss with jumped := true } }
/-- The instruction completes and its thread goes on. -/
def State.ok (s : State) : Out := .next s.advance

/-- How the instruction under way completes into destination `d` with its width and extension. -/
def State.doneTo (s : State) (d d2 pd width : Nat) (sext : Bool) : Done :=
  { d := d, d2 := d2, pd := pd, width := width, sext := sext, succ := s.iss.succ }
/-- Take the issuing thread out of rotation; its PC stays the instruction's until it completes (02 R24). -/
def State.await (s : State) (why : Why) (fin : Done) : State :=
  s.modMe fun t => { t with wait := some { why := why, again := false, half := s.iss.half, fin := fin }, pc := wd s.iss.pc }
/-- Take the issuing thread out of rotation; the instruction has had no effect and issues again when the wait is over. -/
def State.retry (s : State) (why : Why) : State :=
  let s := s.modMe fun t => { t with wait := some { why := why, again := true, half := s.iss.half, fin := s.doneTo 0 0 0 8 false },
                                     pc := wd s.iss.pc }
  { s with iss := { s.iss with again := true } }

/-- `ext(v)` of 09 R155: the low `n` bytes, sign- or zero-extended. -/
def extN (n : Nat) (sext : Bool) (v : Nat) : Word :=
  if sext then wdInt (signed (8 * n) v) else wd (v % 2 ^ (8 * n))
def memBytes (mw : MemW) : Nat := 2 ^ mw.code

/-- A fresh request or unique number. -/
def State.takeId (s : State) : Nat × State := (s.nextId, { s with nextId := s.nextId + 1 })

/-- Write a register of a thread by number; a number that qmap maps pushes on its queue (20 R353). -/
def State.putFor (s : State) (g r : Nat) (v : Word) : State :=
  if (s.thread g).mapped r then s.hwPush (gidCk g) (r - 28) v else s.modThread g (·.setReg r v)
/-- Complete a waiting instruction: its value, second value and predicate are written and the thread is ready again
(00 R9, R10). A destination that qmap maps pushes on its queue. -/
def State.complete (s : State) (g : Nat) (val val2 : Nat) (pred : Bool) : State :=
  match (s.thread g).wait with
  | none => s
  | some w =>
    let s := s.putFor g w.fin.d (extN w.fin.width w.fin.sext val)
    let s := s.putFor g w.fin.d2 (wd val2)
    s.modThread g fun t => { t.setPred w.fin.pd pred with wait := none, stat := .running, pc := wd w.fin.succ }

/-- A parked operation that has had no effect goes on (00 R9). -/
def Thread.goOn (t : Thread) : Thread := { t with wait := none, stat := .running }

/-- The member threads of the gang of a quad: one slot on each of its cores (02 R28). -/
def gangMembers (pkg qk slot : Nat) : List Nat := (List.range 4).map fun c => pkg * 2 ^ 20 + qk * 64 + c * 16 + slot
/-- The members of the gang that a thread belongs to; none outside a gang. -/
def State.gangOf (s : State) (g : Nat) : List Nat :=
  match (s.quad (gidQk g)).gang with
  | some x => if x.slot = gidSlot g then gangMembers s.pkg (gidQk g) x.slot else []
  | none => []
end Sys2Proof.Machine
end

