-- ==== Sys2Proof/Machine/Translate.lean ====
section
/-!
DEFINITION. Translation (11 R204 to R208) and the checks before an access (07 R122, R124, R125).
-/
namespace Sys2Proof.Machine

/-- A table entry read at a physical address of bonded DRAM (11 R205, R206). -/
def State.pte (s : State) (table idx : Nat) : Nat := s.readN (dramKey (table + 8 * idx)) 8

/-- The index bits, page size and the alignment of the next table of a level (11 R205). -/
def levelIdx (level va : Nat) : Nat :=
  match level with
  | 1 => bits va 47 39 | 2 => bits va 38 30 | 3 => bits va 29 21 | _ => bits va 20 16
def levelSize (level : Nat) : Nat :=
  match level with | 2 => 2 ^ 30 | 3 => 2 ^ 21 | _ => 2 ^ 16
def nextAlign (level : Nat) : Nat := if level = 3 then 256 else 4096

/-- Walk from a table at `level`; none is no translation (11 R206). DESIGN CHOICE (log 82): a table at or beyond 2^38 is one of these
cases. -/
def State.walkFrom (s : State) (asid sel va : Nat) : Nat → Nat → Nat → Option Tlb
  | 0, _, _ => none
  | fuel + 1, level, table =>
    let e := s.pte table (levelIdx level va)
    let pa := bits e 55 8 * 256
    if Config.dramBytes ≤ table || !tbit e 0 || bits e 63 56 != 0 || bits e 7 5 != 0 then none
    else if tbit e 1 then
      let size := levelSize level
      if level = 1 || pa % size != 0 || (sel == 4 && Config.dramBytes < pa + size) then none
      else some { asid := asid, sel := sel, va := va / size * size, size := size, pa := pa, perm := bits e 4 2 }
    else if level = 4 || pa % nextAlign level != 0 then none
    else s.walkFrom asid sel va fuel (level + 1) pa

/-- The root of an address space for a selector (11 R205). -/
def State.root (s : State) (part asid sel : Nat) : Option Nat :=
  match s.part? part with
  | none => none
  | some p =>
    match p.roots.find? (fun r => r.1 == asid) with
    | none => none
    | some (_, r4, r5, r6) => some (if sel = 4 then r4 else if sel = 5 then r5 else r6)
/-- The whole walk (11 R205). -/
def State.walkTables (s : State) (part asid sel va : Nat) : Option Tlb :=
  match s.root part asid sel with
  | none => none
  | some r => s.walkFrom asid sel va 4 1 r

def Tlb.hits (e : Tlb) (asid sel va : Nat) : Bool :=
  e.asid == asid && e.sel == sel && decide (e.va ≤ va) && decide (va < e.va + e.size)
/-- Put an entry in front and keep the `cap` most recently used (11 R204, R207). -/
def lruPut (cap : Nat) (e : Tlb) (l : List Tlb) : List Tlb := (e :: l.filter (· != e)).take cap
def State.fillQuad (s : State) (q : Nat) (e : Tlb) : State :=
  s.setQuad { s.quad q with tlb := lruPut Config.quadTable e (s.quad q).tlb }
def State.fillDie (s : State) (d : Nat) (e : Tlb) : State :=
  s.setDie { s.die d with store := lruPut Config.dieStore e (s.die d).store }

/-- Look an address up in the quad's table, then in the die's store; a use makes the entry the most recent (11 R204). -/
def State.lookupTlb (s : State) (q asid sel va : Nat) : Option Tlb × State :=
  match (s.quad q).tlb.find? (·.hits asid sel va) with
  | some e => (some e, s.fillQuad q e)
  | none =>
    match (s.die (qkDie q)).store.find? (·.hits asid sel va) with
    | some e => (some e, (s.fillDie (qkDie q) e).fillQuad q e)
    | none => (none, s)

/-- The mapping an access would use, without waiting and without touching the tables: used where a unit of the issuing
core reads code to judge a target (03 R57). -/
def State.peekTlb (s : State) (q part asid sel va : Nat) : Option Tlb :=
  match (s.lookupTlb q asid sel va).1 with
  | some e => some e
  | none => s.walkTables part asid sel va

/-- Who makes an access: partition, address space, place (07 R125). -/
structure Who where
  part : Nat
  asid : Nat
  gid : Nat
  deriving DecidableEq, Repr

/-- What an access needs of a page: bit 0 read, bit 1 write, bit 2 code fetch (11 R206). -/
def needR : Nat := 1
def needW : Nat := 2
def needX : Nat := 4

/-- An address read as a place (07 R122, R124). `virt` keeps selector and 48-bit virtual address. -/
inductive Place where
  | priv (die quad core off : Nat)
  | shared (die off : Nat)
  | virt (sel va : Nat)
  | away (pkg : Nat) (fe : Bool)
  | bad
  deriving DecidableEq, Repr

/-- The inner address of a pod-remote access (07 R124). -/
def innerPlace (x : Nat) : Place :=
  match bits x 47 45 with
  | 0 => if bits x 42 31 < Config.quadsPerDie && bits x 28 15 == 0
         then .priv (bits x 44 43) (bits x 42 31) (bits x 30 29) (bits x 14 0) else .bad
  | 1 => if bits x 42 32 == 0 && bits x 31 0 < Config.sharedBytes then .shared (bits x 44 43) (bits x 31 0) else .bad
  | 2 => .virt 4 (bits x 44 0)
  | 3 => .virt 5 (bits x 44 0)
  | _ => .bad

/-- The place of an address for an issuer (07 R122). -/
def placeOf (pkg gid x : Nat) : Place :=
  match x / 2 ^ 60 with
  | 0 => if bits x 59 15 == 0 then .priv (gidDie gid) (gidQuad gid) (gidCore gid) (bits x 14 0) else .bad
  | 1 => if bits x 57 46 < Config.quadsPerDie && bits x 43 15 == 0
         then .priv (bits x 59 58) (bits x 57 46) (bits x 45 44) (bits x 14 0) else .bad
  | 2 => if bits x 57 32 == 0 && bits x 31 0 < Config.sharedBytes then .shared (bits x 59 58) (bits x 31 0) else .bad
  | 4 => if bits x 59 48 == 0 then .virt 4 (bits x 47 0) else .bad
  | 5 => if bits x 59 48 == 0 then .virt 5 (bits x 47 0) else .bad
  | 6 => if bits x 59 48 == 0 then .virt 6 (bits x 47 0) else .bad
  | 7 =>
    if bits x 59 58 != 0 || Config.podPackages ≤ bits x 57 48 then .bad
    else
      match innerPlace (bits x 47 0) with
      | .bad => .bad
      | p => if bits x 57 48 = pkg then p
             else .away (bits x 57 48) (match p with | .virt sel _ => sel == 5 | _ => false)
  | _ => .bad

/-- Bytes left in the space from a place (07 R122, R125). A pod-remote DRAM or CXL inner address has 45 bits. -/
def Place.room (x : Nat) : Place → Nat
  | .priv _ _ _ off => Config.privBytes - off
  | .shared _ off => Config.sharedBytes - off
  | .virt _ va => if x / 2 ^ 60 = 7 then 2 ^ 45 - va else 2 ^ 48 - va
  | .away _ _ =>
    match innerPlace (bits x 47 0) with
    | .priv _ _ _ off => Config.privBytes - off
    | .shared _ off => Config.sharedBytes - off
    | .virt _ va => 2 ^ 45 - va
    | _ => 0
  | .bad => 0

/-- Whether a shared range meets a signal table or a queue ring (02 R31, 21 R372). -/
def State.reservedShared (s : State) (die off len : Nat) : Bool :=
  let meets (q lo n : Nat) : Bool := qkDie q == die && (match bankRange (qkQuad q) off len with
    | some (a, b) => decide (a < lo + n) && decide (lo < b)
    | none => false)
  s.domains.any (fun d => d.stat != .terminated && d.stat != .aborted && meets d.home d.sigOff 0x18000) ||
  s.iqs.any fun i => meets i.bank (bankLocal (sharedOff i.id)) 1024

/-- Whether every bank of a shared range belongs to a partition (07 R125, check 5). -/
def State.ownsShared (s : State) (part die off len : Nat) : Bool :=
  let blocks := (List.range (min ((off + len + 255) / 256 - off / 256) Config.quadsPerDie)).map (off / 256 + ·)
  blocks.all fun b => s.owner (qk die (b % Config.quadsPerDie)) == some part

/-- Whether the 4 KiB pages of a range of bonded DRAM belong to a partition: each lies in the vault slice of one of its quads (07
R125, check 5; R396; 22 R388; log 4). -/
def State.ownsDram (s : State) (part pa len : Nat) : Bool :=
  (List.range (min ((pa + len + 4095) / 4096 - pa / 4096) Config.quadsPerDie)).all fun i =>
    s.owner (qk (dramDie ((pa / 4096 + i) * 4096)) (dramQuad ((pa / 4096 + i) * 4096))) == some part
/-- The same for checked ranges; CXL and host memory belong by their mapping alone. -/
def State.ownsPages (s : State) (part sel : Nat) (segs : List (Nat × Nat)) : Bool :=
  sel != 4 || segs.all fun e => s.ownsDram part (keyPa e.1) e.2

/-- What the checks of 07 R125 find: the canonical ranges of the access in address order, a trap, a missing translation
(selector, virtual address, first faulting address), or an access that another package serves. -/
inductive Chk where
  | ok (segs : List (Nat × Nat))
  | trap (cls tval : Nat)
  | miss (sel va first : Nat)
  | away
  deriving DecidableEq, Repr

/-- Canonical key of a translated byte. -/
def virtKey (sel pa : Nat) : Nat := sel * 2 ^ 60 + pa

/-- Translate `len` bytes page by page (11 R204); the permissions met are combined. -/
def State.pages? (s : State) (w : Who) (q sel : Nat) : Nat → Nat → Nat → List (Nat × Nat) → Nat →
    (Option (List (Nat × Nat) × Nat) × Nat) × State
  | 0, va, _, _, _ => ((none, va), s)
  | fuel + 1, va, len, acc, perm =>
    match s.lookupTlb q w.asid sel va with
    | (none, s') => ((none, va), s')
    | (some e, s') =>
      let n := min len (e.va + e.size - va)
      let acc := acc ++ [(virtKey sel (e.pa + (va - e.va)), n)]
      let perm := Nat.land perm e.perm
      if len ≤ n then ((some (acc, perm), va), s')
      else s'.pages? w q sel fuel (va + n) (len - n) acc perm

/-- Checks 1 to 5 of 07 R125, and the outbound window of a pod-remote access, in their order. `align` is 1 where check 1
does not apply; `fe` marks a full/empty, reservation or bank-update operation. -/
def State.check (s : State) (w : Who) (need : Nat) (fe : Bool) (align addr len : Nat) : Chk × State :=
  if addr % align != 0 then (.trap 5 addr, s)
  else
    let p := placeOf s.pkg w.gid addr
    if p = .bad || p.room addr < len then (.trap 6 addr, s)
    else
      match p with
      | .bad => (.trap 6 addr, s)
      | .priv die quad core off =>
        if s.owner (qk die quad) = some w.part then (.ok [(privKey die quad core off, len)], s) else (.trap 8 addr, s)
      | .shared die off =>
        if s.ownsShared w.part die off len && !s.reservedShared die off len then (.ok [(sharedKey die off, len)], s)
        else (.trap 8 addr, s)
      | .virt sel va =>
        if fe && sel != 4 then (.trap 9 addr, s)
        else
          match s.pages? w (gidQk w.gid) sel (len / 65536 + 2) va len [] 7 with
          | ((none, v), s') => (.miss sel v (addr + (v - va)), s')
          | ((some (segs, perm), _), s') =>
            if Nat.land perm need = need && s'.ownsPages w.part sel segs then (.ok segs, s') else (.trap 8 addr, s')
      | .away pkg cxl =>
        if fe && cxl then (.trap 9 addr, s)
        else if s.windows.any (fun x => !x.inbound && x.part == w.part && x.pkg == pkg) then
          if s.lost.contains pkg then (.trap 10 addr, s)
          else if Config.remoteAdmits s.clock pkg w.part then (.away, s)
          else (.trap 8 addr, s)
        else (.trap 8 addr, s)

/-- The checks of an engine: it walks by itself, and a missing translation ends its work there (11 R209). -/
def State.engineCheck (s : State) (w : Who) (need : Nat) (fe : Bool) (align addr len : Nat) : Nat → Chk × State
  | 0 => s.check w need fe align addr len
  | fuel + 1 =>
    match s.check w need fe align addr len with
    | (.miss sel va first, s) =>
      match s.walkTables w.part w.asid sel va with
      | some e => ((s.fillDie (gidDie w.gid) e).fillQuad (gidQk w.gid) e).engineCheck w need fe align addr len fuel
      | none => (.miss sel va first, s)
    | r => r
/-- Pages that an extent can touch, and one more. -/
def pageFuel (len : Nat) : Nat := len / 65536 + 3

/-- The issuing thread as an accessor. -/
def State.who (s : State) : Who := { part := s.myPart, asid := s.me.asid, gid := s.iss.gid }

/-- The key of byte `i` of checked ranges. -/
def segKey : List (Nat × Nat) → Nat → Nat
  | [], _ => 0
  | (k, n) :: rest, i => if i < n then k + i else segKey rest (i - n)
/-- The bytes of checked ranges. -/
def State.segBytes (s : State) (segs : List (Nat × Nat)) : List Byte := segs.flatMap fun (k, n) => s.bytesAt k n
/-- Write bytes over checked ranges. -/
def State.segWrite (s : State) : List (Nat × Nat) → List Byte → State
  | [], _ => s
  | (k, n) :: rest, bs => (s.writeBytes k (bs.take n)).segWrite rest (bs.drop n)
/-- The first uncorrectable word of checked ranges. -/
def State.segBad (s : State) (segs : List (Nat × Nat)) : Option Nat := segs.findSome? fun (k, n) => s.badIn k n

/-- Join or start a walk for a missing translation and leave rotation; the instruction issues again when the walk has
ended (11 R207, R208). `acc` is the access kind of the fault record. -/
def State.startWalk (s : State) (w : Who) (dom acc sel va first : Nat) : Nat × State :=
  match s.walks.find? (fun x => x.die == gidDie w.gid && x.asid == w.asid && x.sel == sel
      && x.va / 65536 == va / 65536 && x.state == 1 && !x.discard) with
  | some x =>
    (x.id, { s with walks := s.walks.map fun y => if y.id == x.id then { y with waiters := y.waiters ++ [(w.gid, first)] } else y })
  | none =>
    let (id, s) := s.takeId
    let flying := (s.walks.filter fun x => x.die == gidDie w.gid && x.state == 1).length
    let queued := (s.walks.filter fun x => x.die == gidDie w.gid && x.state == 0).length
    let state := if flying < Config.walksInFlight then 1 else if queued < Config.missFifo then 0 else 4
    let walk : Walk :=
      { id := id, die := gidDie w.gid, quad := gidQk w.gid, part := w.part, dom := dom, asid := w.asid, sel := sel, va := va,
        acc := acc, first := first, waiters := [(w.gid, first)], state := state, num := if state = 4 then s.clock + 64 else 0,
        discard := false }
    (id, { s with walks := s.walks ++ [walk] })
/-- The issuing thread waits for a missing translation. -/
def State.waitWalk (s : State) (need sel va first : Nat) : State :=
  let (id, s) := s.startWalk s.who s.myDom need sel va first
  s.retry (.walk id)

end Sys2Proof.Machine
end

