-- ==== Sys2Proof/Machine/Wft.lean ====
section
/-!
DEFINITION. The wait-for table of each die: edges and object identifiers (11 R188 to R191), the walk for cycles (R192),
effective priority (10 R181), overflow (R196), and waking across dies (R191).
-/
namespace Sys2Proof.Machine

/-- Object kinds of 10 R185. -/
def okFe : Nat := 0
def okRsv : Nat := 1
def okBar : Nat := 2
def okNet : Nat := 3
def okSig : Nat := 4
def okQueue : Nat := 5
def okTile : Nat := 6
def okReg : Nat := 7
def okChild : Nat := 8
def okGang : Nat := 9

/-- A global identifier masked to a scope level (11 R189). -/
def maskGid (g scope : Nat) : Nat :=
  match scope with
  | 0 => g / 16 * 16
  | 1 => g / 64 * 64
  | 2 => g / 2 ^ 18 * 2 ^ 18
  | 3 => g / 2 ^ 20 * 2 ^ 20
  | _ => 0
/-- Object identifiers without an address (10 R185, 11 R189). -/
def sigObj (dom sig : Nat) : Nat := 0xF000000000000000 + dom * 2 ^ 12 + sig
def netObj (dom scope gid : Nat) : Nat := 0xF100000000000000 + dom * 2 ^ 40 + scope * 2 ^ 32 + maskGid gid scope
/-- The home die of a network barrier: that of the identifier its object is named by, which is die 0 where the scope spans
dies (DESIGN CHOICE, log 64). -/
def netDie (gid scope : Nat) : Nat := maskGid gid scope / 2 ^ 18 % 4
def queueObj (n gid : Nat) : Nat := 0xF200000000000000 + n * 2 ^ 32 + gid / 16 * 16
def childObj (gid : Nat) : Nat := 0xF300000000000000 + gid
def gangObj (gid : Nat) : Nat := 0xF400000000000000 + gid / 64 * 64 + gid % 16

/-- The wait edges of a thread in ascending object, and the hold edges of an object in ascending identifier (R192). -/
def State.waitEdges (s : State) (g : Nat) : List Edge := sortBy (·.obj) (s.edges.filter fun e => e.ek == 0 && e.gid == g)
def State.holdEdges (s : State) (obj : Nat) : List Edge := sortBy (·.gid) (s.edges.filter fun e => e.ek != 0 && e.obj == obj)

/-- The lowest free entry of a die, or none when all are in use (R188, R196). DESIGN CHOICE (log 82): the spec does not say which free
entry a new edge takes. -/
def freeIdx (used : List Nat) : Nat → Nat → Option Nat
  | 0, _ => none
  | fuel + 1, i => if used.contains i then freeIdx used fuel (i + 1) else some i
def State.freeEntry (s : State) (die : Nat) : Option Nat :=
  let used := (s.edges.filter (·.die == die)).map (·.idx)
  if Config.waitTable ≤ used.length then none else freeIdx used (used.length + 1) 0

/-- Count an overflow event, saturating (R196). -/
def State.overflowed (s : State) (die : Nat) : State :=
  let d := s.die die
  s.setDie { d with overN := min (d.overN + 1) (2 ^ 32 - 1) }
/-- Enter an edge; without room it is dropped and counted (R196). -/
def State.enter (s : State) (die obj ok ek gid : Nat) : State × Bool :=
  match s.freeEntry die with
  | none => (s.overflowed die, false)
  | some i => ({ s with edges := { die := die, idx := i, obj := obj, ok := ok, ek := ek, gid := gid, unc := false } :: s.edges }, true)
def State.hold (s : State) (die obj ok ek gid : Nat) : State := (s.enter die obj ok ek gid).1
def State.unhold (s : State) (obj ok gid : Nat) : State :=
  { s with edges := s.edges.filter fun e => !(e.ek != 0 && e.obj == obj && e.ok == ok && e.gid == gid) }
def State.unwait (s : State) (g : Nat) : State :=
  { s with edges := s.edges.filter fun e => !(e.ek == 0 && e.gid == g) }

/-- What a walk finds, or that it goes on at another die (R191, R192). -/
inductive Found where
  | cycle (path : List Edge)
  | clear
  | limit
  | cross (die n : Nat) (seen : List Nat) (work : List (Edge × List Edge))
  deriving DecidableEq, Repr

/-- Traverse the edges of the work list depth-first on die `d`; each item is an edge and the path to it, latest first. `n`
edges have been traversed; the walk crosses where the next edge lies on another die (R191, R192). -/
def walkLoop (s : State) (t d : Nat) : Nat → Nat → List Nat → List (Edge × List Edge) → Found
  | 0, _, _, _ => .limit
  | _ + 1, _, _, [] => .clear
  | fuel + 1, n, seen, (e, path) :: rest =>
    if e.die != d then .cross e.die n seen ((e, path) :: rest)
    else
      let path := e :: path
      let (hit, seen, next) : Bool × List Nat × List Edge :=
        if e.ek == 0 then (false, seen, s.holdEdges e.obj)
        else if e.gid == t then (true, seen, [])
        else if seen.contains e.gid then (false, seen, [])
        else (false, e.gid :: seen, s.waitEdges e.gid)
      if hit then .cycle path.reverse
      else
        let work := next.map (fun x => (x, path)) ++ rest
        if Config.walkLimit ≤ n + 1 then (if work.isEmpty then .clear else .limit)
        else walkLoop s t d fuel (n + 1) seen work
/-- The walk a wait edge of thread `t` starts on the edge's die (R192). -/
def State.walkEdge (s : State) (t : Nat) (e : Edge) : Found := walkLoop s t e.die (Config.walkLimit + 1) 0 [] [(e, [])]

/-- The threads from which the threads of a list are reached in two more edges (10 R181). -/
def State.waitersOn (s : State) (gs : List Nat) : List Nat :=
  let objs := (s.edges.filter fun e => e.ek != 0 && gs.contains e.gid).map (·.obj)
  (s.edges.filter fun e => e.ek == 0 && objs.contains e.obj).map (·.gid)
def State.reachers (s : State) : Nat → List Nat → List Nat
  | 0, gs => gs
  | n + 1, gs =>
    let new := (s.waitersOn gs).filter (fun g => !gs.contains g)
    if new.isEmpty then gs else s.reachers n (dedup (gs ++ new))
/-- Effective priority (10 R181). -/
def State.eprio (s : State) (g : Nat) : Nat :=
  ((s.reachers 32 [g]).map fun x => (s.thread x).prioBase).foldl max 0

/-- Mark an edge unchecked, or clear the mark. -/
def State.markEdge (s : State) (e : Edge) (u : Bool) : State :=
  { s with edges := s.edges.map fun x => if x.die == e.die && x.idx == e.idx then { x with unc := u } else x }

/-- Send a walk on to another die (R191). -/
def State.sendWalk (s : State) (g : Nat) (e : Edge) (checker : Bool) (die n : Nat) (seen : List Nat)
    (work : List (Edge × List Edge)) : State :=
  let (id, s) := s.takeId
  { s with walkMsgs := s.walkMsgs ++ [WalkMsg.mk id die g (s.thread g).uid e checker n seen work] }
/-- Wake a waiting thread with what its instruction completes with. Its edges go at once; where the object's home lies on
another die the thread sees it when the message arrives (R191). -/
def State.wake (s : State) (g objDie val val2 : Nat) (pred : Bool) : State :=
  let s := s.unwait g
  if objDie = gidDie g then s.complete g val val2 pred
  else
    let (id, s) := s.takeId
    let s := s.modThread g fun t =>
      { t with stat := .running, wait := t.wait.map fun w => { w with why := .reply id } }
    { s with crossings := s.crossings ++ [{ id := id, gid := g, uid := (s.thread g).uid, val := val, val2 := val2, pred := pred }] }

/-- The header and triples of a cycle record (10 R184, R185). -/
def cycleRecord (path : List Edge) (inst : Nat) (causal : Bool) : List Byte :=
  let n := min path.length 16
  let h := path.length * 2 ^ 16 + (if causal then 2 ^ 9 else 0) + (if 16 < path.length then 2 ^ 8 else 0) + n
  bytesOf 8 h ++ bytesOf 8 inst ++
    (path.take 16).flatMap fun e => bytesOf 8 e.obj ++ bytesOf 8 (e.ok * 2 ^ 36 + e.ek * 2 ^ 32 + e.gid)
/-- Kind causality when any object of the cycle is a signal (10 R183). -/
def causalPath (path : List Edge) : Bool := path.any (fun e => e.ok == okSig)
/-- Write the record at `sr.trec` where that names a place for it (10 R184). -/
def State.writeRecord (s : State) (g : Nat) (path : List Edge) : State :=
  let t := s.thread g
  let a := t.trec.toNat
  let inst := ((s.domain? t.dom).map (·.inst)).getD 0
  if a = 0 || a % 16 != 0 || 0x8000 < a + 272 then s
  else s.writeBytes (privKey (gidDie g) (gidQuad g) (gidCore g) a) (cycleRecord path inst (causalPath path))

end Sys2Proof.Machine
end

