-- ==== Sys2Proof/Machine/Ops.lean ====
section
/-!
DEFINITION. Shared operations of every family: code lines and targets (03 R56, R57), taking a trap and returning from it
(00 R11; 10 R182, R186; 11 R198, R199; 12 R216, R218), user-level interrupts (19 R332), scope checks (00 R13), and
parking the issuing thread (00 R9).
-/
namespace Sys2Proof.Machine

/-- Trap classes (10 R182). -/
def clsOpcode : Nat := 1
def clsLine : Nat := 2
def clsBundle : Nat := 3
def clsTarget : Nat := 4
def clsAlign : Nat := 5
def clsSpace : Nat := 6
def clsTranslation : Nat := 7
def clsProtection : Nat := 8
def clsFe : Nat := 9
def clsEcc : Nat := 10
def clsCycle : Nat := 11
def clsLate : Nat := 12
def clsWatchdog : Nat := 13
def clsScope : Nat := 14

/-- Line address and slot of a PC (03 R56). -/
def pcLine (pc : Nat) : Nat := pc / 64 * 64
def pcSlot (pc : Nat) : Nat := pc % 64
/-- Whether a line lies inside a domain's code image (03 R56). -/
def Domain.inImage (d : Domain) (line : Nat) : Bool :=
  d.code.any fun (b, n) => decide (b ≤ line) && decide (line + 64 ≤ b + n)
/-- The half-words of 64 bytes. -/
def halfWords (k : Nat) (m : Memory) : Line := (List.range 32).map fun i => m.read (k + 2 * i) 2
/-- The line at an address of the issuer's code, through the mapping in force; none without a mapping. -/
def State.peekLine (s : State) (g line : Nat) : Option Line :=
  let t := s.thread g
  match s.peekTlb (gidQk g) (s.partOf g) t.asid 4 (line % 2 ^ 48) with
  | none => none
  | some e => some (halfWords (dramKey (e.pa + (line % 2 ^ 48 - e.va))) s.mem)
/-- Whether a whole PC is a legal target for a thread; `half` admits the second head of a bundle, which only a return to
a half that faulted alone may reach (03 R57, R61). -/
def State.targetOkAs (s : State) (g pc : Nat) (half : Bool) : Bool :=
  match s.domain? (s.thread g).dom with
  | none => false
  | some d =>
    d.inImage (pcLine pc) && decide (1 ≤ pcSlot pc) && decide (pcSlot pc ≤ 31) &&
    (match s.peekLine g (pcLine pc) with
     | none => true
     | some l => !l.legal ||
        (decide (pcSlot pc ≤ l.nh) && (half || !(decide (2 ≤ pcSlot pc) && tbit (l.hw (pcSlot pc - 1)) 5))))
/-- Whether a whole PC is a legal target for a thread (03 R57). -/
def State.targetOk (s : State) (g pc : Nat) : Bool := s.targetOkAs g pc false
/-- The line of a target that has no translation, which a transfer to it waits for before the target is judged (03 R57,
11 R208). -/
def State.targetMiss (s : State) (g pc : Nat) : Option Nat :=
  match s.domain? (s.thread g).dom with
  | none => none
  | some d =>
    if d.inImage (pcLine pc) && decide (1 ≤ pcSlot pc) && decide (pcSlot pc ≤ 31) && (s.peekLine g (pcLine pc)).isNone
    then some (pcLine pc) else none
/-- `tgt(o, s)` of 05 R85, modulo 2^64. -/
def State.tgt (s : State) (imm : BitVec 32) (slot : Fin 64) : Nat :=
  (wd (pcLine s.iss.pc) + sxImm imm + wd slot.val).toNat
/-- Whether a PC-relative transfer is well formed in itself, and whether it is legal for the issuing thread (03 R57). -/
def tgtForm (imm : BitVec 32) (slot : Fin 64) : Bool := imm.toNat % 64 == 0 && decide (1 ≤ slot.val) && decide (slot.val ≤ 31)
def State.tgtOk (s : State) (imm : BitVec 32) (slot : Fin 64) : Bool := tgtForm imm slot && s.targetOk s.iss.gid (s.tgt imm slot)
/-- Judge a target of the issuing instruction, once its line has a translation (03 R57; 11 R208). -/
def State.toTarget (s : State) (form : Bool) (pc : Nat) (f : Bool → State → Out) : Out :=
  if form then
    match s.targetMiss s.iss.gid pc with
    | some line => .next (s.waitWalk needX 4 (line % 2 ^ 48) line)
    | none => f (s.targetOk s.iss.gid pc) s
  else f false s

/-- `sr.cause` of a trap (12 R216). -/
def causeWord (tr : Trap) (dfr bdone : Bool) : Nat :=
  tr.cls + tr.kind * 2 ^ 8 + bdone.toNat * 2 ^ 9 + dfr.toNat * 2 ^ 10
/-- Registers g24 to g27 of a thread, and putting four values there. -/
def Thread.high (t : Thread) : Vector Word 4 := #v[t.reg 24, t.reg 25, t.reg 26, t.reg 27]
def Thread.setHigh (t : Thread) (v : Vector Word 4) : Thread :=
  (((t.setReg 24 v[0]).setReg 25 v[1]).setReg 26 v[2]).setReg 27 v[3]
/-- Enter handler state: g24 to g27 are saved and replaced by the trap shadow registers (11 R198). -/
def Thread.enterHandler (t : Thread) (pc : Nat) : Thread :=
  { t.setHigh t.shadow with saved := t.high, handler := true, pc := wd pc }
/-- Leave handler state: the shadow registers are written back, g24 to g27 restored (11 R198). -/
def Thread.leaveHandler (t : Thread) (pc : Nat) : Thread :=
  { t.setHigh t.saved with shadow := t.high, handler := false, pc := wd pc, uiOnce := true }

/-- How the end status names a trap (22 R385). -/
def endKindOf (cls : Nat) : Nat := if cls = clsWatchdog then 2 else if cls = clsCycle then 3 else 7
/-- Hand a trap to the supervisor context of the thread's core (00 R11, 11 R200). -/
def State.toSuper (s : State) (g kind : Nat) (tr : Trap) (epc : Nat) : State :=
  let t := s.thread g
  let s := s.modThread g fun t =>
    { t with wait := some { why := .super, again := false, half := false,
                            fin := { d := 0, d2 := 0, pd := 0, width := 8, sext := false, succ := epc } } }
  { s with sup := s.sup ++ [{ core := gidCk g, gid := g, uid := t.uid, dom := t.dom, kind := kind, cls := tr.cls,
                              tval := tr.tval, epc := epc, service := none }] }

/-- Whether a trap of a class goes to the thread's user handler (00 R11, 02 R49, 11 R199). -/
def Thread.takesUser (t : Thread) (cls : Nat) : Bool := tbit t.uien.toNat cls && !t.handler

/-- TAKING A TRAP: `sr.cause`, `sr.tval` and `sr.epc` are written, the thread's waits end, and the trap goes to the user
handler at `sr.uih`, or else to the supervisor context (00 R11, 11 R198, R199). A handler address that fails R57 goes to
the supervisor with the original class (12 R219). A trap of slot 15 writes the same registers and halts its core's command
handling (11 R200). `user` says whether the trap may go to the user handler. A half of a bundle that was to be issued alone
stays marked as alone (03 R61, 12 R216). -/
def State.deliverAs (s : State) (g : Nat) (tr : Trap) (epc : Nat) (dfr bdone user : Bool) : State :=
  if gidSlot g = 15 then
    let c := s.core (gidCk g)
    let d := s.die (gidDie g)
    ((s.setCore { c with halted := true }).setDie { d with checks := min (d.checks + 1) (2 ^ 32 - 1) }).modThread g fun t =>
      { t with cause := wd (causeWord tr dfr bdone), tval := wd tr.tval, epc := wd epc, wait := none, pc := wd epc }
  else
    let was := s.thread g
    let s := (s.unwait g).modThread g fun t =>
      { t with cause := wd (causeWord tr dfr (bdone || t.halfOnly)), tval := wd tr.tval, epc := wd epc, wait := none,
               stat := .running, pc := wd epc, stream := none, streamQ := [], parked := none, halfOnly := false, words := [], entered := 0,
               postDue := 0, took := [] }
    if was.handler && tr.cls != clsWatchdog then s.toSuper g 4 tr epc
    else if user && was.takesUser tr.cls then
      if s.targetOk g was.uih.toNat then s.modThread g (·.enterHandler was.uih.toNat)
      else s.toSuper g (endKindOf tr.cls) tr epc
    else s.toSuper g (endKindOf tr.cls) tr epc
def State.deliver (s : State) (g : Nat) (tr : Trap) (epc : Nat) (dfr bdone : Bool) : State :=
  s.deliverAs g tr epc dfr bdone true
/-- A watchdog firing: the first of a reaction may go to the user handler, and the count then restarts (02 R49). -/
def State.deliverWatchdog (s : State) (g epc : Nat) (half : Bool) : State :=
  let first := !(s.thread g).wdFired
  let s := s.deliverAs g { cls := clsWatchdog, tval := 0, kind := 0 } epc false half first
  s.modThread g fun t =>
    { t with wdPending := false, wdFired := true, wdStart := if first && t.handler then s.clock else t.wdStart }

/-- `fault(class)` of the issuing instruction (00 R11). -/
def State.fault (s : State) (cls tval : Nat) : State :=
  let s := s.deliver s.iss.gid { cls := cls, tval := tval, kind := 0 } s.iss.pc false s.iss.half
  { s with iss := { s.iss with trapped := true } }
def State.trap (s : State) (cls tval : Nat) : Out := .next (s.fault cls tval)
/-- Protection fault of the issuing instruction. -/
def State.prot (s : State) (tval : Nat) : Out := s.trap clsProtection tval

/-- RETURN FROM A TRAP at user level: registers, handler state and PC are restored; a target that fails R57 is a trap
delivered at the target with the handler state cleared (10 R186, 11 R198, 12 R218). -/
def State.returnUser (s : State) : State :=
  let t := s.me
  let epc := t.epc.toNat
  let s1 := s.modMe fun t => { t.leaveHandler epc with halfOnly := tbit t.cause.toNat 9 }
  let s1 := { s1 with iss := { s1.iss with jumped := true } }
  if s.targetOkAs s.iss.gid epc (tbit t.cause.toNat 9) then s1
  else
    let s2 := s1.deliver s.iss.gid { cls := clsTarget, tval := epc, kind := 0 } epc false false
    { s2 with iss := { s2.iss with trapped := true } }
/-- Return from the handling of a sibling's trap, in slot 15 (12 R218). -/
def State.returnSuper (s : State) : State :=
  match s.sup.find? (fun x => x.core == s.myCore) with
  | none => s
  | some x =>
    let s := s.modThread x.gid fun t =>
      { t with wait := none, stat := .running, pc := t.epc, halfOnly := tbit t.cause.toNat 9 }
    { s with sup := s.sup.filter (· != x) }

/-- Whether the hypervisor policy permits a scope (00 R13). -/
def State.scopeOk (s : State) (part sc : Nat) : Bool :=
  match sc with
  | 0 | 1 | 2 | 3 | 5 => true
  | 4 => match s.part? part with | some p => tbit p.policy 0 | none => false
  | 6 => match s.part? part with | some p => tbit p.policy 1 | none => false
  | _ => false
def State.okScope (s : State) (sc : Nat) : Bool := s.scopeOk s.myPart sc

/-- The widest level of some threads: die, pkg or pod (02 R47, 05 R85). -/
def levelOf (gs : List Nat) : Nat :=
  match gs with
  | [] => 2
  | g :: rest =>
    if rest.all (fun x => x / 2 ^ 18 == g / 2 ^ 18) then 2
    else if rest.all (fun x => x / 2 ^ 20 == g / 2 ^ 20) then 3 else 4
/-- The domain's widest level, by where its threads stand (02 R47, 05 R85). -/
def State.dscope (s : State) (dom : Nat) : Nat := levelOf ((s.threads.filter (·.dom == dom)).map (·.gid))

/-- Whether a key's home lies in a thread's extent of a scope (08 R145). -/
def State.inExtent (s : State) (g scope k : Nat) : Bool :=
  match scope with
  | 0 => keySel k == 1 && keyCore k == gidCk g
  | 1 => homeQuad k == some (gidQk g)
  | 2 => match homeQuad k with | some q => qkDie q == gidDie g | none => false
  | 3 => keySel k != 6 && keySel k != 7
  | 4 => keySel k != 6
  | 5 => match homeQuad k with
         | some q => s.owner q == some (s.partOf g)
         | none => keySel k == 5
  | _ => true
/-- Whether a key is die-local to a thread (08 R144). -/
def dieLocal (g k : Nat) : Bool :=
  match homeQuad k with | some q => qkDie q == gidDie g | none => false

/-- The requests of a thread not yet performed (08 R142). -/
def State.pending (s : State) (uid : Nat) : List Req := s.reqs.filter fun r => r.uid == uid && r.res.isNone
/-- Earlier accesses of the issuing thread homed in an extent and not performed (08 R147). -/
def Req.isCede (r : Req) : Bool := match r.op with | .cede _ => true | _ => false
def Req.isUpd (r : Req) : Bool := match r.op with | .upd _ _ => true | .arradd _ _ => true | _ => false
/-- Whether a message is homed in a thread's extent: it is a store at its destination core (19 R338). -/
def State.msgIn (s : State) (g scope : Nat) (m : Msg) : Bool :=
  let dst := m.flit.hdr % 2 ^ 30
  match scope with
  | 0 => dst / 16 == g / 16
  | 1 => dst / 64 == g / 64
  | 2 => dst / 2 ^ 18 == g / 2 ^ 18
  | 3 => gidPkg dst == s.pkg
  | 5 => gidPkg dst == s.pkg && s.owner (gidQk dst) == some (s.partOf g)
  | _ => true
/-- Messages of a thread, not yet accepted, that are homed in an extent. -/
def State.msgsDue (s : State) (g scope : Nat) : Bool :=
  s.msgs.any fun m => m.srcUid == (s.thread g).uid && m.ldc.isNone && s.msgIn g scope m
def State.unperformedOf (s : State) (g scope : Nat) : Bool :=
  ((s.pending (s.thread g).uid).any fun r => r.isCede || s.inExtent g scope r.key) || s.msgsDue g scope
def State.unperformed (s : State) (scope : Nat) : Bool := s.unperformedOf s.iss.gid scope
/-- The same for a release that does not wait for updates (08 R149). -/
def State.storesDueOf (s : State) (g scope : Nat) : Bool :=
  ((s.pending (s.thread g).uid).any fun r => !r.isUpd && !r.isCede && s.inExtent g scope r.key) || s.msgsDue g scope
def State.storesDue (s : State) (scope : Nat) : Bool := s.storesDueOf s.iss.gid scope
/-- A thread's additions to an arrangement that are still to be applied (18 R326). -/
def State.addsDue (s : State) (uid base : Nat) : Bool :=
  (s.pending uid).any fun q => q.va == base && (match q.op with | .arradd _ _ => true | _ => false)
/-- Earlier die-local accesses of a thread, which an access that acts at issue comes after (08 R144; 19 R338). -/
def State.nearDueOf (s : State) (g : Nat) : Bool :=
  ((s.pending (s.thread g).uid).any fun r => !r.isCede && dieLocal g r.key) || s.msgsDue g 2
/-- What a fence waits for: accesses of its extent, updates at die scope or wider, and the reports of accesses that failed
(09 R163, R172; 06 R119). -/
def State.fenceDueOf (s : State) (g scope : Nat) : Bool :=
  s.storesDueOf g scope || (decide (2 ≤ scope) && (s.pending (s.thread g).uid).any (·.isUpd)) ||
  s.reports.any (·.uid == (s.thread g).uid)
/-- Whether two extents share a word (09 R155). -/
def overlap (k n k' n' : Nat) : Bool := decide (k / 8 * 8 < (k' + n' + 7) / 8 * 8) && decide (k' / 8 * 8 < (k + n + 7) / 8 * 8)
/-- A thread's accesses to an extent, other than plain stores, that are still to be performed: what it reads at issue comes
after them (08 R143). -/
def State.wordsDue (s : State) (uid k n : Nat) : Bool :=
  (s.pending uid).any fun r => (match r.op with | .store _ _ | .zero _ => false | _ => true) && overlap r.key r.len k n
/-- A thread's accesses to an extent that are still to be performed: what it does there at once comes after them (08 R143). -/
def State.sameDue (s : State) (uid k n : Nat) : Bool := (s.pending uid).any fun r => overlap r.key r.len k n
/-- What an instruction that acts at once on an extent at its home still waits for: the thread's earlier accesses to it, and its
die-local ones where the home is (08 R143, R144). -/
def State.actDue (s : State) (k n : Nat) : Option Why :=
  if s.sameDue (s.thread s.iss.gid).uid k n then some (.same k n)
  else if dieLocal s.iss.gid k && s.nearDueOf s.iss.gid then some .near
  else none
/-- Writes of the shuffler to a word, or of other threads that were admitted at its granule, that are still on their way: a thread's
access comes after them (15 R265 to R267). -/
def State.movesDueOf (s : State) (uid w : Nat) : Bool :=
  s.reqs.any fun r => r.uid != uid && r.adm.isSome && r.res.isNone && overlap r.key r.len w 8
def State.movesDue (s : State) (w : Nat) : Bool := s.movesDueOf s.me.uid w
/-- Other threads' reads of a word that are still on their way: a write admitted later comes after them (15 R267). -/
def State.readersDueOf (s : State) (uid w : Nat) : Bool :=
  s.reqs.any fun r => r.uid != uid && r.op == .word && r.res.isNone && overlap r.key r.len w 8
def State.readersDue (s : State) (w : Nat) : Bool := s.readersDueOf s.me.uid w
/-- Words of a thread's chunk whose replies are still to come (17 R290). -/
def State.wordsAsked (s : State) (uid since : Nat) : Bool :=
  s.reqs.any fun r => r.uid == uid && (r.op == .word || r.op == .line) && decide (since ≤ r.seq)
/-- The signal release of 05 R86 waits for the thread's earlier stores, updates and signal operations at dscope. -/
def State.releaseDue (s : State) : Bool := s.unperformed (s.dscope s.myDom)

/-- Entries of a core's store buffer in use: posted requests of its threads not yet performed, and their combined
parts (02 R24). -/
def State.bufferUse (s : State) (core : Nat) : Nat :=
  (s.reqs.filter fun r => r.posted && r.uid != 0 && gidCk r.gid == core && r.res.isNone).length
def State.bufferRoom (s : State) (n : Nat) : Bool := decide (s.bufferUse s.myCore + n ≤ Config.storeBuffer)

/-- The flits of a core still in its send buffer: not yet accepted by their receivers (19 R337). -/
def State.sendUse (s : State) (core : Nat) : Nat := (s.msgs.filter fun m => gidCk m.flit.src == core && m.ldc.isNone).length
/-- Enter a wait edge of a thread and walk it as far as the object's die goes (11 R191); a closed cycle writes its record, takes the thread's edges away and is the
trap (00 R9, 10 R183, 11 R192). -/
def State.enterWait (s : State) (g objDie obj ok : Nat) : State × Option Trap :=
  match s.freeEntry objDie with
  | none => (s.overflowed objDie, none)
  | some i =>
    let e : Edge := { die := objDie, idx := i, obj := obj, ok := ok, ek := 0, gid := g, unc := false }
    let s := { s with edges := e :: s.edges }
    match s.walkEdge g e with
    | .clear => (s, none)
    | .limit => (s.markEdge e true, none)
    | .cross die n seen work => (s.sendWalk g e false die n seen work, none)
    | .cycle path =>
      ((s.writeRecord g path).unwait g, some { cls := clsCycle, tval := obj, kind := (causalPath path).toNat })
/-- Park a thread on an object; `pc` is its instruction's (00 R9). -/
def State.park (s : State) (g objDie obj ok : Nat) (fin : Done) (pc : Nat) : State × Option Trap :=
  (s.modThread g fun t =>
    { t with wait := some { why := .parked obj ok, again := false, half := (t.wait.map (·.half)).getD (g == s.iss.gid && s.iss.half), fin := fin },
             stat := .parked, pc := wd pc }).enterWait g objDie obj ok
/-- Park the issuing thread before its instruction has had any effect: when it is woken the instruction completes without
another issue (00 R9). A cycle trap ends the issue. -/
def State.parkAgain (s : State) (objDie obj ok : Nat) : State :=
  match s.park s.iss.gid objDie obj ok (s.doneTo 0 0 0 8 false) s.iss.pc with
  | (s, some tr) =>
    let s := s.deliver s.iss.gid tr s.iss.pc false s.iss.half
    { s with iss := { s.iss with trapped := true } }
  | (s, none) =>
    let s := s.modMe fun t => { t with wait := t.wait.map fun w => { w with again := true } }
    { s with iss := { s.iss with again := true } }

end Sys2Proof.Machine
end

