-- ==== Sys2Proof/Machine/Operands.lean ====
section
/-!
DEFINITION. Operand forms shared by the families: effective addresses and store data (09 R155), signal numbers (05 R90,
R91), which registers an operation reads and writes (03 R59, R60; 20 R353; 21 R358), and the classes of opcodes (03 R60).
-/
namespace Sys2Proof.Machine

/-- The register an indirect signal operand reads. -/
def sigReg : SigOp → List Nat
  | .imm _ => []
  | .ind b => [b.val]

/-- The registers an operation reads as whole `g` registers, by number: the sources `qmap` may map (05 R85, 20 R353).
Register groups of class V are left out: they end at g27 and no queue maps them. -/
def srcs (i : Instr) : List Nat :=
  match i with
  | .nop => []
  | .br _ _ => []
  | .brc _ a b _ _ => [a.val, b.val]
  | .brr a => [a.val]
  | .call _ _ _ => []
  | .ret a => [a.val]
  | .loop d _ _ => [d.val]
  | .halt => []
  | .pause => []
  | .emit sig => sigReg sig
  | .emitv a sig => [a.val] ++ sigReg sig
  | .pres _ sig => sigReg sig
  | .cede sig => sigReg sig
  | .claim _ sig => sigReg sig
  | .unclaim sig => sigReg sig
  | .sigvCur _ sig => sigReg sig
  | .sigvPrev _ sig => sigReg sig
  | .abortw _ _ _ => []
  | .suspw sig => sigReg sig
  | .endw => []
  | .fork _ _ _ => []
  | .join => []
  | .instNum _ => []
  | .instSeed _ => []
  | .instNsig _ => []
  | .trig _ => []
  | .gangWait => []
  | .gangOn _ => []
  | .gangOff => []
  | .add _ a b _ => [a.val, b.val]
  | .sub _ a b _ => [a.val, b.val]
  | .addi _ a _ => [a.val]
  | .mul _ a b _ => [a.val, b.val]
  | .mulh _ a b _ _ => [a.val, b.val]
  | .div _ a b _ _ => [a.val, b.val]
  | .rem _ a b _ _ => [a.val, b.val]
  | .min _ a b _ _ => [a.val, b.val]
  | .max _ a b _ _ => [a.val, b.val]
  | .abs _ a _ => [a.val]
  | .and _ a b => [a.val, b.val]
  | .or _ a b => [a.val, b.val]
  | .xor _ a b => [a.val, b.val]
  | .andn _ a b => [a.val, b.val]
  | .orn _ a b => [a.val, b.val]
  | .shl _ a b _ => [a.val, b.val]
  | .shlImm _ a _ _ => [a.val]
  | .shr _ a b _ => [a.val, b.val]
  | .shrImm _ a _ _ => [a.val]
  | .sar _ a b _ => [a.val, b.val]
  | .sarImm _ a _ _ => [a.val]
  | .rol _ a b _ => [a.val, b.val]
  | .rolImm _ a _ _ => [a.val]
  | .clz _ a => [a.val]
  | .ctz _ a => [a.val]
  | .popc _ a => [a.val]
  | .brev _ a => [a.val]
  | .bfx _ a _ _ _ => [a.val]
  | .bfi d a _ _ => [d.val, a.val]
  | .cmp _ a b _ => [a.val, b.val]
  | .cmpi _ a _ _ => [a.val]
  | .sel _ _ a b => [a.val, b.val]
  | .movi _ _ => []
  | .moviZx _ _ => []
  | .moviHi d _ => [d.val]
  | .mov _ a => [a.val]
  | .movFromSpecial _ _ => []
  | .mrcvRead _ => []
  | .msndWrite _ a => [a.val]
  | .movFromPred _ _ => []
  | .movToPred _ a => [a.val]
  | .plog _ _ _ _ => []
  | .lea _ a b _ _ => [a.val, b.val]
  | .mad _ a b c _ => [a.val, b.val, c.val]
  | .sext _ a _ => [a.val]
  | .zext _ a _ => [a.val]
  | .cvti _ a _ => [a.val]
  | .fadd _ a b _ => [a.val, b.val]
  | .fmul _ a b _ => [a.val, b.val]
  | .ffma _ a b c _ => [a.val, b.val, c.val]
  | .fcmp _ a b _ => [a.val, b.val]
  | .ld _ a _ _ _ => [a.val]
  | .st a b _ _ _ => [a.val, b.val]
  | .ldfe _ a _ _ _ _ => [a.val]
  | .stef a b _ _ _ _ => [a.val, b.val]
  | .ldff _ a _ _ _ _ => [a.val]
  | .stff a b _ _ _ _ => [a.val, b.val]
  | .fesetFull a _ => [a.val]
  | .fesetEmpty a _ => [a.val]
  | .feqry _ a _ => [a.val]
  | .ldp _ _ _ => []
  | .stp _ _ _ => []
  | .ldc _ a c _ _ _ => [a.val, c.val]
  | .upd a b _ _ => [a.val, b.val]
  | .updr _ _ a b _ _ => [a.val, b.val]
  | .updcfgLd _ a b _ => [a.val, b.val]
  | .updcfgSt _ b _ => [b.val]
  | .updcfgClr _ b _ => [b.val]
  | .cas _ a b c _ _ _ => [a.val, b.val, c.val]
  | .lrw _ _ a _ _ _ => [a.val]
  | .sch _ a b _ _ => [a.val, b.val]
  | .rsvx a => [a.val]
  | .fenceCore => []
  | .fence _ => []
  | .fenceDrn _ => []
  | .lda _ a _ _ _ _ => [a.val]
  | .stl a b _ _ _ _ => [a.val, b.val]
  | .barNetwork _ b _ _ _ => [b.val]
  | .barDrain _ a b _ _ _ => [a.val, b.val]
  | .barObject _ a _ => [a.val]
  | .barinit _ a b _ _ => [a.val, b.val]
  | .migr _ a => [a.val]
  | .swap _ a b _ _ _ => [a.val, b.val]
  | .stm _ _ _ _ _ => []
  | .fetchadd _ a b _ _ _ => [a.val, b.val]
  | .fetchaddImm _ a b _ _ _ _ => [a.val, b.val]
  | .zfill a _ _ => [a.val]
  | .wregHold _ a => [a.val]
  | .wregFe _ a => [a.val]
  | .wunreg _ a => [a.val]
  | .wwait _ a => [a.val]
  | .wsig _ a => [a.val]
  | .prioSet _ a => [a.val]
  | .prioMax _ => []
  | .trapNothing _ _ => []
  | .trapTime _ => []
  | .trapUserAbort d => [d.val]
  | .trapPostFaultQueue d => [d.val]
  | .rft => []
  | .srr _ _ _ => []
  | .srw a _ _ => [a.val]
  | .srwEbud a _ => [a.val]
  | .tlbiAll => []
  | .tlbiPage a => [a.val]
  | .tlbiAsid a => [a.val]
  | .monSel _ _ a => [a.val]
  | .monEdge _ a => [a.val]
  | .monRd _ _ b => [b.val]
  | .monOff _ => []
  | .wdarm _ a => [a.val]
  | .vadd d a b th _ => if th then [d.val, a.val, b.val] else []
  | .vsub d a b th _ => if th then [d.val, a.val, b.val] else []
  | .vmul d a b th _ => if th then [d.val, a.val, b.val] else []
  | .vfma d a b c th _ => if th then [d.val, a.val, b.val, c.val] else []
  | .vdiv d a b th _ => if th then [d.val, a.val, b.val] else []
  | .vmin d a b th _ => if th then [d.val, a.val, b.val] else []
  | .vmax d a b th _ => if th then [d.val, a.val, b.val] else []
  | .vabs d a th _ => if th then [d.val, a.val] else []
  | .vneg d a th _ => if th then [d.val, a.val] else []
  | .vcmp d a b _ th _ => if th then [d.val, a.val, b.val] else []
  | .vsel d a b c th _ => if th then [d.val, a.val, b.val, c.val] else []
  | .vand d a b th _ => if th then [d.val, a.val, b.val] else []
  | .vor d a b th _ => if th then [d.val, a.val, b.val] else []
  | .vxor d a b th _ => if th then [d.val, a.val, b.val] else []
  | .vshl d a b th _ => if th then [d.val, a.val, b.val] else []
  | .vshr d a b th _ => if th then [d.val, a.val, b.val] else []
  | .vsar d a b th _ => if th then [d.val, a.val, b.val] else []
  | .vexp d a th _ => if th then [d.val, a.val] else []
  | .vexp2 d a th _ => if th then [d.val, a.val] else []
  | .vlog d a th _ => if th then [d.val, a.val] else []
  | .vrcp d a th _ => if th then [d.val, a.val] else []
  | .vrsq d a th _ => if th then [d.val, a.val] else []
  | .vsqrt d a th _ => if th then [d.val, a.val] else []
  | .vtanh d a th _ => if th then [d.val, a.val] else []
  | .vsgm d a th _ => if th then [d.val, a.val] else []
  | .vsilu d a th _ => if th then [d.val, a.val] else []
  | .vcvt d a _ _ th _ => if th then [d.val, a.val] else []
  | .vqnt d a _ _ _ th _ => if th then [d.val, a.val] else []
  | .vdeq d a b _ _ th _ => if th then [d.val, a.val] else [b.val]
  | .vscl _ _ b _ => [b.val]
  | .vfill d a th _ => if th then [a.val, d.val] else [a.val]
  | .vcpy d a th _ => if th then [d.val, a.val] else []
  | .vbcast _ _ b _ => [b.val]
  | .vperm _ _ _ _ _ => []
  | .vclamp d a b c th _ => if th then [d.val, a.val, b.val, c.val] else []
  | .vround d a _ th _ => if th then [d.val, a.val] else []
  | .vdot _ a b th _ => if th then [a.val, b.val] else []
  | .vlerp d a b c th _ => if th then [d.val, a.val, b.val, c.val] else []
  | .vnorm d a b th _ => if th then [b.val, d.val, a.val] else [b.val]
  | .vmask d a b th _ => if th then [a.val, b.val, d.val] else [a.val, b.val]
  | .vsum _ a th _ => if th then [a.val] else []
  | .vrmax _ a th _ => if th then [a.val] else []
  | .vrmin _ a th _ => if th then [a.val] else []
  | .vscan d a th _ => if th then [d.val, a.val] else []
  | .vtopk d a b _ _ _ => [d.val, a.val, b.val]
  | .vmrgkLocal d a b _ _ => [d.val, a.val, b.val]
  | .vmrgkBank d a _ _ => [d.val, a.val]
  | .vsmx d a th _ => if th then [d.val, a.val] else [d.val]
  | .vsmn d a b th _ => if th then [b.val, d.val, a.val] else [b.val]
  | .vsamp _ _ b _ => [b.val]
  | .rng _ a b => [a.val, b.val]
  | .vrng d a b th _ => if th then [a.val, b.val, d.val] else [a.val, b.val]
  | .vcnt _ a th _ => if th then [a.val] else []
  | .mload _ a _ _ => [a.val]
  | .mmul _ a _ _ => [a.val]
  | .mcfgMask _ a b c e => if e.val = 0 then [] else [a.val, b.val, c.val]
  | .mcfgCancel _ => []
  | .maccClr _ a => [a.val]
  | .maccScl _ a b => [a.val, b.val]
  | .mstat _ => []
  | .thdef _ a b c op => if op.val = 2 then [a.val, b.val, c.val] else [a.val, b.val]
  | .thld d a b c th _ => if th then [a.val, b.val, d.val] else [a.val, b.val, c.val]
  | .thst d a b c th _ => if th then [a.val, b.val, d.val] else [a.val, b.val, c.val]
  | .thaddr _ a b c => [a.val, b.val, c.val]
  | .relay d a b c _ => [d.val, a.val, b.val, c.val]
  | .thqry _ a _ => [a.val]
  | .thsync _ a => [a.val]
  | .send a _ _ => [a.val]
  | .recvWait _ => []
  | .recvPoll _ _ => []
  | .cont _ _ => []
  | .waitr _ => []
  | .cpyq _ _ => []
  | .cpyqw _ _ => []
  | .gath _ _ _ => []
  | .scat _ _ _ => []
  | .mbox _ _ => []
  | .waitm _ => []
  | .uisetOff _ => []
  | .uisetOn _ => []
  | .rspawn _ a _ _ _ => [a.val]
  | .spawn _ a _ _ _ => [a.val]
  | .fjoin _ a b => [a.val, b.val]
  | .fjoinSync _ a => [a.val]
  | .qmapSet _ _ => []
  | .qmapOff _ => []
  | .iqdefNew _ a b c => [a.val, b.val, c.val]
  | .iqdefDel _ a => [a.val]
  | .iqpush _ a _ => [a.val]
  | .iqpop _ _ a => [a.val]
  | .iqcons _ a => [a.val]
  | .arrget _ _ a b => [a.val, b.val]
  | .arradd a b c => [a.val, b.val, c.val]
  | .iqbind _ a b _ => [a.val, b.val]
  | .iqstat _ a => [a.val]
  | .pktBeg _ a => [a.val]
  | .pktEnd => []
  | .pktDisp _ a b => [a.val, b.val]
  | .commandSubmission _ _ _ => []
  | .attach _ _ => []
  | .reAttach _ _ => []
  | .load _ _ => []
  | .launch _ _ => []
  | .emitInput _ _ => []
  | .readOutputs _ _ => []
  | .suspend _ _ => []
  | .resume _ _ => []
  | .abort _ _ => []
  | .endStatus _ _ => []
  | .faultAnswer _ _ => []
  | .healthRead _ _ => []
  | .setFaultQueue _ _ => []
  | .tenantCreate _ _ => []
  | .tenantTeardown _ _ => []
  | .setRoots _ _ => []
  | .setRates _ _ => []
  | .setFabric _ _ => []
  | .setKeys _ _ => []
  | .attest _ _ => []
  | .completionRecord _ _ => []
  | .consumedCountPoll _ _ _ => []
  | .hostPostedWrite _ _ => []
  | .packageReset => []
  | .lull _ => []
  | .energyRefill _ => []
  | .watchdogFiring _ => []
  | .cedeApply _ => []
  | .replyArrival _ => []
  | .homeAccess _ => []
  | .feRetryResend _ => []
  | .bankUpdateArrival _ => []
  | .drain _ => []
  | .backgroundChecker _ => []
  | .walkCrossing _ => []
  | .deferredFaultReport _ => []
  | .supervisorTrapService _ => []
  | .pageWalkComplete _ => []
  | .walkFifoRetry _ => []
  | .copyStart _ => []
  | .copyCompletion _ => []
  | .streamerCompletion _ => []
  | .userLevelInterrupt _ => []
  | .messageArrival _ => []
  | .continuationArrival _ => []
  | .messageResend _ => []
  | .flitRoute _ _ => []
  | .packetUrgent _ => []
  | .driftWindow _ => []
  | .bucketAdmit _ => []
  | .stealAttempt _ => []
  | .postBufferDrain _ => []
  | .iqSpillRefill _ => []
  | .granuleMove _ => []
  | .conversionComplete _ => []
  | .conversionStop _ => []
  | .mmulComplete _ _ => []
  | .sequencerStop _ => []
  | .patrolScrub _ => []
  | .linkFlitError _ => []
  | .machineCheck _ => []
  | .packageLoss _ => []
  | .thermalAlarm _ _ => []
  | .monitorSample _ _ _ => []
  | .arrangementAddApply _ => []
  | .barrelIssue _ => []
  | .mloadComplete _ => []
  | .postedReceiveExpiry _ _ => []
  | .registersWindowRead _ => []

/-- The registers an operation writes as whole `g` registers, by number. -/
def dsts (i : Instr) : List Nat :=
  match i with
  | .nop => []
  | .br _ _ => []
  | .brc _ _ _ _ _ => []
  | .brr _ => []
  | .call d _ _ => [d.val]
  | .ret _ => []
  | .loop d _ _ => [d.val]
  | .halt => []
  | .pause => []
  | .emit _ => []
  | .emitv _ _ => []
  | .pres _ _ => []
  | .cede _ => []
  | .claim d _ => [d.val]
  | .unclaim _ => []
  | .sigvCur d _ => [d.val]
  | .sigvPrev d _ => [d.val]
  | .abortw _ _ _ => []
  | .suspw _ => []
  | .endw => []
  | .fork d _ _ => [d.val]
  | .join => []
  | .instNum d => [d.val]
  | .instSeed d => [d.val]
  | .instNsig d => [d.val]
  | .trig _ => []
  | .gangWait => []
  | .gangOn d => [d.val]
  | .gangOff => []
  | .add d _ _ _ => [d.val]
  | .sub d _ _ _ => [d.val]
  | .addi d _ _ => [d.val]
  | .mul d _ _ _ => [d.val]
  | .mulh d _ _ _ _ => [d.val]
  | .div d _ _ _ _ => [d.val]
  | .rem d _ _ _ _ => [d.val]
  | .min d _ _ _ _ => [d.val]
  | .max d _ _ _ _ => [d.val]
  | .abs d _ _ => [d.val]
  | .and d _ _ => [d.val]
  | .or d _ _ => [d.val]
  | .xor d _ _ => [d.val]
  | .andn d _ _ => [d.val]
  | .orn d _ _ => [d.val]
  | .shl d _ _ _ => [d.val]
  | .shlImm d _ _ _ => [d.val]
  | .shr d _ _ _ => [d.val]
  | .shrImm d _ _ _ => [d.val]
  | .sar d _ _ _ => [d.val]
  | .sarImm d _ _ _ => [d.val]
  | .rol d _ _ _ => [d.val]
  | .rolImm d _ _ _ => [d.val]
  | .clz d _ => [d.val]
  | .ctz d _ => [d.val]
  | .popc d _ => [d.val]
  | .brev d _ => [d.val]
  | .bfx d _ _ _ _ => [d.val]
  | .bfi d _ _ _ => [d.val]
  | .cmp _ _ _ _ => []
  | .cmpi _ _ _ _ => []
  | .sel d _ _ _ => [d.val]
  | .movi d _ => [d.val]
  | .moviZx d _ => [d.val]
  | .moviHi d _ => [d.val]
  | .mov d _ => [d.val]
  | .movFromSpecial d _ => [d.val]
  | .mrcvRead d => [d.val]
  | .msndWrite _ _ => []
  | .movFromPred d _ => [d.val]
  | .movToPred _ _ => []
  | .plog _ _ _ _ => []
  | .lea d _ _ _ _ => [d.val]
  | .mad d _ _ _ _ => [d.val]
  | .sext d _ _ => [d.val]
  | .zext d _ _ => [d.val]
  | .cvti d _ _ => [d.val]
  | .fadd d _ _ _ => [d.val]
  | .fmul d _ _ _ => [d.val]
  | .ffma d _ _ _ _ => [d.val]
  | .fcmp _ _ _ _ => []
  | .ld d _ _ _ _ => [d.val]
  | .st _ _ _ _ _ => []
  | .ldfe d _ _ _ _ _ => [d.val]
  | .stef _ _ _ _ _ _ => []
  | .ldff d _ _ _ _ _ => [d.val]
  | .stff _ _ _ _ _ _ => []
  | .fesetFull _ _ => []
  | .fesetEmpty _ _ => []
  | .feqry d _ _ => [d.val]
  | .ldp _ _ _ => []
  | .stp _ _ _ => []
  | .ldc d _ _ _ _ _ => [d.val]
  | .upd _ _ _ _ => []
  | .updr d _ _ _ _ _ => [d.val]
  | .updcfgLd d _ _ _ => [d.val]
  | .updcfgSt d _ _ => [d.val]
  | .updcfgClr d _ _ => [d.val]
  | .cas d _ _ _ _ _ _ => [d.val]
  | .lrw d _ _ _ _ _ => [d.val]
  | .sch _ _ _ _ _ => []
  | .rsvx _ => []
  | .fenceCore => []
  | .fence _ => []
  | .fenceDrn _ => []
  | .lda d _ _ _ _ _ => [d.val]
  | .stl _ _ _ _ _ _ => []
  | .barNetwork d _ c _ _ => [d.val, c.val]
  | .barDrain d _ _ c _ _ => [d.val, c.val]
  | .barObject d _ _ => [d.val]
  | .barinit d _ _ _ _ => [d.val]
  | .migr d _ => [d.val]
  | .swap d _ _ _ _ _ => [d.val]
  | .stm _ _ _ _ _ => []
  | .fetchadd d _ _ _ _ _ => [d.val]
  | .fetchaddImm d _ _ _ _ _ _ => [d.val]
  | .zfill _ _ _ => []
  | .wregHold d _ => [d.val]
  | .wregFe d _ => [d.val]
  | .wunreg d _ => [d.val]
  | .wwait d _ => [d.val]
  | .wsig d _ => [d.val]
  | .prioSet d _ => [d.val]
  | .prioMax d => [d.val]
  | .trapNothing d _ => [d.val]
  | .trapTime d => [d.val]
  | .trapUserAbort _ => []
  | .trapPostFaultQueue d => [d.val]
  | .rft => []
  | .srr d _ _ => [d.val]
  | .srw _ _ _ => []
  | .srwEbud _ _ => []
  | .tlbiAll => []
  | .tlbiPage _ => []
  | .tlbiAsid _ => []
  | .monSel d _ _ => [d.val]
  | .monEdge _ _ => []
  | .monRd d _ _ => [d.val]
  | .monOff _ => []
  | .wdarm d _ => [d.val]
  | .vadd _ _ _ _ _ => []
  | .vsub _ _ _ _ _ => []
  | .vmul _ _ _ _ _ => []
  | .vfma _ _ _ _ _ _ => []
  | .vdiv _ _ _ _ _ => []
  | .vmin _ _ _ _ _ => []
  | .vmax _ _ _ _ _ => []
  | .vabs _ _ _ _ => []
  | .vneg _ _ _ _ => []
  | .vcmp _ _ _ _ _ _ => []
  | .vsel _ _ _ _ _ _ => []
  | .vand _ _ _ _ _ => []
  | .vor _ _ _ _ _ => []
  | .vxor _ _ _ _ _ => []
  | .vshl _ _ _ _ _ => []
  | .vshr _ _ _ _ _ => []
  | .vsar _ _ _ _ _ => []
  | .vexp _ _ _ _ => []
  | .vexp2 _ _ _ _ => []
  | .vlog _ _ _ _ => []
  | .vrcp _ _ _ _ => []
  | .vrsq _ _ _ _ => []
  | .vsqrt _ _ _ _ => []
  | .vtanh _ _ _ _ => []
  | .vsgm _ _ _ _ => []
  | .vsilu _ _ _ _ => []
  | .vcvt _ _ _ _ _ _ => []
  | .vqnt _ _ b _ _ th _ => if th then [] else [b.val]
  | .vdeq _ _ _ _ _ _ _ => []
  | .vscl _ _ _ _ => []
  | .vfill _ _ _ _ => []
  | .vcpy _ _ _ _ => []
  | .vbcast _ _ _ _ => []
  | .vperm _ _ _ _ _ => []
  | .vclamp _ _ _ _ _ _ => []
  | .vround _ _ _ _ _ => []
  | .vdot d _ _ _ _ => [d.val]
  | .vlerp _ _ _ _ _ _ => []
  | .vnorm _ _ _ _ _ => []
  | .vmask _ _ _ _ _ => []
  | .vsum d _ _ _ => [d.val]
  | .vrmax d _ _ _ => [d.val]
  | .vrmin d _ _ _ => [d.val]
  | .vscan _ _ _ _ => []
  | .vtopk _ _ _ _ _ _ => []
  | .vmrgkLocal _ _ _ _ _ => []
  | .vmrgkBank _ _ _ _ => []
  | .vsmx d _ _ _ => [d.val]
  | .vsmn _ _ _ _ _ => []
  | .vsamp d _ _ _ => [d.val]
  | .rng d _ _ => [d.val]
  | .vrng _ _ _ _ _ => []
  | .vcnt d _ _ _ => [d.val]
  | .mload d _ _ _ => [d.val]
  | .mmul d _ _ _ => [d.val]
  | .mcfgMask d _ _ _ _ => [d.val]
  | .mcfgCancel d => [d.val]
  | .maccClr d _ => [d.val]
  | .maccScl d _ _ => [d.val]
  | .mstat d => [d.val, d.val + 1, d.val + 2]
  | .thdef d _ _ _ _ => [d.val]
  | .thld _ _ _ _ _ _ => []
  | .thst _ _ _ _ _ _ => []
  | .thaddr d _ _ _ => [d.val]
  | .relay d _ _ _ _ => [d.val]
  | .thqry d _ _ => [d.val]
  | .thsync d _ => [d.val]
  | .send _ _ _ => []
  | .recvWait _ => []
  | .recvPoll _ _ => []
  | .cont d _ => [d.val]
  | .waitr d => [d.val]
  | .cpyq d _ => [d.val]
  | .cpyqw d _ => [d.val]
  | .gath d _ _ => [d.val]
  | .scat d _ _ => [d.val]
  | .mbox d _ => [d.val]
  | .waitm d => [d.val]
  | .uisetOff d => [d.val]
  | .uisetOn d => [d.val]
  | .rspawn d _ _ _ _ => [d.val]
  | .spawn d _ _ _ _ => [d.val]
  | .fjoin d _ _ => [d.val]
  | .fjoinSync d _ => [d.val]
  | .qmapSet d _ => [d.val]
  | .qmapOff d => [d.val]
  | .iqdefNew d _ _ _ => [d.val]
  | .iqdefDel d _ => [d.val]
  | .iqpush d _ _ => [d.val]
  | .iqpop _ _ _ => []
  | .iqcons d _ => [d.val]
  | .arrget d _ _ _ => [d.val]
  | .arradd _ _ _ => []
  | .iqbind d _ _ _ => [d.val]
  | .iqstat d _ => [d.val]
  | .pktBeg d _ => [d.val]
  | .pktEnd => []
  | .pktDisp d _ _ => [d.val]
  | .commandSubmission _ _ _ => []
  | .attach _ _ => []
  | .reAttach _ _ => []
  | .load _ _ => []
  | .launch _ _ => []
  | .emitInput _ _ => []
  | .readOutputs _ _ => []
  | .suspend _ _ => []
  | .resume _ _ => []
  | .abort _ _ => []
  | .endStatus _ _ => []
  | .faultAnswer _ _ => []
  | .healthRead _ _ => []
  | .setFaultQueue _ _ => []
  | .tenantCreate _ _ => []
  | .tenantTeardown _ _ => []
  | .setRoots _ _ => []
  | .setRates _ _ => []
  | .setFabric _ _ => []
  | .setKeys _ _ => []
  | .attest _ _ => []
  | .completionRecord _ _ => []
  | .consumedCountPoll _ _ _ => []
  | .hostPostedWrite _ _ => []
  | .packageReset => []
  | .lull _ => []
  | .energyRefill _ => []
  | .watchdogFiring _ => []
  | .cedeApply _ => []
  | .replyArrival _ => []
  | .homeAccess _ => []
  | .feRetryResend _ => []
  | .bankUpdateArrival _ => []
  | .drain _ => []
  | .backgroundChecker _ => []
  | .walkCrossing _ => []
  | .deferredFaultReport _ => []
  | .supervisorTrapService _ => []
  | .pageWalkComplete _ => []
  | .walkFifoRetry _ => []
  | .copyStart _ => []
  | .copyCompletion _ => []
  | .streamerCompletion _ => []
  | .userLevelInterrupt _ => []
  | .messageArrival _ => []
  | .continuationArrival _ => []
  | .messageResend _ => []
  | .flitRoute _ _ => []
  | .packetUrgent _ => []
  | .driftWindow _ => []
  | .bucketAdmit _ => []
  | .stealAttempt _ => []
  | .postBufferDrain _ => []
  | .iqSpillRefill _ => []
  | .granuleMove _ => []
  | .conversionComplete _ => []
  | .conversionStop _ => []
  | .mmulComplete _ _ => []
  | .sequencerStop _ => []
  | .patrolScrub _ => []
  | .linkFlitError _ => []
  | .machineCheck _ => []
  | .packageLoss _ => []
  | .thermalAlarm _ _ => []
  | .monitorSample _ _ _ => []
  | .arrangementAddApply _ => []
  | .barrelIssue _ => []
  | .mloadComplete _ => []
  | .postedReceiveExpiry _ _ => []
  | .registersWindowRead _ => []
/-- Register runs and pairs: while `qmap` is in force an instruction whose run meets 28 to 31 raises a protection fault
(09 R157, 21 R358, R362). DESIGN CHOICE (log 75): the first of this list that is 28 to 31 is the one reported. -/
def runs (i : Instr) : List Nat :=
  let run (r n : Nat) := (List.range n).map (r + ·)
  match i with
  | .ldp d a _ => run d.val 2 ++ [a.val]
  | .stp a b _ => a.val :: run b.val 2
  | .stm a b c op _ => a.val :: c.val :: run b.val op.val
  | .send _ b op => run b.val op.val
  | .recvWait d | .recvPoll d _ => run d.val 8
  | .cont _ a => [a.val]
  | .iqpop d _ _ => run d.val 4
  | .cpyq _ a | .cpyqw _ a | .gath _ a _ | .scat _ a _ => run a.val 4
  | .rspawn _ _ b _ _ | .spawn _ _ b _ _ | .iqpush _ _ b => run b.val 4
  | _ => []
/-- An operation of 0xA8 to 0xBF with the last group in place of the group 28 that its field names, if it names that one: with
`qmap` in force such a field is a mapped register's and not an illegal opcode (21 R358 and its examples). -/
def atMapped (i : Instr) : Option Instr :=
  let g (r : Reg) (f : Reg → Instr) : Option Instr := if r.val = 28 then some (f 24) else none
  match i with
  | .iqpop d p a => g d fun r => .iqpop r p a
  | .cpyq d a => g a fun r => .cpyq d r
  | .cpyqw d a => g a fun r => .cpyqw d r
  | .gath d a w => g a fun r => .gath d r w
  | .scat d a w => g a fun r => .scat d r w
  | .rspawn d a b t i => g b fun r => .rspawn d a r t i
  | .spawn d a b t i => g b fun r => .spawn d a r t i
  | .iqpush d a b => g b fun r => .iqpush d a r
  | _ => none

/-- The groups and runs an operation writes beside `dsts` (03 R60). -/
def groupWrites (i : Instr) : List Nat :=
  let g (th : Bool) (d : Reg) := if th then [] else (List.range 4).map (d.val + ·)
  match i with
  | .vadd d _ _ th _ | .vsub d _ _ th _ | .vmul d _ _ th _ | .vdiv d _ _ th _ | .vmin d _ _ th _ | .vmax d _ _ th _ => g th d
  | .vand d _ _ th _ | .vor d _ _ th _ | .vxor d _ _ th _ | .vshl d _ _ th _ | .vshr d _ _ th _ | .vsar d _ _ th _ => g th d
  | .vfma d _ _ _ th _ | .vsel d _ _ _ th _ | .vclamp d _ _ _ th _ | .vlerp d _ _ _ th _ => g th d
  | .vabs d _ th _ | .vneg d _ th _ | .vexp d _ th _ | .vexp2 d _ th _ | .vlog d _ th _ | .vrcp d _ th _ => g th d
  | .vrsq d _ th _ | .vsqrt d _ th _ | .vtanh d _ th _ | .vsgm d _ th _ | .vsilu d _ th _ => g th d
  | .vfill d _ th _ | .vcpy d _ th _ | .vscan d _ th _ => g th d
  | .vcmp d _ _ _ th _ | .vnorm d _ _ th _ | .vmask d _ _ th _ | .vsmn d _ _ th _ | .vrng d _ _ th _ => g th d
  | .vcvt d _ _ _ th _ | .vqnt d _ _ _ _ th _ | .vdeq d _ _ _ _ th _ | .vround d _ _ th _ => g th d
  | .vscl d _ _ _ | .vbcast d _ _ _ | .vperm d _ _ _ _ => g false d
  | .thld d _ _ _ th _ => g th d
  | .iqpop d _ _ => g false d
  | .ldp d _ _ => [d.val, d.val + 1]
  | .recvWait d | .recvPoll d _ => (List.range 8).map (d.val + ·)
  | _ => []
/-- Registers that a return from a trap writes back (11 R198). -/
def restores (i : Instr) : List Nat := match i with | .rft => [24, 25, 26, 27] | _ => []
/-- Every `g` register an operation writes; a write to g0 is discarded. -/
def writes (i : Instr) : List Nat := (dsts i ++ groupWrites i ++ restores i).filter (· != 0)

/-- Classes of opcodes (03 R60). -/
def isV (opc : Nat) : Bool := decide (0x68 ≤ opc) && decide (opc ≤ 0x9B)
def isM (opc : Nat) : Bool := decide (0x9C ≤ opc) && decide (opc ≤ 0xA0)
/-- The opcode of an encodable instruction. -/
def opcodeOf (i : Instr) : Nat := match fieldsOf i with | some r => r.op | none => 0

/-- `EA` of the opcodes with a displacement (09 R155). -/
def State.ea (s : State) (a : Reg) (imm : BitVec 32) : Nat := (s.g a + sxImm imm).toNat
/-- `data` of the plain stores (09 R155): the register plus the signed 7-bit field. -/
def State.stData (s : State) (b : Reg) (e : Fin 128) : Nat := (s.g b + wdInt (signed 7 e.val)).toNat
/-- The signal number of an operand (05 R91). -/
def State.sigNo (s : State) : SigOp → Nat
  | .imm n => n.val
  | .ind b => s.gv b % 4096
/-- Whether the issuer is a member of its quad's gang (02 R28). -/
def State.inGang (s : State) : Bool :=
  match (s.quad s.myQuad).gang with
  | some g => g.slot == gidSlot s.iss.gid && (s.thread? s.iss.gid).isSome
  | none => false

end Sys2Proof.Machine
end

