-- ==== Sys2Proof/Machine/Float.lean ====
section
/-!
DEFINITION. The number formats: layouts (R237, R238), exact values, rounding (R8, R242, R243), special cases (R113),
comparison (R114), conversion (R241, R244) and FP4 blocks (R245).
-/
namespace Sys2Proof.Machine

/-- An exact value: NaN, an infinity, or a signed rational `n / d` with `d` not zero; zero keeps its sign. -/
inductive FV where
  | nan
  | inf (neg : Bool)
  | fin (neg : Bool) (n d : Nat)
  deriving DecidableEq, Repr

/-- Rounding modes of R242. -/
inductive Rm where
  | rne | rtz | rdn | rup | sto
  deriving DecidableEq, Repr

def Rm.ofCode (n : Nat) : Rm :=
  match n with | 0 => .rne | 1 => .rtz | 2 => .rdn | 3 => .rup | _ => .sto

/-- Element width in bits of a format code (R237). -/
def fmtWidth (f : Nat) : Nat :=
  match f with
  | 0 => 8 | 1 => 16 | 2 => 32 | 3 => 64 | 4 => 8 | 5 => 16 | 6 => 32 | 7 => 64
  | 8 => 32 | 9 => 16 | 10 => 16 | 11 => 8 | 12 => 8 | 13 => 4 | 14 => 8 | _ => 8
def fmtIsInt (f : Nat) : Bool := f < 8
def fmtSigned (f : Nat) : Bool := f < 4
def fmtIsFloat (f : Nat) : Bool := 8 ≤ f

/-- Mantissa bits, bias, largest finite encoding and canonical NaN of a float format (R238, R8). -/
def fmtMant (f : Nat) : Nat :=
  match f with | 8 => 23 | 9 => 10 | 10 => 7 | 11 => 3 | 12 => 2 | 13 => 1 | _ => 5
def fmtBias (f : Nat) : Nat :=
  match f with | 8 => 127 | 9 => 15 | 10 => 127 | 11 => 7 | 12 => 15 | 13 => 1 | _ => 3
def fmtMax (f : Nat) : Nat :=
  match f with
  | 8 => 0x7F7FFFFF | 9 => 0x7BFF | 10 => 0x7F7F | 11 => 0x7E | 12 => 0x7B | 13 => 7 | _ => 0xFE
def fmtNaN (f : Nat) : Nat :=
  match f with
  | 8 => 0x7FC00000 | 9 => 0x7E00 | 10 => 0x7FC0 | 11 => 0x7F | 12 => 0x7E | 13 => 0 | _ => 0xFF
/-- Formats with infinities (R238). -/
def fmtHasInf (f : Nat) : Bool := f == 8 || f == 9 || f == 10 || f == 12
/-- The sign bit of a format; `e3m5` has none. -/
def fmtSignBit (f : Nat) : Nat := if f == 14 then 0 else 2 ^ (fmtWidth f - 1)

/-- `n * 2^k` as a fraction. -/
def scaled (neg : Bool) (n : Nat) (k : Int) : FV :=
  if 0 ≤ k then .fin neg (n * 2 ^ k.toNat) 1 else .fin neg n (2 ^ (-k).toNat)

/-- The exact value of an encoding (R238). -/
def fdecode (f x : Nat) : FV :=
  let neg := f != 14 && tbit x (fmtWidth f - 1)
  let mag := if f == 14 then x % 256 else x % 2 ^ (fmtWidth f - 1)
  let M := fmtMant f
  if fmtMax f < mag then
    if fmtHasInf f && mag == fmtMax f + 1 then .inf neg else .nan
  else
    let e := mag / 2 ^ M
    let m := mag % 2 ^ M
    if e = 0 then scaled neg m (1 - (fmtBias f : Int) - M)
    else scaled neg (2 ^ M + m) ((e : Int) - fmtBias f - M)

/-- floor(log2(n / d)) for positive `n`, `d`. -/
def ilog2 (n d : Nat) : Int :=
  let a : Int := (Nat.log2 n : Int) - Nat.log2 d
  let ge := if 0 ≤ a then decide (d * 2 ^ a.toNat ≤ n) else decide (d ≤ n * 2 ^ (-a).toNat)
  if ge then a else a - 1

/-- Whether the neighbour of greater magnitude is chosen, for a remainder `rem / den` above the lower one (R242, R243). -/
def roundUpMag (mode : Rm) (neg : Bool) (q rem den draw : Nat) : Bool :=
  match mode with
  | .rne => den < 2 * rem || (2 * rem == den && q % 2 == 1)
  | .rtz => false
  | .rdn => neg && rem != 0
  | .rup => !neg && rem != 0
  | .sto => draw < rem * 2 ^ 24 / den

/-- The magnitude code nearest to `n / d` in a format of `M` mantissa bits and least exponent `1 - bias`, unbounded
above (R242). -/
def roundCode (M bias : Nat) (mode : Rm) (neg : Bool) (n d draw : Nat) : Nat :=
  if n = 0 then 0 else
  let emin : Int := 1 - (bias : Int)
  let e := max (ilog2 n d) emin
  let k := e - M
  let num := if 0 ≤ k then n else n * 2 ^ (-k).toNat
  let den := if 0 ≤ k then d * 2 ^ k.toNat else d
  let q := num / den
  let up := roundUpMag mode neg q (num % den) den draw
  let q' := if up then q + 1 else q
  (k - (emin - M)).toNat * 2 ^ M + q'

/-- The encoding an overflow gives (R242). -/
def overflow (f : Nat) (mode : Rm) (nsat neg : Bool) : Nat :=
  let s := if neg then fmtSignBit f else 0
  let inf := fmtMax f + 1 + s
  if fmtHasInf f then
    match mode with
    | .rne | .sto => inf
    | .rtz => fmtMax f + s
    | .rdn => if neg then inf else fmtMax f
    | .rup => if neg then fmtMax f + s else inf
  else if f == 11 && nsat then 0x7F
  else fmtMax f + s

/-- Round an exact value once into a format (R8, R241, R242); `draw` is the 24-bit draw of `sto`. -/
def fencode (f : Nat) (mode : Rm) (nsat : Bool) (draw : Nat) (v : FV) : Nat :=
  match v with
  | .nan => fmtNaN f
  | .inf neg =>
    if f == 14 then (if neg then 0 else 0xFE)
    else if fmtHasInf f then fmtMax f + 1 + (if neg then fmtSignBit f else 0)
    else if f == 11 && nsat then 0x7F
    else fmtMax f + (if neg then fmtSignBit f else 0)
  | .fin neg n d =>
    if f == 14 && neg then 0
    else
      let c := roundCode (fmtMant f) (fmtBias f) mode neg n d draw
      if fmtMax f < c then overflow f mode nsat neg
      else c + (if neg then fmtSignBit f else 0)

/-- `round_rne(x, f)` (R8). -/
def rneTo (f : Nat) (v : FV) : Nat := fencode f .rne false 0 v

/-- Sign of a value. -/
def FV.neg : FV → Bool
  | .nan => false | .inf s => s | .fin s _ _ => s
def FV.isNaN : FV → Bool
  | .nan => true | _ => false
def FV.isFin : FV → Bool
  | .fin _ _ _ => true | _ => false
def FV.isZero : FV → Bool
  | .fin _ n _ => n == 0 | _ => false
def FV.negate : FV → FV
  | .nan => .nan | .inf s => .inf (!s) | .fin s n d => .fin (!s) n d
def FV.abs : FV → FV
  | .nan => .nan | .inf _ => .inf false | .fin _ n d => .fin false n d

/-- Exact signed numerators over one denominator. -/
def sInt (neg : Bool) (n : Nat) : Int := if neg then -(n : Int) else n
def ofInt (zneg : Bool) (x : Int) (d : Nat) : FV :=
  if x = 0 then .fin zneg 0 1 else .fin (decide (x < 0)) x.natAbs d

/-- Exact sum with the special cases and zero signs of R113. -/
def FV.add (mode : Rm) (x y : FV) : FV :=
  match x, y with
  | .nan, _ => .nan
  | _, .nan => .nan
  | .inf s, .inf t => if s == t then .inf s else .nan
  | .inf s, .fin _ _ _ => .inf s
  | .fin _ _ _, .inf t => .inf t
  | .fin s n d, .fin t m e =>
    let z := if s == t then s else decide (mode = .rdn)
    ofInt z (sInt s (n * e) + sInt t (m * d)) (d * e)

/-- Exact product with the special cases of R113. -/
def FV.mul (x y : FV) : FV :=
  match x, y with
  | .nan, _ => .nan
  | _, .nan => .nan
  | .inf s, .inf t => .inf (s != t)
  | .inf s, .fin t m _ => if m = 0 then .nan else .inf (s != t)
  | .fin s n _, .inf t => if n = 0 then .nan else .inf (s != t)
  | .fin s n d, .fin t m e => .fin (s != t) (n * m) (d * e)

/-- Exact quotient with the special cases of R113 and R293. -/
def FV.div (x y : FV) : FV :=
  match x, y with
  | .nan, _ => .nan
  | _, .nan => .nan
  | .inf _, .inf _ => .nan
  | .inf s, .fin t _ _ => .inf (s != t)
  | .fin s _ _, .inf t => .fin (s != t) 0 1
  | .fin s n d, .fin t m e =>
    if m = 0 then (if n = 0 then .nan else .inf (s != t)) else .fin (s != t) (n * e) (d * m)

def FV.sub (mode : Rm) (x y : FV) : FV := x.add mode y.negate
/-- `a * b + c`, exact, rounded by the caller once (R113). -/
def FV.fma (mode : Rm) (a b c : FV) : FV := (a.mul b).add mode c
/-- `a + c * (b - a)`, exact, with the zero signs of each exact step (R293). -/
def FV.lerp (a b c : FV) : FV := a.add .rne (c.mul (b.sub .rne a))

/-- Whether `x < y`, and whether `x = y`, for values that are not NaN; -0 equals +0. -/
def FV.lt (x y : FV) : Bool :=
  match x, y with
  | .inf s, .inf t => s && !t
  | .inf s, .fin _ _ _ => s
  | .fin _ _ _, .inf t => !t
  | .fin s n d, .fin t m e => decide (sInt s (n * e) < sInt t (m * d))
  | _, _ => false
def FV.eq (x y : FV) : Bool :=
  match x, y with
  | .inf s, .inf t => s == t
  | .fin s n d, .fin t m e => decide (sInt s (n * e) = sInt t (m * d))
  | _, _ => false

/-- `x` ranks below `y`, with -0 below +0 (R247, R293). -/
def FV.below (x y : FV) : Bool := x.lt y || (x.eq y && x.neg && !y.neg)

/-- The smaller and the larger encoding of two floats: a NaN is ignored unless both are NaN (R39, R247, R293). -/
def fminEnc (f x y : Nat) : Nat :=
  let a := fdecode f x
  let b := fdecode f y
  if a.isNaN then (if b.isNaN then fmtNaN f else y)
  else if b.isNaN then x else if b.below a then y else x
def fmaxEnc (f x y : Nat) : Nat :=
  let a := fdecode f x
  let b := fdecode f y
  if a.isNaN then (if b.isNaN then fmtNaN f else y)
  else if b.isNaN then x else if a.below b then y else x

/-- Floor of a positive fraction rounded to an integer in a mode (R112, R244). -/
def roundInt (mode : Rm) (neg : Bool) (n d draw : Nat) : Int :=
  let q := n / d
  let up := roundUpMag mode neg q (n % d) d draw
  sInt neg (if up then q + 1 else q)

/-- Saturate an integer to the range of an integer format, as its encoding (R244). -/
def satInt (f : Nat) (x : Int) : Nat :=
  let w := fmtWidth f
  if fmtSigned f then
    unsignedOf w (max (-(2 ^ (w - 1) : Nat) : Int) (min ((2 ^ (w - 1) : Nat) - 1 : Int) x))
  else unsignedOf w (max 0 (min ((2 ^ w : Nat) - 1 : Int) x))

/-- A float value to an integer format: rounded, then saturated; NaN gives 0 (R112, R241, R244). -/
def toIntFmt (f : Nat) (mode : Rm) (draw : Nat) (v : FV) : Nat :=
  match v with
  | .nan => 0
  | .inf neg =>
    let w := fmtWidth f
    if fmtSigned f then (if neg then 2 ^ (w - 1) else 2 ^ (w - 1) - 1) else (if neg then 0 else 2 ^ w - 1)
  | .fin neg n d => satInt f (roundInt mode neg n d draw)

/-- The integer an encoding of an integer format stands for. -/
def intVal (f x : Nat) : Int := if fmtSigned f then signed (fmtWidth f) x else (x % 2 ^ fmtWidth f : Nat)
/-- The exact value of an encoding of any format. -/
def valueOf (f x : Nat) : FV := if fmtIsInt f then ofInt false (intVal f x) 1 else fdecode f x

/-- Conversion of one element between any two formats (R244). -/
def convert (src dst : Nat) (mode : Rm) (nsat : Bool) (draw x : Nat) : Nat :=
  if fmtIsInt dst then
    if fmtIsInt src then satInt dst (intVal src x) else toIntFmt dst mode draw (fdecode src x)
  else fencode dst mode nsat draw (valueOf src x)

/-- FP32 shorthand. -/
def f32 (x : Nat) : FV := fdecode 8 (x % 2 ^ 32)
def r32 (v : FV) : Nat := rneTo 8 v
/-- FP32 addition and multiplication rounded to nearest even. -/
def add32 (x y : Nat) : Nat := r32 ((f32 x).add .rne (f32 y))
def mul32 (x y : Nat) : Nat := r32 ((f32 x).mul (f32 y))

/-- Widen an element exactly to FP32 (R247). -/
def widen32 (f x : Nat) : Nat := rneTo 8 (fdecode f x)

/-- An element rounded to an integral value of its own format (R298). -/
def roundEl (f : Nat) (mode : Rm) (draw x : Nat) : Nat :=
  if fmtIsInt f then x else
  match fdecode f x with
  | .nan => fmtNaN f
  | .inf _ => x
  | .fin neg n d =>
    let r := (roundInt mode neg n d draw).natAbs
    fencode f .rne false 0 (.fin neg r 1)

/-- An element of an FP4 block times its scale, exactly; a poisoned block reads NaN (R239). -/
def blkVal (scale el : Nat) : FV :=
  if scale % 256 == 0xFF then .nan else (fdecode 13 el).mul (fdecode 14 scale)

/-- The smallest `e3m5` code from `k` whose value is at least `n / d`, searched over `fuel` codes (R245). -/
def scaleFrom (fuel k n d : Nat) : Nat :=
  match fuel with
  | 0 => 0xFE
  | fuel + 1 =>
    match fdecode 14 k with
    | .fin _ a b => if n * b ≤ a * d then k else scaleFrom fuel (k + 1) n d
    | _ => 0xFE

/-- Greatest magnitude of finite values over one denominator, as a fraction. -/
def maxMag : List FV → Nat × Nat
  | [] => (0, 1)
  | .fin _ n d :: vs =>
    let (a, b) := maxMag vs
    if a * d ≤ n * b then (n, d) else (a, b)
  | _ :: vs => maxMag vs

/-- Quantize 8 elements into a block word and its scale; `draws` gives element i's draw (R245). -/
def quantize (mode : Rm) (draw : Nat → Nat) (vs : List FV) : Nat × Nat :=
  if vs.any (fun v => !v.isFin) then (0, 0xFF)
  else
    let (n, d) := maxMag vs
    if n = 0 then (packEl 4 (vs.map fun v => if v.neg then 8 else 0), 0)
    else
      let scale := if 31 * 6 * d < n then 0xFE else scaleFrom 255 1 n (6 * d)
      let s := fdecode 14 scale
      let q := (List.range vs.length).map fun i => fencode 13 mode false (draw i) ((vs.getD i .nan).div s)
      (packEl 4 q, scale)

end Sys2Proof.Machine
end

