-- ==== Sys2Proof/Machine/Special.lean ====
section
/-!
DEFINITION. The special functions by their fixed-point references (R249 to R254), and the squall generator (R248).
The tables are computed from their formulas in R251, each entry rounded to the nearest integer.
-/
namespace Sys2Proof.Machine

/-- ln 2 and log2(e), times 2^62, rounded to nearest (R251). -/
def cLn2 : Nat := 3196577161300663915
def cLog2e : Nat := 6653256548922161246

def tabT0 : List Nat := [4611686018427387904, 4624189567668517720, 4636727017470743990, 4649298459747812202, 4661903986662671290, 4674543690628149291, 4687217664307630838, 4699926000615736486, 4712668792719003884, 4725446134036570787, 4738258118240859931, 4751104839258265753, 4763986391269842979, 4776902868711997080, 4789854366277176597, 4802840978914567343]
def tabT1 : List Nat := [4815862801830788490, 4828919930490590544, 4842012460617555202, 4855140488194797124, 4868304109465667592, 4881503420934460086, 4894738519367117769, 4908009501791942890, 4921316465500308116, 4934659508047369782, 4948038727252783086, 4961454221201419218, 4974906088244084429, 4988394426998241059, 5001919336348730514, 5015480915448498201]
def tabT2 : List Nat := [5029079263719320435, 5042714480852533314, 5056386666809763567, 5070095921823661387, 5083842346398635251, 5097626041311588732, 5111447107612659307, 5125305646625959169, 5139201759950318048, 5153135549460028048, 5167107117305590498, 5181116565914464833, 5195163997991819502, 5209249516521284918, 5223373224765708437, 5237535226267911402]
def tabT3 : List Nat := [5251735624851448219, 5265974524621367510, 5280252029964975318, 5294568245552600382, 5308923276338361494, 5323317227560936928, 5337750204744335963, 5352222313698672490, 5366733660520940721, 5381284351595793003, 5395874493596319735, 5410504193484831408, 5425173558513642752, 5439882696225859025, 5454631714456164423, 5469420721331612630]
def tabT4 : List Nat := [5484249825272419512, 5499119134992757963, 5514028759501554901, 5528978808103290428, 5543969390398799154, 5559000616286073701, 5574072595961070373, 5589185439918517022, 5604339258952723100, 5619534164158391905, 5634770266931435031, 5650047678969789029, 5665366512274234280, 5680726879149216085, 5696128892203667984, 5711572664351837312]
def tabT5 : List Nat := [5727058308814112983, 5742585939117855528, 5758155669098229379, 5773767612899037407, 5789421884973557729, 5805118600085382780, 5820857873309260658, 5836639820031938756, 5852464555953009676, 5868332197085759439, 5884242859758017993, 5900196660613012030, 5916193716610220111, 5932234145026230114, 5948318063455599005, 5964445589811714935]
def tabT6 : List Nat := [5980616842327661685, 5996831939557085446, 6013091000375063951, 6029394143978977966, 6045741489889385141, 6062133157950896233, 6078569268333053700, 6095049941531212686, 6111575298367424380, 6128145459991321789, 6144760547881007893, 6161420683843946224, 6178125990017853852, 6194876588871596788, 6211672603206087829, 6228514156155186818]
def tabT7 : List Nat := [6245401371186603363, 6262334372102801993, 6279313283041909767, 6296338228478626355, 6313409333225136570, 6330526722432025393, 6347690521589195458, 6364900856526787045, 6382157853416100552, 6399461638770521476, 6416812339446447902, 6434210082644220498, 6451654995909055045, 6469147207131977484, 6486686844550761504, 6504274036750868672]
def tabT8 : List Nat := [6521908912666391106, 6539591601580996713, 6557322233128876982, 6575100937295697352, 6592927844419550153, 6610803085191910132, 6628726790658592574, 6646699092220714010, 6664720121635655541, 6682790011018028767, 6700908892840644341, 6719076899935483140, 6737294165494670078, 6755560823071450552, 6773877006581169542, 6792242850302253365]
def tabT9 : List Nat := [6810658488877194079, 6829124057313536577, 6847639690984868337, 6866205525631811868, 6884821697363019841, 6903488342656172924, 6922205598358980312, 6940973601690182982, 6959792490240559659, 6978662401973935514, 6997583475228193593, 7016555848716288996, 7035579661527265796, 7054655053127276719, 7073782163360605593, 7092961132450692565]
def tabT10 : List Nat := [7112192101001162095, 7131475209996853741, 7150810600804855741, 7170198415175541391, 7189638795243608238, 7209131883529120089, 7228677822938551843, 7248276756765837158, 7267928828693418961, 7287634182793302802, 7307392963528113063, 7327205315752152036, 7347071384712461870, 7366991316049889395, 7386965255800153833, 7406993350394917410]
def tabT11 : List Nat := [7427075746662858866, 7447212591830749871, 7467404033524534369, 7487650219770410843, 7507951298995917514, 7528307420031020486, 7548718732109204835, 7569185384868568662, 7589707528352920109, 7610285313012877354, 7630918889706971581, 7651608409702752944, 7672354024677899536, 7693155886721329349, 7714014148334315267, 7734928962431603071]
def tabT12 : List Nat := [7755900482342532474, 7776928861812161205, 7798014255002392130, 7819156816493103438, 7840356701283281883, 7861614064792159106, 7882929062860351033, 7904301851751000363, 7925732588150922155, 7947221429171752521, 7968768532351100432, 7990374055653702648, 8012038157472581778, 8033760996630207481, 8055542732379660816, 8077383524405801748]
def tabT13 : List Nat := [8099283532826439817, 8121242918193507986, 8143261841494239668, 8165340464152348947, 8187478948029213993, 8209677455425063692, 8231936149080167495, 8254255192176028480, 8276634748336579668, 8299074981629383563, 8321576056566834961, 8344138138107367007, 8366761391656660532, 8389445983068856661, 8412192078647772715, 8434999845148121406]
def tabT14 : List Nat := [8457869449776733335, 8480801060193782816, 8503794844514017006, 8526850971307988384, 8549969609603290562, 8573150928885797449, 8596395099100905774, 8619702290654780982, 8643072674415606502, 8666506421714836405, 8690003704348451461, 8713564694578218593, 8737189565132953757, 8760878489209788238, 8784631640475438381, 8808449193067478767]
def tabT15 : List Nat := [8832331321595618838, 8856278201142982984, 8880290007267394103, 8904366916002660636, 8928509103859867100, 8952716747828668110, 8976990025378585914, 9001329114460311451, 9025734193507008925, 9050205441435623930, 9074743037648195108, 9099347162033169374, 9124017994966720698, 9148755717314072474, 9173560510430823462, 9198432556164277331]
/-- T[i] = 2^(62 + i/256), rounded to nearest (R251). -/
def tabT : List Nat := tabT0 ++ tabT1 ++ tabT2 ++ tabT3 ++ tabT4 ++ tabT5 ++ tabT6 ++ tabT7 ++ tabT8 ++ tabT9 ++ tabT10 ++ tabT11 ++ tabT12 ++ tabT13 ++ tabT14 ++ tabT15

def tabLc0 : List Nat := [0, 35888788270063139, 71500440275001118, 106839203376730538, 141909228037287941, 176714570744179702, 211259196826165129, 245546983164360664, 279581720803300556, 313367117466351674, 346906799979656229, 380204316608565210, 413263139310326503, 446086665906604093, 478678222179227866, 511041063892406469]
def tabLc1 : List Nat := [543178378744478074, 575093288252124843, 606788849569836212, 638268057247272980, 669533844927058342, 700589086985402910, 731436600117858100, 762079144872385490, 792519427131828708, 822760099547778631, 852803762927731854, 882652967577356360, 912310214599596603, 941777957152272780, 971058601665755501, 1000154509022227221]
def tabLc2 : List Nat := [1029067995697975510, 1057801334870100142, 1086356757488956149, 1114736453317597993, 1142942571939435847, 1170977223735263451, 1198842480830767967, 1226540378015585561, 1254072913634921988, 1281442050454715132, 1308649716501276067, 1335697805876306782, 1362588179548156060, 1389322666120139990, 1415903062576720327, 1442331135008302013]
def tabLc3 : List Nat := [1468608619315380861, 1494737221892743387, 1520718620294393098, 1546554463879851093, 1572246374442453584, 1597795946820244783, 1623204749490040516, 1648474325145215884, 1673606191257749149, 1698601840625033852, 1723462741901951844, 1748190340118681418, 1772786057184697014, 1797251292379400063, 1821587422829804218, 1845795803975682764]
def tabLc4 : List Nat := [1869877770022570994, 1893834634383002156, 1917667690106341773, 1941378210297572113, 1964967448525365901, 1988436639219776345, 2011786998059858935, 2035019722351529332, 2058135991395951019, 2081136966848736124, 2104023793070232929, 2126797597467164241, 2149459490825871551, 2172010567637411358, 2194451906414741475, 2216784570002227223]
def tabLc5 : List Nat := [2239009605877689524, 2261128046447209570, 2283140909332897498, 2305049197653825622, 2326853900300320142, 2348555992201798859, 2370156434588336284, 2391656175246131570, 2413056148767049069, 2434357276792395758, 2455560468251094523, 2476666619592407205, 2497676615013356372, 2518591326680990080, 2539411614949629337, 2560138328573233529]
def tabLc6 : List Nat := [2580772304913014908, 2601314370140429095, 2621765339435664646, 2642126017181750903, 2662397197154399702, 2682579662707692945, 2702674186955724659, 2722681532950302849, 2742602453854813248, 2762437693114344036, 2782187984622167598, 2801854052882672523, 2821436613170836307, 2840936371688326494, 2860354025716315463, 2879690263765091511]
def tabLc7 : List Nat := [2898945765720546505, 2918121202987618037, 2937217238630761723, 2956234527511527143, 2975173716423308804, 2994035444223341410, 3012820341962006842, 3031529033009518232, 3050162133180044765, 3068720250853338962, 3087203987093926530, 3105613935767917153, 3123950683657492982, 3142214810573130010, 3160406889463605986, 3178527486523847061]
/-- LC[j] = -ln(RC[j] * 2^-62) * 2^62, rounded to nearest (R251). -/
def tabLc : List Nat := tabLc0 ++ tabLc1 ++ tabLc2 ++ tabLc3 ++ tabLc4 ++ tabLc5 ++ tabLc6 ++ tabLc7


/-- RC[j] = 2^62 / (1 + j/128), rounded to nearest (R251). -/
def tabRc (j : Nat) : Nat := (2 ^ 62 * 128 * 2 + (128 + j)) / (2 * (128 + j))

/-- `mul(a, b)` and `div(a, n)` on fixed-point integers, rounded down (R251). -/
def fxMul (a b : Int) : Int := (a * b).fdiv (2 ^ 62)
def fxDiv (a n : Int) : Int := a.fdiv n

/-- A signed fraction. -/
structure Rat' where
  num : Int
  den : Nat
  deriving DecidableEq, Repr

/-- EXPX2(Y) for `Y = num / den` (R252). -/
def expx2 (num : Int) (den : Nat) : Rat' :=
  let n := num.fdiv den
  let f := num - n * den
  let i := (256 * f).fdiv den
  let g := ((256 * f - i * den) * 2 ^ 62).fdiv (256 * (den : Int))
  let z := fxMul g cLn2
  let z2 := fxMul z z
  let z3 := fxMul z2 z
  let z4 := fxMul z3 z
  let p := 2 ^ 62 + z + fxDiv z2 2 + fxDiv z3 6 + fxDiv z4 24
  let r := fxMul (tabT.getD i.toNat 0) p
  let k := n - 62
  if 0 ≤ k then ⟨r * 2 ^ k.toNat, 1⟩ else ⟨r, 2 ^ (-k).toNat⟩

/-- EXPX(y) := EXPX2(y * LOG2E * 2^-62) (R252). -/
def expx (num : Int) (den : Nat) : Rat' := expx2 (num * cLog2e) (den * 2 ^ 62)

/-- A fraction as an exact value. -/
def Rat'.fv (r : Rat') : FV := .fin (decide (r.num < 0)) r.num.natAbs r.den

/-- Integer square root by bits, most significant first: the largest `r` below `2^fuel` more than `acc` with `r^2 <= n`. -/
def isqrt : Nat → Nat → Nat → Nat
  | 0, acc, _ => acc
  | k + 1, acc, n => isqrt k (if (acc + 2 ^ k) * (acc + 2 ^ k) ≤ n then acc + 2 ^ k else acc) n

/-- The root of `n / d` to 200 fractional bits, with a sticky bit below them, so that one rounding of it is the
rounding of the exact root (R250). -/
def rootOf (n d : Nat) : FV :=
  let m := n * 2 ^ 400 / d
  let r := isqrt 300 0 m
  let sticky := if r * r * d == n * 2 ^ 400 then 0 else 1
  .fin false (2 * r + sticky) (2 ^ 201)

/-- Whether `n / d` with its sign is at least, or at most, an integer. -/
def geI (neg : Bool) (n d : Nat) (k : Int) : Bool := decide (k * d ≤ sInt neg n)
def leI (neg : Bool) (n d : Nat) (k : Int) : Bool := decide (sInt neg n ≤ k * d)

def fxOne : FV := .fin false 1 1
def fxZero : FV := .fin false 0 1

def vExp : FV → FV
  | .nan => .nan
  | .inf s => if s then fxZero else .inf false
  | .fin s n d =>
    if n = 0 then fxOne else if geI s n d 100 then .inf false else if leI s n d (-110) then fxZero
    else (expx (sInt s n) d).fv
def vExp2 : FV → FV
  | .nan => .nan
  | .inf s => if s then fxZero else .inf false
  | .fin s n d =>
    if n = 0 then fxOne else if geI s n d 150 then .inf false else if leI s n d (-160) then fxZero
    else (expx2 (sInt s n) d).fv

/-- `vlog` of a positive fraction other than 1 (R253). -/
def logRef (n d : Nat) : FV :=
  let e := ilog2 n d
  let (a, b) := if 0 ≤ e then (n, d * 2 ^ e.toNat) else (n * 2 ^ (-e).toNat, d)
  let j := 128 * (a - b) / b
  let u : Int := (a * tabRc j / b : Nat) - 2 ^ 62
  let u2 := fxMul u u
  let u3 := fxMul u2 u
  let u4 := fxMul u3 u
  let u5 := fxMul u4 u
  let u6 := fxMul u5 u
  let s := u - fxDiv u2 2 + fxDiv u3 3 - fxDiv u4 4 + fxDiv u5 5 - fxDiv u6 6
  ofInt false (e * cLn2 + (tabLc.getD j 0 : Nat) + s) (2 ^ 62)
def vLog : FV → FV
  | .nan => .nan
  | .inf s => if s then .nan else .inf false
  | .fin s n d =>
    if n = 0 then .inf true else if s then .nan else if n = d then fxZero else logRef n d
def vRcp : FV → FV
  | .nan => .nan
  | .inf s => .fin s 0 1
  | .fin s n d => if n = 0 then .inf s else .fin s d n
def vRsq : FV → FV
  | .nan => .nan
  | .inf s => if s then .nan else fxZero
  | .fin s n d => if n = 0 then .inf s else if s then .nan else rootOf d n
def vSqrt : FV → FV
  | .nan => .nan
  | .inf s => if s then .nan else .inf false
  | .fin s n d => if n = 0 then .fin s 0 1 else if s then .nan else rootOf n d

/-- 1 + r and 1 - r over the fraction's denominator. -/
def onePlus (r : Rat') : Int := r.den + r.num
def oneMinus (r : Rat') : Int := r.den - r.num

def vTanh : FV → FV
  | .nan => .nan
  | .inf s => .fin s 1 1
  | .fin s n d =>
    if n = 0 then .fin s 0 1
    else if 10 * d ≤ n then .fin s 1 1
    else if n * 2 ^ 13 < d then .fin s (3 * n * d ^ 2 - n ^ 3) (3 * d ^ 3)
    else
      let e := expx (-(2 * (n : Int))) d
      .fin s (oneMinus e).natAbs (onePlus e).natAbs
def vSgm : FV → FV
  | .nan => .nan
  | .inf s => if s then fxZero else fxOne
  | .fin s n d =>
    if n = 0 then .fin false 1 2 else if geI s n d 20 then fxOne else if leI s n d (-110) then fxZero
    else
      let e := expx (-(sInt s n)) d
      .fin false e.den (onePlus e).natAbs
def vSilu : FV → FV
  | .nan => .nan
  | .inf s => if s then .fin true 0 1 else .inf false
  | .fin s n d =>
    if n = 0 then .fin s 0 1 else if geI s n d 100 then .fin s n d else if leI s n d (-110) then .fin true 0 1
    else
      let e := expx (-(sInt s n)) d
      .fin s (n * e.den) (d * (onePlus e).natAbs)

/-- `vexp.fp32` of an FP32 encoding: the reference rounded once (R233, R252). -/
def exp32 (x : Nat) : Nat := r32 (vExp (f32 x))

/-- Rotate a 32-bit value left. -/
def rotl32 (v n : Nat) : Nat := v * 2 ^ n % 2 ^ 32 + v / 2 ^ (32 - n)

/-- The ten rounds of squall (R248). -/
def squallRounds : Nat → Nat → Nat → Nat → Nat → Nat → Nat → Nat
  | 0, x0, x1, x2, x3, _, _ => x0 + 2 ^ 32 * (x1 + 2 ^ 32 * (x2 + 2 ^ 32 * x3))
  | j + 1, x0, x1, x2, x3, k0, k1 =>
    let a := 0xC2B2AE35 * x0
    let b := 0x85EBCA6B * x2
    squallRounds j (Nat.xor (Nat.xor (b / 2 ^ 32) x3) k0) (rotl32 (b % 2 ^ 32) 11)
      (Nat.xor (Nat.xor (a / 2 ^ 32) x1) k1) (rotl32 (a % 2 ^ 32) 19)
      ((k0 + 0x9E3779B9) % 2 ^ 32) ((k1 + 0xBB67AE85) % 2 ^ 32)
/-- Squall: a 64-bit key and a 128-bit counter to a 128-bit block (R248). -/
def squall (key ctr : Nat) : Nat :=
  squallRounds 10 (ctr % 2 ^ 32) (ctr / 2 ^ 32 % 2 ^ 32) (ctr / 2 ^ 64 % 2 ^ 32) (ctr / 2 ^ 96 % 2 ^ 32)
    (key % 2 ^ 32) (key / 2 ^ 32 % 2 ^ 32)
/-- The 24-bit draw of element `i` of an issue whose first block is `ctr` (R243). -/
def drawAt (key ctr i : Nat) : Nat :=
  squall key ((ctr + i / 4) % 2 ^ 128) / 2 ^ (32 * (i % 4)) % 2 ^ 32 / 2 ^ 8

end Sys2Proof.Machine
end

