-- ==== Sys2Proof/Machine/Banks.lean ====
section
/-!
DEFINITION. Bank update functions: images (07 R131), their micro-operations (R132), and the combine functions of valued
signals (02 R39) that share their arithmetic, and k-lists (13 R229), which the bank's merge orders.
-/
namespace Sys2Proof.Machine

/-- The smaller and the larger of two elements of a format, as 02 R39 gives: a NaN is ignored unless both are. -/
def fmtMin (f x y : Nat) : Nat := if fmtIsInt f then (if intVal f y < intVal f x then y else x) else fminEnc f x y
def fmtMax' (f x y : Nat) : Nat := if fmtIsInt f then (if intVal f x < intVal f y then y else x) else fmaxEnc f x y

/-- Micro-operation `i` of an image, its code, format and rounding mode (07 R131). -/
def uop (image i : Nat) : Nat := bits image (128 + 16 * i + 15) (128 + 16 * i)
def uopCode (u : Nat) : Nat := bits u 15 10
def uopFmt (u : Nat) : Nat := bits u 9 6
def uopRm (u : Nat) : Nat := bits u 5 3
def imgNops (image : Nat) : Nat := bits image 4 0
def imgDet (image : Nat) : Bool := tbit image 5
def imgK (image : Nat) : Nat := bits image 127 64

/-- Whether one micro-operation is valid (07 R132). -/
def uopOk (u : Nat) : Bool :=
  let f := uopFmt u
  let rm := uopRm u
  u % 8 == 0 &&
  (match uopCode u with
   | 0x05 | 0x06 => decide (f < 8) && rm == 0
   | 0x07 | 0x08 => decide (f ≤ 10) && rm == 0
   | 0x0C | 0x0D => decide (8 ≤ f) && decide (f ≤ 10) && decide (rm < 5)
   | c => decide (1 ≤ c) && decide (c ≤ 0x11) && f == 0 && rm == 0)
/-- Whether an image may be installed (07 R132). -/
def imageOk (image : Nat) : Bool :=
  let n := imgNops image
  let us := (List.range n).map (uop image)
  decide (1 ≤ n) && decide (n ≤ 16) && bits image 63 6 == 0 && bits image 511 384 == 0 && us.all uopOk &&
  !(us.any (fun u => uopCode u == 0x10) && us.any fun u => uopCode u == 0x11)

/-- A run of a function: W, X, the word, O, Z, the state change asked for (1 full, 2 empty), and whether `skne` ended it. -/
structure FnRun where
  w : Nat
  x : Nat
  word : Nat
  o : Nat
  z : Bool
  set : Nat
  skipped : Bool
  wrote : Bool
  deriving DecidableEq, Repr

/-- Element-wise arithmetic over 64 bits in a format; `sto` draws word `i` of the function's block (14 R243). -/
def elemwise (f : Nat) (op : Nat → Nat → Nat → Nat) (x y : Nat) : Nat :=
  let w := fmtWidth f
  let xs := elems w 64 x
  let ys := elems w 64 y
  packEl w ((List.range xs.length).map fun i => op i (xs.getD i 0) (ys.getD i 0))
/-- One micro-operation (07 R132). -/
def uopRun (k key ctr : Nat) (r : FnRun) (u : Nat) : FnRun :=
  let f := uopFmt u
  let m := Rm.ofCode (uopRm u)
  let w := fmtWidth f
  if r.skipped then r
  else
    match uopCode u with
    | 0x01 => { r with w := r.word, o := r.word }
    | 0x02 => { r with word := r.w, wrote := true }
    | 0x03 => { r with x := k }
    | 0x04 => { r with w := r.x }
    | 0x05 => { r with w := elemwise f (fun _ a b => (a + b) % 2 ^ w) r.w r.x }
    | 0x06 => { r with w := elemwise f (fun _ a b => (a + 2 ^ w - b) % 2 ^ w) r.w r.x }
    | 0x07 => { r with w := elemwise f (fun _ a b => fmtMin f a b) r.w r.x }
    | 0x08 => { r with w := elemwise f (fun _ a b => fmtMax' f a b) r.w r.x }
    | 0x09 => { r with w := Nat.land r.w r.x }
    | 0x0A => { r with w := Nat.lor r.w r.x }
    | 0x0B => { r with w := Nat.xor r.w r.x }
    | 0x0C => { r with w := elemwise f (fun i a b => fencode f m false (drawAt key ctr i) ((fdecode f a).add m (fdecode f b))) r.w r.x }
    | 0x0D => { r with w := elemwise f (fun i a b => fencode f m false (drawAt key ctr i) ((fdecode f a).mul (fdecode f b))) r.w r.x }
    | 0x0E => if r.w = k then r else { r with skipped := true }
    | 0x0F => { r with z := r.w == 0 }
    | 0x10 => { r with set := 1 }
    | 0x11 => { r with set := 2 }
    | _ => r
/-- A whole function on a word and an operand; W begins as the word. -/
def fnRun (image key ctr word x : Nat) : FnRun :=
  ((List.range (imgNops image)).map (uop image)).foldl (uopRun (imgK image) key ctr)
    { w := word, x := x % 2 ^ 64, word := word, o := word, z := false, set := 0, skipped := false, wrote := false }

/-- The identity of a combine function in a value format, and combining two values (02 R39). -/
def sigIdentity (cmb ty : Nat) : Nat :=
  let w := fmtWidth ty
  match cmb with
  | 2 => if fmtIsInt ty then (if fmtSigned ty then 2 ^ (w - 1) - 1 else 2 ^ w - 1) else rneTo ty (.inf false)
  | 3 => if fmtIsInt ty then (if fmtSigned ty then 2 ^ (w - 1) else 0) else rneTo ty (.inf true)
  | 5 => 2 ^ w - 1
  | _ => 0
def sigCombine (cmb ty x y : Nat) : Nat :=
  let w := fmtWidth ty
  let y := y % 2 ^ w
  match cmb with
  | 1 => (x + y) % 2 ^ w
  | 2 => fmtMin ty x y
  | 3 => fmtMax' ty x y
  | 4 => Nat.lor x y
  | 5 => Nat.land x y
  | 6 => Nat.xor x y
  | _ => x

/-- k-lists (13 R229): the empty entry, an entry's value, and whether one entry comes before another. -/
def kEmpty : Nat := 0xFFFFFFFFFF800000
/-- Whether value `x` of an entry exceeds `y`, and whether they are equal; a NaN is below every number (log 23). -/
def kGreater (f x y : Nat) : Bool :=
  if fmtIsInt f then decide (intVal (if fmtSigned f then 2 else 6) y < intVal (if fmtSigned f then 2 else 6) x)
  else (f32 y).lt (f32 x) || ((f32 y).isNaN && !(f32 x).isNaN)
def kBefore (f x y : Nat) : Bool :=
  let vx := x % 2 ^ 32
  let vy := y % 2 ^ 32
  x != kEmpty && (y == kEmpty || kGreater f vx vy || (!kGreater f vy vx && decide (x / 2 ^ 32 < y / 2 ^ 32)))
/-- Insert an entry after those that are not behind it; entries that compare equal are all kept. -/
def kInsert (f x : Nat) : List Nat → List Nat
  | [] => [x]
  | y :: ys => if kBefore f x y then x :: y :: ys else y :: kInsert f x ys
/-- The first `k` entries of some, in order. -/
def kFirst (f k : Nat) (l : List Nat) : List Nat := (l.foldl (fun acc x => kInsert f x acc) []).take k
/-- The same filled up with empty entries. -/
def kFill (k : Nat) (l : List Nat) : List Nat := l ++ List.replicate (k - l.length) kEmpty
/-- The bytes of a list and a list of bytes. -/
def kBytes (l : List Nat) : List Byte := l.flatMap (bytesOf 8)
def kList (bs : List Byte) : List Nat := (List.range (bs.length / 8)).map fun i => field bs (8 * i) 8

end Sys2Proof.Machine
end

