-- ==== Sys2Proof/Machine/Homes.lean ====
section
/-!
DEFINITION. What a home does with a request: plain accesses, full/empty words and their waiters (07 R126 to R129),
atomics (09 R166, R167), reservations (07 R136, R137; 09 R170, R171), barrier objects (09 R176, R177), bank updates and
drains (06 R118, R119; 07 R133), and searches of arrangements (18 R324); when a request may be performed (08 R143 to R149);
and withdrawing a wait (11 R195).
-/
namespace Sys2Proof.Machine

/-- Words of an extent that SECDED corrects are counted in their die's health record (22 R393, R394; log 30). -/
def State.countSoft (s : State) (k n : Nat) : State :=
  let c := ((wordsOf k n).filter fun w => s.soft.contains w).length
  match homeQuad k with
  | some q =>
    if c = 0 then s
    else
      let d := s.die (qkDie q)
      s.setDie { d with corrected := min (d.corrected + c) (2 ^ 32 - 1) }
  | none => s

/-- Wake every thread parked at a barrier object with a status (09 R177). -/
def State.wakeBar (s : State) (word status : Nat) : State :=
  let ws := s.barWaits.filter (·.word == word)
  let s := { s with barWaits := s.barWaits.filter (·.word != word) }
  let d := ((homeQuad word).map qkDie).getD 0
  ws.foldl (fun s w => s.wake w.gid d status 0 false) s
/-- Write at a home: barrier objects in the words break (09 R177). -/
def State.homeWrite (s : State) (k : Nat) (bs : List Byte) : State :=
  (dedup ((s.barWaits.map (·.word)).filter fun w => (wordsOf k bs.length).contains w)).foldl
    (fun s w => s.wakeBar w 1) (s.writeBytes k bs)
/-- Bytes under a mask over the bytes that stand there. -/
def State.merged (s : State) (k : Nat) (bs : List Byte) (mask : Nat) : List Byte :=
  (List.range bs.length).map fun i => if tbit mask i then bs.getD i 0 else s.mem.byte (k + i)
/-- The first uncorrectable word that a write must read: one that is only partly written (07 R125, R139). -/
def State.partBad (s : State) (k n mask : Nat) : Option Nat :=
  let whole (w : Nat) : Bool := decide (k ≤ w) && decide (w + 8 ≤ k + n) && (List.range 8).all fun i => tbit mask (w - k + i)
  if (keyRegion k).isSome then
    -- stacked memory is encrypted by granules of 16 bytes: one that is only partly written is read first (07 R139)
    (wordsOf (k / 16 * 16) ((k + n + 15) / 16 * 16 - k / 16 * 16)).find? fun w =>
      s.bad.contains w && !(whole (w / 16 * 16) && whole (w / 16 * 16 + 8))
  else (wordsOf k n).find? fun w => s.bad.contains w && !whole w
/-- The address of a failing word `w` of an access at `va` whose key is `k`; it may lie in the granule below (07 R125, R139). -/
def failVa (va k w : Nat) : Nat := va / 8 * 8 + w - k / 8 * 8
def Req.wordVa (r : Req) (w : Nat) : Nat := failVa r.va r.key w
/-- The bytes a thread's load sees: the home's, under the thread's own stores still in the buffer (08 R143). -/
def State.seen (s : State) (uid k n : Nat) : List Byte :=
  (sortBy (·.seq) (s.pending uid)).foldl (fun bs r =>
    match r.op with
    | .store d mask =>
      (List.range n).map fun i =>
        let a := k + i
        if decide (r.key ≤ a) && decide (a < r.key + d.length) && tbit mask (a - r.key) then d.getD (a - r.key) 0 else bs.getD i 0
    | .zero len =>
      (List.range n).map fun i => if decide (r.key ≤ k + i) && decide (k + i < r.key + len) then 0 else bs.getD i 0
    | _ => bs) (s.bytesAt k n)

/-- Fields of a barrier object word (09 R176). -/
def barWord (auto spent : Bool) (gen cnt arr : Nat) : Nat :=
  2 ^ 63 + auto.toNat * 2 ^ 62 + spent.toNat * 2 ^ 61 + gen % 2 ^ 29 * 2 ^ 32 + cnt * 2 ^ 16 + arr
/-- `barinit` at the object's bank: the status (09 R177). -/
def State.barInit (s : State) (w : Nat) (auto : Bool) (cnt : Nat) : Nat × State :=
  if cnt = 0 || 65535 < cnt then (2, s)
  else
    let v := s.readN w 8
    let gen := if tbit v 63 then bits v 60 32 + 1 else 0
    let waiting := s.barWaits.any (·.word == w)
    let s := s.writeN w 8 (barWord auto false gen cnt 0)
    (waiting.toNat, s.wakeBar w 1)
/-- `bar` at an object: none where the arrival parks (09 R177). -/
def State.barArrive (s : State) (w g uid : Nat) : Option Nat × State :=
  let v := s.readN w 8
  let cnt := bits v 31 16
  let arr := bits v 15 0
  if !tbit v 63 then (some 4, s)
  else if tbit v 61 then (some 3, s)
  else if arr + 1 < cnt then
    let s := s.writeN w 8 (barWord (tbit v 62) false (bits v 60 32) cnt (arr + 1))
    (none, { s with barWaits := s.barWaits ++ [{ word := w, gid := g, uid := uid, gen := bits v 60 32 }] })
  else
    let s := if tbit v 62 then s.writeN w 8 (barWord true false (bits v 60 32 + 1) cnt 0)
             else s.writeN w 8 (barWord false true (bits v 60 32) cnt 0)
    (some 0, s.wakeBar w 0)
/-- Take back a parked arrival (09 R177). -/
def State.barTakeBack (s : State) (uid : Nat) : State :=
  match s.barWaits.find? (·.uid == uid) with
  | none => s
  | some x =>
    let v := s.readN x.word 8
    let s := { s with barWaits := s.barWaits.filter (· != x) }
    if bits v 60 32 = x.gen then s.writeN x.word 8 (v - 1) else s

/-- Withdraw what a waiting thread waits for, when a trap takes it out of its wait (11 R195; 09 R171, R175, R177). -/
def State.withdraw (s : State) (g : Nat) : State :=
  let t := s.thread g
  let s := s.unwait g
  match t.wait with
  | none => s
  | some w =>
    match w.why with
    | .parked _ 0 =>
      { s with feWaits := s.feWaits.filter (·.req.uid != t.uid),
               reqs := s.reqs.filter fun r => !(r.uid == t.uid && !r.posted) }
    | .parked _ 2 => s.barTakeBack t.uid
    | .parked _ 3 =>
      { s with netBars := s.netBars.map fun b =>
          if b.arrivals.any fun a => a.uid == t.uid && !a.gone
          then { b with arrivals := b.arrivals.map (fun a => if a.uid == t.uid then { a with gone := true } else a),
                        poisoned := b.poisoned || b.red != 0 }
          else b }
    | .parked _ 5 =>
      let c := s.core (gidCk g)
      s.setCore { c with posted := c.posted.filter fun p => p.1 != gidSlot g }
    | .walk id => { s with walks := s.walks.map fun x => if x.id == id then { x with waiters := x.waiters.filter fun e => e.1 != g } else x }
    | _ => s
/-- Trap a thread in its wait: the wait is withdrawn and the trap names the waiting instruction (11 R195, 03 R61). -/
def State.trapWaiting (s : State) (g : Nat) (tr : Trap) (dfr : Bool) : State :=
  let t := s.thread g
  let half := (t.wait.map (·.half)).getD false
  (s.withdraw g).deliver g tr t.pc.toNat dfr half
/-- The requirement of a full/empty operation on its word (07 R127). -/
def State.feHolds (s : State) (wantFull : Bool) (k : Nat) : Bool := wantFull != s.isEmpty k
/-- The uncorrectable word that stops a full/empty operation: the word's own, in which its state stands, or one that its store
must read (07 R125, R126, R139). -/
def State.feBad (s : State) (isLoad : Bool) (k n : Nat) : Option Nat :=
  (s.badIn (wordKey k) 8).or (if isLoad then none else s.partBad k n (2 ^ n - 1))
/-- The effect of a full/empty operation, and the value it returns (07 R127). -/
def State.feAct (s : State) (isLoad makeEmpty : Bool) (k n data : Nat) : Nat × State :=
  if isLoad then (s.readN k n, s.setEmpty k makeEmpty)
  else (0, (s.homeWrite k (bytesOf n data)).setEmpty k false)
/-- Serve the waiters of a word in arrival order until one's requirement fails; one that meets an uncorrectable word takes the
fault (07 R125, R129). -/
def State.feServe (s : State) (w : Nat) : Nat → State
  | 0 => s
  | fuel + 1 =>
    match s.feWaits.find? (·.word == w) with
    | none => s
    | some x =>
      match x.req.op with
      | .fe want isLoad empties n data =>
        if s.feHolds want w then
          let s := { s with feWaits := s.feWaits.filter (· != x) }
          match s.feBad isLoad x.req.key n with
          | some b => (s.trapWaiting x.req.gid { cls := clsEcc, tval := x.req.wordVa b, kind := 0 } false).feServe w fuel
          | none =>
            let (v, s) := s.feAct isLoad empties x.req.key n data
            let d := ((homeQuad w).map qkDie).getD 0
            (s.wake x.req.gid d v 0 false).feServe w fuel
        else s
      | _ => s
/-- The state of a word changed from `was`: its waiters are served. -/
def State.feChanged (s : State) (w : Nat) (was : Bool) : State :=
  if s.isEmpty w = was then s else s.feServe (wordKey w) (s.feWaits.length + 1)
/-- Act, then serve the waiters if the state changed. -/
def State.feNow (s : State) (isLoad makeEmpty : Bool) (k n data : Nat) : Nat × State :=
  let (v, s') := s.feAct isLoad makeEmpty k n data
  (v, s'.feChanged k (s.isEmpty k))
/-- `feset` at its home (09 R165). -/
def State.feSet (s : State) (k : Nat) (e : Bool) : State := (s.setEmpty k e).feChanged k (s.isEmpty k)
/-- Set the words of some keys full and serve their waiters (07 R127, R129). -/
def State.fillWords (s : State) (keys : List Nat) : State :=
  (dedup (keys.map wordKey)).foldl (fun s k => if s.isEmpty k then s.feSet k false else s) s
/-- Whether a home has no room for another waiter (07 R128). -/
def State.feFull (s : State) (r : Req) : Bool :=
  if keySel r.key = 1 then
    keyCore r.key != gidCk r.gid &&
    decide (Config.controllerWaiters ≤ (s.feWaits.filter fun x => x.remote && keySel x.word == 1 && keyCore x.word == keyCore r.key).length)
  else decide (Config.bankWaiters ≤ (s.feWaits.filter fun x => homeQuad x.word == homeQuad r.key && keySel x.word != 1).length)

/-- Pass the hold of a word to the oldest queued thread and wake it with the word's value (07 R137). The new holder is
woken only where it waits in its `lrw` (09 R171). -/
def State.passHold (s : State) (w : Nat) : State :=
  let d := ((homeQuad w).map qkDie).getD 0
  let s := { s with rsvs := s.rsvs.filter fun x => !(x.word == w && x.hold) }
  match s.rsvs.find? (·.word == w) with
  | none => s
  | some x =>
    let s := { s with rsvs := s.rsvs.map fun y => if y == x then { y with hold := true } else y }
    let s := s.hold d w okRsv 1 x.gid
    match (s.thread x.gid).wait with
    | some wt => if wt.why == .parked w okRsv then s.wake x.gid d (s.readN (w + x.off) wt.fin.width) 0 true else s
    | none => s
/-- Give up a held reservation: its hold edge goes with it. -/
def State.dropHold (s : State) (w g : Nat) : State := (s.unhold w okRsv g).passHold w
/-- A thread abandons its reservations as `rsvx` does (02 R45, 07 R137). -/
def State.abandon (s : State) (uid g : Nat) : State :=
  let mine := s.rsvs.filter (·.uid == uid)
  let s := { s with rsvs := s.rsvs.filter fun x => !(x.uid == uid && !x.hold) }
  mine.foldl (fun s x => if x.hold then s.dropHold x.word g else s) s

/-- A fault report on its way to a thread (09 R163). -/
def State.report (s : State) (uid : Nat) (tr : Trap) : State :=
  let (id, s) := s.takeId
  { s with reports := s.reports ++ [{ id := id, uid := uid, trap := tr }] }

/-- A function of a bank by number. -/
def Bank.fn (b : Bank) (n : Nat) : Option BankFn := b.fns.find? (·.num == n)
def Bank.setFn (b : Bank) (f : BankFn) : Bank := { b with fns := putRec (·.num) f b.fns }
/-- The squall key of a bank's functions: `k` XOR (die * 2^12 + bank) (14 R243). -/
def fnKey (image bank : Nat) : Nat := Nat.xor (imgK image) (qkDie bank * 2 ^ 12 + qkQuad bank)
/-- Apply a function to a word: the reply O, the flag Z, and the state after (07 R132). -/
def State.applyFn (s : State) (bank : Nat) (f : BankFn) (w x : Nat) : Nat × Bool × State :=
  let r := fnRun f.image (fnKey f.image bank) f.sqCtr (s.readN w 8) x
  let b := s.bank bank
  let s := s.setBank (b.setFn { f with sqCtr := (f.sqCtr + 1) % 2 ^ 128 })
  let s := if r.wrote then s.homeWrite w (bytesOf 8 r.word) else s
  let s := if r.skipped || r.set = 0 then s else s.feSet w (r.set == 2)
  (r.o, r.z, s)
/-- Apply an update to a word whose granule can be read; else nothing is written, and the failing word is reported to the
issuer (07 R125, R139; 09 R163). -/
def State.updOn (s : State) (uid va k : Nat) (f : State → State) : State :=
  match s.partBad k 8 0 with
  | some w => s.report uid { cls := clsEcc, tval := failVa va k w, kind := 0 }
  | none => f s
/-- Hold an update in a hand or the overflow list, or apply it when both are full (06 R118). -/
def State.holdUpd (s : State) (bank : Nat) (f : BankFn) (h : Held) : State :=
  let b := s.bank bank
  let room := match b.hands.find? (·.1 == h.word) with
    | some (_, l) => decide (l.length < Config.handEntries)
    | none => decide (b.hands.length < Config.hands)
  if room then
    let hands := match b.hands.find? (·.1 == h.word) with
      | some (w, l) => b.hands.map fun e => if e.1 == w then (w, l ++ [h]) else e
      | none => b.hands ++ [(h.word, [h])]
    s.setBank { b with hands := hands }
  else if b.overN.length < Config.overflowEntries then
    s.setBank ({ b with overN := b.overN ++ [h] }.setFn { f with ovf := true, nspill := min (f.nspill + 1) (2 ^ 32 - 1) })
  else
    let s := s.setBank (b.setFn { f with unord := true })
    s.updOn h.uid h.va h.word fun s => (s.applyFn bank { f with unord := true } h.word h.operand).2.2
/-- An update arrives at its bank: its fault, if any, or the state after (06 R118; 07 R130, R133; 09 R163). -/
def State.arriveUpd (s : State) (r : Req) (fn operand : Nat) : State :=
  let q := (homeQuad r.key).getD 0
  match (s.bank q).fn fn with
  | none => s.report r.uid { cls := clsProtection, tval := fn, kind := 0 }
  | some f =>
    if imgDet f.image then s.holdUpd q f { gid := r.gid, uid := r.uid, part := r.part, va := r.va, seq := r.seq, word := r.key, fn := fn, operand := operand }
    else s.updOn r.uid r.va r.key fun s => (s.applyFn q f r.key operand).2.2
/-- Apply one held update at a drain; an unreadable word leaves nothing written and is reported to the issuer at the address
it used (DEDUCED, log 76), and a function gone leaves nothing written (09 R163). -/
def State.drainOne (s : State) (bank : Nat) (h : Held) : State :=
  match (s.bank bank).fn h.fn with
  | none => s
  | some f =>
    s.updOn h.uid h.va h.word fun s => (s.applyFn bank f h.word h.operand).2.2
/-- A drain of a bank: addresses ascending, each address's group by issuer and sequence number (06 R119). -/
def State.drainBank (s : State) (bank : Nat) : State :=
  let b := s.bank bank
  let all := b.overN ++ b.hands.flatMap (·.2)
  let s := s.setBank { b with hands := [], overN := [] }
  let words := sortBy id (dedup (all.map (·.word)))
  words.foldl (fun s w =>
    (sortBy (fun (h : Held) => h.gid * 2 ^ 64 + h.seq) (all.filter (·.word == w))).foldl (fun s h => s.drainOne bank h) s) s
/-- Banks that hold entries of a thread; what it issued before a `migr` stays its own (06 R119, 07 R138; DEDUCED, log 77). -/
def State.banksOf (s : State) (uid : Nat) : List Nat :=
  (s.banks.filter fun b => (b.overN ++ b.hands.flatMap (·.2)).any (·.uid == uid)).map (·.key)

/-- Park a thread on an object, or trap it where its edge closes a cycle (10 R183). -/
def State.parkAt (s : State) (g objDie obj ok : Nat) (fin : Done) (pc : Nat) : State :=
  match s.park g objDie obj ok fin pc with
  | (s, none) => s
  | (s, some tr) => s.trapWaiting g tr false
/-- Park the issuing thread; a cycle trap ends the issue. -/
def State.parkMe (s : State) (objDie obj ok : Nat) (fin : Done) : State :=
  match s.park s.iss.gid objDie obj ok fin s.iss.pc with
  | (s, none) => s
  | (s, some tr) =>
    let s := s.trapWaiting s.iss.gid tr false
    { s with iss := { s.iss with trapped := true } }

def Req.isLoad (r : Req) : Bool := match r.op with | .load _ | .pair | .pairHi _ | .ldc _ _ _ | .feqry | .word | .line => true | _ => false
/-- Whether a request releases, and at which scope: an `rsvx` where it gives up a hold, at its `lrw`'s scope (08 R148). -/
def State.relOf (s : State) (r : Req) : Option Nat :=
  match r.op with
  | .rsvx => (s.rsvs.find? fun x => x.word == wordKey r.key && x.uid == r.uid && x.hold).map (·.scope)
  | _ => if r.rel then some r.scope else none
/-- Whether a thread's earlier request keeps a later one from being performed (08 R143, R144, R147, R149; 05 R86). A
plain load passes an earlier store: to another address freely, to its own through the buffer's forwarding. -/
def State.blocks (s : State) (e r : Req) : Bool :=
  let plainStore := match e.op with | .store _ _ | .zero _ => true | _ => false
  if r.isLoad && plainStore then false
  else
    overlap e.key e.len r.key r.len ||
    (dieLocal r.gid e.key && dieLocal r.gid r.key && !e.isCede && !r.isCede && !(r.isLoad && e.posted)) ||
    -- a store to own private memory follows every earlier entry of the buffer (08 R144)
    (r.posted && e.posted && keySel r.key == 1 && keyCore r.key == gidCk r.gid) ||
    (match s.relOf r with
     | some sc => (r.isCede || !(e.isUpd || e.isCede)) && (e.isCede || s.inExtent r.gid sc e.key)
     | none => false)
/-- Whether an earlier message does: it is a store at its destination core (19 R338). -/
def State.msgBlocks (s : State) (m : Msg) (r : Req) : Bool :=
  m.ldc.isNone && !r.isLoad &&
  ((m.flit.hdr % 2 ^ 30 / 2 ^ 18 == r.gid / 2 ^ 18 && dieLocal r.gid r.key && !r.isCede) ||
   (match s.relOf r with | some sc => s.msgIn r.gid sc m | none => false))
/-- Whether no earlier request or message of its thread blocks a request, nor, of an engine's write, one of the same issuer's
to the same words, or of one `scat` to the same home (19 R333; 21 R365). -/
def State.unblocked (s : State) (r : Req) : Bool :=
  !(r.uid == 0 && s.reqs.any fun e => e.uid == 0 && e.gid == r.gid && decide (e.id < r.id) && e.res.isNone &&
      (overlap e.key e.len r.key r.len || (r.seq % 2 == 1 && e.seq == r.seq && homeQuad e.key == homeQuad r.key))) &&
  !(s.reqs.any fun e => e.uid == r.uid && r.uid != 0 && decide (e.seq < r.seq) && e.res.isNone && s.blocks e r) &&
  !(s.msgs.any fun m => m.srcUid == r.uid && r.uid != 0 && decide (m.seq < r.seq) && s.msgBlocks m r)
/-- Whether a request may be performed now: it has arrived, waits for no resend or admission, and is not blocked. -/
def State.mayPerform (s : State) (r : Req) : Bool :=
  r.res.isNone && !r.carried && r.resendAt == 0 && !r.bucket && r.hop.cur == r.hop.dst && s.unblocked r

/-- The reply of a home sets out: a packet of its own, at the local port of the home's router (19 R339, R340). -/
def State.answer (s : State) (r : Req) (x : Res) : State :=
  s.modReq r.id fun q => { q with res := some x, hop :=
    { q.hop with cur := q.hop.dst, dst := gidQk q.gid, mid := none, chan := 1, port := .here, since := s.clock, age := 0, urgent := false } }
def State.dropReq (s : State) (id : Nat) : State := { s with reqs := s.reqs.filter (·.id != id) }
def okRes (v v2 : Nat) (p : Bool) : Res := { val := v, val2 := v2, pred := p, trap := none }
def trapRes (cls tval : Nat) : Res := { val := 0, val2 := 0, pred := false, trap := some { cls := cls, tval := tval, kind := 0 } }

/-- The home bucket of a key (18 R324). -/
def arrHash (n key : Nat) : Nat := key * 0x9E3779B97F4A7C15 % 2 ^ 64 / 2 ^ (64 - Nat.log2 n) % n
/-- What a probe of an arrangement ends at: the entry's canonical key, with the search key or unused; a bad word; nothing. -/
inductive Probe where
  | found (k : Nat)
  | free (k : Nat)
  | bad (k : Nat)
  | full
  deriving DecidableEq, Repr
/-- Probe from a bucket on (18 R324). -/
def State.probe (s : State) (base n key : Nat) : Nat → Nat → Probe
  | 0, _ => .full
  | fuel + 1, i =>
    let k := base + 32 * (i % n)
    match s.badIn k 32 with
    | some w => .bad w
    | none =>
      if s.readN (k + 24) 8 % 2 = 0 then .free k
      else if s.readN k 8 = key then .found k
      else s.probe base n key fuel (i + 1)
def State.arrFind (s : State) (r : Arr) (key : Nat) : Probe := s.probe r.base r.buckets key r.buckets (arrHash r.buckets key)
/-- The requests of an arrangement, and whether no other that may be performed has reached its home before one (18 R324). -/
def Req.isArr (r : Req) : Bool := match r.op with | .arradd _ _ | .arrget _ => true | _ => false
def State.arrTurn (s : State) (r : Req) : Bool :=
  !(s.reqs.any fun e => e.isArr && e.key == r.key && s.mayPerform e &&
    (decide (e.hop.since < r.hop.since) || (e.hop.since == r.hop.since && decide (e.id < r.id))))
/-- `arrget` at its arrangement's home (18 R324, R326). -/
def State.arrLook (s : State) (r : Req) (key : Nat) : State :=
  match s.arrs.find? fun x => x.base == r.va && x.doms.contains r.dom with
  | none => s.answer r (trapRes clsProtection r.va)
  | some x =>
    match s.arrFind x key with
    | .found k => s.answer r (okRes (s.readN (k + 8) 8) 0 true)
    | .bad w => s.answer r (trapRes clsEcc w)
    | _ => s.answer r (okRes 0 0 false)

/-- The thread of a request leaves the reply's wait and parks at the home; the request itself is done with. -/
def State.parkReq (s : State) (r : Req) (obj ok : Nat) : State :=
  let t := s.thread r.gid
  let d := ((homeQuad r.key).map qkDie).getD (gidDie r.gid)
  match t.wait with
  | some w => s.parkAt r.gid d obj ok w.fin t.pc.toNat
  | none => s

/-- The new value of a read-modify-write (09 R166). -/
def rmwNew (op : ReqOp) (old : Nat) : Nat × Nat × Bool :=
  match op with
  | .cas n c v => (n, v, old % 2 ^ (8 * n) == c % 2 ^ (8 * n))
  | .swap n v => (n, v, true)
  | .fadd n v => (n, (old + v) % 2 ^ (8 * n), true)
  | _ => (8, 0, false)
/-- A read-modify-write on readable bytes: the old value and the state after. -/
def State.rmw (s : State) (op : ReqOp) (k : Nat) : Nat × State :=
  let n := (rmwNew op 0).1
  let old := s.readN k n
  let (_, v, w) := rmwNew op old
  (old, if w then s.homeWrite k (bytesOf n v) else s)

/-- The service of a queued `lrw` at its bank: none where it parks (09 R170). -/
def State.lrwAt (s : State) (r : Req) (n : Nat) : Option (Nat × Bool) × State :=
  let w := wordKey r.key
  let bank := homeQuad w
  match s.rsvs.find? (fun x => x.word == w && x.uid == r.uid) with
  | some x =>
    let s := { s with rsvs := s.rsvs.map fun y => if y == x then { y with scope := r.scope, off := r.key % 8 } else y }
    if x.hold then (some (s.readN r.key n, true), s) else (none, s)
  | none =>
    if Config.reservations ≤ (s.rsvs.filter fun x => homeQuad x.word == bank).length then (some (0, false), s)
    else
      let held := s.rsvs.any fun x => x.word == w
      let e : Rsv := { word := w, gid := r.gid, uid := r.uid, hold := !held, scope := r.scope, off := r.key % 8 }
      let s := { s with rsvs := s.rsvs ++ [e] }
      if held then (none, s)
      else (some (s.readN r.key n, true), s.hold (((homeQuad w).map qkDie).getD 0) w okRsv 1 r.gid)

end Sys2Proof.Machine
end

