-- ==== Sys2Proof/Machine/Serve.lean ====
section
/-!
DEFINITION. Making a request and performing it: the steps HOME_ACCESS, FE_RETRY_RESEND, BANK_UPDATE_ARRIVAL and
DEFERRED_FAULT_REPORT (08 R142; 07 R128 to R137; 06 R119; 09 R163); the tokens it takes (19 R342), and the packets between a
rectangle and its outlier core (16 R279).
-/
namespace Sys2Proof.Machine

/-- The ingress of a key that has token buckets: the vault controller of a quad, or a CXL port (19 R342, 22 R390; log 29). -/
def bucketPort (k : Nat) : Option Nat :=
  match keySel k with
  | 4 => (homeQuad k).map fun q => qkDie q * Config.quadsPerDie + qkQuad q
  | 5 => some (4 * Config.quadsPerDie + keyPa k / 2 ^ 41 % 4)
  | _ => none
/-- The rate and depth of a partition at a key's ingress, where it has a limit. -/
def State.rateAt (s : State) (part k : Nat) : Option (Nat × Nat × Nat) :=
  match bucketPort k, s.part? part with
  | some port, some p => p.rates.find? (·.1 == port)
  | _, _ => none
/-- Charge one request at a key's ingress; an engine's step takes its tokens ahead of time (19 R342; log 29). -/
def State.takeToken (s : State) (part k : Nat) : State :=
  match s.rateAt part k with
  | none => s
  | some (port, rate, _) =>
    let full := max (s.clock * rate) ((((s.part? part).bind fun p => p.buckets.find? (·.1 == port)).map (·.2)).getD 0)
    s.modPart part fun p => { p with buckets := (port, full + 1024) :: p.buckets.filter (·.1 != port) }
/-- Whether a partition's bucket has given more tokens than it had: what its engines do next waits until they are earned. -/
def State.overdrawn (s : State) (part : Nat) : Bool :=
  match s.part? part with
  | none => false
  | some p => p.rates.any fun (port, rate, depth) =>
      decide (s.clock * rate + max depth 1 * 1024 < ((p.buckets.find? (·.1 == port)).map (·.2)).getD 0)
/-- A request that has reached an ingress takes its token if there is one (19 R342). -/
def State.admitReq (s : State) (r : Req) : State :=
  if !r.bucket || r.hop.cur != r.hop.dst || r.res.isSome then s
  else
    let pass (s : State) : State := s.modReq r.id fun q => { q with bucket := false }
    match s.rateAt r.part r.key with
    | none => pass s
    | some (port, rate, depth) =>
      let x := s.clock * rate
      let full := max x ((((s.part? r.part).bind fun p => p.buckets.find? (·.1 == port)).map (·.2)).getD 0)
      if full - x + 1024 ≤ max depth 1 * 1024 then
        (pass s).modPart r.part fun p => { p with buckets := (port, full + 1024) :: p.buckets.filter (·.1 != port) }
      else s
/-- Step `BUCKET_ADMIT` (19 R342). -/
def execBucketAdmit (req : Nat) (s : State) : Out :=
  match s.reqs.find? (·.id == req) with
  | some r => .next (s.admitReq r)
  | none => .next s

/-- A request of a thread as it sets out for the home of its key. -/
def State.newReq (s : State) (g : Nat) (op : ReqOp) (key len va scope : Nat) (rel acq posted : Bool) : Req :=
  let t := s.thread g
  let own := gidQk g
  let dst := (homeQuad key).getD own
  { id := s.nextId, gid := t.gid, uid := t.uid, seq := t.seq, op := op, key := key, len := len, va := va, place := dst,
    scope := scope, rel := rel, acq := acq, posted := posted, part := s.partOf g, dom := t.dom, prio := s.eprio t.gid,
    hop := { chan := 0, cur := own, dst := dst, mid := none, port := .here, since := s.clock, age := 0, urgent := false },
    res := none, resendAt := 0, bucket := (s.rateAt (s.partOf g) key).isSome, comb := [], carried := false, born := s.clock }
/-- An answer to the issuing thread as it leaves quad `home`. -/
def State.newAnswer (s : State) (op : ReqOp) (home : Nat) (res : Res) : Req :=
  let t := s.me
  { id := s.nextId, gid := t.gid, uid := t.uid, seq := t.seq, op := op, key := 0, len := 0, va := 0, place := home, scope := 0,
    rel := false, acq := false, posted := false, part := s.myPart, dom := t.dom, prio := s.eprio t.gid,
    hop := { chan := 1, cur := home, dst := s.myQuad, mid := none, port := .here, since := s.clock, age := 0, urgent := false },
    res := some res, resendAt := 0, bucket := false, comb := [], carried := false, born := s.clock }
/-- A request of a thread, in the mesh from its own quad (08 R142, 19 R339). -/
def State.requestOf (s : State) (g : Nat) (op : ReqOp) (key len va scope : Nat) (rel acq posted : Bool) : Nat × State :=
  let r := s.newReq g op key len va scope rel acq posted
  (r.id, ({ s with reqs := s.reqs ++ [r], nextId := s.nextId + 1 } : State).modThread g fun t => { t with seq := t.seq + 1 })
/-- A request of the issuing thread. -/
def State.request (s : State) (op : ReqOp) (key len va scope : Nat) (rel acq posted : Bool) : Nat × State :=
  s.requestOf s.iss.gid op key len va scope rel acq posted
/-- Ask a home and wait for its reply (02 R24). -/
def State.ask (s : State) (op : ReqOp) (key len va scope : Nat) (rel acq : Bool) (fin : Done) : Out :=
  let (id, s) := s.request op key len va scope rel acq false
  .next (s.await (.reply id) fin)
/-- A request whose effect at its home, on quad `home`, this issue has had: the thread is out of rotation until the answer
has come back (02 R24). -/
def State.repliedAs (s : State) (op : ReqOp) (home val val2 : Nat) (pred : Bool) (fin : Done) : Out :=
  let r := s.newAnswer op home { val := val, val2 := val2, pred := pred, trap := none }
  .next (State.await { s with reqs := s.reqs ++ [r], nextId := s.nextId + 1 } (.reply r.id) fin)
def State.replied (s : State) (home val val2 : Nat) (pred : Bool) (fin : Done) : Out := s.repliedAs .asked home val val2 pred fin
/-- The same where the answer is a word for register `d`. -/
def State.reply (s : State) (d : Reg) (home val : Nat) : Out := s.replied home val 0 false (s.doneTo d.val 0 0 8 false)
/-- Post to a home through the store buffer, or wait for room in it (02 R24). -/
def State.postReq (s : State) (op : ReqOp) (key len va scope : Nat) (rel : Bool) : State :=
  (s.request op key len va scope rel false true).2
def State.post (s : State) (op : ReqOp) (key len va scope : Nat) (rel : Bool) : Out :=
  if s.bufferRoom 1 then (s.postReq op key len va scope rel).ok else .next (s.retry (.buffer 1))

/-- A request that takes effect only on readable words: an uncorrectable one is the reply (07 R125, check 6). -/
def State.guarded (s : State) (r : Req) (n : Nat) (f : State → State) : State :=
  match s.badIn r.key n with
  | some w => s.answer r (trapRes clsEcc (r.wordVa w))
  | none => f (s.countSoft r.key n)
/-- The same for an access that writes too: the granules that it writes in part must be read (07 R139). -/
def State.guardedW (s : State) (r : Req) (n : Nat) (f : State → State) : State :=
  s.guarded r n fun s =>
    match s.partBad r.key n 0 with
    | some w => s.answer r (trapRes clsEcc (r.wordVa w))
    | none => f s
/-- A full/empty request at its home (07 R128, 09 R164). -/
def State.serveFe (s : State) (r : Req) (want isLoad empties : Bool) (n data : Nat) : State :=
  let w := wordKey r.key
  let parked : Bool := match (s.thread r.gid).wait with | some x => x.why == .parked w okFe | none => false
  match s.feBad isLoad r.key n with
  | some b => s.answer r (trapRes clsEcc (r.wordVa b))
  | none =>
    if s.feHolds want w then
      let (v, s) := s.feNow isLoad empties r.key n data
      if parked then (s.dropReq r.id).wake r.gid (((homeQuad w).map qkDie).getD 0) v 0 false else s.answer r (okRes v 0 false)
    else
      let s := if s.feFull r then s.modReq r.id fun q => { q with resendAt := s.clock + 64 }
        else { s.dropReq r.id with feWaits := s.feWaits ++ [{ word := w, req := r, remote := keyCore w != gidCk r.gid }] }
      if parked then s else s.parkReq r w okFe
/-- The status word of a bank function (06 R120). -/
def fnStatus (f : BankFn) : Nat := f.nspill * 2 ^ 32 + f.unord.toNat * 2 + f.ovf.toNat
/-- `updcfg` at its bank (06 R116): the word it returns. -/
def State.configFn (s : State) (bank : Nat) (op : ReqOp) : Nat × State :=
  let b := s.bank bank
  match op with
  | .updcfgLd n image =>
    if (b.overN ++ b.hands.flatMap (·.2)).any (·.fn == n) then (1, s)
    else if !imageOk image then (2, s)
    else (0, s.setBank (b.setFn { num := n, image := image, nspill := 0, unord := false, ovf := false, sqCtr := 0 }))
  | .updcfgSt n => (((b.fn n).map fnStatus).getD 0, s)
  | .updcfgClr n =>
    (((b.fn n).map fnStatus).getD 0,
     match b.fn n with | some f => s.setBank (b.setFn { f with nspill := 0, unord := false, ovf := false }) | none => s)
  | _ => (0, s)
/-- A read-modify-write at its home (09 R166, R167). -/
def State.serveRmw (s : State) (r : Req) : State :=
  if keySel r.key = 6 && !Config.hostAtomics then s.answer r (trapRes clsProtection r.va)
  else
    let (v, s) := s.rmw r.op r.key
    s.answer r (okRes v 0 false)
/-- The next free word of another package's answer (log 6). -/
def State.farWord (s : State) : Nat × State :=
  ((Config.remoteWord s.freeCtr).toNat, { s with freeCtr := s.freeCtr + 1 })
/-- The value of an `ldc` goes on to the continuation it names; the home answers when that has been applied (09 R162). One that
names a quad which is not there is not live. -/
def State.sendLdc (s : State) (r : Req) (cont v : Nat) : State :=
  if gidPkg (bits cont 29 0) = s.pkg && Config.quadsPerDie ≤ gidQuad cont then s.answer r (okRes 1 0 false) else
  let (id, s) := s.takeId
  let m : Msg :=
    { id := id, flit := { hdr := cont, words := [v], src := r.gid, dom := r.dom }, seq := r.seq, srcUid := r.uid,
      hop := { chan := 2, cur := r.place, dst := gidQk (bits cont 29 0), mid := none, port := .here, since := s.clock, age := 0, urgent := false },
      resendAt := 0, prio := r.prio, ldc := some r.id }
  ({ s with msgs := s.msgs ++ [m] }).modReq r.id fun q => { q with carried := true }

/-- A write of a tile element: with `acc` the read, the addition and the write are one access (16 R288). Nothing is written in a word
that must be read and cannot be, and its issuer gets the fault's report (07 R125; 09 R163; log 16). -/
def State.tileEl (s : State) (g k va : Nat) (acc : Bool) (v : Nat) : State :=
  match s.partBad k 4 15 with
  | some w => s.report (s.thread g).uid { cls := clsEcc, tval := failVa va k w, kind := 0 }
  | none => s.homeWrite k (bytesOf 4 (if acc then add32 (s.readN k 4) v else v))
/-- The cores of a rectangle's south edge (04 R79; 13 R227). -/
def Rect.southCores (r : Rect) : List Nat :=
  (List.range (4 * r.cols)).map fun i => qk r.die (r.quad + 64 * (r.rows - 1)) * 4 + i
/-- A message about the outliers of a rectangle, from a quad to a core, on the `msg` channel; the mask's elements and products are in
the rectangle (16 R279; 19 R339). -/
def State.matMsg (s : State) (gid : Nat) (r : Rect) (op : ReqOp) (source core : Nat) : State :=
  let (id, s) := s.takeId
  let m : Req :=
    { id := id, gid := gid, uid := 0, seq := 0, op := op, key := privKey (ckDie core) (ckQuad core % 4096) (core % 4) 0, len := 0, va := 0,
      place := ckQuad core, scope := 0, rel := false, acq := false, posted := true, part := r.part, dom := r.dom, prio := 0,
      hop := { chan := 2, cur := source, dst := ckQuad core, mid := none, port := .here, since := s.clock, age := 0, urgent := false },
      res := none, resendAt := 0, bucket := false, comb := [], carried := false, born := s.clock }
  { s with reqs := s.reqs ++ [m] }
def ReqOp.ofRect (op : ReqOp) (id : Nat) : Bool := match op with | .masked r _ _ | .contrib r _ _ => r == id | _ => false
/-- The masked elements of a row have come to the outlier core, which sends its contributions on to the south edge (16 R279). -/
def State.maskedIn (s : State) (q : Req) (id row : Nat) (els : List Nat) : State :=
  match s.rect? id with
  | none => s
  | some r =>
    let s := s.modRect id fun x => { x with sent := (row, els) :: x.sent.filter (·.1 != row) }
    r.southCores.foldl (fun s c => s.matMsg q.gid r (.contrib id row c) q.place c) s

/-- Perform a request at its home (08 R142). The posted operations that have steps of their own are left to them. -/
def State.perform (s : State) (r : Req) : State :=
  match r.op with
  | .load n => s.guarded r n fun s => s.answer r (okRes (ofBytes (s.seen r.uid r.key n)) 0 false)
  | .word => s.guarded r 8 fun s => s.answer r (okRes (ofBytes (s.seen r.uid r.key 8)) 0 false)
  | .masked id row els => (s.dropReq r.id).maskedIn r id row els
  | .contrib id row core => (s.dropReq r.id).modRect id fun x => { x with got := (row, core) :: x.got.filter (· != (row, core)) }
  | .line =>
    let bad := ((List.range 8).map fun i => (s.bad.contains (r.key + 8 * i)).toNat * 2 ^ i).sum
    (s.countSoft r.key 64).answer r (okRes (ofBytes (s.seen r.uid r.key 64)) bad false)
  | .pair =>
    -- CXL and host memory serve each half as an access of its own, in ascending order (09 R159)
    if 5 ≤ keySel r.key then s.guarded r 8 fun s =>
      s.modReq r.id fun q => { q with op := .pairHi (ofBytes (s.seen r.uid r.key 8)), key := q.key + 8, len := 8, va := q.va + 8 }
    else s.guarded r 16 fun s =>
      s.answer r (okRes (ofBytes (s.seen r.uid r.key 8)) (ofBytes (s.seen r.uid (r.key + 8) 8)) false)
  | .ldc n sext cont =>
    -- of another package the word is free, and its continuation is met as any other (log 6)
    if keySel r.key = 7 then let (v, s) := s.farWord; s.sendLdc r cont (extN n sext v).toNat
    else s.guarded r n fun s => s.sendLdc r cont (extN n sext (ofBytes (s.seen r.uid r.key n))).toNat
  | .pairHi lo => s.guarded r 8 fun s => s.answer r (okRes lo (ofBytes (s.seen r.uid r.key 8)) false)
  | .asked | .stat _ => s
  | .feqry => s.guarded r 8 fun s => s.answer r (okRes (s.isEmpty r.key).toNat 0 false)
  | .store bs mask =>
    match s.partBad r.key bs.length mask with
    | some w => (s.dropReq r.id).report r.uid { cls := clsEcc, tval := r.wordVa w, kind := 0 }
    | none => (s.dropReq r.id).homeWrite r.key (s.merged r.key bs mask)
  | .zero len =>
    -- each word is a plain store of its own (09 R161)
    let s := match s.partBad r.key 8 255 with
      | some w => s.report r.uid { cls := clsEcc, tval := r.wordVa w, kind := 0 }
      | none => s.homeWrite r.key (bytesOf 8 0)
    if len ≤ 8 then s.dropReq r.id
    else s.modReq r.id fun q => { q with op := .zero (len - 8), key := q.key + 8, len := q.len - 8, va := q.va + 8 }
  | .feset e =>
    match s.badIn r.key 8 with
    | some w => (s.dropReq r.id).report r.uid { cls := clsEcc, tval := r.wordVa w, kind := 0 }
    | none => (s.dropReq r.id).feSet r.key e
  | .fe want isLoad empties n data => s.serveFe r want isLoad empties n data
  | .updr fn x =>
    let q := (homeQuad r.key).getD 0
    match (s.bank q).fn fn with
    | none => s.answer r (trapRes clsProtection fn)
    | some f =>
      if imgDet f.image then s.answer r (trapRes clsProtection (0x100 + fn))
      else s.guardedW r 8 fun s =>
        let (o, z, s) := s.applyFn q f r.key x
        s.answer r (okRes o 0 z)
  | .updcfgLd _ _ | .updcfgSt _ | .updcfgClr _ =>
    let (v, s) := s.configFn ((homeQuad r.key).getD 0) r.op
    s.answer r (okRes v 0 false)
  | .cas n _ _ | .swap n _ | .fadd n _ =>
    if (rmwNew r.op (s.readN r.key n)).2.2 then s.guardedW r n fun s => s.serveRmw r else s.guarded r n fun s => s.serveRmw r
  | .lrw n => s.guarded r n fun s =>
    match s.lrwAt r n with
    | (some (v, true), s) => s.answer r (okRes v 0 true)
    | (some (_, false), s) =>
      (s.modThread r.gid fun t => { t with wait := t.wait.map fun w => { w with fin := { w.fin with d := 0 } } }).answer r (okRes 0 0 false)
    | (none, s) => (s.dropReq r.id).parkReq r (wordKey r.key) okRsv
  | .sch n v =>
    let w := wordKey r.key
    if s.rsvs.any fun x => x.word == w && x.uid == r.uid && x.hold then
      match s.partBad r.key n (2 ^ n - 1) with
      | some b => s.answer r (trapRes clsEcc (r.wordVa b))
      | none => ((s.homeWrite r.key (bytesOf n v)).dropHold w r.gid).answer r (okRes 0 0 true)
    else s.answer r (okRes 0 0 false)
  | .rsvx =>
    let w := wordKey r.key
    let s := if s.rsvs.any fun x => x.word == w && x.uid == r.uid && x.hold then s.dropHold w r.gid
      else { s with rsvs := s.rsvs.filter fun x => !(x.word == w && x.uid == r.uid) }
    s.answer r (okRes 0 0 false)
  | .tile acc v => (s.dropReq r.id).tileEl r.gid r.key r.va acc v
  | .topk fmt k entries => s.guardedW r (8 * k) fun s =>
    (s.homeWrite r.key (kBytes (kFill k (kFirst fmt k (kList (s.bytesAt r.key (8 * k)) ++ entries))))).answer r (okRes 0 0 false)
  | .barinit auto cnt => s.guardedW r 8 fun s =>
    let (v, s) := s.barInit r.key auto cnt
    s.answer r (okRes v 0 false)
  | .barObj =>
    let arrive (s : State) : State := match s.barArrive r.key r.gid r.uid with
      | (some v, s) => s.answer r (okRes v 0 false)
      | (none, s) => (s.dropReq r.id).parkReq r r.key okBar
    if tbit (s.readN r.key 8) 63 && !tbit (s.readN r.key 8) 61 then s.guardedW r 8 arrive else s.guarded r 8 arrive
  | .copyEl bs =>
    match s.partBad r.key bs.length (2 ^ bs.length - 1) with
    | some w => if r.uid = 0 then s.dropReq r.id else (s.dropReq r.id).report r.uid { cls := clsEcc, tval := r.wordVa w, kind := 0 }
    | none => ((s.dropReq r.id).homeWrite r.key bs).fillWords ((List.range bs.length).map (r.key + ·))
  -- the binding itself is performed at the reply (18 R316)
  | .iqbind _ _ _ => s.answer r (okRes 0 0 false)
  | .arrget key => if s.arrTurn r then s.arrLook r key else s
  | .upd _ _ | .cede _ | .arradd _ _ => s

/-- An access to a vault slice is sampled with the clocks since it came there (12 R221; log 18). -/
def State.sliceSeen (s : State) (r : Req) : State :=
  if keySel r.key = 4 then s.sampled r.place 3 (s.clock - r.hop.since) else s
/-- Perform a request, and after it the requests combined into it, one after the other (07 R135). -/
def State.performAll (s : State) (r : Req) : State :=
  r.comb.foldl (fun s id =>
    match s.reqs.find? (·.id == id) with
    | some c => (s.modReq id fun q => { q with carried := false }).perform { c with carried := false }
    | none => s) (s.perform r)
/-- Step `HOME_ACCESS` (08 R142; 19 R342). -/
def execHomeAccess (req : Nat) (s : State) : Out :=
  let s := match s.reqs.find? (·.id == req) with | some r => s.admitReq r | none => s
  match s.reqs.find? (·.id == req) with
  | some r => .next (if s.mayPerform r then (s.sliceSeen r).performAll r else s)
  | none => .next s
/-- Step `FE_RETRY_RESEND`: a refused full/empty request is sent again 64 clocks later (07 R128). -/
def execFeRetryResend (req : Nat) (s : State) : Out :=
  .next (s.modReq req fun r => if r.resendAt != 0 && decide (r.resendAt ≤ s.clock) then { r with resendAt := 0 } else r)
/-- Step `BANK_UPDATE_ARRIVAL` (06 R118; 07 R133). -/
def execBankUpdateArrival (req : Nat) (s : State) : Out :=
  let s := match s.reqs.find? (·.id == req) with | some r => s.admitReq r | none => s
  match s.reqs.find? (·.id == req) with
  | some r =>
    match r.op with
    | .upd fn x => .next (if s.mayPerform r then ((s.sliceSeen r).dropReq r.id).arriveUpd r fn x else s)
    | _ => .next s
  | none => .next s
/-- Whether a thread out of rotation takes a trap at once: parked, or in a wait without an edge (02 R49, 11 R195). -/
def State.openWait (s : State) (t : Thread) : Bool :=
  match t.wait with
  | some w =>
    match w.why with
    | .parked _ _ | .cont | .sync _ | .channel _ => true
    -- a member of a gang that a `join` has paused is no longer parked
    | .children => t.stat == .parked
    | .walk id => s.walks.any fun x => x.id == id && decide (2 ≤ x.state) && x.state != 4
    | _ => false
  | none => false
/-- A fence's drains are over: a deferred fault is delivered at the end of the wait (09 R163, R172). -/
def State.fenceDrained (s : State) (uid : Nat) : State :=
  match s.byUid uid with
  | none => s
  | some t =>
    let waits : Bool := match t.wait with | some w => w.why == .drains | none => false
    if !waits || s.drains.any (·.uid == uid) || s.reports.any (·.uid == uid) then s
    else
      match t.dfr with
      | tr :: rest => if t.handler then s.complete t.gid 0 0 false
                      else (s.modThread t.gid fun t => { t with dfr := rest }).trapWaiting t.gid tr true
      | [] => s.complete t.gid 0 0 false
/-- Step `DEFERRED_FAULT_REPORT`: delivered at once to a thread that waits parked, at the end of a fence's wait, else kept for
its next issue (09 R163, R172; 11 R195, R199). -/
def execDeferredFaultReport (msg : Nat) (s : State) : Out :=
  match s.reports.find? (·.id == msg) with
  | none => .next s
  | some m =>
    let s := { s with reports := s.reports.filter (·.id != msg) }
    match s.threads.find? (·.uid == m.uid) with
    | none => .next s
    | some t =>
      if s.openWait t && !t.handler then .next (s.trapWaiting t.gid m.trap true)
      else .next ((s.modThread t.gid fun t => { t with dfr := t.dfr ++ [m.trap] }).fenceDrained m.uid)

end Sys2Proof.Machine
end

