-- ==== Sys2Proof/Machine/Reactive.lean ====
section
/-!
DEFINITION. The signal table: bringing an entry into an instant (01 R17, 02 R33), applying emissions and cedes (02 R36),
waking the threads parked on a decided signal (02 R38, R40), the status cache (05 R93), and the step CEDE_APPLY.
-/
namespace Sys2Proof.Machine

def Sig.none : Sig := { st := 0, out := false, cmb := 0, ty := 0, cnt := 0, inst := 0, pst := 0, val := 0, prev := 0 }
/-- The identity a signal's value starts an instant with; 0 when it is pure (02 R31, R39). -/
def Sig.unit (g : Sig) : Nat := if g.cmb = 0 then 0 else sigIdentity g.cmb g.ty
/-- Combine a value into a signal's current value; a pure signal keeps 0 (02 R39). -/
def Sig.combine (g : Sig) (v : Nat) : Sig := if g.cmb = 0 then g else { g with val := sigCombine g.cmb g.ty g.val v }
/-- Bring an entry into instant `k` with its number of claims and its pending host inputs (01 R17, 02 R33). -/
def Sig.bring (g : Sig) (k claims : Nat) (ins : List Nat) : Sig :=
  if g.inst = k % 2 ^ 24 then g
  else
    let fresh := g.inst = (k + 2 ^ 24 - 1) % 2 ^ 24
    ins.foldl Sig.combine
      { g with st := if ins.isEmpty then (if claims = 0 then 2 else 0) else 1, cnt := claims, inst := k % 2 ^ 24,
               pst := if fresh then g.st else 2, prev := if fresh then g.val else g.unit, val := g.unit }
/-- The value `sigv.cur` reads of a decided signal (05 R93). -/
def Sig.current (g : Sig) : Nat := if g.st = 1 then g.val else g.unit
/-- The closed status and value of an entry at the end of instant `k`; an entry not touched is absent (02 R41). -/
def Sig.closed (g : Sig) (k : Nat) : Nat × Nat :=
  if g.inst = k % 2 ^ 24 && g.st == 1 then (1, g.val) else (2, g.unit)

/-- The entry of a signal. -/
def State.entry (s : State) (dom sig : Nat) : Sig :=
  match s.domain? dom with | some d => d.sigs.getD sig Sig.none | none => Sig.none
/-- An entry's word (02 R32). -/
def Sig.word (g : Sig) : Nat :=
  (match g.st with | 1 => 1 | 2 => 2 | _ => 0) * 2 ^ 62 + g.out.toNat * 2 ^ 61 + g.cmb * 2 ^ 58 + g.ty * 2 ^ 54 + g.cnt * 2 ^ 34 +
  g.inst * 2 ^ 10 + (match g.pst with | 1 => 1 | 2 => 2 | _ => 0) * 2 ^ 8
/-- The key of a signal's word in one of the table's three arrays, at byte offset `arr` (02 R31). -/
def Domain.sigKey (d : Domain) (arr sig : Nat) : Nat :=
  sharedKey (qkDie d.home) (sharedOfLocal (qkQuad d.home) (d.sigOff + arr + 8 * sig))
/-- Memory with a signal's entry, current value and previous value in the domain's table (02 R31). -/
def Domain.tableMem (d : Domain) (sig : Nat) (g : Sig) (m : Memory) : Memory :=
  ((m.write (d.sigKey 0 sig) (bytesOf 8 g.word)).write (d.sigKey 0x8000 sig) (bytesOf 8 g.val)).write (d.sigKey 0x10000 sig) (bytesOf 8 g.prev)
/-- An entry is written: the record of the domain, and the words of the table that stand in its home bank (02 R31). -/
def State.setEntry (s : State) (dom sig : Nat) (g : Sig) : State :=
  { s.modDomain dom (fun d => { d with sigs := d.sigs.set sig g }) with
    mem := match s.domain? dom with | some d => d.tableMem sig g s.mem | none => s.mem }
/-- The die of a domain's home bank. -/
def State.homeDie (s : State) (dom : Nat) : Nat := ((s.domain? dom).map fun d => qkDie d.home).getD 0
/-- Claims of a signal that are live, and cedes on their way to its entry: what its count counts. -/
def State.claimsOn (s : State) (dom sig : Nat) : Nat :=
  ((s.threads.filter (·.dom == dom)).map fun t => (t.claims.filter fun c => c.sig == sig && c.live).length).sum +
  (s.reqs.filter fun r => r.dom == dom && r.op == .cede sig).length
/-- The bank's access to an entry in the current instant (02 R33). -/
def State.bringIn (s : State) (dom sig : Nat) : State :=
  match s.domain? dom with
  | none => s
  | some d => s.setEntry dom sig ((d.sigs.getD sig Sig.none).bring d.inst (s.claimsOn dom sig) [])

/-- Remember a decided status on a core; 32 are kept (05 R93). DESIGN CHOICE (log 74): a full cache drops the entry filled
longest ago. -/
def State.remember (s : State) (core dom sig : Nat) (present : Bool) : State :=
  let c := s.core core
  let rest := c.status.filter fun e => !(e.1 == dom && e.2.1 == sig)
  s.setCore { c with status := ((dom, sig, present) :: rest).take Config.statusCache }

/-- The quad of a domain's home bank. -/
def State.homeBank (s : State) (dom : Nat) : Nat := ((s.domain? dom).map (·.home)).getD 0
/-- The key of a signal's entry. -/
def State.sigKey (s : State) (dom sig : Nat) : Nat := ((s.domain? dom).map fun d => d.sigKey 0 sig).getD 0
/-- Threads parked on an object, in the order of their identifiers. -/
def State.parkedOn (s : State) (obj ok : Nat) : List Thread :=
  s.threads.filter fun t => match t.wait with | some w => w.why == .parked obj ok | none => false
/-- Whether a wait on a signal is that of a `pres`: it writes no register, which a width of 0 marks. -/
def Wait.isPres (w : Wait) : Bool := w.fin.width == 0
/-- Wake one thread parked on a signal if its condition holds (02 R38, R40). -/
def State.wakeOnSig (s : State) (dom sig : Nat) (t : Thread) : State :=
  let e := s.entry dom sig
  match t.wait with
  | none => s
  | some w =>
    if w.isPres then
      if e.st = 0 then s
      else (s.remember (gidCk t.gid) dom sig (e.st == 1)).wake t.gid (s.homeDie dom) 0 0 (e.st == 1)
    else if e.st != 0 && e.cnt == 0 then s.wake t.gid (s.homeDie dom) e.current 0 false
    else s
/-- After a change of an entry: those of its waiters wake whose condition holds; without a waiter its hold edges go. -/
def State.settleSig (s : State) (dom sig : Nat) : State :=
  let obj := sigObj dom sig
  let s := (s.parkedOn obj okSig).foldl (fun s t => s.wakeOnSig dom sig t) s
  if (s.parkedOn obj okSig).isEmpty then { s with edges := s.edges.filter fun e => !(e.ek == 2 && e.obj == obj) } else s
/-- Hold edges from a signal to the threads with a live claim on it (02 R38, 11 R190). -/
def State.claimEdges (s : State) (dom sig : Nat) : State :=
  let obj := sigObj dom sig
  let gs := (s.threads.filter fun t => t.dom == dom && t.claims.any fun c => c.sig == sig && c.live).map (·.gid)
  gs.foldl (fun s g => if (s.holdEdges obj).any (·.gid == g) then s else s.hold (s.homeDie dom) obj okSig 2 g) s
/-- Park the issuing thread on a signal (02 R38, R40). -/
def State.parkSig (s : State) (sig : Nat) (fin : Done) : State :=
  (s.claimEdges s.myDom sig).parkMe (s.homeDie s.myDom) (sigObj s.myDom sig) okSig fin

/-- The entry changes as one cede asks: its count falls, and an undecided signal without claims is absent (02 R36). -/
def Sig.cedeOne (g : Sig) : Sig :=
  { g with cnt := g.cnt - 1, st := if g.st = 0 && g.cnt ≤ 1 then 2 else g.st }
def State.applyCede (s : State) (dom sig : Nat) : State :=
  (s.setEntry dom sig (s.entry dom sig).cedeOne).settleSig dom sig
/-- Step `CEDE_APPLY`: a posted cede at its bank (02 R35, R36). -/
def execCedeApply (req : Nat) (s : State) : Out :=
  match s.reqs.find? (·.id == req) with
  | some r =>
    match r.op with
    | .cede sig => .next (if s.mayPerform r then ((s.bringIn r.dom sig).dropReq r.id).applyCede r.dom sig else s)
    | _ => .next s
  | none => .next s

/-- Post one cede of a thread through its core's store buffer; the claim is no longer live (05 R92, R86). -/
def State.postCede (s : State) (g sig : Nat) : State :=
  let t := s.thread g
  let s := s.modThread g fun t => { t with claims := t.claims.map fun c => if c.sig == sig then { c with live := false } else c }
  let s := { s with edges := s.edges.filter fun e => !(e.ek == 2 && e.obj == sigObj t.dom sig && e.gid == g) }
  match s.domain? t.dom with
  | none => s
  | some d =>
    let k := d.sigKey 0 sig
    (s.requestOf g (.cede sig) k 8 k (s.dscope t.dom) true false true).2
/-- The signals on which a thread holds a live claim. -/
def Thread.liveSigs (t : Thread) : List Nat := (t.claims.filter (·.live)).map (·.sig)
/-- Room in a core's store buffer. -/
def State.roomAt (s : State) (core n : Nat) : Bool := decide (s.bufferUse core + n ≤ Config.storeBuffer)

end Sys2Proof.Machine
end

