-- ==== Sys2Proof/Machine/Streams.lean ====
section
/-!
DEFINITION. What the homes of incremental queues and of network barriers do: pushing, consolidating, closing and serving
(18 R319 to R322; 20 R355 to R357), and completing a barrier (06 R117, 09 R174, R175). Producers and consumers are kept
by their threads' unique numbers.
-/
namespace Sys2Proof.Machine

def State.iq? (s : State) (id : Nat) : Option Iq := s.iqs.find? (·.id == id)
def State.modIq (s : State) (id : Nat) (f : Iq → Iq) : State :=
  { s with iqs := s.iqs.map fun q => if q.id == id then f q else q }

def Iq.openN (q : Iq) : Nat := (q.recs.filter (·.isOpen)).length
/-- Merge open records of equal key, value and time into the first of them (18 R321). -/
def mergeOpen (acc : List (IqRec × Bool)) (r : IqRec × Bool) : List (IqRec × Bool) :=
  let same (x : IqRec × Bool) := x.1.key == r.1.key && x.1.val == r.1.val && x.1.time == r.1.time
  if acc.any same then acc.map fun x => if same x then ({ x.1 with mult := (x.1.mult + r.1.mult) % 2 ^ 32 }, x.2) else x
  else acc ++ [r]
/-- A consolidation: the queue after it, and the records it sealed (18 R321). -/
def Iq.consolidate (q : Iq) : Iq × Nat :=
  let tagged := (List.range q.recs.length).map fun i => (q.recs.getD i ⟨0, 0, 0, 0, false⟩, decide (i < q.ringN))
  let sealed := tagged.filter fun x => !x.1.isOpen
  let kept := ((tagged.filter fun x => x.1.isOpen).foldl mergeOpen []).filter fun x => x.1.mult != 0
  let all := sealed ++ kept.map fun x => ({ x.1 with isOpen := false }, x.2)
  ({ q with recs := all.map (·.1), ringN := (all.filter (·.2)).length }, kept.length)
/-- Records in the spill, and whether a push goes there (18 R319). -/
def Iq.spillN (q : Iq) : Nat := q.recs.length - q.ringN
def Iq.toSpill (q : Iq) : Bool := q.spillN != 0 || decide (Config.iqRing ≤ q.ringN)
/-- Append an open record, in the ring or in the spill (18 R319). -/
def Iq.append (q : Iq) (r : IqRec) : Iq :=
  { q with recs := q.recs ++ [r], ringN := if q.toSpill then q.ringN else q.ringN + 1 }
/-- A push by a bound producer: its status and the queue after it (18 R320, R321; 20 R355). -/
def Iq.push (q : Iq) (key val mult time : Nat) : Nat × Iq :=
  if mult = 0 then (2, q)
  else if q.consGone || (q.toSpill && decide (q.cap ≤ q.spillN)) then (1, q)
  else
    let q := q.append { key := key, val := val, mult := mult, time := time, isOpen := true }
    (0, if Config.iqOpen ≤ q.openN then q.consolidate.1 else q)
/-- The oldest sealed record, and the queue without it. -/
def Iq.pop (q : Iq) : Option (IqRec × Iq) :=
  match q.recs with
  | r :: rest =>
    if r.isOpen then none
    else if q.ringN = 0 then some (r, { q with recs := rest, head := (q.head + 1) % q.cap })
    else some (r, { q with recs := rest, ringN := q.ringN - 1, rhead := (q.rhead + 1) % Config.iqRing })
  | [] => none
/-- Whether what a pause of a thread releases is performed: its earlier accesses at `dscope` (05 R86, 18 R323). -/
def State.pauseSeen (s : State) (t : Thread) : Bool := !s.unperformedOf t.gid (s.dscope t.dom)
/-- Whether every producer has paused or ended, what their pauses release is performed, and no copy aims at the queue (18
R322, R323). -/
def State.iqDone (s : State) (q : Iq) : Bool :=
  (q.prods.all fun u => match s.byUid u with
    | some t => (t.stat == .paused || t.stat == .suspended) && s.pauseSeen t
    | none => true) &&
  !(s.copies.any fun c => c.kind == 0 && bits c.w3 25 23 == 2 && c.w1 == q.id)
/-- The 32 bytes of a record, and a record in four registers (18 R315). -/
def IqRec.words (r : IqRec) : Nat :=
  r.key + 2 ^ 64 * r.val + 2 ^ 192 * (r.mult + 2 ^ 32 * r.time)
/-- The record that 256 bits of memory hold, open or sealed as it was. -/
def IqRec.reread (r : IqRec) (v : Nat) : IqRec :=
  { r with key := v % 2 ^ 64, val := v / 2 ^ 64 % 2 ^ 128, mult := v / 2 ^ 192 % 2 ^ 32, time := v / 2 ^ 224 % 2 ^ 32 }
/-- The virtual address of record `i` of a queue, where it stands in the spill. -/
def Iq.spillVa (q : Iq) (i : Nat) : Nat := (q.spill + 32 * ((q.head + (i - q.ringN)) % q.cap)) % 2 ^ 48
/-- Where record `i` of a queue stands: in the ring, in the home bank's local storage, or in the spill, in DRAM through the mapping
of the queue's domain as the home's tables hold it; none where that is gone (11 R210; 18 R315, R319; 21 R372; log 70). -/
def State.iqPlace (s : State) (q : Iq) (i : Nat) : Option Nat :=
  if i < q.ringN then
    some (sharedKey (qkDie q.bank) (sharedOfLocal (qkQuad q.bank) (bankLocal (sharedOff q.id) + 32 * ((q.rhead + i) % Config.iqRing))))
  else
    match s.domain? q.dom with
    | none => none
    | some d =>
      (s.peekTlb q.bank d.part d.asid 4 (q.spillVa i)).map fun e => dramKey (e.pa + (q.spillVa i - e.va))
/-- The home uses the mapping of record `i` of a spill: its tables keep the entry (11 R204, R210). -/
def State.iqTouch (s : State) (q : Iq) (i : Nat) : State :=
  if i < q.ringN then s
  else
    match s.domain? q.dom with
    | none => s
    | some d =>
      match s.lookupTlb q.bank d.asid 4 (q.spillVa i) with
      | (some _, s) => s
      | (none, s) =>
        match s.walkTables d.part d.asid 4 (q.spillVa i) with
        | some e => (s.fillDie (qkDie q.bank) e).fillQuad q.bank e
        | none => s
/-- A queue with its spilled records as the DRAM holds them. -/
def State.iqIn (s : State) (q : Iq) : Iq :=
  { q with recs := (List.range q.recs.length).zip q.recs |>.map fun (i, r) =>
      if i < q.ringN then r else match s.iqPlace q i with | some k => r.reread (s.readN k 32) | none => r }
/-- A queue is kept, with its records where they stand. -/
def State.iqOut (s : State) (q : Iq) : State :=
  let placed := (List.range q.recs.length).zip (q.recs.zip ((List.range q.recs.length).map (s.iqPlace q)))
  placed.foldl (fun s (i, r, k) =>
    match k with
    | some k => if s.readN k 32 = r.words then s else (s.iqTouch q i).homeWrite k (bytesOf 32 r.words)
    | none => s) (s.modIq q.id fun _ => q)
/-- Write four consecutive registers of a thread from a 256-bit value. -/
def Thread.setGroup (t : Thread) (d v : Nat) : Thread :=
  (((t.setReg d (wd v)).setReg (d + 1) (wd (v / 2 ^ 64))).setReg (d + 2) (wd (v / 2 ^ 128))).setReg (d + 3) (wd (v / 2 ^ 192))
/-- Serve the consumer parked on a queue, if it has a sealed record or is closed (18 R322). -/
def State.iqServe (s : State) (id : Nat) : State :=
  match s.iq? id with
  | none => s
  | some q =>
    match s.parkedOn id okQueue with
    | [] => s
    | t :: _ =>
      let d := qkDie q.bank
      match (s.iqIn q).pop with
      | some (r, q') =>
        let base := (t.wait.map (·.fin.d)).getD 0
        let s := ((s.iqTouch q 0).iqOut q').modThread t.gid fun t =>
          { t.setGroup base r.words with wait := t.wait.map fun w => { w with fin := { w.fin with d := 0 } } }
        s.wake t.gid d 0 0 true
      | none =>
        if q.closed then
          (s.modThread t.gid fun t => { t with wait := t.wait.map fun w => { w with fin := { w.fin with d := 0 } } }).wake t.gid d 0 0 false
        else s
/-- Hold edges of a queue: to its producers not yet paused, while its consumer is parked (11 R190, 18 R322). -/
def State.iqEdges (s : State) (q : Iq) : State :=
  let live := (q.prods.filterMap s.byUid).filter fun t => t.stat != .paused && t.stat != .suspended
  let s := { s with edges := s.edges.filter fun e =>
    !(e.ek == 1 && e.obj == q.id && e.ok == okQueue && !(live.any fun t => t.gid == e.gid)) }
  if (s.parkedOn q.id okQueue).isEmpty then { s with edges := s.edges.filter fun e => !(e.ek == 1 && e.obj == q.id && e.ok == okQueue) }
  else live.foldl (fun s t => if (s.holdEdges q.id).any (fun e => e.gid == t.gid && e.ok == okQueue) then s
                              else s.hold (qkDie q.bank) q.id okQueue 1 t.gid) s
/-- One queue after a change of its producers: it closes or opens, and its consumer is served (18 R322). -/
def State.iqSettleOne (s : State) (id : Nat) : State :=
  match s.iq? id with
  | none => s
  | some q =>
    let fin := s.iqDone q
    let s := if fin && !q.closed then s.iqOut { (s.iqIn q).consolidate.1 with closed := true }
      else if !fin && q.closed then s.modIq id fun q => { q with closed := false } else s
    match s.iq? id with
    | some q => (s.iqServe id).iqEdges q
    | none => s
/-- A push by a bound producer at the queue's home, and the consumer served (18 R320, R321): its status. -/
def State.iqPush (s : State) (q : Iq) (rec time : Nat) : Nat × State :=
  let (st, q') := (s.iqIn q).push (rec % 2 ^ 64) (rec / 2 ^ 64 % 2 ^ 128) (rec / 2 ^ 192 % 2 ^ 32) time
  (st, if st = 0 then (s.iqOut q').iqServe q.id else s)
/-- Whether a queue is to close or to open. -/
def State.iqDue (s : State) : Option Iq := s.iqs.find? fun q => s.iqDone q != q.closed
/-- Every queue of a domain. -/
def State.iqSettle (s : State) (dom : Nat) : State :=
  ((s.iqs.filter (·.dom == dom)).map (·.id)).foldl State.iqSettleOne s
/-- End the bindings of a terminated thread (18 R316, 20 R355). -/
def State.iqUnbind (s : State) (uid : Nat) : State :=
  { s with iqs := s.iqs.map fun q =>
      let q := { q with prods := q.prods.filter (· != uid) }
      if q.cons == some uid then { q with cons := none, consGone := true, recs := [], ringN := 0 } else q }
/-- Step `IQ_SPILL_REFILL`: the oldest spilled record moves into a free ring entry (18 R319). -/
def execIqSpillRefill (queue : Nat) (s : State) : Out :=
  match s.iq? queue with
  | none => .next s
  | some q =>
    .next (if q.ringN < Config.iqRing && q.spillN != 0 then (s.iqTouch q q.ringN).iqOut { s.iqIn q with ringN := q.ringN + 1, head := (q.head + 1) % q.cap } else s)

/-- Bind a thread to a queue as producer or consumer: the status (18 R316). -/
def State.bindIq (s : State) (q : Iq) (who : Option Thread) (prod : Bool) : Nat × State :=
  match who with
  | none => (3, s)
  | some t =>
    if prod then
      if q.prods.contains t.uid then (0, s)
      else if Config.iqProducers ≤ q.prods.length then (2, s)
      else (0, (s.modIq q.id fun q => { q with prods := q.prods ++ [t.uid] }).iqSettleOne q.id)
    else if q.cons == some t.uid then (0, s)
    else if q.cons.isSome then (1, s)
    else (0, s.modIq q.id fun q => { q with cons := some t.uid })
/-- A binding is performed at the home's reply (18 R316); a queue deleted meanwhile is none of the domain's any longer. -/
def State.bindReply (s : State) (r : Req) (oth : Bool) (tid : Nat) (prod : Bool) : State :=
  match s.iq? r.va with
  | none => s.trapWaiting r.gid { cls := clsProtection, tval := r.va, kind := 0 } false
  | some q =>
    let (v, s) := s.bindIq q (if oth then s.threads.find? fun t => t.dom == r.dom && t.tidNo == tid else s.byUid r.uid) prod
    s.complete r.gid v 0 false
/-- Step `REPLY_ARRIVAL`: the reply completes the waiting instruction, or traps at it (02 R24, 03 R61; 12 R221). -/
def execReplyArrival (req : Nat) (s : State) : Out :=
  match s.reqs.find? (·.id == req) with
  | some r =>
    match r.res with
    | none => .next s
    | some x =>
      if r.hop.cur != r.hop.dst then .next s
      else
        let s := (s.dropReq r.id).sampled (gidQk r.gid) 0 (s.clock - r.born)
        let t := s.thread r.gid
        if r.op = .word || r.op = .line then
          -- words for the chunk that waits for them, with whether their codewords are uncorrectable (15 R262; 17 R290)
          let got := if r.op = .word then [(r.key, x.val, x.trap.isSome)]
            else (List.range 8).map fun i => (r.key + 8 * i, x.val / 2 ^ (64 * i) % 2 ^ 64, tbit x.val2 i)
          .next (match t.wait with
            | some { why := .gather since ws, .. } =>
              if t.uid = r.uid && since ≤ r.seq && ws.any (·.1 == r.key) then
                s.modThread r.gid fun t => { t with words := got ++ t.words }
              else s
            | _ => s)
        else if t.uid != r.uid || (match t.wait with | some w => w.why != .reply r.id | none => true) then .next s
        else
          match x.trap with
          | some tr => .next (s.trapWaiting r.gid tr false)
          | none => .next (match r.op with
            | .iqbind oth tid prod => s.bindReply r oth tid prod
            | .stat third => (s.putFor r.gid (((s.thread r.gid).wait.map (·.fin.d2 + 1)).getD 0) (wd third)).complete r.gid x.val x.val2 false
            | _ => s.complete r.gid x.val x.val2 x.pred)
  | none => .next s

/-- The threads that take part in a network barrier: of a lost die, none any longer (09 R174, R175). -/
def State.participants (s : State) (b : NetBar) : List Thread :=
  s.threads.filter fun t => t.dom == b.dom && netObj b.dom b.scope t.gid == b.obj && !s.lostDies.contains (gidDie t.gid)
/-- The reduction of the operands of a barrier (09 R173, R174). -/
def NetBar.reduced (b : NetBar) : Nat :=
  let xs := (b.arrivals.filter fun a => !a.gone).map (·.operand)
  match b.red with
  | 1 => xs.foldl (fun a x => (a + x) % 2 ^ 64) 0
  | 2 => match xs with | [] => 0 | x :: r => r.foldl (fun a x => if signed 64 a < signed 64 x then x else a) x
  | 3 => match xs with | [] => 0 | x :: r => r.foldl (fun a x => if signed 64 x < signed 64 a then x else a) x
  | _ => 0
/-- Wake the waiters of a completed barrier (06 R117; 09 R174, R175). -/
def State.finishBar (s : State) (b : NetBar) : State :=
  let s := { s with netBars := s.netBars.filter (· != b) }
  let bad := b.poisoned && b.red != 0
  let v := if bad then 0 else b.reduced
  (b.arrivals.filter fun a => !a.gone).foldl (fun s a => s.wake a.gid (netDie a.gid b.scope) (if bad then 2 else 0) v false) s
/-- Complete one barrier: a drain goes to every bank that a participant named, and the waiters wake when the last of them is
over (06 R117). -/
def State.completeBar (s : State) (b : NetBar) : State :=
  match dedup (b.arrivals.filterMap (·.drain)) with
  | [] => s.finishBar b
  | banks => { s with
      netBars := s.netBars.map fun x => if x == b then { x with draining := some banks } else x,
      drains := s.drains ++ banks.map fun k => { bank := k, uid := 0, dom := b.dom, obj := b.obj } }
/-- Complete the barriers of a domain whose participants have all arrived (09 R174). -/
def State.barSettle (s : State) (dom : Nat) : State :=
  (s.netBars.filter fun b => b.dom == dom && b.draining.isNone).foldl (fun s b =>
    if (s.participants b).all fun t => b.arrivals.any (·.uid == t.uid) then s.completeBar b else s) s
/-- A barrier's drain of a bank is over (06 R117). -/
def State.barDrained (s : State) (m : DrainMsg) : State :=
  match s.netBars.find? fun b => b.dom == m.dom && b.obj == m.obj && b.draining.isSome with
  | none => s
  | some b =>
    match (b.draining.getD []).filter (· != m.bank) with
    | [] => s.finishBar b
    | left => { s with netBars := s.netBars.map fun x => if x == b then { x with draining := some left } else x }
/-- Step `DRAIN` of a bank: the first drain that has been sent to it (06 R117, R119; 09 R172). -/
def execDrain (bank : Nat) (s : State) : Out :=
  match s.drains.find? (·.bank == bank) with
  | none => .next s
  | some m =>
    let s := { s with drains := s.drains.erase m }.drainBank bank
    .next (if m.uid = 0 then s.barDrained m else s.fenceDrained m.uid)

end Sys2Proof.Machine
end

