-- ==== Sys2Proof/Machine/Life.lean ====
section
/-!
DEFINITION. How a reaction, a thread and a domain end: `pause` and `halt` (02 R35), `join` (02 R46), what goes with a
thread (02 R45; 11 R195, R197; 18 R316; 20 R349, R355, R370), gangs (02 R29, R99), and the end of a domain (02 R30).
-/
namespace Sys2Proof.Machine

/-- Wake the threads parked on a registered object with a status (12 R213). -/
def State.wakeReg (s : State) (obj status : Nat) : State :=
  (s.parkedOn obj okReg).foldl (fun s t => s.wake t.gid (keyDie obj (gidDie t.gid)) status 0 false) s
/-- Whether a registered object has a holder (12 R213). -/
def State.regHeld (s : State) (obj : Nat) : Bool := s.edges.any fun e => e.ek != 0 && e.obj == obj && e.ok == okReg
/-- The hold edges of a terminated thread go; objects that lose their last holder orphan their waiters (11 R197). -/
def State.releaseHolds (s : State) (g : Nat) : State :=
  let mine := s.edges.filter fun e => e.ek != 0 && e.gid == g
  let regs := dedup ((mine.filter (·.ok == okReg)).map (·.obj))
  let s := { s with edges := s.edges.filter fun e => !(e.ek != 0 && e.gid == g) }
  regs.foldl (fun s obj => if s.regHeld obj then s else s.wakeReg obj 3) s
/-- A quad's gang ends; its members go on alone (02 R99). -/
def State.dissolve (s : State) (g : Nat) : State :=
  if (s.gangOf g).isEmpty then s else s.setQuad { s.quad (gidQk g) with gang := none }

/-- Whether a thread is out of its reaction. -/
def Thread.resting (t : Thread) : Bool := t.stat == .paused || t.stat == .suspended
/-- End a thread's reaction with its PC at `pc`: its live claims are ceded and its watchdog count stops; while it is
stopped `wdStart` holds the count (02 R35, R48). -/
def State.pauseCore (s : State) (g pc : Nat) : State :=
  ((s.thread g).liveSigs.foldl (fun s n => s.postCede g n) s).modThread g fun t =>
    { t with stat := .paused, wait := none, wdRun := false, wdStart := s.clock - t.wdStart, pc := wd pc }
/-- The threads for which `pause` and `halt` of a thread act: itself, or every member of its gang (02 R29). -/
def State.wholeGang (s : State) (g : Nat) : List Nat :=
  let gs := (s.gangOf g).filter fun x => (s.thread? x).isSome
  if gs.isEmpty then [g] else gs
/-- A `join` that ends as a pause: the thread resumes at it. In a gang that pause acts for every member, each of which goes
on from where it stands; a member at its `join` evaluates it again by itself (02 R29, R46; 05 R95). -/
def State.pauseJoin (s : State) (g pc : Nat) : State :=
  let gs := s.wholeGang g
  let evals (x : Nat) : Bool := gs.length != 1 && (x == g || (match (s.thread x).wait with | some w => w.why == .children | none => false))
  gs.foldl (fun s x =>
    let t := s.thread x
    let s := (s.unwait x).pauseCore x (if x = g then pc else t.pc.toNat)
    if evals x then s.modThread x fun t => { t with
      wait := some { why := .children, again := true, half := false,
                     fin := { d := 0, d2 := 0, pd := 0, width := 8, sext := false, succ := t.pc.toNat } } }
    else s) s
/-- A child of the parent of number `u`'s list has paused or ended: a `join` that waits for it goes on, or its thread
pauses in turn (02 R46). -/
def State.joinStir (s : State) (u : Nat) : Nat → State
  | 0 => s
  | fuel + 1 =>
    let s := match s.byUid u with
      | some c => { s with edges := s.edges.filter fun e => e.obj != childObj c.gid }
      | none => s
    match s.threads.find? fun t => t.children.contains u && (match t.wait with | some w => w.why == .children && !w.again | none => false) with
    | none => s
    | some p =>
      let kids := p.children.filterMap s.byUid
      if kids.isEmpty then
        ((s.unwait p.gid).modThread p.gid fun t => { t with children := [] }).complete p.gid 0 0 false
      else if kids.all (·.resting) then
        ((s.pauseJoin p.gid p.pc.toNat).iqSettle p.dom).joinStir p.uid fuel
      else
        { s with edges := s.edges.filter fun e =>
            !(e.ek == 0 && e.gid == p.gid && !(kids.any fun c => childObj c.gid == e.obj && !c.resting)) }
def State.pauseThread (s : State) (g pc : Nat) : State :=
  let t := s.thread g
  ((s.pauseCore g pc).iqSettle t.dom).joinStir t.uid (s.threads.length + 1)

/-- Whether a request runs on to its home when its thread has ended (08 R142; 07 R135). -/
def Req.lasts (r : Req) : Bool :=
  r.posted || !r.comb.isEmpty || (match r.op with | .cas _ _ _ | .swap _ _ | .fadd _ _ | .updr _ _ => true | _ => false)
/-- A thread leaves its core: what it waits for is withdrawn, what it holds is given up, its bindings end. -/
def State.endThread (s : State) (g : Nat) : State :=
  match s.thread? g with
  | none => s
  | some t =>
    let s := ((s.withdraw g).dissolve g).abandon t.uid g
    let s := (s.releaseHolds g).iqUnbind t.uid
    let c := s.core (gidCk g)
    let s := s.setCore { c with deque := c.deque.filter fun e => e.task || e.uid != t.uid,
                                posted := c.posted.filter fun p => p.1 != gidSlot g,
                                released := c.released.filter (· != g) }
    let s : State := { s.dropThread g with
      sup := s.sup.filter fun x => x.gid != g, reqs := s.reqs.filter fun r => r.uid != t.uid || r.lasts,
      walks := s.walks.map fun w => { w with waiters := w.waiters.filter fun e => e.1 != g } }
    ((s.iqSettle t.dom).barSettle t.dom).joinStir t.uid (s.threads.length + 1)
/-- Note how a thread ended: its registers stand, without claims or guards, with the instant it ended in (01 R19, 02 R21). -/
def State.noteEnd (s : State) (t : Thread) : State :=
  let x : Thread := { t with stat := .terminated, claims := [], guards := [], wait := none, children := [] }
  { s with ended := s.ended.filter (fun e => e.thread.gid != t.gid) ++
      [{ thread := x, inst := ((s.domain? t.dom).map (·.inst)).getD 0 }] }
/-- `halt`: live claims are ceded, then the thread ends (02 R35). -/
def State.haltThread (s : State) (g : Nat) : State :=
  let s := (s.thread g).liveSigs.foldl (fun s n => s.postCede g n) s
  (match s.thread? g with | some t => s.noteEnd t | none => s).endThread g

/-- The end-status word (22 R385). -/
def endWord (kind cls gid : Nat) : Nat := kind + cls * 2 ^ 8 + gid * 2 ^ 16
/-- A rectangle of a domain that ends: a running sequencer goes on to the end of its operation, which nothing but a fault of its own
or a teardown stops; what is queued behind it goes (16 R282). -/
def Rect.ended (r : Rect) : List Rect := if r.st = 1 then [{ r with queue := r.queue.take 1, orphan := true }] else []
/-- What a domain held is freed: its tasks, barriers, queues, arrangements, rectangles, cached statuses and saves. -/
def State.freeDomain (s : State) (dom : Nat) : State :=
  { s with
    cores := s.cores.map fun c => { c with deque := c.deque.filter (·.dom != dom), post := c.post.filter (·.dom != dom),
                                           status := c.status.filter fun e => e.1 != dom },
    reqs := s.reqs.filter fun r => !(r.dom == dom && r.isCede),
    netBars := s.netBars.filter (·.dom != dom), iqs := s.iqs.filter (·.dom != dom), 
    arrs := (s.arrs.map fun a => { a with doms := a.doms.filter (· != dom) }).filter fun a => !a.doms.isEmpty,
    rects := s.rects.flatMap fun r => if r.dom == dom then r.ended else [r], saved := s.saved.filter (·.dom != dom) }
/-- A domain ends in a state with an end status: its threads are ended with no cede (02 R30, 22 R385). -/
def State.endDomain (s : State) (dom : Nat) (stat : DStat) (word val : Nat) : State :=
  let gs := (s.threads.filter (·.dom == dom)).map (·.gid)
  let s := gs.foldl (fun s g => (s.withdraw g).modThread g fun t => { t with wait := none }) s
  let s := gs.foldl State.endThread s
  (s.freeDomain dom).modDomain dom fun d => { d with stat := stat, endWord := word, endVal := val, endTval := 0 }
/-- Abort a domain (02 R30). -/
def State.abortDomain (s : State) (dom kind cls gid val : Nat) : State :=
  s.endDomain dom .aborted (endWord kind cls gid) val
/-- Abort a domain for a trap: the end status keeps its `sr.tval` too (11 R200). -/
def State.abortFor (s : State) (dom kind cls gid val tval : Nat) : State :=
  (s.abortDomain dom kind cls gid val).modDomain dom fun d => { d with endTval := tval }

end Sys2Proof.Machine
end

