-- ==== Sys2Proof/Machine/Flags.lean ====
section
/-!
DEFINITION. Conditions and predicates: the `cc` codes on words and on packed elements, the `fcc` codes on floats, and
predicate logic (03 R62; 05 R88, R107, R114; 17 R294). The machine keeps no arithmetic flags (05 R100, R113); predicates
are the only condition state.
-/
namespace Sys2Proof.Machine

/-- A `cc` code on two words (05 R88). -/
def ccHolds (c : Nat) (x y : Word) : Bool :=
  match c with
  | 0 => x == y
  | 1 => x != y
  | 2 => x.slt y
  | 3 => x.sle y
  | 4 => y.slt x
  | 5 => y.sle x
  | 6 => x.ult y
  | 7 => x.ule y
  | 8 => y.ult x
  | _ => y.ule x

/-- A `cc` code on two integer elements of a format: `lt` to `ge` by its signedness, `ltu` to `geu` unsigned (17 R294). -/
def ccElem (f c x y : Nat) : Bool :=
  let a := intVal f x
  let b := intVal f y
  match c with
  | 0 => x == y
  | 1 => x != y
  | 2 => decide (a < b)
  | 3 => decide (a ≤ b)
  | 4 => decide (b < a)
  | 5 => decide (b ≤ a)
  | 6 => decide (x < y)
  | 7 => decide (x ≤ y)
  | 8 => decide (y < x)
  | _ => decide (y ≤ x)

/-- An `fcc` code on two floats; a NaN on either side makes the pair unordered (05 R114). -/
def fccHolds (c : Nat) (x y : FV) : Bool :=
  let un := x.isNaN || y.isNaN
  match c with
  | 0 => x.eq y
  | 1 => un || !(x.eq y)
  | 2 => x.lt y
  | 3 => x.lt y || x.eq y
  | 4 => y.lt x
  | 5 => y.lt x || x.eq y
  | 6 => un
  | _ => !un

/-- The `plog` operations (05 R107). -/
def plogOp (op : Nat) (x y : Bool) : Bool :=
  match op with
  | 0 => x && y
  | 1 => x || y
  | 2 => x != y
  | 3 => x && !y
  | 4 => x || !y
  | _ => !x

end Sys2Proof.Machine
end

