-- ==== Sys2Proof/Machine/Integer.lean ====
section
/-!
DEFINITION. The integer model, logic, shifts, bits, compares, moves, addresses, FP32 scalars: opcodes 0x18 to 0x34, 0x35
between registers, 0x36 to 0x3F (05 R100 to R114). All are local (05 R86).
-/
namespace Sys2Proof.Machine

/-- Write a result register, or a result predicate, and go on. -/
def State.res (s : State) (d : Reg) (v : Word) : Out := (s.put d v).ok
def State.resP (s : State) (p : PReg) (v : Bool) : Out := (s.putP p v).ok

/-- Element width in bits (05 R85). -/
def elBits (w : ElW) : Nat := 64 / 2 ^ w.code

/-- Element results of 05 R101 and R102 on elements of width `w`, given and returned as `w`-bit numbers. -/
def elAdd (w x y : Nat) : Nat := (x + y) % 2 ^ w
def elSub (w x y : Nat) : Nat := (x + (2 ^ w - y % 2 ^ w)) % 2 ^ w
def elMul (w x y : Nat) : Nat := x * y % 2 ^ w
/-- An element as an integer of the signedness of the `u` bit. -/
def elInt (w : Nat) (u : Bool) (x : Nat) : Int := if u then ((x % 2 ^ w : Nat) : Int) else signed w x
def elMulh (w : Nat) (u : Bool) (x y : Nat) : Nat := unsignedOf w (elInt w u x * elInt w u y / (2 ^ w : Nat))
/-- Quotient toward zero; by zero all ones; the most negative element by -1 is itself (R102). -/
def elDiv (w : Nat) (u : Bool) (x y : Nat) : Nat :=
  if y % 2 ^ w = 0 then 2 ^ w - 1 else unsignedOf w ((elInt w u x).tdiv (elInt w u y))
/-- Remainder of the dividend's sign; by zero the dividend (R102). -/
def elRem (w : Nat) (u : Bool) (x y : Nat) : Nat :=
  if y % 2 ^ w = 0 then x % 2 ^ w else unsignedOf w ((elInt w u x).tmod (elInt w u y))
def elMin (w : Nat) (u : Bool) (x y : Nat) : Nat := if elInt w u y < elInt w u x then y else x
def elMax (w : Nat) (u : Bool) (x y : Nat) : Nat := if elInt w u x < elInt w u y then y else x
def elAbs (w x : Nat) : Nat := unsignedOf w (signed w x).natAbs
/-- Shifts of R104; an amount of the width or more empties the element or fills it with its sign. -/
def elShl (w x k : Nat) : Nat := if w ≤ k then 0 else x * 2 ^ k % 2 ^ w
def elShr (w x k : Nat) : Nat := if w ≤ k then 0 else x / 2 ^ k
def elSar (w x k : Nat) : Nat := unsignedOf w (signed w x / (2 ^ min k w : Nat))
def elRol (w x k : Nat) : Nat := x * 2 ^ (k % w) % 2 ^ w + x / 2 ^ (w - k % w)

/-- One packed operation on two registers, or on a register and one amount for every element. -/
def State.packed (s : State) (d a b : Reg) (w : ElW) (f : Nat → Nat → Nat → Nat) : Out :=
  s.res d (map2 (elBits w) (f (elBits w)) (s.g a) (s.g b))
def State.packedImm (s : State) (d a : Reg) (w : ElW) (imm : BitVec 32) (f : Nat → Nat → Nat → Nat) : Out :=
  s.res d (map1 (elBits w) (fun x => f (elBits w) x imm.toNat) (s.g a))

/-- `ADD` (05 R101). -/
def execAdd (d a b : Reg) (w : ElW) (s : State) : Out := s.packed d a b w elAdd
/-- `SUB` (05 R101). -/
def execSub (d a b : Reg) (w : ElW) (s : State) : Out := s.packed d a b w elSub
/-- `ADDI` (05 R101). -/
def execAddi (d a : Reg) (imm : BitVec 32) (s : State) : Out := s.res d (s.g a + sxImm imm)
/-- `MUL` (05 R101). -/
def execMul (d a b : Reg) (w : ElW) (s : State) : Out := s.packed d a b w elMul
/-- `MULH` (05 R101). -/
def execMulh (d a b : Reg) (u : Bool) (w : ElW) (s : State) : Out := s.packed d a b w fun w => elMulh w u
/-- `DIV` (05 R101, R102). -/
def execDiv (d a b : Reg) (u : Bool) (w : ElW) (s : State) : Out := s.packed d a b w fun w => elDiv w u
/-- `REM` (05 R101, R102). -/
def execRem (d a b : Reg) (u : Bool) (w : ElW) (s : State) : Out := s.packed d a b w fun w => elRem w u
/-- `MIN` (05 R101). -/
def execMin (d a b : Reg) (u : Bool) (w : ElW) (s : State) : Out := s.packed d a b w fun w => elMin w u
/-- `MAX` (05 R101). -/
def execMax (d a b : Reg) (u : Bool) (w : ElW) (s : State) : Out := s.packed d a b w fun w => elMax w u
/-- `ABS` (05 R101). -/
def execAbs (d a : Reg) (w : ElW) (s : State) : Out := s.res d (map1 (elBits w) (elAbs (elBits w)) (s.g a))
/-- `AND` (05 R103). -/
def execAnd (d a b : Reg) (s : State) : Out := s.res d (s.g a &&& s.g b)
/-- `OR` (05 R103). -/
def execOr (d a b : Reg) (s : State) : Out := s.res d (s.g a ||| s.g b)
/-- `XOR` (05 R103). -/
def execXor (d a b : Reg) (s : State) : Out := s.res d (s.g a ^^^ s.g b)
/-- `ANDN` (05 R103). -/
def execAndn (d a b : Reg) (s : State) : Out := s.res d (s.g a &&& ~~~(s.g b))
/-- `ORN` (05 R103). -/
def execOrn (d a b : Reg) (s : State) : Out := s.res d (s.g a ||| ~~~(s.g b))
/-- `SHL` (05 R104). -/
def execShl (d a b : Reg) (w : ElW) (s : State) : Out := s.packed d a b w elShl
/-- `SHL_IMM` (05 R104). -/
def execShlImm (d a : Reg) (w : ElW) (imm : BitVec 32) (s : State) : Out := s.packedImm d a w imm elShl
/-- `SHR` (05 R104). -/
def execShr (d a b : Reg) (w : ElW) (s : State) : Out := s.packed d a b w elShr
/-- `SHR_IMM` (05 R104). -/
def execShrImm (d a : Reg) (w : ElW) (imm : BitVec 32) (s : State) : Out := s.packedImm d a w imm elShr
/-- `SAR` (05 R104). -/
def execSar (d a b : Reg) (w : ElW) (s : State) : Out := s.packed d a b w elSar
/-- `SAR_IMM` (05 R104). -/
def execSarImm (d a : Reg) (w : ElW) (imm : BitVec 32) (s : State) : Out := s.packedImm d a w imm elSar
/-- `ROL` (05 R104). -/
def execRol (d a b : Reg) (w : ElW) (s : State) : Out := s.packed d a b w elRol
/-- `ROL_IMM` (05 R104). -/
def execRolImm (d a : Reg) (w : ElW) (imm : BitVec 32) (s : State) : Out := s.packedImm d a w imm elRol

/-- Zero bits before the first one from bit `n - 1` down, and from bit `k` up; one bits; bits reversed (05 R105). -/
def leadZeros (x : Nat) : Nat → Nat
  | 0 => 0
  | n + 1 => if tbit x n then 0 else leadZeros x n + 1
def trailZeros (x : Nat) : Nat → Nat → Nat
  | 0, _ => 0
  | n + 1, k => if tbit x k then 0 else trailZeros x n (k + 1) + 1
def onesIn (x : Nat) : Nat → Nat
  | 0 => 0
  | n + 1 => onesIn x n + (tbit x n).toNat
def reversed (x : Nat) : Nat → Nat
  | 0 => 0
  | n + 1 => reversed x n + (tbit x n).toNat * 2 ^ (63 - n)
/-- `CLZ` (05 R105). -/
def execClz (d a : Reg) (s : State) : Out := s.res d (wd (leadZeros (s.gv a) 64))
/-- `CTZ` (05 R105). -/
def execCtz (d a : Reg) (s : State) : Out := s.res d (wd (trailZeros (s.gv a) 64 0))
/-- `POPC` (05 R105). -/
def execPopc (d a : Reg) (s : State) : Out := s.res d (wd (onesIn (s.gv a) 64))
/-- `BREV` (05 R105). -/
def execBrev (d a : Reg) (s : State) : Out := s.res d (wd (reversed (s.gv a) 64))
/-- `BFX` (05 R106). -/
def execBfx (d a : Reg) (pos : Fin 64) (e : Fin 128) (c : Fin 32) (s : State) : Out :=
  let f := s.gv a / 2 ^ pos.val % 2 ^ e.val
  s.res d (if c.val = 1 then wdInt (signed e.val f) else wd f)
/-- `BFI` (05 R106). -/
def execBfi (d a : Reg) (pos : Fin 64) (e : Fin 128) (s : State) : Out :=
  s.res d (wd (setBits (s.gv d) (pos.val + e.val - 1) pos.val (s.gv a)))

/-- `CMP` (05 R107). -/
def execCmp (pd : PReg) (a b : Reg) (cc : Fin 64) (s : State) : Out := s.resP pd (ccHolds cc.val (s.g a) (s.g b))
/-- `CMPI` (05 R107). -/
def execCmpi (pd : PReg) (a : Reg) (cc : Fin 64) (imm : BitVec 32) (s : State) : Out :=
  s.resP pd (ccHolds cc.val (s.g a) (sxImm imm))
/-- `SEL` (05 R107). -/
def execSel (d : Reg) (pc : PReg) (a b : Reg) (s : State) : Out := s.res d (if s.p pc then s.g a else s.g b)
/-- `PLOG` (05 R107). -/
def execPlog (pd pa pb : PReg) (op : Fin 64) (s : State) : Out := s.resP pd (plogOp op.val (s.p pa) (s.p pb))

/-- `MOVI` (05 R108). -/
def execMovi (d : Reg) (imm : BitVec 32) (s : State) : Out := s.res d (sxImm imm)
/-- `MOVI_ZX` (05 R108). -/
def execMoviZx (d : Reg) (imm : BitVec 32) (s : State) : Out := s.res d (wd imm.toNat)
/-- `MOVI_HI` (05 R108). -/
def execMoviHi (d : Reg) (imm : BitVec 32) (s : State) : Out := s.res d (wd (imm.toNat * 2 ^ 32 + s.gv d % 2 ^ 32))
/-- `MOV` (05 R109). -/
def execMov (d a : Reg) (s : State) : Out := s.res d (s.g a)
/-- A special name read as a register; 2 to 9 (05 R109). -/
def Thread.special (t : Thread) (n : Nat) : Word :=
  match n with
  | 2 => t.shFmt
  | 3 => t.shScl
  | 4 => t.args[0]
  | 5 => t.args[1]
  | 6 => t.args[2]
  | 7 => t.args[3]
  | 8 => wd t.dom
  | _ => wd t.tidNo
/-- `MOV_FROM_SPECIAL` (05 R109). -/
def execMovFromSpecial (d : Reg) (n : Reg) (s : State) : Out := s.res d (s.me.special n.val)
/-- `MOV_FROM_PRED` (05 R109). -/
def execMovFromPred (d : Reg) (pa : PReg) (s : State) : Out := s.res d (wd (s.p pa).toNat)
/-- `MOV_TO_PRED` (05 R109). -/
def execMovToPred (pd : PReg) (a : Reg) (s : State) : Out := s.resP pd (s.g a != 0)
/-- `LEA` (05 R110). -/
def execLea (d a b : Reg) (sh : Fin 64) (imm : BitVec 32) (s : State) : Out :=
  s.res d (s.g a + (s.g b <<< sh.val) + sxImm imm)
/-- `MAD` (05 R101). -/
def execMad (d a b c : Reg) (w : ElW) (s : State) : Out :=
  s.res d (map2 (elBits w) (elAdd (elBits w)) (map2 (elBits w) (elMul (elBits w)) (s.g a) (s.g b)) (s.g c))
/-- `SEXT` (05 R111). -/
def execSext (d a : Reg) (w : ElW) (s : State) : Out := s.res d (sx (elBits w) (s.g a))
/-- `ZEXT` (05 R111). -/
def execZext (d a : Reg) (w : ElW) (s : State) : Out := s.res d (zx (elBits w) (s.g a))

/-- The conversions of 05 R112, by `op`: i64 and n64 are formats 3 and 7, FP32 is format 8. -/
def cvtiOp (op x : Nat) : Nat :=
  match op with
  | 0 => convert 3 8 .rne false 0 x
  | 1 => convert 7 8 .rne false 0 x
  | 2 => convert 8 3 .rtz false 0 (x % 2 ^ 32)
  | 3 => convert 8 7 .rtz false 0 (x % 2 ^ 32)
  | 4 => convert 8 3 .rne false 0 (x % 2 ^ 32)
  | _ => convert 8 7 .rne false 0 (x % 2 ^ 32)
/-- `CVTI` (05 R112). -/
def execCvti (d a : Reg) (op : Fin 64) (s : State) : Out := s.res d (wd (cvtiOp op.val (s.gv a)))

/-- The counter that the draws of the issue begin at: the thread's own, or as it stood at the issue's first chunk (14 R243). -/
def State.drawCtr (s : State) : Nat := match s.me.stream with | some x => x.ctr | none => s.me.sqCtr
/-- Draw `i` of the thread's squall stream, and advancing its counter by `n` blocks (14 R243). -/
def State.draw (s : State) (i : Nat) : Nat := drawAt s.me.sqKey s.drawCtr i
def State.spend (s : State) (n : Nat) : State := s.modMe fun t => { t with sqCtr := (t.sqCtr + n) % 2 ^ 128 }
/-- Round an exact value to FP32 in a mode and write it; `sto` uses one block (05 R113, 14 R243). -/
def State.resF (s : State) (d : Reg) (rm : Nat) (v : Rm → FV) : Out :=
  let m := Rm.ofCode rm
  let x := wd (fencode 8 m false (s.draw 0) (v m))
  (if rm = 4 then s.spend 1 else s).res d x
/-- `FADD` (05 R113). -/
def execFadd (d a b : Reg) (rm : Fin 64) (s : State) : Out :=
  s.resF d rm.val fun m => (f32 (s.gv a)).add m (f32 (s.gv b))
/-- `FMUL` (05 R113). -/
def execFmul (d a b : Reg) (rm : Fin 64) (s : State) : Out :=
  s.resF d rm.val fun _ => (f32 (s.gv a)).mul (f32 (s.gv b))
/-- `FFMA` (05 R113). -/
def execFfma (d a b c : Reg) (rm : Fin 64) (s : State) : Out :=
  s.resF d rm.val fun m => FV.fma m (f32 (s.gv a)) (f32 (s.gv b)) (f32 (s.gv c))
/-- `FCMP` (05 R114). -/
def execFcmp (pd : PReg) (a b : Reg) (cc : Fin 64) (s : State) : Out :=
  s.resP pd (fccHolds cc.val (f32 (s.gv a)) (f32 (s.gv b)))

end Sys2Proof.Machine
end

