-- ==== Sys2Proof/Machine/MemOps.lean ====
section
/-!
DEFINITION. Memory, atomics, reservations, fences and barrier objects: opcodes 0x40 to 0x54, 0x56, 0x58 to 0x5B, and the
object form of 0x55 (09 R155 to R172, R176, R177; 06 R116).
-/
namespace Sys2Proof.Machine

/-- What stands between the checks of an access and its effect: the canonical key, an access another package serves, or
the state the issue ends in. -/
inductive Acc where
  | key (k : Nat) (s : State)
  | away (s : State)
  | stop (o : Out)

/-- Checks 1 to 5 of one access of the issuing thread (07 R125, R208). -/
def State.access (s : State) (need : Nat) (fe : Bool) (align addr len : Nat) : Acc :=
  match s.check s.who need fe align addr len with
  | (.ok segs, s) => .key (segKey segs 0) s
  | (.trap c t, s) => .stop (s.trap c t)
  | (.miss sel va first, s) => .stop (.next (s.waitWalk need sel va first))
  | (.away, s) => .away s
/-- Continue with the key of an access; `far` is what happens where another package serves it. -/
def Acc.bind (x : Acc) (far : State → Out) (f : Nat → State → Out) : Out :=
  match x with
  | .key k s => f k s
  | .away s => far s
  | .stop o => o
/-- The scope of an ordering operation is checked before anything else (08 R147). -/
def State.scoped (s : State) (sc : Scope) (f : State → Out) : Out :=
  if s.okScope sc.val then f s else s.trap clsScope sc.val
/-- 64 bytes of another package: eight free words. -/
def State.farImage (s : State) : Nat × State :=
  (((List.range 8).map fun i => (Config.remoteWord (s.freeCtr + i)).toNat * 2 ^ (64 * i)).sum, { s with freeCtr := s.freeCtr + 8 })
/-- Whether an address is the issuer's own private memory by selector 0x0, the one kind that stays in rotation (02 R24). -/
def isOwn (addr : Nat) : Bool := addr / 2 ^ 60 == 0
/-- The address, in the form that the access used, of a failing word `w` of an access at `ea` whose key is `k` (07 R125, 09
R158). DEDUCED (log 76): of a word's several addresses the one reported is the form its access used. -/
def ownVa (ea k w : Nat) : Nat := failVa ea k w
/-- Whether earlier entries of the thread still stand in its buffer, or a message of its own, which is a store at a core of this die,
is not yet taken (08 R144; 19 R338). -/
def State.buffered (s : State) : Bool := !(s.pending s.me.uid).isEmpty || s.msgsDue s.iss.gid 2
/-- Earlier die-local accesses, or accesses a release covers, not yet performed: an access that acts at issue waits. -/
def State.mustDrain (s : State) (rel : Bool) (sc : Nat) : Option Why :=
  if s.nearDueOf s.iss.gid then some .near else if rel && s.storesDue sc then some (.stores sc) else none

/-- An operation that another package serves: with a release it comes after the thread's accesses that the release covers (08 R147). -/
def State.released (s : State) (rel : Bool) (sc : Nat) (f : State → Out) : Out :=
  if rel && s.storesDue sc then .next (s.retry (.stores sc)) else f s
/-- A plain load of `n` bytes (09 R158). -/
def State.load (s : State) (d : Reg) (ea n : Nat) (sext acq : Bool) (sc : Nat) : Out :=
  (s.access needR false n ea n).bind
    (fun s => let (v, s) := s.farWord; s.res d (extN n sext v))
    fun k s =>
      if isOwn ea then
        match s.badIn k n with
        | some w => s.trap clsEcc (ownVa ea k w)
        | none => (s.countSoft k n).res d (extN n sext (ofBytes (s.seen s.me.uid k n)))
      else s.ask (.load n) k n ea sc false acq (s.doneTo d.val 0 0 n sext)
/-- Post bytes under a mask to one home, or write them at issue where they may be (09 R158, 08 R144). -/
def State.storeOne (s : State) (k va : Nat) (bs : List Byte) (mask sc : Nat) (rel own : Bool) : State :=
  if own && !s.buffered then s.homeWrite k (s.merged k bs mask)
  else s.postReq (.store bs mask) k bs.length va sc rel
/-- A plain store of `n` bytes (09 R158). -/
def State.store (s : State) (ea align : Nat) (bs : List Byte) (rel : Bool) (sc : Nat) : Out :=
  (s.access needW false align ea bs.length).bind (fun s => s.released rel sc State.ok) fun k s =>
    let full := 2 ^ bs.length - 1
    if isOwn ea && !s.buffered && !(rel && s.msgsDue s.iss.gid sc) then
      match s.partBad k bs.length full with
      | some w => s.trap clsEcc (ownVa ea k w)
      | none => (s.homeWrite k bs).ok
    else s.post (.store bs full) k bs.length ea sc rel

/-- `LD` (09 R158). -/
def execLd (d a : Reg) (s : Bool) (mw : MemW) (imm : BitVec 32) (st : State) : Out :=
  st.load d (st.ea a imm) (memBytes mw) s false 0
/-- `ST` (09 R158). -/
def execSt (a b : Reg) (mw : MemW) (e : Fin 128) (imm : BitVec 32) (s : State) : Out :=
  s.store (s.ea a imm) (memBytes mw) (bytesOf (memBytes mw) (s.stData b e)) false 0
/-- `LDA` (09 R158). -/
def execLda (d a : Reg) (sc : Scope) (s : Bool) (mw : MemW) (imm : BitVec 32) (st : State) : Out :=
  st.scoped sc fun st => st.load d (st.ea a imm) (memBytes mw) s true sc.val
/-- `STL` (09 R158). -/
def execStl (a b : Reg) (sc : Scope) (mw : MemW) (e : Fin 128) (imm : BitVec 32) (s : State) : Out :=
  s.scoped sc fun s => s.store (s.ea a imm) (memBytes mw) (bytesOf (memBytes mw) (s.stData b e)) true sc.val

/-- A full/empty operation (09 R164): at once on own private memory where its requirement holds, waiting there as a waiter
of its core's memory controller, or at its home. -/
def State.feOp (s : State) (ea n : Nat) (want isLoad empties sext : Bool) (data : Nat) (d : Nat) (sc : Scope) : Out :=
  s.scoped sc fun s =>
    (s.access (if isLoad then needR else needW) true n ea n).bind
      (fun s => s.released (!isLoad) sc.val fun s => if isLoad then let (v, s) := s.farWord; (s.putN d (extN n sext v)).ok else s.ok)
      fun k s =>
        let fin := s.doneTo d 0 0 n sext
        if isOwn ea then
          match s.mustDrain (!isLoad) sc.val with
          | some w => .next (s.retry w)
          | none =>
            -- the state is read from the word's own codeword (07 R125, R126)
            match s.badIn (wordKey k) 8 with
            | some w => s.trap clsEcc (ownVa ea k w)
            | none =>
              if s.feHolds want k then
                let (v, s) := s.feNow isLoad empties k n data
                (s.putN d (extN n sext v)).ok
              else
                let (id, s1) := s.request (.fe want isLoad empties n data) k n ea sc.val false isLoad false
                match s1.reqs.find? (·.id == id) with
                | none => .next s1
                | some r =>
                  let s1 : State := { s1.dropReq id with feWaits := s1.feWaits ++ [{ word := wordKey k, req := r, remote := false }] }
                  .next (s1.parkMe s1.myDie (wordKey k) okFe fin)
        else s.ask (.fe want isLoad empties n data) k n ea sc.val (!isLoad) isLoad fin
/-- `LDFE` (09 R164). -/
def execLdfe (d a : Reg) (sc : Scope) (s : Bool) (mw : MemW) (imm : BitVec 32) (st : State) : Out :=
  st.feOp (st.ea a imm) (memBytes mw) true true true s 0 d.val sc
/-- `STEF` (09 R164). -/
def execStef (a b : Reg) (sc : Scope) (mw : MemW) (e : Fin 128) (imm : BitVec 32) (s : State) : Out :=
  s.feOp (s.ea a imm) (memBytes mw) false false false false (s.stData b e) 0 sc
/-- `LDFF` (09 R164). -/
def execLdff (d a : Reg) (sc : Scope) (s : Bool) (mw : MemW) (imm : BitVec 32) (st : State) : Out :=
  st.feOp (st.ea a imm) (memBytes mw) true true false s 0 d.val sc
/-- `STFF` (09 R164). -/
def execStff (a b : Reg) (sc : Scope) (mw : MemW) (e : Fin 128) (imm : BitVec 32) (s : State) : Out :=
  s.feOp (s.ea a imm) (memBytes mw) true false false false (s.stData b e) 0 sc

/-- `feset` (09 R165). -/
def State.fesetOp (s : State) (a : Reg) (imm : BitVec 32) (e : Bool) : Out :=
  let ea := s.ea a imm
  (s.access needW true 8 ea 8).bind (fun s => s.ok) fun k s =>
    if isOwn ea && !s.buffered then
      match s.badIn k 8 with
      | some w => s.trap clsEcc (ownVa ea k w)
      | none => (s.feSet k e).ok
    else s.post (.feset e) k 8 ea 0 false
/-- `FESET_FULL` (09 R165). -/
def execFesetFull (a : Reg) (imm : BitVec 32) (s : State) : Out := s.fesetOp a imm false
/-- `FESET_EMPTY` (09 R165). -/
def execFesetEmpty (a : Reg) (imm : BitVec 32) (s : State) : Out := s.fesetOp a imm true
/-- The state of a word as the thread's own `feset`s still in the buffer leave it (08 R143). -/
def State.seenEmpty (s : State) (uid k : Nat) : Bool :=
  (sortBy (·.seq) (s.pending uid)).foldl (fun e r =>
    match r.op with | .feset x => if r.key == wordKey k then x else e | _ => e) (s.isEmpty k)
/-- `FEQRY` (09 R165). -/
def execFeqry (d a : Reg) (imm : BitVec 32) (s : State) : Out :=
  let ea := s.ea a imm
  (s.access needR true 8 ea 8).bind (fun s => let (v, s) := s.farWord; s.res d (wd (v % 2))) fun k s =>
    if isOwn ea then
      match s.badIn k 8 with
      | some w => s.trap clsEcc (ownVa ea k w)
      | none => s.res d (wd (s.seenEmpty s.me.uid k).toNat)
    else s.ask .feqry k 8 ea 0 false false (s.doneTo d.val 0 0 8 false)

/-- `LDP` (09 R159). -/
def execLdp (d a : Reg) (imm : BitVec 32) (s : State) : Out :=
  let ea := s.ea a imm
  (s.access needR false 16 ea 16).bind
    (fun s => let (v, s) := s.farWord; let (w, s) := s.farWord; ((s.put d (wd v)).putN (d.val + 1) (wd w)).ok)
    fun k s =>
      if isOwn ea then
        match s.badIn k 16 with
        | some w => s.trap clsEcc (ownVa ea k w)
        | none =>
          let v := ofBytes (s.seen s.me.uid k 16)
          (((s.countSoft k 16).put d (wd v)).putN (d.val + 1) (wd (v / 2 ^ 64))).ok
      else s.ask .pair k 16 ea 0 false false (s.doneTo d.val (d.val + 1) 0 8 false)
/-- Put the words of a store in the buffer, one entry after the other as there is room; those that are left wait for an entry to drain (02
R24). -/
def State.enterWords (s : State) (ws : List (Nat × Nat × List Byte × Nat)) : Out :=
  let left := ws.drop s.me.entered
  let n := Config.storeBuffer - s.bufferUse s.myCore
  let s := (left.take n).foldl (fun s (k, va, bs, m) =>
    (s.storeOne k va bs m 0 false false).modMe fun t => { t with entered := t.entered + 1 }) s
  if left.length ≤ n then s.ok else .next (s.retry (.buffer 1))
/-- `STP` (09 R159); on CXL and host memory each half is an access of its own. -/
def execStp (a b : Reg) (imm : BitVec 32) (s : State) : Out :=
  let ea := s.ea a imm
  let lo := bytesOf 8 (s.gv b)
  let hi := bytesOf 8 (s.gN (b.val + 1)).toNat
  (s.access needW false 16 ea 16).bind (fun s => s.ok) fun k s =>
    if keySel k < 5 then
      if isOwn ea && !s.buffered then (s.homeWrite k (lo ++ hi)).ok
      else s.post (.store (lo ++ hi) 65535) k 16 ea 0 false
    else s.enterWords [(k, ea, lo, 255), (k + 8, ea + 8, hi, 255)]
/-- The words an `stm` accesses: key, address, bytes and mask of each with a mask bit set (09 R160). -/
def State.stmWords (s : State) (b c : Reg) (n : Nat) (segs : List (Nat × Nat)) (ea : Nat) :
    List (Nat × Nat × List Byte × Nat) :=
  (List.range n).filterMap fun i =>
    let m := if c.val = 0 then 255 else s.gv c / 2 ^ (8 * i) % 256
    if m = 0 then none else some (segKey segs (8 * i), ea + 8 * i, bytesOf 8 (s.gN (b.val + i)).toNat, m)
/-- `STM` (09 R160). -/
def execStm (a b c : Reg) (op : Fin 64) (imm : BitVec 32) (s : State) : Out :=
  let ea := s.ea a imm
  match s.check s.who needW false 8 ea (8 * op.val) with
  | (.trap cl t, s) => s.trap cl t
  | (.miss sel va first, s) => .next (s.waitWalk needW sel va first)
  | (.away, s) => s.ok
  | (.ok segs, s) =>
    let ws := s.stmWords b c op.val segs ea
    if isOwn ea && !s.buffered && s.me.entered = 0 then
      match ws.findSome? fun (k, va, bs, m) => (s.partBad k bs.length m).map (ownVa va k) with
      | some a => s.trap clsEcc a
      | none => (ws.foldl (fun s (k, va, bs, m) => s.storeOne k va bs m 0 false true) s).ok
    else s.enterWords ws
/-- `ZFILL` (09 R161). -/
def execZfill (a : Reg) (op : Fin 64) (imm : BitVec 32) (s : State) : Out :=
  let ea := s.ea a imm
  let n := if op.val = 0 then 64 else if op.val = 1 then 256 else 4096
  (s.access needW false n ea n).bind (fun s => s.ok) fun k s =>
    if isOwn ea && !s.buffered then (s.homeWrite k (bytesOf n 0)).ok else s.post (.zero n) k n ea 0 false
/-- `LDC` (09 R162): a value of the issuer's own memory is sent at once, and the issuer is out of rotation until the delivery is
acknowledged. Where its own continuation names `d`, the delivered value stands. -/
def execLdc (d a c : Reg) (s : Bool) (mw : MemW) (imm : BitVec 32) (st : State) : Out :=
  let ea := st.ea a imm
  let n := memBytes mw
  let go (k : Nat) (st : State) : Out := st.ask (.ldc n s (st.gv c)) k n ea 0 false false (st.doneTo d.val 0 0 8 false)
  (st.access needR false n ea n).bind (go ea) go

/-- An address a bank update may name, after checks 1 and 2: not private memory (09 R168). -/
def privateInner (pkg gid x : Nat) : Bool :=
  match placeOf pkg gid x with
  | .priv _ _ _ _ => true
  | .away _ _ => match innerPlace (bits x 47 0) with | .priv _ _ _ _ => true | _ => false
  | _ => false
/-- The checks of an update, a reservation or a barrier object: private memory is a protection fault once the address is
aligned and in its space (09 R168, R170, R177). -/
def State.bankAccess (s : State) (need align ea len : Nat) : Acc :=
  if ea % align = 0 && privateInner s.pkg s.iss.gid ea && decide (len ≤ (placeOf s.pkg s.iss.gid ea).room ea)
  then .stop (s.prot ea)
  else s.access need true align ea len
/-- `UPD` (09 R168). -/
def execUpd (a b : Reg) (fn : Fin 64) (imm : BitVec 32) (s : State) : Out :=
  let ea := s.ea a imm
  (s.bankAccess needW 8 ea 8).bind (fun s => s.ok) fun k s => s.post (.upd fn.val (s.gv b)) k 8 ea 0 false
/-- `UPDR` (09 R168). -/
def execUpdr (d : Reg) (pc : PReg) (a b : Reg) (fn : Fin 64) (imm : BitVec 32) (s : State) : Out :=
  let ea := s.ea a imm
  (s.bankAccess needW 8 ea 8).bind (fun s => let (v, s) := s.farWord; let (z, s) := s.farWord; ((s.put d (wd v)).putP pc (z % 2 == 1)).ok)
    fun k s => s.ask (.updr fn.val (s.gv b)) k 8 ea 0 false false (s.doneTo d.val 0 pc.val 8 false)

/-- The bank an `updcfg` names: an address in shared SRAM or DRAM, checked as a load (09 R169). -/
def State.cfgBank (s : State) (b : Reg) : Acc :=
  let x := s.gv b
  if privateInner s.pkg s.iss.gid x then .stop (s.prot x)
  else s.access needR true 1 x 1
/-- `UPDCFG_LD` (06 R116, 09 R169). -/
def execUpdcfgLd (d a b : Reg) (imm : BitVec 32) (s : State) : Out :=
  (s.cfgBank b).bind (fun s => s.prot (s.gv b)) fun k s =>
    let x := s.gv a
    (s.access needR true 64 x 64).bind
      (fun s =>
        let (v, s) := s.farImage
        s.ask (.updcfgLd imm.toNat v) k 8 (s.gv b) 0 false true (s.doneTo d.val 0 0 8 false))
      fun ik s =>
        if s.wordsDue s.me.uid ik 64 then .next (s.retry (.words ik 64)) else
        match s.badIn ik 64 with
        | some w => s.trap clsEcc (x + (w - ik))
        | none =>
          s.ask (.updcfgLd imm.toNat (ofBytes (s.seen s.me.uid ik 64))) k 8 (s.gv b) 0 false true (s.doneTo d.val 0 0 8 false)
/-- `UPDCFG_ST` (06 R116, 09 R169). -/
def execUpdcfgSt (d b : Reg) (imm : BitVec 32) (s : State) : Out :=
  (s.cfgBank b).bind (fun s => s.prot (s.gv b)) fun k s =>
    s.ask (.updcfgSt imm.toNat) k 8 (s.gv b) 0 false true (s.doneTo d.val 0 0 8 false)
/-- `UPDCFG_CLR` (06 R116, 09 R169). -/
def execUpdcfgClr (d b : Reg) (imm : BitVec 32) (s : State) : Out :=
  (s.cfgBank b).bind (fun s => s.prot (s.gv b)) fun k s =>
    s.ask (.updcfgClr imm.toNat) k 8 (s.gv b) 0 false true (s.doneTo d.val 0 0 8 false)

/-- An atomic (09 R166, R167): at issue on own private memory, else at its home; `b` and `h` have no PCIe AtomicOp. -/
def State.atomic (s : State) (d : Reg) (ea n : Nat) (sext : Bool) (sc : Scope) (op : ReqOp) : Out :=
  s.scoped sc fun s =>
    (s.access needW false n ea n).bind
      (fun s => s.released true sc.val fun s => let (v, s) := s.farWord; s.res d (extN n sext v)) fun k s =>
      if isOwn ea then
        match s.mustDrain true sc.val with
        | some w => .next (s.retry w)
        | none =>
          match s.badIn k n with
          | some w => s.trap clsEcc (ownVa ea k w)
          | none =>
            let (v, s) := s.rmw op k
            s.res d (extN n sext v)
      else if keySel k = 6 && n < 4 then s.prot ea
      else s.ask op k n ea sc.val true true (s.doneTo d.val 0 0 n sext)
/-- `CAS` (09 R166). -/
def execCas (d a b c : Reg) (sc : Scope) (s : Bool) (mw : MemW) (st : State) : Out :=
  st.atomic d (st.gv a) (memBytes mw) s sc (.cas (memBytes mw) (st.gv b) (st.gv c))
/-- `SWAP` (09 R166). -/
def execSwap (d a b : Reg) (sc : Scope) (s : Bool) (mw : MemW) (st : State) : Out :=
  st.atomic d (st.gv a) (memBytes mw) s sc (.swap (memBytes mw) (st.gv b))
/-- `FETCHADD` (09 R166). -/
def execFetchadd (d a b : Reg) (sc : Scope) (s : Bool) (mw : MemW) (st : State) : Out :=
  st.atomic d (st.gv a) (memBytes mw) s sc (.fadd (memBytes mw) (st.gv b))
/-- `FETCHADD_IMM` (09 R166). -/
def execFetchaddImm (d a b : Reg) (sc : Scope) (s : Bool) (mw : MemW) (imm : BitVec 32) (st : State) : Out :=
  st.atomic d (st.gv a) (memBytes mw) s sc (.fadd (memBytes mw) (st.g b + sxImm imm).toNat)

/-- `LRW` (09 R170). -/
def execLrw (d : Reg) (pb : PReg) (a : Reg) (sc : Scope) (s : Bool) (mw : MemW) (st : State) : Out :=
  let ea := st.gv a
  let n := memBytes mw
  st.scoped sc fun st =>
    (st.bankAccess needR n ea n).bind
      (fun st => let (v, st) := st.farWord; let (z, st) := st.farWord
                 if z % 2 = 1 then ((st.put d (extN n s v)).putP pb true).ok else (st.putP pb false).ok)
      fun k st => st.ask (.lrw n) k n ea sc.val false true (st.doneTo d.val 0 pb.val n s)
/-- `SCH` (09 R170). -/
def execSch (pd : PReg) (a b : Reg) (sc : Scope) (mw : MemW) (s : State) : Out :=
  let ea := s.gv a
  let n := memBytes mw
  s.scoped sc fun s =>
    (s.bankAccess needW n ea n).bind (fun s => s.released true sc.val fun s => let (z, s) := s.farWord; s.resP pd (z % 2 == 1))
      fun k s => s.ask (.sch n (s.gv b)) k n ea sc.val true false (s.doneTo 0 0 pd.val 8 false)
/-- `RSVX` (09 R170); where it gives up a hold it releases at the scope of the `lrw` that took it. -/
def execRsvx (a : Reg) (s : State) : Out :=
  let ea := s.gv a
  (s.bankAccess needR 8 ea 8).bind (fun s => s.ok) fun k s => s.ask .rsvx k 8 ea 0 false false (s.doneTo 0 0 0 8 false)

/-- A fence, and the drains of `drn`, which it waits for (09 R172). -/
def State.fenceOp (s : State) (sc : Nat) (drn : Bool) : Out :=
  if !s.okScope sc then s.trap clsScope sc
  else if s.fenceDueOf s.iss.gid sc then
    .next ((s.retry (.fence sc)).modMe fun t => { t with wait := t.wait.map fun w => { w with fin := { w.fin with width := 0 } } })
  else
    -- a fence at die scope or wider drops the core's handle entries (15 R262)
    let s := if 2 ≤ sc then s.setCore { s.core s.myCore with handles := [] } else s
    let banks := if drn then s.banksOf s.me.uid else []
    if banks.isEmpty then s.ok
    else .next (State.await { s with drains := s.drains ++ banks.map fun b => { bank := b, uid := s.me.uid, dom := 0, obj := 0 } }
      .drains (s.doneTo 0 0 0 8 false))
/-- `FENCE_CORE` (09 R172). -/
def execFenceCore (s : State) : Out := s.fenceOp 0 false
/-- `FENCE` (09 R172). -/
def execFence (sc : Scope) (s : State) : Out := s.fenceOp sc.val false
/-- `FENCE_DRN` (09 R172). -/
def execFenceDrn (sc : Scope) (s : State) : Out := s.fenceOp sc.val true

/-- `BARINIT` (09 R177). -/
def execBarinit (d a b : Reg) (e : Fin 128) (sc : Scope) (s : State) : Out :=
  let ea := s.gv a
  s.scoped sc fun s =>
    (s.bankAccess needW 8 ea 8).bind (fun s => s.released true sc.val fun s => let (v, s) := s.farWord; s.res d (wd (v % 3)))
      fun k s => s.ask (.barinit (e.val % 2 == 1) (s.gv b)) k 8 ea sc.val true false (s.doneTo d.val 0 0 8 false)
/-- `BAR_OBJECT`: an arrival at an object reads no operand and has no result (09 R173, R177). -/
def execBarObject (d a : Reg) (sc : Scope) (s : State) : Out :=
  let ea := s.gv a
  s.scoped sc fun s =>
    (s.bankAccess needW 8 ea 8).bind (fun s => s.released true sc.val fun s => let (v, s) := s.farWord; s.res d (wd (v % 5)))
      fun k s => s.ask .barObj k 8 ea sc.val true true (s.doneTo d.val 0 0 8 false)

end Sys2Proof.Machine
end

