-- ==== Sys2Proof/Machine/Deque.lean ====
section
/-!
DEFINITION. Creating threads in fork slots (02 R46; 20 R347, R352), the deque and the post buffer (20 R344 to R351), and
the trigger of a task's dependants (20 R351).
-/
namespace Sys2Proof.Machine

/-- The lowest free fork slot of a domain on a core (02 R46). -/
def State.freeFork (s : State) (d : Domain) (core : Nat) : Option Nat :=
  (sortBy id (d.forks.filter fun g => gidCk g == core)).find? fun g => (s.thread? g).isNone
/-- Create a thread of a domain: `f` sets what its creator gives it (02 R22; 05 R109; 14 R248). -/
def State.create (s : State) (g : Nat) (d : Domain) (f : Thread → Thread) : State :=
  let t : Thread :=
    { Thread.fresh g s.nextUid d.num with
      asid := d.asid, wdlim := d.wdlim, wdlimMax := d.wdlim, wdStart := s.clock, sqKey := Nat.xor d.seed g, tidNo := d.tidCtr,
      args := d.largs, launchArgs := d.largs }
  (s.addThread (f t)).modDomain d.num fun d => { d with tidCtr := (d.tidCtr + 1) % 2 ^ 32 }

/-- Whether a thread owns deque entries, and its youngest (20 R348, R349). -/
def State.entriesOf (s : State) (t : Thread) : List DEnt :=
  (s.core (gidCk t.gid)).deque.filter fun e => !e.task && e.uid == t.uid
def State.ownsEntries (s : State) : Bool := !(s.entriesOf s.me).isEmpty
/-- Push an entry with the core's next sequence number, at the top or at the bottom (20 R344, R350). -/
def State.pushEntry (s : State) (core : Nat) (e : DEnt) (top : Bool) : State :=
  let c := s.core core
  let e := { e with seq := c.dseq }
  s.setCore { c with deque := if top then e :: c.deque else c.deque ++ [e], dseq := (c.dseq + 1) % 2 ^ 16 }
def State.dequeRoom (s : State) (core : Nat) : Bool := decide ((s.core core).deque.length < Config.deque)
/-- A task entry of a packet (20 R350). -/
def State.taskEntry (s : State) (pc frame : Nat) : DEnt :=
  { pc := pc, frame := frame, regs := [0, 0, 0, 0], gid := s.iss.gid, uid := s.me.uid, task := true, dom := s.myDom,
    ra := 0, rb := 0, seq := 0, prio := s.me.prioBase }

/-- Dispatch a dependant packet onto the triggering core's deque, or its post buffer. Where both are full, or the packet has no
translation, the post alone waits: the task has triggered (20 R351). -/
def State.dispatchDep (s : State) (pkt : Nat) (k : State → Out) : Out :=
  let due : State := s.modMe fun t => { t with triggered := true, postDue := pkt }
  let k (s : State) : Out := k (s.modMe fun t => { t with triggered := true, postDue := 0 })
  match s.check s.who needR false 64 pkt 64 with
  | (.ok segs, s) =>
    let e := s.taskEntry (s.readN (segKey segs 48) 8) pkt
    let c := s.core s.myCore
    if s.dequeRoom s.myCore then k (s.pushEntry s.myCore e true)
    else if c.post.length < Config.postBuffer then k (s.setCore { c with post := c.post ++ [e] })
    else .next (due.retry .postRoom)
  | (.trap cls t, s) => k (s.report s.me.uid { cls := cls, tval := t, kind := 0 })
  | (.miss sel va first, _) => .next (due.waitWalk needR sel va first)
  | (.away, s) => k s
/-- The trigger of the issuing thread's task, if it has not triggered: the counter's function is applied as `updr` would
apply it (20 R351). -/
def State.trigger (s : State) (k : State → Out) : Out :=
  let t := s.me
  let done (s : State) : Out := k (s.modMe fun t => { t with triggered := true })
  if t.postDue != 0 then s.dispatchDep t.postDue k
  else if !t.task || t.triggered then k s
  else if t.depRec = 0 then done s
  else
    match s.check s.who (needR + needW) true 16 t.depRec 16 with
    | (.trap c v, s) => s.trap c v
    | (.miss sel va first, s) => .next (s.waitWalk (needR + needW) sel va first)
    | (.away, s) => done s
    | (.ok segs, s) =>
      let w := segKey segs 0
      if privateInner s.pkg s.iss.gid t.depRec then s.prot t.depRec
      else
        match s.actDue w 16, s.badIn w 16 with
        | some y, _ => .next (s.retry y)
        | none, some b => s.trap clsEcc (t.depRec + (b - w))
        | none, none =>
          let rec1 := s.readN (w + 8) 8
          let fn := rec1 % 16
          let q := (homeQuad w).getD 0
          match (s.bank q).fn fn with
          | none => done (s.report t.uid { cls := clsProtection, tval := fn, kind := 0 })
          | some f =>
            if imgDet f.image then done (s.report t.uid { cls := clsProtection, tval := 0x100 + fn, kind := 0 })
            else
              let (_, z, s1) := s.applyFn q f w 1
              if z && rec1 / 64 != 0 then s1.dispatchDep (rec1 / 64 * 64) k else done s1
/-- Retire the issuing thread's task, which triggers at `die` if no `trig` has (20 R351). -/
def State.retire (s : State) (k : State → Out) : Out :=
  if s.me.task && !s.me.triggered && s.storesDue 2 then .next (s.retry (.stores 2)) else s.trigger k

/-- Step `POST_BUFFER_DRAIN`: a waiting post enters the deque (20 R351). -/
def execPostBufferDrain (core : Nat) (s : State) : Out :=
  let c := s.core core
  match c.post with
  | e :: rest => .next (if s.dequeRoom core then (s.setCore { c with post := rest }).pushEntry core e true else s)
  | [] => .next s

/-- Mesh hops between two quads of a die (04 R78). -/
def hops (a b : Nat) : Nat :=
  let d (x y : Nat) := if x ≤ y then y - x else x - y
  d (qkQuad a % 64) (qkQuad b % 64) + d (qkQuad a / 64) (qkQuad b / 64)
/-- The priority an entry competes with (20 R346). -/
def State.entryPrio (s : State) (e : DEnt) : Nat :=
  match s.byUid e.uid with | some t => s.eprio t.gid | none => e.prio
/-- Whether a core may take an entry: it has a free fork slot of the entry's reacting domain, in one partition. -/
def State.canTake (s : State) (core : Nat) (e : DEnt) : Bool :=
  match s.domain? e.dom with
  | some d => d.stat == .reacting && s.owner (ckQuad core) == some d.part && (s.freeFork d core).isSome
  | none => false
/-- The deque a core takes from: the best top entry of its die (20 R346). -/
def State.victim (s : State) (core : Nat) : Option (Nat × DEnt) :=
  let tops := (sortBy (·.key) (s.cores.filter fun c => ckDie c.key == ckDie core)).filterMap fun c =>
    match c.deque with | e :: _ => if s.canTake core e then some (c.key, e) else none | [] => none
  tops.foldl (fun best x =>
    match best with
    | none => some x
    | some b =>
      let p := s.entryPrio x.2
      let q := s.entryPrio b.2
      if q < p || (p == q && decide (hops (ckQuad core) (ckQuad x.1) < hops (ckQuad core) (ckQuad b.1))) then some x else best) none

/-- What a packet loads into a thread that takes its task (13 R225, 20 R350, 21 R371). -/
def State.loadTask (s : State) (k pkt : Nat) (t : Thread) : Thread :=
  let fmt := s.readN k 8
  { t with shFmt := wd fmt, shScl := wd (s.readN (k + 8) 8),
           args := #v[wd (s.readN (k + 16) 8), wd (s.readN (k + 24) 8), wd (s.readN (k + 32) 8), wd (s.readN (k + 40) 8)],
           task := true, triggered := false, depRec := s.readN (k + 56) 8,
           cycle := if bits fmt 63 16 != 0 || bits fmt 13 5 != 0 then some { cls := clsProtection, tval := pkt, kind := 0 } else t.cycle }
/-- Take an entry: its frame counts one more strand and names the pusher as holder, and a thread runs it (20 R347, R350).
Nothing is taken where its frame or packet cannot be reached or read (DEDUCED, log 78). -/
def State.take (s : State) (core src : Nat) (e : DEnt) : State :=
  match s.domain? e.dom with
  | none => s
  | some d =>
    match s.freeFork d core with
    | none => s
    | some g =>
      let c := s.core src
      let s1 := s.setCore { c with deque := c.deque.filter (· != e) }
      let w : Who := { part := d.part, asid := d.asid, gid := g }
      let start (t : Thread) : Thread := { t with pc := wd e.pc, prioBase := e.prio, prioCeil := e.prio }
      if e.task then
        match s1.engineCheck w needR false 64 e.frame 64 (pageFuel 64) with
        | (.ok segs, s1) =>
          if (s1.badIn (segKey segs 0) 64).isSome then s else s1.create g d fun t => s1.loadTask (segKey segs 0) e.frame (start t)
        | _ => s
      else
        match s1.engineCheck w needW true 8 e.frame 8 (pageFuel 8) with
        | (.ok segs, s1) =>
          let k := segKey segs 0
          if (s1.badIn k 8).isSome then s else
          let s1 := s1.homeWrite k (bytesOf 8 ((s1.readN k 8 + 1) % 2 ^ 64))
          let s1 := s1.hold (keyDie k (gidDie g)) e.frame okChild 1 e.gid
          s1.create g d fun t =>
            let t := (start t).setReg e.ra (wd e.frame)
            (List.range 4).foldl (fun t i => t.setReg (e.rb + i) (wd (e.regs.getD i 0))) t
        | _ => s
end Sys2Proof.Machine
end

