-- ==== Sys2Proof/Machine/Issue.lean ====
section
/-!
DEFINITION. One issue of a thread: what comes before it (11 R199, 19 R332), fetching and judging the line and its heads
(03 R52 to R65), predication (R58), bundles (R60, R61), hardware queues (20 R353), holding for energy (02 R25 to R27), and
gang issue (02 R29). `exec` is handed in by Step.
-/
namespace Sys2Proof.Machine

/-- Whether the wait of a thread that is to issue again is over. A parked operation goes on by `resumeParked`. -/
def State.waitOver (s : State) (t : Thread) (w : Wait) : Bool :=
  match w.why with
  | .drain sc => !s.unperformedOf t.gid sc
  | .adds x => !s.addsDue t.uid x
  | .near => !s.nearDueOf t.gid
  | .stores sc => !s.storesDueOf t.gid sc
  | .fence sc => !s.fenceDueOf t.gid sc
  | .words k n => !s.wordsDue t.uid k n
  | .same k n => !s.sameDue t.uid k n
  | .gather since _ => !s.wordsAsked t.uid since
  | .moves w => !s.movesDueOf t.uid w
  | .readers w => !s.readersDueOf t.uid w
  | .buffer n => decide (s.bufferUse (gidCk t.gid) + n ≤ Config.storeBuffer)
  | .sendRoom => decide (s.sendUse (gidCk t.gid) < Config.sendBuffer)
  | .copyRoom => decide ((s.core (gidCk t.gid)).fifo.length < Config.copyFifo)
  | .postRoom => decide ((s.core (gidCk t.gid)).post.length < Config.postBuffer)
  | .walk id => !s.walks.any (·.id == id)
  | .channel _ | .children => true
  | _ => false
/-- Whether a thread could issue now, leaving aside the revisit rule (02 R23). -/
def State.ready (s : State) (t : Thread) : Bool :=
  -- the supervisor context issues only while it handles a sibling's trap (02 R20), and not after a machine check (11 R200)
  !s.lostDies.contains (gidDie t.gid) && (gidSlot t.gid != 15 || (s.sup.any (·.core == gidCk t.gid) && !(s.core (gidCk t.gid)).halted)) &&
  match t.wait with
  | none => t.stat == .running
  | some w => w.again && t.stat == .running && s.waitOver t w

/-- The queue object numbers of 11 R189 that are hardware queues, and whether a thread parked on one may go on. -/
def State.queueReady (s : State) (t : Thread) (n : Nat) : Bool :=
  let q := (s.core (gidCk t.gid)).hwq.toList.getD n []
  (t.role n == 2 && !q.isEmpty) || (t.role n == 1 && decide (q.length < Config.hwQueue))
/-- Wake the threads parked on hardware queues whose wait is over (20 R353, R370). -/
def State.stirQueues (s : State) : State :=
  let gs := (s.threads.filter fun t => match t.wait with
    | some w => t.parked.isSome && (List.range 4).any fun n => w.why == .parked (queueObj n t.gid) okQueue && s.queueReady t n
    | none => false).map (·.gid)
  gs.foldl (fun s g => (s.unwait g).modThread g (·.goOn)) s

/-- Whether the gang of a quad stands: a member is out of rotation, parked, held or in a handler, or a follower still owes
the leader's last issue (02 R29). -/
def State.gangStands (s : State) (qk : Nat) : Bool :=
  match (s.quad qk).gang with
  | none => false
  | some x => !x.todo.isEmpty || (gangMembers s.pkg qk x.slot).any fun g =>
      match s.thread? g with
      | some t => t.stat != .running || t.wait.isSome || t.stream.isSome || t.handler
      | none => true

/-- The user-level interrupt of 19 R332: handler state, and the head after the one at `sr.uih`; no change where that
entry is illegal but the supervisor's abort. -/
def State.takesInterrupt (s : State) (t : Thread) : Bool :=
  t.uiOn && !t.handler && !t.uiOnce &&
  (s.core (gidCk t.gid)).mail.any fun c => c.slot == gidSlot t.gid
def State.interrupt (s : State) (g : Nat) : State :=
  let t := s.thread g
  let entry := t.uih.toNat + 1
  let s := s.modThread g fun t => { t with epc := t.pc }
  if s.targetOk g entry then s.modThread g (·.enterHandler entry)
  else s.toSuper g 7 { cls := clsTarget, tval := entry, kind := 0 } t.pc.toNat

/-- What is delivered at a thread's next issue, in place of it: a deferred fault, a checker's cycle trap, a watchdog
firing, a user-level interrupt, in this order (11 R199, 02 R49, 19 R332). -/
def State.preIssue (s : State) (g : Nat) : Option State :=
  let t := s.thread g
  let pc := t.pc.toNat
  if t.handler then (if t.wdPending then some (s.deliverWatchdog g pc false) else none)
  else
    match t.dfr, t.cycle, t.wdPending with
    | tr :: rest, _, _ => some ((s.modThread g fun t => { t with dfr := rest }).deliver g tr pc true false)
    | [], some tr, _ => some ((s.modThread g fun t => { t with cycle := none }).deliver g tr pc false false)
    | [], none, true => some (s.deliverWatchdog g pc false)
    | [], none, false => if s.takesInterrupt t then some (s.interrupt g) else none

/-- What is delivered when an instruction that waited issues again: it completes first, but a deferred fault ends the
wait of a fence, which a width of 0 marks (09 R163, 02 R49). -/
def State.preResume (s : State) (g : Nat) (w : Wait) : Option State :=
  let t := s.thread g
  match t.dfr with
  | tr :: rest => if w.fin.width = 0 && !t.handler then some ((s.modThread g fun t => { t with dfr := rest }).deliver g tr t.pc.toNat true w.half) else none
  | [] => none

/-- Trap the issuing thread before its head issues (03 R64). -/
def State.stop (s : State) (cls tval : Nat) : State := s.fault cls tval
/-- The line of a thread's PC with the state after the look-up, whose use of a translation entry counts (11 R204, R207), or
the state in which the fetch ends: illegal target off the image (03 R56), a missing translation, no code-fetch permission, a
bad codeword (07 R125), an illegal line (03 R64), a slot past the heads or the second head of a bundle (03 R57). -/
def State.fetch (s : State) : State × Line × Option State :=
  let t := s.me
  let pc := t.pc.toNat
  let line := pcLine pc
  let inside := match s.domain? t.dom with | some d => d.inImage line | none => false
  if !inside || pcSlot pc = 0 || 31 < pcSlot pc then (s, [], some (s.stop clsTarget pc))
  else
    match s.lookupTlb s.myQuad t.asid 4 (line % 2 ^ 48) with
    | (none, s) => (s, [], some (s.waitWalk needX 4 (line % 2 ^ 48) line))
    | (some e, s) =>
      let k := dramKey (e.pa + (line % 2 ^ 48 - e.va))
      if Nat.land e.perm needX = 0 || !s.ownsDram s.myPart (keyPa k) 64 then (s, [], some (s.stop clsProtection line))
      else
        match s.badIn k 64 with
        | some w => (s, [], some (s.stop clsEcc (line + (w - k))))
        | none =>
          let l := halfWords k s.mem
          if !l.legal then (s, l, some (s.stop clsLine line))
          else if l.nh < pcSlot pc then (s, l, some (s.stop clsTarget pc))
          else if decide (2 ≤ pcSlot pc) && tbit (l.hw (pcSlot pc - 1)) 5 && !s.iss.half then (s, l, some (s.stop clsTarget pc))
          else (s, l, none)

/-- The head at a slot, judged alone, with `qmap` in force or not: none is illegal opcode (03 R64; 21 R358). -/
def opIn (mapped : Bool) (l : Line) (i : Nat) : Option Op :=
  match l.decode i with
  | some o => if o.wf || (mapped && (match atMapped o.instr with | some j => Op.wf { o with instr := j } | none => false)) then some o else none
  | none => none
/-- The same without `qmap`. -/
def opAt (l : Line) (i : Nat) : Option Op := opIn false l i
/-- Whether an operation takes effect (03 R58). -/
def State.takes (s : State) (o : Op) : Bool := s.p o.p != o.pn
/-- Control operations, whose predicate in a gang is the leader's (02 R29). -/
def isControl (opc : Nat) : Bool := decide (opc ≤ 8)
/-- Whether two operations may stand in one bundle, for the issuing thread (03 R60). -/
def State.bundleOk (s : State) (i j : Instr) : Bool :=
  let own := match i with | .waitr _ => s.me.contReg.toList | _ => []
  let wi := own ++ writes i
  let ni := (own ++ srcs i ++ dsts i ++ runs i).filter fun r => s.me.mapped r
  !isV (opcodeOf i) && !isM (opcodeOf i) && isV (opcodeOf j) && !(writes j).any (wi.contains ·) &&
  !(srcs j ++ dsts j ++ runs j).any (ni.contains ·)

/-- The scope field of an operation that has one: its check comes before the operation's own conditions (03 R65, 08 R147). -/
def scopeOf (i : Instr) : Option Nat :=
  match i with
  | .ldfe _ _ sc _ _ _ | .ldff _ _ sc _ _ _ | .stef _ _ sc _ _ _ | .stff _ _ sc _ _ _ | .cas _ _ _ _ sc _ _
  | .lrw _ _ _ sc _ _ | .sch _ _ _ sc _ | .lda _ _ sc _ _ _ | .stl _ _ sc _ _ _ | .barNetwork _ _ _ _ sc
  | .barDrain _ _ _ _ _ sc | .barObject _ _ sc | .barinit _ _ _ _ sc | .swap _ _ _ sc _ _ | .fetchadd _ _ _ sc _ _
  | .fetchaddImm _ _ _ sc _ _ _ => some sc.val
  -- the scope of a flag that is clear is judged for the reserved code alone
  | .mmul _ _ _ imm =>
    let sc := bits imm.toNat 20 18
    if tbit imm.toNat 16 || tbit imm.toNat 17 || sc = 7 then some sc else none
  | .mload _ _ _ e => if tbit e.val 0 || bits e.val 3 1 = 7 then some (bits e.val 3 1) else none
  | _ => none
/-- Whether an operation's scope is refused (00 R13). -/
def State.scopeRefused (s : State) (i : Instr) : Bool := match scopeOf i with | some sc => !s.okScope sc | none => false

/-- What stops an operation before it runs, while `qmap` is in force (20 R353; 21 R358): a run that meets 28 to 31, a
queue on which the thread has no such role, an empty queue, a full queue; and a push, a release at `core`, waits for the
thread's earlier stores there. -/
inductive QStop where
  | go (pops : List (Nat × Word))
  | prot (r : Nat)
  | waits (n : Nat)
  | due
  deriving DecidableEq, Repr
def State.qcheck (s : State) (is : List Instr) : QStop :=
  let t := s.me
  if t.qmap = 0 || is.any s.scopeRefused then .go []
  else
    let mapped (l : List Nat) := dedup (l.filter (28 ≤ ·))
    let ss := mapped (is.flatMap srcs)
    let cont (i : Instr) : List Nat := match i with | .waitr _ => t.contReg.toList | _ => []
    let ds := mapped (is.flatMap fun i => dsts i ++ cont i)
    let q (r : Nat) := (s.core s.myCore).hwq.toList.getD (r - 28) []
    match (is.flatMap runs).find? (28 ≤ ·) with
    | some r => .prot r
    | none =>
      match ss.find? (fun r => t.role (r - 28) != 2), ds.find? (fun r => t.role (r - 28) != 1) with
      | some r, _ => .prot r
      | none, some r => .prot r
      | none, none =>
        match ss.find? (fun r => (q r).isEmpty), ds.find? (fun r => decide (Config.hwQueue ≤ (q r).length)) with
        | some r, _ => .waits (r - 28)
        | none, some r => .waits (r - 28)
        | none, none => if !ds.isEmpty && s.storesDue 0 then .due else .go (ss.map fun r => (r, (q r).headD 0))
/-- Park the issuing thread on a hardware queue, with the hold edge to the other side's thread (20 R353, 11 R190). -/
def State.parkQueue (s : State) (n : Nat) : State :=
  let g := s.iss.gid
  let obj := queueObj n g
  let want := if s.me.role n = 2 then 1 else 2
  let others := (s.threads.filter fun t => gidCk t.gid == gidCk g && t.role n == want).map (·.gid)
  let s := others.foldl (fun s o =>
    if (s.holdEdges obj).any (·.gid == o) then s else s.hold (gidDie g) obj okQueue 1 o) s
  s.parkAgain (gidDie g) obj okQueue
/-- Take the popped values off their queues (20 R353). -/
def State.popQueues (s : State) (core : Nat) (pops : List (Nat × Word)) : State :=
  let c := s.core core
  let h := pops.foldl (fun h e => h.setIfInBounds (e.1 - 28) ((h.toList.getD (e.1 - 28) []).drop 1)) c.hwq
  if pops.isEmpty then s else s.setCore { c with hwq := h }

/-- Registers of `v` where it changed them from `old`, else those of `t`. -/
def mergeRegs (old t v : Vector Word 32) : Vector Word 32 :=
  Vector.ofFn fun i => if v[i] = old[i] then t[i] else v[i]

/-- What a handle-mode issue whose first chunk has run is resumed from: `head` is its own head (17 R290). -/
def Stream.opened (x : Stream) (old : State) (i : Instr) (head next : Nat) (half : Bool) : Stream :=
  { x with instr := i, head := head, next := next, half := half, regs := old.me.regs, pops := old.iss.pops }

/-- The half-word of an operation's head. -/
def Op.head (o : Op) : Nat := (o.raw.map RawOp.head).getD 0
/-- One operation with its head half-word, or nothing when its predicate is false. -/
def State.runOne (s : State) (exec : Instr → State → Out) (i : Instr) (hw : Nat) (on : Bool) : Out :=
  if on then exec i { s with iss := { s.iss with opc := hw / 256, hw := hw } } else s.ok
/-- The trap of an issue that has trapped. -/
def State.trapOf (s : State) : Trap :=
  let t := s.me
  { cls := t.cause.toNat % 256, tval := t.tval.toNat, kind := (tbit t.cause.toNat 8).toNat }
/-- Whether an issue trapped with what a home outside the thread's own private memory found, a codeword or an absent signal:
such a fault comes with the home's reply (03 R61; 05 R92; 17 R290; log 22). -/
def State.late (s : State) : Bool :=
  s.iss.trapped && (s.trapOf.cls == clsLate || s.trapOf.cls == clsEcc &&
  match placeOf s.pkg s.iss.gid s.trapOf.tval with
   | .priv die quad core _ => (qk die quad) * 4 + core != s.myCore
   | _ => true)
/-- Whether a trap is the illegal target of a transfer or an exit, which comes after every other fault of the issue (03 R65). -/
def State.transferTrap (s : State) (i : Instr) : Bool :=
  s.trapOf.cls == clsTarget && (match i with
    | .br _ _ | .brc _ _ _ _ _ | .brr _ | .call _ _ _ | .ret _ | .loop _ _ _ | .fork _ _ _ | .spawn _ _ _ _ _ | .rspawn _ _ _ _ _ | .rft => true
    | .abortw _ _ _ => decide (4096 ≤ s.trapOf.tval)
    | _ => false)
/-- Memory `m` with what changed between `old` and `new`. -/
def Memory.patch (old new m : Memory) : Memory :=
  (old.cells ++ new.cells).foldl (fun m c => if new.byte c.1 = old.byte c.1 then m else m.set c.1 (new.byte c.1)) m
/-- A half, `i`, has completed when the other's fault arrives: it is kept with the queues it popped, and the trap names the other's head (03 R61). -/
def State.keepHalf (s : State) (i : Instr) (tr : Trap) (epc : Nat) : State :=
  let s := s.popQueues s.myCore (s.iss.pops.filter fun e => (srcs i).contains e.1)
  let s := s.deliver s.iss.gid tr epc false true
  { s with iss := { s.iss with trapped := true } }
/-- Whether a half has completed at its issue. -/
def State.settled (s : State) : Bool := !s.iss.trapped && !s.iss.again && s.me.wait.isNone && s.me.stream.isNone
/-- A bundle: the V half and the S half, each from what stood before either (03 R61). A half that traps at issue, or that
is to issue again, leaves nothing of the other. Both halves' effects are taken: the S half's on the state that the V half
leaves, but what it read, and so its registers, predicates and the bytes it wrote, from the state before. -/
def State.runTwo (s : State) (exec : Instr → State → Out) (i j : Instr) (ih jh : Nat) (ion jon : Bool) : Out :=
  match s.runOne exec i ih ion, s.runOne exec j jh jon with
  | .next s1, .next v =>
    if s1.late && v.settled then .next (v.keepHalf j s1.trapOf s.iss.pc)
    else if s1.iss.trapped && !(s1.transferTrap i && v.iss.trapped) then .next s1
    else if v.late && s1.settled then .next (s1.keepHalf i v.trapOf (s.iss.pc + 1))
    else if v.iss.trapped then .next v
    else if s1.iss.again then .next s1
    else if v.iss.again then .next v
    else
      let was := s.me
      let v1 := { v.modMe (fun t => { t with regs := was.regs, preds := was.preds, pc := was.pc, stream := none }) with iss := s.iss }
      -- the S half draws after the V half's blocks (14 R243; log 72)
      let drawn := if v.me.sqCtr = s.me.sqCtr then .next s1
        else (s.modMe fun t => { t with sqCtr := v.me.sqCtr }).runOne exec i ih ion
      match v1.runOne exec i ih ion, drawn with
      | .next s2, .next s1 =>
        let finish (t : Thread) : Thread :=
          let next := if t.wait.isSome then s.iss.succ else t.pc.toNat
          let vs := v.me.stream.map fun x => x.opened s j (s.iss.pc + 1) next true
          let ss := t.stream.map fun x => x.opened s i s.iss.pc next vs.isNone
          let own := (s1.byUid was.uid).getD t
          { t with regs := mergeRegs was.regs own.regs v.me.regs, preds := own.preds,
                   wait := t.wait.map fun w => { w with half := vs.isNone },
                   stream := if ss.isSome then ss else vs, streamQ := if ss.isSome then vs.toList else [] }
        let ended (e : Ended) : Ended :=
          if e.thread.uid == was.uid then { e with thread := { e.thread with regs := mergeRegs was.regs e.thread.regs v.me.regs } } else e
        .next { s2 with threads := s2.threads.map (fun t => if t.uid == was.uid then finish t else t), ended := s2.ended.map ended,
                        mem := Memory.patch s.mem s1.mem s2.mem }
      | o, _ => o
  | .next s1, o => if s1.iss.trapped then .next s1 else o
  | o, _ => o

/-- A gang follower has issued what its leader issued (02 R29). -/
def State.followed (s : State) (g : Nat) : State :=
  let q := s.quad (gidQk g)
  match q.gang with
  | some x => s.setQuad { q with gang := some { x with todo := x.todo.filter (fun e => e.1 != g) } }
  | none => s
/-- After an issue: popped queues are taken, a resumed instruction has issued, and the record of the issue is cleared; no interrupt comes before
what an `rft` resumed has issued (19 R332). A follower that trapped or waits issues its leader's bundle again afterwards. -/
def State.finish (s : State) : State :=
  let i := s.iss
  let s := if i.follow.isSome && !i.trapped && !i.again then s.followed i.gid else s
  let s := if i.trapped || i.again then s else s.popQueues (gidCk i.gid) i.pops
  let s := if i.again then s else s.modThread i.gid fun t => { t with uiOnce := t.uiOnce && (i.trapped || i.opc == opcodeOf .rft), words := [], entered := 0, took := [] }
  { s with iss := Issue.none }

/-- What a leader's issue leaves its followers to issue, one clock apart; `pause` and `halt` have acted for all
(`whole`, 02 R29). A follower that is past the leader's bundle, a `join` evaluated again, issues nothing. -/
def State.lead (s : State) (s0 : State) (pred whole : Bool) : State :=
  let g := s0.iss.gid
  match (s0.quad (gidQk g)).gang, (s.quad (gidQk g)).gang with
  | none, _ => s
  | _, none => s
  | some _, some x =>
    if x.leader != g || s.iss.trapped || s.iss.again || (s.thread g).handler || whole then s
    else
      let next := if s.iss.jumped then (s.thread g).pc.toNat else s0.iss.succ
      let todo := ([1, 2, 3].map fun d =>
        let core := gidCk g / 4 * 4 + (gidCk g % 4 + d) % 4
        (s.gidOf core (gidSlot g), s0.iss.pc, s.clock + d, next, pred)).filter fun e => (s.thread e.1).pc.toNat == s0.iss.pc
      let q := s.quad (gidQk g)
      s.setQuad { q with gang := some { x with todo := todo } }

/-- Whether a core's energy budget is not positive, or for a gang any member core's; a member's handler is its own (02 R26, R29). -/
def State.noEnergy (s : State) (g : Nat) : Bool :=
  let gs := if (s.thread g).handler then [] else s.gangOf g
  let cores := if gs.isEmpty then [gidCk g] else gs.map gidCk
  cores.any fun c => decide ((s.core c).budget ≤ 0)

/-- Whether a thread's next bundle is a vector issue that takes effect (02 R21, R26; 03 R58, R60). -/
def State.vectorNext (s : State) (t : Thread) : Bool :=
  let v (l : Line) (i : Nat) : Bool := match opAt l i with
    | some o => isV (opcodeOf o.instr) && t.pred o.p.val != o.pn
    | none => false
  match s.peekLine t.gid (pcLine t.pc.toNat) with
  | none => false
  | some l =>
    let i := pcSlot t.pc.toNat
    l.legal && decide (1 ≤ i) && decide (i ≤ l.nh) && match opAt l i with
    | some o => v l i || (o.bp && !t.halfOnly && decide (i < l.nh) && v l (i + 1))
    | none => false

/-- The turn of a thread: its core's last slot and clock, its own clock of issue, its place among the released (02 R23, R27). -/
def State.turn (s : State) (g : Nat) : State :=
  let core := s.core (gidCk g)
  (s.setCore { core with last := gidSlot g, released := core.released.filter (· != g), issuedAt := some s.clock }).modThread g
    fun t => { t with lastIssue := some s.clock }

/-- Issue the V half of a bundle for the other members of a gang whose `pause`, `halt` or `gang.off` acts for all, each by its
own registers and predicate, in the leader's step (02 R29; 05 R89, R98; log 13). Where a member's half traps, the trap stops
the gang, and the leader issues the bundle again when it goes on. -/
def State.eachV (s : State) (exec : Instr → State → Out) (v : Op) (gs : List Nat) : Out :=
  gs.foldl (fun o g =>
    match o with
    | .next x =>
      match x.thread? g with
      | none => o
      | some t =>
        let m := { x with iss := { s.iss with gid := g, jumped := true, opc := opcodeOf v.instr, hw := Op.head v } }
        if x.iss.again || t.pred v.p.val = v.pn then o
        else
          match exec v.instr m with
          | .next y =>
            if y.iss.trapped then .next { s.deliver g y.trapOf s.iss.pc false false with iss := { s.iss with again := true } }
            else .next { y with iss := s.iss }
          | e => e
    | e => e) (.next s)
/-- Run the operations at a PC: `o` alone or with the second head `v` of its bundle; what stops on a hardware queue or a
moving tile is parked and completes when it is woken (00 R9; 20 R353). -/
def State.runOps (s : State) (exec : Instr → State → Out) (o : Op) (v : Option Op) (lead : Option (Nat × Bool)) : Out :=
  let io := opcodeOf o.instr
  let ion := match lead with | some (_, p) => if isControl io then p else s.takes o | none => s.takes o
  let von := match v with | some v => s.takes v | none => false
  let is := (if ion then [o.instr] else []) ++ (match v with | some v => if von then [v.instr] else [] | none => [])
  let keep (t : State) : State :=
    if t.iss.again && (match t.me.wait with | some w => (match w.why with | .parked _ _ => true | _ => false) | none => false)
    then t.modMe fun x => { x with parked := some { op := o, v := v, succ := s.iss.succ, lead := lead, half := s.iss.half } }
    else t
  match s.qcheck is with
  | .prot r => .next (s.fault clsProtection r).finish
  | .waits n => .next (keep (s.parkQueue n)).finish
  | .due => .next (s.retry (.stores 0)).finish
  | .go pops =>
    let s := { s with iss := { s.iss with pops := pops } }
    let whole := ion && (match o.instr with | .halt | .pause | .gangOff => true | _ => false)
    let r : Out := match v with
      | none =>
        match s.runOne exec o.instr (Op.head o) ion with
        | .next t => .next (t.modMe fun x => { x with stream := x.stream.map fun y => y.opened s o.instr s.iss.pc s.iss.succ s.iss.half })
        | o => o
      | some v =>
        let others := if whole then (s.gangOf s.iss.gid).filter (· != s.iss.gid) else []
        let two (s : State) : Out := s.runTwo exec o.instr v.instr (Op.head o) (Op.head v) ion von
        match two s with
        | .next r =>
          if others.isEmpty || r.iss.trapped || r.iss.again then .next r
          else match s.eachV exec v others with
            | .next s => if s.iss.again then .next s else two s
            | o => o
        | o => o
    match r with
    | .next t => .next (keep (t.lead s ion whole)).finish
    | o => o
/-- Issue the operations at a PC, or hold them for energy; a follower of a gang issues when its leader has (02 R26, R29). -/
def State.issueOps (s : State) (exec : Instr → State → Out) (o : Op) (v : Option Op) (lead : Option (Nat × Bool)) : Out :=
  let ion := match lead with | some (_, p) => if isControl (opcodeOf o.instr) then p else s.takes o | none => s.takes o
  let vcharged := (isV (opcodeOf o.instr) && ion) || (match v with | some v => s.takes v | none => false)
  if vcharged && lead.isNone && s.noEnergy s.iss.gid && !(s.core s.myCore).released.contains s.iss.gid then
    let s := s.modMe fun t => { t with stat := .held, halfOnly := s.iss.half }
    .next { s with iss := Issue.none }
  else (s.turn s.iss.gid).runOps exec o v lead

/-- A later chunk of a handle-mode issue, on the registers its first chunk read; a fault is delivered at its head with
the thread's own registers, at the whole bundle's while the other half is a stream too, and a cycle's record stays. When it ends,
the other half's stream goes on; a chunk that parks completes when it is woken (00 R9; 03 R61; 10 R183; 17 R290, R291). -/
def State.streamChunk (s : State) (exec : Instr → State → Out) (g : Nat) (x : Stream) : Out :=
  let own := (s.thread g).regs
  let r := { s.modThread g (fun t => { t with regs := x.regs }) with
    iss := { Issue.none with gid := g, pc := x.head, succ := x.next, opc := opcodeOf x.instr, pops := x.pops, half := x.half } }
  match exec x.instr r with
  | .next s2 =>
    if s2.iss.trapped then
      let tr := s2.trapOf
      let s := if tr.cls = clsCycle then { s with mem := s2.mem } else s
      match (s.thread g).streamQ with
      | [] => .next (s.deliver g tr x.head false x.half)
      | y :: _ => .next (s.deliver g tr (min x.head y.head) false false)
    else
      .next ({ s2.modThread g (fun t =>
        let ended := t.stream.isNone
        let parks := match t.wait with | some { why := .parked _ _, .. } => s2.iss.again | _ => false
        { t with regs := mergeRegs x.regs own t.regs, stream := if ended then t.streamQ.head? else t.stream,
                 streamQ := if ended then t.streamQ.drop 1 else t.streamQ,
                 parked := if parks then some (Parked.ofStream x) else t.parked }) with
        iss := { s2.iss with pops := [] } }).finish
  | o => o
/-- The turn that a later chunk takes. -/
def State.streamTurn (s : State) (exec : Instr → State → Out) (g : Nat) (x : Stream) : Out := (s.turn g).streamChunk exec g x

/-- Complete an operation, or a later chunk of one, that was parked before it had an effect and has been woken (00 R9). -/
def State.resumeOne (s : State) (exec : Instr → State → Out) (g : Nat) (t : Thread) (x : Parked) : Out :=
  let s := s.modThread g fun t => { t with parked := none }
  match t.stream with
  | some y => s.streamChunk exec g y
  | none =>
  ({ s with iss := { Issue.none with gid := g, pc := t.pc.toNat, succ := x.succ, follow := x.lead.map Prod.fst, half := x.half } }).runOps
    exec x.op x.v x.lead
/-- Complete every parked operation that has been woken, hardware queues included, until none is left (00 R9; 20 R353). -/
def State.resumeParked (exec : Instr → State → Out) : Nat → State → Out
  | 0, s => .next s
  | fuel + 1, s =>
    let s := s.stirQueues
    match s.threads.find? fun t => t.parked.isSome && t.wait.isNone && t.stat == .running with
    | none => .next s
    | some t =>
      match t.parked with
      | none => .next s
      | some x =>
        match s.resumeOne exec t.gid t x with
        | .next s => State.resumeParked exec fuel s
        | o => o

/-- One issue of thread `g` (03 R65 gives the order of the encoding faults). -/
def issueWith (exec : Instr → State → Out) (g : Nat) (s : State) : Out :=
  match s.thread? g with
  | none => .next s
  | some t =>
    if !s.ready t then .next s
    else
      let half := t.halfOnly || (match t.wait with | some w => w.again && w.half | none => false)
      let s := s.modThread g fun t => { t with wait := none, stat := .running, halfOnly := if t.stream.isSome then t.halfOnly else half }
      let q := s.quad (gidQk g)
      let lead : Option (Nat × Bool) := match q.gang with
        | some x => if t.handler then none else (x.todo.find? (fun e => e.1 == g)).map fun (_, _, _, next, pred) => (next, pred)
        | none => none
      match t.stream with
      | some x => s.streamTurn exec g x
      | none =>
      match (match t.wait with | some w => s.preResume g w | none => s.preIssue g) with
      | some s => .next (s.turn g)
      | none =>
        let pc := t.pc.toNat
        let s := { s.modThread g (fun t => { t with halfOnly := false }) with
          iss := { Issue.none with gid := g, pc := pc, follow := lead.map Prod.fst, half := half } }
        match s.fetch with
        | (_, _, some s) => .next (s.turn g).finish
        | (s, l, none) =>
          let i := pcSlot pc
          let after (n : Nat) := if n < l.nh then pcLine pc + n + 1 else pcLine pc + 65
          let stop (s : State) (cls tval : Nat) : Out := .next ((s.turn g).stop cls tval).finish
          match opIn (t.qmap != 0) l i with
          | none => stop s clsOpcode (l.hw i)
          | some o =>
            if !o.bp then ({ s with iss := { s.iss with succ := after i } }).issueOps exec o none lead
            else if i = l.nh then stop s clsBundle i
            else
              match opAt l (i + 1) with
              | none => stop { s with iss := { s.iss with pc := pc + 1 } } clsOpcode (l.hw (i + 1))
              | some v =>
                let s := { s with iss := { s.iss with succ := after (i + 1) } }
                if v.bp || !s.bundleOk o.instr v.instr then stop s clsBundle i
                else s.issueOps exec o (if half then none else some v) lead

end Sys2Proof.Machine
end

