-- ==== Sys2Proof/Machine/Barrel.lean ====
section
/-!
DEFINITION. The barrel of a core: the steps BARREL_ISSUE (02 R23, R27, R29; 17 R290) and STEAL_ATTEMPT, before which the threads of
the core that it takes from issue in the same clock (20 R344, R346).
-/
namespace Sys2Proof.Machine

/-- Whether the 8-clock revisit rule lets a thread issue; a thread between the chunks of a stream is free of it (02 R23, 17
R290). -/
def State.revisit (s : State) (t : Thread) : Bool :=
  t.stream.isSome || (match t.lastIssue with | some c => decide (c + 8 ≤ s.clock) | none => true)
/-- Whether the barrel may pick a thread in rotation: a gang's leader issues for the gang while the gang does not stand, and
a member by itself only in its handler, or to go on with what it has begun (02 R23, R29). -/
def State.eligible (s : State) (t : Thread) : Bool :=
  s.ready t && s.revisit t &&
  (match (s.quad (gidQk t.gid)).gang with
   | some x => x.slot != gidSlot t.gid || t.handler || t.wait.isSome || t.stream.isSome ||
               (x.leader == t.gid && !s.gangStands (gidQk t.gid))
   | none => true)
/-- The gang follower of a core whose clock to issue has come (02 R29). -/
def State.followerDue (s : State) (core : Nat) : Option Nat :=
  match (s.quad (ckQuad core)).gang with
  | none => none
  | some x => (x.todo.find? fun e => gidCk e.1 == core && decide (e.2.2.1 ≤ s.clock) &&
      (match s.thread? e.1 with | some t => s.ready t | none => false)).bind fun e =>
      -- a trap in any member stops the gang until its handler returns
      if (gangMembers s.pkg (ckQuad core) x.slot).any fun g => match s.thread? g with
        | some t => t.handler || (match t.wait with | some w => w.why == .super | none => false)
        | none => false
      then none else some e.1
/-- The released thread that the barrel takes first in the 16 clocks after a refill, a gang's leader for its gang: the highest effective priority, then
the lowest slot (02 R27). -/
def State.releasedFirst (s : State) (core : Nat) : Option Nat :=
  let c := s.core core
  let ts := (sortBy gidSlot c.released).filter fun g =>
    match s.thread? g with | some t => s.eligible t | none => false
  if c.relClock + 16 ≤ s.clock then none
  else ts.find? fun g => ts.all fun h => decide (s.eprio h ≤ s.eprio g)
/-- The first eligible slot in ascending cyclic order, from the slot after the one that issued last (02 R23). -/
def State.rotation (s : State) (core : Nat) : Option Nat :=
  ((List.range 16).map fun i => s.gidOf core (((s.core core).last + 1 + i) % 16)).find? fun g =>
    match s.thread? g with | some t => s.eligible t | none => false
/-- The thread that a core issues in this clock; none is a bubble (02 R23). -/
def State.chosen (s : State) (core : Nat) : Option Nat :=
  if (s.core core).issuedAt == some s.clock then none
  else
    match s.followerDue core with
    | some g => some g
    | none =>
      match s.releasedFirst core with
      | some g => some g
      | none => s.rotation core
/-- Step `BARREL_ISSUE`: the choice of the clock; the chosen thread's issue is the machine's next step (02 R23; log 2). -/
def execBarrelIssue (core : Nat) (s : State) : Out :=
  match s.chosen core with
  | some g => .next { s with issueQ := s.issueQ ++ [g] }
  | none => .next s

/-- Step `STEAL_ATTEMPT` of a core (20 R346). A push or pop of the core's own threads goes before a take of the same clock: nothing is
taken while the core has an issue of the clock to make (20 R344). -/
def execStealAttempt (core : Nat) (s : State) : Out :=
  let running := (s.threads.filter fun t => gidCk t.gid == core && t.stat == .running).length
  if 8 ≤ running then .next s
  else
    match s.victim core with
    | some (src, e) => .next (if (s.chosen src).isSome then s else s.take core src e)
    | none => .next s

end Sys2Proof.Machine
end

