-- ==== Sys2Proof/Machine/Control.lean ====
section
/-!
DEFINITION. Control, signals, guards, fork and join, `inst`, `trig`, `gang`: opcodes 0x00 to 0x17 (05 R86 to R98; 02 R34 to
R46).
-/
namespace Sys2Proof.Machine

/-- A protection fault with the opcode of the issuing head. -/
def State.protOpc (s : State) : Out := s.prot s.iss.opc
/-- Refuse slot 15. -/
def State.user (s : State) (f : State → Out) : Out := if s.inSuper then s.protOpc else f s

/-- A transfer of control: `form` says whether its target is well formed in itself, `f` is what the instruction writes beside
it. A gang follower goes where its leader went; a target is checked only where the transfer is taken, once its line has a
translation (02 R29; 03 R57; 05 R89). -/
def State.branchTo (s : State) (taken form : Bool) (pc : Nat) (f : State → State) : Out :=
  match s.iss.follow with
  | some n => .next ((f s).jump n)
  | none =>
    if !taken then (f s).ok
    else s.toTarget form pc fun ok s => if ok then .next ((f s).jump pc) else s.trap clsTarget pc
/-- `NOP` (05 R88). -/
def execNop (s : State) : Out := s.ok
/-- `BR` (05 R88). -/
def execBr (slot : Fin 64) (imm : BitVec 32) (s : State) : Out := s.branchTo true (tgtForm imm slot) (s.tgt imm slot) id
/-- `BRC` (05 R88). -/
def execBrc (e : Fin 128) (a b : Reg) (slot : Fin 64) (imm : BitVec 32) (s : State) : Out :=
  s.branchTo (ccHolds e.val (s.g a) (s.g b)) (tgtForm imm slot) (s.tgt imm slot) id
/-- `BRR` (05 R88). -/
def execBrr (a : Reg) (s : State) : Out := s.branchTo true true (s.gv a) id
/-- `CALL` (05 R88). -/
def execCall (d : Reg) (slot : Fin 64) (imm : BitVec 32) (s : State) : Out :=
  s.branchTo true (tgtForm imm slot) (s.tgt imm slot) fun s => s.put d (wd s.iss.succ)
/-- `RET` (05 R88). -/
def execRet (a : Reg) (s : State) : Out := s.branchTo true true (s.gv a) id
/-- `LOOP` (05 R88). -/
def execLoop (d : Reg) (slot : Fin 64) (imm : BitVec 32) (s : State) : Out :=
  let v := s.g d - 1
  s.branchTo (v != 0) (tgtForm imm slot) (s.tgt imm slot) fun s => s.put d v

/-- Post the cedes of threads that stop, one entry each, as far as their cores' store buffers have room; the rest wait for one
entry to drain, and the claims that are ceded are no longer live (02 R24; 05 R92). -/
def State.cedeSome (s : State) (gs : List Nat) : State :=
  gs.foldl (fun s g => (s.thread g).liveSigs.foldl (fun s n => if s.roomAt (gidCk g) 1 then s.postCede g n else s) s) s
def State.cedesLeft (s : State) (gs : List Nat) : Bool := gs.any fun g => !(s.thread g).liveSigs.isEmpty
/-- None of the threads for which a `pause` or `halt` acts owns deque entries: one that does takes the fault, and the rest of
its gang stands (02 R29; 20 R349). -/
def State.unowned (s : State) (gs : List Nat) (f : State → Out) : Out :=
  if s.ownsEntries then s.protOpc
  else
    match gs.find? fun g => !(s.entriesOf (s.thread g)).isEmpty with
    | none => f s
    | some g =>
      let s := s.deliver g { cls := clsProtection, tval := s.iss.opc, kind := 0 } s.iss.pc false false
      .next { s with iss := { s.iss with again := true } }
/-- Retire the task of each thread that a `halt` ends; one that must wait issues the `halt` when its wait is over (20 R350, R351). -/
def State.retireAll (s : State) (me : Nat) : List Nat → (State → Out) → Out
  | [], k => k { s with iss := { s.iss with gid := me } }
  | g :: gs, k => State.retire { s with iss := { s.iss with gid := g } } fun s => s.retireAll me gs k
/-- `HALT` (02 R35; 05 R89; 20 R349, R350). -/
def execHalt (s : State) : Out :=
  s.user fun s =>
    let gs := s.wholeGang s.iss.gid
    s.unowned gs fun s =>
      let s := s.cedeSome gs
      if s.cedesLeft gs then .next (s.retry (.buffer 1))
      else s.retireAll s.iss.gid gs fun s => .next (gs.foldl State.haltThread s)
/-- `PAUSE` (02 R35; 05 R89; 20 R349). The other members of a gang go on where they stand, if the pause is that of a handler,
and after the `pause` otherwise. -/
def execPause (s : State) : Out :=
  s.user fun s =>
    let gs := s.wholeGang s.iss.gid
    s.unowned gs fun s =>
      let s := s.cedeSome gs
      if s.cedesLeft gs then .next (s.retry (.buffer 1))
      else
        let handler := s.me.handler
        .next (gs.foldl (fun s g =>
          let own := (s.thread g).handler || handler
          s.pauseThread g (if g != s.iss.gid && own then (s.thread g).pc.toNat else s.iss.succ)) s)

/-- The signal number of an operand, checked (05 R91). -/
def State.withSig (s : State) (op : SigOp) (f : Nat → State → Out) : Out :=
  s.user fun s =>
    let n := s.sigNo op
    let nsig := ((s.domain? s.myDom).map (·.sigs.length)).getD 0
    if nsig ≤ n then s.trap clsTarget n else f n s
/-- A signal release (05 R86): earlier stores, updates and signal operations at `dscope` come first. -/
def State.afterRelease (s : State) (f : State → Out) : Out :=
  if s.releaseDue then .next (s.retry (.drain (s.dscope s.myDom))) else f s
/-- Read a signal's entry at its home after the thread's own earlier cede of it, which is an access to the same word (08
R143). -/
def State.atEntry (s : State) (n : Nat) (f : Sig → State → Out) : Out :=
  let k := s.sigKey s.myDom n
  if s.wordsDue s.me.uid k 8 then .next (s.retry (.words k 8))
  else
    let s := s.bringIn s.myDom n
    f (s.entry s.myDom n) s
/-- An emission, with a value or without: the thread is out of rotation until the bank's reply (02 R36, R37; 05 R92, R93). -/
def State.emission (s : State) (n : Nat) (v : Option Nat) : Out :=
  let s := s.bringIn s.myDom n
  let e := s.entry s.myDom n
  if e.st = 2 then s.trap clsLate n
  else
    let e := { e with st := 1 }
    let e := match v with | some x => e.combine x | none => e
    let s := ((s.setEntry s.myDom n e).remember s.myCore s.myDom n true).settleSig s.myDom n
    s.replied (s.homeBank s.myDom) 0 0 false (s.doneTo 0 0 0 8 false)
/-- `EMIT` (05 R92). -/
def execEmit (sig : SigOp) (s : State) : Out := s.withSig sig fun n s => s.afterRelease fun s => s.emission n none
/-- `EMITV` (05 R92). -/
def execEmitv (a : Reg) (sig : SigOp) (s : State) : Out :=
  s.withSig sig fun n s => s.afterRelease fun s => s.emission n (some (s.gv a))
/-- `PRES` (02 R38; 05 R93). -/
def execPres (pd : PReg) (sig : SigOp) (s : State) : Out :=
  s.withSig sig fun n s =>
    match (s.core s.myCore).status.find? fun e => e.1 == s.myDom && e.2.1 == n with
    | some e => s.resP pd e.2.2
    | none => s.atEntry n fun e s =>
      if e.st = 0 then .next (s.parkSig n (s.doneTo 0 0 pd.val 0 false))
      else (s.remember s.myCore s.myDom n (e.st == 1)).replied (s.homeBank s.myDom) 0 0 (e.st == 1) (s.doneTo 0 0 pd.val 8 false)
/-- Whether the issuing thread holds a claim on a signal, and a live one. -/
def State.claimed (s : State) (n : Nat) : Bool := s.me.claims.any (·.sig == n)
def State.claimedLive (s : State) (n : Nat) : Bool := s.me.claims.any fun c => c.sig == n && c.live
/-- `CEDE` (05 R92). -/
def execCede (sig : SigOp) (s : State) : Out :=
  s.withSig sig fun n s =>
    if !s.claimedLive n then s.ok
    else if s.bufferRoom 1 then (s.postCede s.iss.gid n).ok
    else .next (s.retry (.buffer 1))
/-- `UNCLAIM` (02 R35; 05 R92). -/
def execUnclaim (sig : SigOp) (s : State) : Out :=
  s.withSig sig fun n s =>
    let free (s : State) : State := s.modMe fun t => { t with claims := t.claims.filter (·.sig != n) }
    if !s.claimedLive n then (free s).ok
    else if s.bufferRoom 1 then (free (s.postCede s.iss.gid n)).ok
    else .next (s.retry (.buffer 1))
/-- `CLAIM` (02 R34; 05 R92). -/
def execClaim (d : Reg) (sig : SigOp) (s : State) : Out :=
  s.withSig sig fun n s => s.atEntry n fun e s =>
    let home := s.homeBank s.myDom
    let add (live : Bool) : State := s.modMe fun t => { t with claims := t.claims ++ [{ sig := n, live := live }] }
    if s.claimed n then s.reply d home 0
    else if Config.claimSlots ≤ s.me.claims.length then s.reply d home 2
    else if Config.maxCnt ≤ e.cnt then s.reply d home 3
    else if e.st = 2 then (add false).reply d home 1
    else
      let s := (add true).setEntry s.myDom n { e with cnt := e.cnt + 1 }
      (if (s.parkedOn (sigObj s.myDom n) okSig).isEmpty then s else s.claimEdges s.myDom n).reply d home 0
/-- `SIGV_CUR` (02 R40; 05 R93). -/
def execSigvCur (d : Reg) (sig : SigOp) (s : State) : Out :=
  s.withSig sig fun n s => s.atEntry n fun e s =>
    if e.st = 0 || e.cnt != 0 then .next (s.parkSig n (s.doneTo d.val 0 0 8 false))
    else s.reply d (s.homeBank s.myDom) e.current
/-- `SIGV_PREV` (02 R40; 05 R93). -/
def execSigvPrev (d : Reg) (sig : SigOp) (s : State) : Out :=
  s.withSig sig fun n s => s.atEntry n fun e s =>
    s.reply d (s.homeBank s.myDom) (if e.cmb = 0 then 0 else e.prev)

/-- Push a guard entry, a new block instance (02 R43). -/
def State.pushGuard (s : State) (abort : Bool) (n exit : Nat) : State :=
  let (id, s) := s.takeId
  s.modMe fun t => { t with guards := t.guards ++ [{ abort := abort, sig := n, exit := exit, id := id, own := true }] }
/-- `ABORTW` (05 R94). -/
def execAbortw (sn : Fin 4096) (slot : Fin 64) (imm : BitVec 32) (s : State) : Out :=
  s.withSig (.imm sn) fun n s =>
    if Config.guardEntries ≤ s.me.guards.length then s.prot s.me.guards.length
    else s.toTarget (tgtForm imm slot) (s.tgt imm slot) fun ok s =>
      if ok then (s.pushGuard true n (s.tgt imm slot)).ok else s.trap clsTarget (s.tgt imm slot)
/-- `SUSPW` (05 R94). -/
def execSuspw (sig : SigOp) (s : State) : Out :=
  s.withSig sig fun n s =>
    if Config.guardEntries ≤ s.me.guards.length then s.prot s.me.guards.length else (s.pushGuard false n 0).ok
/-- `ENDW` (02 R43). -/
def execEndw (s : State) : Out :=
  s.user fun s => if s.me.guards.isEmpty then s.prot 0 else (s.modMe fun t => { t with guards := t.guards.dropLast }).ok

/-- The free fork slot for a child: on the parent's core, else on the quad's other cores in ascending order (02 R46). -/
def State.forkSlot (s : State) (d : Domain) : Option Nat :=
  let here := s.myCore
  (here :: ((List.range 4).map (s.myQuad * 4 + ·)).filter (· != here)).findSome? (s.freeFork d)
/-- `FORK` (02 R46; 05 R95). -/
def execFork (d : Reg) (slot : Fin 64) (imm : BitVec 32) (s : State) : Out :=
  s.user fun s =>
    if s.inGang then s.protOpc
    else s.toTarget (tgtForm imm slot) (s.tgt imm slot) fun ok s =>
      let p := s.me
      if !ok then s.trap clsTarget (s.tgt imm slot)
      else if Config.maxChildren ≤ p.children.length then s.res d 2
      else
        match s.domain? s.myDom with
        | none => s.res d 1
        | some dom =>
          match s.forkSlot dom with
          | none => s.res d 1
          | some g =>
            let uid := s.nextUid
            let s1 := s.create g dom fun t =>
              { t with regs := p.regs, preds := p.preds, prioBase := p.prioBase, prioCeil := p.prioCeil, wdlim := p.wdlim,
                       wdlimMax := p.wdlimMax, asid := p.asid, guards := p.guards.map (fun x => { x with own := false }),
                       pc := wd (s.tgt imm slot) }
            (s1.modMe fun t => { t with children := t.children ++ [uid] }).res d 0
/-- Park in `join`, with a wait edge to each child still reacting; a cycle traps the thread (02 R46, 11 R190). -/
def State.parkJoin (s : State) (kids : List Thread) : State :=
  let g := s.iss.gid
  let s := s.modMe fun t =>
    { t with wait := some { why := .children, again := false, half := false, fin := s.doneTo 0 0 0 8 false }, stat := .parked,
             pc := wd s.iss.pc }
  kids.foldl (fun s c =>
    if s.iss.trapped then s
    else
      match (s.hold (gidDie c.gid) (childObj c.gid) okChild 1 c.gid).enterWait g (gidDie c.gid) (childObj c.gid) okChild with
      | (s, none) => s
      | (s, some tr) =>
        let s := s.trapWaiting g tr false
        { s with iss := { s.iss with trapped := true } }) s
/-- `JOIN` (02 R46; 05 R95). -/
def execJoin (s : State) : Out :=
  s.user fun s =>
    let kids := s.me.children.filterMap s.byUid
    if kids.isEmpty then (s.modMe fun t => { t with children := [] }).ok
    else if kids.all (·.resting) then
      let gs := s.wholeGang s.iss.gid
      let s := s.cedeSome gs
      if s.cedesLeft gs then .next (s.retry (.buffer 1))
      else .next (((s.pauseJoin s.iss.gid s.iss.pc).iqSettle s.myDom).joinStir s.me.uid (s.threads.length + 1))
    else .next (s.parkJoin (sortBy (·.gid) (kids.filter fun c => !c.resting)))

/-- `INST_NUM` (05 R96). -/
def execInstNum (d : Reg) (s : State) : Out :=
  s.user fun s => s.res d (wd (((s.domain? s.myDom).map (·.inst)).getD 0))
/-- `INST_SEED` (05 R96). -/
def execInstSeed (d : Reg) (s : State) : Out :=
  s.user fun s => s.res d (wd (((s.domain? s.myDom).map (·.seed)).getD 0))
/-- `INST_NSIG` (05 R96). -/
def execInstNsig (d : Reg) (s : State) : Out :=
  s.user fun s => s.res d (wd (((s.domain? s.myDom).map (·.sigs.length)).getD 0))
/-- `TRIG` (05 R97; 20 R351). -/
def execTrig (sc : Scope) (s : State) : Out :=
  s.scoped sc fun s => s.user fun s =>
    if s.storesDue sc.val then .next (s.retry (.stores sc.val)) else s.trigger fun s => s.ok

/-- `GANG_WAIT` (05 R98). -/
def execGangWait (s : State) : Out :=
  s.user fun s =>
    if s.inGang then s.protOpc
    else .next (s.parkMe s.myDie (gangObj s.iss.gid) okGang (s.doneTo 0 0 0 8 false))
/-- Whether a core's thread of the issuer's slot waits for the issuer to lead (05 R98). -/
def State.awaitsGang (s : State) (g : Nat) : Bool :=
  match s.thread? g with
  | some t => t.dom == s.myDom && (match t.wait with | some w => w.why == .parked (gangObj g) okGang | none => false)
  | none => false
/-- `GANG_ON` (05 R98). -/
def execGangOn (d : Reg) (s : State) : Out :=
  s.user fun s =>
    let q := s.quad s.myQuad
    let slot := gidSlot s.iss.gid
    let others := (gangMembers s.pkg s.myQuad slot).filter (· != s.iss.gid)
    if q.gang.isSome then s.res d 2
    else if others.all s.awaitsGang then
      let s := s.setQuad { q with gang := some { leader := s.iss.gid, slot := slot, todo := [] } }
      let s := others.foldl (fun s g => (s.wake g (gidDie g) 0 0 false).modThread g fun t => { t with pc := wd s.iss.succ }) s
      s.res d 0
    else s.res d 1
/-- `GANG_OFF` (05 R98). DESIGN CHOICE (log 73): a bundle's V half beside it is the leader's alone, because the gang is gone
when its followers would issue it. -/
def execGangOff (s : State) : Out :=
  s.user fun s =>
    let gs := s.gangOf s.iss.gid
    if gs.isEmpty then s.ok
    else (gs.foldl (fun s g => s.modThread g fun t => { t with pc := wd s.iss.succ }) (s.dissolve s.iss.gid)).ok

end Sys2Proof.Machine
end

