-- ==== Sys2Proof/Machine/Barrier.lean ====
section
/-!
DEFINITION. Network barriers and migration: opcode 0x55 without an object, and 0x57 (06 R117; 09 R173 to R175, R179; 07
R138).
-/
namespace Sys2Proof.Machine

/-- Arrive at a network barrier, which may complete it (09 R174). Which die's table holds the edges of a barrier that spans
dies is a DESIGN CHOICE (`netDie`, log 64). -/
def State.arriveBar (s : State) (d b c : Reg) (m red sc : Nat) (drn : Bool) (drain : Option Nat) : Out :=
  let t := s.me
  let obj := netObj t.dom sc t.gid
  let pend := s.netBars.find? fun x => x.dom == t.dom && x.draining.isNone && (s.participants x).any (·.uid == t.uid) && !x.arrivals.any (·.uid == t.uid)
  let fits (x : NetBar) : Bool := x.scope == sc && x.red == red && x.drn == drn
  if pend.any fun x => !fits x then s.prot m
  else if s.storesDue sc then .next (s.retry (.stores sc))
  else
    let a : Arrival := { gid := t.gid, uid := t.uid, operand := s.gv b, drain := drain, gone := false }
    let bars := match pend with
      | some x => s.netBars.map fun y => if y == x then { y with arrivals := y.arrivals ++ [a] } else y
      | none => s.netBars ++ [{ dom := t.dom, obj := obj, scope := sc, red := red, drn := drn, arrivals := [a], poisoned := false, draining := none }]
    let s := ({ s with netBars := bars }).parkMe (netDie t.gid sc) obj okNet (s.doneTo d.val (if red = 0 then 0 else c.val) 0 8 false)
    .next (s.barSettle t.dom)
/-- `BAR_NETWORK` (06 R117, 09 R173). -/
def execBarNetwork (d b c : Reg) (red : Fin 4) (sc : Scope) (s : State) : Out :=
  s.scoped sc fun s => s.arriveBar d b c (sc.val + 16 * red.val) red.val sc.val false none
/-- `BAR_DRAIN` (06 R117, 09 R173). -/
def execBarDrain (d a b c : Reg) (red : Fin 4) (sc : Scope) (s : State) : Out :=
  s.scoped sc fun s =>
    let ea := s.gv a
    (s.bankAccess needW 8 ea 8).bind (fun s => s.arriveBar d b c (sc.val + 8 + 16 * red.val) red.val sc.val true none) fun k s =>
      s.arriveBar d b c (sc.val + 8 + 16 * red.val) red.val sc.val true (some ((homeQuad k).getD 0))

/-- Move the issuing thread's context to a slot; its holds name it by its new identifier (07 R138). -/
def State.moveTo (s : State) (g : Nat) : State :=
  let old := s.iss.gid
  let t := s.me
  let c := s.myCore
  let s := s.setCore { s.core c with posted := (s.core c).posted.filter fun p => p.1 != gidSlot old }
  let s : State := { s with
    threads := insertBy (·.gid) { t with gid := g, contReg := none, contVal := none } (s.threads.filter fun (x : Thread) => x.gid != old),
    edges := s.edges.map fun e => { e with gid := if e.gid == old then g else e.gid, obj := if e.obj == childObj old then childObj g else e.obj },
    rsvs := s.rsvs.map fun r => if r.uid == t.uid then { r with gid := g } else r }
  { s with iss := { s.iss with gid := g } }
/-- `MIGR` (07 R138; 09 R179; 20 R349). -/
def execMigr (d a : Reg) (s : State) : Out :=
  s.user fun s =>
    let x := s.gv a
    if s.inGang || s.me.qmap != 0 || s.ownsEntries then s.protOpc
    else if x / 2 ^ 60 != 4 then s.prot x
    else
      (s.access needR false 8 x 8).bind (fun s => s.res d 1) fun k s =>
        let q := (homeQuad k).getD 0
        if q = s.myQuad then s.res d 0
        else if s.buffered then .next (s.retry (.drain 6))
        else
          match (s.domain? s.myDom).bind fun dom => ((List.range 4).map (q * 4 + ·)).findSome? (s.freeFork dom) with
          | none => s.res d 1
          | some g =>
            -- the last thread that had not arrived at a barrier may have left its scope (06 R117)
            match (s.moveTo g).res d 0 with
            | .next t => .next (t.barSettle s.myDom)
            | o => o

end Sys2Proof.Machine
end

