-- ==== Sys2Proof/Machine/HostMem.lean ====
section
/-!
DEFINITION. What the device writes in host memory: completion and fault rings, their consumed counts and their doorbells
(22 R380, R387).
-/
namespace Sys2Proof.Machine

def State.hostWrite (s : State) (a : Nat) (bs : List Byte) : State := s.writeBytes (hostKey (a % 2 ^ 60)) bs
def State.hostRead (s : State) (a n : Nat) : Nat := s.readN (hostKey (a % 2 ^ 60)) n
def State.hostBytes (s : State) (a n : Nat) : List Byte := s.bytesAt (hostKey (a % 2 ^ 60)) n
/-- A ring is full when its records less the consumed count, modulo 2^32, equal its entries (22 R380). -/
def Ring.full (r : Ring) : Bool := (r.n + 2 ^ 32 - r.cons % 2 ^ 32) % 2 ^ 32 == r.entries
/-- The ring with its consumed count read again, where the last reading shows it full. -/
def State.ringRead (s : State) (r : Ring) : Ring := if r.full then { r with cons := s.hostRead r.consAt 4 } else r
/-- Write a record into a ring that has room; none where it is full (22 R380, R387). -/
def State.ringPost (s : State) (r : Ring) (bs : List Byte) : Option (Ring × State) :=
  let r := s.ringRead r
  if r.full then none
  else some ({ r with n := r.n + 1 }, s.hostWrite (r.base + r.n % r.entries * 32) bs)

/-- What posting to a partition's fault queue comes to (22 R387). -/
inductive Posted where
  | noQueue
  | full
  | posted (num : Nat) (s : State)
/-- Post a record to a partition's fault queue, and its number to the notify address (22 R387). -/
def State.postFault (s : State) (part kind acc dom gid addr asid : Nat) : Posted :=
  match s.part? part with
  | none => .noQueue
  | some p =>
    match p.faultQ with
    | none => .noQueue
    | some r =>
      let num := p.recNum + 1
      let rec32 := bytesOf 8 num ++ bytesOf 1 kind ++ bytesOf 1 acc ++ bytesOf 2 dom ++ bytesOf 4 gid ++ bytesOf 8 addr ++
        bytesOf 2 asid ++ bytesOf 6 0
      match s.ringPost r rec32 with
      | none => .full
      | some (r, s) =>
        let s := s.modPart part fun p => { p with faultQ := some r, recNum := num }
        .posted num (if r.notify = 0 then s else s.hostWrite r.notify (bytesOf 8 num))

end Sys2Proof.Machine
end

