-- ==== Sys2Proof/Machine/Dealer.lean ====
section
/-!
DEFINITION. The dealer: the lull, and its four steps as one step of the part (02 R41, R42): closing the outputs (22 R384),
guards (02 R43 to R45; 05 R99), the new instant (01 R17; 02 R33; 05 R93; 15 R262; 22 R383), and resumption (02 R42, R48).
-/
namespace Sys2Proof.Machine

/-- Fields of a command record (22 R379); `arg` counts from the arguments' first byte. -/
def Cmd.code (c : Cmd) : Nat := field c.bytes 0 2
def Cmd.tag (c : Cmd) : Nat := field c.bytes 4 4
def Cmd.gen (c : Cmd) : Nat := field c.bytes 8 4
def Cmd.notify (c : Cmd) : Bool := tbit (field c.bytes 2 2) 0
def Cmd.arg (c : Cmd) (off n : Nat) : Nat := field c.bytes (16 + off) n
/-- Argument bytes of each command; none for a code that is not listed (22 R381). -/
def argBytes (code : Nat) : Option Nat :=
  match code with
  | 0x01 | 0x02 | 0x0D | 0x10 | 0x12 => some 28
  | 0x03 | 0x06 => some 18
  | 0x04 => some 34
  | 0x05 => some 12
  | 0x07 | 0x08 | 0x09 | 0x13 => some 10
  | 0x0A | 0x11 => some 2
  | 0x0B | 0x15 => some 12
  | 0x0C => some 8
  | 0x14 => some 16
  | 0x18 => some 72
  | _ => none
/-- A listed code with its reserved bytes zero (22 R379, R382; log 33). -/
def Cmd.wellFormed (c : Cmd) : Bool :=
  match argBytes c.code with
  | none => false
  | some n => field c.bytes 2 2 / 2 == 0 && field c.bytes 12 4 == 0 && c.arg n (112 - n) == 0
/-- The die whose command core serves a page (log 27), and that core. -/
def Page.die (p : Page) : Nat := p.page % 4
def cmdCore (die : Nat) : Nat := die * 16384
/-- The widest level of a domain in its instant: the threads that have halted in it, and the issuers of what is still on its
way, count (05 R86; 08 R153). -/
def State.instantScope (s : State) (dom : Nat) : Nat :=
  levelOf (((s.threads.filter (·.dom == dom)).map (·.gid)) ++ ((s.ended.filter fun e =>
      e.thread.dom == dom && (match s.domain? dom with | some d => e.inst == d.inst | none => false)).map (·.thread.gid)) ++
    ((s.reqs.filter fun r => r.dom == dom && r.uid != 0).map (·.gid)))
/-- Whether a domain's running count is zero, and its accesses and messages of the instant homed within its widest level are
performed, whoever made them (02 R41; 05 R86; 08 R153; 19 R338). -/
def State.quiet (s : State) (dom : Nat) : Bool :=
  ((s.threads.filter (·.dom == dom)).all (·.resting)) && ((s.iqs.filter (·.dom == dom)).all (·.recs.isEmpty)) &&
  !(s.reqs.any fun r => r.dom == dom && r.res.isNone && r.uid != 0 &&
      (r.isCede || (r.posted && s.inExtent r.gid (s.instantScope dom) r.key))) &&
  !(s.msgs.any fun m => m.flit.dom == dom && m.ldc.isNone && s.msgIn m.flit.src (s.instantScope dom) m)

/-- The closed record of a domain's output signals: number, status and value of each (22 R384). -/
def Domain.outRecord (d : Domain) : List (Nat × Nat × Nat) :=
  (List.range d.sigs.length).filterMap fun n =>
    let e := d.sigs.getD n Sig.none
    if e.out then some (n, e.closed d.inst) else none
/-- Dealer step 1: the record is written, and the last 16 are kept (02 R42, 22 R384). -/
def State.dealerClose (s : State) (dom : Nat) : State :=
  s.modDomain dom fun d => { d with outs := (d.outs ++ [(d.inst, d.outRecord)]).drop (d.outs.length + 1 - Config.outputRecords) }

/-- The guards of a thread that are visited, outermost first: of a thread that did not react, those that enclose the one
that held it, and that one (02 R44; log 25). -/
def Thread.visited (t : Thread) : List Guard :=
  match t.stat, t.heldBy with
  | .suspended, some h => t.guards.take (t.guards.findIdx (·.id == h) + 1)
  | _, _ => t.guards
def Thread.guardAt (t : Thread) (n : Nat) : Option Guard := t.visited[n]?
/-- The owner of an aborted instance pops it and resumes at its exit; any other thread of it is killed (02 R44, R45). -/
def State.abortGuard (s : State) (n : Nat) (t : Thread) (g : Guard) : State :=
  if g.own then s.modThread t.gid fun t => { t with guards := t.guards.take n, pc := wd g.exit } else s.endThread t.gid
/-- Visit one instance at depth `n`; `held` lists the threads suspended so far, each with the instance that holds it. -/
def State.visitGuard (dom n : Nat) (x : State × List (Nat × Nat)) (id : Nat) : State × List (Nat × Nat) :=
  let (s, held) := x
  let ts := (s.threads.filter (·.dom == dom)).filterMap fun t =>
    match t.guardAt n with | some g => if g.id == id then some (t, g) else none | none => none
  match ts with
  | [] => x
  | (_, g) :: _ =>
    let k := ((s.domain? dom).map (·.inst)).getD 0
    if ((s.entry dom g.sig).closed k).1 != 1 then x
    else if g.abort then (ts.foldl (fun s (t, g) => s.abortGuard n t g) s, held)
    else (s, held ++ (ts.filter fun (t, _) => !held.any (·.1 == t.gid)).map fun (t, _) => (t.gid, id))
/-- Every instance of one depth. -/
def State.visitDepth (dom : Nat) (x : State × List (Nat × Nat)) (n : Nat) : State × List (Nat × Nat) :=
  let ids := dedup ((x.1.threads.filter (·.dom == dom)).filterMap fun t => (t.guardAt n).map (·.id))
  ids.foldl (State.visitGuard dom n) x
/-- A gang of which a boundary suspends some members but not all dissolves (05 R99). -/
def State.splitGangs (s : State) (held : List (Nat × Nat)) : State :=
  held.foldl (fun s (g, _) =>
    if (s.gangOf g).all fun x => held.any (·.1 == x) then s else s.dissolve g) s
/-- Dealer step 2: guards, outermost first (02 R42, R44). -/
def State.dealerGuards (s : State) (dom : Nat) : State :=
  let (s, held) := (List.range Config.guardEntries).foldl (State.visitDepth dom) (s, [])
  let s := s.splitGangs held
  { s with threads := s.threads.map fun t =>
      if t.dom != dom then t
      else match held.find? (·.1 == t.gid) with
        | some (_, id) => { t with stat := .suspended, heldBy := some id }
        | none => { t with stat := .paused, heldBy := none } }

/-- Bring an entry into the domain's instant with its pending host inputs (01 R17, 22 R383). -/
def State.refresh (s : State) (dom n : Nat) : State :=
  match s.domain? dom with
  | none => s
  | some d =>
    s.setEntry dom n ((d.sigs.getD n Sig.none).bring d.inst (s.claimsOn dom n) ((d.inputs.filter (·.1 == n)).map (·.2)))
/-- Dealer step 3: the next instant begins; the claims are live again; the caches of the domain are cleared; every entry
is refreshed where the low 23 bits of the instant are zero; then the host's inputs act (02 R33, R35, R42; 05 R93; 15 R262;
22 R383). -/
def State.dealerAdvance (s : State) (dom : Nat) : State :=
  let s := s.modDomain dom fun d => { d with inst := (d.inst + 1) % 2 ^ 64 }
  let s : State := { s with
    threads := s.threads.map fun t => if t.dom == dom then { t with claims := t.claims.map fun c => { c with live := true } } else t,
    cores := s.cores.map fun c => { c with status := c.status.filter (·.1 != dom), handles := c.handles.filter (·.1 != dom) } }
  match s.domain? dom with
  | none => s
  | some d =>
    let eager := if d.inst % 2 ^ 23 = 0 then List.range d.sigs.length else []
    let s := (eager ++ dedup (d.inputs.map (·.1))).foldl (fun s n => s.refresh dom n) s
    s.modDomain dom fun d => { d with inputs := [] }

/-- Cede every claim a suspended thread holds (02 R42). -/
def State.cedeHeld (s : State) (t : Thread) : State :=
  let s := t.claims.foldl (fun s c => (s.bringIn t.dom c.sig).applyCede t.dom c.sig) s
  s.modThread t.gid fun t => { t with claims := t.claims.map fun c => { c with live := false } }
/-- A paused thread runs again, and its watchdog count starts (02 R42, R48). -/
def Thread.resumed (t : Thread) (clock : Nat) : Thread :=
  { t with stat := .running, wdStart := clock, wdRun := true, wdFired := false, wdArmed := false, wdPending := false }
/-- Dealer step 4 (02 R42). -/
def State.dealerResume (s : State) (dom : Nat) : State :=
  let s := (s.threads.filter fun t => t.dom == dom && t.stat == .suspended).foldl State.cedeHeld s
  let s : State := { s with threads := s.threads.map fun t => if t.dom == dom && t.stat == .paused then t.resumed s.clock else t }
  (s.modDomain dom fun d => { d with stat := .reacting, suspendTo := none }).iqSettle dom

/-- Whether an accepted command of a page is an input to a domain that its closure takes: its third step does not begin before the
command is accepted, whatever else of its page is still to be performed (22 R383). -/
def State.takesInput (s : State) (d : Domain) (p : Page) (c : Cmd) : Bool :=
  c.result.isNone && c.code == 5 && c.wellFormed && c.gen == p.gen && p.fn == d.fn && c.arg 0 2 == d.num &&
  decide (c.arg 2 2 < d.sigs.length) && !(d.sigs.getD (c.arg 2 2) Sig.none).out && !(s.core (cmdCore p.die)).halted
/-- Whether an input to the domain has been accepted and not performed. -/
def State.inputDue (s : State) (d : Domain) : Bool := s.pages.any fun p => p.cmds.any (s.takesInput d p)
/-- The inputs accepted before the third step act in the instant that comes, which is their value (22 R383; log 49). -/
def State.takeInputs (s : State) (dom : Nat) : State :=
  match s.domain? dom with
  | none => s
  | some d =>
    let xs := s.pages.flatMap fun p => (p.cmds.filter (s.takesInput d p)).map fun c => (c.arg 2 2, c.arg 4 8)
    let ended (p : Page) (c : Cmd) : Cmd := if s.takesInput d p c then { c with result := some (0, d.inst + 1, 0) } else c
    ({ s with pages := s.pages.map fun p => { p with cmds := p.cmds.map (ended p) } } : State).modDomain dom fun d =>
      { d with inputs := d.inputs ++ xs }
/-- The closure of an instant (02 R42). A domain that a suspend command waits for stops after step 3. -/
def State.closure (s : State) (dom : Nat) : State :=
  let s := s.dealerClose dom
  if !(s.threads.any (·.dom == dom)) then s.endDomain dom .terminated (endWord 1 0 0) 0
  else
    let s := ((s.dealerGuards dom).takeInputs dom).dealerAdvance dom
    match (s.domain? dom).bind (·.suspendTo) with
    | some _ => s.modDomain dom fun d => { d with stat := .closing 3 }
    | none => s.dealerResume dom
/-- Step `LULL` (02 R41, R42). -/
def execLull (dom : Nat) (s : State) : Out :=
  match s.domain? dom with
  | some d => .next (if d.stat == .reacting && s.quiet dom then s.closure dom else s)
  | none => .next s

end Sys2Proof.Machine
end

