-- ==== Sys2Proof/Machine/Handles.lean ====
section
/-!
DEFINITION. Tensor handles: the record and its checks (15 R255 to R257), addresses of elements (R258), iteration (R259),
the handle cache (R262), granules and redirection (R264, R266), fabric channels (19 R334), and reading and writing one
element for a thread or an engine. A thread's accesses by a handle are plain (17 R289 to R291): its reads of homes outside its
own private memory are asked for and waited for, and its writes leave with the chunk, through the store buffer.
-/
namespace Sys2Proof.Machine

/-- Coordinates of an element. -/
abbrev Ix := Nat × Nat × Nat × Nat

/-- A handle with its format resolved (15 R255, R256). -/
structure Handle where
  va : Nat
  base : Nat
  conv : Nat
  e0 : Nat
  e1 : Nat
  e2 : Nat
  e3 : Nat
  ctl : Nat
  fill : Nat
  gen : Nat
  rest : Nat
  fmt : Nat
  deriving DecidableEq, Repr

/-- The format a code stands for where `inh` means `ef` (15 R257). -/
def resolveFmt (ef f : Nat) : Nat := if f = 15 then ef else f
/-- The handle in a 64-byte record. -/
def Handle.of (va raw ef : Nat) : Handle :=
  let f (off n : Nat) := raw / 2 ^ (8 * off) % 2 ^ (8 * n)
  { va := va, base := f 0 8, conv := f 8 8, e0 := f 16 4, e1 := f 20 4, e2 := f 24 4, e3 := f 28 4, ctl := f 32 8,
    fill := f 40 8, gen := f 48 4, rest := f 52 12, fmt := resolveFmt ef (bits (f 32 8) 4 0) }
def Handle.lay (h : Handle) : Nat := bits h.ctl 8 5
def Handle.ch (h : Handle) : Bool := tbit h.ctl 9
def Handle.tile0 (h : Handle) : Nat := if bits h.ctl 31 16 = 0 then h.e0 else bits h.ctl 31 16
def Handle.tile1 (h : Handle) : Nat := if bits h.ctl 47 32 = 0 then h.e1 else bits h.ctl 47 32
/-- Bits of an element. -/
def Handle.w (h : Handle) : Nat := fmtWidth h.fmt
def Handle.n (h : Handle) : Nat := h.e0 * h.e1 * h.e2 * h.e3
def Handle.ext (h : Handle) : Ix := (h.e0, h.e1, h.e2, h.e3)
/-- Rows of a page, pages of a plane (15 R257). -/
def Handle.q (h : Handle) : Nat := 65536 * 8 / (h.e0 * h.w)
def Handle.p (h : Handle) : Nat := cdiv h.e1 h.q
/-- Edge of a tile. -/
def Handle.edge (h : Handle) : Nat := if h.lay = 2 then 8 else 32
/-- Blocks of a scaled handle's images: rows and columns of quads (15 R257). -/
def Handle.r (h : Handle) : Nat := h.e0 / 256
def Handle.c (h : Handle) : Nat := h.e1 / 128
/-- The footprint in bytes (15 R257). -/
def Handle.foot (h : Handle) : Nat :=
  match h.lay with
  | 0 | 1 => cdiv (h.n * h.w) 8
  | 2 | 3 => cdiv (roundUp h.e0 h.edge * roundUp h.e1 h.edge * h.e2 * h.e3 * h.w) 8
  | 4 => h.n / 2 + h.n / 8
  | 5 => 20544 * h.r * h.c
  | _ => 8 * h.p * h.e2 * h.e3
def pow8 (n : Nat) : Bool := n == 1 || n == 2 || n == 4 || n == 8
/-- Whether the row of a layout in 15 R257 is met. -/
def Handle.rowOk (h : Handle) : Bool :=
  match h.lay with
  | 0 | 1 | 2 | 3 => true
  | 4 => h.fmt == 13 && h.e0 % 8 == 0
  | 5 => h.fmt == 13 && h.e0 % 256 == 0 && h.e1 % 128 == 0 && pow8 h.r && pow8 h.c && h.e2 == 1 && h.e3 == 1
  | 6 => h.fmt != 13 && 65536 % (h.e0 * (h.w / 8)) == 0
  | _ => false
def extOk (e : Nat) : Bool := e != 0 && decide (e < 2 ^ 31)
/-- Whether a handle is valid (15 R257). -/
def Handle.valid (h : Handle) : Bool :=
  h.rest == 0 && bits h.ctl 63 48 == 0 && bits h.ctl 15 10 == 0 && decide (h.fmt < 15) && extOk h.e0 && extOk h.e1 &&
  extOk h.e2 && extOk h.e3 && h.fill / 2 ^ h.w == 0 && !(h.ch && h.lay != 0) && h.rowOk
/-- `blk` or `cim`. -/
def Handle.scaled (h : Handle) : Bool := h.lay == 4 || h.lay == 5

def Handle.row (h : Handle) (i : Ix) : Nat := i.2.1 + h.e1 * (i.2.2.1 + h.e2 * i.2.2.2)
/-- The block number of an element of a `blk` handle. -/
def Handle.block (h : Handle) (i : Ix) : Nat := i.1 / 8 + h.e0 / 8 * h.row i
/-- The image of an element of a `cim` handle. -/
def Handle.image (h : Handle) (i : Ix) : Nat := i.1 / 256 * h.c + i.2.1 / 128
/-- Page-table entry (0 where there is none) and bit offset of an element (15 R258). -/
def Handle.loc (h : Handle) (i : Ix) : Nat × Nat :=
  let (i0, i1, i2, i3) := i
  match h.lay with
  | 0 => (0, (i0 + h.e0 * h.row i) * h.w)
  | 1 => (0, (i1 + h.e1 * (i0 + h.e0 * (i2 + h.e2 * i3))) * h.w)
  | 2 | 3 =>
    let b := h.edge
    let tile := i0 / b + roundUp h.e0 b / b * (i1 / b + roundUp h.e1 b / b * (i2 + h.e2 * i3))
    (0, (b * b * tile + i0 % b + b * (i1 % b)) * h.w)
  | 4 => (0, 32 * h.block i + 4 * (i0 % 8))
  | 5 => (0, 8 * (20544 * h.image i + 128 * (i1 % 128)) + 4 * (i0 % 256))
  | _ => (i1 / h.q + h.p * (i2 + h.e2 * i3), (i1 % h.q * h.e0 + i0) * h.w)
/-- Byte offset of the scale of an element's block (15 R258). -/
def Handle.scaleOff (h : Handle) (i : Ix) : Nat :=
  if h.lay = 4 then h.n / 2 + h.block i else 20544 * h.image i + 16384 + 32 * (i.2.1 % 128) + i.1 % 256 / 8

/-- Bytes of a granule, granules, and the granule of an element (15 R264). -/
def Handle.granBytes (h : Handle) : Nat :=
  match h.lay with
  | 2 | 3 => max 4096 (h.edge * h.edge * h.w / 8)
  | 5 => 20544
  | 6 => 65536
  | _ => 4096
def Handle.grans (h : Handle) : Nat :=
  match h.lay with
  | 4 => cdiv (h.n / 2) 4096
  | 6 => h.p * h.e2 * h.e3
  | _ => cdiv h.foot h.granBytes
def Handle.gran (h : Handle) (i : Ix) : Nat :=
  match h.lay with
  | 5 => h.image i
  | 6 => (h.loc i).1
  | _ => (h.loc i).2 / 8 / h.granBytes

/-- Element `k` in iteration order of a shape, and all of them (15 R259). -/
def ixOf (e : Ix) (k : Nat) : Ix :=
  (k % e.1, k / e.1 % e.2.1, k / e.1 / e.2.1 % e.2.2.1, k / e.1 / e.2.1 / e.2.2.1)
def shapeN (e : Ix) : Nat := e.1 * e.2.1 * e.2.2.1 * e.2.2.2
def allIx (e : Ix) : List Ix := (List.range (shapeN e)).map (ixOf e)
/-- The element of a source that an element of a shape reads: a dimension of extent 1 repeats (15 R259). -/
def Handle.under (h : Handle) (i : Ix) : Ix :=
  (if h.e0 = 1 then 0 else i.1, if h.e1 = 1 then 0 else i.2.1, if h.e2 = 1 then 0 else i.2.2.1, if h.e3 = 1 then 0 else i.2.2.2)
/-- Whether a source's extents fit a shape (15 R259). -/
def Handle.fits (h : Handle) (e : Ix) : Bool :=
  (h.e0 == e.1 || h.e0 == 1) && (h.e1 == e.2.1 || h.e1 == 1) && (h.e2 == e.2.2.1 || h.e2 == 1) && (h.e3 == e.2.2.2 || h.e3 == 1)
/-- Whether an element lies inside the extents. -/
def Handle.inside (h : Handle) (i : Ix) : Bool :=
  decide (i.1 < h.e0) && decide (i.2.1 < h.e1) && decide (i.2.2.1 < h.e2) && decide (i.2.2.2 < h.e3)
/-- The shape of a handle's window and the element of it at an origin (15 R260). -/
def Handle.window (h : Handle) : Ix := (h.tile0, h.tile1, h.e2, h.e3)
def shiftIx (o0 o1 : Nat) (i : Ix) : Ix := (o0 + i.1, o1 + i.2.1, i.2.2.1, i.2.2.2)

/-- What an access to a handle or an element comes to: a value, a trap, a missing translation, or a wait. -/
inductive Got (α : Type) where
  | ok (a : α) (s : State)
  | trap (cls tval : Nat)
  | miss (need sel va first : Nat)
  | stall (why : Why)
  /-- A wait that keeps what the chunk has taken from its channels so far (19 R334). -/
  | held (why : Why) (s : State)
def Got.bind {α β : Type} (x : Got α) (f : α → State → Got β) : Got β :=
  match x with
  | .ok a s => f a s
  | .trap c t => .trap c t
  | .miss n sel va first => .miss n sel va first
  | .stall w => .stall w
  | .held w s => .held w s
/-- Ask the homes of some words for them, and wait out of rotation for the replies (17 R290). -/
def State.askWords (s : State) (ws : List (Nat × Nat)) : State :=
  let since := s.me.seq
  (ws.foldl (fun s w => (s.request .word w.1 8 w.2 0 false false false).2) s).retry (.gather since ws)
/-- Ask the home of a record for its 64 bytes in one access, and wait out of rotation for the reply (15 R262; 17 R309). -/
def State.askLine (s : State) (ws : List (Nat × Nat)) : State :=
  let since := s.me.seq
  (ws.take 1).foldl (fun s w => (s.request .line w.1 64 w.2 0 false false false).2) s |>.retry (.gather since ws)
/-- Guard a step by a condition. -/
def Got.need {α : Type} (c : Bool) (cls tval : Nat) (x : Got α) : Got α := if c then x else .trap cls tval

/-- Checked bytes: canonical ranges of this package, or bytes that another package serves. -/
inductive Span where
  | here (segs : List (Nat × Nat))
  | away
  deriving DecidableEq, Repr
/-- The keys of a checked extent. -/
def Span.segs (sp : Span) : List (Nat × Nat) := match sp with | .here l => l | .away => []
/-- Checks 1 to 5 of an extent (07 R125, 11 R209). -/
def State.spanOf (s : State) (w : Who) (eng : Bool) (need addr len : Nat) : Got Span :=
  match (if eng then s.engineCheck w need false 1 addr len (pageFuel len) else s.check w need false 1 addr len) with
  | (.ok segs, s) => .ok (.here segs) s
  | (.trap c t, _) => .trap c t
  | (.miss sel va first, _) => .miss need sel va first
  | (.away, s) => .ok .away s
/-- The die that homes an address of the issuing thread's, as far as its mapping tells (11 R189). -/
def State.homeDieOf (s : State) (va : Nat) : Nat :=
  match s.spanOf s.who false needR va 1 with
  | .ok (.here segs) _ => keyDie (segKey segs 0) s.myDie
  | _ => s.myDie
/-- A thread's instruction goes on with the value, or ends as `s` says: nothing of the failed attempt is kept. A write that meets
a moving granule parks at the home of the granule's old address (15 R266, 11 R191). -/
def State.settle {α : Type} (s : State) (x : Got α) (f : α → State → Out) : Out :=
  match x with
  | .ok a s => f a s
  | .trap c t => s.trap c t
  | .miss need sel va first => .next (s.waitWalk need sel va first)
  | .stall (.parked obj ok) => .next (s.parkAgain (s.homeDieOf obj) obj ok)
  | .stall (.gather n ws) => .next (if n = 0 then s.askWords ws else s.askLine ws)
  | .stall w => .next (s.retry w)
  | .held w t => .next (t.retry w)
/-- Run an instruction whose accesses are plain ones of the issuing thread (17 R289). -/
def State.plainly (s : State) (f : State → Out) : Out := f { s with iss := { s.iss with plain := true, puts := [] } }
/-- Whether a word lies in the issuing thread's own private memory, the one place read at issue (02 R24; 17 R290). -/
def State.mine (s : State) (w : Nat) : Bool := keySel w == 1 && keyCore w == s.myCore
/-- The keys of `n` bytes from an offset of ranges. -/
def keysAt (segs : List (Nat × Nat)) (off n : Nat) : List Nat := (List.range n).map fun j => segKey segs (off + j)
/-- The words of some bytes that a plain access still has to ask for, each with its address. -/
def State.missing (s : State) (va : Nat) (keys : List Nat) : List (Nat × Nat) :=
  if s.iss.plain then
    ((List.range keys.length).filter fun j =>
      let w := wordKey (keys.getD j 0)
      !s.mine w && !s.me.words.any (·.1 == w) && !((List.range j).any fun i => wordKey (keys.getD i 0) == w)).map fun j =>
        (wordKey (keys.getD j 0), (va + j) / 8 * 8)
  else []
/-- Wait for words that are missing, all asked for together. -/
def State.fetched (s : State) (ws : List (Nat × Nat)) : Got Unit :=
  match ws.find? fun w => s.movesDue w.1 with
  | some w => .stall (.moves w.1)
  | none =>
    match ws.foldl (fun acc w => if acc.any (·.1 == w.1) then acc else acc ++ [w]) [] with
    | [] => .ok () s
    | l => .stall (.gather 0 l)
/-- A byte that a plain access reads: as the chunk itself has written it, of the thread's own private memory under its stores still
in the buffer, or of a word that has come (08 R143; 17 R291). -/
def State.plainByte (s : State) (k : Nat) : Byte :=
  match s.iss.puts.reverse.find? fun p => decide (p.key ≤ k) && decide (k < p.key + p.bytes.length) with
  | some p => p.bytes.getD (k - p.key) 0
  | none =>
    let w := wordKey k
    if s.mine w then (s.seen s.me.uid k 1).headD 0
    else ((bytesOf 8 (((s.me.words.find? (·.1 == w)).map (·.2.1)).getD 0)).getD (k - w) 0)
/-- Whether a word is uncorrectable as a plain access meets it. -/
def State.plainBad (s : State) (w : Nat) : Bool :=
  if s.mine w then s.bad.contains w else s.me.words.any fun x => x.1 == w && x.2.2
/-- The bytes of a plain access, once its words have come (08 R143; 17 R290). -/
def State.readPlain (s : State) (va : Nat) (keys : List Nat) : Got (List Byte) :=
  match keys.find? fun k => s.mine (wordKey k) && (s.wordsDue s.me.uid (wordKey k) 8 || s.movesDue (wordKey k)) with
  | some k => .stall (if s.movesDue (wordKey k) then .moves (wordKey k) else .words (wordKey k) 8)
  | none =>
    (s.fetched (s.missing va keys)).bind fun _ s =>
      match (List.range keys.length).find? fun j => s.plainBad (wordKey (keys.getD j 0)) with
      | some j => .trap clsEcc ((va + j) / 8 * 8)
      | none => .ok (keys.map s.plainByte) s
/-- Read bytes at keys; `va` is the first one's address (07 R125, check 6). -/
def State.readKeys (s : State) (va : Nat) (keys : List Nat) : Got (List Byte) :=
  if s.iss.plain then s.readPlain va keys
  else
  match (List.range keys.length).find? fun j => s.bad.contains (wordKey (keys.getD j 0)) with
  | some j => .trap clsEcc ((va + j) / 8 * 8)
  | none => .ok (keys.map s.mem.byte) s
/-- Free bytes that another package answers (log 6). -/
def State.farBytes (s : State) : Nat → List Byte × State
  | 0 => ([], s)
  | n + 1 => let (v, s) := s.farWord; let (bs, s) := s.farBytes n; (BitVec.ofNat 8 v :: bs, s)
def State.readSpan (s : State) (va : Nat) (sp : Span) (off n : Nat) : Got (List Byte) :=
  match sp with
  | .here segs =>
    let ks := keysAt segs off n
    let soft := if s.soft.isEmpty then [] else dedup (ks.map wordKey)
    (soft.foldl (fun s k => s.countSoft k 8) s).readKeys (va + off) ks
  | .away => let (bs, s) := s.farBytes n; .ok bs s
/-- The 64 bytes of a record: those of another core's memory or of a bank come in one access, and are used while they still stand
there, so that no use takes half of an update or what was there before a `relay` (15 R262, R263; 17 R309). -/
def State.readLine (s : State) (va : Nat) (sp : Span) : Got (List Byte) :=
  match sp with
  | .away => s.readSpan va sp 0 64
  | .here segs =>
    let ks := keysAt segs 0 64
    let ask : Got (List Byte) := .stall (.gather 1 ((List.range 8).map fun i => (ks.getD (8 * i) 0, va + 8 * i)))
    if !s.iss.plain || ks.all fun k => s.mine (wordKey k) then s.readSpan va sp 0 64
    else if !(s.missing va ks).isEmpty then ask
    else (s.readSpan va sp 0 64).bind fun bs s => if bs = s.segBytes segs then .ok bs s else ask
/-- Keep the writes of a chunk until every one of its reads is done (17 R291). -/
def State.keep (s : State) (ps : List Put) : State := { s with iss := { s.iss with puts := s.iss.puts ++ ps } }
/-- Write bytes at keys. A word only partly written must be readable (07 R125). -/
def State.writeKeys (s : State) (va : Nat) (keys : List Nat) (bs : List Byte) : Got Unit :=
  let k := keys.headD 0
  let n := keys.length
  if s.iss.plain then
    .ok () (s.keep (if keys == (List.range n).map (k + ·) then [{ key := k, va := va, bytes := bs.take n, fills := false, adm := none }]
      else (List.range n).map fun j => { key := keys.getD j 0, va := va + j, bytes := [bs.getD j 0], fills := false, adm := none }))
  else if keys == (List.range n).map (k + ·) then
    match s.partBad k n (2 ^ n - 1) with
    | some w => .trap clsEcc ((va + (w - k)) / 8 * 8)
    | none => .ok () (s.homeWrite k (bs.take n))
  else
    match (List.range n).find? fun j => s.bad.contains (wordKey (keys.getD j 0)) with
    | some j => .trap clsEcc ((va + j) / 8 * 8)
    | none => .ok () ((List.zip keys bs).foldl (fun s e => s.homeWrite e.1 [e.2]) s)
def State.writeSpan (s : State) (va : Nat) (sp : Span) (off : Nat) (bs : List Byte) : Got Unit :=
  match sp with
  | .here segs => s.writeKeys (va + off) (keysAt segs off bs.length) bs
  | .away => .ok () s

/-- One write of a chunk at once, and as a posted request of the thread (08 R142; 15 R260, R266). -/
def State.putNow (s : State) (p : Put) : State :=
  let s := s.homeWrite p.key p.bytes
  if p.fills then s.fillWords ((List.range p.bytes.length).map (p.key + ·)) else s
def State.putOut (s : State) (p : Put) : State :=
  let (id, s) := s.request (if p.fills then .copyEl p.bytes else .store p.bytes (2 ^ p.bytes.length - 1)) p.key p.bytes.length p.va 0 false false true
  if p.adm.isSome then s.modReq id fun q => { q with adm := p.adm } else s
/-- The writes of a chunk leave: at once to the thread's own private memory while its store buffer is empty, else through the store
buffer, which must have room for them (08 R144; 17 R289, R291; 02 R24; log 22). -/
def State.commit (s : State) : Got Unit :=
  let ps := s.iss.puts
  let n := min ps.length Config.storeBuffer
  let s1 : State := { s with iss := { s.iss with puts := [] } }
  match ps.find? fun p => s.movesDue (wordKey p.key), ps.find? fun p => p.adm.isSome && s.readersDue (wordKey p.key) with
  | some p, _ => .stall (.moves (wordKey p.key))
  | none, some p => .stall (.readers (wordKey p.key))
  | none, none =>
    if !s.buffered && ps.all fun p => s.mine p.key then
      match ps.findSome? fun p => (s.partBad p.key p.bytes.length (2 ^ p.bytes.length - 1)).map fun w => (p.va + (w - p.key)) / 8 * 8 with
      | some va => .trap clsEcc va
      | none => .ok () (ps.foldl State.putNow s1)
    else if s.bufferRoom n then .ok () (ps.foldl State.putOut s1)
    else .stall (.buffer n)
/-- What an instruction does at once at a home comes after the thread's earlier accesses to the same words, and after its die-local
ones where the home is (08 R143, R144). -/
def State.inTurn (s : State) (sp : Span) : Got Unit :=
  match sp with
  | .away => .ok () s
  | .here segs =>
    match segs.find? fun e => s.sameDue s.me.uid e.1 e.2 with
    | some (k, n) => .stall (.same k n)
    | none => if segs.any (fun e => dieLocal s.iss.gid e.1) && s.nearDueOf s.iss.gid then .stall .near else .ok () s

/-- Make a handle entry the most recent of its core's 16 (15 R262). -/
def State.keepHandle (s : State) (core : Nat) (e : Nat × Nat × Nat) : State :=
  let c := s.core core
  s.setCore { c with handles := (e :: c.handles.filter fun x => !(x.1 == e.1 && x.2.1 == e.2.1)).take Config.handleCache }
/-- Whether an address is CXL or host memory, directly or in another package. -/
def farSpace (va : Nat) : Bool :=
  va / 2 ^ 60 == 5 || va / 2 ^ 60 == 6 || (va / 2 ^ 60 == 7 && bits va 47 45 == 3)
/-- The checked 64 bytes of a handle record (15 R255, R257). -/
def State.handleSpan (s : State) (w : Who) (eng : Bool) (need va : Nat) : Got Span :=
  .need (va % 64 == 0) clsAlign va <| .need (!farSpace va) clsProtection va <| s.spanOf w eng need va 64
/-- The record of a handle, from the core's entry or loaded (15 R262). -/
def State.rawHandle (s : State) (w : Who) (eng : Bool) (dom va : Nat) : Got Nat :=
  match (s.core (gidCk w.gid)).handles.find? (fun e => e.1 == dom && e.2.1 == va) with
  | some e => .ok e.2.2 (s.keepHandle (gidCk w.gid) e)
  | none =>
    (s.handleSpan w eng needR va).bind fun sp s =>
    (s.readLine va sp).bind fun bs s => .ok (ofBytes bs) (s.keepHandle (gidCk w.gid) (dom, va, ofBytes bs))
/-- A handle that its use may go on with (15 R257). -/
def State.handle (s : State) (w : Who) (eng : Bool) (dom ef va : Nat) : Got Handle :=
  (s.rawHandle w eng dom va).bind fun raw s =>
    .need (Handle.of va raw ef).valid clsProtection va (.ok (Handle.of va raw ef) s)

/-- Checked storage of a handle: its footprint, and for `page` the mapped pages reached with their addresses. -/
structure Store where
  h : Handle
  span : Span
  pages : List (Nat × Nat × Span)
  deriving DecidableEq, Repr
/-- The pages of the entries a use reaches (15 R257, R258). -/
def State.pagesOf (s : State) (w : Who) (eng : Bool) (need : Nat) (h : Handle) (sp : Span) :
    List Nat → List (Nat × Nat × Span) → Got (List (Nat × Nat × Span))
  | [], acc => .ok acc s
  | j :: js, acc =>
    (s.readSpan h.base sp (8 * j) 8).bind fun bs s =>
      let pe := ofBytes bs
      if pe = 0 then s.pagesOf w eng need h sp js acc
      else
        .need (pe % 65536 == 0 || sp == .away) clsProtection h.va <|
        (s.spanOf w eng need (pe / 65536 * 65536) 65536).bind fun p s =>
          s.pagesOf w eng need h sp js (acc ++ [(j, pe / 65536 * 65536, p)])
/-- The pages of some entries, their words asked for together. -/
def State.pagesIn (s : State) (w : Who) (eng : Bool) (need : Nat) (h : Handle) (sp : Span) (js : List Nat) :
    Got (List (Nat × Nat × Span)) :=
  (s.fetched (match sp with
    | .here segs => js.flatMap fun j => s.missing (h.base + 8 * j) (keysAt segs (8 * j) 8)
    | .away => [])).bind fun _ s => s.pagesOf w eng need h sp js []
/-- The entries a use of some elements reaches. -/
def Handle.reach (h : Handle) (is : List Ix) : List Nat := dedup (is.map fun i => (h.loc i).1)
/-- Check the storage of a handle for a use of some elements; a channel has none (15 R257, R261). -/
def State.storeOf (s : State) (w : Who) (eng : Bool) (need : Nat) (h : Handle) (is : List Ix) : Got Store :=
  if h.ch then .ok { h := h, span := .here [], pages := [] } s
  else
    (s.spanOf w eng (if h.lay = 6 then needR else need) h.base h.foot).bind fun sp s =>
      if h.lay != 6 then .ok { h := h, span := sp, pages := [] } s
      else (s.pagesIn w eng need h sp (h.reach is)).bind fun ps s => .ok { h := h, span := sp, pages := ps } s

/-- Storage in use, and the old storage with its conversion where one is live (15 R266). -/
structure View where
  now : Store
  was : Option (Store × Conv)
  deriving DecidableEq, Repr
def View.h (v : View) : Handle := v.now.h
def Conv.who (c : Conv) : Who := { part := c.part, asid := c.asid, gid := c.gid }
/-- The conversion that a handle's `th.conv` names, of the accessor's partition (15 R266, R269; log 20). -/
def State.convOf (s : State) (w : Who) (h : Handle) : Option Conv :=
  if h.conv = 0 then none
  else
    let cs := s.convs.filter fun c => c.record == h.conv && c.part == w.part
    (cs.find? (·.asid == w.asid)).or cs.head?
/-- A handle as its conversion's record says it was. -/
def Handle.old (h : Handle) (c : Conv) : Handle := { h with base := c.oldBase, ctl := c.oldCtl }
/-- Check a handle's storage for a use of some elements, the old with it while a conversion is live. -/
def State.viewOf (s : State) (w : Who) (eng : Bool) (need : Nat) (h : Handle) (is : List Ix) : Got View :=
  (s.storeOf w eng need h is).bind fun st s =>
    match s.convOf w h with
    | none => .ok { now := st, was := none } s
    | some c => (s.storeOf w eng need (h.old c) is).bind fun o s => .ok { now := st, was := some (o, c) } s
/-- The object of a moving granule: the old address of the granule (11 R189; log 21). -/
def tileObj (c : Conv) (h : Handle) (g : Nat) : Nat := c.oldBase + g * h.granBytes
/-- Where a read of an element goes (15 R266). -/
def View.readIn (v : View) (i : Ix) : Store :=
  match v.was with
  | none => v.now
  | some (o, c) => if c.gran.getD (v.h.gran i) 2 = 2 then v.now else o
/-- Where a write of an element goes; none while its granule moves (15 R266). -/
def View.writeIn (v : View) (i : Ix) : Option Store :=
  match v.was with
  | none => some v.now
  | some (o, c) =>
    match c.gran.getD (v.h.gran i) 2 with
    | 0 => some o
    | 1 => none
    | _ => some v.now

/-- The word that stands for the round trip to the shuffler, which admits an access at its granule's state: the first of the
conversion's record, at its home (15 R266; log 21). -/
def State.admission (s : State) (v : View) : List (Nat × Nat) :=
  match v.was with
  | none => []
  | some (_, c) =>
    match s.spanOf c.who true needR c.record 8 with
    | .ok (.here segs) _ => s.missing c.record (keysAt segs 0 8)
    | _ => []

/-- The place of bytes of a handle's storage. -/
inductive Plc where
  | bytes (va : Nat) (keys : List Nat)
  | hole
  | away
  deriving DecidableEq, Repr
def plcIn (va : Nat) (sp : Span) (off n : Nat) : Plc :=
  match sp with | .here segs => .bytes (va + off) (keysAt segs off n) | .away => .away
/-- The bytes that hold an element. -/
def Store.plc (st : Store) (i : Ix) : Plc :=
  let (j, o) := st.h.loc i
  let n := cdiv st.h.w 8
  if st.h.lay = 6 then
    match st.pages.find? (·.1 == j) with
    | none => .hole
    | some (_, pe, sp) => plcIn pe sp (o / 8) n
  else plcIn st.h.base st.span (o / 8) n
/-- Whether the pages of some elements are mapped, where an access goes now (15 R258). -/
def View.mapped (v : View) (is : List Ix) : Bool := is.all fun i => (v.readIn i).plc i != .hole
/-- Whether an element is the high nibble of its byte. -/
def Store.high (st : Store) (i : Ix) : Bool := st.h.w == 4 && (st.h.loc i).2 % 8 == 4
/-- Read an element of storage (15 R258). -/
def State.readEl (s : State) (st : Store) (i : Ix) : Got Nat :=
  match st.plc i with
  | .hole => .ok st.h.fill s
  | .away => let (v, s) := s.farWord; .ok (v % 2 ^ st.h.w) s
  | .bytes va keys => (s.readKeys va keys).bind fun bs s =>
    .ok (if st.h.w = 4 then (if st.high i then ofBytes bs / 16 else ofBytes bs % 16) else ofBytes bs) s
/-- Write an element of storage. -/
def State.writeEl (s : State) (st : Store) (i : Ix) (v : Nat) : Got Unit :=
  match st.plc i with
  | .hole => .trap clsProtection st.h.va
  | .away => .ok () s
  | .bytes va keys =>
    if st.h.w = 4 then
      (s.readKeys va keys).bind fun bs s =>
        let b := ofBytes bs
        s.writeKeys va keys (bytesOf 1 (if st.high i then v % 16 * 16 + b % 16 else b / 16 * 16 + v % 16))
    else s.writeKeys va keys (bytesOf keys.length v)
/-- The block and the scale of an element of scaled storage, read and written (15 R239, R258). -/
def Store.blockPlc (st : Store) (i : Ix) : Plc := plcIn st.h.base st.span ((st.h.loc (i.1 / 8 * 8, i.2)).2 / 8) 4
def Store.scalePlc (st : Store) (i : Ix) : Plc := plcIn st.h.base st.span (st.h.scaleOff i) 1
def State.readPlc (s : State) (p : Plc) (n : Nat) : Got Nat :=
  match p with
  | .hole => .ok 0 s
  | .away => let (bs, s) := s.farBytes n; .ok (ofBytes bs) s
  | .bytes va keys => (s.readKeys va keys).bind fun bs s => .ok (ofBytes bs) s
def State.writePlc (s : State) (p : Plc) (n v : Nat) : Got Unit :=
  match p with
  | .bytes va keys => s.writeKeys va keys (bytesOf n v)
  | _ => .ok () s

/-- A fabric channel (19 R334): its descriptor's keys, its ring's, and its fields. -/
structure Chan where
  desc : Span
  ring : Span
  size : Nat
  wr : Nat
  rd : Nat
  deriving DecidableEq, Repr
/-- The channel a channel handle names, checked (19 R334). -/
def State.chanOf (s : State) (w : Who) (eng : Bool) (va : Nat) : Got Chan :=
  .need (va % 64 == 0) clsAlign va <| (s.spanOf w eng 3 va 64).bind fun sp s =>
  (if eng then .ok () s else s.inTurn sp).bind fun _ s =>
  (s.readSpan va sp 0 64).bind fun bs s =>
    let size := field bs 8 4
    let ring := field bs 0 8
    let okSize := (List.range 9).any fun k => size == 4096 * 2 ^ k
    .need (okSize && field bs 12 4 == 0 && field bs 32 32 == 0 && ring % 64 == 0 && va / 2 ^ 60 == 2 && ring / 2 ^ 58 == va / 2 ^ 58)
      clsProtection va <|
    (s.spanOf w eng 3 ring size).bind fun r s =>
    (if eng then .ok () s else s.inTurn r).bind fun _ s =>
      .ok { desc := sp, ring := r, size := size, wr := field bs 16 8, rd := field bs 24 8 } s
/-- A chunk that waited goes on after the channel elements that it has taken: the next of them, or a new one for its list (19 R334). -/
def State.again? (s : State) : Option (Nat × State) :=
  (s.me.took[s.iss.nth]?).map fun v => (v, { s with iss := { s.iss with nth := s.iss.nth + 1 } })
def State.taken (s : State) (v : Nat) : State :=
  let s := s.modMe fun t => { t with took := t.took ++ [v] }
  { s with iss := { s.iss with nth := s.iss.nth + 1 } }
/-- Wait for a channel: an engine stalls on the element, a thread keeps what its chunk has taken (19 R334). -/
def State.awaitChan {α : Type} (s : State) (eng : Bool) (va : Nat) : Got α := if eng then .stall (.channel va) else .held (.channel va) s
/-- Whether a side of a channel has passed the first half of a byte, and changing that: half-byte elements go two to a byte in arrival
order, the first in the low half, and the byte counts with the second (14 R239; 15 R261; log 71). -/
def Chan.key (c : Chan) : Nat := segKey c.desc.segs 0
def State.half? (s : State) (c : Chan) (w : Bool) : Bool := s.halves.contains (c.key, w)
def State.setHalf (s : State) (c : Chan) (w on : Bool) : State :=
  { s with halves := (if on then [(c.key, w)] else []) ++ s.halves.filter (· != (c.key, w)) }
/-- Take the next element of a channel, or wait for it. -/
def State.chanGet (s : State) (w : Who) (eng : Bool) (h : Handle) : Got Nat :=
  match (if eng then none else s.again?) with
  | some (v, s) => .ok v s
  | none =>
    let va := h.base
    let n := cdiv h.w 8
    (s.chanOf w eng va).bind fun c s =>
      if c.wr < c.rd + n then s.awaitChan eng va
      else
        (s.readSpan va c.ring (c.rd % c.size) n).bind fun bs s =>
        let high := s.half? c false
        let v := if h.w = 4 then (if high then ofBytes bs / 16 else ofBytes bs % 16) else ofBytes bs
        let done (s : State) : State := if eng then s else s.taken v
        if h.w = 4 && !high then .ok v (done (s.setHalf c false true))
        else (s.writeSpan va c.desc 24 (bytesOf 8 (c.rd + n))).bind fun _ s => .ok v (done (s.setHalf c false false))
/-- Put an element into a channel, or wait for room. The copy engine sets the words that it writes full (07 R127). -/
def State.chanPut (s : State) (w : Who) (eng : Bool) (h : Handle) (v : Nat) : Got Unit :=
  match (if eng then none else s.again?) with
  | some (_, s) => .ok () s
  | none =>
    let va := h.base
    let n := cdiv h.w 8
    (s.chanOf w eng va).bind fun c s =>
      if c.rd + c.size < c.wr + n then s.awaitChan eng va
      else
        let high := s.half? c true
        (if h.w = 4 && high then
           (s.readSpan va c.ring (c.wr % c.size) 1).bind fun bs s => .ok (v % 16 * 16 + ofBytes bs % 16) s
         else .ok v s).bind fun b s =>
        (s.writeSpan va c.ring (c.wr % c.size) (bytesOf n b)).bind fun _ s =>
          let s := if eng then s.fillWords (keysAt c.ring.segs (c.wr % c.size) n) else s
          let done (s : State) : State := if eng then s else s.taken v
          if h.w = 4 && !high then .ok () (done (s.setHalf c true true))
          else (s.writeSpan va c.desc 16 (bytesOf 8 (c.wr + n))).bind fun _ s => .ok () (done (s.setHalf c true false))

/-- A channel's elements are taken and put at once, whatever the mode of the accesses about them (19 R334). -/
def State.atOnce {α : Type} (s : State) (f : State → Got α) : Got α :=
  (f { s with iss := { s.iss with plain := false } }).bind fun x t => .ok x { t with iss := { t.iss with plain := s.iss.plain } }
/-- The chunk's latest writes were admitted at a granule of a conversion while it was old (15 R266). -/
def State.admitted (s : State) (was : Option (Store × Conv)) (g : Nat) : State :=
  match was with
  | some (_, c) =>
    if c.gran.getD g 2 = 0 then
      { s with iss := { s.iss with puts := s.iss.puts.map fun p => if p.adm.isSome then p else { p with adm := some (c.handle, g) } } }
    else s
  | none => s
/-- The words that reads of some elements have to ask for (17 R290). -/
def State.wants (s : State) (v : View) (is : List Ix) : List (Nat × Nat) :=
  if v.h.ch then []
  else s.admission v ++ is.flatMap fun i => match (v.readIn i).plc i with | .bytes va keys => s.missing va keys | _ => []
/-- Read and write an element through a handle, where it is at the time (15 R266, R261). -/
def State.getEl (s : State) (w : Who) (eng : Bool) (v : View) (i : Ix) : Got Nat :=
  if v.h.ch then s.atOnce fun s => s.chanGet w eng v.h else s.readEl (v.readIn i) i
def State.putEl (s : State) (w : Who) (eng : Bool) (v : View) (i : Ix) (x : Nat) : Got Unit :=
  if v.h.ch then s.atOnce fun s => s.chanPut w eng v.h x
  else
    (s.fetched (s.admission v)).bind fun _ s =>
    match v.writeIn i, v.was with
    | some st, c => (s.writeEl st i x).bind fun _ s => .ok () (s.admitted c (v.h.gran i))
    | none, some (_, c) => .stall (.parked (tileObj c v.h (v.h.gran i)) okTile)
    | none, none => .ok () s
/-- Read a list of elements in order, and write one. -/
def State.getEls (s : State) (w : Who) (eng : Bool) (v : View) : List Ix → Got (List Nat)
  | [] => .ok [] s
  | i :: is => (s.getEl w eng v i).bind fun x s => (s.getEls w eng v is).bind fun xs s => .ok (x :: xs) s
/-- A thread's reads of some elements, their words asked for together. -/
def State.loadEls (s : State) (v : View) (is : List Ix) : Got (List Nat) :=
  (s.fetched (s.wants v is)).bind fun _ s => s.getEls s.who false v is
/-- A thread's reads at some places of an element space, where one outside the extents gives the fill value (15 R260). -/
def State.loadClipped (s : State) (v : View) (is : List Ix) : Got (List Nat) :=
  (s.fetched (s.wants v (is.filter v.h.inside))).bind fun _ s =>
    is.foldl (fun (g : Got (List Nat)) i => g.bind fun l s =>
      if v.h.inside i then (s.getEl s.who false v i).bind fun x s => .ok (l ++ [x]) s else .ok (l ++ [v.h.fill]) s) (.ok [] s)
def State.putEls (s : State) (w : Who) (eng : Bool) (v : View) : List (Ix × Nat) → Got Unit
  | [] => .ok () s
  | (i, x) :: r => (s.putEl w eng v i x).bind fun _ s => s.putEls w eng v r
/-- The value of a scaled element, and the FP4 code and scale under it (15 R258, R239). -/
def State.getScaled (s : State) (v : View) (i : Ix) : Got FV :=
  (s.readEl (v.readIn i) i).bind fun el s =>
  (s.readPlc ((v.readIn i).scalePlc i) 1).bind fun sc s => .ok (blkVal sc el) s
/-- Write the block that begins at an element, with its scale. -/
def State.putBlock (s : State) (v : View) (i : Ix) (blk scale : Nat) : Got Unit :=
  (s.fetched (s.admission v)).bind fun _ s =>
  match v.writeIn i, v.was with
  | some st, c => (s.writePlc (st.blockPlc i) 4 blk).bind fun _ s => (s.writePlc (st.scalePlc i) 1 scale).bind fun _ s =>
      .ok () (s.admitted c (v.h.gran i))
  | none, some (_, c) => .stall (.parked (tileObj c v.h (v.h.gran i)) okTile)
  | none, none => .ok () s

/-- Whether an origin is below 2^31 (15 R260). -/
def originOk (o : Nat) : Bool := decide (o % 2 ^ 32 < 2 ^ 31) && decide (o / 2 ^ 32 < 2 ^ 31)
/-- Whether two lists of ranges overlap. -/
def segsMeet (l r : List (Nat × Nat)) : Bool :=
  l.any fun (k, n) => r.any fun (k', n') => decide (k < k' + n') && decide (k' < k + n)
/-- The resolved format code of the issuing thread. -/
def State.ef (s : State) : Nat := s.me.shFmt.toNat % 32
/-- A handle of the issuing thread, and its checked view. -/
def State.myHandle (s : State) (va : Nat) : Got Handle := s.handle s.who false s.myDom s.ef va
def State.myView (s : State) (need : Nat) (h : Handle) (is : List Ix) : Got View := s.viewOf s.who false need h is

end Sys2Proof.Machine
end

