-- ==== Sys2Proof/Machine/Engines.lean ====
section
/-!
DEFINITION. What the copy engine, the streamer, the shuffler and the matrix sequencer do with bytes and elements (08 R150,
11 R209, 15 R266, R268), the words their writes set full (07 R127), and completions in a mailbox (18 R318, 19 R330).
-/
namespace Sys2Proof.Machine

/-- Go on unless a write of the shuffler to some word, other than those of the granule `mine` that it moves, or of a thread that was
admitted there is still on its way (15 R265 to R267). -/
def State.moved? (s : State) (sp : Span) (mine : Option (Nat × Nat) := none) : Got Unit :=
  match sp with
  | .away => .ok () s
  | .here segs =>
    match s.reqs.find? fun r => r.adm.isSome && r.adm != mine && r.res.isNone && segs.any fun e => overlap r.key r.len e.1 e.2 with
    | some r => .stall (.moves (wordKey r.key))
    | none => .ok () s
/-- An engine's access at once takes a token for each 4 KiB that it touches, and is sampled at its vault slice (12 R221; 19 R342; log 18,
log 29). -/
def State.engCharge (s : State) (w : Who) (sp : Span) : State :=
  let pages := sp.segs.flatMap fun e => (List.range ((e.1 % 4096 + e.2 + 4095) / 4096)).map fun i => max e.1 ((e.1 / 4096 + i) * 4096)
  pages.foldl (fun s k =>
    let s := s.takeToken w.part k
    match homeQuad k with
    | some q =>
      if keySel k = 4 && (s.quad q).mons.any (fun m => m.on && m.src == 3) then
        { s.sampled q 3 (Config.engineLatency s.freeCtr) with freeCtr := s.freeCtr + 1 }
      else s
    | none => s) s
/-- Read and write bytes at an address as an engine of an issuer. -/
def State.engBytes (s : State) (w : Who) (addr n : Nat) : Got (List Byte) :=
  (s.spanOf w true needR addr n).bind fun sp s => (s.moved? sp).bind fun _ s => (s.engCharge w sp).readSpan addr sp 0 n
def State.engStore (s : State) (w : Who) (addr : Nat) (bs : List Byte) : Got Unit :=
  (s.spanOf w true needW addr bs.length).bind fun sp s => (s.moved? sp).bind fun _ s => (s.engCharge w sp).writeSpan addr sp 0 bs
/-- The write of a copy or a streamer: the words are set full (07 R127). -/
def State.engFill (s : State) (w : Who) (addr : Nat) (bs : List Byte) : Got Unit :=
  (s.spanOf w true needW addr bs.length).bind fun sp s => (s.moved? sp).bind fun _ s =>
    ((s.engCharge w sp).writeSpan addr sp 0 bs).bind fun _ s =>
      match sp with
      | .here segs => .ok () (s.fillWords (keysAt segs 0 bs.length))
      | .away => .ok () s

/-- Whose writes an engine makes: the issuer and its core and domain, the scope and the release flag of the command, and whether
the words it writes are set full (08 R150; 07 R127). -/
structure Writer where
  who : Who
  core : Nat
  dom : Nat
  sc : Nat
  rl : Bool
  fills : Bool
  /-- The conversion and granule whose move the shuffler's writes are (15 R265). -/
  adm : Option (Nat × Nat) := none
  /-- Of a streamer command, the mark of its writes: odd for a `scat`, whose writes to one home go in order; else 0 (19 R333). -/
  line : Nat := 0
  /-- The write is admitted at a granule of a conversion (15 R266). -/
  admits : Bool := false
  deriving DecidableEq, Repr
/-- An admitted write waits for the reads that were admitted before it (15 R267). -/
def State.afterReads (s : State) (x : Writer) (addr n : Nat) : Got Unit :=
  if !x.admits then .ok () s
  else (s.spanOf x.who true needW addr n).bind fun sp s =>
    match (keysAt sp.segs 0 n).find? fun k => s.readersDueOf 0 (wordKey k) with
    | some k => .stall (.readers (wordKey k))
    | none => .ok () s
/-- A write of an engine at once. -/
def State.engNow (s : State) (x : Writer) (addr : Nat) (bs : List Byte) : Got Unit :=
  (s.afterReads x addr bs.length).bind fun _ s =>
  if x.fills then s.engFill x.who addr bs else s.engStore x.who addr bs
/-- A request of an engine for one home, in the mesh from its issuer's quad (08 R150; 19 R339). -/
def State.engPost (s : State) (x : Writer) (op : ReqOp) (k len va : Nat) : State :=
  let (id, s) := s.takeId
  let own := x.core / 4
  let dst := (homeQuad k).getD (gidQk x.who.gid)
  -- a die in drift routing sends by way of an intermediate quad (19 R341)
  let via := ckDie x.core * 4096 + (Config.driftQuad s.freeCtr).val
  let drift := (s.die (ckDie x.core)).drift
  let mid := drift && via != own
  let s : State := if drift then { s with freeCtr := s.freeCtr + 1 } else s
  let r : Req :=
    { id := id, gid := x.who.gid, uid := 0, seq := x.line, op := op, key := k, len := len, va := va, place := dst, scope := x.sc,
      rel := false, acq := false, posted := true, part := x.who.part, dom := x.dom, prio := 0,
      hop := { chan := if drift && !mid then 4 else 3, cur := own, dst := if mid then via else dst, mid := if mid then some dst else none, port := .here, since := s.clock, age := 0, urgent := false },
      res := none, resendAt := 0, bucket := (s.rateAt x.who.part k).isSome, comb := [], carried := false, born := s.clock, adm := x.adm }
  { s with reqs := s.reqs ++ [r] }
/-- A write of an engine whose release flag is clear leaves for its home as a request of its own; with the flag set it is
performed before the completion (08 R150). -/
def State.engOut (s : State) (x : Writer) (addr : Nat) (bs : List Byte) : Got Unit :=
  if x.rl then s.engNow x addr bs
  else
    (s.spanOf x.who true needW addr bs.length).bind fun sp s => (s.moved? sp x.adm).bind fun _ s =>
      match sp with
      | .here [(k, _)] =>
        match s.partBad k bs.length (2 ^ bs.length - 1) with
        | some w => .trap clsEcc ((addr + (w - k)) / 8 * 8)
        | none => .ok () (s.engPost x (if x.fills then .copyEl bs else .store bs (2 ^ bs.length - 1)) k bs.length addr)
      | _ => s.engNow x addr bs
/-- Whether accesses of an issuer before a command, homed in an extent, are still to be performed (08 R147, R150). -/
def State.priorDue (s : State) (gid uid seq sc : Nat) : Bool :=
  (s.reqs.any fun r => r.uid == uid && decide (r.seq < seq) && r.res.isNone && (r.isCede || s.inExtent gid sc r.key)) ||
  (s.msgs.any fun m => m.srcUid == uid && decide (m.seq < seq) && m.ldc.isNone && s.msgIn gid sc m)

/-- The address of an element's first byte; none where its page is unmapped (15 R258). -/
def State.engAddr (s : State) (w : Who) (h : Handle) (i : Ix) : Got (Option Nat) :=
  let (j, o) := h.loc i
  if h.lay = 6 then
    (s.engBytes w (h.base + 8 * j) 8).bind fun bs s =>
      let pe := ofBytes bs
      if pe = 0 then .ok none s else .need (pe % 65536 == 0) clsProtection h.va (.ok (some (pe + o / 8)) s)
  else .ok (some (h.base + o / 8)) s
/-- The storage an engine's access to an element goes to: none while a granule it would write moves (15 R266). -/
def State.engSide (s : State) (w : Who) (h : Handle) (i : Ix) (write : Bool) : Option Handle :=
  match s.convOf w h with
  | none => some h
  | some c =>
    match c.gran.getD (h.gran i) 2 with
    | 0 => some (h.old c)
    | 1 => if write then none else some (h.old c)
    | _ => some h
/-- Read an element of given storage as an engine. -/
def State.engRead (s : State) (w : Who) (h : Handle) (i : Ix) : Got Nat :=
  (s.engAddr w h i).bind fun a s =>
    match a with
    | none => .ok h.fill s
    | some a => (s.engBytes w a (cdiv h.w 8)).bind fun bs s =>
      .ok (if h.w = 4 then (if (h.loc i).2 % 8 = 4 then ofBytes bs / 16 else ofBytes bs % 16) else ofBytes bs) s
/-- Whether an element's page is mapped where a read of it goes (15 R258, R266). -/
def State.engMapped (s : State) (w : Who) (h : Handle) (i : Ix) : Got Bool :=
  let x := (s.engSide w h i false).getD h
  if h.ch || x.lay != 6 then .ok true s else (s.engAddr w x i).bind fun a s => .ok a.isSome s
/-- Write an element of given storage as an engine: half a byte is read and written at once. -/
def State.engWrite (s : State) (x : Writer) (h : Handle) (i : Ix) (v : Nat) : Got Unit :=
  (s.engAddr x.who h i).bind fun a s =>
    match a with
    | none => .trap clsProtection h.va
    | some a =>
      if h.w = 4 then
        (s.engBytes x.who a 1).bind fun bs s =>
          let b := ofBytes bs
          s.engNow x a (bytesOf 1 (if (h.loc i).2 % 8 = 4 then v % 16 * 16 + b % 16 else b / 16 * 16 + v % 16))
      else s.engOut x a (bytesOf (h.w / 8) v)
/-- Read and write an element through a handle as an engine (15 R261, R268). -/
def State.engGet (s : State) (w : Who) (h : Handle) (i : Ix) : Got Nat :=
  if h.ch then s.chanGet w true h else s.engRead w ((s.engSide w h i false).getD h) i
def State.engPut (s : State) (x : Writer) (h : Handle) (i : Ix) (v : Nat) : Got Unit :=
  if h.ch then s.chanPut x.who true h v
  else
    match s.engSide x.who h i true with
    -- while the granules move, a write is over before the next one is admitted
    | some y => s.engWrite { x with rl := x.rl || y != h || (s.convOf x.who h).isSome, admits := (s.convOf x.who h).isSome } y i v
    | none => .stall (.parked 0 okTile)

/-- The completion word of 18 R318. -/
def complWord (tag st cnt : Nat) : Nat := tag % 2 ^ 16 + st * 2 ^ 16 + cnt % 2 ^ 32 * 2 ^ 32
/-- Deliver a completion to a core's mailbox, or to a thread of the slot parked in `waitm`; none where the mailbox is full.
It is discarded where its thread has ended or its partition is gone (19 R330). -/
def State.complete? (s : State) (core : Nat) (m : Compl) (part : Nat) : Option State :=
  if !s.uidLive m.uid || (s.part? part).isNone then some s
  else
    let g := s.gidOf core m.slot
    let waiting : Bool := match (s.thread g).wait with | some w => w.why == .parked (queueObj 4 g) okQueue | none => false
    if waiting then some (s.wake g (gidDie g) m.word 0 false)
    else
      let c := s.core core
      if Config.mailbox ≤ c.mail.length then none else some (s.setCore { c with mail := c.mail ++ [m] })

end Sys2Proof.Machine
end

