-- ==== Sys2Proof/Machine/Vector.lean ====
section
/-!
DEFINITION. Class V element-wise operations: the mould (17 R289 to R291), arithmetic (R292, R293), compare, select,
bitwise and movement (R294), special functions (R296), conversions (R297, R298), scaling (13 R232) and random fill (R303).
-/
namespace Sys2Proof.Machine

/-- Deduct a charge from the issuing core's budget (02 R26). -/
def State.charge (s : State) (n : Nat) : State :=
  let c := s.core s.myCore
  s.setCore { c with budget := c.budget - n }
/-- Sets of formats (17 R292, R294). -/
def fFlt (f : Nat) : Bool := f == 8 || f == 9 || f == 10
def fArith (f : Nat) : Bool := decide (f < 13)
def fAll (f : Nat) : Bool := decide (f < 15)
/-- Units of the arithmetic rows of 02 R26. -/
def arithUnit (f : Nat) : Nat := if f = 8 then 4 else if f = 9 || f = 10 then 3 else 2
/-- Resolve the format of an operation; one it does not allow is a protection fault (17 R289). -/
def State.withFmt (s : State) (fmt : Nat) (ok : Nat → Bool) (f : Nat → Out) : Out :=
  let w := resolveFmt s.ef fmt
  if ok w then f w else s.prot s.me.shFmt.toNat

/-- A handle-mode issue: a gang member is refused, and its accesses are plain ones of the thread (17 R289, R290). -/
def State.handleMode (s : State) (f : State → Out) : Out :=
  if s.inGang then s.protOpc else s.plainly f
/-- Run the next chunk of a handle-mode issue: `chunk c acc s` performs chunk `c`, whose writes leave once all its reads are done;
`fin` ends the issue. The whole charge falls with the first, and the issue's `blocks` of draws are taken there (14 R243; 17 R290,
R291). -/
def State.streamed (s : State) (total charge blocks : Nat) (init : List Nat)
    (chunk : Nat → List Nat → State → Got (List Nat)) (fin : List Nat → State → State) : Out :=
  let at' : Nat × List Nat := match s.me.stream with | some x => (x.chunk, x.acc) | none => (0, init)
  s.settle ((chunk at'.1 at'.2 s).bind fun acc s => s.commit.bind fun _ s => .ok acc s) fun acc s =>
    let ctr := s.drawCtr
    let s := if at'.1 = 0 then (s.charge charge).spend blocks else s
    if total ≤ at'.1 + 1 then (fin acc (s.modMe fun t => { t with stream := none })).ok
    else
      let blank : Stream := { instr := .nop, head := 0, next := 0, half := false, chunk := 0, acc := [], regs := Vector.replicate 32 0, pops := [], ctr := ctr }
      .next (s.modMe fun t => { t with stream := some { t.stream.getD blank with chunk := at'.1 + 1, acc := acc } })

/-- The handles at some addresses, in order. -/
def State.myHandles (s : State) : List Nat → Got (List Handle)
  | [] => .ok [] s
  | a :: as => (s.myHandle a).bind fun h s => (s.myHandles as).bind fun hs s => .ok (h :: hs) s
/-- The elements of chunk `c` of a shape, `per` to a chunk (15 R259). -/
def chunkIx (e : Ix) (per c : Nat) : List Ix := (List.range (min per (shapeN e - c * per))).map fun j => ixOf e (c * per + j)
/-- The elements of a chunk read from each source, repeated where an extent is 1. -/
def State.getCols (s : State) (is : List Ix) : List View → Got (List (List Nat))
  | [] => .ok [] s
  | v :: vs => (s.getEls s.who false v (is.map v.h.under)).bind fun xs s => (s.getCols is vs).bind fun r s => .ok (xs :: r) s
/-- The checked views of handles for the whole of an iteration (15 R257, R259). -/
def State.myViews (s : State) (e : Ix) : List Handle → Got (List View)
  | [] => .ok [] s
  | h :: hs => (s.myView needR h ((allIx e).map h.under)).bind fun v s => (s.myViews e hs).bind fun vs s => .ok (v :: vs) s
/-- The same of handles, the words of all the sources asked for together. -/
def State.getAll (s : State) (e : Ix) (is : List Ix) (hs : List Handle) : Got (List (List Nat)) :=
  (s.myViews e hs).bind fun vs s =>
  (s.fetched (vs.flatMap fun v => s.wants v (is.map v.h.under))).bind fun _ s => s.getCols is vs
/-- Row `j` of some columns. -/
def rowOf (cols : List (List Nat)) (j : Nat) : List Nat := cols.map fun l => l.getD j 0
/-- Check that handles have a format, and that sources fit a shape (15 R259, 17 R289). -/
def firstBad (hs : List Handle) (bad : Handle → Bool) : Option Nat := (hs.find? bad).map (·.va)

/-- A handle-mode element-wise issue: destination format `wd`, source format `ws`; `f` is given the element's number, its
coordinates and the source elements (17 R289 to R291). -/
def State.hmap (s : State) (d : Reg) (as : List Reg) (wd' ws charge : Nat) (f : Nat → Ix → List Nat → Nat)
    (blocks : Nat → Nat) : Out :=
  s.handleMode fun s =>
  s.settle (s.myHandle (s.gv d)) fun h s =>
  s.settle (s.myHandles (as.map fun a => s.gv a)) fun hs s =>
  match firstBad [h] (fun x => x.fmt != wd'), firstBad hs (fun x => x.fmt != ws), firstBad hs (fun x => !x.fits h.ext) with
  | some va, _, _ => s.prot va
  | none, some va, _ => s.prot va
  | none, none, some va => s.prot va
  | none, none, none =>
    let per := 256 / max (fmtWidth wd') (if as.isEmpty then 0 else fmtWidth ws)
    let total := cdiv h.n per
    s.streamed total (charge * total) (blocks h.n) [] (fun c _ s =>
        let is := chunkIx h.ext per c
        (s.myView needW h (allIx h.ext)).bind fun v s =>
        (s.getAll h.ext is hs).bind fun cols s =>
        (s.putEls s.who false v ((List.range is.length).map fun j =>
          let i := is.getD j (0, 0, 0, 0)
          (i, f (c * per + j) i (rowOf cols j)))).bind fun _ s => .ok [] s)
      fun _ s => s
/-- The elements of a register group. -/
def State.els (s : State) (w : Nat) (a : Reg) : List Nat := elems w 256 (s.group a.val)
/-- A register-mode element-wise issue on `n` elements (17 R289). -/
def State.rmap (s : State) (d : Reg) (as : List Reg) (wd' ws n charge : Nat) (f : Nat → List Nat → Nat) : State :=
  let cols := as.map fun a => s.els ws a
  (s.putGroup d.val (packEl wd' ((List.range n).map fun i => f i (rowOf cols i)))).charge charge

/-- An element-wise operation of one format in both modes; `f` is given the format, the position (element number, or i0
in handle mode) and the source elements. -/
def State.vmap (s : State) (d : Reg) (as : List Reg) (th : Bool) (fmt : Fin 16) (ok : Nat → Bool) (unit : Nat → Nat)
    (f : Nat → Nat → List Nat → Nat) : Out :=
  s.withFmt fmt.val (fun w => ok w && (!th || decide (w < 13))) fun w =>
    if th then s.hmap d as w w (unit w) (fun _ i xs => f w i.1 xs) fun _ => 0
    else (s.rmap d as (fmtWidth w) (fmtWidth w) (256 / fmtWidth w) (unit w) (f w)).ok
def e0 (xs : List Nat) : Nat := xs.getD 0 0
def e1 (xs : List Nat) : Nat := xs.getD 1 0
def e2 (xs : List Nat) : Nat := xs.getD 2 0

/-- An arithmetic operation with its integer and its float result (17 R292, R293). -/
def State.arith (s : State) (d : Reg) (as : List Reg) (th : Bool) (fmt : Fin 16) (int flt : Nat → List Nat → Nat) : Out :=
  s.vmap d as th fmt fArith arithUnit fun w _ xs => if fmtIsInt w then int w xs else flt w xs
/-- The rounded value of an exact expression on floats. -/
def fl (g : List FV → FV) (w : Nat) (xs : List Nat) : Nat := rneTo w (g (xs.map (fdecode w)))
def fv0 (xs : List FV) : FV := xs.getD 0 .nan
def fv1 (xs : List FV) : FV := xs.getD 1 .nan
def fv2 (xs : List FV) : FV := xs.getD 2 .nan
def iw (g : Nat → Nat → Nat → Nat) (w : Nat) (xs : List Nat) : Nat := g (fmtWidth w) (e0 xs) (e1 xs)

/-- `VADD` (17 R293). -/
def execVadd (d a b : Reg) (th : Bool) (fmt : Fin 16) (s : State) : Out :=
  s.arith d [a, b] th fmt (iw elAdd) (fl fun x => (fv0 x).add .rne (fv1 x))
/-- `VSUB` (17 R293). -/
def execVsub (d a b : Reg) (th : Bool) (fmt : Fin 16) (s : State) : Out :=
  s.arith d [a, b] th fmt (iw elSub) (fl fun x => (fv0 x).sub .rne (fv1 x))
/-- `VMUL` (17 R293). -/
def execVmul (d a b : Reg) (th : Bool) (fmt : Fin 16) (s : State) : Out :=
  s.arith d [a, b] th fmt (iw elMul) (fl fun x => (fv0 x).mul (fv1 x))
/-- `VFMA` (17 R293). -/
def execVfma (d a b c : Reg) (th : Bool) (fmt : Fin 16) (s : State) : Out :=
  s.arith d [a, b, c] th fmt (fun w x => elAdd (fmtWidth w) (elMul (fmtWidth w) (e0 x) (e1 x)) (e2 x))
    (fl fun x => FV.fma .rne (fv0 x) (fv1 x) (fv2 x))
/-- `VDIV` (17 R293, 05 R102). -/
def execVdiv (d a b : Reg) (th : Bool) (fmt : Fin 16) (s : State) : Out :=
  s.arith d [a, b] th fmt (fun w x => elDiv (fmtWidth w) (!fmtSigned w) (e0 x) (e1 x)) (fl fun x => (fv0 x).div (fv1 x))
/-- `VMIN` (17 R293). -/
def execVmin (d a b : Reg) (th : Bool) (fmt : Fin 16) (s : State) : Out :=
  s.arith d [a, b] th fmt (fun w x => fmtMin w (e0 x) (e1 x)) fun w x => fminEnc w (e0 x) (e1 x)
/-- `VMAX` (17 R293). -/
def execVmax (d a b : Reg) (th : Bool) (fmt : Fin 16) (s : State) : Out :=
  s.arith d [a, b] th fmt (fun w x => fmtMax' w (e0 x) (e1 x)) fun w x => fmaxEnc w (e0 x) (e1 x)
/-- Clear or flip the sign bit of a float; a NaN gives the canonical NaN (17 R293). -/
def signOp (flip : Bool) (w x : Nat) : Nat :=
  if (fdecode w x).isNaN then fmtNaN w
  else
    let b := fmtWidth w - 1
    if flip then Nat.xor x (2 ^ b) else x % 2 ^ b
/-- `VABS` (17 R293). -/
def execVabs (d a : Reg) (th : Bool) (fmt : Fin 16) (s : State) : Out :=
  s.arith d [a] th fmt (fun w x => if fmtSigned w then elAbs (fmtWidth w) (e0 x) else e0 x) fun w x => signOp false w (e0 x)
/-- `VNEG` (17 R293). -/
def execVneg (d a : Reg) (th : Bool) (fmt : Fin 16) (s : State) : Out :=
  s.arith d [a] th fmt (fun w x => elSub (fmtWidth w) 0 (e0 x)) fun w x => signOp true w (e0 x)
/-- `VCLAMP` (17 R293). -/
def execVclamp (d a b c : Reg) (th : Bool) (fmt : Fin 16) (s : State) : Out :=
  s.arith d [a, b, c] th fmt (fun w x => fmtMin w (fmtMax' w (e0 x) (e1 x)) (e2 x)) fun w x =>
    if (fdecode w (e0 x)).isNaN then fmtNaN w else fminEnc w (fmaxEnc w (e0 x) (e1 x)) (e2 x)
/-- `VLERP` (17 R292, R293). -/
def execVlerp (d a b c : Reg) (th : Bool) (fmt : Fin 16) (s : State) : Out :=
  s.vmap d [a, b, c] th fmt fFlt arithUnit fun w _ x => fl (fun x => FV.lerp (fv0 x) (fv1 x) (fv2 x)) w x

/-- A mask element (17 R294). -/
def maskEl (w : Nat) (b : Bool) : Nat := if b then 2 ^ w - 1 else 0
/-- `VCMP` (17 R294). -/
def execVcmp (d a b : Reg) (e : Fin 128) (th : Bool) (fmt : Fin 16) (s : State) : Out :=
  s.vmap d [a, b] th fmt (fun w => fArith w && (fmtIsInt w || decide (e.val < 8))) (fun _ => 1) fun w _ x =>
    maskEl (fmtWidth w) (if fmtIsInt w then ccElem w e.val (e0 x) (e1 x) else fccHolds e.val (fdecode w (e0 x)) (fdecode w (e1 x)))
/-- `VSEL` (17 R294). -/
def execVsel (d a b c : Reg) (th : Bool) (fmt : Fin 16) (s : State) : Out :=
  s.vmap d [a, b, c] th fmt fAll (fun _ => 1) fun w _ x => if tbit (e2 x) (fmtWidth w - 1) then e0 x else e1 x
/-- `VAND` (17 R294). -/
def execVand (d a b : Reg) (th : Bool) (fmt : Fin 16) (s : State) : Out :=
  s.vmap d [a, b] th fmt fAll (fun _ => 1) fun _ _ x => Nat.land (e0 x) (e1 x)
/-- `VOR` (17 R294). -/
def execVor (d a b : Reg) (th : Bool) (fmt : Fin 16) (s : State) : Out :=
  s.vmap d [a, b] th fmt fAll (fun _ => 1) fun _ _ x => Nat.lor (e0 x) (e1 x)
/-- `VXOR` (17 R294). -/
def execVxor (d a b : Reg) (th : Bool) (fmt : Fin 16) (s : State) : Out :=
  s.vmap d [a, b] th fmt fAll (fun _ => 1) fun _ _ x => Nat.xor (e0 x) (e1 x)
/-- `VSHL` (17 R294). -/
def execVshl (d a b : Reg) (th : Bool) (fmt : Fin 16) (s : State) : Out :=
  s.vmap d [a, b] th fmt fmtIsInt (fun _ => 1) fun w _ => iw elShl w
/-- `VSHR` (17 R294). -/
def execVshr (d a b : Reg) (th : Bool) (fmt : Fin 16) (s : State) : Out :=
  s.vmap d [a, b] th fmt fmtIsInt (fun _ => 1) fun w _ => iw elShr w
/-- `VSAR` (17 R294). -/
def execVsar (d a b : Reg) (th : Bool) (fmt : Fin 16) (s : State) : Out :=
  s.vmap d [a, b] th fmt fmtIsInt (fun _ => 1) fun w _ => iw elSar w
/-- `VFILL` (17 R294). -/
def execVfill (d a : Reg) (th : Bool) (fmt : Fin 16) (s : State) : Out :=
  let v := s.gv a
  s.vmap d [] th fmt fAll (fun _ => 1) fun w _ _ => v % 2 ^ fmtWidth w
/-- `VCPY` (17 R294). -/
def execVcpy (d a : Reg) (th : Bool) (fmt : Fin 16) (s : State) : Out :=
  s.vmap d [a] th fmt fAll (fun _ => 1) fun _ _ x => e0 x
/-- `VBCAST` (17 R294). -/
def execVbcast (d a b : Reg) (fmt : Fin 16) (s : State) : Out :=
  let k := s.gv b
  s.withFmt fmt.val fAll fun w =>
    let x := s.els (fmtWidth w) a
    (s.rmap d [] (fmtWidth w) 0 x.length 1 fun _ _ => x.getD (k % x.length) 0).ok
/-- `VPERM` (17 R294). -/
def execVperm (d a b c : Reg) (fmt : Fin 16) (s : State) : Out :=
  s.withFmt fmt.val fAll fun w =>
    let x := s.els (fmtWidth w) a ++ s.els (fmtWidth w) b
    (s.rmap d [c] (fmtWidth w) (fmtWidth w) (256 / fmtWidth w) 1 fun _ y => x.getD (e0 y % x.length) 0).ok
/-- `VMASK` (17 R294). -/
def execVmask (d a b : Reg) (th : Bool) (fmt : Fin 16) (s : State) : Out :=
  let hi := s.gv a
  let lo := s.gv b
  s.vmap d [] th fmt fAll (fun _ => 1) fun w i _ => maskEl (fmtWidth w) (decide (lo ≤ i) && decide (i < hi))

/-- A special function: the reference rounded once (14 R249, 17 R296). -/
def State.special (s : State) (d a : Reg) (th : Bool) (fmt : Fin 16) (f : FV → FV) : Out :=
  s.vmap d [a] th fmt fFlt (fun _ => 6) fun w _ x => rneTo w (f (fdecode w (e0 x)))
/-- `VEXP` (17 R296, 14 R252). -/
def execVexp (d a : Reg) (th : Bool) (fmt : Fin 16) (s : State) : Out := s.special d a th fmt vExp
/-- `VEXP2` (17 R296, 14 R252). -/
def execVexp2 (d a : Reg) (th : Bool) (fmt : Fin 16) (s : State) : Out := s.special d a th fmt vExp2
/-- `VLOG` (17 R296, 14 R253). -/
def execVlog (d a : Reg) (th : Bool) (fmt : Fin 16) (s : State) : Out := s.special d a th fmt vLog
/-- `VRCP` (17 R296, 14 R250). -/
def execVrcp (d a : Reg) (th : Bool) (fmt : Fin 16) (s : State) : Out := s.special d a th fmt vRcp
/-- `VRSQ` (17 R296, 14 R250). -/
def execVrsq (d a : Reg) (th : Bool) (fmt : Fin 16) (s : State) : Out := s.special d a th fmt vRsq
/-- `VSQRT` (17 R296, 14 R250). -/
def execVsqrt (d a : Reg) (th : Bool) (fmt : Fin 16) (s : State) : Out := s.special d a th fmt vSqrt
/-- `VTANH` (17 R296, 14 R254). -/
def execVtanh (d a : Reg) (th : Bool) (fmt : Fin 16) (s : State) : Out := s.special d a th fmt vTanh
/-- `VSGM` (17 R296, 14 R254). -/
def execVsgm (d a : Reg) (th : Bool) (fmt : Fin 16) (s : State) : Out := s.special d a th fmt vSgm
/-- `VSILU` (17 R296, 14 R254). -/
def execVsilu (d a : Reg) (th : Bool) (fmt : Fin 16) (s : State) : Out := s.special d a th fmt vSilu

/-- `VSCL` (13 R232). -/
def execVscl (d a b : Reg) (fmt : Fin 16) (s : State) : Out :=
  let k := f32 (s.gv b)
  s.withFmt fmt.val fFlt fun w =>
    (s.rmap d [a] (fmtWidth w) (fmtWidth w) (256 / fmtWidth w) 2 fun _ x => rneTo w ((fdecode w (e0 x)).mul k)).ok

/-- Resolve the source and destination formats of a conversion (17 R297). -/
def State.withFmts (s : State) (th : Bool) (src dst : Nat) (ok : Nat → Nat → Bool) (f : Nat → Nat → Out) : Out :=
  let a := resolveFmt s.ef src
  let b := resolveFmt s.ef dst
  if fAll a && fAll b && ok a b && (!th || (a != 13 && b != 13)) then f a b else s.prot s.me.shFmt.toNat
/-- Blocks of draws that `n` elements take (14 R243). -/
def drawBlocks (m : Rm) (n : Nat) : Nat := if m = .sto then cdiv n 4 else 0
/-- `VCVT` (17 R298, 14 R244). -/
def execVcvt (d a : Reg) (c : Fin 32) (e : Fin 128) (th : Bool) (rm : Fin 8) (s : State) : Out :=
  let m := Rm.ofCode rm.val
  s.withFmts th (bits e.val 4 0) c.val (fun _ _ => true) fun src dst =>
    let f (k : Nat) (x : List Nat) : Nat := convert src dst m (tbit e.val 5) (s.draw k) (e0 x)
    if th then s.hmap d [a] dst src 2 (fun k _ x => f k x) fun n => drawBlocks m n
    else
      let n := 256 / max (fmtWidth src) (fmtWidth dst)
      ((s.rmap d [a] (fmtWidth dst) (fmtWidth src) n 2 f).spend (drawBlocks m n)).ok
/-- `VROUND` (17 R298): on integers a copy. -/
def execVround (d a : Reg) (c : Fin 32) (th : Bool) (rm : Fin 8) (s : State) : Out :=
  let m := Rm.ofCode rm.val
  s.withFmts th c.val c.val (fun w _ => fArith w) fun w _ =>
    let f (k : Nat) (x : List Nat) : Nat := roundEl w m (s.draw k) (e0 x)
    let blocks (n : Nat) := if fmtIsInt w then 0 else drawBlocks m n
    if th then s.hmap d [a] w w 2 (fun k _ x => f k x) blocks
    else
      let n := 256 / fmtWidth w
      ((s.rmap d [a] (fmtWidth w) (fmtWidth w) n 2 f).spend (blocks n)).ok

/-- Sub-lists of `n` consecutive entries. -/
def groupsOf {α : Type} (n : Nat) (l : List α) : List (List α) :=
  (List.range (cdiv l.length n)).map fun k => (l.drop (k * n)).take n
/-- `VQNT` (17 R298, 14 R245). -/
def execVqnt (d a b : Reg) (c : Fin 32) (e : Fin 128) (th : Bool) (rm : Fin 8) (s : State) : Out :=
  let m := Rm.ofCode rm.val
  let src := resolveFmt s.ef (bits e.val 4 0)
  if !fFlt src || resolveFmt s.ef c.val != 13 then s.prot s.me.shFmt.toNat
  else
    let quant (k : Nat) (xs : List Nat) : Nat × Nat := quantize m (fun i => s.draw (8 * k + i)) (xs.map (fdecode src))
    if th then
      s.handleMode fun s =>
      s.settle (s.myHandle (s.gv d)) fun h s =>
      s.settle (s.myHandle (s.gv a)) fun x s =>
      if h.lay != 4 then s.prot h.va
      else if x.fmt != src || x.ext != h.ext then s.prot x.va
      else
        let per := 256 / fmtWidth src
        let total := cdiv h.n per
        s.streamed total (2 * total) (drawBlocks m h.n) [] (fun k _ s =>
            let is := chunkIx h.ext per k
            (s.myView needW h []).bind fun v s =>
            (s.getAll h.ext is [x]).bind fun cols s =>
            let blks := groupsOf 8 (cols.headD [])
            ((List.range blks.length).foldl (fun (g : Got Unit) j => g.bind fun _ s =>
              let q := quant (k * per / 8 + j) (blks.getD j [])
              s.putBlock v (is.getD (8 * j) (0, 0, 0, 0)) q.1 q.2) (.ok () s)).bind fun _ s => .ok [] s)
          fun _ s => s
    else
      let blks := groupsOf 8 (s.els (fmtWidth src) a)
      let q := (List.range blks.length).map fun k => quant k (blks.getD k [])
      let s := s.putGroup d.val (packEl 32 (q.map Prod.fst))
      (((s.put b (wd (packEl 8 (q.map Prod.snd)))).charge 2).spend (drawBlocks m (8 * blks.length))).ok
/-- The words that reads of some scaled elements have to ask for, their scales with them (17 R290). -/
def State.wantsScaled (s : State) (v : View) (is : List Ix) : List (Nat × Nat) :=
  s.wants v is ++ is.flatMap fun i => match (v.readIn i).scalePlc i with | .bytes va keys => s.missing va keys | _ => []
/-- `VDEQ` (17 R298, 14 R245). -/
def execVdeq (d a b : Reg) (c : Fin 32) (e : Fin 128) (th : Bool) (rm : Fin 8) (s : State) : Out :=
  let m := Rm.ofCode rm.val
  let dst := resolveFmt s.ef c.val
  if !(fFlt dst || dst == 11 || dst == 12) || resolveFmt s.ef (bits e.val 4 0) != 13 then s.prot s.me.shFmt.toNat
  else
    let out (k : Nat) (v : FV) : Nat := fencode dst m (tbit e.val 5) (s.draw k) v
    if th then
      s.handleMode fun s =>
      s.settle (s.myHandle (s.gv d)) fun h s =>
      s.settle (s.myHandle (s.gv a)) fun x s =>
      if h.fmt != dst then s.prot h.va
      else if !x.scaled || !x.fits h.ext then s.prot x.va
      else
        let per := 256 / fmtWidth dst
        let total := cdiv h.n per
        s.streamed total (2 * total) (drawBlocks m h.n) [] (fun k _ s =>
            let is := chunkIx h.ext per k
            (s.myView needW h (allIx h.ext)).bind fun v s =>
            (s.myView needR x []).bind fun y s =>
            (s.fetched (s.wantsScaled y (is.map x.under))).bind fun _ s =>
            (is.foldl (fun (g : Got (List FV)) i => g.bind fun l s => (s.getScaled y (x.under i)).bind fun z s => .ok (l ++ [z]) s)
              (.ok [] s)).bind fun zs s =>
            (s.putEls s.who false v ((List.range is.length).map fun j =>
              (is.getD j (0, 0, 0, 0), out (k * per + j) (zs.getD j .nan)))).bind fun _ s => .ok [] s)
          fun _ s => s
    else
      let n := 256 / fmtWidth dst
      let g := s.group a.val
      let sc := s.gv b
      let r := packEl (fmtWidth dst) ((List.range n).map fun i =>
        out i (blkVal (sc / 2 ^ (8 * (i / 8)) % 256) (g / 2 ^ (4 * i) % 16)))
      (((s.putGroup d.val r).charge 2).spend (drawBlocks m n)).ok

/-- Random element `i` from a squall stream of blocks (17 R303). -/
def rndEl (w key ctr i : Nat) : Nat :=
  let b := fmtWidth w
  let r := squall key ((ctr + b * i / 128) % 2 ^ 128) / 2 ^ (b * i % 128) % 2 ^ b
  match w with
  | 8 => rneTo 8 (.fin false (r / 2 ^ 8) (2 ^ 24))
  | 9 => rneTo 9 (.fin false (r / 2 ^ 5) (2 ^ 11))
  | 10 => rneTo 10 (.fin false (r / 2 ^ 8) (2 ^ 8))
  | _ => r
/-- `VRNG` (17 R303). -/
def execVrng (d a b : Reg) (th : Bool) (fmt : Fin 16) (s : State) : Out :=
  let own := a.val == 0
  let key := if own then s.me.sqKey else s.gv a
  let ctr := if own then s.drawCtr else s.gv b
  let blocks (chunks : Nat) : Nat := if own then 2 * chunks else 0
  s.withFmt fmt.val (fun w => fmtIsInt w || fFlt w) fun w =>
    if th then s.hmap d [] w w 4 (fun k _ _ => rndEl w key ctr k) fun n => blocks (cdiv n (256 / fmtWidth w))
    else (State.spend (s.rmap d [] (fmtWidth w) (fmtWidth w) (256 / fmtWidth w) 4 fun k _ => rndEl w key ctr k) (blocks 1)).ok

end Sys2Proof.Machine
end

