-- ==== Sys2Proof/Machine/Matrix.lean ====
section
/-!
DEFINITION. The matrix engine: activations (14 R246; 16 R274, R278), the accumulation order (16 R276), the sequencer and
its steps and status (16 R280 to R288), opcodes 0x9C to 0xA0 (13 R228; 17 R304 to R308), and the steps MMUL_COMPLETE,
SEQUENCER_STOP and MLOAD_COMPLETE.
-/
namespace Sys2Proof.Machine

/-- An E2M1 code in units of 0.5, and an E3M5 scale in units of 2^-7 (14 R238, R239). -/
def codeInt (c : Nat) : Int :=
  let m : Int := match c % 8 with | 0 => 0 | 1 => 1 | 2 => 2 | 3 => 3 | 4 => 4 | 5 => 6 | 6 => 8 | _ => 12
  if c / 8 % 2 = 1 then -m else m
def scaleInt (x : Nat) : Nat := if x / 32 = 0 then x % 32 else (32 + x % 32) * 2 ^ (x / 32 - 1)
/-- A slot image's weight code, block scale and band scale (13 R224). -/
def imgByte (img off : Nat) : Nat := img / 2 ^ (8 * off) % 256
def imgCode (img n k : Nat) : Nat := imgByte img (128 * n + k / 2) / 16 ^ (k % 2) % 16
def imgScale (img n b : Nat) : Nat := imgByte img (16384 + 32 * n + b)
def imgBand (img n : Nat) : Nat := img / 2 ^ (8 * (20480 + 2 * (n / 64))) % 2 ^ 16

/-- 32 activations as mantissas and a shared exponent; none where one is not finite (14 R246). -/
def convGroup (w : Nat) (xs : List FV) : Option (List Int × Int) :=
  if xs.any fun x => !x.isFin then none
  else
    let es := xs.filterMap fun x => match x with | .fin _ n d => if n = 0 then none else some (ilog2 n d) | _ => none
    match es with
    | [] => some (xs.map fun _ => 0, 0)
    | e :: r =>
      let s : Int := r.foldl max e - (w - 2 : Nat)
      let cap : Int := 2 ^ (w - 1) - 1
      some (xs.map fun x => match x with
        | .fin neg n d =>
          let v := if 0 ≤ s then roundInt .rne neg n (d * 2 ^ s.toNat) 0 else roundInt .rne neg (n * 2 ^ (-s).toNat) d 0
          max (-cap) (min cap v)
        | _ => 0, s)

/-- The exact step-1 sum of one output row over one slice, in units of 2^-520; none where a block is poisoned (16 R276). -/
def sliceSum (img n : Nat) (groups : List (List Int × Int)) : Option Int :=
  if (List.range 32).any fun b => imgScale img n b == 0xFF then none
  else
    some ((List.range groups.length).foldl (fun (acc : Int) g =>
      let (ms, s) := groups.getD g ([], 0)
      let blk (b : Nat) : Int :=
        (scaleInt (imgScale img n (4 * g + b)) : Int) *
          ((List.range 8).map fun i => codeInt (imgCode img n (32 * g + 8 * b + i)) * ms.getD (8 * b + i) 0).sum
      acc + ((List.range 4).map blk).sum * 2 ^ (s + 512).toNat) 0)
/-- Steps 2 and 3: what a macro hands south for an output row, from the exact sum of its slice (16 R276). -/
def rowPartial (img n : Nat) (x : Option Int) : Nat :=
  match x with
  | none => fmtNaN 8
  | some x => r32 ((f32 (r32 (ofInt false x (2 ^ 520)))).mul (fdecode 10 (imgBand img n)))
/-- The checksum row of a slot image, in units of 2^-8 (16 R286). -/
def checkRow (img : Nat) : List Int :=
  (List.range 256).map fun k => ((List.range 128).map fun n => codeInt (imgCode img n k) * (scaleInt (imgScale img n (k / 8)) : Int)).sum
/-- The 129th product of a row, in the arithmetic of step 1 (16 R286). -/
def checkSum (cs : List Int) (groups : List (List Int × Int)) : Int :=
  (List.range groups.length).foldl (fun (acc : Int) g =>
    let (ms, s) := groups.getD g ([], 0)
    acc + ((List.range 32).map fun i => cs.getD (32 * g + i) 0 * ms.getD i 0).sum * 2 ^ (s + 512).toNat) 0
/-- Steps 5 and 6 (16 R276). -/
def outlier (v : Nat) (pairs : List (FV × FV)) : Nat := pairs.foldl (fun v p => r32 ((f32 v).add .rne (p.1.mul p.2))) v

/-- Key of the quad at a rectangle row and column (16 R273), and the slot image of its macro with its checksum row, which a scrub
resets (16 R272, R286; 17 R305). -/
def Rect.quadAt (r : Rect) (rho c : Nat) : Nat := qk r.die (r.quad + 64 * rho + c)
def State.slotImage (s : State) (q slot : Nat) : Nat := (((s.quad q).slots.find? (·.1 == slot)).map (·.2)).getD 0
def State.setSlot (s : State) (q slot img : Nat) : State :=
  let x := s.quad q
  s.setQuad { x with slots := (slot, img) :: x.slots.filter (·.1 != slot),
                     sums := (if img = 0 then [] else [(slot, checkRow img)]) ++ x.sums.filter (·.1 != slot) }
/-- Key of tile element (m, n) (13 R227). -/
def Rect.tileKey (r : Rect) (m n : Nat) : Nat :=
  privKey r.die (r.quad + 64 * (r.rows - 1) + n / 128) (n % 128 / 32) (r.acc + 128 * m + 4 * (n % 32))
/-- The activation width (16 R277). -/
def actWidth (shFmt : Nat) : Nat := match bits shFmt 15 14 with | 1 => 4 | 2 => 16 | _ => 8
/-- Steps of a row group (16 R280). -/
def Rect.groupSteps (r : Rect) (w rows : Nat) : Nat := 1 + rows * w + rows * (r.rows - 1) + rows
/-- Rows of group `g` of `mr`. -/
def groupRows (mr g : Nat) : Nat := min 8 (mr - 8 * g)
def Rect.stepOf (r : Rect) (w g : Nat) : Nat := ((List.range g).map fun i => r.groupSteps w (groupRows r.mr i)).sum

/-- A list of elements read by an engine. -/
def State.engEls (s : State) (w : Who) (h : Handle) : List Ix → Got (List Nat)
  | [] => .ok [] s
  | i :: is => (s.engGet w h i).bind fun x s => (s.engEls w h is).bind fun xs s => .ok (x :: xs) s
/-- The outlier core as an accessor, and the weight handle with its checks (16 R279). -/
def State.maskWho (s : State) (r : Rect) : Who :=
  { part := r.part, asid := ((s.domain? r.dom).map (·.asid)).getD 0, gid := s.gidOf r.maskCore 0 }
def Span.onCore (sp : Span) (core : Nat) : Bool :=
  match sp with | .here segs => segs.all fun e => keySel e.1 == 1 && keyCore e.1 == core | .away => false
def State.maskHandleOf (s : State) (r : Rect) (ef : Nat) : Got Handle :=
  let w := s.maskWho r
  let bad : Nat := r.maskHandle
  -- the outlier core reads its own memory, whatever the issuer may still wait for
  let plain := s.iss.plain
  let s : State := { s with iss := { s.iss with plain := false } }
  match (s.handleSpan w true needR bad).bind fun sp s => .need (sp.onCore r.maskCore) clsProtection bad <|
      (s.handle w true r.dom ef bad).bind fun h s =>
        .need (h.fmt == 10 && h.lay == 0 && !h.ch && h.e0 == 128 * r.cols && decide (r.mask.length ≤ h.e1)) clsProtection bad <|
        (s.spanOf w true needR h.base h.foot).bind fun sp s => .need (sp.onCore r.maskCore) clsProtection bad (.ok h s) with
  | .ok h s => .ok h { s with iss := { s.iss with plain := plain } }
  | .trap cls t => if cls = clsEcc then .trap cls t else .trap clsProtection bad
  | _ => .trap clsProtection bad

/-- The operation of an `mmul`: its A handle, `sh.fmt`, the scale array, and the A record as it was read at issue (13 R228; 16 R277). -/
structure Mul where
  va : Nat
  fmt : Nat
  scl : Nat
  raw : Nat
  deriving DecidableEq, Repr
def Mul.ef (x : Mul) : Nat := x.fmt % 32
def Mul.width (x : Mul) : Nat := actWidth x.fmt
/-- A record as the core of an operation's issuer holds it now, where it still fits; a `relay` changes it while the operation waits or
runs (15 R262, R263, R268; log 50). -/
def State.recordNow (s : State) (w : Who) (dom va raw ef : Nat) (ok : Handle → Bool) : Handle × State :=
  match s.rawHandle w true dom va with
  | .ok now t =>
    let h := Handle.of va now ef
    if h.valid && ok h then (h, t) else (Handle.of va raw ef, s)
  | _ => (Handle.of va raw ef, s)
def State.aNow (s : State) (w : Who) (r : Rect) (x : Mul) : Handle × State :=
  s.recordNow w r.dom x.va x.raw x.ef fun h => fFlt h.fmt && !h.ch && h.e0 == 256 * r.rows && decide (r.mr ≤ h.e1)

/-- The quads of a rectangle, by row and column. -/
def Rect.cells (r : Rect) : List (Nat × Nat) := (List.range r.rows).flatMap fun rho => (List.range r.cols).map fun c => (rho, c)
def State.modQuad (s : State) (q : Nat) (f : Quad → Quad) : State := s.setQuad (f (s.quad q))
/-- One A row as the sequencer reads it: its elements, and for each slice the row that goes into the west-edge buffer, with masked
channels taken out, converted, and shifted by the scale array's offsets (16 R274, R278). -/
def State.aRow (s : State) (w : Who) (r : Rect) (h : Handle) (width scl m : Nat) : Got (List Nat × List BufRow) :=
  (s.engEls w h ((List.range (256 * r.rows)).map fun k => (k, m, 0, 0))).bind fun xs s =>
  (if scl = 0 then Got.ok (List.replicate (8 * r.rows) 0) s else s.engBytes w (scl + m * 8 * r.rows) (8 * r.rows)).bind fun qs s =>
    let kept := (List.range xs.length).map fun k => if r.mask.contains k then FV.fin false 0 1 else fdecode h.fmt (xs.getD k 0)
    let gs := (groupsOf 32 kept).map (convGroup width)
    let rows := (groupsOf 8 (List.range gs.length)).map fun g =>
      let mine := g.map fun i => (gs.getD i none).map fun x => (x.1, x.2 + signed 8 (qs.getD i 0).toNat)
      { row := m, finite := mine.all (·.isSome), groups := mine.map (·.getD ([], 0)) : BufRow }
    .ok (xs, rows) s
/-- The weights of the masked channels, read through the outlier core (16 R279). -/
def State.maskWeights (s : State) (r : Rect) (ef : Nat) : Got (List Nat) :=
  if r.mask.isEmpty then .ok [] s
  else (s.maskHandleOf r ef).bind fun mh s =>
    s.engEls (s.maskWho r) mh ((List.range (128 * r.cols * r.mask.length)).map fun k => (k % (128 * r.cols), k / (128 * r.cols), 0, 0))
/-- The load step of a row group: every row is read and converted, and put in the west-edge quads' buffers; its masked elements go
to the outlier core, a message for each row (16 R274, R279, R280). -/
def State.loadGroup (s : State) (w : Who) (r : Rect) (m : Mul) (g : Nat) : Got Unit :=
  (s.maskWeights r m.ef).bind fun ws s =>
  let (h, s) := s.aNow w r m
  ((List.range (groupRows r.mr g)).foldl (fun (acc : Got (List (List Nat × List BufRow))) i =>
    acc.bind fun l s => (s.aRow w r h m.width m.scl (8 * g + i)).bind fun x s => .ok (l ++ [x]) s) (.ok [] s)).bind fun rows s =>
    let s := (List.range r.rows).foldl (fun s rho => s.modQuad (r.quadAt rho 0) fun q =>
      { q with rowBuf := q.rowBuf ++ rows.filterMap fun x => x.2[rho]? }) s
    let s := if r.mask.isEmpty then s
      else (List.range rows.length).foldl (fun s i =>
        s.matMsg w.gid r (.masked r.id (8 * g + i) (r.mask.map fun k => (rows.getD i ([], [])).1.getD k 0)) (r.quadAt 0 0) r.maskCore) s
    .ok () (s.modRect r.id fun x => { x with
      loaded := g + 1, weights := if r.mask.isEmpty then [] else (g, ws) :: x.weights.filter fun e => g ≤ e.1 + 1 })
/-- Whether the contributions to a row have come to every core of the south edge. -/
def Rect.outliersIn (r : Rect) (m : Nat) : Bool := r.mask.isEmpty || r.southCores.all fun c => r.got.contains (m, c)
/-- Deliver a rectangle's messages (16 R279). -/
def State.deliverMasked (s : State) (id : Nat) : State :=
  let mine (s : State) : List Req := s.reqs.filter fun r => r.op.ofRect id
  let go (s : State) : State := (mine s).foldl (fun s r => s.perform r) s
  go (go s)
/-- What a macro holds of a row after its last plane: each output row's partial, and whether the checksum agrees; a row or a slot
with a value that is no number is not compared (16 R275, R276, R286; log 16). -/
def macroRow (img : Nat) (cs : List Int) (b : BufRow) : List Nat × Bool :=
  if !b.finite then (List.replicate 128 (fmtNaN 8), true)
  else
    let xs := (List.range 128).map fun n => sliceSum img n b.groups
    ((List.range 128).map fun n => rowPartial img n (xs.getD n none),
     xs.any (·.isNone) || (xs.map (·.getD 0)).sum == checkSum cs b.groups)
/-- A broadcast step, plane `b` of row `m`: with the first plane the row goes east, and with the last the macros hold its sums and the
buffers let it go (16 R274, R275, R280). -/
def State.broadcast (s : State) (r : Rect) (width m b : Nat) : State :=
  let s := if b != 0 then s
    else (r.cells.filter (·.2 != 0)).foldl (fun s (rho, c) => s.modQuad (r.quadAt rho c) fun q =>
      { q with rowBuf := q.rowBuf ++ (s.quad (r.quadAt rho 0)).rowBuf.filter (·.row == m) }) s
  if b + 1 < width then s
  else
    r.cells.foldl (fun s (rho, c) =>
      let q := s.quad (r.quadAt rho c)
      match q.rowBuf.find? (·.row == m) with
      | none => s
      | some row =>
        let (ys, ok) := macroRow (s.slotImage q.key r.slot) (((q.sums.find? (·.1 == r.slot)).map (·.2)).getD []) row
        let s := s.setQuad { q with rowBuf := q.rowBuf.filter (·.row != m), parts := (m, ys) :: q.parts.filter (·.1 != m) }
        if ok then s else s.modRect r.id fun x => { x with failed := true }) s
/-- The partials of a row at a quad. -/
def Quad.partsOf (q : Quad) (m : Nat) : List Nat := ((q.parts.find? (·.1 == m)).map (·.2)).getD []
def Quad.dropParts (q : Quad) (m : Nat) : Quad := { q with parts := q.parts.filter (·.1 != m) }
/-- A pass step: the partials of row `m` go from rectangle row `rho` to the next, which adds its own (16 R276 step 4, R280). -/
def State.passSouth (s : State) (r : Rect) (m rho : Nat) : State :=
  (List.range r.cols).foldl (fun s c =>
    let vs := (s.quad (r.quadAt rho c)).partsOf m
    let s := s.modQuad (r.quadAt rho c) (·.dropParts m)
    s.modQuad (r.quadAt (rho + 1) c) fun q =>
      { q.dropParts m with parts := (m, (List.range 128).map fun n => add32 (vs.getD n 0) ((q.partsOf m).getD n 0)) :: (q.dropParts m).parts }) s
/-- Whose writes the sequencer makes for an `mmul` (16 R288; 08 R150). -/
def Rect.writer (r : Rect) (w : Who) : Writer :=
  { who := w, core := gidCk w.gid, dom := r.dom, sc := bits r.imm 20 18, rl := tbit r.imm 17, fills := false }
/-- One result to its tile element: performed before the completion where the release flag is set, else a request of its own (16 R288;
08 R150). -/
def State.tileOut (s : State) (x : Writer) (acc : Bool) (k v : Nat) : State :=
  if x.rl then s.tileEl x.who.gid k k acc v else s.engPost x (.tile acc v) k 4 k
/-- An accumulate step: row `m` of the results, with the outliers, goes to the tiles (16 R276 steps 5 and 6, R279, R280). -/
def State.accumulate (s : State) (w : Who) (r : Rect) (fmt m : Nat) : State :=
  let as := ((r.sent.find? (·.1 == m)).map (·.2)).getD []
  let ws := ((r.weights.find? (·.1 == m / 8)).map (·.2)).getD []
  let s := (List.range r.cols).foldl (fun s c =>
    let q := r.quadAt (r.rows - 1) c
    let vs := (s.quad q).partsOf m
    let s := s.modQuad q (·.dropParts m)
    (List.range 128).foldl (fun s j =>
      let n := 128 * c + j
      s.tileOut (r.writer w) r.accF (r.tileKey m n) (outlier (vs.getD j 0) ((List.range r.mask.length).map fun i =>
        (fdecode fmt (as.getD i 0), fdecode 10 (ws.getD (n + 128 * r.cols * i) 0))))) s) s
  s.modRect r.id fun x => { x with sent := x.sent.filter (·.1 != m), got := x.got.filter (·.1 != m) }
/-- One step of a running operation: the step that its status names; a row is added when its contributions have come (16 R279 to
R281). -/
def State.seqStep (s : State) (w : Who) (r : Rect) (x : Mul) : Got Unit :=
  let g := r.grp
  let width := x.width
  let n := groupRows r.mr g
  let o := r.step - r.stepOf width g
  let next (s : State) : Got Unit := .ok () (s.modRect r.id fun x => { x with
    step := r.step + 1, grp := if o + 1 < r.groupSteps width n then g else g + 1 })
  if o = 0 then (if g < r.loaded then next s else (s.loadGroup w r x g).bind fun _ s => next s)
  else if o ≤ n * width then next (s.broadcast r width (8 * g + (o - 1) / width) ((o - 1) % width))
  else
    let p := o - 1 - n * width
    if p < n * (r.rows - 1) then next (s.passSouth r (8 * g + p / (r.rows - 1)) (p % (r.rows - 1)))
    else
      let m := 8 * g + (p - n * (r.rows - 1))
      if r.outliersIn m then next (s.accumulate w r (Handle.of x.va x.raw x.ef).fmt m) else .stall (.matrix r.id)
/-- Run steps, at most `fuel` of them, until the operation has none left or one meets a fault: how far the row groups have come, and
why it stopped. -/
def State.runSteps (s : State) (w : Who) (id : Nat) (m : Mul) : Nat → Nat × Option (Got Unit) × State
  | 0 => (((s.rect? id).map (·.grp)).getD 0, none, s)
  | fuel + 1 =>
    match s.rect? id with
    | none => (0, none, s)
    | some r =>
      if r.mr ≤ 8 * r.grp then (r.grp, none, s)
      else
        match s.seqStep w r m with
        | .ok _ s => s.runSteps w id m fuel
        | x => (r.grp, some x, s)
/-- The steps of a whole operation (16 R280). -/
def Rect.allSteps (r : Rect) (w : Nat) : Nat := r.stepOf w (cdiv r.mr 8)
/-- The accessor of an operation of a thread, which may have ended with its domain while the operation runs on (16 R282). -/
def Rect.opWho (r : Rect) (gid : Nat) : Who := { part := r.part, asid := r.asid, gid := gid }
/-- The rest of the running operation, from the step its status names (16 R283). -/
def State.runMmul (s : State) (r : Rect) (gid addr fmt scl raw : Nat) : Nat × Option (Got Unit) × State :=
  s.runSteps (r.opWho gid) r.id ⟨addr, fmt, scl, raw⟩ (r.allSteps (actWidth fmt) + 1)
/-- Let a rectangle's buffers go, with the messages that are still on their way for the operation. -/
def State.emptyBuffers (s : State) (r : Rect) : State :=
  let s : State := { s with reqs := s.reqs.filter fun q => !q.op.ofRect r.id }
  (r.cells.foldl (fun s (rho, c) => s.modQuad (r.quadAt rho c) fun q => { q with rowBuf := [], parts := [] }) s).modRect r.id fun x =>
    { x with sent := [], got := [], weights := [], loaded := 0, failed := false }

/-- The operation status word (16 R281). -/
def Rect.status (r : Rect) : Nat :=
  let live := r.st == 1 || r.st == 2
  r.st * 2 ^ 62 + r.why * 2 ^ 52 + r.mr * 2 ^ 32 + r.accF.toNat * 2 ^ 31 + r.slot * 2 ^ 28 +
  (if live then r.grp % 8 * 2 ^ 16 + r.step % 2 ^ 16 else 0)
/-- End a stopped operation as cancelled (16 R283, 17 R304). -/
def Rect.cancel (r : Rect) : Rect := if r.st = 2 then { r with st := 3, why := 5, grp := 0, step := 0 } else r
/-- Start an `mmul`: resumed where it is the stopped one, at the first step of the recorded row group, else afresh (16 R281, R283). -/
def Rect.begin (r : Rect) (op handle imm fmt : Nat) : Rect :=
  let slot := op % 8
  let acc := tbit op 3
  if r.st == 2 && r.slot == slot && r.accF == acc && r.imm == imm && r.aAddr == handle then { r with st := 1, why := 0, loaded := r.grp, step := r.stepOf (actWidth fmt) r.grp }
  else { r with st := 1, why := 0, mr := imm % 128, accF := acc, slot := slot, grp := 0, step := 0, aAddr := handle, imm := imm,
                loaded := 0, failed := false, sent := [], got := [], weights := [] }
/-- Scale or clear tile rows; a word that must be read and cannot be stays, and is reported to the issuer (17 R307; 07 R125; log 16). -/
def State.maccRows (s : State) (r : Rect) (g rows : Nat) (f : Nat → Nat) : State :=
  (List.range rows).foldl (fun s m => (List.range (128 * r.cols)).foldl (fun s n =>
    let k := r.tileKey m n
    s.tileEl g k k false (f (s.readN k 4))) s) s
/-- The opcode of a sequencer operation (17 R304). -/
def MatOp.opc : MatOp → Nat
  | .mload _ _ _ _ => 0x9C
  | .mmul _ _ _ _ _ _ => 0x9D
  | .mask _ _ _ | .cancel => 0x9E
  | .clr _ | .scl _ _ => 0x9F
/-- What a sequencer operation is refused for as it starts: in handler state while an operation is stopped, and an `mmul` whose
outlier weights fail their checks (16 R279, R284; 17 R304). -/
def State.refusal (s : State) (r : Rect) (g : Nat) (op : MatOp) : Option Trap :=
  if (s.thread g).handler && r.st == 2 && op != .cancel then some { cls := clsProtection, tval := op.opc, kind := 0 }
  else
    match op with
    | .mmul _ _ _ fmt _ _ =>
      if r.mask.isEmpty then none
      else match s.maskHandleOf r (fmt % 32) with | .trap c t => some { cls := c, tval := t, kind := 0 } | _ => none
    | _ => none
/-- Start the operations at the head of a rectangle's queue: those that need no step of their own complete at once. -/
def State.pump (s : State) (id : Nat) : Nat → State
  | 0 => s
  | fuel + 1 =>
    match s.rect? id with
    | none => s
    | some r =>
      match r.queue with
      | [] => s
      | (g, _, op) :: rest =>
        let finish (s : State) (v : Nat) : State := ((s.modRect id fun r => { r with queue := rest }).complete g v 0 false).pump id fuel
        match s.refusal r g op with
        | some tr => ((s.modRect id fun r => { r with queue := rest }).trapWaiting g tr false).pump id fuel
        | none =>
        match op with
        | .mmul o h imm fmt _ _ => if r.st = 1 then s else s.modRect id fun r => { r.begin o h imm fmt with asid := (s.thread g).asid }
        | .mload _ _ _ _ => s.modRect id fun r => { r.cancel with asid := (s.thread g).asid }
        | .mask l core h => finish (s.modRect id fun r => { r.cancel with mask := l, maskCore := core, maskHandle := h }) 0
        | .cancel => if r.st = 2 then finish (s.modRect id Rect.cancel) 0 else finish s 1
        | .clr rows => finish ((s.modRect id Rect.cancel).maccRows r g rows fun _ => 0) 0
        | .scl rows k => finish ((s.modRect id Rect.cancel).maccRows r g rows fun x => mul32 x k) 0
/-- Hand an operation to a rectangle's sequencer and leave rotation until it completes (17 R304, 02 R24). -/
def State.sequence (s : State) (r : Rect) (op : MatOp) (d : Reg) : Out :=
  let s := s.await (.matrix r.id) (s.doneTo d.val 0 0 8 false)
  let s := s.modRect r.id fun x => { x with queue := x.queue ++ [(s.iss.gid, s.me.uid, op)] }
  .next (if r.queue.isEmpty then s.pump r.id 2 else s)
/-- The rectangle whose north-west quad's core 0 the issuer stands on (17 R304); slot 15 is refused (12 R223). -/
def State.onRect (s : State) (f : Rect → State → Out) : Out :=
  if s.inSuper then s.protOpc
  else
    match s.rects.find? fun r => r.dom == s.myDom && !r.orphan && qk r.die r.quad * 4 == s.myCore with
    | none => s.protOpc
    | some r => f r s
/-- The same for `mload`, `mcfg.mask` and `macc`: no gang member, and in handler state no stopped operation (17 R304). -/
def State.onFreeRect (s : State) (f : Rect → State → Out) : Out :=
  s.onRect fun r s => if s.inGang || (s.me.handler && r.st == 2) then s.protOpc else f r s

/-- The scope that a sequencer operation names: code 7 is refused whatever its flags (13 R228; 17 R305; 08 R147). -/
def State.flagScope (s : State) (sc : Nat) (used : Bool) (f : State → Out) : Out :=
  if sc = 7 || (used && !s.okScope sc) then s.trap clsScope sc else f s
/-- The checks of the A handle's storage, of the scale array and of the outlier weights at issue (07 R125; 15 R257; 16 R278, R279). A
missing translation is met by the sequencer (11 R209). -/
def State.mmulChecks (s : State) (r : Rect) (h : Handle) (scl rows : Nat) : Got Unit :=
  let early {α : Type} (g : Got α) : Got Unit := match g with | .ok _ s => .ok () s | .trap c t => .trap c t | _ => .ok () s
  (early (s.spanOf s.who true needR h.base (if h.ch then 0 else h.foot))).bind fun _ s =>
  (if scl = 0 then Got.ok () s
   else if scl % 8 != 0 then .trap clsAlign scl
   else if farSpace scl || scl / 2 ^ 60 == 7 then .trap clsProtection scl
   else
     match s.spanOf s.who true needR scl (rows * 8 * r.rows) with
     | .ok _ s => .ok () s
     | .trap c _ => .trap c scl
     | _ => .ok () s).bind fun _ s =>
  if r.mask.isEmpty || !r.queue.isEmpty then .ok () s else (s.maskHandleOf r s.ef).bind fun _ s => .ok () s
/-- The raw record of a handle, as `mmul` and `mload` keep it from their issue on (13 R228; 15 R262). -/
def State.myRaw (s : State) (va : Nat) : Got (Handle × Nat) :=
  (s.rawHandle s.who false s.myDom va).bind fun raw s =>
    .need (Handle.of va raw s.ef).valid clsProtection va (.ok (Handle.of va raw s.ef, raw) s)
/-- `MMUL` (13 R228; 16 R277 to R279, R284). -/
def execMmul (d a : Reg) (op : Fin 64) (imm : BitVec 32) (s : State) : Out :=
  let i := imm.toNat
  s.flagScope (bits i 20 18) (tbit i 16 || tbit i 17) fun s =>
    let va := s.gv a
    let fmt := s.me.shFmt.toNat
    let scl := s.me.shScl.toNat
    s.onRect fun r s =>
      if s.me.handler && r.st != 0 && r.st != 3 then s.protOpc
      else
        s.plainly fun s =>
        s.settle (s.myRaw va) fun x s =>
          let h := x.1
          if bits fmt 15 14 = 3 || !fFlt h.fmt || h.lay != 0 || h.e0 != 256 * r.rows || decide (h.e1 < i % 128) then s.prot fmt
          else s.settle (s.mmulChecks r h scl (i % 128)) fun _ s => s.sequence r (.mmul op.val va i fmt scl x.2) d
/-- Whether the head of a rectangle's queue must still wait for its issuer's earlier accesses, messages among them, or for tokens (08
R150; 19 R342). -/
def State.matAcquireDue (s : State) (r : Rect) (g uid : Nat) (aq : Bool) (sc : Nat) : Bool :=
  s.overdrawn r.part || (aq && s.priorDue g uid (((s.byUid uid).map (·.seq)).getD (2 ^ 64)) sc)
/-- Take the finished head off a queue and start the next. The rectangle of a domain that has ended goes with its operation (16 R282). -/
def State.nextMat (s : State) (id : Nat) : State :=
  let n := ((s.rect? id).map (·.queue.length)).getD 0
  if s.rects.any fun r => r.id == id && r.orphan then { s with rects := s.rects.filter (·.id != id) }
  else (s.modRect id fun r => { r with queue := r.queue.drop 1 }).pump id (n + 1)
/-- The issuer of an operation, where it has not ended, completes with a status, or traps. -/
def State.matDone (s : State) (r : Rect) (g v : Nat) : State := if r.orphan then s else s.complete g v 0 false
def State.matTrap (s : State) (r : Rect) (g : Nat) (tr : Trap) : State := if r.orphan then s else s.trapWaiting g tr false
/-- Step `MMUL_COMPLETE`: the steps that are left are taken, and the operation completes. `upset` says that a macro has computed
wrongly, which its checksum shows as one that has not agreed does (13 R228; 16 R284, R286; log 16). -/
def execMmulComplete (rect : Nat) (upset : Bool) (s : State) : Out :=
  match s.rect? rect with
  | none => .next s
  | some r =>
    match r.queue with
    | (g, uid, .mmul _ va imm fmt scl raw) :: _ =>
      if r.st != 1 || s.matAcquireDue r g uid (tbit imm 16) (bits imm 20 18) then .next s
      else
        match s.runMmul r g va fmt scl raw with
        | (_, none, s) =>
          let bad := upset || ((s.rect? rect).map (·.failed)).getD false
          let s := (s.emptyBuffers r).modRect rect fun r => { r with st := 3, why := bad.toNat, grp := 0, step := 0 }
          let dd := s.die r.die
          let s := if bad then s.setDie { dd with macroFails := min (dd.macroFails + 1) (2 ^ 32 - 1) } else s
          .next ((s.matDone r g bad.toNat).nextMat rect)
        -- what it could do before it must wait stands
        | (_, some (.stall _), s) => .next s
        | _ => .next s
    | _ => .next s
/-- A stop at a row group: the operation's cause, and the next group with its first step (16 R282). -/
def State.haltMmul (s : State) (r : Rect) (fmt grp why : Nat) : State :=
  (s.emptyBuffers r).modRect r.id fun r => { r with st := 2, why := why, grp := grp, step := r.stepOf (actWidth fmt) grp }
/-- Step `SEQUENCER_STOP`: rows before the faulting group are written, and the operation stops there (16 R282). -/
def execSequencerStop (rect : Nat) (s : State) : Out :=
  match s.rect? rect with
  | none => .next s
  | some r =>
    match r.queue with
    | (g, uid, .mmul _ va imm fmt scl raw) :: _ =>
      if r.st != 1 || s.matAcquireDue r g uid (tbit imm 16) (bits imm 20 18) then .next s
      else
        match s.runMmul r g va fmt scl raw with
        | (grp, some (.trap cls tval), s) =>
          if cls = clsEcc then .next (((s.haltMmul r fmt grp 3).matTrap r g { cls := clsEcc, tval := tval, kind := 0 }).nextMat rect)
          else .next (((s.haltMmul r fmt grp 2).matDone r g 2).nextMat rect)
        | (grp, some (.miss _ _ _ _), s) => .next (((s.haltMmul r fmt grp 2).matDone r g 2).nextMat rect)
        | _ => .next s
    | _ => .next s
/-- Take steps of a running operation that must not wait for its issuer's accesses (16 R280, R281). -/
def State.seqRun (s : State) (id n : Nat) : State :=
  match s.rect? id with
  | none => s
  | some r =>
    match r.queue with
    | (g, uid, .mmul _ va imm fmt scl raw) :: _ =>
      if r.st != 1 || s.matAcquireDue r g uid (tbit imm 16) (bits imm 20 18) then s
      else (s.runSteps (r.opWho g) id ⟨va, fmt, scl, raw⟩ n).2.2
    | _ => s
/-- The load of the row group after the one that computes may go ahead of its step: each buffer holds two (16 R274). -/
def State.seqAhead (s : State) (id : Nat) : State :=
  match s.rect? id with
  | none => s
  | some r =>
    match r.queue with
    | (g, uid, .mmul _ va imm fmt scl raw) :: _ =>
      if r.st != 1 || s.matAcquireDue r g uid (tbit imm 16) (bits imm 20 18) || r.loaded != r.grp + 1 || r.mr ≤ 8 * r.loaded then s
      else match s.loadGroup (r.opWho g) r ⟨va, fmt, scl, raw⟩ r.loaded with | .ok _ s => s | _ => s
    | _ => s
/-- The sequencers go on while clocks pass: how many steps each takes, and whether it loads ahead, is free (16 R280, R285; log 16). -/
def State.sequencers (s : State) : State :=
  (s.rects.filter (·.st == 1)).foldl (fun s r =>
    let n := Config.sequencerSteps s.freeCtr
    let s := { s with freeCtr := s.freeCtr + 1 }.seqRun r.id n.val
    if Config.sequencerAhead s.freeCtr then s.seqAhead r.id else s) s
/-- Teardown stops a sequencer at the end of the row group that runs: its rows are written, the status is stopped with cause 4, and no
completion is sent (16 R282). -/
def State.stopRect (s : State) (id : Nat) : State :=
  match s.rect? id with
  | none => s
  | some r =>
    match r.queue with
    | (g, _, .mmul _ va _ fmt scl raw) :: _ =>
      if r.st != 1 then s
      else
        let w := actWidth fmt
        let grp := if r.step = r.stepOf w r.grp then r.grp else r.grp + 1
        let s := ((s.deliverMasked id).runSteps (r.opWho g) id ⟨va, fmt, scl, raw⟩ (r.stepOf w grp - r.step)).2.2
        s.haltMmul r fmt grp 4
    | _ => s

/-- `MLOAD` (17 R305): the scope is judged before everything else (08 R147, 03 R65; log 62). -/
def execMload (d a : Reg) (op : Fin 64) (e : Fin 128) (s : State) : Out :=
  let va := s.gv a
  s.flagScope (bits e.val 3 1) (tbit e.val 0) fun s =>
  s.onFreeRect fun r s =>
    s.plainly fun s =>
    s.settle (s.myRaw va) fun x s =>
      let h := x.1
      s.settle (match s.storeOf s.who true needR h (allIx h.ext) with
        | .ok _ s => .ok () s
        | .trap c t => if c = clsEcc then .ok () s else .trap c t
        | _ => .ok () s : Got Unit) fun _ s =>
      if h.ch || h.lay != 5 || h.e0 != 256 * r.rows || h.e1 != 128 * r.cols then s.prot va
      else s.sequence r (.mload op.val va e.val x.2) d
/-- The image of a macro read through a handle, each byte from where its granule is; the tail of an image that stands as blocks is
band scales of 1.0 (17 R305; 15 R263, R266, R268). -/
def State.readImage (s : State) (w : Who) (h : Handle) (g : Nat) : Got Nat :=
  let at' (n k : Nat) : Ix := (g / h.c * 256 + k, g % h.c * 128 + n, 0, 0)
  let side (i : Ix) : Handle := (s.engSide w h i false).getD h
  let bytesAt (s : State) (as : List Nat) (n : Nat) : Got (List Byte) :=
    as.foldl (fun (acc : Got (List Byte)) a => acc.bind fun l s => (s.engBytes w a n).bind fun bs s => .ok (l ++ bs) s) (.ok [] s)
  let whole := side (at' 0 0)
  if whole.lay = 5 && (s.convOf w h).isNone then (s.engBytes w (whole.base + 20544 * g) 20544).bind fun bs s => .ok (ofBytes bs) s
  else
    let blocks := (List.range 128).flatMap fun n => (List.range 32).map fun b => at' n (8 * b)
    (bytesAt s (blocks.map fun i => (side i).base + ((side i).loc i).2 / 8) 4).bind fun ws s =>
    (bytesAt s (blocks.map fun i => (side i).base + (side i).scaleOff i) 1).bind fun sc s =>
    (if whole.lay = 5 then s.engBytes w (whole.base + 20544 * g + 20480) 64 else .ok [0x80, 0x3F, 0x80, 0x3F] s).bind fun tl s =>
      .ok (ofBytes (ws ++ sc ++ tl)) s
/-- Put an image in a slot of every macro of a rectangle. -/
def State.fillSlot (s : State) (r : Rect) (slot : Nat) (imgs : List Nat) : State :=
  (List.range (r.rows * r.cols)).foldl (fun s g => s.setSlot (r.quadAt (g / r.cols) (g % r.cols)) slot (imgs.getD g 0)) s
/-- Every image of a rectangle's `cim` handle, read in order. -/
def State.readImages (s : State) (w : Who) (h : Handle) (n : Nat) : Got (List Nat) :=
  (List.range n).foldl (fun (acc : Got (List Nat)) g => acc.bind fun l s => (s.readImage w h g).bind fun x s => .ok (l ++ [x]) s) (.ok [] s)
/-- Step `MLOAD_COMPLETE`: the slots are filled, or scrubbed where a read failed (17 R305, 11 R209). -/
def execMloadComplete (rect : Nat) (s : State) : Out :=
  match s.rect? rect with
  | none => .next s
  | some r =>
    match r.queue with
    | (g, uid, .mload slot va flags raw) :: _ =>
      if s.matAcquireDue r g uid (tbit flags 0) (bits flags 3 1) then .next s
      else
        let (h, s) := s.recordNow (r.opWho g) r.dom va raw ((s.thread g).shFmt.toNat % 32) fun h =>
          !h.ch && h.scaled && h.e0 == 256 * r.rows && h.e1 == 128 * r.cols
        let drop (r : Rect) : Rect := { r with reload := r.reload.filter (·.2 != slot) }
        let scrub (s : State) : State := (s.fillSlot r slot []).modRect rect drop
        match s.readImages (r.opWho g) h (r.rows * r.cols) with
        | .ok imgs s =>
          let s := (s.fillSlot r slot imgs).modRect rect fun r => { drop r with reload := (va, slot) :: (drop r).reload }
          .next ((s.complete g 0 0 false).nextMat rect)
        | .trap cls tval =>
          if cls = clsEcc then .next (((scrub s).trapWaiting g { cls := clsEcc, tval := tval, kind := 0 } false).nextMat rect)
          else .next (((scrub s).complete g 2 0 false).nextMat rect)
        | .miss _ _ _ _ => .next (((scrub s).complete g 2 0 false).nextMat rect)
        | .stall _ | .held _ _ => .next s
    | _ => .next s

/-- Whether channels rise strictly (17 R306). -/
def rising : List Nat → Bool
  | x :: y :: r => decide (x < y) && rising (y :: r)
  | _ => true
/-- `MCFG_MASK` (17 R306). -/
def execMcfgMask (d a b c : Reg) (e : Fin 128) (s : State) : Out :=
  let la := s.gv a
  let core := s.gv b
  let h := s.gv c
  s.onFreeRect fun r s =>
    if e.val = 0 then s.sequence r (.mask [] 0 0) d
    else
      s.plainly fun s =>
      s.settle (.need (la % 2 == 0) clsAlign la <| (s.spanOf s.who false needR la (2 * e.val)).bind fun sp s =>
        s.readSpan la sp 0 (2 * e.val)) fun bs s =>
        let l := (List.range e.val).map fun i => field bs (2 * i) 2
        let q := gidQk core
        if !rising l || l.any (fun k => decide (256 * r.rows ≤ k)) then s.prot la
        else if gidPkg core != s.pkg || qkDie q != r.die || s.owner q != some r.part || 2 ^ 30 ≤ core then s.prot core
        else s.sequence r (.mask l (gidCk core) h) d
/-- `MCFG_CANCEL` (17 R306). -/
def execMcfgCancel (d : Reg) (s : State) : Out :=
  s.onRect fun r s => if s.inGang then s.protOpc else s.sequence r .cancel d
/-- `macc`: its row count, its release at `die`, and the operation (17 R307). -/
def State.macc (s : State) (d a : Reg) (op : Nat → MatOp) : Out :=
  let rows := s.gv a
  s.onFreeRect fun r s =>
    if rows = 0 || 64 < rows then s.res d 1
    else if s.storesDue 2 then .next (s.retry (.stores 2))
    else s.sequence r (op rows) d
/-- `MACC_CLR` (17 R307). -/
def execMaccClr (d a : Reg) (s : State) : Out := s.macc d a .clr
/-- `MACC_SCL` (17 R307). -/
def execMaccScl (d a b : Reg) (s : State) : Out := s.macc d a fun rows => .scl rows (s.gv b % 2 ^ 32)
/-- `MSTAT` (17 R308). -/
def execMstat (d : Reg) (s : State) : Out :=
  s.onRect fun r s =>
    if s.inGang then s.protOpc
    else s.repliedAs (.stat r.imm) (qk r.die r.quad) r.status r.aAddr false (s.doneTo d.val (d.val + 1) 0 8 false)

end Sys2Proof.Machine
end

