-- ==== Sys2Proof/Machine/Save.lean ====
section
/-!
DEFINITION. Saving a domain at a boundary and bringing it back (11 R201 to R203; 02 R50; 20 R354; 21 R362). A resume reads the
records back. R201 does not lay out the 320 bytes of the context: what a save took is kept beside the records in `saved`, and stands
for the bytes that still hold it (log 9).
-/
namespace Sys2Proof.Machine

/-- The ROM of a die's command core as an accessor for a domain. -/
def State.romWho (s : State) (d : Domain) : Who :=
  { part := d.part, asid := d.asid, gid := s.gidOf (qkDie d.home * 16384) 15 }
/-- The values of a context: registers, predicates, PC, state registers, task registers (07 R138; 11 R201). -/
def Thread.context (t : Thread) : List Nat :=
  t.regs.toList.map (·.toNat) ++ [(t.preds.toList.zipIdx.map fun e => e.1.toNat * 2 ^ e.2).sum] ++
  ([t.pc, t.cause, t.tval, t.epc, t.trec, t.uih, t.uien, t.shFmt, t.shScl] ++ t.args.toList).map (·.toNat) ++ [t.prioBase, t.prioCeil, t.wdlim]
/-- The 576-byte record of a thread (11 R201). DESIGN CHOICE (log 81): a guard entry is kind (2 bytes, abort is 1), signal (2) and exit PC (8).
-/
def Thread.record (t : Thread) : List Byte :=
  let claim (i : Nat) : List Byte := match t.claims[i]? with | some c => bytesOf 4 (c.sig + 2 ^ 31) | none => bytesOf 4 0
  let guardEntry (i : Nat) : List Byte :=
    match t.guards[i]? with | some g => bytesOf 2 g.abort.toNat ++ bytesOf 2 g.sig ++ bytesOf 8 g.exit | none => bytesOf 12 0
  (List.range 320).map (Config.contextByte t.context) ++ (List.range 8).flatMap claim ++ (List.range 8).flatMap guardEntry ++
    t.shadow.toList.flatMap (fun w => bytesOf 8 w.toNat) ++ bytesOf 16 t.sqCtr ++ bytesOf 8 t.sqKey ++ bytesOf 8 t.contSeq ++
    bytesOf 8 (t.handler.toNat + t.uiOn.toNat * 2 + t.task.toNat * 4 + t.qmap * 2 ^ 4 + t.wdStart % 2 ^ 32 * 2 ^ 32) ++ bytesOf 56 0
/-- The 64 bytes of a deque entry (20 R344) and of a message (19 R335). -/
def DEnt.bytes (e : DEnt) : List Byte :=
  bytesOf 8 e.pc ++ bytesOf 8 e.frame ++ (List.range 4).flatMap (fun i => bytesOf 8 (e.regs.getD i 0)) ++
    bytesOf 4 (e.gid + e.task.toNat * 2 ^ 30) ++ bytesOf 2 e.dom ++ bytesOf 1 e.ra ++ bytesOf 1 e.rb ++ bytesOf 2 e.seq ++
    bytesOf 1 e.prio ++ bytesOf 5 0
def Flit.bytes (f : Flit) : List Byte := bytesOf 8 f.hdr ++ (List.range 7).flatMap fun i => bytesOf 8 (f.words.getD i 0)
/-- Bytes padded with zeros to a length. -/
def padTo (n : Nat) (bs : List Byte) : List Byte := (bs ++ List.replicate (n - bs.length) 0).take n
/-- The 5,648-byte record of a core (11 R202). -/
def coreRecord (mail : List Compl) (tasks : List DEnt) (flits : List Flit) : List Byte :=
  bytesOf 8 (mail.length + tasks.length * 2 ^ 8 + flits.length * 2 ^ 16) ++ bytesOf 8 0 ++
    padTo 512 (mail.flatMap fun m => bytesOf 8 m.word ++ bytesOf 1 m.slot ++ bytesOf 7 0) ++
    padTo 4096 (tasks.flatMap DEnt.bytes) ++ padTo 1024 (flits.flatMap Flit.bytes)
/-- The 64-byte slot reload record: its handle and slot (11 R201). DESIGN CHOICE (log 81): handle (8 bytes), slot (8), zeros. -/
def reloadRecord (handle slot : Nat) : List Byte := bytesOf 8 handle ++ bytesOf 8 slot ++ bytesOf 48 0

/-- The cores that hold a thread of a domain. -/
def State.coresOf (s : State) (dom : Nat) : List Nat := dedup ((s.threads.filter (·.dom == dom)).map fun t => gidCk t.gid)
/-- Start of a core's private memory. -/
def corePriv (core : Nat) : Nat := privKey (ckDie core) (ckQuad core % 4096) (core % 4) 0
/-- What a save takes of a domain (11 R201, R202). -/
def State.snapshot (s : State) (dom area : Nat) : Saved :=
  let ts := s.threads.filter (·.dom == dom)
  let cs := s.coresOf dom
  let mine (core slot : Nat) : Bool := ts.any fun t => t.gid == s.gidOf core slot
  let rects := s.rects.filter fun r => r.dom == dom && !r.orphan
  { dom := dom, area := area, threads := ts.map fun t => { t with contReg := none, contVal := none },
    mails := cs.map fun c => (c, (s.core c).mail.filter fun m => m.dom == dom && mine c m.slot),
    tasks := cs.map fun c => (c, (s.core c).deque.filter fun e => e.task && e.dom == dom),
    flits := cs.map fun c => (c, (s.core c).recv.filter fun f => mine c (gidSlot (f.hdr % 2 ^ 30))),
    tiles := rects.flatMap fun r => r.southCores.map fun c =>
      (c, (List.range 8192).map fun i => (corePriv c + r.acc + i, s.mem.byte (corePriv c + r.acc + i))),
    rects := rects }
/-- The bytes of a save area: thread records, core records, sub-tiles and reload records, in rising order (log 26). -/
def Saved.bytes (x : Saved) : List Byte :=
  let get {α : Type} (l : List (Nat × List α)) (c : Nat) : List α := ((l.find? fun e => e.1 == c).map (·.2)).getD []
  x.threads.flatMap Thread.record ++
    x.mails.flatMap (fun e => coreRecord e.2 (get x.tasks e.1) (get x.flits e.1)) ++
    x.tiles.flatMap (fun e => e.2.map (·.2)) ++ x.rects.flatMap fun r => r.reload.flatMap fun e => reloadRecord e.1 e.2
/-- Remove from the machine what a save has taken. -/
def State.takeSaved (s : State) (x : Saved) : State :=
  { s with
    threads := s.threads.filter (·.dom != x.dom),
    cores := s.cores.map fun c =>
      { c with mail := c.mail.filter fun m => !(x.mails.any fun e => e.1 == c.key && e.2.contains m),
               deque := c.deque.filter fun d => !(d.task && d.dom == x.dom && x.tasks.any fun e => e.1 == c.key),
               recv := c.recv.filter fun f => !(x.flits.any fun e => e.1 == c.key && e.2.contains f),
               posted := c.posted.filter fun p => !(x.threads.any fun t => t.gid == s.gidOf c.key p.1) },
    saved := s.saved.filter (·.dom != x.dom) ++ [x] }
/-- Whether a hardware queue of a core that holds a thread of the domain holds an entry (20 R354). -/
def State.queuesHold (s : State) (dom : Nat) : Bool := (s.coresOf dom).any fun c => (s.core c).hwq.toList.any fun q => !q.isEmpty
/-- Whether the domain's copies have completed, and its accesses and their reports have arrived (11 R202; log 26). -/
def State.saveReady (s : State) (dom : Nat) : Bool :=
  !(s.copies.any (·.dom == dom)) && !(s.reqs.any fun r => r.dom == dom && r.uid != 0) &&
  !(s.reports.any fun m => s.threads.any fun t => t.uid == m.uid && t.dom == dom)
/-- Write the save of a domain that stands after dealer step 3; none where the area cannot be written (11 R203). -/
def State.save (s : State) (d : Domain) (area : Nat) : Option State :=
  let x := s.snapshot d.num area
  let bs := x.bytes
  match s.engineCheck (s.romWho d) needW false 1 area bs.length (pageFuel bs.length) with
  | (.ok segs, s) => if segs.any fun e => keySel e.1 != 4 then none else some (((s.segWrite segs bs).takeSaved x).modDomain d.num fun d => { d with stat := .suspended, suspendTo := none, saveAt := some area })
  | _ => none

/-- Whether the slots and the room a resume needs are free (11 R202). -/
def State.resumeRoom (s : State) (x : Saved) : Bool :=
  x.threads.all (fun t => (s.thread? t.gid).isNone) &&
  x.mails.all (fun e => decide ((s.core e.1).mail.length + e.2.length ≤ Config.mailbox)) &&
  x.tasks.all (fun e => decide ((s.core e.1).deque.length + e.2.length ≤ Config.deque)) &&
  x.flits.all (fun e => decide ((s.core e.1).recv.length + e.2.length ≤ Config.receiveStore))
/-- Reload a slot of a rectangle from its handle; a read that fails leaves it scrubbed (11 R201; 17 R305). -/
def State.reloadSlot (s : State) (d : Domain) (r : Rect) (handle slot : Nat) : State :=
  let w : Who := { part := d.part, asid := d.asid, gid := s.gidOf (qk r.die r.quad * 4) 0 }
  match (s.handle w true d.num 0 handle).bind fun h s => s.readImages w h (r.rows * r.cols) with
  | .ok imgs s => s.fillSlot r slot imgs
  | _ => (s.fillSlot r slot []).modRect r.id fun r => { r with reload := r.reload.filter (·.2 != slot) }
/-- A thread as its record gives it, where the record is no longer the one that was written: the context comes from other bytes (log
9), the rest from the places of 11 R201. -/
def Thread.reread (t : Thread) (bs : List Byte) : Thread :=
  let f := field bs
  let ctx := bs.take 320
  let v (i : Nat) : Word := wd (Config.contextValue ctx i)
  let t := if ctx = t.record.take 320 then t
    else { t with regs := Vector.ofFn fun (i : Fin 32) => v i.val, preds := Vector.ofFn fun (i : Fin 8) => tbit (v 32).toNat i.val, pc := v 33,
                  cause := v 34, tval := v 35, epc := v 36, trec := v 37, uih := v 38, uien := v 39, shFmt := v 40, shScl := v 41,
                  args := #v[v 42, v 43, v 44, v 45], prioBase := (v 46).toNat % 8, prioCeil := (v 47).toNat % 8, wdlim := (v 48).toNat % 2 ^ 32 }
  let claims := (List.range 8).filterMap fun i =>
    let w := f (320 + 4 * i) 4
    if tbit w 31 then some (({ (t.claims[i]?).getD { sig := 0, live := true } with sig := w % 2 ^ 12 } : Claim)) else none
  let guards := (List.range t.guards.length).map fun i =>
    { (t.guards[i]?).getD { abort := false, sig := 0, exit := 0, id := 0, own := true } with
      abort := f (352 + 12 * i) 2 == 1, sig := f (354 + 12 * i) 2, exit := f (356 + 12 * i) 8 : Guard }
  let w := f 512 8
  { t with claims := claims, guards := guards, shadow := Vector.ofFn fun (i : Fin 4) => wd (f (448 + 8 * i.val) 8), sqCtr := f 480 16,
           sqKey := f 496 8, contSeq := f 504 8 % 2 ^ 14, handler := tbit w 0, uiOn := tbit w 1, task := tbit w 2, qmap := bits w 11 4,
           wdStart := if w / 2 ^ 32 = t.wdStart % 2 ^ 32 then t.wdStart else w / 2 ^ 32 }
/-- A core's completions, task entries and messages as its record gives them; `ts` are the threads that were saved with it (11 R202). -/
def mailsOf (ts : List Thread) (l : List Compl) (bs : List Byte) : List Compl :=
  (List.range (field bs 0 1 % 2 ^ 6)).map fun i =>
    let slot := field bs (24 + 16 * i) 1 % 16
    let old := (l[i]?).getD { slot := slot, uid := ((ts.find? fun t => gidSlot t.gid == slot).map (·.uid)).getD 0, dom := ((ts.head?).map (·.dom)).getD 0,
                              word := 0, scope := 0, acq := false }
    { old with slot := slot, word := field bs (16 + 16 * i) 8 }
def tasksOf (l : List DEnt) (bs : List Byte) : List DEnt :=
  (List.range (field bs 1 1 % 2 ^ 7)).map fun i =>
    let f (off n : Nat) := field bs (528 + 64 * i + off) n
    let old := (l[i]?).getD { pc := 0, frame := 0, regs := [], gid := 0, uid := 0, task := true, dom := 0, ra := 0, rb := 0, seq := 0, prio := 0 }
    { old with pc := f 0 8, frame := f 8 8, regs := (List.range 4).map fun k => f (16 + 8 * k) 8, gid := f 48 4 % 2 ^ 30, ra := f 54 1,
               rb := f 55 1, seq := f 56 2, prio := f 58 1 }
def flitsOf (l : List Flit) (bs : List Byte) : List Flit :=
  (List.range (field bs 2 1 % 2 ^ 5)).map fun i =>
    let f (off n : Nat) := field bs (4624 + 64 * i + off) n
    let old := (l[i]?).getD { hdr := 0, words := [], src := 0, dom := 0 }
    { old with hdr := f 0 8, words := (List.range old.words.length).map fun k => f (8 + 8 * k) 8 }
/-- What a save took, as its area gives it now (11 R201 to R203). -/
def Saved.reread (x : Saved) (bs : List Byte) : Saved :=
  let get {α : Type} (l : List (Nat × List α)) (c : Nat) : List α := ((l.find? fun e => e.1 == c).map (·.2)).getD []
  if bs = x.bytes then x
  else
    let nt := x.threads.length
    let nc := x.mails.length
    let core (i : Nat) : List Byte := (bs.drop (576 * nt + 5648 * i)).take 5648
    let on (c : Nat) : List Thread := x.threads.filter fun t => gidCk t.gid == c
    let tiles := bs.drop (576 * nt + 5648 * nc)
    let recs := tiles.drop (8192 * x.tiles.length)
    { x with
      threads := x.threads.zipIdx.map fun (t, i) => t.reread ((bs.drop (576 * i)).take 576),
      mails := x.mails.zipIdx.map fun (e, i) => (e.1, mailsOf (on e.1) e.2 (core i)),
      tasks := x.mails.zipIdx.map fun (e, i) => (e.1, tasksOf (get x.tasks e.1) (core i)),
      flits := x.mails.zipIdx.map fun (e, i) => (e.1, flitsOf (get x.flits e.1) (core i)),
      tiles := x.tiles.zipIdx.map fun (e, i) => (e.1, e.2.zipIdx.map fun (c, j) => (c.1, tiles.getD (8192 * i + j) 0)),
      rects := (x.rects.foldl (fun (acc : List Rect × Nat) r =>
        (acc.1 ++ [{ r with reload := (List.range r.reload.length).map fun j =>
          (field recs (64 * (acc.2 + j)) 8, field recs (64 * (acc.2 + j) + 8) 8 % 8) }], acc.2 + r.reload.length)) ([], 0)).1 }
/-- Put the records of a save area back, then perform dealer step 4 (11 R201 to R203). DESIGN CHOICE (log 81): where the area can not be
read any more, the copy kept at the save is put back. -/
def State.restore (s : State) (d : Domain) (saved : Saved) : State :=
  let n := saved.bytes.length
  let (x, s) : Saved × State := match s.engineCheck (s.romWho d) needR false 1 saved.area n (pageFuel n) with
    | (.ok segs, t) => (saved.reread ((List.range n).map fun i => t.mem.byte (segKey segs i)), t)
    | _ => (saved, s)
  let s := x.threads.foldl (fun s t => { s with threads := insertBy (·.gid) t s.threads }) s
  let s := x.mails.foldl (fun s e => let c := s.core e.1; s.setCore { c with mail := c.mail ++ e.2 }) s
  let s := x.tasks.foldl (fun s e => let c := s.core e.1; s.setCore { c with deque := e.2 ++ c.deque }) s
  let s := x.flits.foldl (fun s e => let c := s.core e.1; s.setCore { c with recv := c.recv ++ e.2 }) s
  let s := x.tiles.foldl (fun s e => s.writeBytes ((e.2.head?.map (·.1)).getD 0) (e.2.map (·.2))) s
  let s := x.rects.foldl (fun s r => r.reload.foldl (fun s e => s.reloadSlot d r e.1 e.2) s) s
  let s : State := { s with saved := s.saved.filter (·.dom != x.dom) }
  (s.modDomain d.num fun d => { d with saveAt := none }).dealerResume d.num

end Sys2Proof.Machine
end

