-- ==== Sys2Proof/Machine/Commands.lean ====
section
/-!
DEFINITION. Submission pages and the host commands on domains, outputs and queues (22 R376 to R387): the steps
COMMAND_SUBMISSION, ATTACH to SET_FAULT_QUEUE, COMPLETION_RECORD and CONSUMED_COUNT_POLL.
-/
namespace Sys2Proof.Machine

/-- Commands that only pages of the physical function may issue (22 R381). -/
def pfOnly (code : Nat) : Bool := decide (0x10 ≤ code) && decide (code ≤ 0x15)

/-- A page that has not been attached (22 R377). -/
def Page.fresh (fn page : Nat) : Page :=
  { fn := fn, page := page, gen := 0, acc := 0, done := 0, ring := { base := 0, entries := 0, notify := 0, consAt := 0, cons := 0, n := 0 },
    cmds := [], recent := [], reattach := false }
def State.page (s : State) (fn page : Nat) : Page := (s.pages.find? fun p => p.fn == fn && p.page == page).getD (Page.fresh fn page)
def State.setPage (s : State) (p : Page) : State :=
  { s with pages := putRec (fun x => x.fn * 256 + x.page) p s.pages }
/-- The commands queued at a die's command core. -/
def State.queuedAt (s : State) (die : Nat) : Nat := ((s.pages.filter fun p => p.die == die).map fun p => p.cmds.length).sum
/-- The bytes of a page as the host reads them: zeros but for the status half's three counts, with no effect (22 R376, R377). -/
def Page.bytes (p : Page) : List Byte :=
  List.replicate 2048 0 ++ bytesOf 4 p.gen ++ bytesOf 4 p.acc ++ bytesOf 4 p.done ++ List.replicate 2036 0
/-- The partition of a virtual function; function 0 is the physical one. -/
def fnPart (fn : Nat) : Option Nat := if fn = 0 then none else some (fn - 1)

/-- Step `COMMAND_SUBMISSION`: Request Retry Status, or acceptance (22 R378). -/
def execCommandSubmission (fn page : Nat) (cmd : List Byte) (s : State) : Out :=
  let p := s.page fn page
  if cmd.length != 128 || 256 ≤ page || p.reattach || decide (Config.pageCommands ≤ p.cmds.length) ||
     decide (Config.coreCommands ≤ s.queuedAt p.die) then .next s
  else
    let c : Cmd := { bytes := cmd, result := none }
    .next (s.setPage { p with acc := (p.acc + 1) % 2 ^ 32, cmds := p.cmds ++ [c], reattach := c.code == 2 })

/-- What a command comes to: its result and values, or that it is not finished yet. -/
inductive Ans where
  | done (result v0 v1 : Nat) (s : State)
  | wait (s : State)
/-- A command refused with a result. -/
def State.deny (s : State) (r : Nat) : Ans := .done r 0 0 s
/-- Give the oldest unfinished command of a list its result. -/
def setResult (x : Nat × Nat × Nat) : List Cmd → List Cmd
  | [] => []
  | c :: cs => if c.result.isNone then { c with result := some x } :: cs else c :: setResult x cs
/-- The oldest command of a page, unless its result waits for its completion record: later ones wait behind it (22 R380). -/
def Page.due (p : Page) : Option Cmd := p.cmds.head?.filter (·.result.isNone)
/-- Perform the oldest command of a page, if it has the code: `f` is its effect (22 R380 step 1, R381, R382). -/
def State.command1 (s : State) (fn page code : Nat) (f : Cmd → State → Ans) : Out :=
  let p := s.page fn page
  match p.due with
  | none => .next s
  | some c =>
    if c.code != code || (s.core (cmdCore p.die)).halted then .next s
    else
      match (if !c.wellFormed then s.deny 1 else if code != 1 && c.gen != p.gen then s.deny 2
             else if pfOnly code && fn != 0 then s.deny 4 else f c s) with
      | .done r a b s =>
        let p := s.page fn page
        .next (s.setPage { p with cmds := setResult (r, a, b) p.cmds })
      | .wait s => .next s
/-- A command on a domain that the page's function loaded (22 R381). -/
def State.onDomain (s : State) (fn num : Nat) (f : Domain → State → Ans) : Ans :=
  match s.domain? num with
  | none => s.deny 3
  | some d => if d.fn != fn then s.deny 4 else f d s
/-- A command of a partition's function. -/
def State.onPart (s : State) (fn : Nat) (f : Partition → State → Ans) : Ans :=
  match (fnPart fn).bind s.part? with
  | none => s.deny 4
  | some p => f p s

/-- The 32-byte completion record (22 R380). -/
def Cmd.record (c : Cmd) (r v0 v1 : Nat) : List Byte := bytesOf 4 c.tag ++ bytesOf 4 r ++ bytesOf 8 v0 ++ bytesOf 8 v1 ++ bytesOf 8 0
/-- What a page's oldest command completes with; a code that is not listed has no step of its own and completes with
result 1 (22 R381). -/
def Page.outcome (p : Page) : Option (Cmd × Nat × Nat × Nat) :=
  match p.cmds with
  | [] => none
  | c :: _ => match c.result with
    | some x => some (c, x)
    | none => if (argBytes c.code).isNone then some (c, 1, 0, 0) else none
/-- Step `COMPLETION_RECORD` (22 R380). -/
def execCompletionRecord (fn page : Nat) (s : State) : Out :=
  let p := s.page fn page
  match p.outcome with
  | none => .next s
  | some (c, r, v0, v1) =>
    let bs := c.record r v0 v1
    match s.ringPost p.ring bs with
    | none => .next (s.setPage { p with ring := s.ringRead p.ring })
    | some (ring, s) =>
      let s := s.setPage
        { p with ring := ring, done := (p.done + 1) % 2 ^ 32, cmds := p.cmds.drop 1,
                 recent := ((bs, c.notify) :: p.recent).take Config.pageCommands, reattach := p.reattach && c.code != 2 }
      .next (if c.notify then s.hostWrite p.ring.notify (bytesOf 8 c.tag) else s)
/-- A full ring's consumed count is read again (22 R380, R387). -/
def State.reread (s : State) (r : Ring) : Ring := if r.full then { r with cons := s.hostRead r.consAt 4 } else r
/-- Step `CONSUMED_COUNT_POLL` of a page's ring, or of the fault ring of a function's partition (22 R380, R387). -/
def execConsumedCountPoll (faultRing : Bool) (fn page : Nat) (s : State) : Out :=
  if faultRing then
    match fnPart fn with
    | some n => .next (s.modPart n fun p => { p with faultQ := p.faultQ.map s.reread })
    | none => .next s
  else if s.pages.any (fun p => p.fn == fn && p.page == page) then
    let p := s.page fn page
    .next (s.setPage { p with ring := s.reread p.ring })
  else .next s

/-- The ring that arguments name: address, entries, notify address, consumed-count address (22 R381). -/
def Cmd.ring (c : Cmd) : Ring :=
  { base := c.arg 0 8, entries := c.arg 8 4, notify := c.arg 12 8, consAt := c.arg 20 8, cons := 0, n := 0 }
def Ring.ok (r : Ring) : Bool := [16, 32, 64, 128, 256, 512, 1024, 2048, 4096].contains r.entries
/-- Step `ATTACH` (22 R386). -/
def execAttach (fn page : Nat) (s : State) : Out :=
  s.command1 fn page 0x01 fun c s =>
    if !c.ring.ok then s.deny 1
    else
      let p := s.page fn page
      let gen := (p.gen + 1) % 2 ^ 32
      .done 0 gen 0 (s.setPage { p with gen := gen, ring := c.ring, recent := [] })
/-- Records of a ring that the host has not counted as read. -/
def State.unread (s : State) (r : Ring) : Nat := (r.n + 2 ^ 32 - s.hostRead r.consAt 4 % 2 ^ 32) % 2 ^ 32
/-- Step `RE_ATTACH`: the completions not read are written again, oldest first, from the 16 most recent (22 R386; log 34). -/
def execReAttach (fn page : Nat) (s : State) : Out :=
  s.command1 fn page 0x02 fun c s =>
    if !c.ring.ok then s.deny 1
    else
      let p := s.page fn page
      let again := (p.recent.take (s.unread p.ring)).reverse
      let (ring, s) := again.foldl (fun (acc : Ring × State) e =>
        match acc.2.ringPost acc.1 e.1 with | some x => x | none => acc) (c.ring, s)
      .done 0 p.gen 0 (s.setPage { p with ring := ring })

/-- Step `LAUNCH`: every placed thread is ready at its entry in instant 1 (01 R16; 02 R22). -/
def State.launch (s : State) (dom : Nat) (args : Vector Word 4) : State :=
  let s : State := { s with threads := s.threads.map fun t =>
    if t.dom == dom then { (t.resumed s.clock) with args := args, launchArgs := args } else t }
  s.modDomain dom fun d => { d with stat := .reacting, inst := 1, largs := args }
def execLaunch (fn page : Nat) (s : State) : Out :=
  s.command1 fn page 0x04 fun c s =>
    s.onDomain fn (c.arg 0 2) fun d s =>
      if d.stat != .created then s.deny 5
      else .done 0 0 0 (s.launch d.num #v[wd (c.arg 2 8), wd (c.arg 10 8), wd (c.arg 18 8), wd (c.arg 26 8)])
/-- Whether a domain closes or reacts. -/
def Domain.acting (d : Domain) : Bool := match d.stat with | .reacting | .closing _ => true | _ => false
def Domain.live (d : Domain) : Bool := match d.stat with | .terminated | .aborted => false | _ => true
/-- Step `EMIT_INPUT` (22 R383). -/
def execEmitInput (fn page : Nat) (s : State) : Out :=
  s.command1 fn page 0x05 fun c s =>
    s.onDomain fn (c.arg 0 2) fun d s =>
      let sig := c.arg 2 2
      if d.sigs.length ≤ sig then s.deny 3
      else if !d.acting || (d.sigs.getD sig Sig.none).out then s.deny 4
      else .done 0 (d.inst + 1) 0 (s.modDomain d.num fun d => { d with inputs := d.inputs ++ [(sig, c.arg 4 8)] })
/-- The bytes of a closed output record (22 R384). -/
def outBytes (x : Nat × List (Nat × Nat × Nat)) : List Byte :=
  bytesOf 8 x.1 ++ bytesOf 4 x.2.length ++ bytesOf 4 0 ++
    x.2.flatMap fun (sig, st, v) => bytesOf 2 sig ++ bytesOf 1 st ++ bytesOf 5 0 ++ bytesOf 8 v
/-- Step `READ_OUTPUTS` (22 R384). -/
def execReadOutputs (fn page : Nat) (s : State) : Out :=
  s.command1 fn page 0x06 fun c s =>
    s.onDomain fn (c.arg 0 2) fun d s =>
      let k := c.arg 2 8
      match d.outs.find? (·.1 == k) with
      | some x => .done 0 (outBytes x).length 0 (s.hostWrite (c.arg 10 8) (outBytes x))
      | none => s.deny (if k != 0 && d.outs.any (fun x => decide (k < x.1)) then 7 else 3)
/-- Step `SUSPEND`: the domain is stopped after step 3 of its next closure, and saved there (02 R50; 11 R201 to R203). -/
def execSuspend (fn page : Nat) (s : State) : Out :=
  s.command1 fn page 0x07 fun c s =>
    s.onDomain fn (c.arg 0 2) fun d s =>
      let area := c.arg 2 8
      match d.stat, d.suspendTo with
      | .reacting, none => if s.queuesHold d.num then s.deny 5 else .wait (s.modDomain d.num fun d => { d with suspendTo := some area })
      | .reacting, some a => if a = area then .wait s else s.deny 5
      | .closing 3, some a =>
        if a != area then s.deny 5
        else if s.queuesHold d.num then .done 5 0 0 (s.dealerResume d.num)
        else if !s.saveReady d.num then .wait s
        else
          match s.save d area with
          | some s => .done 0 d.inst 0 s
          | none => .done 4 0 0 (s.dealerResume d.num)
      | _, _ => s.deny 5
/-- Step `RESUME` (11 R202, R203). -/
def execResume (fn page : Nat) (s : State) : Out :=
  s.command1 fn page 0x08 fun c s =>
    s.onDomain fn (c.arg 0 2) fun d s =>
      if d.stat != .suspended then s.deny 5
      else
        match s.saved.find? fun x => x.dom == d.num && x.area == c.arg 2 8 with
        | none => s.deny 3
        | some x => if s.resumeRoom x then .done 0 0 0 (s.restore d x) else s.deny 6
/-- What the threads of a suspended domain hold is given up (02 R45; 11 R197). -/
def State.endSaved (s : State) (dom : Nat) : State :=
  ((s.saved.filter (·.dom == dom)).flatMap (·.threads)).foldl (fun s t =>
    let s := (s.abandon t.uid t.gid).iqUnbind t.uid
    if (s.thread? t.gid).isNone then s.releaseHolds t.gid else s) s
/-- Step `ABORT` (22 R381). -/
def execAbort (fn page : Nat) (s : State) : Out :=
  s.command1 fn page 0x09 fun c s =>
    s.onDomain fn (c.arg 0 2) fun d s =>
      if d.live then .done 0 0 0 ((s.endSaved d.num).abortDomain d.num 6 0 0 (c.arg 2 8)) else s.deny 5
/-- Step `END_STATUS` (22 R385). -/
def execEndStatus (fn page : Nat) (s : State) : Out :=
  s.command1 fn page 0x0A fun c s => s.onDomain fn (c.arg 0 2) fun d s => .done 0 d.endWord d.endVal s
/-- Step `FAULT_ANSWER` (11 R208; 22 R387). -/
def execFaultAnswer (fn page : Nat) (s : State) : Out :=
  s.command1 fn page 0x0B fun c s =>
    s.onPart fn fun p s =>
      if 1 < c.arg 8 4 then s.deny 1
      else
        match s.walks.find? fun w => w.part == p.num && w.state == 3 && w.num == c.arg 0 8 with
        | none => s.deny 3
        | some w => .done 0 0 0 (if c.arg 8 4 = 1 then { s with walks := s.walks.filter (·.id != w.id) }
            else w.waiters.foldl (fun s e => s.trapWaiting e.1 { cls := clsTranslation, tval := e.2, kind := 0 } false)
              { s with walks := s.walks.filter (·.id != w.id) })
/-- The health record of a die (22 R394). -/
def Die.health (d : Die) : List Byte :=
  [d.corrected, d.uncorrectable, d.replays, d.macroFails, d.overN, d.checks].flatMap (bytesOf 4) ++ bytesOf 8 d.lastBad ++ bytesOf 32 0
/-- Step `HEALTH_READ` (22 R394). -/
def execHealthRead (fn page : Nat) (s : State) : Out :=
  s.command1 fn page 0x0C fun c s => .done 0 256 0 (s.hostWrite (c.arg 0 8) ((List.range 4).flatMap fun d => (s.die d).health))
/-- Step `SET_FAULT_QUEUE` (22 R387). -/
def execSetFaultQueue (fn page : Nat) (s : State) : Out :=
  s.command1 fn page 0x0D fun c s =>
    s.onPart fn fun p s =>
      if !c.ring.ok then s.deny 1 else .done 0 0 0 (s.modPart p.num fun p => { p with faultQ := some c.ring })

end Sys2Proof.Machine
end

