-- ==== Sys2Proof/Machine/Queues.lean ====
section
/-!
DEFINITION. Incremental queues and arrangements: opcodes 0xB7 to 0xBE and the step ARRANGEMENT_ADD_APPLY (18 R315 to R326;
20 R355, R356; 21 R358, R372 to R374).
-/
namespace Sys2Proof.Machine

/-- A queue of the issuer's domain, by its identifier in a register; else a protection fault (18 R316). -/
def State.withIq (s : State) (a : Reg) (f : Iq → State → Out) : Out :=
  s.user fun s =>
    match s.iq? (s.gv a) with
    | some q => if q.dom = s.myDom then f q s else s.prot (s.gv a)
    | none => s.prot (s.gv a)
/-- Whether a ring of 1,024 bytes at a bank-local offset meets a live queue's ring or a live signal table (21 R372). -/
def State.ringTaken (s : State) (bank loc : Nat) : Bool :=
  (s.iqs.any fun q => q.bank == bank && decide (loc < bankLocal (sharedOff q.id) + 1024) && decide (bankLocal (sharedOff q.id) < loc + 1024)) ||
  (s.domains.any fun d => d.home == bank && d.stat != .terminated && d.stat != .aborted &&
    decide (loc < d.sigOff + 0x18000) && decide (d.sigOff < loc + 1024))
/-- Powers of two. -/
def isPow2 (n : Nat) : Bool := n != 0 && Nat.land n (n - 1) == 0
/-- The spill and capacity of a new queue are checked, then it is made (21 R372). -/
def State.makeIq (s : State) (d : Reg) (x y cap bank loc : Nat) : Out :=
  let capOk := isPow2 cap && decide (32 ≤ cap) && decide (cap ≤ 1048576)
  match s.check s.who needW false 32 y (if capOk then 32 * cap else 32) with
  | (.trap c t, s) => s.trap c t
  | (.miss sel va first, s) => .next (s.waitWalk needW sel va first)
  | (.away, s) => s.prot x
  | (.ok _, s) =>
    if y / 2 ^ 60 != 4 then s.prot x
    else if !capOk then s.prot cap
    else if Config.iqPerDomain ≤ (s.iqs.filter (·.dom == s.myDom)).length then s.reply d bank 1
    else if s.ringTaken bank loc then s.reply d bank 2
    else
      let q : Iq := { id := x, dom := s.myDom, bank := bank, spill := y, cap := cap, recs := [], ringN := 0, rhead := 0, head := 0, cons := none, prods := [],
                      closed := false, consGone := false }
      State.reply { s with iqs := s.iqs ++ [q] } d bank 0
/-- `IQDEF_NEW` (21 R372). -/
def execIqdefNew (d a b c : Reg) (s : State) : Out :=
  s.user fun s =>
    let x := s.gv a
    if x % 256 != 0 then s.prot x
    else
      match placeOf s.pkg s.iss.gid x with
      | .bad => s.trap clsSpace x
      | .shared die off =>
        let bank := qk die (sharedBank off)
        let loc := bankLocal off
        if x / 2 ^ 60 != 2 || s.owner bank != some s.myPart || decide (bankBytes (sharedBank off) < loc + 1024) then s.prot x
        else s.makeIq d x (s.gv b) (s.gv c) bank loc
      | _ => s.prot x
/-- `IQDEF_DEL` (21 R372). -/
def execIqdefDel (d a : Reg) (s : State) : Out :=
  s.withIq a fun q s =>
    if q.cons.isNone && q.prods.isEmpty && q.recs.isEmpty then State.reply { s with iqs := s.iqs.filter (·.id != q.id) } d q.bank 0
    else s.reply d q.bank 3
/-- `IQPUSH` (18 R320, R321, R323). -/
def execIqpush (d a b : Reg) (s : State) : Out :=
  s.withIq a fun q s =>
    if !q.prods.contains s.me.uid then s.prot q.id
    else s.afterRelease fun s =>
      let (st, s) := s.iqPush q (s.group b.val) (((s.domain? s.myDom).map (·.inst)).getD 0 % 2 ^ 32)
      s.reply d q.bank st
/-- Enter the hold edges of a queue to its producers not yet paused, and park its consumer (18 R322, 11 R190). -/
def State.parkIq (s : State) (q : Iq) (d : Reg) (pb : PReg) : State :=
  let live := (q.prods.filterMap s.byUid).filter fun t => !t.resting
  (live.foldl (fun s t => s.hold (qkDie q.bank) q.id okQueue 1 t.gid) s).parkMe (qkDie q.bank) q.id okQueue
    (s.doneTo d.val 0 pb.val 8 false)
/-- `IQPOP` (18 R322, R323). -/
def execIqpop (d : Reg) (pb : PReg) (a : Reg) (s : State) : Out :=
  s.withIq a fun q s =>
    if q.cons != some s.me.uid then s.prot q.id
    else
      let s := s.iqSettleOne q.id
      match s.iq? q.id with
      | none => s.prot q.id
      | some q =>
        match (s.iqIn q).pop with
        | some (r, q') => (((s.iqTouch q 0).iqOut q').putGroup d.val r.words).replied q.bank 0 0 true (s.doneTo 0 0 pb.val 8 false)
        | none => if q.closed then s.replied q.bank 0 0 false (s.doneTo 0 0 pb.val 8 false) else .next (s.parkIq q d pb)
/-- `IQCONS` (18 R321; 20 R356; 21 R373). -/
def execIqcons (d a : Reg) (s : State) : Out :=
  s.withIq a fun q s =>
    if !q.prods.contains s.me.uid then s.prot q.id
    else
      let (q', n) := (s.iqIn q).consolidate
      ((s.iqOut q').iqServe q.id).reply d q.bank n
/-- `IQBIND`: the home's reply binds (18 R316). -/
def execIqbind (d a b : Reg) (e : Fin 128) (s : State) : Out :=
  s.withIq a fun q s =>
    s.ask (.iqbind (tbit e.val 1) (s.gv b % 2 ^ 32) (tbit e.val 0)) q.id 8 q.id 0 false false (s.doneTo d.val 0 0 8 false)
/-- The state word of a queue (20 R356). -/
def Iq.stateWord (q : Iq) : Nat :=
  q.recs.length * 2 ^ 43 + (q.recs.length - q.ringN) * 2 ^ 22 + q.openN * 2 ^ 15 + q.prods.length * 2 ^ 11 +
  q.cons.isSome.toNat * 2 ^ 10 + q.closed.toNat * 2 ^ 9
/-- `IQSTAT` (20 R356; 21 R374). -/
def execIqstat (d a : Reg) (s : State) : Out :=
  s.withIq a fun q s => s.reply d q.bank q.stateWord

/-- `ARRGET` (18 R326): after the thread's earlier additions to the arrangement; the home looks the key up in its turn. -/
def execArrget (d : Reg) (pc : PReg) (a b : Reg) (s : State) : Out :=
  s.user fun s =>
    let x := s.gv a
    match s.arrs.find? fun r => r.base == x && r.doms.contains s.myDom with
    | none => s.prot x
    | some r =>
      if s.addsDue s.me.uid x then .next (s.retry (.adds x))
      else s.ask (.arrget (s.gv b)) r.base 8 x 0 false false (s.doneTo d.val 0 pc.val 8 false)
/-- `ARRADD` (18 R325). -/
def execArradd (a b c : Reg) (s : State) : Out :=
  s.user fun s =>
    let x := s.gv a
    let k := match placeOf s.pkg s.iss.gid x with | .shared die off => sharedKey die off | _ => sharedKey s.myDie 0
    s.post (.arradd (s.gv b) (s.gv c)) k 8 x 0 false
/-- An addition at its arrangement's home (18 R324, R325). -/
def State.arrAdd (s : State) (r : Req) (key v : Nat) : State :=
  match s.arrs.find? fun x => x.base == r.va && x.part == r.part with
  | none => s.report r.uid { cls := clsProtection, tval := r.va, kind := 0 }
  | some x =>
    match s.arrFind x key with
    | .found k => s.homeWrite (k + 8) (bytesOf 8 ((s.readN (k + 8) 8 + v) % 2 ^ 64))
    | .free k => s.homeWrite k (bytesOf 8 key ++ bytesOf 8 v ++ bytesOf 8 0 ++ bytesOf 8 1)
    | .bad w => s.report r.uid { cls := clsEcc, tval := w, kind := 0 }
    | .full => s.report r.uid { cls := clsProtection, tval := r.va, kind := 0 }
/-- Step `ARRANGEMENT_ADD_APPLY` (18 R324, R325). -/
def execArrangementAddApply (req : Nat) (s : State) : Out :=
  match s.reqs.find? (·.id == req) with
  | some r =>
    match r.op with
    | .arradd key v => .next (if s.mayPerform r && s.arrTurn r then (s.dropReq r.id).arrAdd r key v else s)
    | _ => .next s
  | none => .next s

end Sys2Proof.Machine
end

