-- ==== Sys2Proof/Machine/Copies.lean ====
section
/-!
DEFINITION. The copy engine and the streamer: `cpyq`, `cpyqw`, `gath` and `scat` (18 R317; 19 R328 to R331, R333; 21 R365)
and the steps COPY_START, COPY_COMPLETION and STREAMER_COMPLETION.
-/
namespace Sys2Proof.Machine

/-- A word of the request in registers. -/
def State.reqWord (s : State) (a : Reg) (i : Nat) : Nat := (s.gN (a.val + i)).toNat
def Copy.who (c : Copy) : Who := { part := c.part, asid := c.asid, gid := c.gid }
def Copy.sk (c : Copy) : Nat := bits c.w3 28 26
def Copy.dk (c : Copy) : Nat := bits c.w3 25 23
def Copy.clip (c : Copy) : Nat := bits c.w3 22 21
def Copy.rl (c : Copy) : Bool := tbit c.w3 17
def Copy.aq (c : Copy) : Bool := tbit c.w3 16
def Copy.sc (c : Copy) : Nat := bits c.w3 20 18
/-- Whose writes the engine makes for a command. -/
def Copy.writer (c : Copy) : Writer :=
  { who := c.who, core := c.core, dom := c.dom, sc := c.sc, rl := c.rl, fills := true,
    line := if c.kind = 0 then 0 else 2 * (c.id + 1) + (c.kind == 2).toNat }
/-- The window a copy covers: its source handle's, else its destination handle's (19 R328). -/
def Copy.window (src dst : Option Handle) : Ix :=
  match src, dst with | some h, _ => h.window | none, some h => h.window | none, none => (0, 0, 0, 0)
/-- Whether a window at an origin lies inside a handle's extents. -/
def Handle.windowIn (h : Handle) (o : Nat) : Bool := decide (o % 2 ^ 32 + h.tile0 ≤ h.e0) && decide (o / 2 ^ 32 + h.tile1 ≤ h.e1)
/-- The issuing thread's command, not yet queued. -/
def State.command (s : State) (a : Reg) (kind : Nat) : Copy :=
  { id := s.nextId, core := s.myCore, gid := s.iss.gid, uid := s.me.uid, dom := s.myDom, part := s.myPart, asid := s.me.asid, ef := s.ef,
    seq := s.me.seq, kind := kind, w0 := s.reqWord a 0, w1 := s.reqWord a 1, w2 := s.reqWord a 2, w3 := s.reqWord a 3,
    state := 0, total := 0, cnt := 0, status := 0 }
/-- Queue an accepted command (19 R330). -/
def State.queueCopy (s : State) (c : Copy) : State :=
  let core := s.core c.core
  let s : State := { s.setCore { core with fifo := core.fifo ++ [c.id] } with copies := s.copies ++ [c], nextId := c.id + 1 }
  s.modMe fun t => { t with seq := t.seq + 1 }

/-- The checks of one handle of a copy: layout, origin, channel, and its storage where the window reaches (19 R329). -/
def State.copyHandle (s : State) (c : Copy) (va need : Nat) (windowed : Bool) : Got Handle :=
  (s.myHandle va).bind fun h s =>
    let o := if windowed then c.w2 else 0
    let whole := if windowed then h.window else h.ext
    let els := ((allIx whole).map (shiftIx (o % 2 ^ 32) (o / 2 ^ 32))).filter h.inside
    .need (!h.scaled && originOk o && !(h.ch && c.clip != 1) && !(c.clip == 1 && windowed && !h.windowIn o)) clsProtection va <|
    -- every use of an illegal channel descriptor faults (19 R334)
    (if h.ch then (s.atOnce fun s => s.chanOf s.who false h.base).bind fun _ s => Got.ok () s else .ok () s).bind fun _ s =>
    (s.myView need h els).bind fun v s =>
      -- a write through an unmapped page entry is refused (15 R258)
      .need (need != needW || v.mapped els) clsProtection va (.ok h s)
/-- The checks of one address side of a copy: 8-byte alignment and the whole extent (19 R328, R329). -/
def State.copySide (s : State) (va need len : Nat) : Got Span :=
  .need (va % 8 == 0) clsAlign va <| s.spanOf s.who false need va len
/-- Every check of a copy request at acceptance (18 R317, 19 R329). -/
def State.copyChecks (s : State) (c : Copy) : Got Unit :=
  let bad : Bool := decide (c.w3 / 2 ^ 29 != 0) || decide (2 ≤ c.sk) || decide (3 ≤ c.dk) || (c.sk == 1 && c.dk == 2) || c.clip == 3 ||
    (c.sk == 0 && c.dk != 1 && c.clip != 0)
  .need (!bad) clsProtection c.w3 <|
  match c.sk, c.dk with
  | 0, 0 =>
    .need (c.w2 % 8 == 0 && decide (8 ≤ c.w2) && decide (c.w2 < 2 ^ 32)) clsProtection c.w3 <|
    (s.copySide c.w0 needR c.w2).bind fun x s =>
    (s.copySide c.w1 needW c.w2).bind fun y s =>
      let meet : Bool := match x, y with | .here l, .here r => segsMeet l r | _, _ => decide (c.w0 < c.w1 + c.w2) && decide (c.w1 < c.w0 + c.w2)
      .need (!meet) clsProtection c.w1 (.ok () s)
  | 0, 2 =>
    let own : Bool := match s.iq? c.w1 with | some q => q.prods.contains c.uid | none => false
    .need (own && c.w2 % 32 == 0 && decide (32 ≤ c.w2) && decide (c.w2 ≤ 65536)) clsProtection c.w1 <|
    (s.copySide c.w0 needR c.w2).bind fun _ s => .ok () s
  | 1, 0 =>
    (s.copyHandle c c.w0 needR true).bind fun h s =>
    (s.copySide c.w1 needW (cdiv (shapeN h.window * h.w) 8)).bind fun _ s => .ok () s
  | 0, _ =>
    (s.copyHandle c c.w1 needW true).bind fun h s =>
    (s.copySide c.w0 needR (cdiv (shapeN h.window * h.w) 8)).bind fun _ s => .ok () s
  | _, _ =>
    (s.copyHandle c c.w0 needR true).bind fun h s =>
    (s.copyHandle c c.w1 needW false).bind fun x s =>
      .need (x.ext == h.window && x.fmt == h.fmt) clsProtection c.w1 (.ok () s)
/-- The checks of a streamer request at acceptance: of its words each on its own, then of its extents (19 R333, 21 R365; log 46). -/
def State.streamChecks (s : State) (c : Copy) : Got Unit :=
  let n := bits c.w3 43 32 + 1
  let size := (bits c.w3 55 44 + 1) * 8
  let sel := c.w2 / 2 ^ 60
  .need (bits c.w3 31 21 == 0 && bits c.w3 63 56 == 0) clsProtection c.w3 <|
  .need (c.w0 % 4 == 0) clsProtection c.w0 <|
  .need (c.w1 % 8 == 0) clsProtection c.w1 <|
  .need (c.w2 % 8 == 0 && (sel == 1 || sel == 2 || sel == 4 || (sel == 7 && bits c.w2 47 45 != 3))) clsProtection c.w2 <|
  (s.spanOf s.who false needR c.w0 (4 * n)).bind fun _ s =>
  (s.copySide c.w1 (if c.kind = 1 then needW else needR) (n * size)).bind fun _ s =>
  (s.copySide c.w2 (if c.kind = 1 then needR else needW) 8).bind fun _ s => .ok () s

/-- Take a command into the FIFO; a full one waits or answers busy. The thread is out of rotation for the engine's answer (18 R317,
21 R359, R365). -/
def State.enqueue (s : State) (d : Reg) (c : Copy) (wait : Bool) (checks : State → Got Unit) : Out :=
  if Config.copyFifo ≤ (s.core s.myCore).fifo.length then (if wait then .next (s.retry .copyRoom) else s.reply d s.myQuad 1)
  else if !s.okScope c.sc then s.trap clsScope c.sc
  else s.plainly fun s => s.settle (checks s) fun _ s => (s.queueCopy { c with id := s.nextId }).reply d s.myQuad 0
/-- `CPYQ` (18 R317). -/
def execCpyq (d a : Reg) (s : State) : Out :=
  let c := s.command a 0
  s.enqueue d c false fun s => s.copyChecks c
/-- `CPYQW` (18 R317). -/
def execCpyqw (d a : Reg) (s : State) : Out :=
  let c := s.command a 0
  s.enqueue d c true fun s => s.copyChecks c
/-- `GATH` (21 R365). -/
def execGath (d a : Reg) (wt : Bool) (s : State) : Out :=
  let c := s.command a 1
  s.user fun s => s.enqueue d c wt fun s => s.streamChecks c
/-- `SCAT` (21 R365). -/
def execScat (d a : Reg) (wt : Bool) (s : State) : Out :=
  let c := s.command a 2
  s.user fun s => s.enqueue d c wt fun s => s.streamChecks c

/-- Whether a copy's acquire flag still has accesses to wait for (08 R150). -/
def State.acquireDue (s : State) (c : Copy) : Bool := s.priorDue c.gid c.uid c.seq c.sc
def State.modCopy (s : State) (id : Nat) (f : Copy → Copy) : State :=
  { s with copies := s.copies.map fun c => if c.id == id then f c else c }
/-- Step `COPY_START`: the oldest command of a core's FIFO starts while fewer than 48 are in flight (19 R330). -/
def execCopyStart (core : Nat) (s : State) : Out :=
  let c := s.core core
  match c.fifo with
  | [] => .next s
  | id :: rest =>
    let flying := (s.copies.filter fun x => x.core == core && x.state != 0 && x.kind != 3).length
    match s.copies.find? (·.id == id) with
    | none => .next (s.setCore { c with fifo := rest })
    | some x =>
      if Config.copiesInFlight ≤ flying || (x.aq && s.acquireDue x) then .next s
      else .next ((s.setCore { c with fifo := rest }).modCopy id fun x => { x with state := 1 })

/-- Read and write element `k` of packed bytes at an address, of a handle's format. -/
def State.packGet (s : State) (w : Who) (h : Handle) (addr k : Nat) : Got Nat :=
  (s.engBytes w (addr + k * h.w / 8) (cdiv h.w 8)).bind fun bs s =>
    .ok (if h.w = 4 then ofBytes bs / 16 ^ (k % 2) % 16 else ofBytes bs) s
def State.packPut (s : State) (c : Copy) (h : Handle) (addr k v : Nat) : Got Unit :=
  if h.w = 4 then
    (s.engBytes c.who (addr + k / 2) 1).bind fun bs s =>
      s.engFill c.who (addr + k / 2) (bytesOf 1 (if k % 2 = 1 then v % 16 * 16 + ofBytes bs % 16 else ofBytes bs / 16 * 16 + v % 16))
  else s.engOut c.writer (addr + k * h.w / 8) (bytesOf (h.w / 8) v)
/-- One element of a copy with a handle: whether it was taken from the source; a fill value is not, be it that of an element outside
the extents or of an unmapped page (15 R258; 19 R329, R331). -/
def State.copyElem (s : State) (c : Copy) (src dst : Option Handle) (k : Nat) : Got Bool :=
  let i := ixOf (Copy.window src dst) k
  let j := shiftIx (c.w2 % 2 ^ 32) (c.w2 / 2 ^ 32) i
  match src, dst with
  | some h, none =>
    if h.inside j then (s.engMapped c.who h j).bind fun m s => (s.engGet c.who h j).bind fun v s =>
      (s.packPut c h c.w1 k v).bind fun _ s => .ok m s
    else if c.clip = 2 then .ok false s else (s.packPut c h c.w1 k h.fill).bind fun _ s => .ok false s
  | none, some h =>
    if h.inside j then (s.packGet c.who h c.w0 k).bind fun v s => (s.engPut c.writer h j v).bind fun _ s => .ok true s
    else .ok false s
  | some h, some x =>
    if h.inside j then (s.engMapped c.who h j).bind fun m s => (s.engGet c.who h j).bind fun v s =>
      (s.engPut c.writer x i v).bind fun _ s => .ok m s
    else if c.clip = 2 then .ok false s else (s.engPut c.writer x i h.fill).bind fun _ s => .ok false s
  | none, none => .ok false s
/-- One record of a copy to a queue: 0 pushed, 1 full, 2 skipped (18 R317). Under the release flag a push is a signal release: it
waits for what its issuer did before the command (08 R149; 18 R323). -/
def State.copyRec (s : State) (c : Copy) (k : Nat) : Got Nat :=
  if c.rl && s.priorDue c.gid c.uid c.seq (s.dscope c.dom) then .stall .copyRoom
  else
    (s.engBytes c.who (c.w0 + 32 * k) 32).bind fun bs s =>
      match s.iq? c.w1 with
      | none => .ok 1 s
      | some q =>
        let (st, s) := s.iqPush q (ofBytes bs) (((s.domain? c.dom).map (·.inst)).getD 0 % 2 ^ 32)
        .ok st s

/-- How far a copy has come: elements done, bytes counted, and its status once it has ended. -/
structure Ran where
  k : Nat
  cnt : Nat
  done : Option Nat
  deriving DecidableEq, Repr
/-- The status of a stop (19 R331): an uncorrectable codeword, or anything else that keeps an element from being reached. -/
def stopStatus {α : Type} (x : Got α) : Option Nat :=
  match x with
  | .ok _ _ => none
  | .trap cls _ => some (if cls = clsEcc then 3 else 2)
  | .miss _ _ _ _ => some 2
  | .stall _ | .held _ _ => none
/-- Run elements of a copy in order until it ends, stops or stalls (19 R331). -/
def State.runCopy (s : State) (c : Copy) (src dst : Option Handle) (total : Nat) : Nat → Ran → Ran × State
  | 0, r => ({ r with done := if total ≤ r.k then some 0 else none }, s)
  | fuel + 1, r =>
    if total ≤ r.k then ({ r with done := some 0 }, s)
    else
      let size := match src, dst with | some h, _ => h.w | none, some h => h.w | none, none => if c.dk = 2 then 256 else 64
      let one : Got Nat :=
        if c.dk = 2 then s.copyRec c r.k
        else if src.isSome || dst.isSome then (s.copyElem c src dst r.k).bind fun b s => .ok (if b then 0 else 2) s
        else (s.engBytes c.who (c.w0 + 8 * r.k) 8).bind fun bs s => (s.engOut c.writer (c.w1 + 8 * r.k) bs).bind fun _ s => .ok 0 s
      match one, stopStatus one with
      | .ok 0 s, _ => s.runCopy c src dst total fuel { r with k := r.k + 1, cnt := r.cnt + size }
      | .ok 1 s, _ => ({ r with done := some 1 }, s)
      | .ok _ s, _ => s.runCopy c src dst total fuel { r with k := r.k + 1 }
      | _, st => ({ r with done := st }, s)
/-- The handle a side of a copy names. -/
def State.sideHandle (s : State) (c : Copy) (is : Bool) (va : Nat) : Got (Option Handle) :=
  if is then (s.handle c.who true c.dom c.ef va).bind fun h s => .ok (some h) s else .ok none s
/-- Deliver the completion of a finished command, if there is a place for it (19 R330); `cnt` counts bits until here. -/
def State.postCopy (s : State) (id : Nat) : State :=
  match s.copies.find? (·.id == id) with
  | none => s
  | some c =>
    let word := if c.kind = 3 then c.w2 else complWord c.w3 c.status (c.cnt / 8)
    let m : Compl := { slot := gidSlot c.gid, uid := c.uid, dom := c.dom, word := word, scope := c.sc, acq := c.rl }
    match s.complete? c.core m c.part with
    | none => s
    | some s =>
      let s : State := { s with copies := s.copies.filter (·.id != id) }
      if c.kind = 0 && c.dk = 2 then s.iqSettleOne c.w1 else s
/-- Step `COPY_COMPLETION`: a copy in flight runs on, and its completion is placed once it has ended (19 R331, 08 R151). -/
def execCopyCompletion (copy : Nat) (s : State) : Out :=
  match s.copies.find? (·.id == copy) with
  | none => .next s
  | some c =>
    if c.state = 2 then .next (s.postCopy copy)
    -- an engine waits for its tokens (19 R342)
    else if c.state != 1 || c.kind != 0 || s.overdrawn c.part then .next s
    else
      match (s.sideHandle c (c.sk == 1) c.w0).bind fun x s => (s.sideHandle c (c.dk == 1) c.w1).bind fun y s => .ok (x, y) s with
      | .ok (src, dst) s =>
        let total := if c.dk = 2 then c.w2 / 32 else if src.isSome || dst.isSome then shapeN (Copy.window src dst) else c.w2 / 8
        let (r, s) := s.runCopy c src dst total (total - c.total + 1) { k := c.total, cnt := c.cnt, done := none }
        let s := s.modCopy copy fun c => { c with total := r.k, cnt := r.cnt, state := if r.done.isSome then 2 else 1, status := r.done.getD 0 }
        .next (if r.done.isSome then s.postCopy copy else s)
      | x => .next ((s.modCopy copy fun c => { c with state := 2, status := (stopStatus x).getD 2 }).postCopy copy)

/-- Sub-rows of a row: runs of 8-byte words with one home (19 R333 stage 2). -/
def subRows (segs : List (Nat × Nat)) (n : Nat) : List (Nat × Nat) :=
  ((List.range (n / 8)).foldl (fun (acc : List (Nat × Nat × Option Nat)) i =>
    let hq := homeQuad (segKey segs (8 * i))
    match acc with
    | (o, l, q) :: r => if q == hq then (o, l + 8, q) :: r else (8 * i, 8, hq) :: (o, l, q) :: r
    | [] => [(8 * i, 8, hq)]) []).reverse.map fun e => (e.1, e.2.1)
/-- The rows a streamer command keeps: positions with their index and their span, before the first whose index, row or local
part has no translation; the status that the cut leaves (stage 1; 11 R209). -/
def State.keepRows (s : State) (c : Copy) (size : Nat) : List Nat → List (Nat × Nat × Span) → List (Nat × Nat × Span) × Nat × State
  | [], acc => (acc, 0, s)
  | j :: js, acc =>
    match s.engBytes c.who (c.w0 + 4 * j) 4 with
    | .ok bs s =>
      let addr := c.w2 + ofBytes bs * size
      match (s.spanOf c.who true (if c.kind = 1 then needR else needW) addr size).bind fun sp s =>
        (s.spanOf c.who true (if c.kind = 1 then needW else needR) (c.w1 + j * size) size).bind fun _ s => .ok sp s with
      | .ok sp s => s.keepRows c size js (acc ++ [(j, addr, sp)])
      | _ => (acc, 2, s)
    | x => (acc, (stopStatus x).getD 2, s)
/-- Serve one sub-row: the bytes written, and the status of what stopped it (stage 4). -/
def State.serveRow (s : State) (c : Copy) (local' addr : Nat) (off len : Nat) : Nat × Nat × State :=
  let r := if c.kind = 1 then (s.engBytes c.who (addr + off) len).bind fun bs s => s.engOut c.writer (local' + off) bs
           else (s.engBytes c.who (local' + off) len).bind fun bs s => s.engOut c.writer (addr + off) bs
  match r with
  | .ok _ s => (len, 0, s)
  | x => (0, (stopStatus x).getD 2, s)
/-- Whether writes of a streamer command are not yet acknowledged: the counters of the owners that it posted to, taken together (19
R333 stage 4). -/
def State.rowsOwed (s : State) (c : Copy) : Bool := s.reqs.any fun r => r.uid == 0 && r.seq == c.writer.line && r.res.isNone
/-- A gather or scatter completes when nothing is owed to it. -/
def State.endRows (s : State) (c : Copy) : State :=
  if s.rowsOwed c then s else (s.modCopy c.id fun c => { c with state := 2 }).postCopy c.id
/-- Step `STREAMER_COMPLETION`: a gather or scatter in flight is translated, split, served and completed (19 R333). -/
def execStreamerCompletion (copy : Nat) (s : State) : Out :=
  match s.copies.find? (·.id == copy) with
  | none => .next s
  | some c =>
    if c.state = 2 then .next (s.postCopy copy)
    else if c.state = 1 && c.kind != 0 && c.total != 0 then .next (s.endRows c)
    -- while writes of a shuffler are on their way it goes on later (15 R265, R266)
    else if c.state != 1 || c.kind = 0 || s.overdrawn c.part || (s.reqs.any fun r => r.uid == 0 && r.adm.isSome && r.res.isNone) then .next s
    else
      let n := bits c.w3 43 32 + 1
      let size := (bits c.w3 55 44 + 1) * 8
      let (rows, cut, s) := s.keepRows c size (List.range n) []
      let parts := rows.flatMap fun (j, addr, sp) =>
        (match sp with | .here segs => subRows segs size | .away => [(0, size)]).map fun (e : Nat × Nat) => (c.w1 + j * size, addr, e.1, e.2)
      let (cnt, st, s) := parts.foldl (fun (acc : Nat × Nat × State) p =>
        let (l, x, s) := acc.2.2.serveRow c p.1 p.2.1 p.2.2.1 p.2.2.2
        (acc.1 + l, max acc.2.1 x, s)) (0, 0, s)
      -- an uncorrectable codeword is reported before a missing translation (DESIGN CHOICE, log 82)
      .next ((s.modCopy copy fun c => { c with total := n, cnt := 8 * cnt, status := max st cut }).endRows c)

end Sys2Proof.Machine
end

