-- ==== Sys2Proof/Machine/Network.lean ====
section
/-!
DEFINITION. The mesh and the links between dies: steps FLIT_ROUTE, PACKET_URGENT and DRIFT_WINDOW (19 R339 to R341, R343),
and the combining of `fetchadd` requests in a router (07 R135).
-/
namespace Sys2Proof.Machine

/-- Port order of 19 R340: north, east, south, west, local. -/
def dirCode (d : Dir) : Nat := match d with | .north => 0 | .east => 1 | .south => 2 | .west => 3 | .here => 4
def opposite (d : Dir) : Dir := match d with | .north => .south | .east => .west | .south => .north | .west => .east | .here => .here
/-- Column and row of a quad among the dies' meshes set side by side (04 R78; 19 R343; log 31). -/
def quadX (q : Nat) : Nat := qkDie q % 2 * 64 + qkQuad q % 64
def quadY (q : Nat) : Nat := qkDie q / 2 * 40 + qkQuad q / 64
/-- The output that a flit at one quad takes toward another: along the row, then along the column (19 R341, R343). -/
def stepDir (cur dst : Nat) : Dir :=
  if quadX cur < quadX dst then .east
  else if quadX dst < quadX cur then .west
  else if quadY cur < quadY dst then .south
  else if quadY dst < quadY cur then .north
  else .here
/-- The quad at a column and row, and a quad's neighbour. -/
def quadAtXY (x y : Nat) : Nat := qk (x / 64 + 2 * (y / 40)) (y % 40 * 64 + x % 64)
def neighbour (q : Nat) (d : Dir) : Nat :=
  match d with
  | .north => quadAtXY (quadX q) (quadY q - 1)
  | .east => quadAtXY (quadX q + 1) (quadY q)
  | .south => quadAtXY (quadX q) (quadY q + 1)
  | .west => quadAtXY (quadX q - 1) (quadY q)
  | .here => q
/-- The output that a flit takes. Under drift routing `dst` is its intermediate quad until it has come there, and `mid` the quad
that it goes to then. -/
def Hop.out (h : Hop) : Dir := stepDir h.cur h.dst

/-- A flit at a router: its number, its place, and its priority. -/
structure Packet where
  id : Nat
  hop : Hop
  prio : Nat
  deriving DecidableEq, Repr
/-- The flits that stand at a quad on their way: requests, replies and messages. -/
def State.packetsAt (s : State) (q : Nat) : List Packet :=
  ((s.reqs.filter fun r => r.hop.cur == q && r.hop.cur != r.hop.dst && !r.carried && r.resendAt == 0).map fun r => ⟨r.id, r.hop, r.prio⟩) ++
  ((s.msgs.filter fun m => m.hop.cur == q && m.hop.cur != m.hop.dst && m.resendAt == 0).map fun m => ⟨m.id, m.hop, m.prio⟩)
def State.setHop (s : State) (id : Nat) (h : Hop) : State :=
  { s with reqs := s.reqs.map fun r => if r.id == id then { r with hop := h } else r,
           msgs := s.msgs.map fun m => if m.id == id then { m with hop := h } else m }

/-- The head of each input buffer: of the flits of one port and channel, the one that came first. -/
def heads (ps : List Packet) : List Packet :=
  ps.filter fun p => (ps.find? fun x => x.hop.port == p.hop.port && x.hop.chan == p.hop.chan &&
    !(ps.any fun y => y.hop.port == p.hop.port && y.hop.chan == p.hop.chan && decide (y.hop.since < x.hop.since))) == some p
/-- Clocks a packet has spent waiting at router heads: at this router, since it came or since the flit before it left its buffer (19
R340). -/
def State.ageOf (s : State) (p : Packet) : Nat :=
  if (heads (s.packetsAt p.hop.cur)).contains p then
    let left := (((s.quad p.hop.cur).gone.find? (·.1 == (dirCode p.hop.port, p.hop.chan))).map (·.2)).getD 0
    p.hop.age + (s.clock - max p.hop.since left)
  else p.hop.age
/-- Which of two heads of a channel goes first (19 R340). -/
def State.before (s : State) (p q : Packet) : Bool :=
  if p.hop.urgent != q.hop.urgent then p.hop.urgent
  else
    let (x, y) := if p.hop.urgent then (s.ageOf p, s.ageOf q) else (p.prio, q.prio)
    if x = y then decide (dirCode p.hop.port ≤ dirCode q.hop.port) else decide (y < x)
def State.best (s : State) : List Packet → Option Packet
  | [] => none
  | p :: ps => match s.best ps with | none => some p | some q => some (if s.before p q then p else q)
/-- The channel that an output serves: the two sub-channels of `blk` share its turn. -/
def chanClass (chan : Nat) : Nat := min chan 3
/-- Flits of a channel's turn: requests, replies, messages, `blk` (19 R340). -/
def chanWeight (c : Nat) : Nat := match c with | 0 => 2 | 1 => 4 | 2 => 2 | _ => 1
/-- The channel an output serves, and what is left of its turn after this flit; `ok` says which channels have a flit to
send, `urgent` which of them an urgent one (19 R340). -/
def nextTurn (turn : Nat × Nat) (ok urgent : Nat → Bool) : Option (Nat × Nat) :=
  let (c, left) := turn
  let hot := (List.range 4).any urgent
  if left != 0 && ok c && (urgent c || !hot) then some (c, left - 1)
  else
    (((List.range 4).map fun i => (c + 1 + i) % 4).find? fun x => ok x && (urgent x || !hot)).map fun x => (x, chanWeight x - 1)

/-- The flits in an input buffer, and its stop signal after a change: stop at 2 or fewer free places, go at 4 or more
(19 R339). The local port has its 8 places too: the interface keeps what it has still to inject behind the flits that stand in them,
in the same order, and injects while go holds. -/
def State.bufferOf (s : State) (q port chan : Nat) : Nat :=
  let n := ((s.packetsAt q).filter fun p => dirCode p.hop.port == port && p.hop.chan == chan).length
  if port = dirCode .here then min n (Config.routerBuffer - 2) else n
def State.signalStop (s : State) (q port chan : Nat) : State :=
  let free := Config.routerBuffer - s.bufferOf q port chan
  let x := s.quad q
  let others := x.stops.filter (· != (port, chan))
  if free ≤ 2 then s.setQuad { x with stops := (port, chan) :: others }
  else if 4 ≤ free then (if x.stops.contains (port, chan) then s.setQuad { x with stops := others } else s)
  else s
/-- Whether two `fetchadd` requests may combine (07 R135). -/
def Req.combines (s : State) (r x : Req) : Bool :=
  match r.op, x.op with
  | .fadd n _, .fadd n' _ =>
    n == n' && r.id != x.id && r.key == x.key && r.part == x.part && r.scope == x.scope && r.res.isNone && x.res.isNone &&
    s.unblocked r && s.unblocked x
  | _, _ => false
/-- The request that goes on in place of a `fetchadd` head, with another head of the same output combined into it: the
first is the one from the lower-ordered port (07 R135). -/
def State.combine (s : State) (p : Packet) (others : List Packet) : Nat × State :=
  match s.reqs.find? (·.id == p.id) with
  | none => (p.id, s)
  | some r =>
    match others.findSome? fun o => (s.reqs.find? (·.id == o.id)).bind fun x => if r.combines s x && o.hop.chan == p.hop.chan then some (o, x) else none with
    | none => (p.id, s)
    | some (o, x) =>
      let (f, g) := if dirCode p.hop.port ≤ dirCode o.hop.port then (r, x) else (x, r)
      (f.id, (s.modReq g.id fun q => { q with carried := true, comb := [] }).modReq f.id fun q =>
        { q with comb := f.comb ++ g.id :: g.comb, hop := { q.hop with urgent := f.hop.urgent || g.hop.urgent } })
/-- Send a flit over a link: it stands at the next quad, under drift routing past its intermediate quad on the second
sub-channel (19 R341). -/
def State.forward (s : State) (q : Nat) (out : Dir) (id : Nat) : State :=
  match (s.packetsAt q).find? (·.id == id) with
  | none => s
  | some p =>
    let n := neighbour q out
    let h := p.hop
    let past := n == h.dst && h.mid.isSome
    let h' : Hop :=
      { h with cur := n, port := opposite out, since := s.clock, age := s.ageOf p, dst := if past then h.mid.getD h.dst else h.dst,
               mid := if past then none else h.mid, chan := if past then 4 else h.chan }
    let s := s.setHop id h'
    let x := s.quad q
    let s := s.setQuad { x with gone := ((dirCode h.port, h.chan), s.clock) :: x.gone.filter (·.1 != (dirCode h.port, h.chan)) }
    let d := s.die (qkDie q)
    let link := q * 4 + dirCode out
    let old := ((d.loads.find? (·.1 == link)).map (·.2)).getD 0
    let s := s.setDie { d with loads := putRec (·.1) (link, old + 1) d.loads }
    let s := s.signalStop q (dirCode h.port) h.chan
    if h'.cur = h'.dst then s else s.signalStop n (dirCode h'.port) h'.chan
/-- Step `FLIT_ROUTE`: an output of a quad's router forwards one flit (19 R339 to R341; 07 R135). -/
def execFlitRoute (quad : Nat) (out : Dir) (s : State) : Out :=
  let hs := (heads (s.packetsAt quad)).filter fun p => p.hop.out == out
  let stops := (s.quad (neighbour quad out)).stops
  let go (c : Nat) : Bool := !stops.contains (dirCode (opposite out), c)
  let of (c : Nat) : List Packet := hs.filter fun p => chanClass p.hop.chan == c && go p.hop.chan
  let x := s.quad quad
  let turn := ((x.turns.find? (·.1 == dirCode out)).map (·.2)).getD (0, 0)
  if out = .here then .next s
  else
    match nextTurn turn (fun c => !(of c).isEmpty) (fun c => (of c).any (·.hop.urgent)) with
    | none => .next s
    | some (c, left) =>
      match s.best (of c) with
      | none => .next s
      | some p =>
        let s := s.setQuad { x with turns := putRec (·.1) (dirCode out, c, left) x.turns }
        let (id, s) := s.combine p (hs.filter (·.id != p.id))
        .next (s.forward quad out id)
/-- Step `PACKET_URGENT`: a packet whose age has come to the limit is urgent for the rest of its path (19 R340). -/
def execPacketUrgent (req : Nat) (s : State) : Out :=
  let mark (id prio : Nat) (h : Hop) : Hop :=
    if s.ageLimit ≤ s.ageOf ⟨id, h, prio⟩ && h.cur != h.dst then { h with urgent := true } else h
  .next { s with reqs := s.reqs.map fun r => if r.id == req then { r with hop := mark r.id r.prio r.hop } else r,
                 msgs := s.msgs.map fun m => if m.id == req then { m with hop := mark m.id m.prio m.hop } else m }
/-- Directed links of a die's mesh (04 R78). -/
def meshLinks : Nat := 2 * (63 * 40 + 64 * 39)
/-- Step `DRIFT_WINDOW`: at the end of a window of 4,096 clocks, the maximum load of a link against their mean decides the
next window's mode (19 R341). -/
def execDriftWindow (die : Nat) (s : State) : Out :=
  let d := s.die die
  if s.clock < d.winStart + 4096 then .next s
  else
    let ls := d.loads.map (·.2)
    .next (s.setDie { d with drift := decide (s.driftLimit * ls.sum < ls.foldl max 0 * 10 * meshLinks), winStart := s.clock, loads := [] })

end Sys2Proof.Machine
end

