-- ==== Sys2Proof/Machine/System.lean ====
section
/-!
DEFINITION. Wait objects and system: opcodes 0x5C to 0x67 (12 R211 to R223), and the steps of the watchdog, the
supervisor, the background checker, the walkers, the refill timer and the monitor units (02 R27, R49; 11 R191, R193, R200,
R207, R208; 12 R217, R221).
-/
namespace Sys2Proof.Machine

/-- A registered object's address and identity (12 R211): the word's canonical key. -/
def State.regObj (s : State) (a : Reg) (fe : Bool) (f : Nat → State → Out) : Out :=
  s.user fun s =>
    let x := s.gv a
    let sel := x / 2 ^ 60
    if x % 8 != 0 then s.trap clsAlign x
    else if !(sel == 1 || sel == 2 || sel == 4 || (fe && sel == 0)) then s.prot x
    else
      match placeOf s.pkg s.iss.gid x with
      | .priv die quad core off => f (privKey die quad core off) s
      | .shared die off => f (sharedKey die off) s
      | .virt _ _ => (s.access 0 false 8 x 8).bind (fun s => s.prot x) f
      | _ => s.trap clsSpace x
/-- Whether the issuer holds an object by an edge of a kind. -/
def State.holds (s : State) (obj ok : Nat) : Bool := s.edges.any fun e => e.ek != 0 && e.obj == obj && e.ok == ok && e.gid == s.iss.gid
/-- Register the issuer as a holder (12 R213, 11 R196). -/
def State.register (s : State) (d : Reg) (obj ok : Nat) : Out :=
  if s.holds obj ok then s.res d 6
  else
    match s.enter (keyDie obj s.myDie) obj ok 1 s.iss.gid with
    | (s, true) => s.res d 0
    | (s, false) => s.res d 1
/-- `WREG_HOLD` (12 R213). -/
def execWregHold (d a : Reg) (s : State) : Out := s.regObj a false fun k s => s.register d k okReg
/-- `WREG_FE` (12 R213). -/
def execWregFe (d a : Reg) (s : State) : Out := s.regObj a true fun k s => s.register d k okFe
/-- `WUNREG` (12 R213). -/
def execWunreg (d a : Reg) (s : State) : Out :=
  s.regObj a false fun k s =>
    if s.holds k okReg || s.holds k okFe then
      let s := (s.unhold k okReg s.iss.gid).unhold k okFe s.iss.gid
      (if s.regHeld k then s else s.wakeReg k 2).res d 0
    else s.res d 5
/-- `WWAIT` (12 R213). -/
def execWwait (d a : Reg) (s : State) : Out :=
  s.regObj a false fun k s =>
    let die := keyDie k s.myDie
    if !s.regHeld k then s.res d 4
    else if (s.freeEntry die).isNone then (s.overflowed die).res d 1
    else .next (s.parkMe die k okReg (s.doneTo d.val 0 0 8 false))
/-- `WSIG` (12 R213). -/
def execWsig (d a : Reg) (s : State) : Out :=
  s.regObj a false fun k s => s.afterRelease fun s => if s.holds k okReg then (s.wakeReg k 0).res d 0 else s.res d 5

/-- `PRIO_SET` (12 R215). -/
def execPrioSet (d a : Reg) (s : State) : Out :=
  s.user fun s =>
    let v := s.gv a
    if 7 < v then s.res d 2
    else if s.me.prioCeil < v then s.res d 1
    else (s.modMe fun t => { t with prioBase := v }).res d 0
/-- `PRIO_MAX` (12 R215). -/
def execPrioMax (d : Reg) (s : State) : Out := s.user fun s => (s.modMe fun t => { t with prioBase := t.prioCeil }).res d 0

/-- Ask the supervisor context for a service; the thread waits for its answer (12 R217). -/
def State.service (s : State) (d : Reg) (n v : Nat) : Out :=
  s.user fun s => s.afterRelease fun s =>
    let x : SupTrap :=
      { core := s.myCore, gid := s.iss.gid, uid := s.me.uid, dom := s.myDom, kind := 0, cls := 0, tval := 0, epc := s.iss.pc,
        service := some (n, v) }
    .next (({ s with sup := s.sup ++ [x] }).await .super (s.doneTo d.val 0 0 8 false))
/-- `TRAP_NOTHING`: service 0, and every number that names no service (12 R217). -/
def execTrapNothing (d : Reg) (imm : BitVec 32) (s : State) : Out :=
  s.user fun s => if imm.toNat = 0 then s.service d 0 0 else s.prot imm.toNat
/-- `TRAP_TIME` (12 R217). -/
def execTrapTime (d : Reg) (s : State) : Out := s.service d 1 0
/-- `TRAP_USER_ABORT` (12 R217). -/
def execTrapUserAbort (d : Reg) (s : State) : Out := s.service d 2 (s.gv d)
/-- `TRAP_POST_FAULT_QUEUE` (12 R217). -/
def execTrapPostFaultQueue (d : Reg) (s : State) : Out := s.service d 3 (s.gv d)
/-- `RFT` (12 R218). -/
def execRft (s : State) : Out :=
  if s.inSuper then .next s.returnSuper else if s.me.handler then .next s.returnUser else s.protOpc

/-- The thread whose registers `c` names: the issuer, or a sibling for slot 15 (12 R219). -/
def State.srOf (s : State) (c : Fin 32) : Nat := if c.val < 16 then s.iss.gid else s.iss.gid / 16 * 16 + (c.val - 16)
/-- The value of a state register (12 R219). -/
def State.srRead (s : State) (g e : Nat) : Word :=
  let t := s.thread g
  let c := s.core (gidCk g)
  match e with
  | 0 => wd g
  | 1 => wd (((s.domain? t.dom).map (·.inst)).getD 0)
  | 2 => wd (t.prioCeil * 2 ^ 8 + t.prioBase)
  | 3 => wd (s.eprio g)
  | 4 => wd (c.refill * 2 ^ 32 + unsignedOf 32 c.budget)
  | 5 => wd t.wdlim
  | 6 => t.cause
  | 7 => t.tval
  | 8 => t.epc
  | 9 => t.trec
  | 10 => t.uih
  | 11 => t.uien
  | _ => wd t.asid
/-- `SRR` (12 R219). -/
def execSrr (d : Reg) (e : Fin 128) (c : Fin 32) (s : State) : Out :=
  if 16 ≤ c.val && !s.inSuper then s.protOpc else s.res d (s.srRead (s.srOf c) e.val)
/-- Reserved bits of a state register's layout (12 R214, R216, R219; 02 R48). -/
def srReserved (e v : Nat) : Bool :=
  match e with
  | 2 => bits v 63 11 != 0 || bits v 7 3 != 0
  | 5 => bits v 63 32 != 0
  | 6 => bits v 63 11 != 0
  | 11 => bits v 63 15 != 0 || tbit v 0
  | 12 => bits v 63 14 != 0
  | _ => false
/-- Whether a register may be written (12 R219). -/
def srWritable (e : Nat) (super : Bool) : Bool := (decide (6 ≤ e) && decide (e ≤ 11)) || (super && (e == 2 || e == 4 || e == 5 || e == 12))
/-- Write a state register of a thread. -/
def Thread.srWrite (t : Thread) (e v : Nat) : Thread :=
  match e with
  | 2 => { t with prioCeil := bits v 10 8, prioBase := bits v 2 0 }
  | 5 => { t with wdlim := v }
  | 6 => { t with cause := wd v }
  | 7 => { t with tval := wd v }
  | 8 => { t with epc := wd v }
  | 9 => { t with trec := wd v }
  | 10 => { t with uih := wd v }
  | 11 => { t with uien := wd v }
  | _ => { t with asid := v }
/-- `SRW` (12 R219). -/
def execSrw (a : Reg) (e : Fin 128) (c : Fin 32) (s : State) : Out :=
  let v := s.gv a
  if 16 ≤ c.val && !s.inSuper then s.protOpc
  else if !srWritable e.val s.inSuper || srReserved e.val v then s.prot e.val
  else (s.modThread (s.srOf c) (·.srWrite e.val v)).ok
/-- Held threads of a core run again (02 R27, 12 R219). -/
def State.unholdCore (s : State) (core : Nat) : State :=
  { s with threads := s.threads.map fun t => if gidCk t.gid == core && t.stat == .held then { t with stat := .running } else t }
/-- `SRW_EBUD` (02 R25; 12 R219). -/
def execSrwEbud (a : Reg) (c : Fin 32) (s : State) : Out :=
  let v := s.gv a
  if 16 ≤ c.val && !s.inSuper then s.protOpc
  else if !s.inSuper then s.prot 4
  else
    let core := s.core s.myCore
    let b := signed 32 v
    let s := s.setCore { core with refill := v / 2 ^ 32, budget := b }
    (if 0 < b then s.unholdCore core.key else s).ok

/-- Remove the translation entries a test picks, from every quad table and die store; the fills of walks in flight for the
identifier are discarded (12 R220). -/
def State.invalidate (s : State) (asid : Nat) (pick : Tlb → Bool) : State :=
  let keep (e : Tlb) : Bool := !(e.asid == asid && pick e)
  { s with quads := s.quads.map fun q => { q with tlb := q.tlb.filter keep },
           dies := s.dies.map fun d => { d with store := d.store.filter keep },
           walks := s.walks.map fun w => if w.asid == asid && w.state == 1 then { w with discard := true } else w }
/-- Whether a walk of an identifier that a `tlbi` found in flight still goes on. -/
def State.tlbiDue (s : State) (asid before : Nat) : Bool :=
  s.walks.any fun w => w.asid == asid && decide (w.id < before) && w.state == 1 && w.discard
/-- Invalidate, and leave rotation until the walks in flight for the identifier have ended (12 R220). -/
def State.tlbi (s : State) (asid : Nat) (pick : Tlb → Bool) : Out :=
  let s := s.invalidate asid pick
  if s.tlbiDue asid s.nextId then .next (s.await (.tlbi asid s.nextId) (s.doneTo 0 0 0 8 false)) else s.ok
/-- The threads whose `tlbi` has waited long enough go on. -/
def State.tlbiEnds (s : State) : State :=
  (s.threads.filter fun t => match t.wait with
    | some w => (match w.why with | .tlbi asid before => !s.tlbiDue asid before | _ => false)
    | none => false).foldl (fun s t => s.complete t.gid 0 0 false) s
/-- `TLBI_ALL` (12 R220). -/
def execTlbiAll (s : State) : Out := s.tlbi s.me.asid fun _ => true
/-- `TLBI_PAGE` (12 R220). -/
def execTlbiPage (a : Reg) (s : State) : Out :=
  match placeOf s.pkg s.iss.gid (s.gv a) with
  | .virt sel va => s.tlbi s.me.asid fun e => e.sel == sel && decide (e.va ≤ va) && decide (va < e.va + e.size)
  | _ => s.tlbi s.me.asid fun _ => false
/-- `TLBI_ASID` (12 R220). -/
def execTlbiAsid (a : Reg) (s : State) : Out :=
  if s.inSuper then s.tlbi (s.gv a % 2 ^ 14) fun _ => true else s.protOpc

/-- `MON_SEL` (12 R221). -/
def execMonSel (d : Reg) (c : Fin 32) (a : Reg) (s : State) : Out :=
  let m := s.monitor s.myQuad c.val
  if 5 < s.gv a then s.res d 1
  else (s.setMonitor s.myQuad c.val
    { m with on := true, src := s.gv a, min := 0, max := 0, total := 0, seen := false, bins := List.replicate 16 0, tick := s.clock / 64 }).res d 0
/-- Whether a list does not fall. DESIGN CHOICE (log 82): R221 does not say whether equal edges are in ascending order; they are here. -/
def ascending : List Nat → Bool
  | x :: y :: r => decide (x ≤ y) && ascending (y :: r)
  | _ => true
/-- `MON_EDGE` (12 R221). DESIGN CHOICE (log 82): an address outside the own private memory is a protection fault with it as value. -/
def execMonEdge (c : Fin 32) (a : Reg) (s : State) : Out :=
  let x := s.gv a
  if x % 64 != 0 then s.trap clsAlign x
  else
    match placeOf s.pkg s.iss.gid x with
    | .priv die quad core off =>
      let k := privKey die quad core off
      if keyCore k != s.myCore then s.prot x
      else
        match s.badIn k 60 with
        | some w => s.trap clsEcc (ownVa x k w)
        | none =>
          let v := ofBytes (s.seen s.me.uid k 60)
          let es := (List.range 15).map fun i => v / 2 ^ (32 * i) % 2 ^ 32
          if !ascending es then s.prot x
          else (s.setMonitor s.myQuad c.val { s.monitor s.myQuad c.val with edges := es, bins := List.replicate 16 0 }).ok
    | .bad => s.trap clsSpace x
    | _ => s.prot x
/-- Item of a monitor unit (12 R221). -/
def Mon.item (m : Mon) (i : Nat) : Nat :=
  match i with
  | 0 => m.min
  | 1 => m.max
  | 2 => m.total
  | _ => if 16 ≤ i && i ≤ 31 then m.bins.getD (i - 16) 0 else 0
/-- `MON_RD` (12 R221). -/
def execMonRd (d : Reg) (c : Fin 32) (b : Reg) (s : State) : Out := s.res d (wd ((s.monitor s.myQuad c.val).item (s.gv b)))
/-- `MON_OFF` (12 R221). -/
def execMonOff (c : Fin 32) (s : State) : Out :=
  (s.setMonitor s.myQuad c.val { s.monitor s.myQuad c.val with on := false }).ok
/-- Requests that have come to a bank and wait there to be performed. -/
def State.bankDepth (s : State) (quad : Nat) : Nat :=
  (s.reqs.filter fun r => r.place == quad && r.hop.cur == r.hop.dst && r.res.isNone && !r.carried && r.resendAt == 0).length
/-- What a unit samples of a source every 64 clocks: the bank's request queue, the flits that stand in the quad's router, the entries
of its store buffers. The other sources are sampled at their events (12 R221; log 18). -/
def State.gauge (s : State) (quad src : Nat) : Option Nat :=
  match src with
  | 1 => some (s.bankDepth quad)
  | 2 => some (s.packetsAt quad).length
  | 4 => some ((List.range 4).map fun c => s.bufferUse (quad * 4 + c)).sum
  | _ => none
/-- Step `MONITOR_SAMPLE`: the sample of a multiple of 64 clocks, which a unit takes once (12 R221; log 18). -/
def execMonitorSample (quad unit _value : Nat) (s : State) : Out :=
  let m := s.monitor quad unit
  .next (match s.gauge quad m.src with
    | some v => if m.on && s.clock % 64 = 0 && m.tick < s.clock / 64 then s.setMonitor quad unit { m.sample v with tick := s.clock / 64 } else s
    | none => s)
/-- Every unit takes the samples that it has still to take up to a multiple `n` of 64 clocks (12 R221). -/
def State.ticks (s : State) (n : Nat) : State :=
  let take (quad : Nat) (m : Mon) : Mon :=
    if !m.on || n ≤ m.tick then m
    else
      match s.gauge quad m.src with
      | some v => { m.samples (n - m.tick) v with tick := n }
      | none => m
  { s with quads := s.quads.map fun q => { q with mons := q.mons.map (take q.key) } }

/-- `WDARM` (12 R222). -/
def execWdarm (d a : Reg) (s : State) : Out :=
  let l := s.gv a % 2 ^ 32
  let c := s.me.wdlimMax
  let l := if c != 0 && (l == 0 || c < l) then c else l
  let first := !s.me.wdArmed
  (s.modMe fun t => { t with wdlim := l, wdArmed := true, wdStart := if first then s.clock else t.wdStart }).res d
    (if first then 0 else 1)

/-- Step `WATCHDOG_FIRING` (02 R48, R49). A thread in an operation of its sequencer has the firing held (16 R284). -/
def execWatchdogFiring (gid : Nat) (s : State) : Out :=
  match s.thread? gid with
  | none => .next s
  | some t =>
    if !t.wdRun || t.wdlim = 0 || s.clock < t.wdStart + t.wdlim || t.wdPending then .next s
    else if s.openWait t then
      let half := (t.wait.map (·.half)).getD false
      .next ((s.withdraw gid).deliverWatchdog gid t.pc.toNat half)
    else .next (s.modThread gid fun t => { t with wdPending := true })

/-- Log an uncorrectable word in its die's health record (11 R200, 22 R394). -/
def State.logBad (s : State) (die addr : Nat) : State :=
  let d := s.die die
  s.setDie { d with uncorrectable := min (d.uncorrectable + 1) (2 ^ 32 - 1), lastBad := addr }
/-- What the supervisor context does with one trap or service (11 R200, 12 R217). -/
def State.supervise (s : State) (x : SupTrap) : State :=
  match x.service with
  | none =>
    let s := if x.cls = clsEcc then s.logBad (gidDie x.gid) x.tval else s
    s.abortFor x.dom x.kind (if x.kind = 7 then x.cls else 0) x.gid x.epc x.tval
  | some (1, _) => s.complete x.gid s.clock 0 false
  | some (2, v) => s.abortDomain x.dom 5 0 x.gid v
  | some (3, v) =>
    match s.postFault (s.partOf x.gid) 2 0 x.dom x.gid v (s.thread x.gid).asid with
    | .posted _ s => s.complete x.gid 0 0 false
    | _ => s.complete x.gid 1 0 false
  | some _ => s.complete x.gid 0 0 false
/-- Step `SUPERVISOR_TRAP_SERVICE` of a core (11 R200). A core whose command handling has halted serves none. -/
def execSupervisorTrapService (core : Nat) (s : State) : Out :=
  match s.sup.find? (·.core == core) with
  | none => .next s
  | some x =>
    if (s.core core).halted then .next s
    else .next (({ s with sup := s.sup.filter (· != x) }).supervise x)

/-- Trap a waiting thread whose wait closes a cycle; what the background checker finds in handler state is held, while the trap of the
handler's own wait is a nested one (10 R183; 11 R195, R199). -/
def State.cycleTrap (s : State) (g : Nat) (e : Edge) (path : List Edge) (checker : Bool) : State :=
  let s := s.writeRecord g path
  let tr : Trap := { cls := clsCycle, tval := e.obj, kind := (causalPath path).toNat }
  if (s.thread g).handler && checker then s.modThread g fun t => { t with cycle := some tr } else s.trapWaiting g tr false
/-- What comes of a walk: the edge that the checker walked is checked, or stays unchecked at the limit (11 R192, R193). -/
def State.walked (s : State) (g : Nat) (e : Edge) (checker : Bool) (x : Found) : State :=
  match x with
  | .clear => if checker then s.markEdge e false else s
  | .limit => if checker then s else s.markEdge e true
  | .cycle path => s.cycleTrap g e path checker
  | .cross die n seen work => s.sendWalk g e checker die n seen work
/-- Walk from one unchecked edge again (11 R193). -/
def State.recheck (s : State) (e : Edge) : State :=
  if s.edges.contains e then s.walked e.gid e true (s.walkEdge e.gid e) else s
/-- Step `BACKGROUND_CHECKER` of a die, every 65,536 clocks (11 R193). -/
def execBackgroundChecker (die : Nat) (s : State) : Out :=
  if s.clock % 65536 != 0 then .next s
  else
    let es := (sortBy (·.idx) (s.edges.filter fun e => e.die == die && e.unc && e.ek == 0)).take Config.checkerPass
    .next (es.foldl State.recheck s)
/-- Whether an edge still stands in its die's table. -/
def State.stands (s : State) (x : Edge) : Bool :=
  s.edges.any fun e => e.die == x.die && e.idx == x.idx && e.obj == x.obj && e.ok == x.ok && e.gid == x.gid && e.ek == x.ek
/-- A walk goes on at the die it has reached, if its thread still waits on the edge it began with; it follows the edges that still
stand there (11 R191, R192). -/
def State.walkOn (s : State) (x : WalkMsg) : State :=
  let s := { s with walkMsgs := s.walkMsgs.filter (·.id != x.id) }
  if (s.thread x.gid).uid == x.uid && s.stands { x.edge with gid := x.gid, ek := 0 } then
    s.walked x.gid x.edge x.checker
      (walkLoop s x.gid x.die (Config.walkLimit + 1) x.n x.seen (x.work.filter fun w => w.1.die != x.die || s.stands w.1))
  else s
/-- Step `WALK_CROSSING`: the message of a wake-up reaches the thread's die, or a walk's message the die where it goes on (11
R191). -/
def execWalkCrossing (msg : Nat) (s : State) : Out :=
  match s.crossings.find? (·.id == msg) with
  | none => .next (match s.walkMsgs.find? (·.id == msg) with | some x => s.walkOn x | none => s)
  | some x =>
    let s := { s with crossings := s.crossings.filter (·.id != msg) }
    match s.thread? x.gid with
    | none => .next s
    | some t =>
      match t.wait with
      | some w =>
        .next (if t.uid != x.uid || w.why != .reply x.id then s
          else if w.again then s.modThread x.gid (·.goOn)
          else s.complete x.gid x.val x.val2 x.pred)
      | none => .next s

/-- Start the oldest miss of a die's FIFO when a walker has room (11 R207). -/
def State.nextWalk (s : State) (die : Nat) : State :=
  let flying := (s.walks.filter fun x => x.die == die && x.state == 1).length
  match s.walks.find? fun x => x.die == die && x.state == 0 with
  | some w => if flying < Config.walksInFlight
              then { s with walks := s.walks.map fun x => if x.id == w.id then { x with state := 1 } else x } else s
  | none => s
def State.dropWalk (s : State) (id : Nat) : State := { s with walks := s.walks.filter (·.id != id) }
/-- Refuse a missing translation: each waiting thread takes a translation fault at its first faulting address (11 R208). -/
def State.refuseWalk (s : State) (w : Walk) : State :=
  w.waiters.foldl (fun s e => s.trapWaiting e.1 { cls := clsTranslation, tval := e.2, kind := 0 } false) (s.dropWalk w.id)
/-- Ask the host for a missing translation, records being posted in the order the misses are found: a miss that finds the
queue full, or another of its partition waiting for room, waits behind it (11 R208, 22 R387). -/
def State.askHost (s : State) (w : Walk) : State :=
  let g := (w.waiters.head?.map (·.1)).getD 0
  let waits : State := if w.state = 2 then s else { s with walks := (s.dropWalk w.id).walks ++ [{ w with state := 2, num := 0 }] }
  let behind := match s.walks.find? fun x => x.part == w.part && x.state == 2 with | some x => x.id != w.id | none => false
  match s.postFault w.part 1 w.acc w.dom g w.first w.asid with
  | .noQueue => s.refuseWalk w
  | .full => waits
  | .posted num s =>
    if behind then waits
    else { s with walks := s.walks.map fun x => if x.id == w.id then { x with state := 3, num := num } else x }
/-- Step `PAGE_WALK_COMPLETE`: a mapping fills the tables and ends every walk inside its page; its absence goes to the host
(11 R207, R208). A walk that waited for room in the fault queue tries again. -/
def execPageWalkComplete (walk : Nat) (s : State) : Out :=
  match s.walks.find? (·.id == walk) with
  | none => .next s
  | some w =>
    if w.state = 2 then .next (s.askHost w)
    else if w.state != 1 then .next s
    else if w.discard then .next ((s.dropWalk w.id).nextWalk w.die).tlbiEnds
    else
      match s.walkTables w.part w.asid w.sel w.va with
      | none => .next ((s.askHost w).nextWalk w.die)
      | some e =>
        let s := (s.fillDie w.die e).fillQuad w.quad e
        let s := { s with walks := s.walks.filter fun x => !(x.die == w.die && x.part == w.part && e.hits x.asid x.sel x.va) }
        .next (s.nextWalk w.die).tlbiEnds
/-- Step `WALK_FIFO_RETRY`: a miss that found the FIFO full tries again 64 clocks later, behind those that wait there, and a
queued one starts (11 R207). -/
def execWalkFifoRetry (walk : Nat) (s : State) : Out :=
  match s.walks.find? (·.id == walk) with
  | none => .next s
  | some w =>
    let queued := (s.walks.filter fun x => x.die == w.die && x.state == 0).length
    let s : State := if w.state != 4 || s.clock < w.num then s
      else if queued < Config.missFifo then { s with walks := s.walks.filter (·.id != walk) ++ [{ w with state := 0, num := 0 }] }
      else { s with walks := s.walks.map fun x => if x.id == walk then { x with num := s.clock + 64 } else x }
    .next (s.nextWalk w.die)

/-- Whether a thread issues by itself: it is no follower of a gang outside a handler (02 R29). -/
def State.leads (s : State) (t : Thread) : Bool :=
  t.handler || (match (s.quad (gidQk t.gid)).gang with | some x => x.slot != gidSlot t.gid || x.leader == t.gid | none => true)
/-- Whether a thread is held: it has been found so at its turn, or its next bundle is a vector issue and the budget is not
positive (02 R21, R26); a gang's leader holds for it (02 R29). -/
def State.isHeld (s : State) (t : Thread) : Bool :=
  t.stat == .held || (s.leads t && t.stat == .running && t.wait.isNone && t.stream.isNone && s.noEnergy t.gid && s.vectorNext t)
/-- Step `ENERGY_REFILL` of a core, at each of its refill clocks: its budget is sampled and refilled, and its held threads are
released (02 R25, R27; 12 R221; log 68). -/
def execEnergyRefill (core : Nat) (s : State) : Out :=
  let c := s.core core
  if s.clock % 1024 != 0 || s.clock = c.relClock then .next s
  else
    let held := (s.threads.filter fun t => gidCk t.gid == core && s.isHeld t).map (·.gid)
    let s := s.sampled (ckQuad core) 5 (unsignedOf 32 c.budget)
    .next ((s.setCore { c with budget := signed 32 (max c.refill 64), released := held, relClock := s.clock }).unholdCore core)

end Sys2Proof.Machine
end

