-- ==== Sys2Proof/Machine/Health.lean ====
section
/-!
DEFINITION. Faults of the part and what is reported of them, the host's own writes, and package reset (00 R5; 08 R154; 19
R343; 22 R376, R393 to R395): the steps PATROL_SCRUB to THERMAL_ALARM, HOST_POSTED_WRITE, PACKAGE_RESET and
REGISTERS_WINDOW_READ.
-/
namespace Sys2Proof.Machine

/-- A health counter, an n32 that stops at its largest value (22 R394; log 38). -/
def countUp (n k : Nat) : Nat := min (n + k) (2 ^ 32 - 1)

/-- A fault of a memory word since the scrub before, which one being free: a flipped bit is corrected when the word is read, a second
one of the word is detected (22 R393; log 30). -/
def State.struck (s : State) : State :=
  let hit := Config.memoryFault s.freeCtr
  let s := { s with freeCtr := s.freeCtr + 1 }
  match hit with
  | none => s
  | some (a, two) =>
    let w := wordKey a
    if (homeQuad w).isNone || s.bad.contains w then s
    else if two || s.soft.contains w then { s with bad := insertNat w s.bad, soft := s.soft.filter (· != w) }
    else { s with soft := insertNat w s.soft }
/-- Step `PATROL_SCRUB`: a word that SECDED corrects is written back and counted, one that it cannot correct is logged; memory may have
taken a fault since the scrub before (22 R393, R394). -/
def execPatrolScrub (word : Nat) (s : State) : Out :=
  let s := s.struck
  let w := wordKey word
  match homeQuad w with
  | none => .next s
  | some q =>
    let d := s.die (qkDie q)
    if s.bad.contains w then .next (s.logBad (qkDie q) w)
    else if s.soft.contains w then
      .next { s.setDie { d with corrected := countUp d.corrected 1 } with soft := s.soft.filter (· != w) }
    else .next s
/-- Poison the reductions in progress that a test picks (09 R175). -/
def State.poison (s : State) (pick : NetBar → Bool) : State :=
  { s with netBars := s.netBars.map fun b => if pick b then { b with poisoned := b.poisoned || b.red != 0 } else b }
/-- Step `LINK_FLIT_ERROR`: the flit is sent again, and counted (22 R393); or the network of a barrier in progress finds an error that
it cannot correct, which is free (09 R175; log 69). -/
def execLinkFlitError (die : Nat) (s : State) : Out :=
  let hit := (Config.barrierError s.freeCtr).bind fun i => s.netBars[i]?
  let s := { s with freeCtr := s.freeCtr + 1 }
  match hit with
  | some b => .next (s.poison (· == b))
  | none =>
    let d := s.die die
    .next (s.setDie { d with replays := countUp d.replays 1 })
/-- Step `MACHINE_CHECK`: the domains with a thread on the core are aborted with kind 7 and class 10 (22 R393; log 39). -/
def execMachineCheck (core : Nat) (s : State) : Out :=
  let d := s.die (ckDie core)
  let doms := dedup ((s.threads.filter fun t => gidCk t.gid == core).map (·.dom))
  .next (doms.foldl (fun s n => s.abortDomain n 7 10 0 0) (s.setDie { d with checks := countUp d.checks 1 }))
/-- A die of this package is lost: the reductions it takes part in are poisoned, and complete without it (09 R175; log 69). -/
def State.loseDie (s : State) (die : Nat) : State :=
  let hit (b : NetBar) : Bool := (s.participants b).any (fun t => gidDie t.gid == die) || b.arrivals.any fun a => gidDie a.gid == die
  let doms := dedup ((s.netBars.filter hit).map (·.dom))
  doms.foldl State.barSettle { s.poison hit with lostDies := insertNat die s.lostDies }
/-- Step `PACKAGE_LOSS`: the package's reductions are poisoned, messages to it are discarded, and accesses to it fault from
now on (19 R343; 09 R175). Of this package it is one die that is lost, which one being free (log 69). -/
def execPackageLoss (pkg : Nat) (s : State) : Out :=
  if pkg = s.pkg then .next ({ s with freeCtr := s.freeCtr + 1 }.loseDie (Config.lostDie s.freeCtr).val)
  else if s.lost.contains pkg then .next s
  else
    let part (b : NetBar) : Bool := (s.participants b).any (fun t => gidPkg t.gid == pkg) || b.arrivals.any fun a => gidPkg a.gid == pkg
    .next { s.poison part with
      lost := insertNat pkg s.lost, msgs := s.msgs.filter fun m => gidPkg (m.flit.hdr % 2 ^ 30) != pkg }
/-- Step `THERMAL_ALARM`: the ROM lowers `refill` on a die's cores (22 R395; 02 R25). -/
def execThermalAlarm (die refill : Nat) (s : State) : Out :=
  let r := refill % 2 ^ 32
  let d := s.die die
  .next { s.setDie { d with refill := min d.refill r } with
    cores := s.cores.map fun c => if ckDie c.key == die then { c with refill := min c.refill r } else c }

/-- Step `HOST_POSTED_WRITE`: a write of the host, to bonded DRAM through BAR 4, where the hypervisor has granted a mapping, or to its own
memory (08 R154, 22 R376; log 32). Writes elsewhere are dropped (22 R377). -/
def execHostPostedWrite (addr : Nat) (data : List Byte) (s : State) : Out :=
  let pa := addr % 2 ^ 60
  if keySel addr = 4 && pa + data.length ≤ Config.dramBytes && Config.hostView s.clock pa data.length then .next (s.homeWrite (dramKey pa) data)
  else if keySel addr = 6 && pa + data.length ≤ 2 ^ 60 then .next (s.homeWrite (hostKey pa) data)
  else .next s
/-- Step `PACKAGE_RESET`: every field at its Reset value (00 R5). Memory outside the package keeps its bytes; stacked
memory comes up under no key of before (07 R140). The agenda and the counters of free values are the model's (log 1, log
2). -/
def execPackageReset (s : State) : Out :=
  .next { State.reset with
    mem := { cells := s.mem.cells.filter fun c => decide (5 ≤ keySel c.1), keyNo := s.mem.keyNo },
    keyCtr := s.keyCtr, agenda := s.agenda, freeCtr := s.freeCtr, nextUid := s.nextUid, nextId := s.nextId }
/-- Step `REGISTERS_WINDOW_READ`: R376 of 22 says that these reads have effects and states none of them. -/
def execRegistersWindowRead (_addr : Nat) (_s : State) : Out := .refused .registersWindow

end Sys2Proof.Machine
end

