-- ==== Sys2Proof/Machine/Hash.lean ====
section
/-!
DEFINITION. SHA3-512, which measures objects, keys and reports (04 R83; 22 R389, R392): the spec takes it from FIPS 202 by
name. Its constants are computed here from that standard's own rules (log 58): the turn of each lane from its place along
the one orbit that ρ and π share, and the constant of each round from the shift register of ι.
-/
namespace Sys2Proof.Machine

/-- A lane of 64 bits turned by `n` places toward its high end. -/
def turnLane (n v : Nat) : Nat :=
  let w := v * 2 ^ (n % 64)
  Nat.lor (w % 2 ^ 64) (w / 2 ^ 64)
/-- The XOR of the lanes of the sheet of a lane's place: the places that differ from it by a multiple of 5. -/
def sheet (a : List Nat) (x : Nat) : Nat :=
  [0, 5, 10, 15, 20].foldl (fun v k => Nat.xor v (a.getD (x % 5 + k) 0)) 0
/-- θ: each lane takes in the sheet on its left and the turned sheet on its right. -/
def mixSheets (a : List Nat) : List Nat :=
  a.mapIdx fun i v => Nat.xor v (Nat.xor (sheet a (i + 4)) (turnLane 1 (sheet a (i + 1))))
/-- ρ and π: from place (x, y) the lane moves on to (y, 2x + 3y), and the `k`th lane of this orbit turns by the sum of the
numbers to `k`. -/
def moveLanes (a : List Nat) : Nat → Nat → Nat → Nat → List Nat → List Nat
  | 0, _, _, _, out => out
  | n + 1, k, x, y, out =>
    let z := (2 * x + 3 * y) % 5
    moveLanes a n (k + 1) y z (out.set (y + 5 * z) (turnLane (k * (k + 1) / 2) (a.getD (x + 5 * y) 0)))
/-- χ: within a row, each lane takes in the lane two on where the lane one on is clear. -/
def mixRows (a : List Nat) : List Nat :=
  a.mapIdx fun i v =>
    let at' (k : Nat) : Nat := a.getD (i / 5 * 5 + (i + k) % 5) 0
    Nat.xor v (at' 2 - Nat.land (at' 1) (at' 2))
/-- One clock of the shift register of ι: feedback into bits 0, 4, 5 and 6. -/
def clockIota (r : Nat) : Nat := if r < 128 then 2 * r else Nat.xor (2 * r) 0x171
/-- The constant of a round and the register after it: seven clocks give the bits 0, 1, 3, 7, 15, 31 and 63. -/
def roundConst (r : Nat) : Nat × Nat :=
  (List.range 7).foldl (fun (c, r) j => (c + r % 2 * 2 ^ (2 ^ j - 1), clockIota r)) (0, r)
/-- `n` rounds on 25 lanes, lane (x, y) at place x + 5y, from register `r`. -/
def permute : Nat → Nat → List Nat → List Nat
  | 0, _, a => a
  | n + 1, r, a =>
    let (c, r) := roundConst r
    let t := mixSheets a
    permute n r ((mixRows (moveLanes t 24 1 1 0 t)).modify 0 (Nat.xor c))
/-- Take in a message block by block, 9 lanes of 8 bytes at a time, each block followed by 24 rounds. -/
def soak (bs : List Byte) : Nat → List Nat → List Nat
  | 0, a => a
  | n + 1, a => soak (bs.drop 72) n (permute 24 1 (a.mapIdx fun i v => if i < 9 then Nat.xor v (field bs (8 * i) 8) else v))
/-- The 64-byte digest: the message, its two domain bits 01 and the padding 1 0* 1 up to a multiple of 72 bytes. -/
def sha3 (m : List Byte) : List Byte :=
  let free := 72 - m.length % 72
  let pad := (List.range free).map fun i => BitVec.ofNat 8 ((if i = 0 then 0x06 else 0) + (if i + 1 = free then 0x80 else 0))
  ((soak (m ++ pad) (m.length / 72 + 1) (List.replicate 25 0)).take 8).flatMap (bytesOf 8)

end Sys2Proof.Machine
end

