-- ==== Sys2Proof/Machine/Tensor.lean ====
section
/-!
DEFINITION. The tensor instructions, opcodes 0xA1 to 0xA7 (17 R309 to R314), and relayout by the shuffler: the steps
GRANULE_MOVE, CONVERSION_COMPLETE and CONVERSION_STOP (15 R263 to R271).
-/
namespace Sys2Proof.Machine

/-- The checked record of a handle, read at its home: its span, its first key and its 64 bytes. -/
def State.record (s : State) (need va : Nat) : Got (Span × Nat × Nat) :=
  (s.handleSpan s.who false need va).bind fun sp s =>
  (s.readLine va sp).bind fun bs s =>
    .ok (sp, (match sp with | .here segs => segKey segs 0 | .away => 0), ofBytes bs) s
/-- Drop the cached entries of a handle address, of whichever domain: on one core, or on every core where the address means the
same (15 R262). -/
def State.dropHandle (s : State) (core va : Nat) (all : Bool) : State :=
  { s with cores := s.cores.map fun c =>
      if c.key == core || (all && va / 2 ^ 60 != 0) then { c with handles := c.handles.filter fun e => !(e.2.1 == va) } else c }
/-- Drop the entries of a handle address that the issuing core keeps (15 R262). -/
def State.dropMine (s : State) (va : Nat) : State :=
  { s with cores := s.cores.map fun c =>
      if c.key == s.myCore then { c with handles := c.handles.filter fun e => !(e.2.1 == va) } else c }
/-- A status that a home answers with; the thread's own private memory answers at once (02 R24). -/
def State.answered (s : State) (d : Reg) (key v : Nat) : Out :=
  if s.mine (wordKey key) then s.res d (wd v) else s.reply d ((homeQuad key).getD s.myQuad) v

/-- `THDEF`: one access to the 64 bytes at their home (17 R309). -/
def execThdef (d a b c : Reg) (op : Fin 64) (s : State) : Out :=
  let va := s.gv a
  let x := s.gv b
  let y := s.gv c
  s.settle (s.record needW va) fun r s =>
  s.settle (s.inTurn r.1) fun _ s =>
    let conv := r.2.2 / 2 ^ 64 % 2 ^ 64
    if conv != 0 && op.val != 3 then s.answered d r.2.1 1
    else
      let gen := bytesOf 4 (r.2.2 / 2 ^ 384 % 2 ^ 32 + 1)
      let w (s : State) (off : Nat) (bs : List Byte) : Got Unit := s.writeSpan va r.1 off bs
      s.settle (match op.val with
        | 0 => (w s 0 (bytesOf 8 x)).bind fun _ s => w s 48 gen
        | 1 => (w s 32 (bytesOf 8 x)).bind fun _ s => w s 48 gen
        | 2 => (w s 16 (bytesOf 8 x ++ bytesOf 8 y)).bind fun _ s => w s 48 gen
        | 3 => w s 40 (bytesOf 8 x)
        | _ => w s 0 (List.replicate 48 0 ++ gen ++ List.replicate 12 0))
        fun _ s => (s.dropMine va).answered d r.2.1 0

/-- The register form of `thld` and `thst`: the handle, and the elements it names (17 R310). -/
def State.row (s : State) (a b c : Reg) (fmt : Fin 16) (f : Handle → List Ix → State → Out) : Out :=
  let va := s.gv a
  let o := s.gv b
  let k := s.gv c
  s.withFmt fmt.val (fun w => decide (w < 13)) fun w =>
  s.plainly fun s =>
  s.settle (s.myHandle va) fun h s =>
    if h.fmt != w || !originOk o then s.prot va
    else f h ((List.range (256 / fmtWidth w)).map fun j => (o % 2 ^ 32 + j, o / 2 ^ 32, k % 2 ^ 32, k / 2 ^ 32)) s
/-- The chunk's writes of clipped elements set their words full (15 R260). -/
def State.filled (s : State) (from' : Nat) : State :=
  { s with iss := { s.iss with puts := s.iss.puts.take from' ++ (s.iss.puts.drop from').map fun p => { p with fills := true } } }
/-- Write elements, setting the words of those that were clipped at their source full (15 R260). -/
def State.putFilled (s : State) (v : View) : List (Ix × Nat × Bool) → Got Unit
  | [] => .ok () s
  | (i, x, full) :: r =>
    (s.putEl s.who false v i x).bind fun _ t => (if full then t.filled s.iss.puts.length else t).putFilled v r
/-- The handle form: D's elements against A's window (17 R310). -/
def State.tile (s : State) (d a b : Reg) (fmt : Fin 16) (load : Bool) : Out :=
  let o := s.gv b
  s.withFmt fmt.val (fun w => decide (w < 13)) fun w =>
  s.handleMode fun s =>
  s.settle (s.myHandle (s.gv a)) fun h s =>
  s.settle (s.myHandle (s.gv d)) fun x s =>
    if h.fmt != w || !originOk o then s.prot h.va
    else if x.fmt != w || x.ext != h.window then s.prot x.va
    else
      let per := 256 / fmtWidth w
      let at' (i : Ix) : Ix := shiftIx (o % 2 ^ 32) (o / 2 ^ 32) i
      let reach := ((allIx x.ext).map at').filter h.inside
      s.streamed (cdiv x.n per) 0 0 [] (fun c _ s =>
          let is := chunkIx x.ext per c
          (s.myView (if load then needR else needW) h reach).bind fun va s =>
          (s.myView (if load then needW else needR) x (allIx x.ext)).bind fun vd s =>
          if load then
            (s.loadClipped va (is.map at')).bind fun vs s =>
            (s.putFilled vd ((List.zip is vs).map fun e => (e.1, e.2, !h.inside (at' e.1)))).bind fun _ s => .ok [] s
          else
            (s.loadEls vd is).bind fun vs s =>
            (s.putEls s.who false va ((List.zip (is.map at') vs).filter fun e => h.inside e.1)).bind fun _ s => .ok [] s)
        fun _ s => s
/-- `THLD` (17 R310). -/
def execThld (d a b c : Reg) (th : Bool) (fmt : Fin 16) (s : State) : Out :=
  if th then s.tile d a b fmt true
  else
    s.row a b c fmt fun h is s =>
      s.settle ((s.myView needR h (is.filter h.inside)).bind fun v s => s.loadClipped v is)
        fun xs s => (s.putGroup d.val (packEl h.w xs)).ok
/-- `THST` (17 R310). -/
def execThst (d a b c : Reg) (th : Bool) (fmt : Fin 16) (s : State) : Out :=
  if th then s.tile d a b fmt false
  else
    let g := s.group d.val
    s.row a b c fmt fun h is s =>
      s.settle ((s.myView needW h (is.filter h.inside)).bind fun v s =>
        (s.putEls s.who false v ((List.zip is (elems h.w 256 g)).filter fun e => h.inside e.1)).bind fun _ s => s.commit)
        fun _ s => s.ok

/-- The address of an element's first byte in storage; 0 where it is unmapped (17 R311). -/
def Store.addr (st : Store) (i : Ix) : Nat :=
  let (j, o) := st.h.loc i
  if st.h.lay = 6 then (match st.pages.find? (·.1 == j) with | some (_, pe, _) => pe + o / 8 | none => 0) else st.h.base + o / 8
/-- `THADDR` (17 R311). -/
def execThaddr (d a b c : Reg) (s : State) : Out :=
  let o := s.gv b
  let k := s.gv c
  let i : Ix := (o % 2 ^ 32, o / 2 ^ 32, k % 2 ^ 32, k / 2 ^ 32)
  s.plainly fun s =>
  s.settle (s.myHandle (s.gv a)) fun h s =>
    if h.ch || !h.inside i then s.prot h.va
    else s.settle ((s.myView needR h [i]).bind fun v s => (s.fetched (s.admission v)).bind fun _ s => .ok v s) fun v s =>
      s.res d (wd ((v.readIn i).addr i))

/-- The conversion whose handle record has a key. -/
def State.convAt (s : State) (key : Nat) : Option Conv := s.convs.find? (·.handle == key)
def State.modConv (s : State) (key : Nat) (f : Conv → Conv) : State :=
  { s with convs := s.convs.map fun c => if c.handle == key then f c else c }
/-- Granules in state new. -/
def Conv.done (c : Conv) : Nat := (c.gran.filter (· == 2)).length
/-- The conversion record (15 R269). -/
def Conv.bytes (c : Conv) (st tval : Nat) : List Byte :=
  bytesOf 8 c.oldBase ++ bytesOf 8 c.oldCtl ++ bytesOf 4 c.gran.length ++ bytesOf 4 c.done ++ bytesOf 8 c.handleVa ++
  bytesOf 8 st ++ bytesOf 8 tval ++ bytesOf 8 c.flags ++ bytesOf 8 0 ++ bytesOf (cdiv c.gran.length 4) (packEl 2 c.gran)
/-- Write a conversion's record back; where its page no longer translates nothing is written. -/
def State.writeConv (s : State) (c : Conv) (st tval : Nat) : State :=
  match s.engStore c.who c.record (c.bytes st tval) with
  | .ok _ s => s
  | _ => s
/-- Threads that wait for a granule go on with their operation, on another die than the granule's home when its message arrives (15 R265,
R271; 11 R191). -/
def State.wakeTile (s : State) (obj : Nat) : State :=
  (s.parkedOn obj okTile).foldl (fun s t =>
    let d := ((s.edges.find? fun e => e.ek == 0 && e.gid == t.gid && e.obj == obj).map (·.die)).getD (gidDie t.gid)
    if d = gidDie t.gid then (s.unwait t.gid).modThread t.gid (·.goOn) else s.wake t.gid d 0 0 false) s
/-- The handle of a conversion as it now stands in memory. -/
def State.convHandle (s : State) (c : Conv) : Handle := Handle.of c.handleVa (s.readN c.handle 64) c.ef

/-- The die whose shuffler serves a record: the home of its first byte. -/
def spanDie (sp : Span) (d : Nat) : Nat := match sp with | .here segs => keyDie (segKey segs 0) d | .away => d
/-- The record area of a conversion: aligned, of this package's shared SRAM or DRAM, and accessible (15 R269; 17 R312). -/
def State.areaOf (s : State) (va n : Nat) : Got Span :=
  match (if va % 64 = 0 then s.spanOf s.who false 3 va (64 + cdiv n 4) else .trap clsProtection va) with
  | .ok (.here segs) s => .need (segs.all fun e => keySel e.1 == 2 || keySel e.1 == 4) clsProtection va (.ok (.here segs) s)
  | .miss a b c d => .miss a b c d
  | .stall w => .stall w
  | .held w s => .held w s
  | _ => .trap clsProtection va
/-- A stopped conversion as its record says, read whole at the resume; no granule is moving (15 R269, R271). -/
def Conv.resumed (c : Conv) (bs : List Byte) (states : Nat) : Conv :=
  { c with stop := 0, tval := 0, copied := false, oldBase := field bs 0 8, oldCtl := field bs 8 8, flags := field bs 48 8,
           gran := (List.range (field bs 16 4)).map fun g => if states / 4 ^ g % 4 = 2 then 2 else 0 }
/-- `RELAY`: one update of the handle at its home, where the thread waits for the answer (15 R263; 17 R312). -/
def execRelay (d a b c : Reg) (e : Fin 128) (s : State) : Out :=
  let va := s.gv a
  let base := s.gv b
  let rec' := s.gv c
  let fl := s.gv d
  let tag := e.val
  if fl / 2 ^ 21 != 0 then s.prot fl
  else if (tbit fl 16 || tbit fl 17) && !s.okScope (bits fl 20 18) then s.trap clsScope (bits fl 20 18)
  else
    s.settle (s.record 3 va) fun r s =>
    s.settle (s.inTurn r.1) fun _ s =>
      let h := Handle.of va r.2.2 s.ef
      let answer (s : State) (v : Nat) : Out := s.reply d ((homeQuad r.2.1).getD s.myQuad) v
      match (if h.conv = 0 then none else s.convAt r.2.1) with
      | some cv =>
        if cv.stop != 0 && tag == h.lay && base == h.base then
          -- resumed from the record (15 R271)
          s.settle ((s.engBytes cv.who cv.record 64).bind fun bs s =>
            (s.engBytes cv.who (cv.record + 64) (cdiv (field bs 16 4) 4)).bind fun st s => .ok (bs, st) s) fun x s =>
            answer (s.modConv r.2.1 fun y => y.resumed x.1 (ofBytes x.2)) 4
        else answer s 1
      | none =>
        if tag == h.lay && base == h.base then answer s 3
        else
          let h' := { h with base := base, ctl := setBits h.ctl 8 5 tag }
          let n := h'.grans
          s.settle (s.areaOf rec' n) fun rs s =>
          if !h.valid || h.ch || !h'.valid then s.prot va
          else
            s.settle (s.storeOf s.who false needW h' (allIx h'.ext)) fun nw s =>
            s.settle (s.storeOf s.who false needR h (allIx h.ext)) fun od s =>
            if segsMeet nw.span.segs od.span.segs then s.prot base
            else if h.scaled != h'.scaled then s.prot va
            else if tag == 6 && nw.pages.length != n then s.prot base
            else
              let die := spanDie rs s.myDie
              let live := s.convs.filter (·.die == die)
              if Config.conversions ≤ live.length || Config.granules < (live.map (·.gran.length)).sum + n then answer s 2
              else
                let cv : Conv :=
                  { handle := r.2.1, handleVa := va, die := die, record := rec', oldBase := h.base, oldCtl := h.ctl,
                    gran := List.replicate n 0, stop := 0, tval := 0, flags := fl, gid := s.iss.gid, uid := s.me.uid,
                    dom := s.myDom, part := s.myPart, asid := s.me.asid, ef := s.ef, seq := s.me.seq, copied := false }
                s.settle ((s.inTurn rs).bind fun _ s =>
                  (s.writeSpan rec' rs 0 (cv.bytes 0 0)).bind fun _ s =>
                  (s.writeSpan va r.1 0 (bytesOf 8 base ++ bytesOf 8 rec')).bind fun _ s =>
                  (s.writeSpan va r.1 32 (bytesOf 8 h'.ctl)).bind fun _ s =>
                  s.writeSpan va r.1 48 (bytesOf 4 (h.gen + 1)))
                  fun _ s => answer { s.dropHandle s.myCore va true with convs := s.convs ++ [cv] } 0

/-- `THQRY` (17 R313): `thqry.conv` and `thqry.gen` check the 64-byte read alone, in any space. -/
def execThqry (d a : Reg) (op : Fin 64) (s : State) : Out :=
  let va := s.gv a
  s.plainly fun s =>
    if op.val = 2 then
      s.settle ((s.myHandle va).bind fun h s => (s.storeOf s.who false needR h []).bind fun _ s => .ok h s) fun h s =>
        s.reply d s.myQuad h.foot
    else
      s.settle (.need (va % 64 == 0) clsAlign va <| (s.spanOf s.who false needR va 64).bind fun sp s =>
        (s.readLine va sp).bind fun bs s => .ok (sp, ofBytes bs) s) fun r s =>
        let key := (r.1.segs.head?.map (·.1)).getD 0
        if op.val = 1 then s.answered d key (r.2 / 2 ^ 384 % 2 ^ 32)
        else
          match (if r.2 / 2 ^ 64 % 2 ^ 64 = 0 then none else s.convAt key) with
          | none => s.answered d key 0
          | some c => s.answered d key (c.done * 2 ^ 32 + (if c.stop = 0 then 1 else c.stop))
/-- `THSYNC`: where a conversion is live and runs, the thread waits until it ends or stops (17 R314). -/
def execThsync (d a : Reg) (s : State) : Out :=
  s.plainly fun s =>
  s.settle (s.record needR (s.gv a)) fun r s =>
    match (if r.2.2 / 2 ^ 64 % 2 ^ 64 = 0 then none else s.convAt r.2.1) with
    | none => s.res d 0
    | some c => if c.stop = 0 then .next (s.await (.sync r.2.1) (s.doneTo d.val 0 0 8 false)) else s.res d (wd c.stop)
/-- A conversion ends or stops: the threads that wait in `thsync` for it complete (17 R314). -/
def State.endSync (s : State) (key v : Nat) : State :=
  ((s.threads.filter fun t => match t.wait with | some w => w.why == .sync key | none => false).map (·.gid)).foldl
    (fun s g => s.complete g v 0 false) s

/-- Whose writes the shuffler makes in moving a granule: with the release flag clear they are performed on their own (08 R150, 15
R270). -/
def Conv.writer (c : Conv) (g : Nat) : Writer :=
  { who := c.who, core := gidCk c.gid, dom := c.dom, sc := bits c.flags 20 18, rl := tbit c.flags 17, fills := false, adm := some (c.handle, g) }
/-- What a granule's move does: for each element a read of the old storage and a write of the new (15 R265 step 3). -/
def State.moveEls (s : State) (x : Writer) (old new : Handle) : List Ix → Got Unit
  | [] => .ok () s
  | i :: is =>
    (s.engRead x.who old i).bind fun v s => (s.engWrite x new i v).bind fun _ s => s.moveEls x old new is
/-- Blocks with their scales, unchanged, by the first element of each. -/
def State.moveBlocks (s : State) (x : Writer) (old new : Handle) : List Ix → Got Unit
  | [] => .ok () s
  | i :: is =>
    (s.engBytes x.who (old.base + (old.loc i).2 / 8) 4).bind fun bs s =>
    (s.engOut x (new.base + (new.loc i).2 / 8) bs).bind fun _ s =>
    (s.engBytes x.who (old.base + old.scaleOff i) 1).bind fun sc s =>
    (s.engOut x (new.base + new.scaleOff i) sc).bind fun _ s => s.moveBlocks x old new is
/-- The tail of an image: band scales of 1.0 from a `blk` layout; from another `cim` image the tail as it stands (15 R263; log 20). -/
def State.moveBands (s : State) (x : Writer) (old new : Handle) (g : Nat) : Got Unit :=
  let at' := new.base + 20544 * g + 20480
  if old.lay = 4 then s.engOut x at' [0x80, 0x3F, 0x80, 0x3F]
  else (s.engBytes x.who (old.base + 20544 * g + 20480) 64).bind fun bs s => s.engOut x at' bs
/-- Padding of a tiled layout takes the fill value, at element positions of the storage (15 R265 step 3). -/
def State.movePads (s : State) (x : Writer) (new : Handle) : List Nat → Got Unit
  | [] => .ok () s
  | l :: ls => (s.engOut x (new.base + l * new.w / 8) (bytesOf (new.w / 8) new.fill)).bind fun _ s => s.movePads x new ls
/-- Element positions of a granule of a tiled layout that hold no element. -/
def Handle.pads (h : Handle) (g : Nat) (is : List Ix) : List Nat :=
  if h.lay = 2 || h.lay = 3 then
    let n := h.granBytes * 8 / h.w
    let used := is.map fun i => (h.loc i).2 / h.w
    ((List.range n).map (g * n + ·)).filter fun l => decide ((l + 1) * h.w ≤ 8 * h.foot) && !used.contains l
  else []
/-- Move one granule (15 R263, R265). FP4 padding is written nibble by nibble with the elements' bytes. -/
def State.moveGranule (s : State) (c : Conv) (g : Nat) : Got Unit :=
  let new := s.convHandle c
  let old := new.old c
  let x := c.writer g
  let is := (allIx new.ext).filter fun i => new.gran i == g
  if new.scaled then
    (s.moveBlocks x old new (is.filter fun i => i.1 % 8 == 0)).bind fun _ s =>
      if new.lay = 5 then s.moveBands x old new g else .ok () s
  else
    (s.moveEls x old new is).bind fun _ s =>
      if new.w = 4 then
        (new.pads g is).foldl (fun (r : Got Unit) l => r.bind fun _ s =>
          let a := new.base + l / 2
          (s.engBytes c.who a 1).bind fun bs s =>
            let b := ofBytes bs
            s.engStore c.who a (bytesOf 1 (if l % 2 = 1 then new.fill % 16 * 16 + b % 16 else b / 16 * 16 + new.fill % 16))) (.ok () s)
      else s.movePads x new (new.pads g is)
/-- The elements of a granule, in order, that its move writes before the access that faults (11 R209). -/
def moveSome (one : State → Ix → Got Unit) (s : State) : List Ix → State
  | [] => s
  | i :: is => match one s i with | .ok _ s => moveSome one s is | _ => s
def State.moved (s : State) (c : Conv) (g : Nat) : State :=
  let new := s.convHandle c
  let x := c.writer g
  let is := (allIx new.ext).filter fun i => new.gran i == g
  if new.scaled then moveSome (fun s i => s.moveBlocks x (new.old c) new [i]) s (is.filter fun i => i.1 % 8 == 0)
  else moveSome (fun s i => s.moveEls x (new.old c) new [i]) s is
/-- Whether a write admitted at a granule while it was old is still to be performed (15 R265 step 2, R267). -/
def State.admittedDue (s : State) (c : Conv) (g : Nat) : Bool :=
  s.reqs.any fun r => r.uid != 0 && r.adm == some (c.handle, g) && r.res.isNone
/-- The first granule not yet new. -/
def Conv.next (c : Conv) : Option Nat := (List.range c.gran.length).find? fun g => c.gran.getD g 2 != 2
/-- A granule that has been copied becomes new when its writes are performed, and the writes that wait for it go on (15 R265, R266). -/
def State.granuleNew (s : State) (c : Conv) (g : Nat) : State :=
  if s.reqs.any fun r => r.uid == 0 && r.adm == some (c.handle, g) && r.res.isNone then s
  else
    let c' := { c with gran := c.gran.set g 2, copied := false }
    let s : State := { s with convs := s.convs.filter (fun x => x.handle != c.handle) ++ [c'] }
    s.wakeTile (tileObj c (s.convHandle c) g)
/-- Whether the first reads of a conversion must wait: for tokens, or under the acquire flag for its issuer's earlier accesses (08 R150; 15
R263; 19 R342). -/
def State.moveWaits (s : State) (c : Conv) : Bool :=
  s.overdrawn c.part || (tbit c.flags 16 && s.priorDue c.gid c.uid c.seq (bits c.flags 20 18))
/-- Step `GRANULE_MOVE`: the next conversion of a die in turn takes its next granule to moving; a moving one is moved
and becomes new (15 R265). -/
def execGranuleMove (die : Nat) (s : State) : Out :=
  match s.convs.find? fun c => c.die == die && c.stop == 0 && c.next.isSome with
  | none => .next s
  | some c =>
    let g := (c.next).getD 0
    if s.moveWaits c || (c.gran.getD g 2 = 1 && s.admittedDue c g) then .next s
    else if c.gran.getD g 2 = 0 then .next (s.modConv c.handle fun x => { x with gran := x.gran.set g 1 })
    else if c.copied then .next (s.granuleNew c g)
    else
      match s.moveGranule c g with
      | .ok _ s => .next ((s.modConv c.handle fun x => { x with copied := true }).granuleNew c g)
      | _ => .next s
/-- Send a conversion's completion; where the mailbox is full it waits for a place (15 R270, 19 R330). -/
def State.convDone (s : State) (c : Conv) (st : Nat) : State :=
  let word := complWord (c.flags % 2 ^ 16) st (Config.conversionCount s.freeCtr).toNat
  let s := { s with freeCtr := s.freeCtr + 1 }
  let m : Compl := { slot := gidSlot c.gid, uid := c.uid, dom := c.dom, word := word, scope := bits c.flags 20 18, acq := tbit c.flags 17 }
  match s.complete? (gidCk c.gid) m c.part with
  | some s => s
  | none =>
    let (id, s) := s.takeId
    { s with copies := s.copies ++ [{ id := id, core := gidCk c.gid, gid := c.gid, uid := c.uid, dom := c.dom, part := c.part, asid := c.asid,
                                      ef := c.ef, seq := 0, kind := 3, w0 := 0, w1 := 0, w2 := word, w3 := c.flags, state := 2, total := 0, cnt := 0, status := st }] }
/-- Step `CONVERSION_COMPLETE`, once every granule is new (15 R270). -/
def execConversionComplete (handle : Nat) (s : State) : Out :=
  match s.convAt handle with
  | none => .next s
  | some c =>
    if c.next.isSome || c.stop != 0 then .next s
    else
      let gen := s.readN (handle + 48) 4
      let s := (s.homeWrite (handle + 8) (bytesOf 8 0)).homeWrite (handle + 48) (bytesOf 4 (gen + 1))
      let s := (s.dropHandle (gidCk c.gid) c.handleVa true).writeConv c 1 0
      .next (({ s with convs := s.convs.filter (·.handle != handle) }.convDone c 0).endSync handle 0)
/-- Step `CONVERSION_STOP`, where the moving granule's copy meets a fault: what it wrote before stays (15 R271, 11 R209). -/
def execConversionStop (handle : Nat) (s : State) : Out :=
  match s.convAt handle with
  | none => .next s
  | some c =>
    match c.next with
    | none => .next s
    | some g =>
      if c.stop != 0 || c.copied || c.gran.getD g 2 != 1 || s.moveWaits c || s.admittedDue c g then .next s
      else
        let halt (st tval : Nat) : Out :=
          let c' := { c with gran := c.gran.set g 0, stop := st, tval := tval }
          let s := (s.moved c g).modConv handle fun _ => c'
          .next ((((s.wakeTile (tileObj c (s.convHandle c) g)).writeConv c' st tval).convDone c' st).endSync handle st)
        match s.moveGranule c g with
        | .trap cls tval => halt (if cls = clsEcc then 3 else 2) tval
        | .miss _ _ _ first => halt 2 first
        | _ => .next s

end Sys2Proof.Machine
end

