-- ==== Sys2Proof/Machine/Tenants.lean ====
section
/-!
DEFINITION. The system commands: tenants and their keys, roots, rates, the pod table, attestation (22 R388 to R392; 07
R140, R141; 11 R205; 19 R342), the steps TENANT_CREATE to ATTEST.
-/
namespace Sys2Proof.Machine

/-- The quads of a bitmap of 1,280 bytes (22 R390). -/
def bitmapQuads (bs : List Byte) : List Nat :=
  (List.range (4 * Config.quadsPerDie)).filterMap fun i =>
    if tbit (bs.getD (i / 8) 0).toNat (i % 8) then some (qk (i / Config.quadsPerDie) (i % Config.quadsPerDie)) else none
/-- The bitmap of a partition's quads. -/
def State.quadBitmap (s : State) (part : Nat) : List Byte :=
  (List.range 1280).map fun b => BitVec.ofNat 8 (((List.range 8).map fun j =>
    let i := 8 * b + j
    if s.owner (qk (i / Config.quadsPerDie) (i % Config.quadsPerDie)) == some part then 2 ^ j else 0).sum)
/-- A key table in host memory: identifiers and public keys; none where a count or an identifier is wrong (22 R389). -/
def State.keyTable (s : State) (addr n : Nat) : Option (List (List Byte × List Byte)) :=
  let ks := (List.range n).map fun i => (s.hostBytes (addr + 2656 * i) 64, s.hostBytes (addr + 2656 * i + 64) 2592)
  if n = 0 || 8 < n || ks.any (fun k => sha3 k.2 != k.1) then none else some ks
/-- Step `TENANT_CREATE`: the partition's slot takes a fresh key, and quads are given under it, with their words full (22 R388;
07 R140). -/
def State.giveQuads (s : State) (part : Nat) (qs : List Nat) : State :=
  let key := s.keyCtr + 1
  qs.foldl (fun s q => { s.setQuad { s.quad q with part := some part } with mem := s.mem.rekey q key })
    { s with keySlots := putRec Prod.fst (part, key) s.keySlots, keyCtr := key,
             empties := s.empties.filter fun w => !(match keyRegion w with | some q => qs.contains q | none => false) }
def execTenantCreate (fn page : Nat) (s : State) : Out :=
  s.command1 fn page 0x10 fun c s =>
    let part := c.arg 0 2
    let policy := c.arg 10 8
    let qs := bitmapQuads (s.hostBytes (c.arg 2 8) 1280)
    match s.keyTable (c.arg 18 8) (c.arg 26 2) with
    | none => s.deny 1
    | some ks =>
      if 255 < part || policy / 4 != 0 then s.deny 1
      else if (s.part? part).isSome then s.deny 5
      else if qs.any fun q => (s.owner q).isSome then s.deny 6
      else
        let p : Partition :=
          { num := part, policy := policy, keys := ks, roots := [], faultQ := none, recNum := 0, rates := [], buckets := [] }
        .done 0 0 0 ({ s with parts := putRec (·.num) p s.parts }.giveQuads part qs)

/-- What the homes hold for a partition is discarded, the functions of its quads' banks are invalid, and its key slot is zero
(07 R140). -/
def State.discardHomes (s : State) (part : Nat) (qs : List Nat) : State :=
  let gone (k : Nat) : Bool := match homeQuad k with | some q => qs.contains q | none => false
  let mine (h : Held) : Bool := h.part == part
  { s with keySlots := s.keySlots.filter (·.1 != part),
           banks := (s.banks.filter (fun b => !qs.contains b.key)).map fun b =>
             { b with hands := (b.hands.map fun h => (h.1, h.2.filter (!mine ·))).filter (!·.2.isEmpty), overN := b.overN.filter (!mine ·) }, rsvs := s.rsvs.filter (fun r => !gone r.word),
           feWaits := s.feWaits.filter (fun w => !gone w.word), barWaits := s.barWaits.filter (fun w => !gone w.word),
           empties := s.empties.filter (fun w => !gone w) }
/-- Step `TENANT_TEARDOWN`: the seven steps of 22 R391 (15 R271; 16 R282; 07 R140, R141). -/
def State.teardown (s : State) (part : Nat) : State :=
  let qs := (s.quads.filter fun q => q.part == some part).map (·.key)
  let cores := s.cores.filter fun c => qs.contains (ckQuad c.key)
  -- 1
  let s := (s.rects.filter (·.part == part)).foldl (fun s r => s.stopRect r.id) s
  let doms := s.domains.filter fun d => d.part == part && d.live
  let s := doms.foldl (fun s d => (s.endSaved d.num).endDomain d.num .aborted (endWord 8 0 0) 0) s
  -- 2
  let s := (s.convs.filter (·.part == part)).foldl (fun s c => s.writeConv c 4 0) s
  let s : State := { s with convs := s.convs.filter (·.part != part), rects := s.rects.filter (·.part != part) }
  -- 3
  let s := cores.foldl (fun s c =>
    s.setCore { s.core c.key with mail := [], deque := [], post := [], fifo := [], recv := [], posted := [] }) s
  -- a started copy runs to its end, and its completion is discarded then (19 R330); posted writes run on to their homes (08 R142)
  let s : State := { s with copies := s.copies.filter (fun c => c.part != part || c.state == 1), walks := s.walks.filter (·.part != part) }
  -- 4
  let s := s.discardHomes part qs
  -- 5, 6, 7
  let s := qs.foldl (fun s q =>
    let s := s.setQuad { s.quad q with part := none, slots := [], sums := [], rowBuf := [], parts := [], gang := none }
    { s with mem := (List.range 4).foldl (fun m c => m.clearCore (q * 4 + c)) s.mem }) s
  { s with parts := s.parts.filter (·.num != part), objs := s.objs.filter (·.part != part), arrs := s.arrs.filter (·.part != part) }
def execTenantTeardown (fn page : Nat) (s : State) : Out :=
  s.command1 fn page 0x11 fun c s =>
    if (s.part? (c.arg 0 2)).isNone then s.deny 3 else .done 0 0 0 (s.teardown (c.arg 0 2))

/-- Step `SET_ROOTS` (11 R205; 22 R381). -/
def execSetRoots (fn page : Nat) (s : State) : Out :=
  s.command1 fn page 0x12 fun c s =>
    if (s.part? (c.arg 0 2)).isNone then s.deny 3
    else if 2 ^ 14 ≤ c.arg 2 2 then s.deny 1
    else
      let r := (c.arg 2 2, c.arg 4 8, c.arg 12 8, c.arg 20 8)
      .done 0 0 0 (s.modPart (c.arg 0 2) fun p => { p with roots := putRec (·.1) r p.roots })
/-- Step `SET_RATES` (19 R342; 22 R390). -/
def execSetRates (fn page : Nat) (s : State) : Out :=
  s.command1 fn page 0x13 fun c s =>
    let part := c.arg 0 2
    let es := (List.range (4 * Config.quadsPerDie + 4)).map fun i => (i, s.hostRead (c.arg 2 8 + 8 * i) 8)
    if (s.part? part).isNone then s.deny 3
    else if es.any fun e => e.2 / 2 ^ 48 != 0 then s.deny 1
    else
      let mine (i : Nat) : Bool := decide (4 * Config.quadsPerDie ≤ i) || s.owner (qk (i / Config.quadsPerDie) (i % Config.quadsPerDie)) == some part
      let rates := es.filterMap fun (i, e) => if mine i && e % 2 ^ 32 != 0 then some (i, e % 2 ^ 32, bits e 47 32) else none
      .done 0 0 0 (s.modPart part fun p => { p with rates := rates, buckets := [] })
/-- Step `SET_KEYS` (22 R389). -/
def execSetKeys (fn page : Nat) (s : State) : Out :=
  s.command1 fn page 0x15 fun c s =>
    if (s.part? (c.arg 0 2)).isNone then s.deny 3
    else
      match s.keyTable (c.arg 2 8) (c.arg 10 2) with
      | none => s.deny 1
      | some ks => .done 0 0 0 (s.modPart (c.arg 0 2) fun p => { p with keys := ks })

/-- A window entry of the pod table; none where it is out of range (22 R390). -/
def windowOf (members : Nat) (bs : List Byte) : Option Window :=
  let f := field bs
  let inb := f 0 1 == 1
  if 1 < f 0 1 || f 1 1 != 0 || 255 < f 2 2 || !tbit members (f 4 2) || f 10 6 != 0 || 2 ^ 14 ≤ f 8 2 || 255 < f 6 2 ||
     (!inb && (f 6 2 != 0 || f 8 2 != 0)) then none
  else some { inbound := inb, part := f 2 2, pkg := f 4 2, rpart := f 6 2, asid := f 8 2 }
/-- Whether two windows share kind, partition, package and remote partition. -/
def Window.same (x y : Window) : Bool := x.inbound == y.inbound && x.part == y.part && x.pkg == y.pkg && x.rpart == y.rpart
def Window.distinct : List Window → Bool
  | [] => true
  | w :: ws => !ws.any w.same && Window.distinct ws
/-- Step `SET_FABRIC` (22 R390; 19 R340, R341; 00 R2). -/
def execSetFabric (fn page : Nat) (s : State) : Out :=
  s.command1 fn page 0x14 fun c s =>
    let age := c.arg 0 4
    let drift := c.arg 4 4
    let t := c.arg 8 8
    let self := s.hostRead t 2
    let n := s.hostRead (t + 2) 2
    let members := s.hostRead (t + 16) 80
    let ws := (List.range n).map fun i => windowOf members (s.hostBytes (t + 96 + 16 * i) 16)
    if age < 64 || 4096 < age || drift < 11 || 40 < drift || Config.podPackages ≤ self || 16384 < n ||
       s.hostRead (t + 4) 12 != 0 || !tbit members self || ws.any (·.isNone) || !Window.distinct (ws.filterMap id) then s.deny 1
    else if self != s.pkg && s.domains.any (·.live) then s.deny 5
    else .done 0 0 0 { s with pkg := self, members := members, windows := ws.filterMap id, ageLimit := age, driftLimit := drift,
                              lost := s.lost.filter fun p => !tbit members p }

/-- Whether an object is loaded: a domain of it still lives. -/
def State.objLive (s : State) (o : Obj) : Bool := o.doms.any fun n => match s.domain? n with | some d => d.live | none => false
/-- Step `ATTEST` (22 R392). -/
def execAttest (fn page : Nat) (s : State) : Out :=
  s.command1 fn page 0x18 fun c s =>
    s.onPart fn fun p s =>
      let os := s.objs.filter fun o => o.part == p.num && s.objLive o
      let body := (List.range 64).map (fun i => BitVec.ofNat 8 (c.arg i 1)) ++ padTo 64 Config.identityHash ++ padTo 64 Config.romHash ++
        sha3 (s.quadBitmap p.num ++ bytesOf 8 p.policy ++ p.keys.flatMap (·.1)) ++ bytesOf 4 os.length ++ bytesOf 4 0 ++
        os.flatMap fun o => padTo 64 o.measure
      let report := body ++ padTo 4627 (Config.signature body)
      .done 0 report.length 0 (s.hostWrite (c.arg 64 8) report)

end Sys2Proof.Machine
end

