-- ==== Sys2Proof/Machine/Zof.lean ====
section
/-!
DEFINITION. A Zheter object as the ROM loader reads it (04 R80 to R83), and the loader's nine checks (R84). The layouts that
R81 leaves to the arguments of a directive are in log 37.
-/
namespace Sys2Proof.Machine

/-- Entry size of each table kind (04 R81, R82). -/
def entrySizes : List Nat := [1, 48, 24, 24, 16, 32, 8, 4, 32, 72, 32, 32, 16, 72, 64, 1]
/-- A directory entry: entry size, its zero field, entries, offset (04 R80). -/
structure Tab where
  size : Nat
  zero : Nat
  count : Nat
  off : Nat
  deriving DecidableEq, Repr
def Tab.bytes (t : Tab) : Nat := t.size * t.count
def tabOf (f : List Byte) (k : Nat) : Tab :=
  { size := field f (16 + 16 * k) 2, zero := field f (18 + 16 * k) 2, count := field f (20 + 16 * k) 4, off := field f (24 + 16 * k) 8 }
def slice (f : List Byte) (off n : Nat) : List Byte := (f.drop off).take n
/-- The rows of a table. -/
def rowsOf (f : List Byte) (k : Nat) : List (List Byte) :=
  let t := tabOf f k
  (List.range t.count).map fun i => slice f (t.off + i * t.size) t.size

/-- A section (04 R81): kind 0 text, 1 priv, 2 shared, 3 dram. -/
structure Sect where
  kind : Nat
  fe : Bool
  zero : Bool
  die : Nat
  quad : Nat
  core : Nat
  off : Nat
  size : Nat
  img : Nat
  feImg : Nat
  deriving DecidableEq, Repr
def sectOf (r : List Byte) : Sect :=
  let p := field r 8 8
  { kind := field r 4 1, fe := field r 5 1 == 1, zero := decide (field r 5 1 ≤ 1) && field r 7 1 == 0 && bits p 47 0 == 0,
    die := bits p 63 62, quad := bits p 61 50, core := bits p 49 48, off := field r 16 8, size := field r 24 8,
    img := field r 32 8, feImg := field r 40 8 }
/-- A range of the allocation map (04 R82). -/
structure Rng where
  space : Nat
  kind : Nat
  die : Nat
  zero : Nat
  unit : Nat
  off : Nat
  len : Nat
  owner : Nat
  deriving DecidableEq, Repr
def rngOf (r : List Byte) : Rng :=
  { space := field r 0 1, kind := field r 1 1, die := field r 2 1, zero := field r 3 1, unit := field r 4 2, off := field r 6 4,
    len := field r 10 4, owner := field r 14 2 }
/-- A symbol: section, value, kind (04 R81). -/
structure Sym where
  sec : Nat
  value : Nat
  kind : Nat
  deriving DecidableEq, Repr
/-- A domain's record (04 R81). -/
structure Dcl where
  seed : Nat
  wdlim : Nat
  home : Nat
  sigOff : Nat
  nsig : Nat
  nthr : Nat
  first : Nat
  launch : Bool
  deriving DecidableEq, Repr
/-- A thread's or a fork slot's record (04 R81). -/
structure Thr where
  dom : Nat
  fork : Bool
  prio : Nat
  entry : Nat
  die : Nat
  slot : Nat
  quad : Nat
  core : Nat
  wdlim : Nat
  args : Nat
  deriving DecidableEq, Repr
def Thr.coreKey (t : Thr) : Nat := qk t.die t.quad * 4 + t.core
/-- A matrix record (04 R79, R81; log 37): a rectangle, a slot of one, or channels of its outlier mask. -/
inductive Mx where
  | rect (die quad rows cols acc : Nat)
  | slot (rect index handle : Nat)
  | mask (rect core handle : Nat) (chans : List Nat)
  | bad
  deriving DecidableEq, Repr
def mxOf (r : List Byte) : Mx :=
  let f := field r
  match f 0 1 with
  | 0 => .rect (f 5 1) (f 6 2) (f 8 1) (f 9 1) (f 10 4)
  | 1 => .slot (f 1 4) (f 5 1) (f 6 4)
  | 2 => .mask (f 1 4) (qk (f 5 1) (f 6 2) * 4 + f 8 1) (f 9 4) ((List.range (min (f 13 1) 9)).map fun i => f (14 + 2 * i) 2)
  | _ => .bad
/-- A handle's place: section and offset (04 R81). -/
structure Hdl where
  raw : Nat
  sec : Nat
  off : Nat
  deriving DecidableEq, Repr
/-- A queue: domain, home bank, ring offset, spill, capacity (04 R81). -/
structure Que where
  dom : Nat
  bank : Nat
  ring : Nat
  spill : Nat
  cap : Nat
  deriving DecidableEq, Repr
/-- An arrangement: home bank, bank-local offset, buckets (04 R81). -/
structure Arn where
  bank : Nat
  off : Nat
  buckets : Nat
  deriving DecidableEq, Repr
/-- A bank function: image, and its banks (04 R81); none where the list is not one. -/
structure Bfn where
  image : Nat
  banks : List (Option Nat)
  deriving DecidableEq, Repr

/-- The strings from a place on, up to an empty one. -/
def namesAt (bs : List Byte) : Nat → List (List Byte)
  | 0 => []
  | fuel + 1 =>
    let x := bs.takeWhile (· != 0)
    if x.isEmpty then [] else x :: namesAt (bs.drop (x.length + 1)) fuel
/-- A decimal number. -/
def decimal (x : List Byte) : Option Nat :=
  if x.isEmpty || x.any (fun c => c.toNat < 48 || 57 < c.toNat) then none else some (x.foldl (fun n c => 10 * n + (c.toNat - 48)) 0)
/-- The bank that a name `D.B` stands for (log 37). -/
def bankNamed (x : List Byte) : Option Nat :=
  match decimal (x.takeWhile (· != 46)), decimal ((x.dropWhile (· != 46)).drop 1) with
  | some d, some b => if d < 4 && b < Config.quadsPerDie then some (qk d b) else none
  | _, _ => none

/-- The object: its file and its tables (04 R80, R81). -/
structure Zof where
  file : List Byte
  sects : List Sect
  syms : List Sym
  relocs : List (Nat × Nat × Nat × Nat × Nat)
  map : List Rng
  doms : List Dcl
  sigs : List (Nat × Nat × Nat)
  claims : List (Nat × Nat)
  thrs : List Thr
  hdls : List Hdl
  mxs : List Mx
  ques : List Que
  arns : List Arn
  bfns : List Bfn
  deriving DecidableEq, Repr
def zofOf (f : List Byte) : Zof :=
  let rows := rowsOf f
  let names := slice f (tabOf f 0).off (tabOf f 0).bytes
  { file := f, sects := (rows 1).map sectOf,
    syms := (rows 2).map fun r => { sec := field r 4 4, value := field r 8 8, kind := field r 17 1 },
    relocs := (rows 3).map fun r => (field r 0 4, field r 4 4, field r 8 8, field r 16 4, field r 20 4),
    map := (rows 4).map rngOf,
    doms := (rows 5).map fun r =>
      { seed := field r 4 8, wdlim := field r 12 4, home := qk (field r 16 1) (field r 18 2), sigOff := field r 20 4,
        nsig := field r 24 2, nthr := field r 26 2, first := field r 28 2, launch := tbit (field r 30 2) 0 },
    sigs := (rows 6).map fun r => (field r 4 2, field r 6 1, field r 7 1),
    claims := (rows 7).map fun r => (field r 0 2, field r 2 2),
    thrs := (rows 8).map fun r =>
      { dom := field r 4 2, fork := tbit (field r 6 1) 0, prio := field r 7 1, entry := field r 8 8, die := field r 16 1,
        slot := field r 17 1, quad := field r 18 2, core := field r 20 1, wdlim := field r 24 4, args := field r 28 4 },
    hdls := (rows 9).map fun r => { raw := field r 0 64, sec := field r 64 4, off := field r 68 4 },
    mxs := (rows 10).map mxOf,
    ques := (rows 11).map fun r =>
      { dom := field r 0 2, bank := qk (field r 2 1) (field r 4 2), ring := field r 8 4, spill := field r 12 8, cap := field r 20 4 },
    arns := (rows 12).map fun r => { bank := qk (field r 0 1) (field r 2 2), off := field r 4 4, buckets := field r 8 4 },
    bfns := (rows 13).map fun r =>
      let at0 := field r 68 4
      { image := field r 0 64,
        banks := if at0 = 0 then [] else (namesAt (names.drop at0) names.length).map bankNamed } }

/-- Check 1: the header and the tables (04 R80, R84). DESIGN CHOICE (log 80): a directory entry with a wrong entry size or a
non-zero zero field, and a table that lies over the header, are refused here; R84's code 1 names the file's end and alignment. -/
def headOk (f : List Byte) (len : Nat) : Bool :=
  field f 0 4 == 0x5445485A && field f 4 2 == 1 && field f 6 2 == 1 && field f 8 4 == 0x40 && field f 12 4 == len && decide (272 ≤ len) &&
  (List.range 16).all fun k =>
    let t := tabOf f k
    t.count == 0 || (t.size == entrySizes.getD k 0 && t.zero == 0 && t.off % 8 == 0 && decide (272 ≤ t.off) && decide (t.off + t.bytes ≤ len))
/-- Check 2: measurement and signature (04 R83, R84; 22 R389). -/
def sigOk (f : List Byte) (keys : List (List Byte × List Byte)) : Bool :=
  let m := tabOf f 14
  let g := tabOf f 15
  let digest := sha3 (f.take m.off)
  let q := slice f g.off g.bytes
  m.count == 1 && g.count == 4699 && decide (m.off + 64 ≤ g.off) &&
  ((List.range 14).all fun k => (tabOf f k).count == 0 || decide ((tabOf f k).off + (tabOf f k).bytes ≤ m.off)) &&
  slice f m.off 64 == digest && field q 0 2 == 1 && field q 2 2 == 0 && field q 4 4 == 4627 &&
  (match keys.find? fun k => k.1 == slice q 8 64 with
   | some k => Config.verifies k.2 digest (slice q 72 4627)
   | none => false)

/-- The shared offsets of a bank-local range, block by block (07 R123). -/
def bankKeys (bank loc len : Nat) : List (Nat × Nat) :=
  (List.range ((loc + len + 255) / 256 - loc / 256)).map fun i =>
    let lo := max loc ((loc / 256 + i) * 256)
    (sharedKey (qkDie bank) (sharedOfLocal (qkQuad bank) lo), min (loc + len) ((loc / 256 + i + 1) * 256) - lo)
/-- The keys of a section of private memory or shared SRAM. -/
def Sect.keys (x : Sect) : List (Nat × Nat) :=
  if x.size = 0 then [] else if x.kind = 1 then [(privKey x.die x.quad x.core x.off, x.size)]
  else if x.kind = 2 then [(sharedKey x.die x.off, x.size)] else []
/-- The parts of a range that meet none of some others. -/
def apart (x : Nat × Nat) : List (Nat × Nat) → List (Nat × Nat)
  | [] => if x.2 = 0 then [] else [x]
  | y :: ys =>
    if x.1 < y.1 + y.2 && y.1 < x.1 + x.2 then
      apart (x.1, y.1 - x.1) ys ++ apart (max x.1 (y.1 + y.2), x.1 + x.2 - max x.1 (y.1 + y.2)) ys
    else apart x ys
/-- Whether a range meets a section of a live object. -/
def State.objTaken (s : State) (k n : Nat) : Bool :=
  s.objs.any fun o => s.objLive o && o.sections.any fun e => decide (k < e.1 + e.2) && decide (e.1 < k + n)
/-- Check 3: sections and relocations (04 R84). DESIGN CHOICE (log 80): a section record with reserved bits set or with an image
past the file, and a relocation outside its section, are refused here, because R84 names no code for them. -/
def State.sectionsOk (s : State) (part : Nat) (z : Zof) (len : Nat) : Bool :=
  (z.sects.all fun x =>
    decide (x.kind ≤ 3) && x.zero && decide (x.img + x.size ≤ len) && (!x.fe || decide (x.feImg + (x.size / 8 + 7) / 8 ≤ len)) &&
    (if x.kind = 1 then decide (x.off + x.size ≤ Config.privBytes) && decide (x.quad < Config.quadsPerDie) && s.owner (qk x.die x.quad) == some part
     else if x.kind = 2 then decide (x.off + x.size ≤ Config.sharedBytes) && s.ownsShared part x.die x.off x.size
     else decide (x.off + x.size ≤ 2 ^ 48)) &&
    !(x.keys.any fun e => s.objTaken e.1 e.2)) &&
  z.relocs.all fun (sec, kind, off, sym, _) =>
    match z.sects[sec]?, (z.syms[sym]?).bind (fun y => z.sects[y.sec]?) with
    | some x, some t => (kind == 2 || kind == 3) && decide (off + (if kind = 2 then 8 else 4) ≤ x.size) && (t.kind == 0 || t.kind == 3)
    | _, _ => false

/-- The text section that holds a byte of the code image, and the line at an offset of it. -/
def Zof.textAt (z : Zof) (o : Nat) : Option Sect := z.sects.find? fun x => x.kind == 0 && decide (x.off ≤ o) && decide (o + 64 ≤ x.off + x.size)
def Zof.line (z : Zof) (o : Nat) : Option Line :=
  (z.textAt o).map fun x => (List.range 32).map fun i => field z.file (x.img + (o - x.off) + 2 * i) 2
/-- Whether a slot of a line of the image may be a target (03 R57). -/
def Zof.target (z : Zof) (o slot : Nat) : Bool :=
  match z.line o with
  | none => false
  | some l => decide (1 ≤ slot) && decide (slot ≤ 31) && decide (slot ≤ l.nh) && !(decide (2 ≤ slot) && tbit (l.hw (slot - 1)) 5)
/-- The displacement and the slot of a PC-relative transfer (03 R57). -/
def relOf (i : Instr) : Option (BitVec 32 × Nat) :=
  match i with
  | .br m k | .brc _ _ _ m k | .call _ m k | .loop _ m k | .abortw _ m k | .fork _ m k | .rspawn _ _ _ m k | .spawn _ _ _ m k => some (k, m.val)
  | _ => none
/-- Check 4: the lines and the branches of a text section (04 R84). -/
def Zof.textOk (z : Zof) (x : Sect) : Bool :=
  x.off % 64 == 0 && x.size % 64 == 0 && (List.range (x.size / 64)).all fun j =>
    match z.line (x.off + 64 * j) with
    | none => false
    | some l =>
      l.legal && (List.range l.nh).all fun h =>
        match (l.decode (h + 1)).bind fun o => relOf o.instr with
        | none => true
        | some (k, m) =>
          let t := ((x.off + 64 * j : Nat) : Int) + k.toInt + m
          let o := t.toNat / 64 * 64
          t < 0 || (z.textAt o).isNone || (k.toNat % 64 == 0 && z.target o m)

/-- A range that the map must enter: space, die, unit, offset, length, kind and owner (04 R82, R84). -/
def need (space die unit off len kind owner : Nat) : Rng :=
  { space := space, kind := kind, die := die, zero := 0, unit := unit, off := off, len := len, owner := owner }
/-- The bank-local ranges of shared offsets, block by block (04 R82; 07 R123). -/
def needShared (die off len kind owner : Nat) : List Rng :=
  (List.range ((off + len + 255) / 256 - off / 256)).map fun i =>
    let lo := max off ((off / 256 + i) * 256)
    need 1 die (sharedBank lo) (bankLocal lo) (min (off + len) ((off / 256 + i + 1) * 256) - lo) kind owner
/-- Rectangles of the object, with their place in the table. -/
def Zof.rects (z : Zof) : List (Nat × Nat × Nat × Nat × Nat × Nat) :=
  (List.range z.mxs.length).filterMap fun i => (z.mxs[i]?).bind fun x => match x with | .rect d q r c a => some (i, d, q, r, c, a) | _ => none
/-- The south-edge cores of a rectangle, by unit number. -/
def southUnits (q r c : Nat) : List Nat := (List.range (4 * c)).map fun i => (q + 64 * (r - 1)) * 4 + i
def Zof.needs (z : Zof) : List Rng :=
  let idx {α β : Type} (l : List α) (f : Nat → α → List β) : List β := (List.range l.length).flatMap fun i => match l[i]? with | some a => f i a | none => []
  idx z.sects (fun i x => if x.size = 0 then [] else if x.kind = 1 then [need 0 x.die (x.quad * 4 + x.core) x.off x.size 1 i]
    else if x.kind = 2 then needShared x.die x.off x.size 1 i else []) ++
  idx z.doms (fun i d => [need 1 (qkDie d.home) (qkQuad d.home) d.sigOff 0x18000 2 i]) ++
  idx z.ques (fun i q => [need 1 (qkDie q.bank) (qkQuad q.bank) q.ring 1024 3 i]) ++
  idx z.arns (fun i a => needShared (qkDie a.bank) (sharedOfLocal (qkQuad a.bank) a.off) (32 * a.buckets) 4 i) ++
  z.rects.flatMap fun (i, d, q, r, c, a) => (southUnits q r c).map fun u => need 0 d u a 8192 5 i
/-- Bytes that two ranges of one unit share. -/
def Rng.meets (x y : Rng) : Nat :=
  if x.space = y.space && x.die = y.die && x.unit = y.unit then min (x.off + x.len) (y.off + y.len) - max x.off y.off else 0
def Rng.disjoint : List Rng → Bool
  | [] => true
  | x :: xs => (xs.all fun y => x.meets y == 0) && Rng.disjoint xs
/-- The bytes a map enters of a range that is needed; an arrangement or a function image (`Zof.owned`) inside a section is entered as what
it is (04 R79, R82; log 65). -/
def covered (m : List Rng) (x : Rng) : Nat :=
  ((m.filter fun y => (y.kind == x.kind && y.owner == x.owner) || (x.kind == 1 && (y.kind == 4 || y.kind == 6))).map x.meets).sum
def Rng.bank (x : Rng) : Nat := if x.space = 0 then qk x.die (x.unit / 4) else qk x.die x.unit
/-- Whether a range of a section holds bytes of a function's image, which `.updfn` emits there (04 R79). -/
def Zof.imageAt (z : Zof) (x : Rng) : Bool :=
  match z.bfns[x.owner]? with
  | none => false
  | some f =>
    let lo := if x.space = 0 then privKey x.die (x.unit / 4) (x.unit % 4) x.off else sharedKey x.die (sharedOfLocal x.unit x.off)
    (x.space == 0 || decide (x.off % 256 + x.len ≤ 256)) && z.sects.any fun e => e.keys.any fun (k, n) =>
      decide (k ≤ lo) && decide (lo + x.len ≤ k + n) && (List.range (65 - x.len)).any fun o =>
        field z.file (e.img + (lo - k)) x.len == f.image / 256 ^ o % 256 ^ x.len
/-- Whether a range is bytes of what its kind and its owner name: unused ones have owner 0, and each byte of another is the
owner's, the entry of that index in the table of its kind (04 R82). -/
def Zof.owned (z : Zof) (x : Rng) : Bool :=
  if x.kind = 0 then x.owner == 0
  else if x.kind = 6 then z.imageAt x
  else ((z.needs.filter fun y => y.kind == x.kind && y.owner == x.owner).map x.meets).sum == x.len
/-- The cores of which the map enters all: those of placed threads and fork slots, and the rectangles' south edges (04 R82). -/
def Zof.cores (z : Zof) : List (Nat × Nat) :=
  (z.thrs.map fun (t : Thr) => (t.die, t.quad * 4 + t.core)) ++ z.rects.flatMap fun (_, d, q, r, c, _) => (southUnits q r c).map fun u => (d, u)
/-- Whether code 5 refuses a range for its place: a signal table, and unused bytes of a unit that no thread and no rectangle
brings in, lie on the tenant's quads. DESIGN CHOICE (log 65): no check of R84 names them; codes 3, 7, 8 and 9 have the others. -/
def State.strays (s : State) (part : Nat) (z : Zof) (x : Rng) : Bool :=
  s.owner x.bank != some part && (x.kind == 2 || (x.kind == 0 && !(x.space == 0 && z.cores.contains (x.die, x.unit))))
/-- Check 5: the allocation map (04 R82, R84). -/
def State.mapOk (s : State) (part : Nat) (z : Zof) : Bool :=
  (z.map.all fun x =>
    decide (x.space ≤ 1) && decide (x.kind ≤ 6) && decide (x.die ≤ 3) && x.zero == 0 && x.len != 0 && z.owned x && !s.strays part z x &&
    (if x.space = 0 then decide (x.unit < 4 * Config.quadsPerDie) && decide (x.off + x.len ≤ Config.privBytes)
     else decide (x.unit < Config.quadsPerDie) && decide (x.off + x.len ≤ bankBytes x.unit))) &&
  Rng.disjoint z.map && (z.needs.all fun x => covered z.map x == x.len) &&
  z.cores.all fun (d, u) => ((z.map.filter fun x => x.space == 0 && x.die == d && x.unit == u).map (·.len)).sum == Config.privBytes

/-- Domain numbers in the order the loader takes them: unused ones, then those of ended domains (04 R84; 22 R384; log 40). -/
def State.freeNums (s : State) : List Nat :=
  let all := List.range 1024
  all.filter (fun n => (s.domain? n).isNone) ++ all.filter fun n => match s.domain? n with | some d => !d.live | none => false
/-- Whether a combine function takes a format (02 R32, R39). -/
def cmbOk (cmb ty : Nat) : Bool :=
  match cmb with
  | 0 => ty == 0
  | 1 | 4 | 5 | 6 => fmtIsInt ty
  | 2 | 3 => decide (ty ≤ 10)
  | _ => false
/-- Check 6: domains, signals and claims (04 R84; 02 R34, R39). DESIGN CHOICE (log 80): a domain record's thread count counts its
threads without its fork slots, a mismatch of either count is code 6, and the record's first thread index is not read. -/
def State.domainsOk (s : State) (z : Zof) : Bool :=
  decide (z.doms.length ≤ 16) && decide (z.doms.length ≤ s.freeNums.length) &&
  ((List.range z.doms.length).all fun i =>
    match z.doms[i]? with
    | none => true
    | some d => decide (d.nsig ≤ 4096) && (z.sigs.filter (·.1 == i)).length == d.nsig &&
        (z.thrs.filter fun t => t.dom == i && !t.fork).length == d.nthr) &&
  (z.sigs.all fun (d, out, ct) => decide (d < z.doms.length) && decide (out ≤ 1) && decide (ct < 128) && cmbOk (ct / 16) (ct % 16)) &&
  (z.claims.all fun (t, n) =>
    match (z.thrs[t]?).bind fun x => z.doms[x.dom]? with
    | some d => decide (n < d.nsig) && decide ((z.claims.filter (·.1 == t)).length ≤ Config.claimSlots) &&
        (z.claims.filter (· == (t, n))).length == 1
    | none => false)
/-- Check 7: threads and fork slots (04 R77, R84). -/
def State.threadsOk (s : State) (part : Nat) (z : Zof) : Bool :=
  z.thrs.all fun t =>
    decide (t.dom < z.doms.length) && decide (t.die < 4) && decide (t.quad < Config.quadsPerDie) && decide (t.core < 4) && decide (t.slot ≤ 14) &&
    decide (t.prio ≤ 7) && s.owner (qk t.die t.quad) == some part && (s.thread? (s.gidOf t.coreKey t.slot)).isNone &&
    !(s.domains.any fun d => d.live && d.forks.contains (s.gidOf t.coreKey t.slot)) &&
    (z.thrs.filter fun x => x.coreKey == t.coreKey && x.slot == t.slot).length == 1 &&
    (t.fork || z.target (t.entry / 64 * 64) (t.entry % 64))
/-- Quads of a rectangle (16 R273). -/
def rectQuads (d q r c : Nat) : List Nat := (List.range (r * c)).map fun i => qk d (q + 64 * (i / c) + i % c)
/-- The handle of a table row. -/
def Zof.handle (z : Zof) (i : Nat) : Option Handle := (z.hdls[i]?).map fun h => Handle.of 0 h.raw 0
/-- The channels of a rectangle's mask: a mask of more than nine stands in several rows (log 37). -/
def Zof.channels (z : Zof) (i : Nat) : List Nat := z.mxs.flatMap fun x => match x with | .mask r _ _ cs => if r = i then cs else [] | _ => []
/-- Check 8: matrix records (04 R79, R84; 16 R279). -/
def State.matrixOk (s : State) (part : Nat) (z : Zof) : Bool :=
  let rect (i : Nat) : Option (Nat × Nat × Nat × Nat) := match z.mxs[i]? with | some (.rect d q r c _) => some (d, q, r, c) | _ => none
  let inUse := s.rects.flatMap fun r => rectQuads r.die r.quad r.rows r.cols
  (List.range z.mxs.length).all fun i =>
    match z.mxs[i]? with
    | some (.rect d q r c a) =>
      pow8 r && pow8 c && decide (d < 4) && decide (q < Config.quadsPerDie) && decide (q % 64 + c ≤ 64) && decide (q / 64 + r ≤ 40) &&
      a % 64 == 0 && decide (a + 8192 ≤ Config.privBytes) && (rectQuads d q r c).all (fun k =>
        s.owner k == some part && !inUse.contains k &&
        (z.rects.all fun (j, d', q', r', c', _) => j == i || !(rectQuads d' q' r' c').contains k))
    | some (.slot ri n h) =>
      (match rect ri, z.handle h with
       | some (_, _, r, c), some h => decide (n < 8) && h.lay == 5 && h.e1 == 128 * c && h.e0 == 256 * r
       | _, _ => false)
    | some (.mask ri core h _) =>
      (match rect ri, z.handle h with
       | some (d, _, r, _), some h => h.fmt == 10 && ckDie core == d && s.owner (ckQuad core) == some part && rising (z.channels ri) &&
          decide ((z.channels ri).length ≤ 64) && (z.channels ri).all fun k => decide (k < 256 * r)
       | _, _ => false)
    | _ => false
/-- Whether a handle's codes are not reserved and its extents are legal: under some format, where it is `inh` (15 R257). -/
def rawOk (raw : Nat) : Bool := (List.range 15).any fun ef => (Handle.of 0 raw ef).valid
/-- Check 9: handles, queues, arrangements and bank functions (04 R76, R79, R84; 15 R257; 07 R131, R132). -/
def State.restOk (s : State) (part : Nat) (z : Zof) : Bool :=
  (z.hdls.all fun h => rawOk h.raw && (match z.sects[h.sec]? with
    | some x => x.kind != 0 && (x.off + h.off) % 64 == 0 && decide (h.off + 64 ≤ x.size)
    | none => false)) &&
  (z.ques.all fun q =>
    decide (q.dom < z.doms.length) && decide (qkQuad q.bank < Config.quadsPerDie) && s.owner q.bank == some part &&
    decide (q.ring + 1024 ≤ bankBytes (qkQuad q.bank)) &&
    Nat.land q.cap (q.cap - 1) == 0 && decide (32 ≤ q.cap) && decide (q.cap ≤ 1048576) && q.spill % 32 == 0 &&
    (z.sects.any fun x => x.kind == 3 && decide (x.off ≤ q.spill) && decide (q.spill + 32 * q.cap ≤ x.off + x.size)) &&
    decide ((z.ques.filter (·.dom == q.dom)).length ≤ Config.iqPerDomain)) &&
  (z.arns.all fun a =>
    let off := sharedOfLocal (qkQuad a.bank) a.off
    Nat.land a.buckets (a.buckets - 1) == 0 && decide (64 ≤ a.buckets) && decide (a.buckets ≤ 65536) && a.off % 32 == 0 &&
    decide (off + 32 * a.buckets ≤ Config.sharedBytes) && s.ownsShared part (qkDie a.bank) off (32 * a.buckets)) &&
  z.bfns.all fun f => imageOk f.image && f.banks.all fun b => match b with | some q => s.owner q == some part | none => false

/-- The first check of R84 that fails. -/
def State.loadCode (s : State) (p : Partition) (f : List Byte) (len : Nat) : Option Nat :=
  let z := zofOf f
  if !headOk f len then some 1
  else if !sigOk f p.keys then some 2
  else if !s.sectionsOk p.num z len then some 3
  else if !(z.sects.filter (·.kind == 0)).all z.textOk then some 4
  else if !s.mapOk p.num z then some 5
  else if !s.domainsOk z then some 6
  else if !s.threadsOk p.num z then some 7
  else if !s.matrixOk p.num z then some 8
  else if !s.restOk p.num z then some 9
  else none

end Sys2Proof.Machine
end

