-- ==== Sys2Proof/Machine/Loader.lean ====
section
/-!
DEFINITION. What a load does when every check has passed: the seven steps of 04 R84, and the step LOAD (22 R381).
-/
namespace Sys2Proof.Machine

/-- The leaves of a page table, as 11 R205 and R206 walk them; a path that R206 refuses is weeded out by `leaves`. -/
def State.leavesFrom (s : State) (asid sel : Nat) : Nat → Nat → Nat → Nat → List Tlb
  | 0, _, _, _ => []
  | fuel + 1, level, table, va =>
    (List.range (if level = 4 then 32 else 512)).flatMap fun i =>
      let a := va + i * (if level = 1 then 2 ^ 39 else levelSize level)
      match s.walkFrom asid sel a 1 level table with
      | some e => [e]
      | none =>
        let e := s.pte table i
        if tbit e 0 && !tbit e 1 && decide (table < Config.dramBytes) then s.leavesFrom asid sel fuel (level + 1) (bits e 55 8 * 256) a else []
/-- The pages of an address space under selector 4. -/
def State.leaves (s : State) (part asid : Nat) : List Tlb :=
  match s.root part asid 4 with
  | none => []
  | some r => (s.leavesFrom asid 4 4 1 r 0).filter fun e => s.walkTables part asid 4 e.va == some e
/-- The physical ranges of a mapped extent that grants a permission; none where a page is missing (11 R205, R206). -/
def State.mapped (s : State) (part asid perm : Nat) : Nat → Nat → Nat → Option (List (Nat × Nat))
  | 0, _, _ => none
  | fuel + 1, va, len =>
    if len = 0 then some []
    else
      match s.walkTables part asid 4 va with
      | none => none
      | some e =>
        let n := min len (e.va + e.size - va)
        if Nat.land e.perm perm != perm || !s.ownsDram part (e.pa + (va - e.va)) n then none
        else (s.mapped part asid perm fuel (va + n) (len - n)).map ((dramKey (e.pa + (va - e.va)), n) :: ·)
/-- The bases at which an extent may be placed: page starts from which it is mapped, off every live object and `taken`
(04 R73, R84; log 35). -/
def State.places (s : State) (part asid perm len : Nat) (taken : List (Nat × Nat)) : List (Nat × List (Nat × Nat)) :=
  (s.leaves part asid).filterMap fun e =>
    match s.mapped part asid perm (pageFuel len) e.va len with
    | none => none
    | some segs =>
      if segs.any fun x => s.objTaken x.1 x.2 || taken.any fun y => decide (x.1 < y.1 + y.2) && decide (y.1 < x.1 + x.2) then none
      else some (e.va, segs)
/-- The loader's choice among them, a free value (log 35). -/
def State.placeAt (s : State) (part asid perm len : Nat) (taken : List (Nat × Nat)) : Option ((Nat × List (Nat × Nat)) × State) :=
  let ps := s.places part asid perm len taken
  if len = 0 then some ((0, []), s)
  else (ps[Config.loaderPlace s.freeCtr % ps.length]?).map fun p => (p, { s with freeCtr := s.freeCtr + 1 })

/-- Where an object stands: its code image and its DRAM data, as virtual bases and physical ranges. -/
structure Based where
  part : Nat
  asid : Nat
  text : Nat
  textSegs : List (Nat × Nat)
  data : Nat
  dataSegs : List (Nat × Nat)
  deriving DecidableEq, Repr
/-- Bytes from the base to the end of the last section of a kind. -/
def Zof.extent (z : Zof) (kind : Nat) : Nat := (z.sects.filter (·.kind == kind)).foldl (fun n x => max n (x.off + x.size)) 0
/-- A selector 0x4 address. -/
def dramVa (base off : Nat) : Nat := 4 * 2 ^ 60 + base + off
/-- Address of a byte of a section, and the keys of bytes of it. -/
def Based.va (b : Based) (x : Sect) (off : Nat) : Nat :=
  if x.kind = 0 then dramVa b.text (x.off + off)
  else if x.kind = 3 then dramVa b.data (x.off + off)
  else ((x.keys.head?.map (·.1)).getD 0) + off
def segsFrom : List (Nat × Nat) → Nat → Nat → List (Nat × Nat)
  | [], _, _ => []
  | (k, m) :: r, off, n =>
    if m ≤ off then segsFrom r (off - m) n
    else if n ≤ m - off then [(k + off, n)]
    else (k + off, m - off) :: segsFrom r 0 (n - (m - off))
def Based.segs (b : Based) (x : Sect) (off n : Nat) : List (Nat × Nat) :=
  if x.kind = 0 then segsFrom b.textSegs (x.off + off) n
  else if x.kind = 3 then segsFrom b.dataSegs (x.off + off) n
  else segsFrom x.keys off n
/-- The address that a symbol stands for: its value, from the base that the loader gave the space of its section (log 36). -/
def Based.symbol (b : Based) (z : Zof) (y : Sym) : Nat :=
  match z.sects[y.sec]? with
  | some x => if x.kind = 0 then dramVa b.text y.value else if x.kind = 3 then dramVa b.data y.value else y.value
  | none => y.value

/-- Keys of a range of the allocation map. -/
def Rng.keys (x : Rng) : List (Nat × Nat) :=
  if x.space = 0 then [(privKey x.die (x.unit / 4) (x.unit % 4) x.off, x.len)] else bankKeys (qk x.die x.unit) x.off x.len
def State.putFull (s : State) (segs : List (Nat × Nat)) (bs : List Byte) : State :=
  segs.foldl (fun s e => s.markFull e.1 e.2) (s.segWrite segs bs)
/-- What a range of the map clears: all of it, or, of an unused one, what no live object's map enters as used (log 65). -/
def State.cleared (s : State) (x : Rng) : List (Nat × Nat) :=
  if x.kind != 0 then x.keys else x.keys.flatMap fun k => apart k ((s.objs.filter s.objLive).flatMap (·.used))
/-- Step 1: what the map enters is zero and full, then the images and their full/empty states are written, the state of the
first word of eight in the least significant bit of a byte (04 R74, R84; log 66). -/
def State.writeImages (s : State) (b : Based) (z : Zof) : State :=
  let s := z.map.foldl (fun s x => (s.cleared x).foldl (fun s e => s.putFull [e] (List.replicate e.2 0)) s) s
  z.sects.foldl (fun s x =>
    let segs := b.segs x 0 x.size
    let s := s.putFull segs (slice z.file x.img x.size)
    if x.fe then
      (List.range (x.size / 8)).foldl (fun s i =>
        if tbit (field z.file (x.feImg + i / 8) 1) (i % 8) then s.setEmpty (segKey segs (8 * i)) true else s) s
    else s) s
/-- Step 2: relocations of kinds 2 and 3 (04 R81). -/
def State.relocate (s : State) (b : Based) (z : Zof) : State :=
  z.relocs.foldl (fun s (sec, kind, off, sym, add) =>
    match z.sects[sec]?, z.syms[sym]? with
    | some x, some y =>
      let v := (wd (b.symbol z y) + wdInt (signed 32 add)).toNat
      let n := if kind = 2 then 8 else 4
      s.segWrite (b.segs x off n) (bytesOf n v)
    | _, _ => s) s
/-- Step 3: bank functions, numbered by declaration modulo 16 (log 37). -/
def State.installFns (s : State) (z : Zof) : State :=
  (List.range z.bfns.length).foldl (fun s i =>
    match z.bfns[i]? with
    | none => s
    | some f => (f.banks.filterMap id).foldl (fun s q =>
        s.setBank ((s.bank q).setFn { num := i % 16, image := f.image, nspill := 0, unord := false, ovf := false, sqCtr := 0 })) s) s
/-- The domain that owns a rectangle: that of a thread placed on core 0 of its north-west quad, or else the object's first
(16 R287; log 37). -/
def Zof.owner (z : Zof) (d q : Nat) : Nat := ((z.thrs.find? fun t => t.coreKey == qk d q * 4).map (·.dom)).getD 0
/-- A rectangle of the object, with its outlier mask (04 R79; 16 R279, R281). -/
def Zof.rectAt (z : Zof) (b : Based) (nums : List Nat) (i d q r c a : Nat) : Rect :=
  let m := z.mxs.findSome? fun x => match x with | .mask ri core h _ => if ri = i then some (core, h) else none | _ => none
  let va (h : Nat) : Nat := match z.hdls[h]? with
    | some h => ((z.sects[h.sec]?).map fun x => b.va x h.off).getD 0
    | none => 0
  { id := qk d q, dom := nums.getD (z.owner d q) 0, part := b.part, die := d, quad := q, rows := r, cols := c, acc := a, st := 0, why := 0,
    mr := 0, accF := false, slot := 0, grp := 0, step := 0, aAddr := 0, imm := 0, mask := if m.isSome then z.channels i else [],
    maskCore := (m.map (·.1)).getD 0, maskHandle := (m.map fun x => va x.2).getD 0, reload := [], queue := [], loaded := 0, failed := false, sent := [], weights := [], got := [], asid := b.asid, orphan := false }
/-- Step 4: the rectangles stand, with their macros scrubbed, and the declared slots are filled; a slot whose tensor cannot be
read holds no image (04 R79, R84; 07 R141; log 67). -/
def State.fillRects (s : State) (b : Based) (z : Zof) (nums : List Nat) : State :=
  z.rects.foldl (fun s (i, d, q, r, c, a) =>
    let s := (rectQuads d q r c).foldl (fun s k => s.setQuad { s.quad k with slots := [], sums := [], rowBuf := [], parts := [] }) s
    let x := z.rectAt b nums i d q r c a
    let s : State := { s with rects := s.rects ++ [x] }
    let w : Who := { part := b.part, asid := b.asid, gid := s.gidOf (qk d q * 4) 0 }
    z.mxs.foldl (fun s y =>
      match y with
      | .slot ri n h =>
        if ri != i then s
        else
          match (z.hdls[h]?).bind fun h => (z.sects[h.sec]?).map fun t => b.va t h.off with
          | none => s
          | some va =>
            match (s.handle w true x.dom 0 va).bind fun h s => s.readImages w h (r * c) with
            | .ok imgs s => (s.fillSlot x n imgs).modRect x.id fun r => { r with reload := (va, n) :: r.reload.filter (·.2 != n) }
            | _ => s.fillSlot x n []
      | _ => s) s) s
/-- An entry of a signal table as the loader forms it (02 R31, R32). -/
def sigOf (out ct : Nat) : Sig :=
  let g : Sig := { Sig.none with out := out == 1, cmb := ct / 16, ty := ct % 16 }
  { g with val := g.unit, prev := g.unit }
/-- A domain as the loader creates it (02 R30; steps 5 and 7). -/
def Zof.domain (z : Zof) (s : State) (b : Based) (fn i num : Nat) (d : Dcl) : Domain :=
  let mine := z.thrs.filter fun t => t.dom == i
  { num := num, stat := .created, fn := fn, part := b.part, asid := b.asid, seed := d.seed, wdlim := d.wdlim, home := d.home,
    sigOff := d.sigOff, sigs := (z.sigs.filter (·.1 == i)).map fun e => sigOf e.2.1 e.2.2, inst := 0, inputs := [], outs := [],
    endWord := 0, endVal := 0, endTval := 0, code := (z.sects.filter (·.kind == 0)).map fun x => (b.va x 0, x.size),
    forks := (mine.filter (·.fork)).map fun t => s.gidOf t.coreKey t.slot, tidCtr := d.nthr % 2 ^ 32,
    largs := Vector.replicate 4 0, suspendTo := none, saveAt := none }
/-- A placed thread: it waits for the launch of its domain (02 R22, R30; steps 6 and 7). -/
def Zof.thread (z : Zof) (s : State) (b : Based) (num row : Nat) (d : Dcl) (t : Thr) : Thread :=
  let g := s.gidOf t.coreKey t.slot
  let lim := if t.wdlim = 2 ^ 32 - 1 then d.wdlim else t.wdlim
  { Thread.fresh g s.nextUid num with
    stat := .paused, pc := wd (dramVa b.text t.entry), prioBase := t.prio, prioCeil := t.prio, wdlim := lim, wdlimMax := lim,
    wdRun := false, asid := b.asid, sqKey := Nat.xor d.seed g, tidNo := ((z.thrs.take row).filter fun x => x.dom == t.dom && !x.fork).length,
    claims := (z.claims.filter (·.1 == row)).map fun c => { sig := c.2, live := true } }
/-- The launch arguments that a thread's record names: four constant symbols from one on (04 R81). -/
def Zof.largs (z : Zof) (b : Based) (at0 : Nat) : Vector Word 4 :=
  let v (k : Nat) : Word := if at0 = 2 ^ 32 - 1 then 0 else wd (((z.syms[at0 + k]?).map (b.symbol z)).getD 0)
  #v[v 0, v 1, v 2, v 3]
/-- The launch that a load performs itself: each thread has the arguments of its own record, and the domain those of its first
(01 R16; 02 R22; 04 R76, R81). -/
def State.autoLaunch (s : State) (b : Based) (z : Zof) (i num : Nat) : State :=
  let mine := z.thrs.filter fun t => t.dom == i && !t.fork
  let s := s.launch num (z.largs b ((mine.head?.map (·.args)).getD (2 ^ 32 - 1)))
  mine.foldl (fun s t => s.modThread (s.gidOf t.coreKey t.slot) fun x => { x with args := z.largs b t.args, launchArgs := z.largs b t.args }) s
/-- Step 5: the words of a signal table stand in its bank as its entries are (02 R31, R32). -/
def Domain.formTable (d : Domain) (m : Memory) : Memory :=
  (List.range d.sigs.length).foldl (fun m n => match d.sigs[n]? with | some g => d.tableMem n g m | none => m) m
/-- Steps 5 to 7 for one domain (04 R84; 01 R15, R16). -/
def State.makeDomain (s : State) (b : Based) (z : Zof) (fn i num : Nat) (d : Dcl) : State :=
  let x := z.domain s b fn i num d
  let s : State := { s with domains := putRec (·.num) x s.domains, mem := x.formTable s.mem }
  let s := (List.range z.thrs.length).foldl (fun s row =>
    match z.thrs[row]? with
    | some t => if t.dom == i && !t.fork then s.addThread (z.thread s b num row d t) else s
    | none => s) s
  let qs := (z.ques.filter (·.dom == i)).map fun q =>
    ({ id := sharedKey (qkDie q.bank) (sharedOfLocal (qkQuad q.bank) q.ring), dom := num, bank := q.bank, spill := dramVa b.data q.spill,
       cap := q.cap, recs := [], ringN := 0, rhead := 0, head := 0, cons := none, prods := [], closed := false, consGone := false } : Iq)
  let s : State := { s with iqs := s.iqs ++ qs }
  if d.launch then s.autoLaunch b z i num else s
/-- A domain number goes to a new domain: no loaded object counts it any longer, and objects and threads that have ended go. -/
def State.reuse (s : State) (nums : List Nat) : State :=
  { s with ended := s.ended.filter fun e => !nums.contains e.thread.dom,
           objs := (s.objs.filter s.objLive).map fun o => { o with doms := o.doms.filter fun n => !nums.contains n } }
/-- The whole load (04 R84). -/
def State.install (s : State) (b : Based) (z : Zof) (fn : Nat) (nums : List Nat) : State :=
  let s := ((s.reuse nums).writeImages b z).relocate b z
  let s := (s.installFns z).fillRects b z nums
  let arrs := z.arns.map fun a =>
    ({ base := sharedKey (qkDie a.bank) (sharedOfLocal (qkQuad a.bank) a.off), buckets := a.buckets, part := b.part, doms := nums } : Arr)
  let s : State := { s with
    arrs := s.arrs ++ arrs,
    objs := s.objs ++ [{ part := b.part, doms := nums, sections := z.sects.flatMap fun x => b.segs x 0 x.size,
                         used := (z.map.filter (·.kind != 0)).flatMap Rng.keys,
                         measure := slice z.file (tabOf z.file 14).off 64 }] }
  (List.range z.doms.length).foldl (fun s i =>
    match z.doms[i]? with
    | some d => s.makeDomain b z fn i (nums.getD i 0) d
    | none => s) s
/-- Step `LOAD` (22 R381; 04 R84). DESIGN CHOICE (log 80): the code image is put on pages that grant execution, the DRAM data on pages
that grant reads; 04 R73 asks for no permission. -/
def execLoad (fn page : Nat) (s : State) : Out :=
  s.command1 fn page 0x03 fun c s =>
    s.onPart fn fun p s =>
      let asid := c.arg 16 2
      let len := c.arg 8 8
      let f := s.hostBytes (c.arg 0 8) len
      if !p.roots.any (·.1 == asid) then s.deny 4
      else
        match s.loadCode p f len with
        | some code => .done 8 code 0 s
        | none =>
          let z := zofOf f
          let nums := s.freeNums.take z.doms.length
          if 16 ≤ (s.objs.filter fun o => o.part == p.num && s.objLive o).length then s.deny 6
          else
            match s.placeAt p.num asid needX (z.extent 0) [] with
            | none => s.deny 6
            | some ((text, ts), s1) =>
              match s1.placeAt p.num asid needR (z.extent 3) ts with
              | none => s.deny 6
              | some ((data, ds), s2) =>
                let b : Based := { part := p.num, asid := asid, text := text, textSegs := ts, data := data, dataSegs := ds }
                .done 0 0 ((nums.map fun n => n % 64).foldl (fun m n => Nat.lor m (2 ^ n)) 0) (s2.install b z fn nums)

end Sys2Proof.Machine
end

