-- ==== Sys2Proof/Machine/Messages.lean ====
section
/-!
DEFINITION. Messages, continuations, the mailbox and the interrupt enable: `msnd` and `mrcv` of 0x35, opcodes 0xA8 to 0xAB,
0xB0 to 0xB2, and the steps that deliver messages (19 R330, R332, R335 to R338; 21 R358 to R367; 18 R318).
-/
namespace Sys2Proof.Machine

/-- Whether a header is legal, and how many payload words it implies (19 R335). -/
def hdrOk (h : Nat) : Bool :=
  match h / 2 ^ 62 with
  | 0 => bits h 61 59 == 0 && bits h 55 30 == 0
  | 1 => bits h 47 45 == 0 && bits h 39 30 == 0 && bits h 44 40 != 0
  | _ => false
def hdrLen (h : Nat) : Nat := if h / 2 ^ 62 = 0 then bits h 58 56 else 1
/-- The thread a header names. -/
def hdrGid (h : Nat) : Nat := h % 2 ^ 30
/-- Enter a flit in the send buffer: a store homed at the destination core (19 R338). -/
def State.inject (s : State) (h : Nat) (ws : List Nat) : State :=
  let (id, s) := s.takeId
  let t := s.me
  let dst := if gidPkg (hdrGid h) = s.pkg then gidQk (hdrGid h) else s.myQuad
  let m : Msg :=
    { id := id, flit := { hdr := h, words := ws, src := t.gid, dom := t.dom }, seq := t.seq, srcUid := t.uid,
      hop := { chan := 2, cur := s.myQuad, dst := dst, mid := none, port := .here, since := s.clock, age := 0, urgent := false },
      resendAt := 0, prio := s.eprio t.gid, ldc := none }
  ({ s with msgs := s.msgs ++ [m] }).modMe fun t => { t with seq := t.seq + 1 }
def State.sendRoom (s : State) : Bool := decide (s.sendUse s.myCore < Config.sendBuffer)
/-- `MSND_WRITE`: a write of special name `n`; 0 is `msnd`, the others are protected (05 R109; 19 R335, R337). -/
def execMsndWrite (n a : Reg) (s : State) : Out :=
  let v := s.gv a
  if n.val != 0 then s.prot n.val
  else
    match s.me.sendPart with
    | none =>
      if !hdrOk v then s.prot v
      else if hdrLen v != 0 then (s.modMe fun t => { t with sendPart := some (v, []) }).ok
      else if s.sendRoom then (s.inject v []).ok
      else .next (s.retry .sendRoom)
    | some (h, ws) =>
      if ws.length + 1 < hdrLen h then (s.modMe fun t => { t with sendPart := some (h, ws ++ [v]) }).ok
      else if s.sendRoom then ((s.modMe fun t => { t with sendPart := none }).inject h (ws ++ [v])).ok
      else .next (s.retry .sendRoom)
/-- Whether a destination lies in the issuer's partition, on this package or through an outbound window (21 R360). -/
def State.mayReach (s : State) (g : Nat) : Bool :=
  if gidPkg g = s.pkg then s.owner (gidQk g) == some s.myPart
  else s.windows.any fun w => !w.inbound && w.part == s.myPart && w.pkg == gidPkg g
/-- `SEND` (21 R360). -/
def execSend (a b : Reg) (op : Fin 64) (s : State) : Out :=
  let h := s.gv a
  let n := op.val
  if !hdrOk h || hdrLen h != n then s.prot h
  else if h / 2 ^ 62 = 0 && !s.mayReach (hdrGid h) then s.prot h
  else if s.me.sendPart.isSome then s.prot 0xA8
  else if s.sendRoom then (s.inject h ((List.range n).map fun i => (s.gN (b.val + i)).toNat)).ok
  else .next (s.retry .sendRoom)

/-- Take the oldest message for a slot out of a core's receive store (19 R336). -/
def State.takeFlit (s : State) (core slot : Nat) : Option (Flit × State) :=
  let c := s.core core
  match c.recv.find? fun f => gidSlot (hdrGid f.hdr) == slot with
  | some f => some (f, s.setCore { c with recv := c.recv.erase f })
  | none => none
/-- Write a whole message to eight registers (21 R361). -/
def Thread.setFlit (t : Thread) (d : Nat) (f : Flit) : Thread :=
  (List.range 8).foldl (fun t i => t.setReg (d + i) (wd (if i = 0 then f.hdr else f.words.getD (i - 1) 0))) t
/-- Wait for a message: a receive is posted as long as the thread waits. A width of 0 marks a `recv`, which takes all of
the message (11 R190, 21 R361). -/
def State.parkRecv (s : State) (d width : Nat) : State :=
  s.parkMe s.myDie (queueObj 5 s.iss.gid) okQueue (s.doneTo d 0 0 width false)
/-- `MRCV_READ` (05 R109; 19 R336). -/
def execMrcvRead (d : Reg) (s : State) : Out :=
  match s.me.recvPart with
  | v :: rest => (s.modMe fun t => { t with recvPart := rest }).put d (wd v) |>.ok
  | [] =>
    match s.takeFlit s.myCore (gidSlot s.iss.gid) with
    | some (f, s) => (s.modMe fun t => { t with recvPart := f.words }).put d (wd f.hdr) |>.ok
    | none => .next (s.parkRecv d.val 8)
/-- `RECV_WAIT` (21 R361). -/
def execRecvWait (d : Reg) (s : State) : Out :=
  if !s.me.recvPart.isEmpty then s.prot 0xA9
  else
    match s.takeFlit s.myCore (gidSlot s.iss.gid) with
    | some (f, s) => (s.modMe (·.setFlit d.val f)).ok
    | none => .next (s.parkRecv d.val 0)
/-- `RECV_POLL` (21 R361). -/
def execRecvPoll (d : Reg) (pb : PReg) (s : State) : Out :=
  if !s.me.recvPart.isEmpty then s.prot 0xA9
  else
    let slot := gidSlot s.iss.gid
    match s.takeFlit s.myCore slot with
    | some (f, s) => (s.modMe (·.setFlit d.val f)).resP pb true
    | none =>
      let c := s.core s.myCore
      (s.setCore { c with posted := (slot, s.clock + 64) :: c.posted.filter fun p => p.1 != slot }).resP pb false
/-- `CONT` (21 R362). -/
def execCont (d a : Reg) (s : State) : Out :=
  let seq := (s.me.contSeq + 1) % 2 ^ 14
  (s.modMe fun t => { t with contSeq := seq, contReg := some a.val, contVal := none }).res d
    (wd (2 ^ 62 + seq * 2 ^ 48 + a.val * 2 ^ 40 + s.iss.gid))
/-- `WAITR` (21 R363). While `qmap` is in force a register that it maps names its queue for the value too, and the plain register is
kept (21 R370; log 79). -/
def execWaitr (d : Reg) (s : State) : Out :=
  match s.me.contReg, s.me.contVal with
  | none, _ => s.res d 1
  | some n, some v =>
    (((if d.val = n then s else s.put d 0).putN n v).modMe fun t => { t with contReg := none, contVal := none }).ok
  | some _, none => .next (s.await .cont (s.doneTo d.val 0 0 8 false))

/-- Take the oldest completion for a slot out of a core's mailbox (18 R318). -/
def State.takeCompl (s : State) (core slot : Nat) : Option (Nat × State) :=
  let c := s.core core
  match c.mail.find? (·.slot == slot) with
  | some m => some (m.word, s.setCore { c with mail := c.mail.erase m })
  | none => none
/-- `MBOX` (21 R366). -/
def execMbox (d : Reg) (pb : PReg) (s : State) : Out :=
  match s.takeCompl s.myCore (gidSlot s.iss.gid) with
  | some (w, s) => ((s.put d (wd w)).putP pb true).ok
  | none => s.resP pb false
/-- `WAITM` (18 R318). -/
def execWaitm (d : Reg) (s : State) : Out :=
  match s.takeCompl s.myCore (gidSlot s.iss.gid) with
  | some (w, s) => s.res d (wd w)
  | none => .next (s.parkMe s.myDie (queueObj 4 s.iss.gid) okQueue (s.doneTo d.val 0 0 8 false))
/-- `UISET_OFF` (21 R367). -/
def execUisetOff (d : Reg) (s : State) : Out :=
  s.user fun s => let v := s.me.uiOn; (s.modMe fun t => { t with uiOn := false }).res d (wd v.toNat)
/-- `UISET_ON` (21 R367). -/
def execUisetOn (d : Reg) (s : State) : Out :=
  s.user fun s => let v := s.me.uiOn; (s.modMe fun t => { t with uiOn := true }).res d (wd v.toNat)
/-- Step `USER_LEVEL_INTERRUPT`: taken in place of the thread's next issue (19 R332). -/
def execUserLevelInterrupt (gid : Nat) (s : State) : Out :=
  match s.thread? gid with
  | none => .next s
  | some t =>
    let pending := !t.dfr.isEmpty || t.cycle.isSome || t.wdPending
    if t.wait.isNone && t.stream.isNone && t.parked.isNone && t.stat == .running && !pending && s.takesInterrupt t then .next (s.interrupt gid) else .next s

/-- Whether a flit has arrived where its order lets it be taken: the sender's earlier die-local accesses, and its earlier
messages to the same thread, have come before it (19 R338). -/
def State.flitDue (s : State) (m : Msg) : Bool :=
  m.hop.cur == m.hop.dst && m.resendAt == 0 &&
  !(s.msgs.any fun e => e.srcUid == m.srcUid && decide (e.seq < m.seq) && e.ldc.isNone && hdrGid e.flit.hdr == hdrGid m.flit.hdr) &&
  (m.ldc.isSome || hdrGid m.flit.hdr / 2 ^ 18 != m.flit.src / 2 ^ 18 ||
   !(s.reqs.any fun r => r.uid == m.srcUid && r.res.isNone && decide (r.seq < m.seq) && dieLocal r.gid r.key))
/-- Deliver a flit to a thread that waits for one: all of it to a `recv`, its header to a read of `mrcv`. -/
def State.deliverFlit (s : State) (t : Thread) (w : Wait) (f : Flit) : State :=
  if w.fin.width = 0 then
    (s.modThread t.gid fun t =>
      { t.setFlit w.fin.d f with wait := some { w with fin := { w.fin with d := 0 } } }).wake t.gid (gidDie t.gid) 0 0 false
  else (s.modThread t.gid fun t => { t with recvPart := f.words }).wake t.gid (gidDie t.gid) f.hdr 0 false
def State.dropMsg (s : State) (id : Nat) : State := { s with msgs := s.msgs.filter (·.id != id) }
/-- Keep a flit for a posted receive that still stands, or refuse it (19 R337). -/
def State.refuseOrStore (s : State) (m : Msg) (c : Core) (g : Nat) : State :=
  if c.posted.any (fun p => p.1 == gidSlot g && decide (s.clock < p.2)) && decide (c.recv.length < Config.receiveStore) then
    (s.dropMsg m.id).setCore { c with recv := c.recv ++ [m.flit], posted := c.posted.filter fun p => p.1 != gidSlot g }
  else { s with msgs := s.msgs.map fun x => if x.id == m.id then { x with resendAt := s.clock + 64 } else x }
/-- Step `MESSAGE_ARRIVAL`: a kind 0 message is taken where a receive is posted, else refused and sent again 64 clocks
later (19 R336, R337; 21 R360, R361). -/
def execMessageArrival (req : Nat) (s : State) : Out :=
  match s.msgs.find? fun m => m.id == req && m.ldc.isNone && m.flit.hdr / 2 ^ 62 == 0 with
  | none => .next s
  | some m =>
    let g := hdrGid m.flit.hdr
    if !s.flitDue m then .next s
    else
      match s.thread? g with
      | none => .next (s.dropMsg m.id)
      | some t =>
        let c := s.core (gidCk g)
        if t.dom != m.flit.dom then .next (s.dropMsg m.id)
        else
          match t.wait with
          | some w =>
            if w.why == .parked (queueObj 5 g) okQueue then .next ((s.dropMsg m.id).deliverFlit t w m.flit)
            else .next (s.refuseOrStore m c g)
          | none => .next (s.refuseOrStore m c g)
/-- Apply a value to a continuation: whether it was live, and the state after; `dom` is the domain that an `ldc` sends from,
whose continuation must be of the same (09 R180; 19 R336; 21 R363, R364). -/
def State.applyCont (s : State) (h v : Nat) (dom : Option Nat) : Bool × State :=
  match s.thread? (hdrGid h) with
  | none => (false, s)
  | some t =>
    let live := h / 2 ^ 62 == 1 && t.contReg == some (bits h 44 40) && t.contSeq == bits h 61 48 && t.contVal.isNone &&
      (match dom with | some d => d == t.dom | none => true)
    if !live then (false, s)
    else
      let waits : Bool := match t.wait with | some w => w.why == .cont | none => false
      if waits then
        let n := bits h 44 40
        let s := s.modThread t.gid fun t => { t with contReg := none, contVal := none, wait := t.wait.map fun w =>
          if w.fin.d = n then { w with fin := { w.fin with d := 0 } } else w }
        (true, (s.complete t.gid 0 0 false).putFor t.gid n (wd v))
      else (true, s.modThread t.gid fun t => { t with contVal := some (wd v) })
/-- Step `CONTINUATION_ARRIVAL`: a kind 1 message reaches its owner, or an `ldc` learns that it did (09 R162; 19 R336). -/
def execContinuationArrival (req : Nat) (s : State) : Out :=
  match s.msgs.find? fun m => m.id == req && (m.flit.hdr / 2 ^ 62 == 1 || m.ldc.isSome) with
  | none => .next s
  | some m =>
    if !s.flitDue m then .next s
    else
      let h := m.flit.hdr
      let (ok, s) := (s.dropMsg m.id).applyCont h (m.flit.words.getD 0 0) (m.ldc.map fun _ => m.flit.dom)
      match m.ldc with
      | none => .next s
      | some id =>
        match s.reqs.find? (·.id == id) with
        | none => .next s
        | some r =>
          -- whether a continuation of another package was live is that package's (log 6)
          let (v, s) := if gidPkg (hdrGid h) = s.pkg then ((!ok).toNat, s)
            else ((Config.remoteWord s.freeCtr).toNat % 2, { s with freeCtr := s.freeCtr + 1 })
          -- the issuer's own continuation that names the status register: the delivered value stands (09 R162)
          let own (w : Wait) : Wait := if ok && hdrGid h == r.gid && w.fin.d == bits h 44 40 then { w with fin := { w.fin with d := 0 } } else w
          let s := s.modThread r.gid fun t => { t with wait := t.wait.map own }
          .next ((s.modReq id fun q => { q with carried := false }).answer r (okRes v 0 false))
/-- Step `MESSAGE_RESEND`: the flit that the sender's interface has kept enters the mesh again at its own quad (19 R337). -/
def execMessageResend (req : Nat) (s : State) : Out :=
  let again (m : Msg) : Msg :=
    { m with resendAt := 0, hop := { m.hop with cur := gidQk m.flit.src, port := .here, since := s.clock, age := 0, urgent := false } }
  .next { s with msgs := s.msgs.map fun m => if m.id == req && m.resendAt != 0 && decide (m.resendAt ≤ s.clock) then again m else m }
/-- Step `POSTED_RECEIVE_EXPIRY` (21 R361). -/
def execPostedReceiveExpiry (core slot : Nat) (s : State) : Out :=
  let c := s.core core
  .next (s.setCore { c with posted := c.posted.filter fun p => !(p.1 == slot && decide (p.2 ≤ s.clock)) })

end Sys2Proof.Machine
end

