-- ==== Sys2Proof/Machine/Reduce.lean ====
section
/-!
DEFINITION. Class V reductions and selections: counts (17 R295), dot products (R299), normalisation (R300), sums, extrema
and scans (R301, 14 R247), k-lists (13 R229 to R231), softmax (R233), sampling (R235) and random words (R234).
-/
namespace Sys2Proof.Machine

/-- One FP32 addition; an absent side passes the other through (14 R247). -/
def sumOpt (x y : Option Nat) : Option Nat :=
  match x, y with
  | some a, some b => some (add32 a b)
  | some a, none => some a
  | none, y => y
/-- The sum of one chunk: each lane's elements, then the lanes as a tree (14 R247). -/
def chunkSum (perLane : Nat) (xs : List (Option Nat)) : Option Nat :=
  let l (i : Nat) : Option Nat := ((xs.drop (i * perLane)).take perLane).foldl sumOpt none
  sumOpt (sumOpt (sumOpt (l 0) (l 1)) (sumOpt (l 2) (l 3))) (sumOpt (sumOpt (l 4) (l 5)) (sumOpt (l 6) (l 7)))
/-- A float sum in the order of 14 R247, of elements `w` bits wide. -/
def orderedSum (w : Nat) (xs : List (Option Nat)) : Option Nat :=
  ((groupsOf (256 / w) xs).map (chunkSum (32 / w))).foldl sumOpt none

/-- A reduction: what each element gives is gathered, and the end writes a result. In handle mode the sources repeat
under their common shape (17 R289, R299, R301). -/
def State.reduce (s : State) (as : List Reg) (th : Bool) (fmt : Fin 16) (ok : Nat → Bool) (unit : Nat → Nat)
    (el : Nat → List Nat → Nat) (fin : Nat → List Nat → State → State) : Out :=
  s.withFmt fmt.val (fun w => ok w && (!th || decide (w < 13))) fun w =>
    if th then
      s.handleMode fun s =>
      s.settle (s.myHandles (as.map fun a => s.gv a)) fun hs s =>
      let mx (f : Handle → Nat) : Nat := (hs.map f).foldl max 1
      let e : Ix := (mx (·.e0), mx (·.e1), mx (·.e2), mx (·.e3))
      match firstBad hs (fun x => x.fmt != w), firstBad hs (fun x => !x.fits e) with
      | some va, _ => s.prot va
      | none, some va => s.prot va
      | none, none =>
        let per := 256 / fmtWidth w
        let total := cdiv (shapeN e) per
        s.streamed total (unit w * total) 0 [] (fun c acc s =>
            let is := chunkIx e per c
            (s.getAll e is hs).bind fun cols s =>
              .ok (acc ++ (List.range is.length).map fun j => el w (rowOf cols j)) s)
          (fin w)
    else
      let cols := as.map fun a => s.els (fmtWidth w) a
      (fin w ((List.range (256 / fmtWidth w)).map fun i => el w (rowOf cols i)) (s.charge (unit w))).ok

/-- `VCNT` (17 R295). -/
def execVcnt (d a : Reg) (th : Bool) (fmt : Fin 16) (s : State) : Out :=
  s.reduce [a] th fmt fAll (fun _ => 4) (fun _ x => if e0 x = 0 then 0 else 1) fun _ l s => s.put d (wd l.sum)
/-- `VDOT` (17 R299). -/
def execVdot (d a b : Reg) (th : Bool) (fmt : Fin 16) (s : State) : Out :=
  s.reduce [a, b] th fmt fArith arithUnit
    (fun w x => if fmtIsInt w then unsignedOf 64 (intVal w (e0 x) * intVal w (e1 x))
                else r32 ((fdecode w (e0 x)).mul (fdecode w (e1 x))))
    fun w l s => s.put d (wd (if fmtIsInt w then l.sum else (orderedSum (fmtWidth w) (l.map some)).getD 0))
/-- An element as a reduction holds it: FP32, or extended to 64 bits (17 R301). -/
def redEl (w x : Nat) : Nat := if fmtIsInt w then unsignedOf 64 (intVal w x) else widen32 w x
/-- The larger or the smaller of two of them. -/
def redPick (larger : Bool) (w x y : Nat) : Nat :=
  let f := if fmtIsInt w then (if fmtSigned w then 3 else 7) else 8
  if larger then fmtMax' f x y else fmtMin f x y
/-- `VSUM` (17 R301). -/
def execVsum (d a : Reg) (th : Bool) (fmt : Fin 16) (s : State) : Out :=
  s.reduce [a] th fmt fArith (fun _ => 4) (fun w x => redEl w (e0 x)) fun w l s =>
    s.put d (wd (if fmtIsInt w then l.sum else (orderedSum (fmtWidth w) (l.map some)).getD 0))
/-- `VRMAX` (17 R301). -/
def execVrmax (d a : Reg) (th : Bool) (fmt : Fin 16) (s : State) : Out :=
  s.reduce [a] th fmt fArith (fun _ => 4) (fun w x => redEl w (e0 x)) fun w l s =>
    s.put d (wd (l.tail.foldl (redPick true w) (l.headD 0)))
/-- `VRMIN` (17 R301). -/
def execVrmin (d a : Reg) (th : Bool) (fmt : Fin 16) (s : State) : Out :=
  s.reduce [a] th fmt fArith (fun _ => 4) (fun w x => redEl w (e0 x)) fun w l s =>
    s.put d (wd (l.tail.foldl (redPick false w) (l.headD 0)))

/-- The next prefix of a scan, as held; none begins one (17 R301). -/
def scanStep (w : Nat) (p : Option Nat) (x : Nat) : Nat :=
  match p with
  | none => if fmtIsInt w then x else widen32 w x
  | some p => if fmtIsInt w then (p + x) % 2 ^ fmtWidth w else add32 p (widen32 w x)
/-- What a prefix writes. -/
def scanOut (w p : Nat) : Nat := if fmtIsInt w then p else rneTo w (f32 p)
/-- Prefixes of elements, each beginning afresh where `new` says so. -/
def scanList (w : Nat) : Option Nat → List (Bool × Nat) → List Nat
  | _, [] => []
  | p, (new, x) :: r => let q := scanStep w (if new then none else p) x; q :: scanList w (some q) r
/-- `VSCAN` (17 R301). -/
def execVscan (d a : Reg) (th : Bool) (fmt : Fin 16) (s : State) : Out :=
  s.withFmt fmt.val fArith fun w =>
    if th then
      s.handleMode fun s =>
      s.settle (s.myHandle (s.gv d)) fun h s =>
      s.settle (s.myHandle (s.gv a)) fun x s =>
      match firstBad [h, x] (fun y => y.fmt != w), firstBad [x] (fun y => !y.fits h.ext) with
      | some va, _ => s.prot va
      | none, some va => s.prot va
      | none, none =>
        let per := 256 / fmtWidth w
        let total := cdiv h.n per
        s.streamed total (4 * total) 0 [] (fun c acc s =>
            let is := chunkIx h.ext per c
            (s.myView needW h (allIx h.ext)).bind fun v s =>
            (s.getAll h.ext is [x]).bind fun cols s =>
            let ps := scanList w acc.head? (List.zip (is.map fun i => i.1 == 0) (cols.headD []))
            (s.putEls s.who false v (List.zip is (ps.map (scanOut w)))).bind fun _ s => .ok [ps.getLastD 0] s)
          fun _ s => s
    else
      let ps := scanList w none ((s.els (fmtWidth w) a).map fun x => (false, x))
      ((s.putGroup d.val (packEl (fmtWidth w) (ps.map (scanOut w)))).charge 4).ok

/-- A row normalised by its root mean square: `xs` as the first pass reads it, `ys` as the second (17 R300). -/
def normScale (w eps : Nat) (xs ys : List Nat) : List Nat :=
  let q := xs.map fun x => some (r32 ((fdecode w x).mul (fdecode w x)))
  let sm := (orderedSum (fmtWidth w) q).getD 0
  let mu := r32 ((f32 sm).div (.fin false xs.length 1))
  let r := f32 (r32 (vRsq (f32 (r32 ((f32 mu).add .rne (f32 eps))))))
  ys.map fun y => rneTo w ((fdecode w y).mul r)
def normRow (w eps : Nat) (xs : List Nat) : List Nat := normScale w eps xs xs
/-- Turn `c` of a normalisation of rows of `n` chunks: the row, and which chunk of the first pass, the second, or the writes (17
R290, R300; log 44). -/
def normTurn (n c : Nat) : Nat × Nat × Nat := (c / (3 * n), c % (3 * n) / n, c % n)
/-- The elements of chunk `k` of row `j` of a shape. -/
def rowChunk (e : Ix) (per j k : Nat) : List Ix := (List.range (min per (e.1 - k * per))).map fun i => ixOf e (j * e.1 + k * per + i)
/-- `VNORM` (17 R300): in handle mode a row's chunks are read, read again, and then written. -/
def execVnorm (d a b : Reg) (th : Bool) (fmt : Fin 16) (s : State) : Out :=
  let eps := s.gv b
  s.withFmt fmt.val fFlt fun w =>
    if th then
      s.handleMode fun s =>
      s.settle (s.myHandle (s.gv d)) fun h s =>
      s.settle (s.myHandle (s.gv a)) fun x s =>
      match firstBad [h, x] (fun y => y.fmt != w), firstBad [x] (fun y => !y.fits h.ext) with
      | some va, _ => s.prot va
      | none, some va => s.prot va
      | none, none =>
        let per := 256 / fmtWidth w
        let n := cdiv h.e0 per
        s.streamed (h.e1 * h.e2 * h.e3 * (3 * n)) (2 * arithUnit w * cdiv h.n per) 0 [] (fun c acc s =>
            let (j, pass, k) := normTurn n c
            let is := rowChunk h.ext per j k
            (s.myView needW h (allIx h.ext)).bind fun v s =>
            if pass < 2 then
              -- the values that the second pass reads are the ones scaled; those of the first give the sum
              (s.getAll h.ext is [x]).bind fun cols s => .ok ((if pass = 0 && k = 0 then [] else acc) ++ cols.headD []) s
            else
              let ys := normScale w eps (acc.take h.e0) (acc.drop h.e0)
              (s.putEls s.who false v (List.zip is ((ys.drop (k * per)).take per))).bind fun _ s => .ok acc s)
          fun _ s => s
    else
      ((s.putGroup d.val (packEl (fmtWidth w) (normRow w eps (s.els (fmtWidth w) a)))).charge (2 * arithUnit w)).ok

/-- Formats whose elements a k-list holds (13 R230). -/
def kFmt (f : Nat) : Bool := fArith f && f != 3 && f != 7
/-- A candidate's value. -/
def kVal (f x : Nat) : Nat := if fmtIsInt f then unsignedOf 32 (intVal f x) else widen32 f x
/-- `inh` resolving to a format these operations do not take is an illegal opcode, to a reserved code a protection fault
(13 R230, 17 R289). -/
def State.withK (s : State) (fmt : Fin 16) (f : Nat → Out) : Out :=
  let w := resolveFmt s.ef fmt.val
  if kFmt w then f w else if fAll w then s.trap clsOpcode s.iss.hw else s.prot s.me.shFmt.toNat
/-- A checked list of `k` entries at an address (13 R230, R231). -/
def State.listSpan (s : State) (need va k : Nat) : Got Span :=
  .need (va % 8 == 0) clsAlign va <| s.spanOf s.who false need va (8 * k)
/-- Write a list, two entries to an access where they are aligned to it, as a store buffer of 32 entries holds them (13 R230, R231; log
22). -/
def State.writeList (s : State) (va : Nat) (sp : Span) (l : List Nat) : Got Unit :=
  let first := if va % 16 = 0 then 2 else 1
  let pieces := [(0, l.take first)] ++ (List.range (cdiv (l.length - first) 2)).map fun i => (first + 2 * i, (l.drop (first + 2 * i)).take 2)
  pieces.foldl (fun (g : Got Unit) p => g.bind fun _ s => if p.2.isEmpty then .ok () s else s.writeSpan va sp (8 * p.1) (kBytes p.2)) (.ok () s)
/-- `VTOPK` (13 R230). -/
def execVtopk (d a b : Reg) (e : Fin 128) (_th : Bool) (fmt : Fin 16) (s : State) : Out :=
  let k := e.val
  let la := s.gv d
  let first := s.gv b
  s.withK fmt fun w =>
    s.handleMode fun s =>
    s.settle (s.listSpan needW la k) fun _ s =>
    s.settle (s.myHandle (s.gv a)) fun h s =>
    if h.fmt != w then s.prot h.va
    else
      let per := 256 / fmtWidth w
      let total := cdiv h.n per
      s.streamed total (4 * total) 0 [] (fun c acc s =>
          let is := chunkIx h.ext per c
          (s.listSpan needW la k).bind fun sp s =>
          (s.getAll h.ext is [h]).bind fun cols s =>
          let xs := cols.headD []
          let cand := ((List.range xs.length).filter fun j => fmtIsInt w || !(fdecode w (xs.getD j 0)).isNaN).map fun j =>
            kVal w (xs.getD j 0) + (first + c * per + j) % 2 ^ 32 * 2 ^ 32
          let acc := kFirst w k (acc ++ cand)
          if total ≤ c + 1 then (s.writeList la sp (kFill k acc)).bind fun _ s => .ok acc s
          else .ok acc s)
        fun _ s => s
/-- `VMRGK_LOCAL` (13 R231): its reads and writes are plain accesses of the thread. -/
def execVmrgkLocal (d a b : Reg) (e : Fin 128) (fmt : Fin 16) (s : State) : Out :=
  let k := e.val
  s.withK fmt fun w =>
    s.plainly fun s =>
      s.settle ((s.listSpan needR (s.gv a) k).bind fun x s =>
        (s.listSpan needR (s.gv b) k).bind fun y s =>
        (s.listSpan needW (s.gv d) k).bind fun z s =>
        (s.fetched (s.missing (s.gv a) (keysAt x.segs 0 (8 * k)) ++ s.missing (s.gv b) (keysAt y.segs 0 (8 * k)))).bind fun _ s =>
        (s.readSpan (s.gv a) x 0 (8 * k)).bind fun xs s =>
        (s.readSpan (s.gv b) y 0 (8 * k)).bind fun ys s =>
        (s.writeList (s.gv d) z (kFill k (kFirst w k (kList xs ++ kList ys)))).bind fun _ s => s.commit)
      fun _ s => (s.charge (4 * cdiv (16 * k) 32)).ok
/-- `VMRGK_BANK`: one update at the list's bank, between a release and an acquire at `die`; the thread is out of rotation until the
bank has applied it (13 R231). -/
def execVmrgkBank (d a : Reg) (e : Fin 128) (fmt : Fin 16) (s : State) : Out :=
  let k := e.val
  let la := s.gv d
  s.withK fmt fun w =>
    if privateInner s.pkg s.iss.gid la || farSpace la || la % 256 + 8 * k > 256 then s.prot la
    else
      s.plainly fun s =>
      s.settle ((s.listSpan needR (s.gv a) k).bind fun x s =>
        (s.listSpan 3 la k).bind fun z s =>
        (s.readSpan (s.gv a) x 0 (8 * k)).bind fun xs s => .ok (z, xs) s)
      fun r s =>
        let s := s.charge (4 * cdiv (8 * k) 32)
        match r.1 with
        | .away => s.ok
        | .here segs => s.ask (.topk w k (kList r.2)) (segKey segs 0) (8 * k) la 2 true true (s.doneTo 0 0 0 8 false)

/-- The softmax state after some FP32 lanes `w` bits wide at their source (13 R233, 17 R302). -/
def smxStep (w state : Nat) (xs : List Nat) : Nat :=
  let mx := state % 2 ^ 32
  let sm := state / 2 ^ 32
  let nan (x : Nat) : Bool := (f32 x).isNaN
  let live := xs.filter fun x => !nan x
  let mx' := match live with
    | [] => mx
    | x :: r => let m := r.foldl (fmaxEnc 8) x; if (f32 m).lt (f32 mx) then mx else m
  if mx' = 0xFF800000 then state
  else
    let diff (x : Nat) : Nat := exp32 (r32 ((f32 x).sub .rne (f32 mx')))
    let s0 := if mx = 0xFF800000 then 0 else mul32 sm (diff mx)
    let t := orderedSum w (xs.map fun x => if nan x then none else some (diff x))
    let s1 := match t with | some t => add32 s0 t | none => s0
    s1 * 2 ^ 32 + mx'
/-- One lane of the softmax (13 R233). -/
def smnLane (w state x : Nat) : Nat :=
  let mx := f32 state
  let sm := f32 (state / 2 ^ 32)
  let y := widen32 w x
  if (f32 y).isNaN || !(fxZero.lt sm) then fmtNaN w
  else rneTo w (f32 (r32 ((f32 (exp32 (r32 ((f32 y).sub .rne mx)))).div sm)))
/-- `VSMX` (13 R233, 17 R302). -/
def execVsmx (d a : Reg) (th : Bool) (fmt : Fin 16) (s : State) : Out :=
  let old := s.gv d
  s.reduce [a] th fmt fFlt (fun _ => 4) (fun w x => widen32 w (e0 x)) fun w l s =>
    s.put d (wd (smxStep (fmtWidth w) old l))
/-- `VSMN` (13 R233, 17 R302). -/
def execVsmn (d a b : Reg) (th : Bool) (fmt : Fin 16) (s : State) : Out :=
  let st := s.gv b
  s.vmap d [a] th fmt fFlt (fun _ => 4) fun w _ x => smnLane w st (e0 x)

/-- Prefix sums of FP32 values, rounded at each step. -/
def prefixes : Nat → List Nat → List Nat
  | _, [] => []
  | p, x :: r => let q := add32 p x; q :: prefixes q r
/-- `VSAMP` (13 R235). -/
def execVsamp (d a b : Reg) (fmt : Fin 16) (s : State) : Out :=
  s.withFmt fmt.val (· == 8) fun _ =>
  let u : FV := .fin false (bits (s.gv b) 63 40) (2 ^ 24)
  let p := (s.els 32 a).map fun x => if !(f32 x).isNaN && fxZero.lt (f32 x) then x else 0
  let sums := match p with | [] => [] | x :: r => x :: prefixes x r
  let total := sums.getLastD 0
  let t := f32 (r32 (u.mul (f32 total)))
  let r :=
    if total = 0 then 0xFFFFFFFF
    else
      match (List.range 8).find? fun i => t.lt (f32 (sums.getD i 0)) with
      | some i => i
      | none => ((List.range 8).filter fun i => p.getD i 0 != 0).getLastD 0
  ((s.put d (wd r)).charge 4).ok
/-- `RNG` (13 R234). -/
def execRng (d a b : Reg) (s : State) : Out :=
  if a.val = 0 then (((s.spend 1).put d (wd (squall s.me.sqKey s.me.sqCtr))).charge 4).ok
  else ((s.put d (wd (squall (s.gv a) (s.gv b)))).charge 4).ok

end Sys2Proof.Machine
end

