-- ==== Sys2Proof/Machine/Tasks.lean ====
section
/-!
DEFINITION. Spawning, task packets and the roles on hardware queues: opcodes 0xB3 to 0xB6 and 0xBF (20 R345 to R353; 13
R225, R226; 21 R358, R368 to R371, R375).
-/
namespace Sys2Proof.Machine

/-- Neither slot 15 nor a gang member (21 R358, R375). -/
def State.alone (s : State) (f : State → Out) : Out := if s.inSuper || s.inGang then s.protOpc else f s

/-- `SPAWN` (20 R345). -/
def execSpawn (d a b : Reg) (slot : Fin 64) (imm : BitVec 32) (s : State) : Out :=
  s.alone fun s => s.toTarget (tgtForm imm slot) (s.tgt imm slot) fun ok s =>
    let pc := s.tgt imm slot
    if !ok then s.trap clsTarget pc
    else if !s.dequeRoom s.myCore then .next ((s.put d (wd (s.iss.succ + 2 ^ 63))).jump pc)
    else if s.storesDue 2 then .next (s.retry (.stores 2))
    else
      let seq := (s.core s.myCore).dseq
      let e : DEnt :=
        { pc := s.iss.succ, frame := s.gv a, regs := (List.range 4).map fun i => (s.gN (b.val + i)).toNat, gid := s.iss.gid,
          uid := s.me.uid, task := false, dom := s.myDom, ra := a.val, rb := b.val, seq := seq, prio := s.me.prioBase }
      .next (((s.pushEntry s.myCore e false).put d (wd (2 ^ 32 + seq))).jump pc)
/-- `RSPAWN` (20 R352; 21 R368). -/
def execRspawn (d a b : Reg) (slot : Fin 64) (imm : BitVec 32) (s : State) : Out :=
  s.alone fun s =>
    let x := s.gv a
    if x / 2 ^ 30 != 0 || gidPkg x != s.pkg || s.owner (gidQk x) != some s.myPart then s.prot x
    else s.toTarget (tgtForm imm slot) (s.tgt imm slot) fun ok s =>
      if !ok then s.trap clsTarget (s.tgt imm slot)
      else if s.storesDue 3 then .next (s.retry (.stores 3))
      else
        match s.domain? s.myDom with
        | none => s.reply d (gidQk x) 1
        | some dom =>
          match s.freeFork dom (gidCk x) with
          | none => s.reply d (gidQk x) 1
          | some g =>
            let vs := (List.range 4).map fun i => s.gN (b.val + i)
            let base := s.me.prioBase
            let pc := s.tgt imm slot
            (s.create g dom fun t =>
              (List.range 4).foldl (fun t i => t.setReg (b.val + i) (vs.getD i 0))
                { t with pc := wd pc, prioBase := base, prioCeil := base }).reply d (gidQk x) 0

/-- The key of the word that a frame address, which names the frame in its edges, stands for (20 R347). -/
def State.frameKey (s : State) (g ea : Nat) : Nat :=
  match s.check { part := s.partOf g, asid := (s.thread g).asid, gid := g } 0 false 8 ea 8 with
  | (.ok segs, _) => segKey segs 0
  | _ => ea
/-- Wake the threads parked on a frame whose count has reached 0 (20 R348). -/
def State.wakeFrame (s : State) (k : Nat) : State :=
  (s.threads.filter fun t => match t.wait with
    | some { why := .parked ea ok, .. } => ok == okChild && s.frameKey t.gid ea == k
    | _ => false).foldl (fun s t => s.wake t.gid (keyDie k (gidDie t.gid)) 0 0 false) s
/-- Remove the hold edge from a frame to a thread. -/
def State.unholdFrame (s : State) (k g : Nat) : State :=
  { s with edges := s.edges.filter fun e => !(e.ek != 0 && e.ok == okChild && e.gid == g && s.frameKey g e.obj == k) }
/-- The sync form, after the thread's own accesses to the frame (08 R143): go on at a count of 0, which the word's home answers (21 R359), else park on the frame (20 R348). -/
def State.frameSync (s : State) (d : Reg) (ea : Nat) : Out :=
  (s.bankAccess (needR + needW) 8 ea 8).bind (fun s => s.res d 0) fun k s =>
    match s.actDue k 8, s.badIn k 8 with
    | some y, _ => .next (s.retry y)
    | none, some _ => s.trap clsEcc ea
    | none, none =>
      if s.readN k 8 = 0 then s.reply d ((homeQuad k).getD s.myQuad) 0
      else .next (s.parkMe (keyDie k s.myDie) ea okChild (s.doneTo d.val 0 0 8 false))
/-- The end of a strand whose continuation was taken, after the thread's own accesses to the frame (08 R143): the frame counts down and the thread ends as `halt` ends it. -/
def State.strandEnd (s : State) (ea : Nat) : Out :=
  (s.bankAccess (needR + needW) 8 ea 8).bind (fun s => .next (s.haltThread s.iss.gid)) fun k s =>
    match s.actDue k 8, s.badIn k 8 with
    | some y, _ => .next (s.retry y)
    | none, some _ => s.trap clsEcc ea
    | none, none =>
      if s.storesDue 2 then .next (s.retry (.stores 2))
      else
      let s := s.cedeSome [s.iss.gid]
      if s.cedesLeft [s.iss.gid] then .next (s.retry (.buffer 1))
      else s.retire fun s =>
        let v := (s.readN k 8 + (2 ^ 64 - 1)) % 2 ^ 64
        let s := (s.homeWrite k (bytesOf 8 v)).unholdFrame k s.iss.gid
        .next ((if v = 0 then s.wakeFrame k else s).haltThread s.iss.gid)
/-- `FJOIN` (20 R348). -/
def execFjoin (d a b : Reg) (s : State) : Out :=
  s.user fun s =>
    let tok := s.gv b
    let ea := s.gv a
    if tok = 0 then s.frameSync d ea
    else if tbit tok 63 then .next ((s.put d 0).jump (tok - 2 ^ 63))
    else if !tbit tok 32 || bits tok 62 33 != 0 || bits tok 31 16 != 0 then s.prot tok
    else
      match (s.entriesOf s.me).getLast? with
      | none => s.strandEnd ea
      | some e =>
        if e.seq = tok % 2 ^ 16 then
          let c := s.core s.myCore
          .next (((s.setCore { c with deque := c.deque.filter (· != e) }).put d 0).jump e.pc)
        else s.prot tok
/-- `FJOIN_SYNC` (20 R348). -/
def execFjoinSync (d a : Reg) (s : State) : Out := s.user fun s => s.frameSync d (s.gv a)

/-- The home quad and the words of a packet's 64 bytes, after the checks of 13 R226 and 21 R371; `priv` says whether private
memory may hold it. -/
def State.packet (s : State) (ea : Nat) (priv : Bool) (f : Nat → List Nat → State → Out) : Out :=
  let words (v : Nat) : List Nat := (List.range 8).map fun i => v / 2 ^ (64 * i) % 2 ^ 64
  let p := placeOf s.pkg s.iss.gid ea
  let outside := match p with
    | .priv _ _ _ _ => !priv
    | .virt sel _ => sel != 4
    | .away _ cxl => cxl || !priv
    | _ => false
  if ea % 64 != 0 then s.trap clsAlign ea
  else if p = .bad || p.room ea < 64 then s.trap clsSpace ea
  else if outside then s.prot ea
  else
    (s.access needR false 64 ea 64).bind
      (fun s =>
        let vs := (List.range 8).map fun i => (Config.remoteWord (s.freeCtr + i)).toNat
        f s.myQuad vs { s with freeCtr := s.freeCtr + 8 })
      fun k s =>
        if s.wordsDue s.me.uid k 64 then .next (s.retry (.words k 64)) else
        match s.badIn k 64 with
        | some w => s.trap clsEcc (ea + (w - k))
        | none => f ((homeQuad k).getD s.myQuad) (words (ofBytes (s.seen s.me.uid k 64))) s
/-- Whether a packet's format word has a reserved bit set (13 R225). -/
def fmtReserved (fmt : Nat) : Bool := bits fmt 63 16 != 0 || bits fmt 13 5 != 0
/-- `PKT_BEG` (13 R226). -/
def execPktBeg (d a : Reg) (s : State) : Out :=
  s.alone fun s =>
    if s.ownsEntries then s.protOpc
    else if s.me.task then s.res d 1
    else
      let ea := s.gv a
      s.packet ea true fun home ws s =>
        let w (i : Nat) : Word := wd (ws.getD i 0)
        if fmtReserved (ws.getD 0 0) then s.prot ea
        else
          let s := s.modMe fun t => { t with shFmt := w 0, shScl := w 1, args := #v[w 2, w 3, w 4, w 5], task := true,
                                             triggered := false, depRec := 0 }
          if isOwn ea then s.res d 0 else s.reply d home 0
/-- `PKT_END` (13 R226; 20 R350). -/
def execPktEnd (s : State) : Out :=
  s.alone fun s =>
    if s.ownsEntries then s.protOpc
    else if !s.me.task then s.ok
    else s.retire fun s =>
      (s.modMe fun t => { t with shFmt := 0, shScl := 0, args := t.launchArgs, task := false, triggered := false, depRec := 0 }).ok
/-- `PKT_DISP` (21 R371). -/
def execPktDisp (d a b : Reg) (s : State) : Out :=
  s.alone fun s =>
    if s.ownsEntries then s.protOpc
    else
      let ea := s.gv a
      s.packet ea false fun _ ws s =>
        let entry := ws.getD 6 0
        let core := if b.val = 0 then s.myCore else gidCk (s.gv b)
        if fmtReserved (ws.getD 0 0) then s.prot ea
        else s.toTarget true entry fun ok s =>
        if !ok then s.trap clsTarget entry
        else if b.val != 0 && (gidPkg (s.gv b) != s.pkg || gidDie (s.gv b) != s.myDie || s.owner (ckQuad core) != some s.myPart) then s.prot (s.gv b)
        else if s.storesDue 2 then .next (s.retry (.stores 2))
        else if !s.dequeRoom core then s.reply d (ckQuad core) 1
        else (s.pushEntry core (s.taskEntry entry ea) true).reply d (ckQuad core) 0

/-- Whether another thread of the core already has a role on a queue (20 R353). -/
def State.roleTaken (s : State) (n role : Nat) : Bool :=
  role != 0 && s.threads.any fun t => gidCk t.gid == s.myCore && t.uid != s.me.uid && t.role n == role
/-- Take roles on the core's queues: hold edges of given-up roles go, and those of queues waited on come (20 R353, R370). -/
def State.setRoles (s : State) (roles : Nat) : State :=
  let g := s.iss.gid
  let s := s.modMe fun t => { t with qmap := roles }
  (List.range 4).foldl (fun s n =>
    let obj := queueObj n g
    let s := s.unhold obj okQueue g
    let waits := (s.parkedOn obj okQueue).any fun t => t.gid != g && s.me.role n != 0 && t.role n != s.me.role n
    if waits then s.hold s.myDie obj okQueue 1 g else s) s
/-- `QMAP_SET` (21 R369). -/
def execQmapSet (d a : Reg) (s : State) : Out :=
  s.user fun s =>
    let r := s.gv a
    if r / 2 ^ 8 != 0 || (List.range 4).any (fun n => r / 4 ^ n % 4 == 3) then s.prot r
    else if s.inGang then s.protOpc
    else if (List.range 4).any (fun n => s.roleTaken n (r / 4 ^ n % 4)) then s.res d 1
    else (s.setRoles r).res d 0
/-- `QMAP_OFF` (21 R369). -/
def execQmapOff (d : Reg) (s : State) : Out := s.alone fun s => (s.setRoles 0).res d 0

end Sys2Proof.Machine
end

