-- ==== Sys2Proof/Machine/Dispatch.lean ====
section
/-!
DEFINITION. The dispatcher: one arm per constructor of Instr, each one direct call of that instruction's meaning.
-/
namespace Sys2Proof.Machine

def exec (i : Instr) (s : State) : Host.Outcome State Fault Refusal :=
  match i with
  | .nop => Sys2Proof.Machine.execNop s
  | .br slot imm => Sys2Proof.Machine.execBr slot imm s
  | .brc e a b slot imm => Sys2Proof.Machine.execBrc e a b slot imm s
  | .brr a => Sys2Proof.Machine.execBrr a s
  | .call d slot imm => Sys2Proof.Machine.execCall d slot imm s
  | .ret a => Sys2Proof.Machine.execRet a s
  | .loop d slot imm => Sys2Proof.Machine.execLoop d slot imm s
  | .halt => Sys2Proof.Machine.execHalt s
  | .pause => Sys2Proof.Machine.execPause s
  | .emit sig => Sys2Proof.Machine.execEmit sig s
  | .emitv a sig => Sys2Proof.Machine.execEmitv a sig s
  | .pres pd sig => Sys2Proof.Machine.execPres pd sig s
  | .cede sig => Sys2Proof.Machine.execCede sig s
  | .claim d sig => Sys2Proof.Machine.execClaim d sig s
  | .unclaim sig => Sys2Proof.Machine.execUnclaim sig s
  | .sigvCur d sig => Sys2Proof.Machine.execSigvCur d sig s
  | .sigvPrev d sig => Sys2Proof.Machine.execSigvPrev d sig s
  | .abortw sn slot imm => Sys2Proof.Machine.execAbortw sn slot imm s
  | .suspw sig => Sys2Proof.Machine.execSuspw sig s
  | .endw => Sys2Proof.Machine.execEndw s
  | .fork d slot imm => Sys2Proof.Machine.execFork d slot imm s
  | .join => Sys2Proof.Machine.execJoin s
  | .instNum d => Sys2Proof.Machine.execInstNum d s
  | .instSeed d => Sys2Proof.Machine.execInstSeed d s
  | .instNsig d => Sys2Proof.Machine.execInstNsig d s
  | .trig sc => Sys2Proof.Machine.execTrig sc s
  | .gangWait => Sys2Proof.Machine.execGangWait s
  | .gangOn d => Sys2Proof.Machine.execGangOn d s
  | .gangOff => Sys2Proof.Machine.execGangOff s
  | .add d a b w => Sys2Proof.Machine.execAdd d a b w s
  | .sub d a b w => Sys2Proof.Machine.execSub d a b w s
  | .addi d a imm => Sys2Proof.Machine.execAddi d a imm s
  | .mul d a b w => Sys2Proof.Machine.execMul d a b w s
  | .mulh d a b u w => Sys2Proof.Machine.execMulh d a b u w s
  | .div d a b u w => Sys2Proof.Machine.execDiv d a b u w s
  | .rem d a b u w => Sys2Proof.Machine.execRem d a b u w s
  | .min d a b u w => Sys2Proof.Machine.execMin d a b u w s
  | .max d a b u w => Sys2Proof.Machine.execMax d a b u w s
  | .abs d a w => Sys2Proof.Machine.execAbs d a w s
  | .and d a b => Sys2Proof.Machine.execAnd d a b s
  | .or d a b => Sys2Proof.Machine.execOr d a b s
  | .xor d a b => Sys2Proof.Machine.execXor d a b s
  | .andn d a b => Sys2Proof.Machine.execAndn d a b s
  | .orn d a b => Sys2Proof.Machine.execOrn d a b s
  | .shl d a b w => Sys2Proof.Machine.execShl d a b w s
  | .shlImm d a w imm => Sys2Proof.Machine.execShlImm d a w imm s
  | .shr d a b w => Sys2Proof.Machine.execShr d a b w s
  | .shrImm d a w imm => Sys2Proof.Machine.execShrImm d a w imm s
  | .sar d a b w => Sys2Proof.Machine.execSar d a b w s
  | .sarImm d a w imm => Sys2Proof.Machine.execSarImm d a w imm s
  | .rol d a b w => Sys2Proof.Machine.execRol d a b w s
  | .rolImm d a w imm => Sys2Proof.Machine.execRolImm d a w imm s
  | .clz d a => Sys2Proof.Machine.execClz d a s
  | .ctz d a => Sys2Proof.Machine.execCtz d a s
  | .popc d a => Sys2Proof.Machine.execPopc d a s
  | .brev d a => Sys2Proof.Machine.execBrev d a s
  | .bfx d a pos e c => Sys2Proof.Machine.execBfx d a pos e c s
  | .bfi d a pos e => Sys2Proof.Machine.execBfi d a pos e s
  | .cmp pd a b cc => Sys2Proof.Machine.execCmp pd a b cc s
  | .cmpi pd a cc imm => Sys2Proof.Machine.execCmpi pd a cc imm s
  | .sel d pq a b => Sys2Proof.Machine.execSel d pq a b s
  | .movi d imm => Sys2Proof.Machine.execMovi d imm s
  | .moviZx d imm => Sys2Proof.Machine.execMoviZx d imm s
  | .moviHi d imm => Sys2Proof.Machine.execMoviHi d imm s
  | .mov d a => Sys2Proof.Machine.execMov d a s
  | .movFromSpecial d n => Sys2Proof.Machine.execMovFromSpecial d n s
  | .mrcvRead d => Sys2Proof.Machine.execMrcvRead d s
  | .msndWrite n a => Sys2Proof.Machine.execMsndWrite n a s
  | .movFromPred d pa => Sys2Proof.Machine.execMovFromPred d pa s
  | .movToPred pd a => Sys2Proof.Machine.execMovToPred pd a s
  | .plog pd pa pb op => Sys2Proof.Machine.execPlog pd pa pb op s
  | .lea d a b sh imm => Sys2Proof.Machine.execLea d a b sh imm s
  | .mad d a b c w => Sys2Proof.Machine.execMad d a b c w s
  | .sext d a w => Sys2Proof.Machine.execSext d a w s
  | .zext d a w => Sys2Proof.Machine.execZext d a w s
  | .cvti d a op => Sys2Proof.Machine.execCvti d a op s
  | .fadd d a b rm => Sys2Proof.Machine.execFadd d a b rm s
  | .fmul d a b rm => Sys2Proof.Machine.execFmul d a b rm s
  | .ffma d a b c rm => Sys2Proof.Machine.execFfma d a b c rm s
  | .fcmp pd a b cc => Sys2Proof.Machine.execFcmp pd a b cc s
  | .ld d a sx mw imm => Sys2Proof.Machine.execLd d a sx mw imm s
  | .st a b mw e imm => Sys2Proof.Machine.execSt a b mw e imm s
  | .ldfe d a sc sx mw imm => Sys2Proof.Machine.execLdfe d a sc sx mw imm s
  | .stef a b sc mw e imm => Sys2Proof.Machine.execStef a b sc mw e imm s
  | .ldff d a sc sx mw imm => Sys2Proof.Machine.execLdff d a sc sx mw imm s
  | .stff a b sc mw e imm => Sys2Proof.Machine.execStff a b sc mw e imm s
  | .fesetFull a imm => Sys2Proof.Machine.execFesetFull a imm s
  | .fesetEmpty a imm => Sys2Proof.Machine.execFesetEmpty a imm s
  | .feqry d a imm => Sys2Proof.Machine.execFeqry d a imm s
  | .ldp d a imm => Sys2Proof.Machine.execLdp d a imm s
  | .stp a b imm => Sys2Proof.Machine.execStp a b imm s
  | .ldc d a c sx mw imm => Sys2Proof.Machine.execLdc d a c sx mw imm s
  | .upd a b fn imm => Sys2Proof.Machine.execUpd a b fn imm s
  | .updr d pq a b fn imm => Sys2Proof.Machine.execUpdr d pq a b fn imm s
  | .updcfgLd d a b imm => Sys2Proof.Machine.execUpdcfgLd d a b imm s
  | .updcfgSt d b imm => Sys2Proof.Machine.execUpdcfgSt d b imm s
  | .updcfgClr d b imm => Sys2Proof.Machine.execUpdcfgClr d b imm s
  | .cas d a b c sc sx mw => Sys2Proof.Machine.execCas d a b c sc sx mw s
  | .lrw d pb a sc sx mw => Sys2Proof.Machine.execLrw d pb a sc sx mw s
  | .sch pd a b sc mw => Sys2Proof.Machine.execSch pd a b sc mw s
  | .rsvx a => Sys2Proof.Machine.execRsvx a s
  | .fenceCore => Sys2Proof.Machine.execFenceCore s
  | .fence sc => Sys2Proof.Machine.execFence sc s
  | .fenceDrn sc => Sys2Proof.Machine.execFenceDrn sc s
  | .lda d a sc sx mw imm => Sys2Proof.Machine.execLda d a sc sx mw imm s
  | .stl a b sc mw e imm => Sys2Proof.Machine.execStl a b sc mw e imm s
  | .barNetwork d b c red sc => Sys2Proof.Machine.execBarNetwork d b c red sc s
  | .barDrain d a b c red sc => Sys2Proof.Machine.execBarDrain d a b c red sc s
  | .barObject d a sc => Sys2Proof.Machine.execBarObject d a sc s
  | .barinit d a b e sc => Sys2Proof.Machine.execBarinit d a b e sc s
  | .migr d a => Sys2Proof.Machine.execMigr d a s
  | .swap d a b sc sx mw => Sys2Proof.Machine.execSwap d a b sc sx mw s
  | .stm a b c op imm => Sys2Proof.Machine.execStm a b c op imm s
  | .fetchadd d a b sc sx mw => Sys2Proof.Machine.execFetchadd d a b sc sx mw s
  | .fetchaddImm d a b sc sx mw imm => Sys2Proof.Machine.execFetchaddImm d a b sc sx mw imm s
  | .zfill a op imm => Sys2Proof.Machine.execZfill a op imm s
  | .wregHold d a => Sys2Proof.Machine.execWregHold d a s
  | .wregFe d a => Sys2Proof.Machine.execWregFe d a s
  | .wunreg d a => Sys2Proof.Machine.execWunreg d a s
  | .wwait d a => Sys2Proof.Machine.execWwait d a s
  | .wsig d a => Sys2Proof.Machine.execWsig d a s
  | .prioSet d a => Sys2Proof.Machine.execPrioSet d a s
  | .prioMax d => Sys2Proof.Machine.execPrioMax d s
  | .trapNothing d imm => Sys2Proof.Machine.execTrapNothing d imm s
  | .trapTime d => Sys2Proof.Machine.execTrapTime d s
  | .trapUserAbort d => Sys2Proof.Machine.execTrapUserAbort d s
  | .trapPostFaultQueue d => Sys2Proof.Machine.execTrapPostFaultQueue d s
  | .rft => Sys2Proof.Machine.execRft s
  | .srr d e c => Sys2Proof.Machine.execSrr d e c s
  | .srw a e c => Sys2Proof.Machine.execSrw a e c s
  | .srwEbud a c => Sys2Proof.Machine.execSrwEbud a c s
  | .tlbiAll => Sys2Proof.Machine.execTlbiAll s
  | .tlbiPage a => Sys2Proof.Machine.execTlbiPage a s
  | .tlbiAsid a => Sys2Proof.Machine.execTlbiAsid a s
  | .monSel d c a => Sys2Proof.Machine.execMonSel d c a s
  | .monEdge c a => Sys2Proof.Machine.execMonEdge c a s
  | .monRd d c b => Sys2Proof.Machine.execMonRd d c b s
  | .monOff c => Sys2Proof.Machine.execMonOff c s
  | .wdarm d a => Sys2Proof.Machine.execWdarm d a s
  | .vadd d a b th fmt => Sys2Proof.Machine.execVadd d a b th fmt s
  | .vsub d a b th fmt => Sys2Proof.Machine.execVsub d a b th fmt s
  | .vmul d a b th fmt => Sys2Proof.Machine.execVmul d a b th fmt s
  | .vfma d a b c th fmt => Sys2Proof.Machine.execVfma d a b c th fmt s
  | .vdiv d a b th fmt => Sys2Proof.Machine.execVdiv d a b th fmt s
  | .vmin d a b th fmt => Sys2Proof.Machine.execVmin d a b th fmt s
  | .vmax d a b th fmt => Sys2Proof.Machine.execVmax d a b th fmt s
  | .vabs d a th fmt => Sys2Proof.Machine.execVabs d a th fmt s
  | .vneg d a th fmt => Sys2Proof.Machine.execVneg d a th fmt s
  | .vcmp d a b e th fmt => Sys2Proof.Machine.execVcmp d a b e th fmt s
  | .vsel d a b c th fmt => Sys2Proof.Machine.execVsel d a b c th fmt s
  | .vand d a b th fmt => Sys2Proof.Machine.execVand d a b th fmt s
  | .vor d a b th fmt => Sys2Proof.Machine.execVor d a b th fmt s
  | .vxor d a b th fmt => Sys2Proof.Machine.execVxor d a b th fmt s
  | .vshl d a b th fmt => Sys2Proof.Machine.execVshl d a b th fmt s
  | .vshr d a b th fmt => Sys2Proof.Machine.execVshr d a b th fmt s
  | .vsar d a b th fmt => Sys2Proof.Machine.execVsar d a b th fmt s
  | .vexp d a th fmt => Sys2Proof.Machine.execVexp d a th fmt s
  | .vexp2 d a th fmt => Sys2Proof.Machine.execVexp2 d a th fmt s
  | .vlog d a th fmt => Sys2Proof.Machine.execVlog d a th fmt s
  | .vrcp d a th fmt => Sys2Proof.Machine.execVrcp d a th fmt s
  | .vrsq d a th fmt => Sys2Proof.Machine.execVrsq d a th fmt s
  | .vsqrt d a th fmt => Sys2Proof.Machine.execVsqrt d a th fmt s
  | .vtanh d a th fmt => Sys2Proof.Machine.execVtanh d a th fmt s
  | .vsgm d a th fmt => Sys2Proof.Machine.execVsgm d a th fmt s
  | .vsilu d a th fmt => Sys2Proof.Machine.execVsilu d a th fmt s
  | .vcvt d a c e th rm => Sys2Proof.Machine.execVcvt d a c e th rm s
  | .vqnt d a b c e th rm => Sys2Proof.Machine.execVqnt d a b c e th rm s
  | .vdeq d a b c e th rm => Sys2Proof.Machine.execVdeq d a b c e th rm s
  | .vscl d a b fmt => Sys2Proof.Machine.execVscl d a b fmt s
  | .vfill d a th fmt => Sys2Proof.Machine.execVfill d a th fmt s
  | .vcpy d a th fmt => Sys2Proof.Machine.execVcpy d a th fmt s
  | .vbcast d a b fmt => Sys2Proof.Machine.execVbcast d a b fmt s
  | .vperm d a b c fmt => Sys2Proof.Machine.execVperm d a b c fmt s
  | .vclamp d a b c th fmt => Sys2Proof.Machine.execVclamp d a b c th fmt s
  | .vround d a c th rm => Sys2Proof.Machine.execVround d a c th rm s
  | .vdot d a b th fmt => Sys2Proof.Machine.execVdot d a b th fmt s
  | .vlerp d a b c th fmt => Sys2Proof.Machine.execVlerp d a b c th fmt s
  | .vnorm d a b th fmt => Sys2Proof.Machine.execVnorm d a b th fmt s
  | .vmask d a b th fmt => Sys2Proof.Machine.execVmask d a b th fmt s
  | .vsum d a th fmt => Sys2Proof.Machine.execVsum d a th fmt s
  | .vrmax d a th fmt => Sys2Proof.Machine.execVrmax d a th fmt s
  | .vrmin d a th fmt => Sys2Proof.Machine.execVrmin d a th fmt s
  | .vscan d a th fmt => Sys2Proof.Machine.execVscan d a th fmt s
  | .vtopk d a b e th fmt => Sys2Proof.Machine.execVtopk d a b e th fmt s
  | .vmrgkLocal d a b e fmt => Sys2Proof.Machine.execVmrgkLocal d a b e fmt s
  | .vmrgkBank d a e fmt => Sys2Proof.Machine.execVmrgkBank d a e fmt s
  | .vsmx d a th fmt => Sys2Proof.Machine.execVsmx d a th fmt s
  | .vsmn d a b th fmt => Sys2Proof.Machine.execVsmn d a b th fmt s
  | .vsamp d a b fmt => Sys2Proof.Machine.execVsamp d a b fmt s
  | .rng d a b => Sys2Proof.Machine.execRng d a b s
  | .vrng d a b th fmt => Sys2Proof.Machine.execVrng d a b th fmt s
  | .vcnt d a th fmt => Sys2Proof.Machine.execVcnt d a th fmt s
  | .mload d a op e => Sys2Proof.Machine.execMload d a op e s
  | .mmul d a op imm => Sys2Proof.Machine.execMmul d a op imm s
  | .mcfgMask d a b c e => Sys2Proof.Machine.execMcfgMask d a b c e s
  | .mcfgCancel d => Sys2Proof.Machine.execMcfgCancel d s
  | .maccClr d a => Sys2Proof.Machine.execMaccClr d a s
  | .maccScl d a b => Sys2Proof.Machine.execMaccScl d a b s
  | .mstat d => Sys2Proof.Machine.execMstat d s
  | .thdef d a b c op => Sys2Proof.Machine.execThdef d a b c op s
  | .thld d a b c th fmt => Sys2Proof.Machine.execThld d a b c th fmt s
  | .thst d a b c th fmt => Sys2Proof.Machine.execThst d a b c th fmt s
  | .thaddr d a b c => Sys2Proof.Machine.execThaddr d a b c s
  | .relay d a b c e => Sys2Proof.Machine.execRelay d a b c e s
  | .thqry d a op => Sys2Proof.Machine.execThqry d a op s
  | .thsync d a => Sys2Proof.Machine.execThsync d a s
  | .send a b op => Sys2Proof.Machine.execSend a b op s
  | .recvWait d => Sys2Proof.Machine.execRecvWait d s
  | .recvPoll d pb => Sys2Proof.Machine.execRecvPoll d pb s
  | .cont d a => Sys2Proof.Machine.execCont d a s
  | .waitr d => Sys2Proof.Machine.execWaitr d s
  | .cpyq d a => Sys2Proof.Machine.execCpyq d a s
  | .cpyqw d a => Sys2Proof.Machine.execCpyqw d a s
  | .gath d a wt => Sys2Proof.Machine.execGath d a wt s
  | .scat d a wt => Sys2Proof.Machine.execScat d a wt s
  | .mbox d pb => Sys2Proof.Machine.execMbox d pb s
  | .waitm d => Sys2Proof.Machine.execWaitm d s
  | .uisetOff d => Sys2Proof.Machine.execUisetOff d s
  | .uisetOn d => Sys2Proof.Machine.execUisetOn d s
  | .rspawn d a b slot imm => Sys2Proof.Machine.execRspawn d a b slot imm s
  | .spawn d a b slot imm => Sys2Proof.Machine.execSpawn d a b slot imm s
  | .fjoin d a b => Sys2Proof.Machine.execFjoin d a b s
  | .fjoinSync d a => Sys2Proof.Machine.execFjoinSync d a s
  | .qmapSet d a => Sys2Proof.Machine.execQmapSet d a s
  | .qmapOff d => Sys2Proof.Machine.execQmapOff d s
  | .iqdefNew d a b c => Sys2Proof.Machine.execIqdefNew d a b c s
  | .iqdefDel d a => Sys2Proof.Machine.execIqdefDel d a s
  | .iqpush d a b => Sys2Proof.Machine.execIqpush d a b s
  | .iqpop d pb a => Sys2Proof.Machine.execIqpop d pb a s
  | .iqcons d a => Sys2Proof.Machine.execIqcons d a s
  | .arrget d pq a b => Sys2Proof.Machine.execArrget d pq a b s
  | .arradd a b c => Sys2Proof.Machine.execArradd a b c s
  | .iqbind d a b e => Sys2Proof.Machine.execIqbind d a b e s
  | .iqstat d a => Sys2Proof.Machine.execIqstat d a s
  | .pktBeg d a => Sys2Proof.Machine.execPktBeg d a s
  | .pktEnd => Sys2Proof.Machine.execPktEnd s
  | .pktDisp d a b => Sys2Proof.Machine.execPktDisp d a b s
  | .commandSubmission fn page cmd => Sys2Proof.Machine.execCommandSubmission fn page cmd s
  | .attach fn page => Sys2Proof.Machine.execAttach fn page s
  | .reAttach fn page => Sys2Proof.Machine.execReAttach fn page s
  | .load fn page => Sys2Proof.Machine.execLoad fn page s
  | .launch fn page => Sys2Proof.Machine.execLaunch fn page s
  | .emitInput fn page => Sys2Proof.Machine.execEmitInput fn page s
  | .readOutputs fn page => Sys2Proof.Machine.execReadOutputs fn page s
  | .suspend fn page => Sys2Proof.Machine.execSuspend fn page s
  | .resume fn page => Sys2Proof.Machine.execResume fn page s
  | .abort fn page => Sys2Proof.Machine.execAbort fn page s
  | .endStatus fn page => Sys2Proof.Machine.execEndStatus fn page s
  | .faultAnswer fn page => Sys2Proof.Machine.execFaultAnswer fn page s
  | .healthRead fn page => Sys2Proof.Machine.execHealthRead fn page s
  | .setFaultQueue fn page => Sys2Proof.Machine.execSetFaultQueue fn page s
  | .tenantCreate fn page => Sys2Proof.Machine.execTenantCreate fn page s
  | .tenantTeardown fn page => Sys2Proof.Machine.execTenantTeardown fn page s
  | .setRoots fn page => Sys2Proof.Machine.execSetRoots fn page s
  | .setRates fn page => Sys2Proof.Machine.execSetRates fn page s
  | .setFabric fn page => Sys2Proof.Machine.execSetFabric fn page s
  | .setKeys fn page => Sys2Proof.Machine.execSetKeys fn page s
  | .attest fn page => Sys2Proof.Machine.execAttest fn page s
  | .completionRecord fn page => Sys2Proof.Machine.execCompletionRecord fn page s
  | .consumedCountPoll faultRing fn page => Sys2Proof.Machine.execConsumedCountPoll faultRing fn page s
  | .hostPostedWrite addr data => Sys2Proof.Machine.execHostPostedWrite addr data s
  | .packageReset => Sys2Proof.Machine.execPackageReset s
  | .lull dom => Sys2Proof.Machine.execLull dom s
  | .energyRefill core => Sys2Proof.Machine.execEnergyRefill core s
  | .watchdogFiring gid => Sys2Proof.Machine.execWatchdogFiring gid s
  | .cedeApply req => Sys2Proof.Machine.execCedeApply req s
  | .replyArrival req => Sys2Proof.Machine.execReplyArrival req s
  | .homeAccess req => Sys2Proof.Machine.execHomeAccess req s
  | .feRetryResend req => Sys2Proof.Machine.execFeRetryResend req s
  | .bankUpdateArrival req => Sys2Proof.Machine.execBankUpdateArrival req s
  | .drain bank => Sys2Proof.Machine.execDrain bank s
  | .backgroundChecker die => Sys2Proof.Machine.execBackgroundChecker die s
  | .walkCrossing msg => Sys2Proof.Machine.execWalkCrossing msg s
  | .deferredFaultReport msg => Sys2Proof.Machine.execDeferredFaultReport msg s
  | .supervisorTrapService core => Sys2Proof.Machine.execSupervisorTrapService core s
  | .pageWalkComplete walk => Sys2Proof.Machine.execPageWalkComplete walk s
  | .walkFifoRetry walk => Sys2Proof.Machine.execWalkFifoRetry walk s
  | .copyStart core => Sys2Proof.Machine.execCopyStart core s
  | .copyCompletion copy => Sys2Proof.Machine.execCopyCompletion copy s
  | .streamerCompletion copy => Sys2Proof.Machine.execStreamerCompletion copy s
  | .userLevelInterrupt gid => Sys2Proof.Machine.execUserLevelInterrupt gid s
  | .messageArrival req => Sys2Proof.Machine.execMessageArrival req s
  | .continuationArrival req => Sys2Proof.Machine.execContinuationArrival req s
  | .messageResend req => Sys2Proof.Machine.execMessageResend req s
  | .flitRoute quad out => Sys2Proof.Machine.execFlitRoute quad out s
  | .packetUrgent req => Sys2Proof.Machine.execPacketUrgent req s
  | .driftWindow die => Sys2Proof.Machine.execDriftWindow die s
  | .bucketAdmit req => Sys2Proof.Machine.execBucketAdmit req s
  | .stealAttempt core => Sys2Proof.Machine.execStealAttempt core s
  | .postBufferDrain core => Sys2Proof.Machine.execPostBufferDrain core s
  | .iqSpillRefill queue => Sys2Proof.Machine.execIqSpillRefill queue s
  | .granuleMove die => Sys2Proof.Machine.execGranuleMove die s
  | .conversionComplete handle => Sys2Proof.Machine.execConversionComplete handle s
  | .conversionStop handle => Sys2Proof.Machine.execConversionStop handle s
  | .mmulComplete rect checksum => Sys2Proof.Machine.execMmulComplete rect checksum s
  | .sequencerStop rect => Sys2Proof.Machine.execSequencerStop rect s
  | .patrolScrub word => Sys2Proof.Machine.execPatrolScrub word s
  | .linkFlitError die => Sys2Proof.Machine.execLinkFlitError die s
  | .machineCheck core => Sys2Proof.Machine.execMachineCheck core s
  | .packageLoss pkg => Sys2Proof.Machine.execPackageLoss pkg s
  | .thermalAlarm die refill => Sys2Proof.Machine.execThermalAlarm die refill s
  | .monitorSample quad unit value => Sys2Proof.Machine.execMonitorSample quad unit value s
  | .arrangementAddApply req => Sys2Proof.Machine.execArrangementAddApply req s
  | .barrelIssue core => Sys2Proof.Machine.execBarrelIssue core s
  | .mloadComplete rect => Sys2Proof.Machine.execMloadComplete rect s
  | .postedReceiveExpiry core slot => Sys2Proof.Machine.execPostedReceiveExpiry core slot s
  | .registersWindowRead addr => Sys2Proof.Machine.execRegistersWindowRead addr s

end Sys2Proof.Machine
end

