-- ==== Sys2Proof/Machine/Schedule.lean ====
section
/-!
DEFINITION. Which step comes next (log 2): threads already selected to issue, then the agenda, and with neither the
machine's own next step. The spec leaves the interleaving open, so the agenda is data of the state that nothing constrains.
-/
namespace Sys2Proof.Machine

/-- Whether an instruction is a step of another agent, which no encoding names. -/
def isStep (i : Instr) : Bool := (fieldsOf i).isNone

/-- With nothing to come, a clock passes in which no agent acts (log 2). -/
def State.auto (s : State) : Out := .next s
/-- Clocks pass: the monitor units take the samples of the times passed, and the running matrix sequencers go on (12 R221; 16 R280; log
16). -/
def State.passes (s : State) (dt : Nat) : State :=
  if dt = 0 then s else { s.ticks ((s.clock + dt - 1) / 64) with clock := s.clock + dt }.sequencers

/-- Close or open the incremental queues whose producers' pauses, and what these release, have been seen (18 R322, R323). -/
def State.settleQueues : Nat → State → State
  | 0, s => s
  | fuel + 1, s => match s.iqDue with | some q => State.settleQueues fuel (s.iqSettleOne q.id) | none => s
/-- One step of the machine; after it queues close, and the parked operations that it woke complete (00 R9; 18 R322). -/
def stepWith (exec : Instr → State → Out) (s : State) : Out :=
  let o : Out := match s.issueQ with
    | g :: rest => issueWith exec g { s with issueQ := rest }
    | [] =>
      match s.agenda with
      | (dt, e) :: rest =>
        let s := { s with agenda := rest }.passes dt
        if isStep e then exec e s else .next s
      | [] => State.auto (s.passes 1)
  match o with
  | .next t => (t.settleQueues (t.iqs.length + 1)).resumeParked exec (t.threads.length + 1)
  | o => o

/-- The state in which the next step fetches and runs one given line's first head: what a load and a launch would have set
up, and the selection of slot 0 of core 0 to issue (log 2). -/
def State.placed (s : State) (l : Line) : State :=
  let g := s.gidOf 0 0
  let base := 4 * 2 ^ 60
  let part : Partition :=
    { num := 0, policy := 3, keys := [], roots := [], faultQ := none, recNum := 0, rates := [], buckets := [] }
  let dom : Domain :=
    { num := 0, stat := .reacting, fn := 0, part := 0, asid := 0, seed := 0, wdlim := 0, home := 0, sigOff := 0, sigs := [],
      inst := 1, inputs := [], outs := [], endWord := 0, endVal := 0, endTval := 0, code := [(base, 64)], forks := [], tidCtr := 1, largs := Vector.replicate 4 0,
      suspendTo := none, saveAt := none }
  let t := { Thread.fresh g s.nextUid 0 with pc := wd (base + 1) }
  let q := s.quad 0
  let e : Tlb := { asid := 0, sel := 4, va := 0, size := 65536, pa := 0, perm := 7 }
  { s with parts := putRec (·.num) part s.parts, domains := putRec (·.num) dom s.domains,
           threads := insertBy (·.gid) t (s.threads.filter (fun x => x.gid != g)),
           quads := putRec (·.key) { q with part := some 0, tlb := e :: q.tlb } s.quads,
           mem := s.mem.write (dramKey 0) (l.flatMap (bytesOf 2)), issueQ := [g] }

end Sys2Proof.Machine
end

