-- ==== Sys2Proof/Machine/Step.lean ====
section
/-!
DEFINITION. One step of the machine, and the state that runs one given instruction next.
-/
namespace Sys2Proof.Machine

/-- One step: the issue of a selected thread, or the next step of another agent (log 2). -/
def step (s : State) : Host.Outcome State Fault Refusal := stepWith exec s

/-- `s` with an instruction word placed as the first head of a line of its own, and its thread selected to issue. -/
def State.withFetchWord (s : State) (nbits w : Nat) : State := s.placed (lineOf (tableHead nbits w) (tableTail nbits w))

end Sys2Proof.Machine
end

