-- ==== Sys2Proof/Safety.lean ====
section
/-!
DEFINITION. The terms the statements use: the invariant of a state, what an observer reads of it, and the shapes in which
an issue changes it.
-/
namespace Sys2Proof.Machine

/-- The invariant of the state: memory is in canonical form. -/
def State.wf (s : State) : Bool := s.mem.wf

/-- The issue under way is that of thread `m`, which is listed, has not transferred control, maps no register on a queue
and is no gang follower; it has not yet begun to make accesses, as no issue has when `exec` is given it (`StepRunsDecoded`). -/
def State.issues (s : State) (m : Thread) : Prop :=
  s.thread? s.iss.gid = some m ∧ s.iss.jumped = false ∧ m.qmap = 0 ∧ s.iss.follow = none ∧ s.iss.plain = false

/-- The state `t` is `s` but for the record of thread `g`, which is now `m`. -/
def OnlyThread (s t : State) (g : Nat) (m : Thread) : Prop :=
  t = { s with threads := t.threads } ∧ t.thread? g = some m ∧ ∀ h, h ≠ g → t.thread? h = s.thread? h

/-- The issuing thread has gone on after writing `v` to register `d`, and nothing else has changed. -/
def Wrote (s t : State) (d : Reg) (v : Word) : Prop :=
  ∃ m, s.thread? s.iss.gid = some m ∧ OnlyThread s t s.iss.gid { m.setReg d.val v with pc := wd s.iss.succ }
/-- The same for predicate `p`. -/
def WroteP (s t : State) (p : PReg) (v : Bool) : Prop :=
  ∃ m, s.thread? s.iss.gid = some m ∧ OnlyThread s t s.iss.gid { m.setPred p.val v with pc := wd s.iss.succ }
/-- The issuing thread goes on, and nothing else has changed. -/
def WentOn (s t : State) : Prop :=
  ∃ m, s.thread? s.iss.gid = some m ∧ OnlyThread s t s.iss.gid { m with pc := wd s.iss.succ }
/-- The issuing thread goes on at `pc`, and nothing else has changed but the note of the transfer. -/
def WentTo (s t : State) (pc : Nat) : Prop :=
  ∃ m, s.thread? s.iss.gid = some m ∧
    OnlyThread { s with iss := { s.iss with jumped := true } } t s.iss.gid { m with pc := wd pc }

/-- Element `i` of width `w` of a word. -/
def el (w i : Nat) (x : Word) : Nat := x.toNat / 2 ^ (w * i) % 2 ^ w
/-- Element `i`, as an unsigned or a two's complement integer. -/
def elVal (u : Bool) (w i : Nat) (x : Word) : Int :=
  if u || decide (el w i x < 2 ^ (w - 1)) then (el w i x : Int) else (el w i x : Int) - 2 ^ w
/-- `i` answers a next state in which `d` holds a word whose element `j`, for each of the elements of width `w`, is `f j`
modulo 2^w, and nothing else has changed but the PC. -/
def Gives (i : Instr) (s : State) (d : Reg) (w : Nat) (f : Nat → Int) : Prop :=
  ∃ t v, exec i s = .next t ∧ Wrote s t d v ∧ ∀ j, j < 64 / w → (el w j v : Int) = f j % 2 ^ w
/-- `i` answers a next state in which `d` holds `v` and nothing else has changed but the PC. -/
def Puts (i : Instr) (s : State) (d : Reg) (v : Word) : Prop := ∃ t, exec i s = .next t ∧ Wrote s t d v
/-- The same for predicate `p`. -/
def PutsP (i : Instr) (s : State) (p : PReg) (v : Bool) : Prop := ∃ t, exec i s = .next t ∧ WroteP s t p v
/-- `i` answers a next state in which `f` has changed the issuing thread, which goes on, and nothing else has changed. -/
def Turns (i : Instr) (s : State) (f : Thread → Thread) : Prop :=
  ∃ t m, exec i s = .next t ∧ s.thread? s.iss.gid = some m ∧ OnlyThread s t s.iss.gid { f m with pc := wd s.iss.succ }

/-- The state `x` is `s` but for the issuing thread, now `n`, entry `k` of its domain `d`'s signals, now `e` with its words in
the table in memory, and the lists of cores and edges, now `cs` and `es`. -/
def Entered (s x : State) (d : Domain) (n : Thread) (k : Nat) (e : Sig) (cs : List Core) (es : List Edge) : Prop :=
  x = { s with threads := x.threads, cores := cs, edges := es, mem := x.mem,
               domains := s.domains.map fun d => if d.num = n.dom then { d with sigs := d.sigs.set k e } else d } ∧
  x.thread? s.iss.gid = some n ∧ (∀ h, h ≠ s.iss.gid → x.thread? h = s.thread? h) ∧
  ∀ a, x.mem.byte a = (d.tableMem k e s.mem).byte a
/-- The issuing thread `m` may act on signal `k` of its domain `d`; `e` is the entry in the current instant. -/
def State.signals (s : State) (m : Thread) (d : Domain) (op : SigOp) (k : Nat) (e : Sig) : Prop :=
  s.issues m ∧ s.iss.gid % 16 ≠ 15 ∧ s.domain? m.dom = some d ∧ s.sigNo op = k ∧ k < d.sigs.length ∧ s.mem.wf = true ∧
  e = (d.sigs.getD k Sig.none).bring d.inst (s.claimsOn m.dom k) []
/-- The state `t` is `x` but for the issuing thread, which was `m` and waits for an answer that quad `home` has sent it: `v`,
`v2` and `p`, which complete its instruction as `fin` says. -/
def RepliesAs (x t : State) (m : Thread) (op : ReqOp) (home v v2 : Nat) (p : Bool) (fin : Done) : Prop :=
  ∃ r : Req, r.id = x.nextId ∧ r.gid = m.gid ∧ r.uid = m.uid ∧ r.seq = m.seq ∧ r.op = op ∧ r.posted = false ∧ r.dom = m.dom ∧
    r.hop.cur = home ∧ r.hop.dst = gidQk x.iss.gid ∧ r.res = some { val := v, val2 := v2, pred := p, trap := none } ∧
    OnlyThread { x with reqs := x.reqs ++ [r], nextId := x.nextId + 1 } t x.iss.gid { m with
      pc := wd x.iss.pc, wait := some { why := .reply x.nextId, again := false, half := x.iss.half, fin := fin } }
def Replies (x t : State) (m : Thread) (home v v2 : Nat) (p : Bool) (fin : Done) : Prop := RepliesAs x t m .asked home v v2 p fin
/-- `i` has the effect that makes `x` of `s`, with the issuing thread then `m`, which waits for the answer `v` for register `d`. -/
def Answers (i : Instr) (s x : State) (m : Thread) (home v : Nat) (d : Reg) : Prop :=
  ∃ t, exec i s = .next t ∧ Replies x t m home v 0 false (s.doneTo d.val 0 0 8 false)

/-- The issuing thread is parked on an object of a die, with its wait edge where the die's table has room; every other
thread and all memory is as before. -/
def ParkedOn (s t : State) (m : Thread) (die obj ok : Nat) (fin : Done) : Prop :=
  t.thread? s.iss.gid = some { m with
    stat := .parked, pc := wd s.iss.pc, wait := some { why := .parked obj ok, again := false, half := s.iss.half, fin := fin } } ∧
  (∀ h, h ≠ s.iss.gid → t.thread? h = s.thread? h) ∧ t.mem = s.mem ∧ t.reqs = s.reqs ∧ t.iss = s.iss ∧
  ((s.freeEntry die).isSome = true →
    t.edges.any (fun e => e.die == die && e.obj == obj && e.ok == ok && e.ek == 0 && e.gid == s.iss.gid) = true)
/-- The issuing thread `m` leaves rotation until what it waits for is over; its instruction has had no effect. -/
def Retries (s t : State) (m : Thread) (why : Why) : Prop :=
  OnlyThread { s with iss := { s.iss with again := true } } t s.iss.gid { m with
    pc := wd s.iss.pc, wait := some { why := why, again := true, half := s.iss.half, fin := s.doneTo 0 0 0 8 false } }
/-- Nothing else turns on the end of thread `m`'s reaction: no parent waits for it in a `join`, its domain has no incremental
queue, and its core's store buffer is in order. -/
def State.unwatched (s : State) (m : Thread) : Prop :=
  s.bufferRoom 0 = true ∧ (∀ q ∈ s.iqs, q.dom ≠ m.dom) ∧ ∀ x ∈ s.threads, x.children.contains m.uid = true → x.wait = none

/-- A request of the issuing thread `m`, as it sets out: posted through the store buffer or not. -/
def Made (s : State) (m : Thread) (r : Req) (op : ReqOp) (k n va sc : Nat) (rel acq posted : Bool) : Prop :=
  r.id = s.nextId ∧ r.gid = m.gid ∧ r.uid = m.uid ∧ r.seq = m.seq ∧ r.op = op ∧ r.key = k ∧ r.len = n ∧ r.va = va ∧
  r.scope = sc ∧ r.rel = rel ∧ r.acq = acq ∧ r.posted = posted ∧ r.dom = m.dom ∧ r.part = s.myPart ∧ r.res = none ∧
  r.hop.cur = gidQk s.iss.gid ∧ r.hop.dst = (homeQuad k).getD (gidQk s.iss.gid)
/-- The issuing thread `m` has made a request and waits for its reply, which completes as `fin` says. -/
def Asked (s t : State) (m : Thread) (op : ReqOp) (k n va sc : Nat) (rel acq : Bool) (fin : Done) : Prop :=
  ∃ r, Made s m r op k n va sc rel acq false ∧
    OnlyThread { s with reqs := s.reqs ++ [r], nextId := s.nextId + 1 } t s.iss.gid { m with
      seq := m.seq + 1, pc := wd s.iss.pc,
      wait := some { why := .reply s.nextId, again := false, half := s.iss.half, fin := fin } }
/-- The issuing thread `m` has posted a request and goes on. -/
def PostedReq (s t : State) (m : Thread) (op : ReqOp) (k n va sc : Nat) (rel : Bool) : Prop :=
  ∃ r, Made s m r op k n va sc rel false true ∧
    OnlyThread { s with reqs := s.reqs ++ [r], nextId := s.nextId + 1 } t s.iss.gid
      { m with seq := m.seq + 1, pc := wd s.iss.succ }

/-- The word a load of `n` bytes of value `v` writes: zero-extended, or with `sx` sign-extended. -/
def extended (sx : Bool) (n v : Nat) : Word :=
  BitVec.ofInt 64 (if sx = true ∧ 2 ^ (8 * n - 1) ≤ v then (v : Int) - 2 ^ (8 * n) else v)
/-- No word near `n` bytes from `k`, in stacked memory none of the 16-byte granules they lie in, has a bad codeword, a barrier's waiter or a full/empty waiter. -/
def State.plainAt (s : State) (k n : Nat) : Prop :=
  let g := if (keyRegion k).isSome then 16 else 1
  ∀ w, w ∈ s.bad ∨ w ∈ s.soft ∨ w ∈ s.barWaits.map (·.word) ∨ w ∈ s.feWaits.map (·.word) →
    w + 8 ≤ k / g * g ∨ (k + n + g - 1) / g * g ≤ w
/-- `n` bytes at address `ea` are the issuing thread `m`'s own private memory, at key `k`, ordinary in the sense of
`plainAt`, and the thread has no access and no message under way. -/
def State.privateAt (s : State) (m : Thread) (ea n k : Nat) : Prop :=
  s.issues m ∧ ea + n ≤ 0x8000 ∧ s.owner (gidQk s.iss.gid) = some s.myPart ∧ s.pending m.uid = [] ∧
  (∀ x ∈ s.msgs, x.srcUid ≠ m.uid) ∧
  k = privKey (gidDie s.iss.gid) (gidQuad s.iss.gid) (gidCore s.iss.gid) ea ∧ s.plainAt k n
/-- The issuing thread goes on as `n` with the bytes `bs` written at `k`, and nothing else has changed but the marks of bad
codewords, which a word wholly written loses. -/
def Stored (s t : State) (n : Thread) (k : Nat) (bs : List Byte) : Prop :=
  OnlyThread { s with mem := s.mem.write k bs, bad := t.bad, soft := t.soft } t s.iss.gid { n with pc := wd s.iss.succ }

/-- The state `t` is `s` but for memory, the marks of bad codewords, what the monitor units of the home's quad that sample its slices
have counted (12 R221), and request `r`, which now carries the answer `x` toward its thread. -/
def Answered (s t : State) (r : Req) (mem : Memory) (x : Res) : Prop :=
  t = { s.sliceSeen r with mem := mem, bad := t.bad, soft := t.soft, reqs := s.reqs.map fun q => if q.id = r.id then
    { q with res := some x, hop := { q.hop with cur := q.hop.dst, dst := gidQk q.gid, mid := none, chan := 1, port := .here,
                                                since := s.clock, age := 0, urgent := false } }
    else q }
/-- Request `r` stands at its home and may be performed there, alone; the words it reaches are ordinary, and its thread has
no plain store under way. -/
def State.atHome (s : State) (r : Req) (n : Nat) : Prop :=
  s.reqs.find? (·.id == r.id) = some r ∧ s.mayPerform r = true ∧ r.comb = [] ∧ s.plainAt r.key n ∧
  ∀ x ∈ s.reqs, x.uid = r.uid → match x.op with | .store _ _ | .zero _ => False | _ => True

/-- The 256 bits of a register group, and element `j` of width `w` of it. -/
def Thread.groupOf (m : Thread) (r : Nat) : Nat :=
  (m.reg r).toNat + 2 ^ 64 * (m.reg (r + 1)).toNat + 2 ^ 128 * (m.reg (r + 2)).toNat + 2 ^ 192 * (m.reg (r + 3)).toNat
def Thread.vel (m : Thread) (w : Nat) (r : Reg) (j : Nat) : Nat := m.groupOf r.val / 2 ^ (w * j) % 2 ^ w
/-- The state `t` is `s` but for the issuing thread, which has gone on as `n`, and the issuer's core, whose energy budget has
fallen by `units`. -/
def Charged (s t : State) (n : Thread) (units : Nat) : Prop :=
  t = { s with threads := t.threads, cores := t.cores } ∧ t.thread? s.iss.gid = some { n with pc := wd s.iss.succ } ∧
  (∀ h, h ≠ s.iss.gid → t.thread? h = s.thread? h) ∧
  t.core s.myCore = { s.core s.myCore with budget := (s.core s.myCore).budget - units } ∧
  ∀ k, k ≠ s.myCore → t.core k = s.core k
/-- `i` answers a next state in which group `d` holds the `k` elements `f j` of width `w` and zeros above them, `units` are
charged and `draws` blocks of the thread's random stream are spent; nothing else has changed but the PC. -/
def VGives (i : Instr) (s : State) (m : Thread) (d : Reg) (w k units draws : Nat) (f : Nat → Nat) : Prop :=
  ∃ t v, exec i s = .next t ∧ v < 2 ^ (w * k) ∧ (∀ j, j < k → v / 2 ^ (w * j) % 2 ^ w = f j % 2 ^ w) ∧
    Charged s t { m.setGroup d.val v with sqCtr := (m.sqCtr + draws) % 2 ^ 128 } units
/-- `i` answers a next state in which `d` holds `v` and `units` are charged; nothing else has changed but the PC. -/
def RGives (i : Instr) (s : State) (m : Thread) (d : Reg) (units : Nat) (v : Nat) : Prop :=
  ∃ t, exec i s = .next t ∧ Charged s t (m.setReg d.val (wd v)) units
/-- The issuing thread `m` may run class V operations in register mode with format code `f` of `fmt`. -/
def State.vectors (s : State) (m : Thread) (fmt : Fin 16) (f : Nat) : Prop :=
  s.issues m ∧ m.sqCtr < 2 ^ 128 ∧ f = if fmt.val = 15 then m.shFmt.toNat % 32 else fmt.val

/-- The 64 bytes `raw` are the record at address `va` as the issuing thread `m` meets it: the entry that its core holds for it, or
else its own private memory; no write that was admitted at a granule is on its way. -/
def State.recorded (s : State) (m : Thread) (va raw : Nat) : Prop :=
  (∀ r ∈ s.reqs, r.adm = none) ∧
    ((∃ e, (s.core s.myCore).handles.find? (fun e => e.1 == m.dom && e.2.1 == va) = some e ∧ e.2.2 = raw) ∨
     ((s.core s.myCore).handles.find? (fun e => e.1 == m.dom && e.2.1 == va) = none ∧
      ∃ k, va % 64 = 0 ∧ s.privateAt m va 64 k ∧ raw = s.readN k 64))
/-- `h` is the handle in the record at address `va` of the issuing thread `m`; it is valid. -/
def State.named (s : State) (m : Thread) (va : Nat) (h : Handle) : Prop :=
  h.valid = true ∧ ∃ raw, h = Handle.of va raw (m.shFmt.toNat % 32) ∧ s.recorded m va raw
/-- The same where no conversion of it is under way, and its storage, of a layout `row`, `col`, `t8` or `t32`, is the thread's
own private memory from key `q`. -/
def State.tensor (s : State) (m : Thread) (va : Nat) (h : Handle) (q : Nat) : Prop :=
  s.named m va h ∧ h.conv = 0 ∧ h.ch = false ∧ h.lay < 4 ∧ s.privateAt m h.base h.foot q
/-- The key of an element of whole bytes in storage that begins at `q`, and the element there. -/
def elKey (h : Handle) (q : Nat) (i : Ix) : Nat := q + (h.loc i).2 / 8
def State.elAt (s : State) (h : Handle) (q : Nat) (i : Ix) : Nat := s.readN (elKey h q i) (h.w / 8)
/-- Memory with elements written in order. -/
def Memory.withEls (μ : Memory) (h : Handle) (q : Nat) (l : List (Ix × Nat)) : Memory :=
  l.foldl (fun μ e => μ.write (elKey h q e.1) (bytesOf (h.w / 8) e.2)) μ
/-- The state `t` is `s` but for memory, the marks of bad codewords, the issuing thread, which is now `n`, the handle entries
that cores hold, and `units` of the issuer's core's energy budget. -/
def Looked (s t : State) (mem : Memory) (n : Thread) (units : Nat) : Prop :=
  t = { s with threads := t.threads, cores := t.cores, mem := mem, bad := t.bad, soft := t.soft,
               iss := { s.iss with plain := t.iss.plain, puts := t.iss.puts } } ∧
  t.thread? s.iss.gid = some n ∧ (∀ g, g ≠ s.iss.gid → t.thread? g = s.thread? g) ∧
  ∀ k, t.core k = { s.core k with
    handles := (t.core k).handles, budget := (s.core k).budget - if k = s.myCore then (units : Int) else 0 }
/-- The chunk that a handle-mode issue of `m` runs next, and what it has gathered. -/
def Thread.chunk (m : Thread) : Nat × List Nat := match m.stream with | some x => (x.chunk, x.acc) | none => (0, [])
/-- The thread `m` after chunk `c` of `total`, with `acc` gathered: `n` with its PC at the next instruction after the last one. -/
def Thread.after (m n : Thread) (succ c total : Nat) (acc : List Nat) : Thread :=
  if total ≤ c + 1 then { n with stream := none, pc := wd succ }
  else
    let blank : Stream := { instr := .nop, head := 0, next := 0, half := false, chunk := 0, acc := [], regs := Vector.replicate 32 0, pops := [],
                             ctr := m.sqCtr }
    { m with stream := some { m.stream.getD blank with chunk := c + 1, acc := acc } }
/-- `ins`, in handle mode on the tensors `hd` and `hs` at the keys `qd` and `qs`, runs its next chunk: the elements `g` of the
elements read are written, and the whole charge falls with the first chunk. -/
def HGives (ins : Instr) (s : State) (m : Thread) (hd : Handle) (qd : Nat) (hs : List (Handle × Nat)) (unit : Nat)
    (g : List Nat → Nat) : Prop :=
  let per := 256 / hd.w
  let total := cdiv hd.n per
  let c := m.chunk.1
  ∃ t, exec ins s = .next t ∧
    Looked s t (s.mem.withEls hd qd ((chunkIx hd.ext per c).map fun i => (i, g (hs.map fun x => s.elAt x.1 x.2 (x.1.under i)))))
      (m.after m s.iss.succ c total []) (if c = 0 then unit * total else 0)
/-- Element 0 of the group at 16 after `ins`, issued by `m` with the elements `xs` as element 0 of the groups at 4, 8 and 12:
what the register form of an element-wise operation makes of them. -/
def State.viaGroups (s : State) (m : Thread) (ins : Instr) (w : Nat) (xs : List Nat) : Nat :=
  let n := ((m.setGroup 4 (xs.getD 0 0)).setGroup 8 (xs.getD 1 0)).setGroup 12 (xs.getD 2 0)
  match exec ins (s.modMe fun _ => n) with
  | .next t => (t.thread s.iss.gid).groupOf 16 % 2 ^ w
  | _ => 0
/-- `ins`, in handle mode on the tensors `hs` at the keys `qs`, runs its next chunk: what `el` makes of the elements read is
gathered, and after the last chunk `d` holds `fin` of all of it; the whole charge falls with the first chunk. -/
def HFolds (ins : Instr) (s : State) (m : Thread) (d : Reg) (ext : Ix) (w : Nat) (hs : List (Handle × Nat)) (unit : Nat)
    (el : List Nat → Nat) (fin : List Nat → Nat) : Prop :=
  let per := 256 / w
  let total := cdiv (shapeN ext) per
  let c := m.chunk.1
  let acc := m.chunk.2 ++ (chunkIx ext per c).map fun i => el (hs.map fun x => s.elAt x.1 x.2 (x.1.under i))
  ∃ t, exec ins s = .next t ∧
    Looked s t s.mem (m.after (m.setReg d.val (BitVec.ofNat 64 (fin acc))) s.iss.succ c total acc) (if c = 0 then unit * total else 0)
/-- The issuing thread `m` stands on the rectangle `r`, which is the only one of its number, and may use it. -/
def State.onRectangle (s : State) (m : Thread) (r : Rect) : Prop :=
  s.issues m ∧ s.iss.gid % 16 ≠ 15 ∧ (m.handler = true → r.st ≠ 2) ∧ s.inGang = false ∧
  s.rects.find? (fun x => x.dom == m.dom && !x.orphan && qk x.die x.quad * 4 == s.myCore) = some r ∧ ∀ x ∈ s.rects, x.id = r.id → x = r
/-- The rectangles with the one numbered as `r` now `r`. -/
def State.rectsWith (s : State) (r : Rect) : List Rect := s.rects.map fun x => if x.id = r.id then r else x
/-- The issuing thread `m` has handed `op` to the sequencer of `r`, which now stands as `r'`, and waits for its result in `d`. -/
def Sequenced (s t : State) (m : Thread) (r' : Rect) (op : MatOp) (d : Reg) : Prop :=
  Looked { s with rects := s.rectsWith { r' with queue := r'.queue ++ [(s.iss.gid, m.uid, op)] } } t s.mem { m with
    pc := wd s.iss.pc, wait := some { why := .matrix r'.id, again := false, half := s.iss.half, fin := s.doneTo d.val 0 0 8 false } } 0
/-- Thread `n`, whose instruction was to write `d` and go on at `succ`, has completed it with `v`. -/
def Thread.completed (n : Thread) (v : Nat) : Thread :=
  match n.wait with
  | some w => { n.setReg w.fin.d (BitVec.ofNat 64 v) with wait := none, stat := .running, pc := wd w.fin.succ }
  | none => n
/-- Thread `n` waits for an instruction that writes one unmapped register. -/
def Thread.waitsOne (n : Thread) : Prop :=
  n.qmap = 0 ∧ ∃ w, n.wait = some w ∧ w.fin.d2 = 0 ∧ w.fin.pd = 0 ∧ w.fin.width = 8 ∧ w.fin.sext = false
/-- The state `t` is `s` but for the issuing thread, which is now `n`, and core `k`, which is now `c`. -/
def CoreTo (s t : State) (n : Thread) (k : Nat) (c : Core) : Prop :=
  t = { s with threads := t.threads, cores := t.cores } ∧ t.thread? s.iss.gid = some n ∧
  (∀ g, g ≠ s.iss.gid → t.thread? g = s.thread? g) ∧ t.core k = c ∧ ∀ j, j ≠ k → t.core j = s.core j
/-- The issuing thread has entered a message in its core's send buffer and gone on as `n`. -/
def Sent (s t : State) (m n : Thread) (hdr : Nat) (words : List Nat) : Prop :=
  ∃ x : Msg, x.id = s.nextId ∧ x.flit = { hdr := hdr, words := words, src := m.gid, dom := m.dom } ∧ x.seq = m.seq ∧
    x.srcUid = m.uid ∧ x.resendAt = 0 ∧ x.ldc = none ∧ x.hop.cur = gidQk s.iss.gid ∧
    x.hop.dst = (if gidPkg hdr = s.pkg then gidQk (hdr % 2 ^ 30) else gidQk s.iss.gid) ∧
    OnlyThread { s with msgs := s.msgs ++ [x], nextId := s.nextId + 1 } t s.iss.gid
      { n with seq := m.seq + 1, pc := wd s.iss.succ }
/-- No access of an engine is charged or counted: no partition has token rates, and no monitor unit that is on samples DRAM accesses. -/
def State.uncharged (s : State) : Prop := (∀ p ∈ s.parts, p.rates = []) ∧ ∀ q ∈ s.quads, ∀ x ∈ q.mons, x.on = true → x.src ≠ 3
/-- The page of a function has `c` as its oldest command not yet performed: a well-formed one of code `code`, on the current
generation, from a function that may give it; its command core takes commands. -/
def State.hasDue (s : State) (fn page code : Nat) (c : Cmd) : Prop :=
  (s.page fn page).due = some c ∧ c.code = code ∧ c.wellFormed = true ∧
  (s.core (cmdCore (s.page fn page).die)).halted = false ∧ (code = 1 ∨ c.gen = (s.page fn page).gen) ∧
  (pfOnly code = true → fn = 0)
/-- The oldest command of the page, performed in `u`, has come to a result and two values. -/
def State.resulted (u : State) (fn page r v0 v1 : Nat) : Host.Outcome State Fault Refusal :=
  .next (u.setPage { u.page fn page with cmds := setResult (r, v0, v1) (u.page fn page).cmds })

end Sys2Proof.Machine
end

