-- ==== Sys2Proof/Certificates/Slice0/Obligations.lean ====
section
/-!
DEFINITION. The statements for the provers. Each names the rules of spec/ it formalises. A clause that rests on a choice of
the model says so and names its log entry. A statement of several parts is the conjunction of clauses that stand before it.
-/
open Sys2Proof Sys2Proof.Machine


/-- 05 R101: each element of `add`, `sub`, `mul`, `mulh`, `min`, `max`, `abs` and `mad`, and the sum of `addi`. -/
def Sys2Proof.Clause.IntegerElements : Prop :=
  ∀ (s : State) (m : Thread) (d a b c : Reg) (u : Bool) (w : ElW) (imm : BitVec 32), s.issues m →
    let n := elBits w
    let x := fun i => elVal u n i (m.reg a.val)
    let y := fun i => elVal u n i (m.reg b.val)
    let z := fun i => elVal u n i (m.reg c.val)
    Gives (.add d a b w) s d n (fun i => x i + y i) ∧
    Gives (.sub d a b w) s d n (fun i => x i - y i) ∧
    Gives (.mul d a b w) s d n (fun i => x i * y i) ∧
    Gives (.mulh d a b u w) s d n (fun i => x i * y i / 2 ^ n) ∧
    Gives (.min d a b u w) s d n (fun i => if y i < x i then y i else x i) ∧
    Gives (.max d a b u w) s d n (fun i => if x i < y i then y i else x i) ∧
    Gives (.abs d a w) s d n (fun i => |elVal false n i (m.reg a.val)|) ∧
    Gives (.mad d a b c w) s d n (fun i => x i * y i + z i) ∧
    Puts (.addi d a imm) s d (m.reg a.val + BitVec.signExtend 64 imm)

/-- 05 R104: each element of the four shifts, by a register's elements and by one immediate amount. -/
def Sys2Proof.Clause.ShiftElements : Prop :=
  ∀ (s : State) (m : Thread) (d a b : Reg) (w : ElW) (imm : BitVec 32), s.issues m →
    let n := elBits w
    let x := fun i => el n i (m.reg a.val)
    let shl := fun i k => if n ≤ k then 0 else ((x i * 2 ^ k : Nat) : Int)
    let shr := fun i k => if n ≤ k then 0 else ((x i / 2 ^ k : Nat) : Int)
    let sar := fun i k => elVal false n i (m.reg a.val) / 2 ^ k
    let rol := fun i k => ((x i * 2 ^ (k % n) + x i / 2 ^ (n - k % n) : Nat) : Int)
    let k := fun i => el n i (m.reg b.val)
    Gives (.shl d a b w) s d n (fun i => shl i (k i)) ∧ Gives (.shlImm d a w imm) s d n (fun i => shl i imm.toNat) ∧
    Gives (.shr d a b w) s d n (fun i => shr i (k i)) ∧ Gives (.shrImm d a w imm) s d n (fun i => shr i imm.toNat) ∧
    Gives (.sar d a b w) s d n (fun i => sar i (k i)) ∧ Gives (.sarImm d a w imm) s d n (fun i => sar i imm.toNat) ∧
    Gives (.rol d a b w) s d n (fun i => rol i (k i)) ∧ Gives (.rolImm d a w imm) s d n (fun i => rol i imm.toNat)

/-- 05 R103, R105, R106: logic on 64 bits, bit counts and reversal, and bit fields, bit by bit. -/
def Sys2Proof.Clause.BitResults : Prop :=
  ∀ (s : State) (m : Thread) (d a b : Reg) (pos : Fin 64) (e : Fin 128), s.issues m →
    let x := m.reg a.val
    let y := m.reg b.val
    Puts (.and d a b) s d (x &&& y) ∧ Puts (.or d a b) s d (x ||| y) ∧ Puts (.xor d a b) s d (x ^^^ y) ∧
    Puts (.andn d a b) s d (x &&& ~~~y) ∧ Puts (.orn d a b) s d (x ||| ~~~y) ∧
    (∃ v : Nat, Puts (.clz d a) s d (BitVec.ofNat 64 v) ∧ v ≤ 64 ∧ (∀ k, 64 - v ≤ k → x.getLsbD k = false) ∧
      (v < 64 → x.getLsbD (63 - v) = true)) ∧
    (∃ v : Nat, Puts (.ctz d a) s d (BitVec.ofNat 64 v) ∧ v ≤ 64 ∧ (∀ k, k < v → x.getLsbD k = false) ∧
      (v < 64 → x.getLsbD v = true)) ∧
    Puts (.popc d a) s d (BitVec.ofNat 64 ((List.range 64).countP fun k => x.getLsbD k)) ∧
    (∃ v : Word, Puts (.brev d a) s d v ∧ ∀ k, k < 64 → v.getLsbD k = x.getLsbD (63 - k)) ∧
    (1 ≤ e.val → pos.val + e.val ≤ 64 →
      (∃ v : Word, Puts (.bfx d a pos e 0) s d v ∧
        ∀ k, k < 64 → v.getLsbD k = if k < e.val then x.getLsbD (pos.val + k) else false) ∧
      (∃ v : Word, Puts (.bfx d a pos e 1) s d v ∧
        ∀ k, k < 64 → v.getLsbD k = x.getLsbD (pos.val + min k (e.val - 1))) ∧
      (∃ v : Word, Puts (.bfi d a pos e) s d v ∧
        ∀ k, k < 64 → v.getLsbD k =
          if pos.val ≤ k ∧ k < pos.val + e.val then x.getLsbD (k - pos.val) else (m.reg d.val).getLsbD k))

/-- Element-wise integer arithmetic, shifts, logic and bit operations: the clauses named. -/
def Obligations.IntegerResults : Prop :=
  Clause.IntegerElements ∧ Clause.ShiftElements ∧ Clause.BitResults

/-- 05 R102: the quotient goes toward zero and the remainder has the sign of the dividend; by zero they are all ones and
the dividend; the most negative element by -1 is itself with remainder 0, which the general formula gives modulo 2^w.
Neither case traps. -/
def Obligations.DivisionElements : Prop :=
  ∀ (s : State) (m : Thread) (d a b : Reg) (u : Bool) (w : ElW), s.issues m →
    let n := elBits w
    let x := fun i => elVal u n i (m.reg a.val)
    let y := fun i => elVal u n i (m.reg b.val)
    Gives (.div d a b u w) s d n (fun i => if y i = 0 then -1 else (x i).tdiv (y i)) ∧
    Gives (.rem d a b u w) s d n (fun i => if y i = 0 then x i else x i - y i * (x i).tdiv (y i))

/-- 05 R107: compares, select and predicate logic. -/
def Sys2Proof.Clause.CompareResults : Prop :=
  ∀ (s : State) (m : Thread) (pd pa pb pc : PReg) (d a b : Reg) (imm : BitVec 32), s.issues m →
    let x := m.reg a.val
    let i := BitVec.signExtend 64 imm
    let cc := fun (c : Nat) (x y : Word) =>
      match c with
      | 0 => decide (x = y) | 1 => decide (x ≠ y)
      | 2 => decide (x.toInt < y.toInt) | 3 => decide (x.toInt ≤ y.toInt)
      | 4 => decide (y.toInt < x.toInt) | 5 => decide (y.toInt ≤ x.toInt)
      | 6 => decide (x.toNat < y.toNat) | 7 => decide (x.toNat ≤ y.toNat)
      | 8 => decide (y.toNat < x.toNat) | _ => decide (y.toNat ≤ x.toNat)
    (∀ c : Fin 64, c.val < 10 → PutsP (.cmp pd a b c) s pd (cc c.val x (m.reg b.val)) ∧
      PutsP (.cmpi pd a c imm) s pd (cc c.val x i)) ∧
    Puts (.sel d pc a b) s d (if m.pred pc.val then x else m.reg b.val) ∧
    PutsP (.plog pd pa pb 0) s pd (m.pred pa.val && m.pred pb.val) ∧
    PutsP (.plog pd pa pb 1) s pd (m.pred pa.val || m.pred pb.val) ∧
    PutsP (.plog pd pa pb 2) s pd (xor (m.pred pa.val) (m.pred pb.val)) ∧
    PutsP (.plog pd pa pb 3) s pd (m.pred pa.val && !m.pred pb.val) ∧
    PutsP (.plog pd pa pb 4) s pd (m.pred pa.val || !m.pred pb.val) ∧
    PutsP (.plog pd pa pb 5) s pd (!m.pred pa.val)

/-- 05 R108 to R111: moves, addresses and extensions. -/
def Sys2Proof.Clause.MoveResults : Prop :=
  ∀ (s : State) (m : Thread) (d a b : Reg) (pa pd : PReg) (w : ElW) (sh : Fin 64) (imm : BitVec 32), s.issues m →
    let x := m.reg a.val
    Puts (.movi d imm) s d (BitVec.signExtend 64 imm) ∧ Puts (.moviZx d imm) s d (BitVec.zeroExtend 64 imm) ∧
    Puts (.moviHi d imm) s d (imm ++ (m.reg d.val).extractLsb' 0 32) ∧ Puts (.mov d a) s d x ∧
    Puts (.movFromSpecial d 2) s d m.shFmt ∧ Puts (.movFromSpecial d 3) s d m.shScl ∧
    (∀ k : Fin 4, Puts (.movFromSpecial d ⟨4 + k.val, by omega⟩) s d (m.args.get k)) ∧
    Puts (.movFromSpecial d 8) s d (BitVec.ofNat 64 m.dom) ∧ Puts (.movFromSpecial d 9) s d (BitVec.ofNat 64 m.tidNo) ∧
    Puts (.movFromPred d pa) s d (if m.pred pa.val then 1 else 0) ∧ PutsP (.movToPred pd a) s pd (decide (x ≠ 0)) ∧
    Puts (.lea d a b sh imm) s d (x + m.reg b.val * BitVec.ofNat 64 (2 ^ sh.val) + BitVec.signExtend 64 imm) ∧
    Puts (.sext d a w) s d (BitVec.signExtend 64 (x.setWidth (elBits w))) ∧
    Puts (.zext d a w) s d (BitVec.zeroExtend 64 (x.setWidth (elBits w)))

/-- Compares, selects, predicate logic and moves: the clauses named. -/
def Obligations.ComparesAndMoves : Prop :=
  Clause.CompareResults ∧ Clause.MoveResults

/-- 05 R112, R113: an FP32 sum, product or fused product is the exact value rounded once in the mode of `rm`, and a
conversion rounds or truncates once; `sto` rounds by the thread's next squall block, which it spends (14 R243). -/
def Sys2Proof.Clause.FloatResults : Prop :=
  ∀ (s : State) (m : Thread) (d a b c : Reg) (rm op : Fin 64), s.issues m → rm.val < 5 → op.val < 6 →
    let mode := Rm.ofCode rm.val
    let x := f32 (m.reg a.val).toNat
    let y := f32 (m.reg b.val).toNat
    let z := f32 (m.reg c.val).toNat
    let spend := fun (t : Thread) => if rm.val = 4 then { t with sqCtr := (t.sqCtr + 1) % 2 ^ 128 } else t
    let draw := drawAt m.sqKey ((m.stream.map (·.ctr)).getD m.sqCtr) 0
    let out := fun (v : FV) (t : Thread) => (spend t).setReg d.val (BitVec.ofNat 64 (fencode 8 mode false draw v))
    Turns (.fadd d a b rm) s (out (x.add mode y)) ∧ Turns (.fmul d a b rm) s (out (x.mul y)) ∧
    Turns (.ffma d a b c rm) s (out (FV.fma mode x y z)) ∧
    Puts (.cvti d a op) s d (BitVec.ofNat 64 (cvtiOp op.val (m.reg a.val).toNat))

/-- 05 R113: any NaN operand, and infinity less infinity, and zero times infinity, give 0x7FC0_0000 in every mode, and
every result is zero-extended. -/
def Sys2Proof.Clause.FloatSpecialCases : Prop :=
  ∀ (s : State) (m : Thread) (d a b c : Reg) (rm : Fin 64), s.issues m → rm.val < 4 →
    let x := (m.reg a.val).toNat % 2 ^ 32
    let y := (m.reg b.val).toNat % 2 ^ 32
    let z := (m.reg c.val).toNat % 2 ^ 32
    let nan := fun (v : Nat) => 0x7F800000 < v % 2 ^ 31
    let inf := fun (v : Nat) => v % 2 ^ 31 = 0x7F800000
    let zero := fun (v : Nat) => v % 2 ^ 31 = 0
    let q := BitVec.ofNat 64 0x7FC00000
    (nan x ∨ nan y ∨ (inf x ∧ inf y ∧ x ≠ y) → Puts (.fadd d a b rm) s d q) ∧
    (nan x ∨ nan y ∨ (inf x ∧ zero y) ∨ (zero x ∧ inf y) → Puts (.fmul d a b rm) s d q) ∧
    (nan x ∨ nan y ∨ nan z ∨ (inf x ∧ zero y) ∨ (zero x ∧ inf y) → Puts (.ffma d a b c rm) s d q) ∧
    (∃ v : BitVec 32, Puts (.fadd d a b rm) s d (v.setWidth 64)) ∧ (∃ v : BitVec 32, Puts (.fmul d a b rm) s d (v.setWidth 64)) ∧
    (∃ v : BitVec 32, Puts (.ffma d a b c rm) s d (v.setWidth 64))

/-- 14 R238, R239: a code that is no NaN, decoded and rounded again in any mode, is itself; formats FP32, FP16 and BF16. -/
def Sys2Proof.Clause.FloatRoundTrip : Prop :=
  ∀ (f x draw : Nat) (mode : Rm), f = 8 ∨ f = 9 ∨ f = 10 → x < 2 ^ fmtWidth f → (fdecode f x).isNaN = false →
    fencode f mode false draw (fdecode f x) = x

/-- Scalar float operations round the exact result once, with their special cases: the clauses named. -/
def Obligations.FloatArithmetic : Prop :=
  Clause.FloatResults ∧ Clause.FloatSpecialCases ∧ Clause.FloatRoundTrip

/-- 05 R114: the float compares; a NaN on either side makes the pair unordered, and the two zeros are equal; codes
8 to 63 are not well formed, so they are illegal opcode. -/
def Obligations.FloatCompares : Prop :=
  ∀ (s : State) (m : Thread) (pd : PReg) (a b : Reg) (c : Fin 64), s.issues m →
    let x := (m.reg a.val).toNat % 2 ^ 32
    let y := (m.reg b.val).toNat % 2 ^ 32
    let nan := fun (v : Nat) => decide (0x7F800000 < v % 2 ^ 31)
    let key := fun (v : Nat) => if v < 2 ^ 31 then (v : Int) else -(v % 2 ^ 31 : Nat)
    let un := nan x || nan y
    opcodeOf (.fcmp pd a b c) = 0x3F ∧ (8 ≤ c.val → wellFormed (.fcmp pd a b c) = false) ∧ (c.val < 8 → PutsP (.fcmp pd a b c) s pd
      (match c.val with
       | 0 => !un && decide (key x = key y) | 1 => un || decide (key x ≠ key y)
       | 2 => !un && decide (key x < key y) | 3 => !un && decide (key x ≤ key y)
       | 4 => !un && decide (key y < key x) | 5 => !un && decide (key y ≤ key x)
       | 6 => un | _ => !un))

/-- 05 R85: g0 and p0 are hard-wired, every other register keeps what is written and no write touches another. -/
def Sys2Proof.Clause.RegisterFile : Prop :=
  ∀ (t : Thread) (r q : Fin 32) (p o : Fin 8) (v : Word) (b : Bool),
    t.reg 0 = 0 ∧ t.setReg 0 v = t ∧ (r ≠ 0 → (t.setReg r.val v).reg r.val = v) ∧
    (q ≠ r → (t.setReg r.val v).reg q.val = t.reg q.val) ∧ (t.setReg r.val v).preds = t.preds ∧
    t.pred 0 = true ∧ t.setPred 0 b = t ∧ (p ≠ 0 → (t.setPred p.val b).pred p.val = b) ∧
    (o ≠ p → (t.setPred p.val b).pred o.val = t.pred o.val) ∧ (t.setPred p.val b).regs = t.regs

/-- 20 R353: while `qmap` is in force a destination of 28 to 31 is pushed on that queue of the issuer's core, and no register
of the thread is written. Stated of `mov` from an unmapped register. -/
def Sys2Proof.Clause.MappedDestination : Prop :=
  ∀ (s : State) (m : Thread) (d a : Reg), s.thread? s.iss.gid = some m → s.iss.jumped = false → m.qmap ≠ 0 →
    28 ≤ d.val → a.val < 28 →
    ∃ t, exec (.mov d a) s = .next t ∧
      t = { s with threads := t.threads, cores := t.cores } ∧ t.thread? s.iss.gid = some { m with pc := wd s.iss.succ } ∧
      (∀ h, h ≠ s.iss.gid → t.thread? h = s.thread? h) ∧
      (t.core s.myCore).hwq.toList.getD (d.val - 28) [] =
        (s.core s.myCore).hwq.toList.getD (d.val - 28) [] ++ [m.reg a.val] ∧
      (∀ n, n ≠ d.val - 28 → (t.core s.myCore).hwq.toList.getD n [] = (s.core s.myCore).hwq.toList.getD n []) ∧
      ∀ k, k ≠ s.myCore → t.core k = s.core k

/-- Register 0 and predicate 0 are hard-wired; a mapped destination is a queue: the clauses named. -/
def Obligations.RegisterFiles : Prop :=
  Clause.RegisterFile ∧ Clause.MappedDestination

/-- 05 R88 to R90: a taken transfer to a legal target goes there, one not taken goes on; `call` writes the return address and
`loop` the count. The target of the relative forms is the line's address plus the displacement plus the slot. A target in the
image whose line has no translation is waited for (11 R208). -/
def Sys2Proof.Clause.Transfers : Prop :=
  ∀ (s : State) (m : Thread) (d a b : Reg) (e : Fin 128) (slot : Fin 64) (imm : BitVec 32), s.issues m →
    let line : Word := BitVec.ofNat 64 (s.iss.pc / 64 * 64)
    let dest := (line + BitVec.signExtend 64 imm + BitVec.ofNat 64 slot.val).toNat
    let reachable := fun (pc : Nat) => s.targetOk s.iss.gid pc = true ∧ s.targetMiss s.iss.gid pc = none
    let form := imm.toNat % 64 = 0 ∧ 1 ≤ slot.val ∧ slot.val ≤ 31
    let legal := form ∧ reachable dest
    let x := m.reg a.val
    let y := m.reg b.val
    let holds := match e.val with
      | 0 => x = y | 1 => x ≠ y | 2 => x.toInt < y.toInt | 3 => x.toInt ≤ y.toInt | 4 => y.toInt < x.toInt
      | 5 => y.toInt ≤ x.toInt | 6 => x.toNat < y.toNat | 7 => x.toNat ≤ y.toNat | 8 => y.toNat < x.toNat
      | _ => y.toNat ≤ x.toNat
    let moved := { s with iss := { s.iss with jumped := true } }
    let left := m.reg d.val - 1
    (∃ t, exec .nop s = .next t ∧ WentOn s t) ∧
    (legal → ∃ t, exec (.br slot imm) s = .next t ∧ WentTo s t dest) ∧
    (e.val < 10 → holds → legal → ∃ t, exec (.brc e a b slot imm) s = .next t ∧ WentTo s t dest) ∧
    (e.val < 10 → ¬holds → ∃ t, exec (.brc e a b slot imm) s = .next t ∧ WentOn s t) ∧
    (reachable x.toNat → ∃ t, exec (.brr a) s = .next t ∧ WentTo s t x.toNat) ∧
    (reachable x.toNat → ∃ t, exec (.ret a) s = .next t ∧ WentTo s t x.toNat) ∧
    (legal → ∃ t, exec (.call d slot imm) s = .next t ∧
      OnlyThread moved t s.iss.gid { m.setReg d.val (wd s.iss.succ) with pc := wd dest }) ∧
    (left ≠ 0 → legal → ∃ t, exec (.loop d slot imm) s = .next t ∧
      OnlyThread moved t s.iss.gid { m.setReg d.val left with pc := wd dest }) ∧
    (left = 0 → ∃ t, exec (.loop d slot imm) s = .next t ∧ Wrote s t d left) ∧
    (∀ k, form → s.targetMiss s.iss.gid dest = some k → exec (.br slot imm) s = .next (s.waitWalk 4 4 (k % 2 ^ 48) k)) ∧
    (∀ k, s.targetMiss s.iss.gid x.toNat = some k → exec (.brr a) s = .next (s.waitWalk 4 4 (k % 2 ^ 48) k) ∧
      exec (.ret a) s = .next (s.waitWalk 4 4 (k % 2 ^ 48) k))

/-- 03 R57, 05 R89: a taken transfer to a target that fails R57 is an illegal-target fault with the whole target as its
value; `call` and `loop` then write nothing. -/
def Sys2Proof.Clause.TransferTraps : Prop :=
  ∀ (s : State) (m : Thread) (d a : Reg) (slot : Fin 64) (imm : BitVec 32), s.issues m →
    let line : Word := BitVec.ofNat 64 (s.iss.pc / 64 * 64)
    let dest := (line + BitVec.signExtend 64 imm + BitVec.ofNat 64 slot.val).toNat
    let x := (m.reg a.val).toNat
    (imm.toNat % 64 ≠ 0 ∨ slot.val = 0 ∨ 31 < slot.val ∨ s.targetOk s.iss.gid dest = false →
      exec (.br slot imm) s = .next (s.fault 4 dest) ∧ exec (.call d slot imm) s = .next (s.fault 4 dest) ∧
      exec (.brc 0 a a slot imm) s = .next (s.fault 4 dest) ∧
      (m.reg d.val ≠ 1 → exec (.loop d slot imm) s = .next (s.fault 4 dest))) ∧
    (s.targetOk s.iss.gid x = false →
      exec (.brr a) s = .next (s.fault 4 x) ∧ exec (.ret a) s = .next (s.fault 4 x))

/-- Branches, calls and loops go to their legal targets and trap on the others: the clauses named. -/
def Obligations.ControlTransfers : Prop :=
  Clause.Transfers ∧ Clause.TransferTraps

/-- 00 R11, 11 R198, R199, 12 R216: a trap whose class the thread has enabled goes to its handler, with the three trap
registers written (bit 9 of `sr.cause` tells that the other half of the bundle has completed, 03 R61), g24 to g27 saved and replaced by the shadow registers, and every other register, and all memory, as
before. -/
def Sys2Proof.Clause.TrapToHandler : Prop :=
  ∀ (s : State) (m : Thread) (cls tval : Nat), s.thread? s.iss.gid = some m → s.iss.gid % 16 ≠ 15 → 1 ≤ cls → cls ≤ 14 →
    m.handler = false → m.uien.getLsbD cls = true → s.targetOk s.iss.gid m.uih.toNat = true →
    ∃ n, (s.fault cls tval).thread? s.iss.gid = some n ∧
      n.cause = BitVec.ofNat 64 (cls + if s.iss.half = true ∨ m.halfOnly = true then 512 else 0) ∧
      n.tval = BitVec.ofNat 64 tval ∧ n.epc = BitVec.ofNat 64 s.iss.pc ∧
      n.pc = m.uih ∧ n.handler = true ∧ n.stat = .running ∧ n.wait = none ∧
      (∀ k : Fin 4, n.reg (24 + k.val) = m.shadow.get k ∧ n.saved.get k = m.reg (24 + k.val)) ∧
      (∀ r : Fin 32, r.val < 24 ∨ 28 ≤ r.val → n.reg r.val = m.reg r.val) ∧
      n.preds = m.preds ∧ n.uih = m.uih ∧ n.uien = m.uien ∧ n.shadow = m.shadow ∧ n.claims = m.claims ∧ n.guards = m.guards ∧
      n.shFmt = m.shFmt ∧ n.shScl = m.shScl ∧ n.args = m.args ∧ n.wdlim = m.wdlim ∧ n.prioBase = m.prioBase ∧
      (∀ h, h ≠ s.iss.gid → (s.fault cls tval).thread? h = s.thread? h) ∧ (s.fault cls tval).mem = s.mem ∧
      (s.fault cls tval).reqs = s.reqs ∧ (s.fault cls tval).sup = s.sup ∧ (s.fault cls tval).iss.trapped = true

/-- 00 R11, 11 R199, R200: a trap that is not enabled, or whose handler address is no legal target, is entered with the
supervisor context of the core; one in handler state goes there with end-status kind 4. The thread waits, its registers
as they were but for the three trap registers. -/
def Sys2Proof.Clause.TrapToSupervisor : Prop :=
  ∀ (s : State) (m : Thread) (cls tval : Nat), s.thread? s.iss.gid = some m → s.iss.gid % 16 ≠ 15 → 1 ≤ cls → cls ≤ 14 →
    (m.handler = true ∧ cls ≠ 13) ∨ (m.handler = false ∧
      (m.uien.getLsbD cls = false ∨ s.targetOk s.iss.gid m.uih.toNat = false)) →
    let kind := if m.handler then 4 else if cls = 13 then 2 else if cls = 11 then 3 else 7
    let x : SupTrap := { core := gidCk s.iss.gid, gid := s.iss.gid, uid := m.uid, dom := m.dom, kind := kind, cls := cls,
                         tval := tval, epc := s.iss.pc, service := none }
    ∃ n w, (s.fault cls tval).thread? s.iss.gid = some n ∧ (s.fault cls tval).sup = s.sup ++ [x] ∧
      n.cause = BitVec.ofNat 64 (cls + if s.iss.half = true ∨ m.halfOnly = true then 512 else 0) ∧
      n.tval = BitVec.ofNat 64 tval ∧ n.epc = BitVec.ofNat 64 s.iss.pc ∧
      n.wait = some w ∧ w.why = .super ∧ n.regs = m.regs ∧ n.preds = m.preds ∧ n.handler = m.handler ∧
      (∀ h, h ≠ s.iss.gid → (s.fault cls tval).thread? h = s.thread? h) ∧ (s.fault cls tval).mem = s.mem ∧
      (s.fault cls tval).reqs = s.reqs

/-- 11 R198, 12 R218: `rft` in handler state writes the shadow registers back, restores g24 to g27, leaves handler state and
goes on at `sr.epc`; in slot 15 it lets the oldest trapped sibling go on at its `sr.epc`; elsewhere it is a protection
fault with its opcode. -/
def Sys2Proof.Clause.ReturnFromTrap : Prop :=
  ∀ (s : State) (m : Thread), s.issues m →
    (s.iss.gid % 16 ≠ 15 → m.handler = true → s.targetOkAs s.iss.gid m.epc.toNat (m.cause.getLsbD 9) = true →
      ∃ t n, exec .rft s = .next t ∧ OnlyThread { s with iss := { s.iss with jumped := true } } t s.iss.gid n ∧
        n.pc = m.epc ∧ n.handler = false ∧ n.preds = m.preds ∧ n.cause = m.cause ∧ n.tval = m.tval ∧ n.epc = m.epc ∧
        (∀ k : Fin 4, n.reg (24 + k.val) = m.saved.get k ∧ n.shadow.get k = m.reg (24 + k.val)) ∧
        (∀ r : Fin 32, r.val < 24 ∨ 28 ≤ r.val → n.reg r.val = m.reg r.val)) ∧
    (s.iss.gid % 16 = 15 → ∀ x n, s.sup.find? (fun x => x.core == gidCk s.iss.gid) = some x → s.thread? x.gid = some n →
      ∃ t, exec .rft s = .next t ∧ t.sup = s.sup.filter (· != x) ∧
        OnlyThread s { t with sup := s.sup } x.gid
          { n with wait := none, stat := .running, pc := n.epc, halfOnly := n.cause.getLsbD 9 }) ∧
    (s.iss.gid % 16 ≠ 15 → m.handler = false → exec .rft s = .next (s.fault 8 s.iss.opc))

/-- Taking a trap at the handler or the supervisor, and returning from it: the clauses named. -/
def Obligations.Traps : Prop :=
  Clause.TrapToHandler ∧ Clause.TrapToSupervisor ∧ Clause.ReturnFromTrap

/-- 02 R33: an entry first touched in instant `k` is undecided with a live claim and absent with none, counts the claims,
has the closed values of the instant before if it was current then and else absent and the identity, and restarts at the
identity; one already in the instant is left. -/
def Sys2Proof.Clause.EntryInInstant : Prop :=
  ∀ (e : Sig) (k claims : Nat), e.inst < 2 ^ 24 →
    let f := e.bring k claims []
    (e.inst = k % 2 ^ 24 → f = e) ∧
    (e.inst ≠ k % 2 ^ 24 →
      f.st = (if claims = 0 then 2 else 0) ∧ f.cnt = claims ∧ f.inst = k % 2 ^ 24 ∧ f.out = e.out ∧ f.cmb = e.cmb ∧
      f.ty = e.ty ∧ f.val = e.unit ∧ (e.inst = (k + 2 ^ 24 - 1) % 2 ^ 24 → f.pst = e.st ∧ f.prev = e.val) ∧
      (e.inst ≠ (k + 2 ^ 24 - 1) % 2 ^ 24 → f.pst = 2 ∧ f.prev = e.unit))

/-- 02 R36, R37, 05 R92: an emission makes its signal present and combines its value, and the issuer's core remembers the
status; the thread waits for the bank's answer (02 R24). An emission to an absent signal is a late emission. With something
outstanding that the release covers the thread issues again. Stated of a signal that no thread waits for. -/
def Sys2Proof.Clause.Emissions : Prop :=
  ∀ (s : State) (m : Thread) (d : Domain) (op : SigOp) (a : Reg) (k : Nat) (e : Sig), s.signals m d op k e →
    (s.releaseDue = false → e.st ≠ 2 → s.parkedOn (sigObj m.dom k) okSig = [] →
      let es := s.edges.filter fun x => !(x.ek == 2 && x.obj == sigObj m.dom k)
      let does := fun (i : Instr) (v : Nat) => ∃ t x, exec i s = .next t ∧ Entered s x d m k { e with st := 1, val := v } x.cores es ∧
        (x.core s.myCore).status.head? = some (m.dom, k, true) ∧ (∀ c, c ≠ s.myCore → x.core c = s.core c) ∧
        Replies x t m d.home 0 0 false (s.doneTo 0 0 0 8 false)
      does (.emit op) e.val ∧
      does (.emitv a op) (if e.cmb = 0 then e.val else sigCombine e.cmb e.ty e.val (m.reg a.val).toNat)) ∧
    (s.releaseDue = true → ∀ i, i = .emit op ∨ i = .emitv a op → ∃ t, exec i s = .next t ∧ Retries s t m (.drain (s.dscope m.dom))) ∧
    (s.releaseDue = false → e.st = 2 → exec (.emit op) s = .next ((s.bringIn m.dom k).fault 12 k) ∧
      exec (.emitv a op) s = .next ((s.bringIn m.dom k).fault 12 k))

/-- 02 R36: a cede at its entry lowers the count, and an undecided signal whose count reaches 0 becomes absent. Stated of a
cede that may be performed, of a signal no thread waits for. -/
def Sys2Proof.Clause.CedeAtEntry : Prop :=
  ∀ (s : State) (r : Req) (d : Domain) (k : Nat), s.reqs.find? (·.id == r.id) = some r → r.op = .cede k →
    s.mayPerform r = true → s.domain? r.dom = some d → k < d.sigs.length → s.parkedOn (sigObj r.dom k) okSig = [] → s.mem.wf = true →
    let e := (d.sigs.getD k Sig.none).bring d.inst (s.claimsOn r.dom k) []
    let f := { e with cnt := e.cnt - 1, st := if e.st = 0 ∧ e.cnt ≤ 1 then 2 else e.st }
    ∃ t, exec (.cedeApply r.id) s = .next t ∧
      t = { s with reqs := s.reqs.filter (·.id != r.id), edges := t.edges, mem := t.mem,
                   domains := s.domains.map fun d => if d.num = r.dom then { d with sigs := d.sigs.set k f } else d } ∧
      ∀ a, t.mem.byte a = (d.tableMem k f s.mem).byte a

/-- Signal entries across instants, emissions, and cedes at the entry: the clauses named. -/
def Obligations.SignalTable : Prop :=
  Clause.EntryInInstant ∧ Clause.Emissions ∧ Clause.CedeAtEntry

/-- 02 R38, R40, 05 R93: `pres` of a signal whose status the core remembers, and of a decided one; `sigv` of a decided signal
with no live claim, current and previous, answered by the signal's bank after the thread's own earlier cede. An undecided signal that nobody can still emit to by claim parks the thread. -/
def Sys2Proof.Clause.SignalReads : Prop :=
  ∀ (s : State) (m : Thread) (d : Domain) (op : SigOp) (rd : Reg) (pd : PReg) (k : Nat) (e : Sig), s.signals m d op k e →
    let cached := (s.core s.myCore).status.find? fun x => x.1 == m.dom && x.2.1 == k
    (∀ x, cached = some x → PutsP (.pres pd op) s pd x.2.2) ∧
    (s.wordsDue m.uid (d.sigKey 0 k) 8 = true → ∀ i, i = .pres pd op ∧ cached = none ∨ i = .sigvCur rd op ∨ i = .sigvPrev rd op →
      ∃ t, exec i s = .next t ∧ Retries s t m (.words (d.sigKey 0 k) 8)) ∧
    (s.wordsDue m.uid (d.sigKey 0 k) 8 = false →
      (cached = none → e.st ≠ 0 → ∃ t x, exec (.pres pd op) s = .next t ∧ Entered s x d m k e x.cores s.edges ∧
        (x.core s.myCore).status.head? = some (m.dom, k, e.st == 1) ∧ (∀ c, c ≠ s.myCore → x.core c = s.core c) ∧
        Replies x t m d.home 0 0 (e.st == 1) (s.doneTo 0 0 pd.val 8 false)) ∧
      (cached = none → e.st = 0 → m.wait = none → s.claimsOn m.dom k = 0 → s.holdEdges (sigObj m.dom k) = [] →
        ∃ t x, exec (.pres pd op) s = .next t ∧ Entered s x d m k e s.cores s.edges ∧
          ParkedOn x t m (qkDie d.home) (sigObj m.dom k) 4 (s.doneTo 0 0 pd.val 0 false)) ∧
      (e.st ≠ 0 → e.cnt = 0 → ∃ x, Entered s x d m k e s.cores s.edges ∧
        Answers (.sigvCur rd op) s x m d.home (if e.st = 1 then e.val else e.unit) rd) ∧
      (∃ x, Entered s x d m k e s.cores s.edges ∧ Answers (.sigvPrev rd op) s x m d.home (if e.cmb = 0 then 0 else e.prev) rd))

/-- 05 R96: the instant, the launch seed and the number of signals of the issuer's domain. -/
def Sys2Proof.Clause.InstResults : Prop :=
  ∀ (s : State) (m : Thread) (dom : Domain) (d : Reg), s.issues m → s.iss.gid % 16 ≠ 15 → s.domain? m.dom = some dom →
    Puts (.instNum d) s d (BitVec.ofNat 64 dom.inst) ∧ Puts (.instSeed d) s d (BitVec.ofNat 64 dom.seed) ∧
    Puts (.instNsig d) s d (BitVec.ofNat 64 dom.sigs.length)

/-- Reading signals and the facts of a domain: the clauses named. -/
def Obligations.SignalReads : Prop :=
  Clause.SignalReads ∧ Clause.InstResults

/-- 02 R34, 05 R92: the results of `claim`: 0 for a new claim that counts, or for one held already; 1 on a signal already
absent, the claim then ceded; 2 with all claim slots used; 3 with the count at its largest. The signal's bank answers, after the
thread's own earlier cede. -/
def Sys2Proof.Clause.ClaimResults : Prop :=
  ∀ (s : State) (m : Thread) (d : Domain) (op : SigOp) (rd : Reg) (k : Nat) (e : Sig), s.signals m d op k e →
    let held := m.claims.any (·.sig == k)
    let gives := fun (n : Thread) (f : Sig) (v : Nat) => ∃ x, Entered s x d n k f s.cores s.edges ∧ Answers (.claim rd op) s x n d.home v rd
    (s.wordsDue m.uid (d.sigKey 0 k) 8 = true → ∃ t, exec (.claim rd op) s = .next t ∧ Retries s t m (.words (d.sigKey 0 k) 8)) ∧
    (s.wordsDue m.uid (d.sigKey 0 k) 8 = false →
      (held = true → gives m e 0) ∧
      (held = false → 8 ≤ m.claims.length → gives m e 2) ∧
      (held = false → m.claims.length < 8 → 1048575 ≤ e.cnt → gives m e 3) ∧
      (held = false → m.claims.length < 8 → e.cnt < 1048575 → e.st = 2 →
        gives { m with claims := m.claims ++ [{ sig := k, live := false }] } e 1) ∧
      (held = false → m.claims.length < 8 → e.cnt < 1048575 → e.st ≠ 2 → s.parkedOn (sigObj m.dom k) okSig = [] →
        gives { m with claims := m.claims ++ [{ sig := k, live := true }] } { e with cnt := e.cnt + 1 } 0))

/-- 02 R35, 05 R86, R92: `cede` and `unclaim` of a live claim post one cede to the signal's entry, a release; `unclaim` frees
the slot and `cede` keeps it; without a live claim nothing is posted. -/
def Sys2Proof.Clause.CedeAndUnclaim : Prop :=
  ∀ (s : State) (m : Thread) (d : Domain) (op : SigOp) (k : Nat) (e : Sig), s.signals m d op k e →
    let live := m.claims.any fun c => c.sig == k && c.live
    let dropped := m.claims.filter (·.sig != k)
    let ceded := m.claims.map fun c => if c.sig == k then { c with live := false } else c
    let gone := s.edges.filter fun x => !(x.ek == 2 && x.obj == sigObj m.dom k && x.gid == s.iss.gid)
    let posts := fun (i : Instr) (cs : List Claim) =>
      ∃ t r, exec i s = .next t ∧
        OnlyThread { s with reqs := s.reqs ++ [r], nextId := s.nextId + 1, edges := gone } t s.iss.gid
          { m with claims := cs, seq := m.seq + 1, pc := wd s.iss.succ } ∧
        r.op = .cede k ∧ r.uid = m.uid ∧ r.dom = m.dom ∧ r.posted = true ∧ r.rel = true ∧ r.res = none
    (live = false → (∃ t, exec (.cede op) s = .next t ∧ WentOn s t) ∧
      Turns (.unclaim op) s fun t => { t with claims := t.claims.filter (·.sig != k) }) ∧
    (live = true → s.bufferRoom 1 = true → posts (.cede op) ceded ∧ posts (.unclaim op) dropped)

/-- Claiming, ceding and unclaiming a signal: the clauses named. -/
def Obligations.Claims : Prop :=
  Clause.ClaimResults ∧ Clause.CedeAndUnclaim

/-- 02 R43, 05 R94: the guard entries. A ninth is a protection fault, and so is `endw` with none. -/
def Sys2Proof.Clause.GuardEntries : Prop :=
  ∀ (s : State) (m : Thread) (d : Domain) (op : SigOp) (sn : Fin 4096) (slot : Fin 64) (imm : BitVec 32) (k : Nat) (e : Sig),
    let dest := s.tgt imm slot
    let pushed := fun (t : State) (ab : Bool) (n exit : Nat) =>
      OnlyThread { s with nextId := s.nextId + 1 } t s.iss.gid
        { m with guards := m.guards ++ [{ abort := ab, sig := n, exit := exit, id := s.nextId, own := true }],
                 pc := wd s.iss.succ }
    (s.signals m d op k e → m.guards.length < 8 → ∃ t, exec (.suspw op) s = .next t ∧ pushed t false k 0) ∧
    (s.signals m d op k e → 8 ≤ m.guards.length → exec (.suspw op) s = .next (s.fault 8 m.guards.length)) ∧
    (s.signals m d (.imm sn) k e → m.guards.length < 8 → s.tgtOk imm slot = true → s.targetMiss s.iss.gid dest = none →
      ∃ t, exec (.abortw sn slot imm) s = .next t ∧ pushed t true k dest) ∧
    (s.signals m d (.imm sn) k e → 8 ≤ m.guards.length → exec (.abortw sn slot imm) s = .next (s.fault 8 m.guards.length)) ∧
    (s.signals m d (.imm sn) k e → m.guards.length < 8 → s.tgtOk imm slot = false →
      exec (.abortw sn slot imm) s = .next (s.fault 4 dest)) ∧
    (s.issues m → s.iss.gid % 16 ≠ 15 → m.guards ≠ [] → Turns .endw s fun t => { t with guards := t.guards.dropLast }) ∧
    (s.issues m → s.iss.gid % 16 ≠ 15 → m.guards = [] → exec .endw s = .next (s.fault 8 0))

/-- 05 R90, R91: a signal number past the table is an illegal-target fault with the number, for every operation on signals. -/
def Sys2Proof.Clause.SignalNumberTraps : Prop :=
  ∀ (s : State) (m : Thread) (d : Domain) (op : SigOp) (a : Reg) (pd : PReg), s.issues m → s.iss.gid % 16 ≠ 15 →
    s.domain? m.dom = some d → d.sigs.length ≤ s.sigNo op →
    let f := Host.Outcome.next (s.fault 4 (s.sigNo op))
    exec (.emit op) s = f ∧ exec (.emitv a op) s = f ∧ exec (.pres pd op) s = f ∧ exec (.cede op) s = f ∧
    exec (.claim a op) s = f ∧ exec (.unclaim op) s = f ∧ exec (.sigvCur a op) s = f ∧ exec (.sigvPrev a op) s = f ∧
    exec (.suspw op) s = f

/-- 02 R43, R44: at a closure, a present signal aborts the guard at the bottom of its owner's stack: the thread goes on at the
guard's exit with no guard, in the next instant. -/
def Sys2Proof.Clause.GuardAbort : Prop :=
  ∀ (s : State) (n : Nat) (d : Domain) (m : Thread) (x : Guard), s.domain? n = some d → d.stat = .reacting →
    s.quiet n = true → d.suspendTo = none → (∀ q ∈ s.iqs, q.dom ≠ n) →
    s.threads.filter (·.dom == n) = [m] → s.thread? m.gid = some m → m.stat = .paused → m.guards = [x] →
    x.abort = true → x.own = true → ((d.sigs.getD x.sig Sig.none).closed d.inst).1 = 1 →
    ∃ t u, exec (.lull n) s = .next t ∧ t.thread? m.gid = some u ∧ u.guards = [] ∧ u.pc = wd x.exit ∧ u.stat = .running ∧
      u.regs = m.regs ∧ u.preds = m.preds ∧ (t.domain? n).map (·.inst) = some ((d.inst + 1) % 2 ^ 64)

/-- Guards enter, end and abort; a signal number out of range traps: the clauses named. -/
def Obligations.Guards : Prop :=
  Clause.GuardEntries ∧ Clause.SignalNumberTraps ∧ Clause.GuardAbort

/-- 02 R35: outside a gang `pause` ends the reaction of a thread that holds no claim and owns no deque entry, where nothing else turns on it: it keeps every
register and goes on after the `pause` at the next instant, its watchdog count stopped. `halt` ends such a thread, and no
other thread ends with it. -/
def Sys2Proof.Clause.PauseAndHalt : Prop :=
  ∀ (s : State) (m : Thread), s.issues m → s.iss.gid % 16 ≠ 15 → s.ownsEntries = false → s.gangOf s.iss.gid = [] →
    m.claims = [] → m.wait = none → m.task = false → m.postDue = 0 → s.unwatched m →
    (∃ t, exec .pause s = .next t ∧ OnlyThread { s with edges := t.edges } t s.iss.gid
      { m with stat := .paused, wait := none, wdRun := false, wdStart := s.clock - m.wdStart, pc := wd s.iss.succ }) ∧
    (∃ t, exec .halt s = .next t ∧ t.thread? s.iss.gid = none ∧
      ∀ h, h ≠ s.iss.gid → (t.thread? h).isSome = (s.thread? h).isSome)

/-- 02 R28, 05 R98: `gang.wait` parks; `gang.on` forms a gang with the three threads of its slot that wait for it and lets
them go on after its own instruction, else it reports 1, or 2 where the quad has a gang; `gang.off` outside a gang goes on. -/
def Sys2Proof.Clause.GangResults : Prop :=
  ∀ (s : State) (m : Thread) (d : Reg), s.issues m → s.iss.gid % 16 ≠ 15 →
    let q := s.quad (gidQk s.iss.gid)
    let others := (gangMembers s.pkg (gidQk s.iss.gid) (s.iss.gid % 16)).filter (· != s.iss.gid)
    (s.inGang = false → m.wait = none → s.holdEdges (gangObj s.iss.gid) = [] →
      ∃ t, exec .gangWait s = .next t ∧ ParkedOn s t m (gidDie s.iss.gid) (gangObj s.iss.gid) 9 (s.doneTo 0 0 0 8 false)) ∧
    (q.gang ≠ none → Puts (.gangOn d) s d 2) ∧
    (q.gang = none → others.all s.awaitsGang = false → Puts (.gangOn d) s d 1) ∧
    (q.gang = none → others.all s.awaitsGang = true → ∃ t, exec (.gangOn d) s = .next t ∧
      (t.quad (gidQk s.iss.gid)).gang = some { leader := s.iss.gid, slot := s.iss.gid % 16, todo := [] } ∧
      t.thread? s.iss.gid = some { m.setReg d.val 0 with pc := wd s.iss.succ } ∧
      ∀ g ∈ others, ∃ n, t.thread? g = some n ∧ n.stat = .running ∧ n.wait = none ∧ n.pc = wd s.iss.succ) ∧
    (s.gangOf s.iss.gid = [] → ∃ t, exec .gangOff s = .next t ∧ WentOn s t)

/-- Pausing, halting, and forming and ending a gang: the clauses named. -/
def Obligations.ReactionEnds : Prop :=
  Clause.PauseAndHalt ∧ Clause.GangResults

/-- 02 R46, 05 R95: `fork` starts a child in the lowest free slot with the parent's registers, predicates, priorities,
watchdog limit and address space, at its target, with no claim and with the parent's guards as its own's copies; the
parent reads 0 and counts the child. Status 2 with 64 children, 1 without a slot. -/
def Sys2Proof.Clause.ForkResults : Prop :=
  ∀ (s : State) (m : Thread) (dom : Domain) (d : Reg) (slot : Fin 64) (imm : BitVec 32), s.issues m →
    s.iss.gid % 16 ≠ 15 → s.inGang = false → s.tgtOk imm slot = true → s.targetMiss s.iss.gid (s.tgt imm slot) = none →
    s.domain? m.dom = some dom →
    (64 ≤ m.children.length → Puts (.fork d slot imm) s d 2) ∧
    (m.children.length < 64 → s.forkSlot dom = none → Puts (.fork d slot imm) s d 1) ∧
    (∀ g, m.children.length < 64 → s.forkSlot dom = some g → g ≠ s.iss.gid →
      ∃ t c, exec (.fork d slot imm) s = .next t ∧
        t.thread? s.iss.gid = some { m.setReg d.val 0 with children := m.children ++ [s.nextUid], pc := wd s.iss.succ } ∧
        t.thread? g = some c ∧ (∀ h, h ≠ s.iss.gid → h ≠ g → t.thread? h = s.thread? h) ∧
        c.uid = s.nextUid ∧ c.dom = dom.num ∧ c.stat = .running ∧ c.regs = m.regs ∧ c.preds = m.preds ∧
        c.pc = BitVec.ofNat 64 (s.tgt imm slot) ∧ c.prioBase = m.prioBase ∧ c.prioCeil = m.prioCeil ∧ c.wdlim = m.wdlim ∧
        c.asid = m.asid ∧ c.claims = [] ∧ c.children = [] ∧ c.args = dom.largs ∧ c.tidNo = dom.tidCtr ∧
        c.guards = m.guards.map (fun x => { x with own := false }) ∧ c.shFmt = 0 ∧ c.shScl = 0 ∧ c.handler = false ∧
        t.mem = s.mem ∧ t.reqs = s.reqs)

/-- 02 R46, 05 R95, R97: `join` goes on with no child left; with children left that have all paused or been suspended a
thread outside a gang pauses in the `join`; a `trig` outside a task goes on, and one in a task without a dependence record triggers. -/
def Sys2Proof.Clause.JoinAndTrig : Prop :=
  ∀ (s : State) (m : Thread) (sc : Scope), s.issues m → s.iss.gid % 16 ≠ 15 →
    (m.children.filterMap s.byUid = [] → Turns .join s fun t => { t with children := [] }) ∧
    (m.children.filterMap s.byUid ≠ [] → (m.children.filterMap s.byUid).all (·.resting) = true → m.claims = [] → s.gangOf s.iss.gid = [] →
      m.wait = none → s.unwatched m → ∃ t, exec .join s = .next t ∧ OnlyThread { s with edges := t.edges } t s.iss.gid
        { m with stat := .paused, wait := none, wdRun := false, wdStart := s.clock - m.wdStart, pc := wd s.iss.pc }) ∧
    (s.okScope sc.val = true → s.storesDue sc.val = false → m.postDue = 0 → m.task = false ∨ m.triggered = true →
      ∃ t, exec (.trig sc) s = .next t ∧ WentOn s t) ∧
    (s.okScope sc.val = true → s.storesDue sc.val = false → m.postDue = 0 → m.task = true → m.triggered = false → m.depRec = 0 →
      Turns (.trig sc) s fun t => { t with triggered := true }) ∧
    (s.okScope sc.val = false → exec (.trig sc) s = .next (s.fault 14 sc.val))

/-- Forking a thread, joining the children, and triggers: the clauses named. -/
def Obligations.ForkAndJoin : Prop :=
  Clause.ForkResults ∧ Clause.JoinAndTrig

/-- 07 R122, R125: the checks of an access in their order, for private memory by selectors 0 and 1 and shared SRAM, and the
first three for every address: misaligned, outside every space or past its end, not the partition's own. -/
def Sys2Proof.Clause.AccessChecks : Prop :=
  ∀ (s : State) (w : Who) (need align addr len : Nat) (fe : Bool), addr < 2 ^ 64 → 0 < len → len ≤ 4096 → 0 < align →
    let sel := addr / 2 ^ 60
    let own := fun (q : Nat) => s.owner q = some w.part
    (addr % align ≠ 0 → s.check w need fe align addr len = (.trap 5 addr, s)) ∧
    (addr % align = 0 →
      (sel = 3 ∨ 8 ≤ sel → s.check w need fe align addr len = (.trap 6 addr, s)) ∧
      (sel = 0 → 0x8000 < addr + len → s.check w need fe align addr len = (.trap 6 addr, s)) ∧
      (sel = 0 → addr + len ≤ 0x8000 → s.check w need fe align addr len =
        if own (gidDie w.gid * 4096 + gidQuad w.gid)
        then (.ok [(privKey (gidDie w.gid) (gidQuad w.gid) (gidCore w.gid) addr, len)], s) else (.trap 8 addr, s)) ∧
      (∀ die quad core off, addr = 2 ^ 60 + die * 2 ^ 58 + quad * 2 ^ 46 + core * 2 ^ 44 + off → die < 4 → quad < 2 ^ 12 →
        core < 4 → off < 2 ^ 44 → s.check w need fe align addr len =
          if quad < 2560 ∧ off + len ≤ 0x8000 then
            if own (die * 4096 + quad) then (.ok [(addr, len)], s) else (.trap 8 addr, s)
          else (.trap 6 addr, s)) ∧
      (∀ die off, addr = 2 * 2 ^ 60 + die * 2 ^ 58 + off → die < 4 → off < 2 ^ 58 → s.check w need fe align addr len =
          if off + len ≤ 0xC0000000 then
            if s.ownsShared w.part die off len = true ∧ s.reservedShared die off len = false
            then (.ok [(addr, len)], s) else (.trap 8 addr, s)
          else (.trap 6 addr, s)) ∧
      (fe = true → (sel = 5 ∨ sel = 6) → addr % 2 ^ 60 + len ≤ 2 ^ 48 →
        s.check w need fe align addr len = (.trap 9 addr, s)))

/-- 11 R204, R206, 07 R125: an address of DRAM, CXL or host memory inside one page of the quad's table goes to the page's
physical address where the page permits it and, for DRAM, lies in the partition's own vaults, and is a protection fault where
not. -/
def Sys2Proof.Clause.TranslatedAccess : Prop :=
  ∀ (s : State) (w : Who) (need addr len : Nat) (e : Tlb), need ≤ 7 → 0 < len → len ≤ 4096 →
    let sel := addr / 2 ^ 60
    let va := addr % 2 ^ 60
    (sel = 4 ∨ sel = 5 ∨ sel = 6) → va + len ≤ 2 ^ 48 → (s.quad (gidQk w.gid)).tlb.find? (·.hits w.asid sel va) = some e →
    va + len ≤ e.va + e.size →
    ∃ t, s.check w need false 1 addr len =
        (if Nat.land e.perm need = need ∧ (sel = 4 → s.ownsDram w.part (keyPa (4 * 2 ^ 60 + (e.pa + (va - e.va)))) len = true) then .ok [(sel * 2 ^ 60 + (e.pa + (va - e.va)), len)] else .trap 8 addr, t) ∧
      t = { s with quads := t.quads }

/-- The checks of an access and the address it translates to: the clauses named. -/
def Obligations.AccessChecks : Prop :=
  Clause.AccessChecks ∧ Clause.TranslatedAccess

/-- 00 R4, 08: what a write leaves in memory: its own bytes, and every other byte as before. Memory in canonical form;
`StepKeepsMemoryCanonical` is the invariant. -/
def Obligations.MemoryReadAfterWrite : Prop :=
  ∀ (m : Memory) (k a : Nat) (bs : List Byte), m.wf = true →
    (m.write k bs).byte a = if k ≤ a ∧ a < k + bs.length then bs.getD (a - k) 0 else m.byte a

/-- 09 R155, R157, R158, R159, R164, R165: loads of a thread's own private memory: the value, extended, and no byte changed;
`ldff` of a full word, `ldfe` of a full word, which leaves it empty, and `feqry`. -/
def Sys2Proof.Clause.PrivateLoads : Prop :=
  ∀ (s : State) (m : Thread) (d a : Reg) (sc : Scope) (sx : Bool) (mw : MemW) (imm : BitVec 32) (k : Nat),
    let ea := (m.reg a.val + BitVec.signExtend 64 imm).toNat
    let n := 2 ^ mw.code
    let v := extended sx n (s.mem.read k n)
    let w := k / 8 * 8
    (ea % n = 0 → s.privateAt m ea n k →
      Puts (.ld d a sx mw imm) s d v ∧ (s.okScope sc.val = true → Puts (.lda d a sc sx mw imm) s d v) ∧
      (s.okScope sc.val = true → w ∉ s.empties → Puts (.ldff d a sc sx mw imm) s d v) ∧
      (s.okScope sc.val = true → w ∉ s.empties → ∃ t, exec (.ldfe d a sc sx mw imm) s = .next t ∧
        OnlyThread { s with empties := t.empties } t s.iss.gid { m.setReg d.val v with pc := wd s.iss.succ } ∧
        ∀ x, x ∈ t.empties ↔ x = w ∨ x ∈ s.empties)) ∧
    (ea % 8 = 0 → s.privateAt m ea 8 k → Puts (.feqry d a imm) s d (if w ∈ s.empties then 1 else 0)) ∧
    (ea % 16 = 0 → d.val < 31 → s.privateAt m ea 16 k → ∃ t, exec (.ldp d a imm) s = .next t ∧
      OnlyThread s t s.iss.gid { (m.setReg d.val (BitVec.ofNat 64 (s.mem.read k 8))).setReg (d.val + 1)
        (BitVec.ofNat 64 (s.mem.read (k + 8) 8)) with pc := wd s.iss.succ })

/-- 09 R158 to R161: stores to a thread's own private memory: exactly the bytes of the form at its address, computed as the
rule says, and no other byte. `st` and `stl` store the register plus the signed 7-bit field. -/
def Sys2Proof.Clause.PrivateStores : Prop :=
  ∀ (s : State) (m : Thread) (a b c : Reg) (sc : Scope) (mw : MemW) (e : Fin 128) (op : Fin 64) (imm : BitVec 32) (k : Nat),
    let ea := (m.reg a.val + BitVec.signExtend 64 imm).toNat
    let n := 2 ^ mw.code
    let data := bytesOf n (m.reg b.val + BitVec.signExtend 64 (BitVec.ofNat 7 e.val)).toNat
    let z := if op.val = 0 then 64 else if op.val = 1 then 256 else 4096
    let mask := fun i => if c.val = 0 then 255 else (m.reg c.val).toNat / 2 ^ (8 * i) % 256
    (ea % n = 0 → s.privateAt m ea n k → ∃ t, exec (.st a b mw e imm) s = .next t ∧ Stored s t m k data) ∧
    (ea % n = 0 → s.okScope sc.val = true → s.privateAt m ea n k →
      ∃ t, exec (.stl a b sc mw e imm) s = .next t ∧ Stored s t m k data) ∧
    (ea % 16 = 0 → b.val < 31 → s.privateAt m ea 16 k → ∃ t, exec (.stp a b imm) s = .next t ∧
      Stored s t m k (bytesOf 8 (m.reg b.val).toNat ++ bytesOf 8 (m.reg (b.val + 1)).toNat)) ∧
    (op.val < 3 → ea % z = 0 → s.privateAt m ea z k → ∃ t, exec (.zfill a op imm) s = .next t ∧
      Stored s t m k (List.replicate z 0)) ∧
    (1 ≤ op.val → b.val + op.val ≤ 32 → ea % 8 = 0 → m.entered = 0 → s.privateAt m ea (8 * op.val) k →
      ∃ t, exec (.stm a b c op imm) s = .next t ∧
        t = { s with threads := t.threads, mem := t.mem, bad := t.bad, soft := t.soft } ∧
        t.thread? s.iss.gid = some { m with pc := wd s.iss.succ } ∧ (∀ h, h ≠ s.iss.gid → t.thread? h = s.thread? h) ∧
        (s.mem.wf = true → ∀ x, t.mem.byte x = if k ≤ x ∧ x < k + 8 * op.val ∧ (mask ((x - k) / 8)).testBit ((x - k) % 8) = true
          then BitVec.ofNat 8 ((m.reg (b.val + (x - k) / 8)).toNat / 2 ^ (8 * ((x - k) % 8))) else s.mem.byte x))

/-- 09 R164, R165, 07 R127: full/empty stores to a thread's own private memory where the word's state permits: `stef` fills
an empty word, `stff` writes a full one, `feset` sets the state and writes nothing. Stated of words with no waiter. -/
def Sys2Proof.Clause.FullEmptyStores : Prop :=
  ∀ (s : State) (m : Thread) (a b : Reg) (sc : Scope) (mw : MemW) (e : Fin 128) (imm : BitVec 32) (k : Nat),
    let ea := (m.reg a.val + BitVec.signExtend 64 imm).toNat
    let n := 2 ^ mw.code
    let data := bytesOf n (m.reg b.val + BitVec.signExtend 64 (BitVec.ofNat 7 e.val)).toNat
    let w := k / 8 * 8
    let marked := fun (t : State) (mem : Memory) (f : Nat → Prop) =>
      OnlyThread { s with mem := mem, empties := t.empties, bad := t.bad, soft := t.soft } t s.iss.gid
        { m with pc := wd s.iss.succ } ∧ ∀ x, x ∈ t.empties ↔ f x
    (ea % n = 0 → s.okScope sc.val = true → s.privateAt m ea n k → w ∈ s.empties → ∃ t, exec (.stef a b sc mw e imm) s = .next t ∧
      marked t (s.mem.write k data) fun x => x ∈ s.empties ∧ x ≠ w) ∧
    (ea % n = 0 → s.okScope sc.val = true → s.privateAt m ea n k → w ∉ s.empties → ∃ t, exec (.stff a b sc mw e imm) s = .next t ∧
      marked t (s.mem.write k data) fun x => x ∈ s.empties) ∧
    (ea % 8 = 0 → s.privateAt m ea 8 k → (∃ t, exec (.fesetFull a imm) s = .next t ∧ marked t s.mem fun x => x ∈ s.empties ∧ x ≠ w) ∧
      ∃ t, exec (.fesetEmpty a imm) s = .next t ∧ marked t s.mem fun x => x = w ∨ x ∈ s.empties)

/-- 09 R166, R155: atomics on a thread's own private memory: the old value, extended, and the new one in its place; a compare
that fails writes nothing. -/
def Sys2Proof.Clause.PrivateAtomics : Prop :=
  ∀ (s : State) (m : Thread) (d a b c : Reg) (sc : Scope) (sx : Bool) (mw : MemW) (imm : BitVec 32) (k : Nat),
    let ea := (m.reg a.val).toNat
    let n := 2 ^ mw.code
    let old := s.mem.read k n
    let after := m.setReg d.val (extended sx n old)
    let y := (m.reg b.val).toNat
    let gives := fun (i : Instr) (bs : List Byte) => ∃ t, exec i s = .next t ∧ Stored s t after k bs
    ea % n = 0 → s.okScope sc.val = true → s.privateAt m ea n k →
      (old % 2 ^ (8 * n) = y % 2 ^ (8 * n) → gives (.cas d a b c sc sx mw) (bytesOf n (m.reg c.val).toNat)) ∧
      (old % 2 ^ (8 * n) ≠ y % 2 ^ (8 * n) → gives (.cas d a b c sc sx mw) []) ∧
      gives (.swap d a b sc sx mw) (bytesOf n y) ∧ gives (.fetchadd d a b sc sx mw) (bytesOf n (old + y)) ∧
      gives (.fetchaddImm d a b sc sx mw imm) (bytesOf n (old + (m.reg b.val + BitVec.signExtend 64 imm).toNat))

/-- Loads, stores and atomics in a thread own private memory: the clauses named. -/
def Obligations.PrivateMemory : Prop :=
  Clause.PrivateLoads ∧ Clause.PrivateStores ∧ Clause.FullEmptyStores ∧ Clause.PrivateAtomics

/-- 09 R155 to R170, 02 R24: what the same operations ask of another home: one request with the operands as the rule reads
them, for whose reply the thread leaves rotation. -/
def Sys2Proof.Clause.HomeRequests : Prop :=
  ∀ (s u : State) (m : Thread) (d a b c : Reg) (p : PReg) (sc : Scope) (sx : Bool) (mw : MemW) (imm : BitVec 32)
    (fn : Fin 64) (e : Fin 128) (k : Nat), s.issues m → s.okScope sc.val = true →
    let ea := (m.reg a.val + BitVec.signExtend 64 imm).toNat
    let x := (m.reg a.val).toNat
    let y := (m.reg b.val).toNat
    let n := 2 ^ mw.code
    let asks := fun (i : Instr) (op : ReqOp) (len va scope : Nat) (rel acq : Bool) (fin : Done) =>
      ∃ t, exec i s = .next t ∧ Asked u t m op k len va scope rel acq fin
    (2 ^ 60 ≤ ea → s.access needR false n ea n = .key k u →
      asks (.ld d a sx mw imm) (.load n) n ea 0 false false (s.doneTo d.val 0 0 n sx) ∧
      asks (.lda d a sc sx mw imm) (.load n) n ea sc.val false true (s.doneTo d.val 0 0 n sx)) ∧
    (s.access needR false n ea n = .key k u → asks (.ldc d a c sx mw imm) (.ldc n sx (m.reg c.val).toNat) n ea 0 false false
        (s.doneTo d.val 0 0 8 false)) ∧
    (2 ^ 60 ≤ ea → s.access needR true n ea n = .key k u →
      asks (.ldfe d a sc sx mw imm) (.fe true true true n 0) n ea sc.val false true (s.doneTo d.val 0 0 n sx) ∧
      asks (.ldff d a sc sx mw imm) (.fe true true false n 0) n ea sc.val false true (s.doneTo d.val 0 0 n sx)) ∧
    (2 ^ 60 ≤ ea → s.access needW true n ea n = .key k u →
      let v := (m.reg b.val + BitVec.signExtend 64 (BitVec.ofNat 7 e.val)).toNat
      asks (.stef a b sc mw e imm) (.fe false false false n v) n ea sc.val true false (s.doneTo 0 0 0 n false) ∧
      asks (.stff a b sc mw e imm) (.fe true false false n v) n ea sc.val true false (s.doneTo 0 0 0 n false)) ∧
    (2 ^ 60 ≤ ea → s.access needR true 8 ea 8 = .key k u →
      asks (.feqry d a imm) .feqry 8 ea 0 false false (s.doneTo d.val 0 0 8 false)) ∧
    (2 ^ 60 ≤ ea → s.access needR false 16 ea 16 = .key k u →
      asks (.ldp d a imm) .pair 16 ea 0 false false (s.doneTo d.val (d.val + 1) 0 8 false)) ∧
    (2 ^ 60 ≤ x → keySel k ≠ 6 → s.access needW false n x n = .key k u →
      asks (.cas d a b c sc sx mw) (.cas n y (m.reg c.val).toNat) n x sc.val true true (s.doneTo d.val 0 0 n sx) ∧
      asks (.swap d a b sc sx mw) (.swap n y) n x sc.val true true (s.doneTo d.val 0 0 n sx) ∧
      asks (.fetchadd d a b sc sx mw) (.fadd n y) n x sc.val true true (s.doneTo d.val 0 0 n sx) ∧
      asks (.fetchaddImm d a b sc sx mw imm) (.fadd n (m.reg b.val + BitVec.signExtend 64 imm).toNat) n x sc.val true true
        (s.doneTo d.val 0 0 n sx)) ∧
    (s.bankAccess needW 8 ea 8 = .key k u →
      asks (.updr d p a b fn imm) (.updr fn.val y) 8 ea 0 false false (s.doneTo d.val 0 p.val 8 false)) ∧
    (s.bankAccess needR n x n = .key k u →
      asks (.lrw d p a sc sx mw) (.lrw n) n x sc.val false true (s.doneTo d.val 0 p.val n sx)) ∧
    (s.bankAccess needW n x n = .key k u →
      asks (.sch p a b sc mw) (.sch n y) n x sc.val true false (s.doneTo 0 0 p.val 8 false)) ∧
    (s.bankAccess needR 8 x 8 = .key k u →
      asks (.rsvx a) .rsvx 8 x 0 false false (s.doneTo 0 0 0 8 false)) ∧
    (s.bankAccess needW 8 x 8 = .key k u →
      asks (.barinit d a b e sc) (.barinit (e.val % 2 == 1) y) 8 x sc.val true false (s.doneTo d.val 0 0 8 false) ∧
      asks (.barObject d a sc) .barObj 8 x sc.val true true (s.doneTo d.val 0 0 8 false)) ∧
    (s.cfgBank b = .key k u →
      asks (.updcfgSt d b imm) (.updcfgSt imm.toNat) 8 y 0 false true (s.doneTo d.val 0 0 8 false) ∧
      asks (.updcfgClr d b imm) (.updcfgClr imm.toNat) 8 y 0 false true (s.doneTo d.val 0 0 8 false)) ∧
    (∀ w ik, s.cfgBank b = .key k w → w.access needR true 64 x 64 = .key ik u → u.badIn ik 64 = none → u.pending m.uid = [] →
      asks (.updcfgLd d a b imm) (.updcfgLd imm.toNat (u.mem.read ik 64)) 8 y 0 false true (s.doneTo d.val 0 0 8 false))

/-- 09 R158 to R161, R165, R168, 02 R24: what stores and updates post to another home, or to own private memory behind earlier
entries of the buffer (08 R144): one request with the operands as the rule reads them; the thread goes on. -/
def Sys2Proof.Clause.PostedRequests : Prop :=
  ∀ (s u : State) (m : Thread) (a b : Reg) (sc : Scope) (mw : MemW) (imm : BitVec 32) (fn : Fin 64) (e : Fin 128)
    (k : Nat), s.issues m → s.okScope sc.val = true → u.bufferRoom 1 = true →
    let ea := (m.reg a.val + BitVec.signExtend 64 imm).toNat
    let n := 2 ^ mw.code
    let bs := bytesOf n (m.reg b.val + BitVec.signExtend 64 (BitVec.ofNat 7 e.val)).toNat
    let z := if fn.val = 0 then 64 else if fn.val = 1 then 256 else 4096
    let posts := fun (i : Instr) (op : ReqOp) (len scope : Nat) (rel : Bool) =>
      ∃ t, exec i s = .next t ∧ PostedReq u t m op k len ea scope rel
    2 ^ 60 ≤ ea ∨ u.buffered = true →
    (s.access needW false n ea n = .key k u → posts (.st a b mw e imm) (.store bs (2 ^ n - 1)) n 0 false ∧
      posts (.stl a b sc mw e imm) (.store bs (2 ^ n - 1)) n sc.val true) ∧
    (keySel k < 5 → s.access needW false 16 ea 16 = .key k u → posts (.stp a b imm)
      (.store (bytesOf 8 (m.reg b.val).toNat ++ bytesOf 8 (m.reg (b.val + 1)).toNat) 65535) 16 0 false) ∧
    (s.access needW false z ea z = .key k u → posts (.zfill a fn imm) (.zero z) z 0 false) ∧
    (s.access needW true 8 ea 8 = .key k u → posts (.fesetFull a imm) (.feset false) 8 0 false ∧
      posts (.fesetEmpty a imm) (.feset true) 8 0 false) ∧
    (s.bankAccess needW 8 ea 8 = .key k u → posts (.upd a b fn imm) (.upd fn.val (m.reg b.val).toNat) 8 0 false)

/-- 09 R160, 02 R24: `stm` to another home, or to own private memory behind earlier entries of the buffer: with room for all of
them it completes, having posted one store for each word that has a mask bit set, in ascending order. -/
def Sys2Proof.Clause.StoreMultiple : Prop :=
  ∀ (s u : State) (m : Thread) (a b c : Reg) (op : Fin 64) (imm : BitVec 32) (segs : List (Nat × Nat)), s.issues m → m.entered = 0 →
    1 ≤ op.val → b.val + op.val ≤ 32 →
    let ea := (m.reg a.val + BitVec.signExtend 64 imm).toNat
    let mask := fun i => if c.val = 0 then 255 else (m.reg c.val).toNat / 2 ^ (8 * i) % 256
    let is := (List.range op.val).filter fun i => mask i != 0
    s.check s.who needW false 8 ea (8 * op.val) = (.ok segs, u) → 2 ^ 60 ≤ ea ∨ u.buffered = true → u.bufferRoom is.length = true →
    ∃ t rs, exec (.stm a b c op imm) s = .next t ∧ rs.length = is.length ∧
      OnlyThread { u with reqs := u.reqs ++ rs, nextId := u.nextId + is.length } t s.iss.gid
        { m with seq := m.seq + is.length, entered := is.length, pc := wd s.iss.succ } ∧
      ∀ j i, is[j]? = some i → ∃ r, rs[j]? = some r ∧
        Made { u with nextId := u.nextId + j } { m with seq := m.seq + j } r (.store (bytesOf 8 (m.reg (b.val + i)).toNat) (mask i))
          (segKey segs (8 * i)) 8 (ea + 8 * i) 0 false false true

/-- What a thread asks of a home, and what it posts: the clauses named. -/
def Obligations.Requests : Prop :=
  Clause.HomeRequests ∧ Clause.PostedRequests ∧ Clause.StoreMultiple

/-- 09 R155, R158 to R170, 10 R182: an address that is not aligned as its form asks is a misaligned-access fault with the
address, and nothing is accessed. -/
def Sys2Proof.Clause.AlignmentTraps : Prop :=
  ∀ (s : State) (m : Thread) (d a b c : Reg) (p : PReg) (sc : Scope) (sx : Bool) (mw : MemW) (imm : BitVec 32) (fn : Fin 64)
    (e : Fin 128), s.issues m → s.okScope sc.val = true →
    let ea := (m.reg a.val + BitVec.signExtend 64 imm).toNat
    let x := (m.reg a.val).toNat
    let n := 2 ^ mw.code
    let f := Host.Outcome.next (s.fault 5 ea)
    let g := Host.Outcome.next (s.fault 5 x)
    (ea % n ≠ 0 → exec (.ld d a sx mw imm) s = f ∧ exec (.lda d a sc sx mw imm) s = f ∧ exec (.st a b mw e imm) s = f ∧
      exec (.stl a b sc mw e imm) s = f ∧ exec (.ldfe d a sc sx mw imm) s = f ∧ exec (.ldff d a sc sx mw imm) s = f ∧
      exec (.stef a b sc mw e imm) s = f ∧ exec (.stff a b sc mw e imm) s = f ∧ exec (.ldc d a c sx mw imm) s = f) ∧
    (ea % 8 ≠ 0 → exec (.fesetFull a imm) s = f ∧ exec (.fesetEmpty a imm) s = f ∧ exec (.feqry d a imm) s = f ∧
      exec (.upd a b fn imm) s = f ∧ exec (.updr d p a b fn imm) s = f ∧ exec (.stm a b c fn imm) s = f) ∧
    (ea % 16 ≠ 0 → exec (.ldp d a imm) s = f ∧ exec (.stp a b imm) s = f) ∧
    (x % n ≠ 0 → exec (.cas d a b c sc sx mw) s = g ∧ exec (.swap d a b sc sx mw) s = g ∧
      exec (.fetchadd d a b sc sx mw) s = g ∧ exec (.fetchaddImm d a b sc sx mw imm) s = g ∧
      exec (.lrw d p a sc sx mw) s = g ∧ exec (.sch p a b sc mw) s = g) ∧
    (x % 8 ≠ 0 → exec (.rsvx a) s = g ∧ exec (.barinit d a b e sc) s = g ∧ exec (.barObject d a sc) s = g)

/-- 00 R13, 08 R147: a scope the hypervisor's policy does not permit is a scope fault with the scope, before anything else. -/
def Sys2Proof.Clause.ScopeTraps : Prop :=
  ∀ (s : State) (m : Thread) (d a b c : Reg) (p : PReg) (sc : Scope) (sx : Bool) (mw : MemW) (imm : BitVec 32)
    (red : Fin 4) (e : Fin 128), s.issues m →
    (∀ v : Nat, s.okScope v = match v with
      | 0 => true | 1 => true | 2 => true | 3 => true | 5 => true
      | 4 => ((s.part? s.myPart).map fun x => x.policy.testBit 0).getD false
      | 6 => ((s.part? s.myPart).map fun x => x.policy.testBit 1).getD false
      | _ => false) ∧
    (s.okScope sc.val = false →
      let f := Host.Outcome.next (s.fault 14 sc.val)
      exec (.lda d a sc sx mw imm) s = f ∧ exec (.stl a b sc mw e imm) s = f ∧ exec (.ldfe d a sc sx mw imm) s = f ∧
      exec (.stef a b sc mw e imm) s = f ∧ exec (.ldff d a sc sx mw imm) s = f ∧ exec (.stff a b sc mw e imm) s = f ∧
      exec (.cas d a b c sc sx mw) s = f ∧ exec (.swap d a b sc sx mw) s = f ∧ exec (.fetchadd d a b sc sx mw) s = f ∧
      exec (.fetchaddImm d a b sc sx mw imm) s = f ∧ exec (.lrw d p a sc sx mw) s = f ∧ exec (.sch p a b sc mw) s = f ∧
      exec (.fence sc) s = f ∧ exec (.fenceDrn sc) s = f ∧ exec (.barNetwork d b c red sc) s = f ∧
      exec (.barDrain d a b c red sc) s = f ∧ exec (.barObject d a sc) s = f ∧ exec (.barinit d a b e sc) s = f)

/-- Misaligned addresses and scopes that are not permitted trap: the clauses named. -/
def Obligations.OperandTraps : Prop :=
  Clause.AlignmentTraps ∧ Clause.ScopeTraps

/-- 09 R172, R163, 15 R262: a fence with nothing to wait for goes on; at die scope or wider it drops the core's handle entries
and nothing else. `fence.drn` with entries held in banks sends each of those a drain and waits for them. A fence with earlier
accesses to wait for, or with a fault report under way, issues again when that is over. -/
def Obligations.FenceResults : Prop :=
  ∀ (s : State) (m : Thread) (sc : Scope), s.issues m →
    let dropped := fun (t : State) => if sc.val < 2 then t.cores = s.cores else
      (t.core s.myCore) = { s.core s.myCore with handles := [] } ∧ ∀ c, c ≠ s.myCore → t.core c = s.core c
    let done := fun (i : Instr) => ∃ t, exec i s = .next t ∧ t = { s with threads := t.threads, cores := t.cores } ∧ dropped t ∧
      t.thread? s.iss.gid = some { m with pc := wd s.iss.succ } ∧ ∀ h, h ≠ s.iss.gid → t.thread? h = s.thread? h
    (s.fenceDueOf s.iss.gid 0 = false → ∃ t, exec .fenceCore s = .next t ∧ WentOn s t) ∧
    (s.okScope sc.val = true → s.fenceDueOf s.iss.gid sc.val = false →
      done (.fence sc) ∧ (s.banksOf m.uid = [] → done (.fenceDrn sc)) ∧
      (s.banksOf m.uid ≠ [] → ∃ t, exec (.fenceDrn sc) s = .next t ∧
        t = { s with threads := t.threads, cores := t.cores,
                     drains := s.drains ++ (s.banksOf m.uid).map fun b => { bank := b, uid := m.uid, dom := 0, obj := 0 } } ∧ dropped t ∧
        t.thread? s.iss.gid = some { m with pc := wd s.iss.pc, wait := some { why := .drains, again := false, half := s.iss.half, fin := s.doneTo 0 0 0 8 false } } ∧
        ∀ h, h ≠ s.iss.gid → t.thread? h = s.thread? h)) ∧
    (s.okScope sc.val = true → s.fenceDueOf s.iss.gid sc.val = true → ∀ i, i = .fence sc ∨ i = .fenceDrn sc →
      ∃ t, exec i s = .next t ∧ t.iss.again = true ∧
        ∃ w, t.thread? s.iss.gid = some { m with pc := wd s.iss.pc, wait := some w } ∧ w.why = .fence sc.val ∧ w.again = true)

/-- 08 R142, 09 R158, R159, R166: what a home answers to loads and atomics: the bytes that stand there, and the new value written
in one step with reading the old. In CXL and host memory an `ldp` is read half by half. -/
def Sys2Proof.Clause.HomeAtomics : Prop :=
  ∀ (s : State) (r : Req) (n c v : Nat), s.atHome r (max n 16) →
    let old := s.mem.read r.key n
    let ok := fun (v : Nat) => ({ val := v, val2 := 0, pred := false, trap := none } : Res)
    let does := fun (mem : Memory) (x : Res) => ∃ t, exec (.homeAccess r.id) s = .next t ∧ Answered s t r mem x
    (r.op = .load n → does s.mem (ok old)) ∧
    (r.op = .pair → keySel r.key < 5 →
      does s.mem { val := s.mem.read r.key 8, val2 := s.mem.read (r.key + 8) 8, pred := false, trap := none }) ∧
    (r.op = .pair → 5 ≤ keySel r.key → ∃ t, exec (.homeAccess r.id) s = .next t ∧
      t = { s with reqs := s.reqs.map fun q => if q.id = r.id then
        { q with op := .pairHi (s.mem.read r.key 8), key := q.key + 8, len := 8, va := q.va + 8 } else q }) ∧
    (∀ lo, r.op = .pairHi lo → does s.mem { val := lo, val2 := s.mem.read r.key 8, pred := false, trap := none }) ∧
    (r.op = .feqry → does s.mem (ok (if r.key / 8 * 8 ∈ s.empties then 1 else 0))) ∧
    (keySel r.key ≠ 6 → 0 < n →
      (r.op = .swap n v → does (s.mem.write r.key (bytesOf n v)) (ok old)) ∧
      (r.op = .fadd n v → does (s.mem.write r.key (bytesOf n (old + v))) (ok old)) ∧
      (r.op = .cas n c v → old % 2 ^ (8 * n) = c % 2 ^ (8 * n) → does (s.mem.write r.key (bytesOf n v)) (ok old)) ∧
      (r.op = .cas n c v → old % 2 ^ (8 * n) ≠ c % 2 ^ (8 * n) → does s.mem (ok old)))

/-- 08 R142, 07 R125: a posted store at its home writes its unmasked bytes there, and no other byte. -/
def Sys2Proof.Clause.HomeStores : Prop :=
  ∀ (s : State) (r : Req) (bs : List Byte) (mask : Nat), s.reqs.find? (·.id == r.id) = some r → r.comb = [] →
    s.mayPerform r = true → s.plainAt r.key bs.length → s.mem.wf = true → r.op = .store bs mask →
    ∃ t, exec (.homeAccess r.id) s = .next t ∧
      t = { s.sliceSeen r with reqs := s.reqs.filter (·.id != r.id), mem := t.mem, bad := t.bad, soft := t.soft } ∧
      ∀ a, t.mem.byte a = if r.key ≤ a ∧ a < r.key + bs.length ∧ mask.testBit (a - r.key) = true
        then bs.getD (a - r.key) 0 else s.mem.byte a

/-- 02 R24, 09 R155, 03 R61: a reply that has come back completes the instruction that waits for it: its registers and
predicate are written and the thread is ready at the next head; a trap in the reply is taken at the instruction. A monitor unit
of its quad that samples replies takes the time (12 R221). -/
def Sys2Proof.Clause.ReplyCompletes : Prop :=
  ∀ (s : State) (r : Req) (m : Thread) (w : Wait) (x : Res), s.reqs.find? (·.id == r.id) = some r → r.res = some x →
    r.hop.cur = r.hop.dst → s.thread? r.gid = some m → m.uid = r.uid → m.wait = some w → w.why = .reply r.id →
    m.qmap = 0 → w.fin.d < 32 → w.fin.d2 < 32 → w.fin.pd < 8 → w.fin.width ≤ 8 → 0 < w.fin.width → x.val < 2 ^ (8 * w.fin.width) →
    let got : State := { s with reqs := s.reqs.filter (·.id != r.id) }
    (x.trap = none → (∀ o i p, r.op ≠ .iqbind o i p) → r.op ≠ .word → r.op ≠ .line → ∃ t n, exec (.replyArrival r.id) s = .next t ∧
      OnlyThread { got with quads := t.quads } t r.gid n ∧
      let one := (m.setReg w.fin.d (extended w.fin.sext w.fin.width x.val)).setReg w.fin.d2 (BitVec.ofNat 64 x.val2)
      ((∀ v, r.op ≠ .stat v) → n = { one.setPred w.fin.pd x.pred with wait := none, stat := .running, pc := BitVec.ofNat 64 w.fin.succ }) ∧
      (∀ v, r.op = .stat v → w.fin.d2 < 31 → w.fin.d ≠ w.fin.d2 + 1 → n = { (one.setReg (w.fin.d2 + 1) (BitVec.ofNat 64 v)).setPred w.fin.pd false with
        wait := none, stat := .running, pc := BitVec.ofNat 64 w.fin.succ })) ∧
    (∀ tr, x.trap = some tr → r.op ≠ .word → r.op ≠ .line →
      exec (.replyArrival r.id) s = .next ((got.sampled (gidQk r.gid) 0 (s.clock - r.born)).trapWaiting r.gid tr false))

/-- 17 R290, R309, 15 R262: the words of a chunk that a thread waits for come back one by one, with whether their codewords are
uncorrectable, and the 64 bytes of a record in one reply. -/
def Sys2Proof.Clause.WordReplies : Prop :=
  ∀ (s : State) (r : Req) (m : Thread) (w : Wait) (x : Res) (since : Nat) (ws : List (Nat × Nat)),
    s.reqs.find? (·.id == r.id) = some r → r.res = some x → r.hop.cur = r.hop.dst → s.thread? r.gid = some m → m.uid = r.uid →
    m.wait = some w → w.why = .gather since ws → since ≤ r.seq → r.key ∈ ws.map (·.1) →
    let takes := fun (l : List (Nat × Nat × Bool)) => ∃ t, exec (.replyArrival r.id) s = .next t ∧
      OnlyThread { s with reqs := s.reqs.filter (·.id != r.id), quads := t.quads } t r.gid { m with words := l ++ m.words }
    (r.op = .word → takes [(r.key, x.val, x.trap.isSome)]) ∧
    (r.op = .line → takes ((List.range 8).map fun i => (r.key + 8 * i, x.val / 2 ^ (64 * i) % 2 ^ 64, x.val2.testBit i)))

/-- What a home does with loads, stores and atomics, and the reply: the clauses named. -/
def Obligations.HomeAccesses : Prop :=
  Clause.HomeAtomics ∧ Clause.HomeStores ∧ Clause.ReplyCompletes ∧ Clause.WordReplies

/-- 07 R136, R137, 09 R170: reservations at their home: `lrw` of a free word holds it and reads it; the holder's `sch`
writes, succeeds and gives the hold up where no thread queues; a `sch` without the hold writes nothing and fails. -/
def Obligations.Reservations : Prop :=
  ∀ (s : State) (r : Req) (n v : Nat), s.atHome r 8 → n ≤ 8 → r.key % 8 + n ≤ 8 →
    let w := r.key / 8 * 8
    let mine := fun (x : Rsv) => x.word == w && x.uid == r.uid && x.hold
    let answered := fun (t : State) (x : Res) => ∃ q, t.reqs.find? (·.id == r.id) = some q ∧ q.res = some x
    (r.op = .lrw n → s.rsvs = [] → ∃ t, exec (.homeAccess r.id) s = .next t ∧ t.mem = s.mem ∧
      t.rsvs = [{ word := w, gid := r.gid, uid := r.uid, hold := true, scope := r.scope, off := r.key % 8 }] ∧
      answered t { val := s.mem.read r.key n, val2 := 0, pred := true, trap := none }) ∧
    (r.op = .sch n v → s.rsvs.any mine = false → ∃ t, exec (.homeAccess r.id) s = .next t ∧ t.mem = s.mem ∧
      t.rsvs = s.rsvs ∧ answered t { val := 0, val2 := 0, pred := false, trap := none }) ∧
    (∀ x, r.op = .sch n v → s.rsvs = [x] → mine x = true → ∃ t, exec (.homeAccess r.id) s = .next t ∧
      t.mem = s.mem.write r.key (bytesOf n v) ∧ t.rsvs = [] ∧
      answered t { val := 0, val2 := 0, pred := true, trap := none }) ∧
    (∀ x, r.op = .rsvx → s.rsvs = [x] → x.word = w → x.uid = r.uid → ∃ t, exec (.homeAccess r.id) s = .next t ∧
      t.mem = s.mem ∧ t.rsvs = [] ∧ answered t { val := 0, val2 := 0, pred := false, trap := none })

/-- 09 R176, R177: barrier objects at their home: `barinit` writes a valid word with nothing arrived and the generation after
the old one; the last arrival finds status 0 and starts the next generation of an automatic object, or spends the other
kind; status 4 on a word that is no object, 3 on a spent one, 2 for a count outside 1 to 65,535. -/
def Sys2Proof.Clause.BarrierObjects : Prop :=
  ∀ (s : State) (r : Req) (auto : Bool) (cnt : Nat), s.atHome r 8 →
    let v := s.mem.read r.key 8
    let valid := v.testBit 63
    let gen := v / 2 ^ 32 % 2 ^ 29
    let word := fun (a : Bool) (spent : Nat) (g c : Nat) =>
      bytesOf 8 (2 ^ 63 + (if a then 2 ^ 62 else 0) + spent * 2 ^ 61 + g % 2 ^ 29 * 2 ^ 32 + c * 2 ^ 16)
    let ok := fun (v : Nat) => ({ val := v, val2 := 0, pred := false, trap := none } : Res)
    let does := fun (mem : Memory) (x : Res) => ∃ t, exec (.homeAccess r.id) s = .next t ∧ Answered s t r mem x
    (r.op = .barinit auto cnt → cnt = 0 ∨ 65535 < cnt → does s.mem (ok 2)) ∧
    (r.op = .barinit auto cnt → 1 ≤ cnt → cnt ≤ 65535 →
      does (s.mem.write r.key (word auto 0 (if valid then gen + 1 else 0) cnt)) (ok 0)) ∧
    (r.op = .barObj → valid = false → does s.mem (ok 4)) ∧
    (r.op = .barObj → valid = true → v.testBit 61 = true → does s.mem (ok 3)) ∧
    (r.op = .barObj → valid = true → v.testBit 61 = false → v / 2 ^ 16 % 2 ^ 16 ≤ v % 2 ^ 16 + 1 →
      does (s.mem.write r.key (if v.testBit 62 then word true 0 (gen + 1) (v / 2 ^ 16 % 2 ^ 16)
        else word false 1 gen (v / 2 ^ 16 % 2 ^ 16))) (ok 0))

/-- 09 R177, R173: an arrival at a barrier object that is not the last one counts, and parks its thread on the object with the
generation it arrived in; other arrivals may be parked there. -/
def Sys2Proof.Clause.BarrierArrivals : Prop :=
  ∀ (s : State) (r : Req) (m : Thread) (w : Wait), s.reqs.find? (·.id == r.id) = some r → r.op = .barObj → s.mayPerform r = true →
    r.comb = [] → s.bad = [] → s.soft = [] → s.thread? r.gid = some m → m.wait = some w → s.holdEdges r.key = [] →
    let v := s.mem.read r.key 8
    let die := ((homeQuad r.key).map qkDie).getD (gidDie r.gid)
    v.testBit 63 = true → v.testBit 61 = false → v % 2 ^ 16 + 1 < v / 2 ^ 16 % 2 ^ 16 →
    ∃ t, exec (.homeAccess r.id) s = .next t ∧
      t = { s.sliceSeen r with
        mem := s.mem.write r.key (bytesOf 8 (v + 1)), reqs := s.reqs.filter (·.id != r.id), threads := t.threads, edges := t.edges,
        dies := t.dies,
        barWaits := s.barWaits ++ [{ word := r.key, gid := r.gid, uid := r.uid, gen := v / 2 ^ 32 % 2 ^ 29 }] } ∧
      t.thread? r.gid = some { m with stat := .parked, wait := some { w with why := .parked r.key 2, again := false } } ∧
      (∀ h, h ≠ r.gid → t.thread? h = s.thread? h) ∧
      ((s.freeEntry die).isSome = true →
        t.edges.any (fun e => e.die == die && e.obj == r.key && e.ok == 2 && e.ek == 0 && e.gid == r.gid) = true)

/-- 09 R173, R174, 06 R117: an arrival at a network barrier whose other participants have still to come parks its thread,
with the operand kept. Which die's table takes the edge of a barrier that spans dies is the model's choice (log 64). -/
def Sys2Proof.Clause.NetworkBarriers : Prop :=
  ∀ (s : State) (m : Thread) (d a b c : Reg) (red : Fin 4) (sc : Scope), s.issues m → s.okScope sc.val = true →
    let obj := netObj m.dom sc.val m.gid
    let arrive := fun (drain : Option Nat) =>
      ({ gid := m.gid, uid := m.uid, operand := (m.reg b.val).toNat, drain := drain, gone := false } : Arrival)
    let new := fun (drn : Bool) (drain : Option Nat) =>
      ({ dom := m.dom, obj := obj, scope := sc.val, red := red.val, drn := drn, arrivals := [arrive drain], poisoned := false, draining := none } : NetBar)
    let fin := s.doneTo d.val (if red.val = 0 then 0 else c.val) 0 8 false
    s.netBars = [] → s.storesDue sc.val = false → m.wait = none → s.holdEdges obj = [] →
    (s.threads.any fun t => t.dom == m.dom && netObj m.dom sc.val t.gid == obj && t.uid != m.uid && !s.lostDies.contains (gidDie t.gid)) = true →
    (∃ t, exec (.barNetwork d b c red sc) s = .next t ∧ ParkedOn s t m (netDie m.gid sc.val) obj 3 fin ∧
      t.netBars = [new false none]) ∧
    (∀ k u, s.bankAccess needW 8 (m.reg a.val).toNat 8 = .key k u → ∃ t, exec (.barDrain d a b c red sc) s = .next t ∧
      ParkedOn u t m (netDie m.gid sc.val) obj 3 fin ∧ t.netBars = [new true (some ((homeQuad k).getD 0))])

/-- Barrier objects and network barriers: the clauses named. -/
def Obligations.Barriers : Prop :=
  Clause.BarrierObjects ∧ Clause.BarrierArrivals ∧ Clause.NetworkBarriers

/-- 07 R130, R132, R133, 06 R118: updates at their bank. A function that is not installed reports a protection fault with its
number; one in plain mode is applied to the word at once; one in deterministic mode is held in a hand and changes no byte
until a drain. -/
def Sys2Proof.Clause.BankUpdates : Prop :=
  ∀ (s : State) (r : Req) (fn x : Nat), s.reqs.find? (·.id == r.id) = some r → r.op = .upd fn x → s.mayPerform r = true →
    let q := (homeQuad r.key).getD 0
    let b := s.bank q
    let rest := s.reqs.filter (·.id != r.id)
    (b.fn fn = none → ∃ t, exec (.bankUpdateArrival r.id) s = .next t ∧
      t = { s.sliceSeen r with
        reqs := rest, nextId := s.nextId + 1,
        reports := s.reports ++ [{ id := s.nextId, uid := r.uid, trap := { cls := 8, tval := fn, kind := 0 } }] }) ∧
    (∀ f, b.fn fn = some f → imgDet f.image = false → s.plainAt r.key 8 →
      let out := fnRun f.image (fnKey f.image q) f.sqCtr (s.mem.read r.key 8) x
      out.set = 0 → ∃ t, exec (.bankUpdateArrival r.id) s = .next t ∧ t.reqs = rest ∧ t.empties = s.empties ∧
        t.threads = s.threads ∧ t.mem = (if out.wrote then s.mem.write r.key (bytesOf 8 out.word) else s.mem)) ∧
    (∀ f, b.fn fn = some f → imgDet f.image = true → b.hands = [] → ∃ t, exec (.bankUpdateArrival r.id) s = .next t ∧
      t = { s.sliceSeen r with reqs := rest, banks := t.banks } ∧
      (t.bank q).hands = [(r.key, [{ gid := r.gid, uid := r.uid, part := r.part, va := r.va, seq := r.seq, word := r.key, fn := fn, operand := x }])])

/-- 06 R117, R119: a bank drains only what it has been sent, and then empties its hands and its overflow list; with nothing held
that changes nothing else, and a thread whose `fence.drn` waits for it alone goes on (09 R172). A deferred fault report reaches a
thread that does not wait parked as a fault kept for its next issue (09 R163). -/
def Sys2Proof.Clause.DrainsAndReports : Prop :=
  ∀ (s : State) (bank : Nat),
    (s.drains.find? (·.bank == bank) = none → exec (.drain bank) s = .next s) ∧
    (∀ x m w, s.drains.find? (·.bank == bank) = some x → x.uid ≠ 0 → (s.bank bank).hands = [] → (s.bank bank).overN = [] →
      s.threads.find? (·.uid == x.uid) = some m → s.thread? m.gid = some m → m.wait = some w → w.why = .drains →
      w.fin.d = 0 → w.fin.d2 = 0 → w.fin.pd = 0 → m.dfr = [] → (∀ r ∈ s.reports, r.uid ≠ x.uid) → s.drains.filter (·.uid == x.uid) = [x] →
      ∃ t, exec (.drain bank) s = .next t ∧ (t.bank bank).fns = (s.bank bank).fns ∧ (t.bank bank).hands = [] ∧ (t.bank bank).overN = [] ∧
        OnlyThread { s with drains := s.drains.erase x, banks := t.banks } t m.gid
          { m with wait := none, stat := .running, pc := BitVec.ofNat 64 w.fin.succ }) ∧
    (∀ x m, s.reports.find? (·.id == x.id) = some x → s.threads.find? (·.uid == x.uid) = some m → m.wait = none →
      s.thread? m.gid = some m → ∃ t, exec (.deferredFaultReport x.id) s = .next t ∧
        OnlyThread { s with reports := s.reports.filter (·.id != x.id) } t m.gid { m with dfr := m.dfr ++ [x.trap] })

/-- 07 R128: a refused full/empty request is sent again when its time has come, and not before. -/
def Sys2Proof.Clause.FullEmptyResend : Prop :=
  ∀ (s : State) (r : Req), s.reqs.find? (·.id == r.id) = some r → ∃ t, exec (.feRetryResend r.id) s = .next t ∧
    t = { s with reqs := t.reqs } ∧
    t.reqs.find? (·.id == r.id) = some { r with resendAt := if r.resendAt ≤ s.clock then 0 else r.resendAt }

/-- Updates at a bank, drains, deferred faults, and a full/empty request sent again: the clauses named. -/
def Obligations.BankUpdates : Prop :=
  Clause.BankUpdates ∧ Clause.DrainsAndReports ∧ Clause.FullEmptyResend

/-- 12 R223, 05 R91, 21 R358: what slot 15 may not run is a protection fault with the opcode. -/
def Sys2Proof.Clause.SupervisorRefusals : Prop :=
  ∀ (s : State) (m : Thread) (d a b : Reg) (p : PReg) (op : SigOp) (sc : Scope) (slot : Fin 64) (imm : BitVec 32)
    (sn : Fin 4096) (wt : Bool), s.issues m → s.iss.gid % 16 = 15 → s.okScope sc.val = true →
    let f := Host.Outcome.next (s.fault 8 s.iss.opc)
    exec .halt s = f ∧ exec .pause s = f ∧ exec (.emit op) s = f ∧ exec (.emitv a op) s = f ∧ exec (.pres p op) s = f ∧
    exec (.cede op) s = f ∧ exec (.claim d op) s = f ∧ exec (.unclaim op) s = f ∧ exec (.sigvCur d op) s = f ∧
    exec (.sigvPrev d op) s = f ∧ exec (.abortw sn slot imm) s = f ∧ exec (.suspw op) s = f ∧ exec .endw s = f ∧
    exec (.fork d slot imm) s = f ∧ exec .join s = f ∧ exec (.instNum d) s = f ∧ exec (.instSeed d) s = f ∧
    exec (.instNsig d) s = f ∧ exec (.trig sc) s = f ∧ exec .gangWait s = f ∧ exec (.gangOn d) s = f ∧ exec .gangOff s = f ∧
    exec (.migr d a) s = f ∧ exec (.wregHold d a) s = f ∧ exec (.wregFe d a) s = f ∧ exec (.wunreg d a) s = f ∧
    exec (.wwait d a) s = f ∧ exec (.wsig d a) s = f ∧ exec (.prioSet d a) s = f ∧ exec (.prioMax d) s = f ∧
    exec (.trapTime d) s = f ∧ exec (.trapUserAbort d) s = f ∧ exec (.trapPostFaultQueue d) s = f ∧
    exec (.trapNothing d imm) s = f ∧ exec (.spawn d a b slot imm) s = f ∧ exec (.rspawn d a b slot imm) s = f ∧
    exec (.fjoin d a b) s = f ∧ exec (.fjoinSync d a) s = f ∧ exec (.qmapSet d a) s = f ∧ exec (.qmapOff d) s = f ∧
    exec (.pktBeg d a) s = f ∧ exec .pktEnd s = f ∧ exec (.pktDisp d a b) s = f ∧ exec (.gath d a wt) s = f ∧ exec (.scat d a wt) s = f

/-- 02 R25, 12 R219: in slot 15 `sr.ebud` sets the core's refill and budget and, when the budget is positive, lets its held
threads run. -/
def Sys2Proof.Clause.EnergyBudgetWrite : Prop :=
  ∀ (s : State) (m : Thread) (a : Reg) (c : Fin 32), s.issues m → s.iss.gid % 16 = 15 →
    let v := m.reg a.val
    ∃ t, exec (.srwEbud a c) s = .next t ∧ t = { s with threads := t.threads, cores := t.cores } ∧
      t.core s.myCore = { s.core s.myCore with refill := v.toNat / 2 ^ 32, budget := (v.extractLsb' 0 32).toInt } ∧
      (∀ k, k ≠ s.myCore → t.core k = s.core k) ∧
      ∀ g n, s.thread? g = some n → g ≠ s.iss.gid → t.thread? g = some (if gidCk g = s.myCore ∧ n.stat = .held ∧
        0 < (v.extractLsb' 0 32).toInt then { n with stat := .running } else n)

/-- 12 R220: `tlbi` takes the translation entries it names out of every quad's table and every die's store, and no other;
walks in flight for the address space fill nothing, and the thread waits until those have ended. -/
def Sys2Proof.Clause.TranslationInvalidation : Prop :=
  ∀ (s : State) (m : Thread) (a : Reg), s.issues m →
    let does := fun (i : Instr) (asid : Nat) (hit : Tlb → Prop) => ∃ t, exec i s = .next t ∧
      t = { s with threads := t.threads, quads := t.quads, dies := t.dies, walks := t.walks } ∧
      (∀ q e, e ∈ (t.quad q).tlb ↔ e ∈ (s.quad q).tlb ∧ ¬(e.asid = asid ∧ hit e)) ∧
      (∀ d e, e ∈ (t.die d).store ↔ e ∈ (s.die d).store ∧ ¬(e.asid = asid ∧ hit e)) ∧
      (t.walks = s.walks.map fun w => if w.asid = asid ∧ w.state = 1 then { w with discard := true } else w) ∧
      (∀ h, h ≠ s.iss.gid → t.thread? h = s.thread? h) ∧
      t.thread? s.iss.gid = some (if s.walks.any (fun w => w.asid == asid && decide (w.id < s.nextId) && w.state == 1) then
          { m with pc := wd s.iss.pc, wait := some { why := .tlbi asid s.nextId, again := false, half := s.iss.half, fin := s.doneTo 0 0 0 8 false } }
        else { m with pc := wd s.iss.succ })
    let va := (m.reg a.val).toNat % 2 ^ 60
    does .tlbiAll m.asid (fun _ => True) ∧
    (s.iss.gid % 16 = 15 → does (.tlbiAsid a) ((m.reg a.val).toNat % 2 ^ 14) fun _ => True) ∧
    (s.iss.gid % 16 ≠ 15 → exec (.tlbiAsid a) s = .next (s.fault 8 s.iss.opc)) ∧
    (∀ sel, sel = 4 ∨ sel = 5 ∨ sel = 6 → (m.reg a.val).toNat / 2 ^ 60 = sel → va < 2 ^ 48 →
      does (.tlbiPage a) m.asid fun e => e.sel = sel ∧ e.va ≤ va ∧ va < e.va + e.size)

/-- What only the supervisor may do, and the energy budget and translation entries it changes: the clauses named. -/
def Obligations.SupervisorOnly : Prop :=
  Clause.SupervisorRefusals ∧ Clause.EnergyBudgetWrite ∧ Clause.TranslationInvalidation

/-- 12 R211 to R213: operations on a registered object in shared SRAM: the statuses of `wreg`, `wunreg`, `wwait` and `wsig`,
and the edges they make and take away. -/
def Sys2Proof.Clause.WaitObjects : Prop :=
  ∀ (s : State) (m : Thread) (d a : Reg) (die off : Nat), s.issues m → s.iss.gid % 16 ≠ 15 → m.wait = none →
    let x := 2 * 2 ^ 60 + die * 2 ^ 58 + off
    (m.reg a.val).toNat = x → die < 4 → off % 8 = 0 → off + 8 ≤ 0xC0000000 →
    let byMe := fun (ok : Nat) => s.edges.any fun e => e.ek != 0 && e.obj == x && e.ok == ok && e.gid == s.iss.gid
    let someone := s.edges.any fun e => e.ek != 0 && e.obj == x && e.ok == 7
    let entered := fun (t : State) (ok : Nat) => ∃ e : Edge, e.die = die ∧ e.obj = x ∧ e.ok = ok ∧ e.ek = 1 ∧
      e.gid = s.iss.gid ∧ OnlyThread { s with edges := e :: s.edges } t s.iss.gid { m.setReg d.val 0 with pc := wd s.iss.succ }
    (byMe 7 = true → Puts (.wregHold d a) s d 6) ∧ (byMe 0 = true → Puts (.wregFe d a) s d 6) ∧
    (byMe 7 = false → (s.freeEntry die).isSome = true → ∃ t, exec (.wregHold d a) s = .next t ∧ entered t 7) ∧
    (byMe 0 = false → (s.freeEntry die).isSome = true → ∃ t, exec (.wregFe d a) s = .next t ∧ entered t 0) ∧
    (byMe 7 = false → byMe 0 = false → Puts (.wunreg d a) s d 5) ∧
    (byMe 7 = true → s.parkedOn x 7 = [] → ∃ t, exec (.wunreg d a) s = .next t ∧
      OnlyThread { s with edges := s.edges.filter fun e =>
        !(e.ek != 0 && e.obj == x && (e.ok == 7 || e.ok == 0) && e.gid == s.iss.gid) } t s.iss.gid
        { m.setReg d.val 0 with pc := wd s.iss.succ }) ∧
    (someone = false → Puts (.wwait d a) s d 4) ∧
    (someone = true → s.edges.all (fun e => e.ek == 0 || e.obj != x || e.gid != s.iss.gid) = true →
      s.edges.all (fun e => e.ek != 0) = true → (s.freeEntry die).isSome = true →
      ∃ t, exec (.wwait d a) s = .next t ∧ ParkedOn s t m die x 7 (s.doneTo d.val 0 0 8 false)) ∧
    (s.releaseDue = false → byMe 7 = false → Puts (.wsig d a) s d 5) ∧
    (s.releaseDue = false → byMe 7 = true → s.parkedOn x 7 = [] → Puts (.wsig d a) s d 0)

/-- 12 R214, R215: the base priority a thread may take, and the result codes. -/
def Sys2Proof.Clause.PriorityResults : Prop :=
  ∀ (s : State) (m : Thread) (d a : Reg), s.issues m → s.iss.gid % 16 ≠ 15 →
    let v := (m.reg a.val).toNat
    (7 < v → Puts (.prioSet d a) s d 2) ∧ (v ≤ 7 → m.prioCeil < v → Puts (.prioSet d a) s d 1) ∧
    (v ≤ 7 → v ≤ m.prioCeil → Turns (.prioSet d a) s fun t => { t.setReg d.val 0 with prioBase := v }) ∧
    Turns (.prioMax d) s fun t => { t.setReg d.val 0 with prioBase := t.prioCeil }

/-- Registered wait objects and priorities: the clauses named. -/
def Obligations.WaitObjects : Prop :=
  Clause.WaitObjects ∧ Clause.PriorityResults

/-- 12 R217: the `trap` services: the thread waits for the supervisor context with its service number and, for services 2 and
3, the operand; service 0 by its own name, and any number that names no service is a protection fault with it. -/
def Sys2Proof.Clause.ServiceRequests : Prop :=
  ∀ (s : State) (m : Thread) (d : Reg) (imm : BitVec 32), s.issues m → s.iss.gid % 16 ≠ 15 → s.releaseDue = false →
    let asks := fun (i : Instr) (n v : Nat) =>
      let x : SupTrap := { core := gidCk s.iss.gid, gid := s.iss.gid, uid := m.uid, dom := m.dom, kind := 0, cls := 0, tval := 0,
                           epc := s.iss.pc, service := some (n, v) }
      ∃ t, exec i s = .next t ∧ OnlyThread { s with sup := s.sup ++ [x] } t s.iss.gid { m with
        pc := wd s.iss.pc, wait := some { why := .super, again := false, half := s.iss.half, fin := s.doneTo d.val 0 0 8 false } }
    asks (.trapNothing d 0) 0 0 ∧ asks (.trapTime d) 1 0 ∧ asks (.trapUserAbort d) 2 (m.reg d.val).toNat ∧
    asks (.trapPostFaultQueue d) 3 (m.reg d.val).toNat ∧
    (imm ≠ 0 → exec (.trapNothing d imm) s = .next (s.fault 8 imm.toNat))

/-- 11 R200, 12 R217: what the supervisor context does with the first request of its core: service 0 completes with 0,
service 1 with the clock, services 2 and a trap end the domain; a halted core serves none. -/
def Sys2Proof.Clause.SupervisorServes : Prop :=
  ∀ (s : State) (core : Nat) (x : SupTrap) (m : Thread), s.sup.find? (·.core == core) = some x → (s.core core).halted = false →
    s.thread? x.gid = some m → m.qmap = 0 →
    let rest : State := { s with sup := s.sup.filter (· != x) }
    let completes := fun (v : Nat) => ∀ w, m.wait = some w → w.fin.d < 32 → w.fin.d2 = 0 → w.fin.pd = 0 → w.fin.width = 8 →
      w.fin.sext = false → ∃ t, exec (.supervisorTrapService core) s = .next t ∧ OnlyThread rest t x.gid
        { m.setReg w.fin.d (BitVec.ofNat 64 v) with wait := none, stat := .running, pc := BitVec.ofNat 64 w.fin.succ }
    (x.service = some (0, 0) → completes 0) ∧ (x.service = some (1, 0) → completes s.clock) ∧
    (∀ v, x.service = some (2, v) → ∃ t, exec (.supervisorTrapService core) s = .next t ∧
      ∀ d, t.domain? x.dom = some d → d.stat = .aborted ∧ d.endWord = 5 + x.gid * 2 ^ 16 ∧ d.endVal = v) ∧
    (x.service = none → x.cls ≠ 10 → ∃ t, exec (.supervisorTrapService core) s = .next t ∧
      ∀ d, t.domain? x.dom = some d → d.stat = .aborted ∧ d.endVal = x.epc ∧ d.endTval = x.tval ∧
        d.endWord = x.kind + (if x.kind = 7 then x.cls else 0) * 2 ^ 8 + x.gid * 2 ^ 16)

/-- Requests to the supervisor and what it does with them: the clauses named. -/
def Obligations.Services : Prop :=
  Clause.ServiceRequests ∧ Clause.SupervisorServes

/-- 12 R219, 02 R25: reading state registers by number, the issuer's own and, in slot 15, a sibling's; a sibling's elsewhere
is a protection fault with the opcode. -/
def Sys2Proof.Clause.StateRegisterReads : Prop :=
  ∀ (s : State) (m : Thread) (dom : Domain) (d : Reg) (c : Fin 32), s.issues m → s.domain? m.dom = some dom → c.val < 16 →
    let r := fun (e : Nat) (h : e < 128) (v : Word) => Puts (.srr d ⟨e, h⟩ c) s d v
    r 0 (by decide) (BitVec.ofNat 64 s.iss.gid) ∧ r 1 (by decide) (BitVec.ofNat 64 dom.inst) ∧
    r 2 (by decide) (BitVec.ofNat 64 (m.prioCeil * 256 + m.prioBase)) ∧ r 3 (by decide) (BitVec.ofNat 64 (s.eprio s.iss.gid)) ∧
    r 5 (by decide) (BitVec.ofNat 64 m.wdlim) ∧ r 6 (by decide) m.cause ∧ r 7 (by decide) m.tval ∧ r 8 (by decide) m.epc ∧
    r 9 (by decide) m.trec ∧ r 10 (by decide) m.uih ∧ r 11 (by decide) m.uien ∧ r 12 (by decide) (BitVec.ofNat 64 m.asid) ∧
    (∀ v : BitVec 32, (s.core s.myCore).budget = v.toInt → (s.core s.myCore).refill < 2 ^ 32 →
      r 4 (by decide) (BitVec.ofNat 32 (s.core s.myCore).refill ++ v)) ∧
    (∀ (k : Fin 32) (e : Fin 128), 16 ≤ k.val → s.iss.gid % 16 ≠ 15 → exec (.srr d e k) s = .next (s.fault 8 s.iss.opc)) ∧
    (∀ (k : Fin 32) (n : Thread), 16 ≤ k.val → s.iss.gid % 16 = 15 → s.thread? (s.iss.gid - 15 + (k.val - 16)) = some n →
      Puts (.srr d 8 k) s d n.epc ∧ Puts (.srr d 6 k) s d n.cause)

/-- 12 R216, R219: writing state registers: a user thread may write those of numbers 6 to 11, whole; reserved bits and every
other register are a protection fault with the number. -/
def Sys2Proof.Clause.StateRegisterWrites : Prop :=
  ∀ (s : State) (m : Thread) (a : Reg) (c : Fin 32) (e : Fin 128), s.issues m → s.iss.gid % 16 ≠ 15 → c.val < 16 →
    let v := m.reg a.val
    let w := fun (n : Nat) (h : n < 128) (f : Thread → Thread) => Turns (.srw a ⟨n, h⟩ c) s f
    (v.toNat < 2 ^ 11 → w 6 (by decide) fun t => { t with cause := v }) ∧ (w 7 (by decide) fun t => { t with tval := v }) ∧
    (w 8 (by decide) fun t => { t with epc := v }) ∧ (w 9 (by decide) fun t => { t with trec := v }) ∧
    (w 10 (by decide) fun t => { t with uih := v }) ∧
    (v.toNat < 2 ^ 15 → v.getLsbD 0 = false → w 11 (by decide) fun t => { t with uien := v }) ∧
    (2 ^ 11 ≤ v.toNat → exec (.srw a 6 c) s = .next (s.fault 8 6)) ∧
    (2 ^ 15 ≤ v.toNat ∨ v.getLsbD 0 = true → exec (.srw a 11 c) s = .next (s.fault 8 11)) ∧
    (e.val < 6 ∨ 11 < e.val → exec (.srw a e c) s = .next (s.fault 8 e.val)) ∧
    exec (.srwEbud a c) s = .next (s.fault 8 4) ∧
    ∀ k : Fin 32, 16 ≤ k.val → exec (.srw a e k) s = .next (s.fault 8 s.iss.opc) ∧
      exec (.srwEbud a k) s = .next (s.fault 8 s.iss.opc)

/-- 12 R214, R216, R219, 02 R48: in slot 15 `srw` writes the issuer's own registers or a sibling's: `sr.prio`, `sr.wdlim`, `sr.asid`
and those a user thread may write; a value with reserved bits, and a register that is not written, are a protection fault with
the number. -/
def Sys2Proof.Clause.SupervisorRegisterWrites : Prop :=
  ∀ (s : State) (m n : Thread) (a : Reg) (c : Fin 32) (e : Fin 128), s.issues m → s.iss.gid % 16 = 15 →
    let g := if c.val < 16 then s.iss.gid else s.iss.gid - 15 + (c.val - 16)
    s.thread? g = some n →
    let v := m.reg a.val
    let x := v.toNat
    let w := fun (k : Nat) (h : k < 128) (f : Thread → Thread) => ∃ t, exec (.srw a ⟨k, h⟩ c) s = .next t ∧
      t = { s with threads := t.threads } ∧ (∀ h, h ≠ g → h ≠ s.iss.gid → t.thread? h = s.thread? h) ∧
      (g = s.iss.gid → t.thread? g = some { f m with pc := wd s.iss.succ }) ∧
      (g ≠ s.iss.gid → t.thread? g = some (f n) ∧ t.thread? s.iss.gid = some { m with pc := wd s.iss.succ })
    let faults := fun (k : Nat) (h : k < 128) => exec (.srw a ⟨k, h⟩ c) s = .next (s.fault 8 k)
    (x < 2 ^ 11 → x / 8 % 2 ^ 5 = 0 → w 2 (by decide) fun t => { t with prioCeil := x / 2 ^ 8, prioBase := x % 8 }) ∧
    (x < 2 ^ 32 → w 5 (by decide) fun t => { t with wdlim := x }) ∧ (x < 2 ^ 14 → w 12 (by decide) fun t => { t with asid := x }) ∧
    (x < 2 ^ 11 → w 6 (by decide) fun t => { t with cause := v }) ∧ w 7 (by decide) (fun t => { t with tval := v }) ∧
    w 8 (by decide) (fun t => { t with epc := v }) ∧ w 9 (by decide) (fun t => { t with trec := v }) ∧
    w 10 (by decide) (fun t => { t with uih := v }) ∧
    (x < 2 ^ 15 → v.getLsbD 0 = false → w 11 (by decide) fun t => { t with uien := v }) ∧
    (2 ^ 11 ≤ x ∨ x / 8 % 2 ^ 5 ≠ 0 → faults 2 (by decide)) ∧ (2 ^ 32 ≤ x → faults 5 (by decide)) ∧ (2 ^ 11 ≤ x → faults 6 (by decide)) ∧
    (2 ^ 15 ≤ x ∨ v.getLsbD 0 = true → faults 11 (by decide)) ∧ (2 ^ 14 ≤ x → faults 12 (by decide)) ∧
    (e.val < 2 ∨ e.val = 3 ∨ 12 < e.val → exec (.srw a e c) s = .next (s.fault 8 e.val))

/-- Every state register, read and written: the clauses named. -/
def Obligations.StateRegisters : Prop :=
  Clause.StateRegisterReads ∧ Clause.StateRegisterWrites ∧ Clause.SupervisorRegisterWrites

/-- 12 R221: the monitor units of the issuer's quad: selecting a source clears the counts, turning one off keeps them, reading
gives the item; a source above 5 is refused with 1. A unit that is on samples sources 1, 2 and 4 once at every 64th clock: the bank's
queue, the flits that stand in the router (log 18, DEDUCED) and the store buffers' entries; 0, 3 and 5 are sampled at their events. -/
def Sys2Proof.Clause.MonitorUnits : Prop :=
  ∀ (s : State) (m : Thread) (d a b : Reg) (c : Fin 32) (quad value : Nat), s.issues m → c.val < 4 →
    let mon := (s.quad s.myQuad).mons.getD c.val Mon.fresh
    let item := (m.reg b.val).toNat
    let set := fun (t u : State) (q : Nat) (x : Mon) => t.quads = u.quads ∧ u = s.setQuad { s.quad q with mons := (s.quad q).mons.set c.val x }
    (5 < (m.reg a.val).toNat → Puts (.monSel d c a) s d 1) ∧
    ((m.reg a.val).toNat ≤ 5 → ∃ t u, exec (.monSel d c a) s = .next t ∧ set t u s.myQuad
      { mon with on := true, src := (m.reg a.val).toNat, min := 0, max := 0, total := 0, seen := false, bins := List.replicate 16 0,
                 tick := s.clock / 64 } ∧
      Wrote u t d 0) ∧
    (∃ t u, exec (.monOff c) s = .next t ∧ set t u s.myQuad { mon with on := false } ∧ WentOn u t) ∧
    Puts (.monRd d c b) s d (BitVec.ofNat 64 (if item = 0 then mon.min else if item = 1 then mon.max else if item = 2 then mon.total
      else if 16 ≤ item ∧ item ≤ 31 then mon.bins.getD (item - 16) 0 else 0)) ∧
    (∃ t, exec (.monitorSample quad c.val value) s = .next t ∧ let n := (s.quad quad).mons.getD c.val Mon.fresh
      let took := fun (v : Nat) =>
        t = s.setQuad { s.quad quad with mons := (s.quad quad).mons.set c.val { n.sample v with tick := s.clock / 64 } }
      let depth := (s.reqs.filter fun r => r.place == quad && r.hop.cur == r.hop.dst && r.res.isNone && !r.carried && r.resendAt == 0).length
      (n.on = false ∨ n.src = 0 ∨ n.src = 3 ∨ n.src = 5 ∨ s.clock % 64 ≠ 0 ∨ s.clock / 64 ≤ n.tick → t = s) ∧
      (n.on = true → s.clock % 64 = 0 → n.tick < s.clock / 64 → (n.src = 1 → took depth) ∧ (n.src = 2 → took (s.packetsAt quad).length) ∧
        (n.src = 4 → took ((List.range 4).map fun k => s.bufferUse (quad * 4 + k)).sum)))

/-- 12 R221: the 15 edges of `mon.edge` come from 60 bytes of the issuer's own private memory at a multiple of 64, must not
fall, and clear the bins; edges that fall are a protection fault with the address. -/
def Sys2Proof.Clause.MonitorEdges : Prop :=
  ∀ (s : State) (m : Thread) (c : Fin 32) (a : Reg) (k : Nat), s.privateAt m (m.reg a.val).toNat 60 k → c.val < 4 →
    (m.reg a.val).toNat % 64 = 0 →
    let es := (List.range 15).map fun i => s.mem.read (k + 4 * i) 4
    let q := s.quad s.myQuad
    let mon := q.mons.getD c.val Mon.fresh
    (ascending es = true → ∃ t u, exec (.monEdge c a) s = .next t ∧
      u = s.setQuad { q with mons := q.mons.set c.val { mon with edges := es, bins := List.replicate 16 0 } } ∧ WentOn u t) ∧
    (ascending es = false → exec (.monEdge c a) s = .next (s.fault 8 (m.reg a.val).toNat))

/-- The monitor units of a quad: the clauses named. -/
def Obligations.Monitors : Prop :=
  Clause.MonitorUnits ∧ Clause.MonitorEdges

/-- 12 R222, 02 R48, R49: `wdarm` sets the limit, no larger than the domain's, and tells whether it is the reaction's first,
which starts the count; a firing whose count has run is kept for the thread's next issue. -/
def Obligations.Watchdog : Prop :=
  ∀ (s : State) (m : Thread) (d a : Reg),
    let v := (m.reg a.val).toNat % 2 ^ 32
    let lim := if m.wdlimMax = 0 then v else if v = 0 then m.wdlimMax else min v m.wdlimMax
    (s.issues m → m.wdArmed = false → Turns (.wdarm d a) s fun t =>
      { t.setReg d.val 0 with wdlim := lim, wdArmed := true, wdStart := s.clock }) ∧
    (s.issues m → m.wdArmed = true → Turns (.wdarm d a) s fun t => { t.setReg d.val 1 with wdlim := lim }) ∧
    (s.thread? m.gid = some m → m.wdRun = true → m.wdlim ≠ 0 → m.wait = none → m.wdPending = false →
      (m.wdStart + m.wdlim ≤ s.clock → ∃ t, exec (.watchdogFiring m.gid) s = .next t ∧
        OnlyThread s t m.gid { m with wdPending := true }) ∧
      (s.clock < m.wdStart + m.wdlim → exec (.watchdogFiring m.gid) s = .next s))

/-- 17 R292, R293: element-wise arithmetic on the register groups: on integers the results of 05 R101 and R102 in the
signedness of the format, on floats the exact value rounded once to nearest even; a minimum and a maximum ignore a NaN
beside a number, `vabs` and `vneg` change the sign bit. -/
def Sys2Proof.Clause.VectorArithmetic : Prop :=
  ∀ (s : State) (m : Thread) (d a b c : Reg) (fmt : Fin 16) (f : Nat), s.vectors m fmt f → f < 13 →
    d.val % 4 = 0 → d.val < 28 →
    let w := fmtWidth f
    let k := 256 / w
    let u := if f = 8 then 4 else if f = 9 ∨ f = 10 then 3 else 2
    let x := m.vel w a
    let y := m.vel w b
    let z := m.vel w c
    let i := fun (g : Nat → Nat) (j : Nat) => if f < 4 ∧ 2 ^ (w - 1) ≤ g j then (g j : Int) - 2 ^ w else (g j : Int)
    let mod := fun (v : Int) => (v % 2 ^ w).toNat
    let fl := fun (v : FV) => fencode f .rne false 0 v
    let dec := fdecode f
    let v := fun (ins : Instr) (g : Nat → Nat) => VGives ins s m d w k u 0 g
    (f < 8 →
      v (.vadd d a b false fmt) (fun j => x j + y j) ∧ v (.vsub d a b false fmt) (fun j => mod (x j - y j)) ∧
      v (.vmul d a b false fmt) (fun j => x j * y j) ∧ v (.vfma d a b c false fmt) (fun j => x j * y j + z j) ∧
      v (.vdiv d a b false fmt) (fun j => if y j = 0 then 2 ^ w - 1 else mod ((i x j).tdiv (i y j))) ∧
      v (.vmin d a b false fmt) (fun j => if i y j < i x j then y j else x j) ∧
      v (.vmax d a b false fmt) (fun j => if i x j < i y j then y j else x j) ∧
      v (.vabs d a false fmt) (fun j => mod |i x j|) ∧ v (.vneg d a false fmt) (fun j => mod (-(x j : Int)))) ∧
    (8 ≤ f →
      v (.vadd d a b false fmt) (fun j => fl ((dec (x j)).add .rne (dec (y j)))) ∧
      v (.vsub d a b false fmt) (fun j => fl ((dec (x j)).add .rne (dec (y j)).negate)) ∧
      v (.vmul d a b false fmt) (fun j => fl ((dec (x j)).mul (dec (y j)))) ∧
      v (.vfma d a b c false fmt) (fun j => fl (FV.fma .rne (dec (x j)) (dec (y j)) (dec (z j)))) ∧
      v (.vdiv d a b false fmt) (fun j => fl ((dec (x j)).div (dec (y j)))) ∧
      v (.vmin d a b false fmt) (fun j => fminEnc f (x j) (y j)) ∧ v (.vmax d a b false fmt) (fun j => fmaxEnc f (x j) (y j)) ∧
      v (.vabs d a false fmt) (fun j => if (dec (x j)).isNaN then fmtNaN f else x j % 2 ^ (w - 1)) ∧
      v (.vneg d a false fmt) (fun j => if (dec (x j)).isNaN then fmtNaN f else Nat.xor (x j) (2 ^ (w - 1)))) ∧
    v (.vclamp d a b c false fmt) (fun j => if f < 8 then
        let p := if i x j < i y j then y j else x j
        let ip := if i x j < i y j then i y j else i x j
        if i z j < ip then z j else p
      else if (dec (x j)).isNaN then fmtNaN f else fminEnc f (fmaxEnc f (x j) (y j)) (z j)) ∧
    (8 ≤ f → f ≤ 10 → v (.vlerp d a b c false fmt) fun j => fl ((dec (x j)).add .rne ((dec (z j)).mul ((dec (y j)).sub .rne (dec (x j))))))

/-- 17 R294: compares, selects, bitwise operations, shifts, fills, broadcasts, permutations and masks, in register mode. -/
def Sys2Proof.Clause.VectorMoves : Prop :=
  ∀ (s : State) (m : Thread) (d a b c : Reg) (e : Fin 128) (fmt : Fin 16) (f : Nat), s.vectors m fmt f → f < 15 →
    d.val % 4 = 0 → d.val < 28 →
    let w := fmtWidth f
    let k := 256 / w
    let x := m.vel w a
    let y := m.vel w b
    let z := m.vel w c
    let r := m.reg a.val
    let q := m.reg b.val
    let v := fun (ins : Instr) (g : Nat → Nat) => VGives ins s m d w k 1 0 g
    let ones := fun (p : Bool) => if p then 2 ^ w - 1 else 0
    v (.vsel d a b c false fmt) (fun j => if z j < 2 ^ (w - 1) then y j else x j) ∧
    v (.vand d a b false fmt) (fun j => x j &&& y j) ∧ v (.vor d a b false fmt) (fun j => x j ||| y j) ∧
    v (.vxor d a b false fmt) (fun j => x j ^^^ y j) ∧ v (.vfill d a false fmt) (fun _ => r.toNat) ∧
    v (.vcpy d a false fmt) x ∧ v (.vbcast d a b fmt) (fun _ => x (q.toNat % k)) ∧
    v (.vperm d a b c fmt) (fun j => let i := z j % (2 * k); if i < k then x i else y (i - k)) ∧
    v (.vmask d a b false fmt) (fun j => ones (decide (q.toNat ≤ j ∧ j < r.toNat))) ∧
    (f < 8 →
      v (.vshl d a b false fmt) (fun j => if w ≤ y j then 0 else x j * 2 ^ y j) ∧
      v (.vshr d a b false fmt) (fun j => if w ≤ y j then 0 else x j / 2 ^ y j) ∧
      v (.vsar d a b false fmt) (fun j =>
        (((if x j < 2 ^ (w - 1) then (x j : Int) else (x j : Int) - 2 ^ w) / 2 ^ y j) % 2 ^ w).toNat) ∧
      (e.val < 10 → v (.vcmp d a b e false fmt) fun j =>
        let i := fun (n : Nat) => if f < 4 ∧ 2 ^ (w - 1) ≤ n then (n : Int) - 2 ^ w else (n : Int)
        ones (match e.val with
          | 0 => decide (x j = y j) | 1 => decide (x j ≠ y j)
          | 2 => decide (i (x j) < i (y j)) | 3 => decide (i (x j) ≤ i (y j))
          | 4 => decide (i (y j) < i (x j)) | 5 => decide (i (y j) ≤ i (x j))
          | 6 => decide (x j < y j) | 7 => decide (x j ≤ y j) | 8 => decide (y j < x j) | _ => decide (y j ≤ x j)))) ∧
    (8 ≤ f → f < 13 → e.val < 8 → v (.vcmp d a b e false fmt) fun j => ones (fccHolds e.val (fdecode f (x j)) (fdecode f (y j))))

/-- Element-wise vector arithmetic and moves in register mode: the clauses named. -/
def Obligations.VectorArithmetic : Prop :=
  Clause.VectorArithmetic ∧ Clause.VectorMoves

/-- 17 R296, 13 R232, R233: the special functions, scaling by an FP32 factor and the softmax quotient, in register mode, on
FP32, FP16 and BF16: the reference function of 14 R249 to R254 rounded once. -/
def Sys2Proof.Clause.VectorFunctions : Prop :=
  ∀ (s : State) (m : Thread) (d a b : Reg) (fmt : Fin 16) (f : Nat), s.vectors m fmt f → f = 8 ∨ f = 9 ∨ f = 10 →
    d.val % 4 = 0 → d.val < 28 →
    let w := fmtWidth f
    let x := fun j => fdecode f (m.vel w a j)
    let v := fun (ins : Instr) (u : Nat) (g : FV → FV) => VGives ins s m d w (256 / w) u 0 fun j => fencode f .rne false 0 (g (x j))
    v (.vexp d a false fmt) 6 vExp ∧ v (.vexp2 d a false fmt) 6 vExp2 ∧ v (.vlog d a false fmt) 6 vLog ∧
    v (.vrcp d a false fmt) 6 vRcp ∧ v (.vrsq d a false fmt) 6 vRsq ∧ v (.vsqrt d a false fmt) 6 vSqrt ∧
    v (.vtanh d a false fmt) 6 vTanh ∧ v (.vsgm d a false fmt) 6 vSgm ∧ v (.vsilu d a false fmt) 6 vSilu ∧
    v (.vscl d a b fmt) 2 (fun y => y.mul (f32 (m.reg b.val).toNat)) ∧
    VGives (.vsmn d a b false fmt) s m d w (256 / w) 4 0 fun j => smnLane f (m.reg b.val).toNat (m.vel w a j)

/-- 14 R250 to R254: the special values of the reference functions. -/
def Sys2Proof.Clause.SpecialValues : Prop :=
  (∀ f : FV → FV, f = vExp ∨ f = vExp2 ∨ f = vLog ∨ f = vRcp ∨ f = vRsq ∨ f = vSqrt ∨ f = vTanh ∨ f = vSgm ∨ f = vSilu → f .nan = .nan) ∧
  vRcp (.inf false) = .fin false 0 1 ∧ (∀ n d, 0 < d → vRcp (.fin false 0 d) = .inf false ∧ vRcp (.fin true 0 d) = .inf true ∧
    (0 < n → ∃ e, vRcp (.fin false n d) = .fin false d e ∧ e = n)) ∧
  vSqrt (.inf false) = .inf false ∧ vSqrt (.inf true) = .nan ∧ vRsq (.inf false) = .fin false 0 1 ∧
  vLog (.inf false) = .inf false ∧ vExp (.inf false) = .inf false ∧ vExp2 (.inf false) = .inf false ∧
  (∀ n d, 0 < n → 0 < d → vSqrt (.fin true n d) = .nan ∧ vLog (.fin true n d) = .nan ∧ vRsq (.fin true n d) = .nan)

/-- 17 R289, R295, R297 to R303, 13 R234, R235: the operations of class V that convert, reduce, scan, normalise, sample or draw go on to
the next instruction in register mode, with a value in the destination they name and their charge taken, on every value of the
operands. -/
def Sys2Proof.Clause.VectorFormsComplete : Prop :=
  ∀ (s : State) (m : Thread) (d a b : Reg) (c : Fin 32) (e : Fin 128) (fmt : Fin 16) (rm : Fin 8) (f : Nat), s.vectors m fmt f →
    let word := fun (i : Instr) (n : Nat) => ∃ t v, exec i s = .next t ∧ Charged s t (m.setReg d.val v) n
    let group := fun (i : Instr) (n : Nat) => ∃ t v ctr, exec i s = .next t ∧ v < 2 ^ 256 ∧ Charged s t { m.setGroup d.val v with sqCtr := ctr } n
    let of := fun (code : Nat) => if code = 15 then m.shFmt.toNat % 32 else code
    let u := if f = 8 then 4 else if f = 9 ∨ f = 10 then 3 else 2
    (f < 15 → word (.vcnt d a false fmt) 4) ∧
    (f < 13 → word (.vsum d a false fmt) 4 ∧ word (.vdot d a b false fmt) u ∧ word (.vrmax d a false fmt) 4 ∧ word (.vrmin d a false fmt) 4 ∧
      group (.vscan d a false fmt) 4) ∧
    (f = 8 ∨ f = 9 ∨ f = 10 → group (.vnorm d a b false fmt) (2 * u) ∧ word (.vsmx d a false fmt) 4 ∧ group (.vsmn d a b false fmt) 4) ∧
    (f < 11 → group (.vrng d a b false fmt) 4) ∧ (f = 8 → word (.vsamp d a b fmt) 4) ∧
    (∃ t v ctr, exec (.rng d a b) s = .next t ∧ Charged s t { m.setReg d.val v with sqCtr := ctr } 4) ∧
    (of (e.val % 32) < 15 → of c.val < 15 → group (.vcvt d a c e false rm) 2) ∧ (of c.val < 13 → group (.vround d a c false rm) 2) ∧
    (8 ≤ of c.val → of c.val ≤ 12 → of (e.val % 32) = 13 → group (.vdeq d a b c e false rm) 2) ∧
    (8 ≤ of (e.val % 32) → of (e.val % 32) ≤ 10 → of c.val = 13 → ∃ t v x ctr, exec (.vqnt d a b c e false rm) s = .next t ∧
      Charged s t { (m.setGroup d.val v).setReg b.val x with sqCtr := ctr } 2)

/-- The special functions and their results at special values, and that the other forms of class V complete: the clauses named. -/
def Obligations.VectorFunctions : Prop :=
  Clause.VectorFunctions ∧ Clause.SpecialValues ∧ Clause.VectorFormsComplete

/-- 17 R297, R298, 14 R243 to R245: conversions, rounding, quantization and dequantization in register mode, with the draws of
`sto` and the blocks they spend. -/
def Obligations.VectorConversions : Prop :=
  ∀ (s : State) (m : Thread) (d a b : Reg) (c : Fin 32) (e : Fin 128) (rm : Fin 8), s.issues m → m.sqCtr < 2 ^ 128 → rm.val < 5 →
    d.val % 4 = 0 → d.val < 28 → b.val ≠ 0 →
    let of := fun (code : Nat) => if code = 15 then m.shFmt.toNat % 32 else code
    let src := of (e.val % 32)
    let dst := of c.val
    let mode := Rm.ofCode rm.val
    let draw := fun j => drawAt m.sqKey ((m.stream.map (·.ctr)).getD m.sqCtr) j
    let blocks := fun n => if rm.val = 4 then (n + 3) / 4 else 0
    let n := 256 / max (fmtWidth src) (fmtWidth dst)
    let wd' := fmtWidth dst
    (src < 15 → dst < 15 → VGives (.vcvt d a c e false rm) s m d wd' n 2 (blocks n) fun j =>
      convert src dst mode (tbit e.val 5) (draw j) (m.vel (fmtWidth src) a j)) ∧
    (dst < 13 → VGives (.vround d a c false rm) s m d wd' (256 / wd') 2 (if dst < 8 then 0 else blocks (256 / wd')) fun j =>
      roundEl dst mode (draw j) (m.vel wd' a j)) ∧
    ((8 ≤ dst ∧ dst ≤ 12) → src = 13 → VGives (.vdeq d a b c e false rm) s m d wd' (256 / wd') 2 (blocks (256 / wd')) fun j =>
      fencode dst mode (tbit e.val 5) (draw j)
        (blkVal ((m.reg b.val).toNat / 2 ^ (8 * (j / 8)) % 256) (m.groupOf a.val / 2 ^ (4 * j) % 16))) ∧
    ((8 ≤ src ∧ src ≤ 10) → dst = 13 → b.val + 3 < d.val ∨ d.val + 3 < b.val →
      ∃ t blk scl, exec (.vqnt d a b c e false rm) s = .next t ∧ blk < 2 ^ (1024 / fmtWidth src) ∧ scl < 2 ^ (256 / fmtWidth src) ∧
        (∀ k, k < 32 / fmtWidth src →
          quantize mode (fun i => draw (8 * k + i)) ((List.range 8).map fun i => fdecode src (m.vel (fmtWidth src) a (8 * k + i)))
            = (blk / 2 ^ (32 * k) % 2 ^ 32, scl / 2 ^ (8 * k) % 2 ^ 8)) ∧
        Charged s t { (m.setGroup d.val blk).setReg b.val (BitVec.ofNat 64 scl) with
          sqCtr := (m.sqCtr + blocks (256 / fmtWidth src)) % 2 ^ 128 } 2)

/-- 17 R295, R299, R301, 14 R247: reductions of register groups to one register, and the scan: integers modulo 2^64, floats in
FP32 in the lane order of 14 R247. -/
def Sys2Proof.Clause.VectorReductions : Prop :=
  ∀ (s : State) (m : Thread) (d a b : Reg) (fmt : Fin 16) (f : Nat), s.vectors m fmt f → f < 13 →
    let w := fmtWidth f
    let k := 256 / w
    let x := m.vel w a
    let y := m.vel w b
    let sg := fun (n : Nat) => if f < 4 ∧ 2 ^ (w - 1) ≤ n then (n : Int) - 2 ^ w else (n : Int)
    let u := if f = 8 then 4 else if f = 9 ∨ f = 10 then 3 else 2
    let js := List.range k
    let wide := fun j => fencode 8 .rne false 0 (fdecode f (x j))
    RGives (.vcnt d a false fmt) s m d 4 (js.countP fun j => x j != 0) ∧
    (f < 8 →
      RGives (.vsum d a false fmt) s m d 4 ((js.map fun j => sg (x j)).sum % 2 ^ 64).toNat ∧
      RGives (.vdot d a b false fmt) s m d u ((js.map fun j => sg (x j) * sg (y j)).sum % 2 ^ 64).toNat ∧
      (∃ v : Nat, RGives (.vrmax d a false fmt) s m d 4 v ∧ (∃ j, j < k ∧ (v : Int) = sg (x j) % 2 ^ 64) ∧
        ∀ j, j < k → ∃ i, i < k ∧ (v : Int) = sg (x i) % 2 ^ 64 ∧ sg (x j) ≤ sg (x i)) ∧
      (∃ v : Nat, RGives (.vrmin d a false fmt) s m d 4 v ∧ (∃ j, j < k ∧ (v : Int) = sg (x j) % 2 ^ 64) ∧
        ∀ j, j < k → ∃ i, i < k ∧ (v : Int) = sg (x i) % 2 ^ 64 ∧ sg (x i) ≤ sg (x j)) ∧
      (d.val % 4 = 0 → d.val < 28 → VGives (.vscan d a false fmt) s m d w k 4 0 fun j => ((List.range (j + 1)).map x).sum)) ∧
    (8 ≤ f →
      RGives (.vsum d a false fmt) s m d 4 ((orderedSum w (js.map fun j => some (wide j))).getD 0) ∧
      RGives (.vdot d a b false fmt) s m d u
        ((orderedSum w (js.map fun j => some (fencode 8 .rne false 0 ((fdecode f (x j)).mul (fdecode f (y j)))))).getD 0) ∧
      RGives (.vrmax d a false fmt) s m d 4 (((List.range (k - 1)).map fun j => wide (j + 1)).foldl (fmaxEnc 8) (wide 0)) ∧
      RGives (.vrmin d a false fmt) s m d 4 (((List.range (k - 1)).map fun j => wide (j + 1)).foldl (fminEnc 8) (wide 0)) ∧
      (d.val % 4 = 0 → d.val < 28 → VGives (.vscan d a false fmt) s m d w k 4 0 fun j => fencode f .rne false 0
        (f32 (((List.range j).map fun i => wide (i + 1)).foldl (fun p v => fencode 8 .rne false 0 ((f32 p).add .rne (f32 v))) (wide 0)))))

/-- 17 R300, R303, 13 R233 to R235, 14 R243, R248: normalisation, the running softmax state, sampling and random words, in
register mode: `vsamp` takes the first lane whose prefix sum exceeds the draw's share of the total, or the last positive one, or
0xFFFF_FFFF where the total is 0, and no format but fp32. -/
def Sys2Proof.Clause.VectorSampling : Prop :=
  ∀ (s : State) (m : Thread) (d a b : Reg) (fmt : Fin 16) (f : Nat), s.vectors m fmt f →
    let w := fmtWidth f
    let k := 256 / w
    let u := if f = 8 then 4 else 3
    let own := a.val = 0
    let spent := fun (n : Nat) => if own then n else 0
    let rnd := fun (n : Thread) (j : Nat) => if own then { n with sqCtr := (m.sqCtr + j) % 2 ^ 128 } else n
    let key := if own then m.sqKey else (m.reg a.val).toNat
    let ctr := if own then m.sqCtr else (m.reg b.val).toNat
    let first := if own then (m.stream.map (·.ctr)).getD m.sqCtr else (m.reg b.val).toNat
    let p := fun j => if (f32 (m.vel 32 a j)).isNaN = false ∧ fxZero.lt (f32 (m.vel 32 a j)) = true then m.vel 32 a j else 0
    let sum := fun j => ((List.range j).map fun i => p (i + 1)).foldl (fun y x => fencode 8 .rne false 0 ((f32 y).add .rne (f32 x))) (p 0)
    let share := f32 (fencode 8 .rne false 0 ((FV.fin false ((m.reg b.val).toNat / 2 ^ 40 % 2 ^ 24) (2 ^ 24)).mul (f32 (sum 7))))
    let above := fun j => share.lt (f32 (sum j)) = true
    (∃ t, exec (.rng d a b) s = .next t ∧ Charged s t (rnd (m.setReg d.val (BitVec.ofNat 64 (squall key ctr))) 1) 4) ∧
    (f = 8 ∨ f = 9 ∨ f = 10 → d.val % 4 = 0 → d.val < 28 → VGives (.vnorm d a b false fmt) s m d w k (2 * u) 0 fun j =>
      (normRow f (m.reg b.val).toNat ((List.range k).map (m.vel w a))).getD j 0) ∧
    (f = 8 ∨ f = 9 ∨ f = 10 → RGives (.vsmx d a false fmt) s m d 4
      (smxStep w (m.reg d.val).toNat ((List.range k).map fun j => fencode 8 .rne false 0 (fdecode f (m.vel w a j))))) ∧
    (f < 11 → d.val % 4 = 0 → d.val < 28 → VGives (.vrng d a b false fmt) s m d w k 4 (spent 2) fun j => rndEl f key first j) ∧
    (f ≠ 8 → exec (.vsamp d a b fmt) s = .next (s.fault 8 m.shFmt.toNat)) ∧
    (f = 8 → sum 7 = 0 → RGives (.vsamp d a b fmt) s m d 4 0xFFFFFFFF) ∧
    (f = 8 → sum 7 ≠ 0 → ∀ i, i < 8 → above i → (∀ j, j < i → ¬above j) → RGives (.vsamp d a b fmt) s m d 4 i) ∧
    (f = 8 → sum 7 ≠ 0 → (∀ j, j < 8 → ¬above j) → ∀ i, i < 8 → p i ≠ 0 → (∀ j, i < j → j < 8 → p j = 0) →
      RGives (.vsamp d a b fmt) s m d 4 i)

/-- Reductions, softmax, random numbers and sampling: the clauses named. -/
def Obligations.VectorReductions : Prop :=
  Clause.VectorReductions ∧ Clause.VectorSampling

/-- 17 R289: a format code that stands for none an operation takes is a protection fault with the thread's format word, in
either mode; a gang member's handle-mode issue is one with the opcode. -/
def Obligations.VectorTraps : Prop :=
  ∀ (s : State) (m : Thread) (d a b c : Reg) (th : Bool) (e : Fin 128) (fmt : Fin 16) (f : Nat), s.vectors m fmt f →
    let g := Host.Outcome.next (s.fault 8 m.shFmt.toNat)
    let o := Host.Outcome.next (s.fault 8 s.iss.opc)
    (15 ≤ f → exec (.vadd d a b th fmt) s = g ∧ exec (.vsub d a b th fmt) s = g ∧ exec (.vmul d a b th fmt) s = g ∧
      exec (.vfma d a b c th fmt) s = g ∧ exec (.vdiv d a b th fmt) s = g ∧ exec (.vmin d a b th fmt) s = g ∧
      exec (.vmax d a b th fmt) s = g ∧ exec (.vabs d a th fmt) s = g ∧ exec (.vneg d a th fmt) s = g ∧
      exec (.vcmp d a b e th fmt) s = g ∧ exec (.vsel d a b c th fmt) s = g ∧ exec (.vand d a b th fmt) s = g ∧
      exec (.vor d a b th fmt) s = g ∧ exec (.vxor d a b th fmt) s = g ∧ exec (.vshl d a b th fmt) s = g ∧
      exec (.vshr d a b th fmt) s = g ∧ exec (.vsar d a b th fmt) s = g ∧ exec (.vexp d a th fmt) s = g ∧
      exec (.vsilu d a th fmt) s = g ∧ exec (.vfill d a th fmt) s = g ∧ exec (.vcpy d a th fmt) s = g ∧
      exec (.vsum d a th fmt) s = g ∧ exec (.vdot d a b th fmt) s = g ∧ exec (.vcnt d a th fmt) s = g ∧
      exec (.vtopk d a b e th fmt) s = g ∧ exec (.vscan d a th fmt) s = g ∧ exec (.vnorm d a b th fmt) s = g) ∧
    (f < 13 → s.inGang = true → exec (.vadd d a b true fmt) s = o ∧ exec (.vmul d a b true fmt) s = o ∧
      exec (.vcpy d a true fmt) s = o ∧ exec (.vsel d a b c true fmt) s = o ∧ exec (.vfill d a true fmt) s = o ∧
      exec (.vsum d a true fmt) s = o ∧ exec (.vdot d a b true fmt) s = o ∧ exec (.vscan d a true fmt) s = o)

/-- 17 R310, R311, R313, R314: the elements a thread reads and writes through a handle of its private memory, their addresses,
and what a handle says. -/
def Sys2Proof.Clause.TensorElements : Prop :=
  ∀ (s : State) (m : Thread) (d a b c : Reg) (fmt : Fin 16) (h : Handle) (q : Nat), s.tensor m (m.reg a.val).toNat h q → m.sqCtr < 2 ^ 128 →
    let f := if fmt.val = 15 then m.shFmt.toNat % 32 else fmt.val
    let o := (m.reg b.val).toNat
    let o' := (m.reg c.val).toNat
    let i := fun (j : Nat) => ((o % 2 ^ 32 + j, o / 2 ^ 32, o' % 2 ^ 32, o' / 2 ^ 32) : Ix)
    let next := fun (n : Thread) => { n with pc := wd s.iss.succ }
    (f < 13 → h.fmt = f → o % 2 ^ 32 < 2 ^ 31 → o / 2 ^ 32 < 2 ^ 31 →
      (∃ t v, exec (.thld d a b c false fmt) s = .next t ∧ Looked s t s.mem (next (m.setGroup d.val v)) 0 ∧
        ∀ j, j < 256 / h.w → v / 2 ^ (h.w * j) % 2 ^ h.w = if h.inside (i j) = true then s.elAt h q (i j) else h.fill) ∧
      ∃ t, exec (.thst d a b c false fmt) s = .next t ∧
        Looked s t (s.mem.withEls h q (((List.range (256 / h.w)).filter fun j => h.inside (i j)).map fun j => (i j, m.vel h.w d j)))
          (next m) 0) ∧
    (h.inside (i 0) = true → ∃ t, exec (.thaddr d a b c) s = .next t ∧
      Looked s t s.mem (next (m.setReg d.val (BitVec.ofNat 64 (h.base + (h.loc (i 0)).2 / 8)))) 0) ∧
    (∃ x, Looked s x s.mem m 0 ∧ Answers (.thqry d a 2) s x m (gidQk s.iss.gid) h.foot d) ∧
    -- the handle form: the elements of the tensor at d against the window of the tensor at a, a chunk a turn; the words of an
    -- element whose source is clipped are full afterwards (15 R260)
    ∀ x qx, s.tensor m (m.reg d.val).toNat x qx → s.inGang = false → f < 13 → h.fmt = f → x.fmt = f → x.ext = h.window →
      o % 2 ^ 32 < 2 ^ 31 → o / 2 ^ 32 < 2 ^ 31 →
      let per := 256 / fmtWidth f
      let is := chunkIx x.ext per m.chunk.1
      let at' := shiftIx (o % 2 ^ 32) (o / 2 ^ 32)
      let after := m.after m s.iss.succ m.chunk.1 (cdiv x.n per) []
      (∃ t, exec (.thld d a b c true fmt) s = .next t ∧ Looked { s with empties := t.empties } t (s.mem.withEls x qx (is.map fun i =>
        (i, if h.inside (at' i) = true then s.elAt h q (at' i) else h.fill))) after 0 ∧
        ∀ w, w ∈ t.empties ↔ w ∈ s.empties ∧ ¬∃ i ∈ is, h.inside (at' i) = false ∧ ∃ j, j < x.w / 8 ∧ w = (elKey x qx i + j) / 8 * 8) ∧
      ∃ t, exec (.thst d a b c true fmt) s = .next t ∧ Looked s t (s.mem.withEls h q ((is.map fun i =>
        (at' i, s.elAt x qx i)).filter fun e => h.inside e.1)) after 0

/-- 17 R309, R313, R314, 15 R262: a handle's record in private memory: `thdef` writes one of its parts, adds 1 to its
generation (not where it writes the fill value), drops the entries held for it and answers 0; while a conversion is live only
the fill value may change, and the answer is 1. `thqry` reads its conversion and its generation; `thsync` answers 0 without a live
conversion, the state of a stopped one, and waits for one that moves. That `thqry` and `thsync` read the record in memory and not
the entry that the core holds (log 50), and that a conversion field which names no live conversion reads as none (log 20), are the
model's choices. -/
def Sys2Proof.Clause.HandleRecords : Prop :=
  ∀ (s : State) (m : Thread) (d a b c : Reg) (op : Fin 64) (k : Nat), let va := (m.reg a.val).toNat
    va % 64 = 0 → s.privateAt m va 64 k → (∀ r ∈ s.reqs, r.adm = none) → op.val < 5 →
    let x := (m.reg b.val).toNat
    let y := (m.reg c.val).toNat
    let conv := s.readN (k + 8) 8
    let gen := s.readN (k + 48) 4
    let live := if conv = 0 then none else s.convAt k
    let up := bytesOf 4 (gen + 1)
    let done := fun (v : Nat) => { m.setReg d.val (BitVec.ofNat 64 v) with pc := wd s.iss.succ }
    (conv = 0 ∨ op.val = 3 → ∃ t, exec (.thdef d a b c op) s = .next t ∧
      Looked s t (match op.val with
        | 0 => (s.mem.write k (bytesOf 8 x)).write (k + 48) up
        | 1 => (s.mem.write (k + 32) (bytesOf 8 x)).write (k + 48) up
        | 2 => (s.mem.write (k + 16) (bytesOf 8 x ++ bytesOf 8 y)).write (k + 48) up
        | 3 => s.mem.write (k + 40) (bytesOf 8 x)
        | _ => s.mem.write k (List.replicate 48 0 ++ up ++ List.replicate 12 0)) (done 0) 0 ∧
      ∀ e ∈ (t.core s.myCore).handles, e.2.1 ≠ va) ∧
    (conv ≠ 0 → op.val ≠ 3 → ∃ t, exec (.thdef d a b c op) s = .next t ∧ Wrote s t d 1) ∧
    (∃ t, exec (.thqry d a 1) s = .next t ∧ Looked s t s.mem (done gen) 0) ∧
    (∃ t, exec (.thqry d a 0) s = .next t ∧ Looked s t s.mem (done (match live with
      | none => 0 | some v => v.gran.countP (fun g => g == 2) * 2 ^ 32 + if v.stop = 0 then 1 else v.stop)) 0) ∧
    (live = none → ∃ t, exec (.thsync d a) s = .next t ∧ Looked s t s.mem (done 0) 0) ∧
    ∀ v, live = some v → (v.stop ≠ 0 → ∃ t, exec (.thsync d a) s = .next t ∧ Looked s t s.mem (done v.stop) 0) ∧
      (v.stop = 0 → ∃ t, exec (.thsync d a) s = .next t ∧ Looked s t s.mem { m with
        pc := wd s.iss.pc, wait := some { why := .sync k, again := false, half := s.iss.half, fin := s.doneTo d.val 0 0 8 false } } 0)

/-- Elements through handles, and the records of handles: the clauses named. -/
def Obligations.Tensors : Prop :=
  Clause.TensorElements ∧ Clause.HandleRecords

/-- 15 R263, R269, R271, 17 R312: `relay` of a handle of private memory waits for its home's answer: 1 where a conversion is live, 4
where a stopped one goes on to the storage the handle already has, from what its record says; 3 where the handle is there
already; and, to a layout `row`, `col`, `t8` or `t32` in private memory, 2 where the shuffler has no room, or 0, with the record
written, the handle turned to the new storage, its generation raised and every granule old. The record's own check is a premise. -/
def Sys2Proof.Clause.Relayout : Prop :=
  ∀ (s : State) (m : Thread) (d a b c : Reg) (e : Fin 128) (h : Handle) (k q q' rk : Nat), let va := (m.reg a.val).toNat
    let base := (m.reg b.val).toNat
    let rec' := (m.reg c.val).toNat
    let fl := (m.reg d.val).toNat
    let h' : Handle := { h with base := base, ctl := setBits h.ctl 8 5 e.val }
    let n := h'.grans
    let ins := Instr.relay d a b c e
    let home := gidQk s.iss.gid
    let there := e.val = h.lay ∧ base = h.base
    va % 64 = 0 → s.privateAt m va 64 k → (∀ r ∈ s.reqs, r.adm = none) →
    h = Handle.of va (s.readN k 64) (m.shFmt.toNat % 32) → fl < 2 ^ 16 →
    (h.conv = 0 → there → Answers ins s s m home 3 d) ∧
    (∀ v, h.conv ≠ 0 → s.convAt k = some v → v.stop = 0 ∨ ¬there → Answers ins s s m home 1 d) ∧
    (∀ v bs st, h.conv ≠ 0 → s.convAt k = some v → v.stop ≠ 0 → there → s.engBytes v.who v.record 64 = .ok bs s →
      let gr := ofBytes ((bs.drop 16).take 4)
      s.engBytes v.who (v.record + 64) (cdiv gr 4) = .ok st s →
      Answers ins s { s with convs := s.convs.map fun y => if y.handle = k then { y with
          stop := 0, tval := 0, copied := false, oldBase := ofBytes (bs.take 8), oldCtl := ofBytes ((bs.drop 8).take 8), flags := ofBytes ((bs.drop 48).take 8),
          gran := (List.range gr).map fun g => if ofBytes st / 4 ^ g % 4 = 2 then 2 else 0 } else y } m home 4 d) ∧
    (h.conv = 0 → h.valid = true → h.ch = false → h.lay < 4 → e.val < 4 → ¬there → h'.valid = true →
      rec' % 64 = 0 → keySel rk = 2 ∨ keySel rk = 4 →
      s.spanOf s.who false 3 rec' (64 + cdiv n 4) = .ok (.here [(rk, 64 + cdiv n 4)]) s → s.plainAt rk (64 + cdiv n 4) →
      s.privateAt m h.base h.foot q → s.privateAt m base h'.foot q' → q + h.foot ≤ q' ∨ q' + h'.foot ≤ q →
      let live := s.convs.filter (·.die == keyDie rk s.myDie)
      let full := Config.conversions ≤ live.length ∨ Config.granules < (live.map (·.gran.length)).sum + n
      (full → Answers ins s s m home 2 d) ∧
      (¬full → ∃ x v, Answers ins s x m home 0 d ∧
        x = { s with cores := x.cores, mem := x.mem, bad := x.bad, soft := x.soft, convs := s.convs ++ [v] } ∧
        v.handle = k ∧ v.handleVa = va ∧ v.die = keyDie rk s.myDie ∧ v.record = rec' ∧ v.oldBase = h.base ∧ v.oldCtl = h.ctl ∧
        v.gran = List.replicate n 0 ∧ v.stop = 0 ∧ v.flags = fl ∧ v.gid = s.iss.gid ∧ v.uid = m.uid ∧ v.dom = m.dom ∧
        v.seq = m.seq ∧ v.copied = false ∧
        x.mem = ((((s.mem.write rk (v.bytes 0 0)).write k (bytesOf 8 base ++ bytesOf 8 rec')).write (k + 32) (bytesOf 8 h'.ctl)).write
          (k + 48) (bytesOf 4 (h.gen + 1))) ∧
        (∀ j, x.core j = { s.core j with handles := (x.core j).handles }) ∧ ∀ y ∈ (x.core s.myCore).handles, y.2.1 ≠ va))

/-- 15 R263, R265, R270, R271: the shuffler takes the first granule of the next conversion to moving, then moves it, and makes it new
when its writes are performed; it waits for the accesses that the acquire flag orders before it and for those admitted at the
granule. A conversion all of whose granules are new ends, and one whose granule meets a fault stops, each with its record and
its completion. The count of a completion is open (log 24), and status 2 for a protection fault is the model's choice (log 17). -/
def Sys2Proof.Clause.Shuffler : Prop :=
  ∀ (s : State) (c : Conv),
    let mailed := fun (u t : State) (st : Nat) => ∃ n, n < 2 ^ 32 ∧ (t.core (gidCk c.gid)).mail = (u.core (gidCk c.gid)).mail ++
      [{ slot := gidSlot c.gid, uid := c.uid, dom := c.dom, word := c.flags % 2 ^ 16 + st * 2 ^ 16 + n * 2 ^ 32,
         scope := c.flags / 2 ^ 18 % 8, acq := c.flags.testBit 17 }]
    let takes := fun (u : State) => u.uidLive c.uid = true ∧ (u.part? c.part).isSome = true ∧
      (∀ m w, u.thread? (u.gidOf (gidCk c.gid) (gidSlot c.gid)) = some m → m.wait = some w →
        w.why ≠ .parked (queueObj 4 (u.gidOf (gidCk c.gid) (gidSlot c.gid))) okQueue) ∧
      (u.core (gidCk c.gid)).mail.length < Config.mailbox
    -- a thread that waits in thsync for the conversion completes; every other thread is as it was
    let syncs := fun (m : Thread) => ∃ w, m.wait = some w ∧ w.why = .sync c.handle
    let synced := fun (u t : State) (st : Nat) => ∀ g m, u.thread? g = some m → (∀ x ∈ u.threads, x.gid = g → x = m) →
      (¬syncs m → t.thread? g = some m) ∧ (syncs m → m.waitsOne → t.thread? g = some (m.completed st))
    (∀ die g, s.convs.find? (fun x => x.die == die && x.stop == 0 && x.next.isSome) = some c → c.next = some g →
      let ready := c.gran.getD g 2 = 1 ∧ s.moveWaits c = false ∧ s.admittedDue c g = false
      let due := fun (u : State) => ∃ r ∈ u.reqs, r.uid = 0 ∧ r.adm = some (c.handle, g) ∧ r.res = none
      let unseen := fun (u : State) => ∀ m ∈ u.threads, ∀ w, m.wait = some w → w.why ≠ .parked (tileObj c (u.convHandle c) g) okTile
      let becomes := fun (u : State) => exec (.granuleMove die) s = .next { u with
        convs := u.convs.filter (·.handle != c.handle) ++ [{ c with gran := c.gran.set g 2, copied := false }] }
      (c.gran.getD g 2 = 0 → s.moveWaits c = false → exec (.granuleMove die) s = .next { s with
        convs := s.convs.map fun x => if x.handle = c.handle then { x with gran := x.gran.set g 1 } else x }) ∧
      (s.moveWaits c = true ∨ (c.gran.getD g 2 = 1 ∧ s.admittedDue c g = true) → exec (.granuleMove die) s = .next s) ∧
      (∀ u, ready → c.copied = false → s.moveGranule c g = .ok () u → (¬due u → unseen u → becomes u) ∧
        (due u → exec (.granuleMove die) s = .next { u with
          convs := u.convs.map fun x => if x.handle = c.handle then { x with copied := true } else x })) ∧
      (ready → c.copied = true → (¬due s → unseen s → becomes s) ∧ (due s → exec (.granuleMove die) s = .next s))) ∧
    (∀ u, s.convAt c.handle = some c → c.next = none → c.stop = 0 →
      let gen := s.readN (c.handle + 48) 4
      let s1 := ((s.homeWrite (c.handle + 8) (bytesOf 8 0)).homeWrite (c.handle + 48) (bytesOf 4 (gen + 1))).dropHandle
        (gidCk c.gid) c.handleVa true
      s1.engStore c.who c.record (c.bytes 1 0) = .ok () u → takes u →
      ∃ t, exec (.conversionComplete c.handle) s = .next t ∧ t.mem = u.mem ∧
        t.convs = u.convs.filter (·.handle != c.handle) ∧ synced u t 0 ∧ mailed u t 0) ∧
    (∀ g st tval u, s.convAt c.handle = some c → c.next = some g → c.stop = 0 → c.gran.getD g 2 = 1 → c.copied = false →
      (∃ cls, s.moveGranule c g = .trap cls tval ∧ st = if cls = clsEcc then 3 else 2) ∨
        (∃ n sel va, s.moveGranule c g = .miss n sel va tval ∧ st = 2) →
      let c' := { c with gran := c.gran.set g 0, stop := st, tval := tval }
      let s1 := { s.moved c g with convs := (s.moved c g).convs.map fun (x : Conv) => if x.handle = c.handle then c' else x }
      s.moveWaits c = false → s.admittedDue c g = false → (∀ m ∈ s1.threads, ∀ w, m.wait = some w → w.why ≠ .parked (tileObj c (s1.convHandle c) g) okTile) →
      s1.engStore c.who c.record (c'.bytes st tval) = .ok () u → takes u →
      ∃ t, exec (.conversionStop c.handle) s = .next t ∧ t.mem = u.mem ∧ t.convs = u.convs ∧ synced u t st ∧ mailed u t st)

/-- 15 R263, R265, R270, R271, 17 R312, 11 R209: the forms of a conversion complete with nothing but the state and the operands asked
for: `relay` of a handle of private memory with its record in shared SRAM is accepted; the shuffler moves a granule between two
storages of layouts `row`, `col`, `t8` or `t32` in private memory, writing at once under the release flag and by requests of its own
else, after which the granule is new; a conversion all of whose granules are new ends; and one whose old storage has no translation stops with status 2 at the
granule's first element. -/
def Sys2Proof.Clause.ConversionFormsComplete : Prop :=
  (∀ (s : State) (m : Thread) (d a b c : Reg) (e : Fin 128) (k q q' die off : Nat), let va := (m.reg a.val).toNat
    let h := Handle.of va (s.readN k 64) (m.shFmt.toNat % 32)
    let h' : Handle := { h with base := (m.reg b.val).toNat, ctl := setBits h.ctl 8 5 e.val }
    let n := h'.grans
    let len := 64 + cdiv n 4
    let live := s.convs.filter (·.die == die)
    va % 64 = 0 → s.privateAt m va 64 k → (∀ r ∈ s.reqs, r.adm = none) → (m.reg d.val).toNat < 2 ^ 16 → h.conv = 0 →
    h.valid = true → h.ch = false → h.lay < 4 → e.val < 4 → ¬(e.val = h.lay ∧ h'.base = h.base) → h'.valid = true →
    s.privateAt m h.base h.foot q → s.privateAt m h'.base h'.foot q' → q + h.foot ≤ q' ∨ q' + h'.foot ≤ q →
    die < 4 → off % 64 = 0 → off + len ≤ Config.sharedBytes → (m.reg c.val).toNat = sharedKey die off → s.ownsShared s.myPart die off len = true →
    s.reservedShared die off len = false → s.plainAt (sharedKey die off) len → live.length < Config.conversions →
    (live.map (·.gran.length)).sum + n ≤ Config.granules →
    ∃ x v, Answers (.relay d a b c e) s x m (gidQk s.iss.gid) 0 d ∧ x.convs = s.convs ++ [v] ∧ v.handle = k ∧ v.oldBase = h.base ∧
      v.oldCtl = h.ctl ∧ v.gran = List.replicate n 0 ∧ v.stop = 0) ∧
  ∀ (s : State) (c : Conv),
    let new := s.convHandle c
    let old := new.old c
    let key := privKey (gidDie c.gid) (gidQuad c.gid) (gidCore c.gid)
    (∀ die g, s.convs.find? (fun x => x.die == die && x.stop == 0 && x.next.isSome) = some c → c.next = some g → c.gran.getD g 2 = 1 → c.copied = false →
      s.moveWaits c = false → s.admittedDue c g = false → (∀ r ∈ s.reqs, r.adm = none) → s.bad = [] → s.barWaits = [] → s.mem.wf = true → s.iss.plain = false → gidQuad c.gid < Config.quadsPerDie →
      s.owner (gidQk c.gid) = some c.part → old.valid = true → new.valid = true → new.lay < 4 → old.lay < 4 → 8 ≤ new.w → new.w = old.w →
      old.base + old.foot ≤ 0x8000 → new.base + new.foot ≤ 0x8000 → old.base + old.foot ≤ new.base ∨ new.base + new.foot ≤ old.base →
      let mine := (allIx new.ext).filter fun i => new.gran i == g
      ∃ t, exec (.granuleMove die) s = .next t ∧
        (c.flags.testBit 17 = true →
          t.convs = s.convs.filter (·.handle != c.handle) ++ [{ c with gran := c.gran.set g 2, copied := false }]) ∧
        (c.flags.testBit 17 = false → mine ≠ [] →
          t.convs = s.convs.map fun x => if x.handle = c.handle then { x with copied := true } else x) ∧
        ∀ i ∈ allIx new.ext, new.gran i = g →
          let k := key new.base + (new.loc i).2 / 8
          let v := s.readN (key old.base + (old.loc i).2 / 8) (new.w / 8)
          (c.flags.testBit 17 = true → t.readN k (new.w / 8) = v) ∧
          (c.flags.testBit 17 = false → t.mem = s.mem ∧ ∃ r ∈ t.reqs, r.uid = 0 ∧ r.adm = some (c.handle, g) ∧ r.key = k ∧
            r.op = .store (bytesOf (new.w / 8) v) (2 ^ (new.w / 8) - 1))) ∧
    (s.convAt c.handle = some c → c.next = none → c.stop = 0 → ∃ t, exec (.conversionComplete c.handle) s = .next t ∧
      t.convs = s.convs.filter (·.handle != c.handle)) ∧
    (∀ g i rest, s.convAt c.handle = some c → c.next = some g → c.stop = 0 → c.gran.getD g 2 = 1 → c.copied = false → s.moveWaits c = false →
      s.admittedDue c g = false → new.lay < 4 → old.lay < 4 → (allIx new.ext).filter (fun i => new.gran i == g) = i :: rest → old.valid = true →
      old.base / 2 ^ 60 = 4 → old.base % 2 ^ 60 + old.foot ≤ 2 ^ 48 → (s.quad (gidQk c.gid)).tlb = [] → (s.die (gidDie c.gid)).store = [] →
      (∀ va, s.walkTables c.part c.asid 4 va = none) → ∃ t, exec (.conversionStop c.handle) s = .next t ∧
        t.convs = s.convs.map fun x => if x.handle = c.handle then { c with
          gran := c.gran.set g 0, stop := 2, tval := old.base + (old.loc i).2 / 8 } else x)

/-- Starting, moving, completing and stopping the conversion of a tensor: the clauses named. -/
def Obligations.Conversions : Prop :=
  Clause.Relayout ∧ Clause.Shuffler ∧ Clause.ConversionFormsComplete

/-- 17 R289 to R296: the handle form of an element-wise operation runs a chunk a turn: each element of the chunk is written as
what the register form makes of those of the sources, which repeat where an extent is 1, and after the last chunk the
instruction completes. -/
def Sys2Proof.Clause.VectorHandles : Prop :=
  ∀ (s : State) (m : Thread) (d a b c : Reg) (e : Fin 128) (fmt : Fin 16) (f : Nat) (hd ha hb hc : Handle) (qd qa qb qc : Nat),
    s.vectors m fmt f → f < 13 → s.inGang = false →
    s.tensor m (m.reg d.val).toNat hd qd → s.tensor m (m.reg a.val).toNat ha qa → s.tensor m (m.reg b.val).toNat hb qb →
    s.tensor m (m.reg c.val).toNat hc qc → hd.fmt = f → ha.fmt = f → hb.fmt = f → hc.fmt = f →
    ha.fits hd.ext = true → hb.fits hd.ext = true → hc.fits hd.ext = true →
    let u := if f = 8 then 4 else if f = 9 ∨ f = 10 then 3 else 2
    let same := fun (h r : Instr) (hs : List (Handle × Nat)) (u : Nat) => HGives h s m hd qd hs u (s.viaGroups m r (fmtWidth f))
    let one := fun (h r : Instr) (u : Nat) => same h r [(ha, qa)] u
    let two := fun (h r : Instr) (u : Nat) => same h r [(ha, qa), (hb, qb)] u
    let three := fun (h r : Instr) (u : Nat) => same h r [(ha, qa), (hb, qb), (hc, qc)] u
    two (.vadd d a b true fmt) (.vadd 16 4 8 false fmt) u ∧ two (.vsub d a b true fmt) (.vsub 16 4 8 false fmt) u ∧
    two (.vmul d a b true fmt) (.vmul 16 4 8 false fmt) u ∧ two (.vdiv d a b true fmt) (.vdiv 16 4 8 false fmt) u ∧
    two (.vmin d a b true fmt) (.vmin 16 4 8 false fmt) u ∧ two (.vmax d a b true fmt) (.vmax 16 4 8 false fmt) u ∧
    one (.vabs d a true fmt) (.vabs 16 4 false fmt) u ∧ one (.vneg d a true fmt) (.vneg 16 4 false fmt) u ∧
    three (.vfma d a b c true fmt) (.vfma 16 4 8 12 false fmt) u ∧ three (.vclamp d a b c true fmt) (.vclamp 16 4 8 12 false fmt) u ∧
    three (.vsel d a b c true fmt) (.vsel 16 4 8 12 false fmt) 1 ∧ one (.vcpy d a true fmt) (.vcpy 16 4 false fmt) 1 ∧
    two (.vand d a b true fmt) (.vand 16 4 8 false fmt) 1 ∧ two (.vor d a b true fmt) (.vor 16 4 8 false fmt) 1 ∧
    two (.vxor d a b true fmt) (.vxor 16 4 8 false fmt) 1 ∧
    (e.val < 8 ∨ f < 8 → two (.vcmp d a b e true fmt) (.vcmp 16 4 8 e false fmt) 1) ∧
    (f < 8 → two (.vshl d a b true fmt) (.vshl 16 4 8 false fmt) 1 ∧ two (.vshr d a b true fmt) (.vshr 16 4 8 false fmt) 1 ∧
      two (.vsar d a b true fmt) (.vsar 16 4 8 false fmt) 1) ∧
    (f = 8 ∨ f = 9 ∨ f = 10 → three (.vlerp d a b c true fmt) (.vlerp 16 4 8 12 false fmt) u ∧
      one (.vexp d a true fmt) (.vexp 16 4 false fmt) 6 ∧ one (.vexp2 d a true fmt) (.vexp2 16 4 false fmt) 6 ∧
      one (.vlog d a true fmt) (.vlog 16 4 false fmt) 6 ∧ one (.vrcp d a true fmt) (.vrcp 16 4 false fmt) 6 ∧
      one (.vrsq d a true fmt) (.vrsq 16 4 false fmt) 6 ∧ one (.vsqrt d a true fmt) (.vsqrt 16 4 false fmt) 6 ∧
      one (.vtanh d a true fmt) (.vtanh 16 4 false fmt) 6 ∧ one (.vsgm d a true fmt) (.vsgm 16 4 false fmt) 6 ∧
      one (.vsilu d a true fmt) (.vsilu 16 4 false fmt) 6)

/-- 17 R295, R299, R301, 14 R247: the handle form of a reduction gathers a chunk a turn and writes its register after the last. -/
def Sys2Proof.Clause.VectorHandleReductions : Prop :=
  ∀ (s : State) (m : Thread) (d a b : Reg) (fmt : Fin 16) (f : Nat) (ha hb : Handle) (qa qb : Nat),
    s.vectors m fmt f → f < 13 → s.inGang = false →
    s.tensor m (m.reg a.val).toNat ha qa → s.tensor m (m.reg b.val).toNat hb qb → ha.fmt = f → hb.fmt = f →
    hb.ext = ha.ext →
    let w := fmtWidth f
    let u := if f = 8 then 4 else if f = 9 ∨ f = 10 then 3 else 2
    let sg := fun (n : Nat) => if f < 4 ∧ 2 ^ (w - 1) ≤ n then (n : Int) - 2 ^ w else (n : Int)
    let total := fun (l : List Nat) => if f < 8 then l.sum % 2 ^ 64 else (orderedSum w (l.map some)).getD 0
    HFolds (.vcnt d a true fmt) s m d ha.ext w [(ha, qa)] 4 (fun x => if x.getD 0 0 = 0 then 0 else 1) List.sum ∧
    HFolds (.vsum d a true fmt) s m d ha.ext w [(ha, qa)] 4
      (fun x => if f < 8 then (sg (x.getD 0 0) % 2 ^ 64).toNat else fencode 8 .rne false 0 (fdecode f (x.getD 0 0))) total ∧
    HFolds (.vdot d a b true fmt) s m d ha.ext w [(ha, qa), (hb, qb)] u
      (fun x => if f < 8 then (sg (x.getD 0 0) * sg (x.getD 1 0) % 2 ^ 64).toNat
        else fencode 8 .rne false 0 ((fdecode f (x.getD 0 0)).mul (fdecode f (x.getD 1 0)))) total

/-- Vector operations on tensors, a chunk a turn: the clauses named. -/
def Obligations.HandleMode : Prop :=
  Clause.VectorHandles ∧ Clause.VectorHandleReductions

/-- 13 R230, R231: a chunk of `vtopk` gathers the best entries so far, and the last one writes the list; `vmrgk` merges two
lists into one, `vmrgk.bank` by a request to the bank of the second, which merges it there between a release and an acquire. The
k-lists are in private memory; `vmrgk.bank`'s second list is checked by the premise. -/
def Sys2Proof.Clause.KListResults : Prop :=
  ∀ (s : State) (m : Thread) (d a b : Reg) (e : Fin 128) (th : Bool) (fmt : Fin 16) (f : Nat), s.vectors m fmt f → f < 13 →
    f ≠ 3 → f ≠ 7 → e.val ≠ 0 → (∀ r ∈ s.reqs, r.adm = none) →
    let k := e.val
    let la := (m.reg d.val).toNat
    let xa := (m.reg a.val).toNat
    let ya := (m.reg b.val).toNat
    let next := { m with pc := wd s.iss.succ }
    let entries := fun q => (List.range k).map fun i => s.readN (q + 8 * i) 8
    let cat := fun (l : List Nat) => l.flatMap (bytesOf 8)
    la % 8 = 0 →
    (∀ h q lk, s.inGang = false → s.tensor m xa h q → h.fmt = f → s.privateAt m la (8 * k) lk →
      let per := 256 / h.w
      let c := m.chunk.1
      let total := cdiv h.n per
      let xs := (chunkIx h.ext per c).map (s.elAt h q)
      let acc := kFirst f k (m.chunk.2 ++ ((List.range xs.length).filter fun j => f < 8 || !(fdecode f (xs.getD j 0)).isNaN).map fun j =>
        kVal f (xs.getD j 0) + (ya + c * per + j) % 2 ^ 32 * 2 ^ 32)
      ∃ t, exec (.vtopk d a b e th fmt) s = .next t ∧
        Looked s t (if total ≤ c + 1 then s.mem.write lk (cat (kFill k acc)) else s.mem) (m.after m s.iss.succ c total acc)
          (if c = 0 then 4 * total else 0)) ∧
    (∀ lk xk yk, xa % 8 = 0 → ya % 8 = 0 → s.privateAt m la (8 * k) lk → s.privateAt m xa (8 * k) xk →
      s.privateAt m ya (8 * k) yk → ∃ t, exec (.vmrgkLocal d a b e fmt) s = .next t ∧
        Looked s t (s.mem.write lk (cat (kFill k (kFirst f k (entries xk ++ entries yk))))) next (4 * cdiv (16 * k) 32)) ∧
    ∀ lk xk, xa % 8 = 0 → s.privateAt m xa (8 * k) xk → la / 2 ^ 60 = 2 ∨ la / 2 ^ 60 = 4 → la % 256 + 8 * k ≤ 256 →
      (∀ u : State, u = { s with iss := { s.iss with plain := u.iss.plain, puts := u.iss.puts } } →
        u.spanOf s.who false 3 la (8 * k) = .ok (.here [(lk, 8 * k)]) u) →
      ∃ x t, exec (.vmrgkBank d a e fmt) s = .next t ∧ Looked s x s.mem m (4 * cdiv (8 * k) 32) ∧
        Asked x t m (.topk f k (entries xk)) lk (8 * k) la 2 true true (s.doneTo 0 0 0 8 false)

/-- 13 R229: the first `k` of some entries: at most `k` of them, each one of those given, in order, and none left out comes
before the last one kept. Entries of equal value rank by their indices; log 23 places a NaN. -/
def Sys2Proof.Clause.KListOrder : Prop :=
  ∀ (f k : Nat) (l : List Nat), f < 13 → (∀ x ∈ l, x < 2 ^ 64) →
    let r := kFirst f k l
    r.length = min k l.length ∧ (∀ x, r.count x ≤ l.count x) ∧ r.Pairwise (fun x y => kBefore f y x = false) ∧
    ∀ x, r.count x < l.count x → ∀ y ∈ r, kBefore f x y = false

/-- 13 R231: at its bank a merge reads and writes the list in one access, and is answered. -/
def Sys2Proof.Clause.BankMerge : Prop :=
  ∀ (s : State) (r : Req) (f k : Nat) (es : List Nat), s.atHome r (8 * k) → r.op = .topk f k es →
    let l := (List.range k).map fun i => s.readN (r.key + 8 * i) 8
    ∃ t, exec (.homeAccess r.id) s = .next t ∧ Answered s t r (s.mem.write r.key ((kFill k (kFirst f k (l ++ es))).flatMap (bytesOf 8)))
      { val := 0, val2 := 0, pred := false, trap := none }

/-- Ordered k-lists and their merges: the clauses named. -/
def Obligations.KLists : Prop :=
  Clause.KListResults ∧ Clause.BankMerge ∧ Clause.KListOrder

/-- 17 R304, R305, 13 R228, 16 R278, R281, R283, R284: `mload` and `mmul` on a rectangle check their operands and go into its sequencer's
queue with the handle's record as it was read; an `mmul` at its head begins, or resumes the stopped one it repeats. -/
def Sys2Proof.Clause.MatrixIssue : Prop :=
  ∀ (s : State) (m : Thread) (r : Rect) (d a : Reg) (op : Fin 64) (e : Fin 128) (imm : BitVec 32) (raw : Nat),
    let va := (m.reg a.val).toNat
    let scl := m.shScl.toNat
    let i := imm.toNat
    let h := Handle.of va raw (m.shFmt.toNat % 32)
    let readable := fun (va n : Nat) => ∀ u : State,
      u = { s with cores := u.cores, iss := { s.iss with plain := u.iss.plain, puts := u.iss.puts } } →
      ∃ sp, u.spanOf s.who true needR va n = .ok sp u
    let okSc := fun (sc : Nat) (used : Prop) => sc ≠ 7 ∧ (used → s.okScope sc = true)
    s.onRectangle m r → s.recorded m va raw → h.valid = true →
    (h.ch = false → h.lay = 5 → h.e0 = 256 * r.rows → h.e1 = 128 * r.cols → okSc (e.val / 2 % 8) (e.val % 2 = 1) → readable h.base h.foot →
      ∃ t, exec (.mload d a op e) s = .next t ∧
        Sequenced s t m (if r.queue = [] then { r.cancel with asid := m.asid } else r) (.mload op.val va e.val raw) d) ∧
    (h.lay = 0 → h.fmt = 8 ∨ h.fmt = 9 ∨ h.fmt = 10 → h.e0 = 256 * r.rows → i % 128 ≤ h.e1 → m.shFmt.toNat / 2 ^ 14 % 4 ≠ 3 →
      okSc (i / 2 ^ 18 % 8) (i / 2 ^ 16 % 4 ≠ 0) → readable h.base (if h.ch = true then 0 else h.foot) →
      (scl ≠ 0 → scl % 8 = 0 ∧ farSpace scl = false ∧ scl / 2 ^ 60 ≠ 7 ∧
        readable scl (i % 128 * 8 * r.rows)) → r.mask = [] → (m.handler = true → r.st = 0 ∨ r.st = 3) →
      ∃ t, exec (.mmul d a op imm) s = .next t ∧
        Sequenced s t m (if r.queue ≠ [] ∨ r.st = 1 then r
          else if r.st = 2 ∧ r.slot = op.val % 8 ∧ r.accF = tbit op.val 3 ∧ r.imm = i ∧ r.aAddr = va then
            { r with st := 1, why := 0, loaded := r.grp, step := r.stepOf (actWidth m.shFmt.toNat) r.grp, asid := m.asid }
          else { r with st := 1, why := 0, mr := i % 128, accF := tbit op.val 3, slot := op.val % 8, grp := 0, step := 0, aAddr := va, imm := i,
                        loaded := 0, failed := false, sent := [], got := [], weights := [], asid := m.asid })
          (.mmul op.val va i m.shFmt.toNat scl raw) d)

/-- 17 R304, R306 to R308: with nothing queued, `mcfg` and `macc` complete at once: the outlier mask and its core and
handle, the cancelling of a stopped operation, and tile rows cleared or scaled; `mstat` waits for the sequencer's answer, which is the
status, the handle's address and the immediate of the latest `mmul`. -/
def Sys2Proof.Clause.MatrixState : Prop :=
  ∀ (s : State) (m : Thread) (r : Rect) (d a b c : Reg) (e : Fin 128), s.onRectangle m r →
    let la := (m.reg a.val).toNat
    let core := (m.reg b.val).toNat
    let done := fun (v : Nat) => { m.setReg d.val (BitVec.ofNat 64 v) with pc := wd s.iss.succ, wait := none, stat := .running }
    let ends := fun (ins : Instr) (r' : Rect) (mem : Memory) (v : Nat) =>
      ∃ t, exec ins s = .next t ∧ Looked { s with rects := s.rectsWith r' } t mem (done v) 0
    let tile := fun (rows : Nat) (g : Nat → Nat) =>
      ((List.range rows).flatMap fun i => (List.range (128 * r.cols)).map fun j => r.tileKey i j).foldl
        (fun (μ : Memory) k => μ.write k (bytesOf 4 (g (μ.read k 4)))) s.mem
    (r.queue = [] →
      (∃ t, exec (.mcfgMask d a b c 0) s = .next t ∧
        Looked { s with rects := s.rectsWith { r.cancel with mask := [], maskCore := 0, maskHandle := 0 } } t s.mem (done 0) 0) ∧
      (∀ k, e.val ≠ 0 → la % 2 = 0 → s.privateAt m la (2 * e.val) k → (∀ q ∈ s.reqs, q.adm = none) →
        let l := (List.range e.val).map fun i => s.readN (k + 2 * i) 2
        l.Pairwise (· < ·) → (∀ x ∈ l, x < 256 * r.rows) →
        core < 2 ^ 30 → gidPkg core = s.pkg → qkDie (gidQk core) = r.die → s.owner (gidQk core) = some r.part →
        ends (.mcfgMask d a b c e) { r.cancel with mask := l, maskCore := gidCk core, maskHandle := (m.reg c.val).toNat } s.mem 0) ∧
      ends (.mcfgCancel d) r.cancel s.mem (if r.st = 2 then 0 else 1) ∧
      ((∀ i j, i < la → j < 128 * r.cols → s.plainAt (r.tileKey i j) 4) → s.storesDue 2 = false → 1 ≤ la → la ≤ 64 →
        ends (.maccClr d a) r.cancel (tile la fun _ => 0) 0 ∧
        ends (.maccScl d a b) r.cancel (tile la fun x => fencode 8 .rne false 0 ((f32 x).mul (f32 (core % 2 ^ 32)))) 0)) ∧
    (la = 0 ∨ 64 < la → (∃ t, exec (.maccClr d a) s = .next t ∧ Wrote s t d 1) ∧ ∃ t, exec (.maccScl d a b) s = .next t ∧ Wrote s t d 1) ∧
    (1 ≤ la → la ≤ 64 → s.storesDue 2 = true → (∃ t, exec (.maccClr d a) s = .next t ∧ Retries s t m (.stores 2)) ∧
      ∃ t, exec (.maccScl d a b) s = .next t ∧ Retries s t m (.stores 2)) ∧
    ∃ t, exec (.mstat d) s = .next t ∧
      RepliesAs s t m (.stat r.imm) (qk r.die r.quad) (r.st * 2 ^ 62 + r.why * 2 ^ 52 + r.mr * 2 ^ 32 + r.accF.toNat * 2 ^ 31 +
        r.slot * 2 ^ 28 + if r.st = 1 ∨ r.st = 2 then r.grp % 8 * 2 ^ 16 + r.step % 2 ^ 16 else 0) r.aAddr false
        (s.doneTo d.val (d.val + 1) 0 8 false)

/-- 16 R282 to R286, 17 R305: the operation at the head of a sequencer ends: an `mmul` whose steps meet no fault is done and
answers whether a column checksum failed; one that faults on an address stops at its row group, with cause 2, and answers 2, one that
meets an uncorrectable word with cause 3; an `mload` reads its handle's record again, fills its slot of every macro and answers 0. The
accesses themselves are those of the premises, and that a macro computes wrongly is a free value (log 16). -/
def Sys2Proof.Clause.SequencerEnds : Prop :=
  ∀ (s s' : State) (n : Thread) (r r' : Rect) (g uid grp slot va flags raw : Nat) (x : Nat × Nat × MatOp) (upset : Bool),
    s.rect? r.id = some r → r.queue = [x] → x.1 = g → x.2.1 = uid →
    s'.thread? g = some n → n.waitsOne → (∀ y ∈ s'.rects, y.id = r.id → y = r') → s'.rect? r.id = some r' → r'.queue = [x] →
    r.orphan = false → r'.orphan = false →
    let ended := fun (ins : Instr) (r'' : Rect) (v : Nat) => ∃ t, exec ins s = .next t ∧ t.rect? r.id = some r'' ∧
      t.thread? g = some (n.completed v) ∧ (∀ h, h ≠ g → t.thread? h = s'.thread? h) ∧ t.mem = s'.mem
    let who : Who := { part := r.part, asid := r.asid, gid := g }
    let free : Rect := { r' with sent := [], got := [], weights := [], loaded := 0, failed := false, queue := [] }
    (∀ op h imm fmt scl, x.2.2 = .mmul op h imm fmt scl raw → r.st = 1 → s.matAcquireDue r g uid (tbit imm 16) (bits imm 20 18) = false →
      let stopped := fun (why : Nat) => { free with st := 2, why := why, grp := grp, step := r'.stepOf (actWidth fmt) grp }
      (s.runMmul r g h fmt scl raw = (grp, none, s') →
        ended (.mmulComplete r.id upset) { free with st := 3, why := (upset || r'.failed).toNat, grp := 0, step := 0 } (upset || r'.failed).toNat) ∧
      (∀ cls tval, cls ≠ clsEcc → s.runMmul r g h fmt scl raw = (grp, some (.trap cls tval), s') → ended (.sequencerStop r.id) (stopped 2) 2) ∧
      (∀ need sel va first, s.runMmul r g h fmt scl raw = (grp, some (.miss need sel va first), s') →
        ended (.sequencerStop r.id) (stopped 2) 2) ∧
      (∀ tval, s.runMmul r g h fmt scl raw = (grp, some (.trap clsEcc tval), s') →
        ∃ t, exec (.sequencerStop r.id) s = .next t ∧ t.rect? r.id = some (stopped 3))) ∧
    (x.2.2 = .mload slot va flags raw → s.matAcquireDue r g uid (tbit flags 0) (bits flags 3 1) = false →
      ∀ (imgs : List Nat) (h : Handle) (u : State), imgs.length = r.rows * r.cols →
      s.recordNow who r.dom va raw ((s.thread g).shFmt.toNat % 32)
        (fun h => !h.ch && h.scaled && h.e0 == 256 * r.rows && h.e1 == 128 * r.cols) = (h, u) →
      u.readImages who h (r.rows * r.cols) = .ok imgs s' →
      ∃ t, exec (.mloadComplete r.id) s = .next t ∧ t.thread? g = some (n.completed 0) ∧
        (∀ h, h ≠ g → t.thread? h = s'.thread? h) ∧ t.mem = s'.mem ∧
        (∃ r'', t.rect? r.id = some r'' ∧ r''.queue = [] ∧ (va, slot) ∈ r''.reload ∧ ∀ y ∈ r''.reload, y.2 = slot → y = (va, slot)) ∧
        (1 ≤ r.rows → 1 ≤ r.cols → r.quad + 64 * (r.rows - 1) + r.cols ≤ 4096 → r.cols ≤ 64 → ∀ i j, i < r.rows → j < r.cols →
          t.slotImage (r.quadAt i j) slot = imgs.getD (i * r.cols + j) 0))

/-- Matrix operations at issue, at their rectangle, and their completion: the clauses named. -/
def Obligations.MatrixSequencer : Prop :=
  Clause.MatrixIssue ∧ Clause.MatrixState ∧ Clause.SequencerEnds

/-- 05 R109, 19 R335, R337, 21 R360: a message is entered word by word through `msnd` or whole by `send`: the header is checked,
and the flit leaves when its last word is given and the send buffer has room; without room the thread waits. -/
def Sys2Proof.Clause.SendResults : Prop :=
  ∀ (s : State) (m : Thread) (n a b : Reg) (op : Fin 64), s.issues m →
    let v := (m.reg a.val).toNat
    let kind := v / 2 ^ 62
    let legal := kind = 0 ∧ v / 2 ^ 59 % 8 = 0 ∧ v / 2 ^ 30 % 2 ^ 26 = 0 ∨
      kind = 1 ∧ v / 2 ^ 45 % 8 = 0 ∧ v / 2 ^ 30 % 2 ^ 10 = 0 ∧ v / 2 ^ 40 % 32 ≠ 0
    let len := fun (h : Nat) => if h / 2 ^ 62 = 0 then h / 2 ^ 56 % 8 else 1
    let room := (s.msgs.filter fun x => gidCk x.flit.src == s.myCore && x.ldc.isNone).length < Config.sendBuffer
    let enters := fun (ins : Instr) (k : Thread) (h : Nat) (ws : List Nat) =>
      (room → ∃ t, exec ins s = .next t ∧ Sent s t m k h ws) ∧
      (¬room → ∃ t, exec ins s = .next t ∧ Retries s t m .sendRoom)
    (n.val ≠ 0 → exec (.msndWrite n a) s = .next (s.fault 8 n.val)) ∧
    (n.val = 0 → m.sendPart = none →
      (¬legal → exec (.msndWrite n a) s = .next (s.fault 8 v)) ∧
      (legal → len v ≠ 0 → Turns (.msndWrite n a) s fun t => { t with sendPart := some (v, []) }) ∧
      (legal → len v = 0 → enters (.msndWrite n a) m v [])) ∧
    (∀ h ws, n.val = 0 → m.sendPart = some (h, ws) →
      (ws.length + 1 < len h → Turns (.msndWrite n a) s fun t => { t with sendPart := some (h, ws ++ [v]) }) ∧
      (len h ≤ ws.length + 1 → enters (.msndWrite n a) { m with sendPart := none } h (ws ++ [v]))) ∧
    (¬(legal ∧ len v = op.val) → exec (.send a b op) s = .next (s.fault 8 v)) ∧
    (legal → len v = op.val → kind = 1 ∨ s.mayReach (v % 2 ^ 30) = true →
      (m.sendPart ≠ none → exec (.send a b op) s = .next (s.fault 8 0xA8)) ∧
      (m.sendPart = none → enters (.send a b op) m v ((List.range op.val).map fun i => (m.reg (b.val + i)).toNat)))

/-- 05 R109, 19 R336, 21 R361: the oldest message of the slot leaves the receive store: `mrcv` reads its header and then its
words, `recv` and `recv.poll` all of it; without one the first two park and the third posts a receive of 64 clocks. -/
def Sys2Proof.Clause.ReceiveResults : Prop :=
  ∀ (s : State) (m : Thread) (d : Reg) (p : PReg), s.issues m →
    let slot := s.iss.gid % 16
    let c := s.core s.myCore
    let first := c.recv.find? fun f => hdrGid f.hdr % 16 == slot
    let takes := fun (ins : Instr) (f : Flit) (n : Thread) => ∃ t, exec ins s = .next t ∧
      CoreTo s t { n with pc := wd s.iss.succ } s.myCore { c with recv := c.recv.erase f }
    let parks := fun (ins : Instr) (width : Nat) => m.wait = none → s.holdEdges (queueObj 5 s.iss.gid) = [] →
      ∃ t, exec ins s = .next t ∧ ParkedOn s t m (gidDie s.iss.gid) (queueObj 5 s.iss.gid) okQueue (s.doneTo d.val 0 0 width false)
    (∀ v rest, m.recvPart = v :: rest →
      Turns (.mrcvRead d) s (fun t => { t with recvPart := rest }.setReg d.val (BitVec.ofNat 64 v)) ∧
      exec (.recvWait d) s = .next (s.fault 8 0xA9) ∧ exec (.recvPoll d p) s = .next (s.fault 8 0xA9)) ∧
    (m.recvPart = [] →
      (∀ f, first = some f →
        takes (.mrcvRead d) f ({ m with recvPart := f.words }.setReg d.val (BitVec.ofNat 64 f.hdr)) ∧
        takes (.recvWait d) f (m.setFlit d.val f) ∧ takes (.recvPoll d p) f ((m.setFlit d.val f).setPred p.val true)) ∧
      (first = none → parks (.mrcvRead d) 8 ∧ parks (.recvWait d) 0 ∧
        ∃ t, exec (.recvPoll d p) s = .next t ∧ CoreTo s t { m.setPred p.val false with pc := wd s.iss.succ } s.myCore
          { c with posted := (slot, s.clock + 64) :: c.posted.filter fun x => x.1 != slot }))

/-- 21 R362, R363, R366, R367, 18 R318: a new continuation and its word; `waitr` of none, of one that has its value, and of
one that has not; the oldest completion of the slot, taken or waited for; the interrupt enable, refused in slot 15. -/
def Sys2Proof.Clause.ContinuationResults : Prop :=
  ∀ (s : State) (m : Thread) (d a : Reg) (p : PReg), s.issues m →
    let slot := s.iss.gid % 16
    let c := s.core s.myCore
    let seq := (m.contSeq + 1) % 2 ^ 14
    let first := c.mail.find? fun x => x.slot == slot
    let takes := fun (ins : Instr) (x : Compl) (n : Thread) => ∃ t, exec ins s = .next t ∧
      CoreTo s t { n with pc := wd s.iss.succ } s.myCore { c with mail := c.mail.erase x }
    (Turns (.cont d a) s fun t => { t with contSeq := seq, contReg := some a.val, contVal := none }.setReg d.val
      (BitVec.ofNat 64 (2 ^ 62 + seq * 2 ^ 48 + a.val * 2 ^ 40 + s.iss.gid))) ∧
    (m.contReg = none → Puts (.waitr d) s d 1) ∧
    (∀ r v, m.contReg = some r → m.contVal = some v →
      Turns (.waitr d) s fun t => { (t.setReg d.val 0).setReg r v with contReg := none, contVal := none }) ∧
    (∀ r, m.contReg = some r → m.contVal = none → ∃ t, exec (.waitr d) s = .next t ∧ OnlyThread s t s.iss.gid { m with
      pc := wd s.iss.pc, wait := some { why := .cont, again := false, half := s.iss.half, fin := s.doneTo d.val 0 0 8 false } }) ∧
    (∀ x, first = some x →
      takes (.mbox d p) x ((m.setReg d.val (BitVec.ofNat 64 x.word)).setPred p.val true) ∧
      takes (.waitm d) x (m.setReg d.val (BitVec.ofNat 64 x.word))) ∧
    (first = none → PutsP (.mbox d p) s p false ∧ (m.wait = none → s.holdEdges (queueObj 4 s.iss.gid) = [] →
      ∃ t, exec (.waitm d) s = .next t ∧
        ParkedOn s t m (gidDie s.iss.gid) (queueObj 4 s.iss.gid) okQueue (s.doneTo d.val 0 0 8 false))) ∧
    (slot ≠ 15 → (Turns (.uisetOff d) s fun t => { t with uiOn := false }.setReg d.val (if m.uiOn then 1 else 0)) ∧
      Turns (.uisetOn d) s fun t => { t with uiOn := true }.setReg d.val (if m.uiOn then 1 else 0)) ∧
    (slot = 15 → exec (.uisetOff d) s = .next (s.fault 8 s.iss.opc) ∧ exec (.uisetOn d) s = .next (s.fault 8 s.iss.opc))

/-- Sending, receiving and continuations: the clauses named. -/
def Obligations.Messages : Prop :=
  Clause.SendResults ∧ Clause.ReceiveResults ∧ Clause.ContinuationResults

/-- 19 R332, R336, R337, 21 R360, R361, R364: a message that has arrived in order is dropped where its thread is gone, given
to a thread waiting in `recv`, kept for a posted receive, or else sent again 64 clocks later; a continuation's value reaches its owner
while it is live, and an `ldc` is told where it is not; a refused message enters the mesh again at its sender when its time has come; a posted receive lapses at its time; a completion
interrupts its thread. -/
def Sys2Proof.Clause.MessageSteps : Prop :=
  ∀ (s : State) (id core slot : Nat),
    let drop := { s with msgs := s.msgs.filter (·.id != id) }
    (∀ x, s.msgs.find? (fun x => x.id == id && x.ldc.isNone && x.flit.hdr / 2 ^ 62 == 0) = some x → s.flitDue x = true →
      let g := hdrGid x.flit.hdr
      let c := s.core (gidCk g)
      (s.thread? g = none → exec (.messageArrival id) s = .next drop) ∧
      (∀ n, s.thread? g = some n → n.dom ≠ x.flit.dom → exec (.messageArrival id) s = .next drop) ∧
      (∀ n w, s.thread? g = some n → n.dom = x.flit.dom → n.wait = some w → w.why = .parked (queueObj 5 g) okQueue →
        w.fin.width = 0 → w.fin.d2 = 0 → w.fin.pd = 0 → ∃ t, exec (.messageArrival id) s = .next t ∧ t.msgs = drop.msgs ∧
          t.thread? g = some { n.setFlit w.fin.d x.flit with wait := none, stat := .running, pc := wd w.fin.succ } ∧
          ∀ h, h ≠ g → t.thread? h = s.thread? h) ∧
      (∀ n, s.thread? g = some n → n.dom = x.flit.dom → n.wait = none →
        let takes := c.posted.any (fun p => p.1 == gidSlot g && decide (s.clock < p.2)) = true ∧ c.recv.length < Config.receiveStore
        (takes → ∃ t, exec (.messageArrival id) s = .next t ∧ t = { drop with cores := t.cores } ∧
          t.core (gidCk g) = { c with recv := c.recv ++ [x.flit], posted := c.posted.filter fun p => p.1 != gidSlot g } ∧
          ∀ k, k ≠ gidCk g → t.core k = s.core k) ∧
        (¬takes → exec (.messageArrival id) s = .next { s with
          msgs := s.msgs.map fun y => if y.id = id then { y with resendAt := s.clock + 64 } else y }))) ∧
    (∀ x n, s.msgs.find? (fun x => x.id == id && (x.flit.hdr / 2 ^ 62 == 1 || x.ldc.isSome)) = some x → s.flitDue x = true →
      x.ldc = none → s.thread? (hdrGid x.flit.hdr) = some n →
      let h := x.flit.hdr
      let r := h / 2 ^ 40 % 32
      let v := BitVec.ofNat 64 (x.flit.words.getD 0 0)
      let live := n.contReg = some r ∧ n.contSeq = h / 2 ^ 48 % 2 ^ 14 ∧ n.contVal = none
      (¬live → exec (.continuationArrival id) s = .next drop) ∧
      (live → n.wait = none → ∃ t, exec (.continuationArrival id) s = .next t ∧
        OnlyThread drop t (hdrGid h) { n with contVal := some v }) ∧
      (∀ w, live → n.wait = some w → w.why = .cont → n.waitsOne → ∃ t, exec (.continuationArrival id) s = .next t ∧
        OnlyThread drop t (hdrGid h) { (n.completed 0).setReg r v with contReg := none, contVal := none })) ∧
    -- an ldc whose continuation of this package is no longer live, or not of its domain, is answered 1
    (∀ x r, s.msgs.find? (fun x => x.id == id && (x.flit.hdr / 2 ^ 62 == 1 || x.ldc.isSome)) = some x → s.flitDue x = true →
      x.ldc = some r.id → s.reqs.find? (·.id == r.id) = some r → let h := x.flit.hdr
      gidPkg (hdrGid h) = s.pkg →
      (∀ n, s.thread? (hdrGid h) = some n → ¬(h / 2 ^ 62 = 1 ∧ n.contReg = some (h / 2 ^ 40 % 32) ∧ n.contSeq = h / 2 ^ 48 % 2 ^ 14 ∧
        n.contVal = none ∧ n.dom = x.flit.dom)) →
      ∃ t q, exec (.continuationArrival id) s = .next t ∧ (∀ g, t.thread? g = s.thread? g) ∧ t.msgs = drop.msgs ∧ t.mem = s.mem ∧
        t.reqs.find? (·.id == r.id) = some q ∧ q.res = some { val := 1, val2 := 0, pred := false, trap := none }) ∧
    -- the sender's interface has kept a refused flit
    exec (.messageResend id) s = .next { s with msgs := s.msgs.map fun x => if x.id = id ∧ x.resendAt ≠ 0 ∧ x.resendAt ≤ s.clock then
      { x with resendAt := 0, hop := { x.hop with cur := gidQk x.flit.src, port := .here, since := s.clock, age := 0, urgent := false } }
      else x } ∧
    (∃ t, exec (.postedReceiveExpiry core slot) s = .next t ∧ t = { s with cores := t.cores } ∧
      t.core core = { s.core core with posted := (s.core core).posted.filter fun p => !(p.1 == slot && decide (p.2 ≤ s.clock)) } ∧
      ∀ k, k ≠ core → t.core k = s.core k) ∧
    ∀ g n, s.thread? g = some n → n.wait = none → n.stream = none → n.parked = none → n.stat = .running → n.dfr = [] → n.cycle = none → n.wdPending = false →
      n.uiOn = true → n.handler = false → n.uiOnce = false → ((s.core (gidCk g)).mail.any fun x => x.slot == g % 16) = true →
      s.targetOk g (n.uih.toNat + 1) = true →
      ∃ t, exec (.userLevelInterrupt g) s = .next t ∧
        OnlyThread s t g ({ n with epc := n.pc }.enterHandler (n.uih.toNat + 1))

/-- 19 R339 to R341, R343: a request alone at its router goes one quad along its row until it is in its destination's column,
then along the column, where the next quad's buffer takes flits; its age grows by its wait at the head of its buffer. Under drift
routing it goes on from its intermediate quad on the second sub-channel. A flit becomes urgent at the age limit. A window's load decides the drift mode of the next one. A request with a token at its ingress is let in. -/
def Sys2Proof.Clause.Mesh : Prop :=
  ∀ (s : State),
    (∀ (r : Req) (q : Nat) (out : Dir), s.reqs.find? (·.id == r.id) = some r → s.packetsAt q = [⟨r.id, r.hop, r.prio⟩] →
      (∀ x ∈ s.msgs, x.id ≠ r.id) → r.hop.chan < 5 → let z := r.hop.dst
      (out = if quadX q < quadX z then .east else if quadX z < quadX q then .west
        else if quadY q < quadY z then .south else .north) → quadX q ≠ quadX z ∨ quadY q ≠ quadY z →
      (dirCode (opposite out), r.hop.chan) ∉ (s.quad (neighbour q out)).stops →
      let left := (((s.quad q).gone.find? fun e => e.1 == (dirCode r.hop.port, r.hop.chan)).map (·.2)).getD 0
      let hop : Hop := { r.hop with
        cur := neighbour q out, port := opposite out, since := s.clock, age := r.hop.age + (s.clock - max r.hop.since left) }
      ∃ t, exec (.flitRoute q out) s = .next t ∧
        t = { s with dies := t.dies, quads := t.quads, reqs := s.reqs.map fun x => if x.id = r.id then { x with hop :=
          match r.hop.mid with
          | some y => if neighbour q out = z then { hop with dst := y, mid := none, chan := 4 } else hop
          | none => hop } else x }) ∧
    (∀ q out, s.packetsAt q = [] ∨ out = .here → exec (.flitRoute q out) s = .next s) ∧
    (∀ n, let mark := fun (prio : Nat) (h : Hop) => if s.ageLimit ≤ s.ageOf ⟨n, h, prio⟩ ∧ h.cur ≠ h.dst then { h with urgent := true } else h
      exec (.packetUrgent n) s = .next { s with
        reqs := s.reqs.map fun r => if r.id = n then { r with hop := mark r.prio r.hop } else r,
        msgs := s.msgs.map fun m => if m.id = n then { m with hop := mark m.prio m.hop } else m }) ∧
    (∀ n, let d := s.die n
      let ls := d.loads.map (·.2)
      (s.clock < d.winStart + 4096 → exec (.driftWindow n) s = .next s) ∧
      (d.winStart + 4096 ≤ s.clock → ∃ t, exec (.driftWindow n) s = .next t ∧ t = { s with dies := t.dies } ∧
        (∀ k, k ≠ n → t.die k = s.die k) ∧ (t.die n).winStart = s.clock ∧ (t.die n).loads = [] ∧
        ((t.die n).drift = true ↔ ∃ x, x ∈ ls ∧ s.driftLimit * ls.sum < x * 10 * 10032))) ∧
    (∀ r p port rate depth, s.reqs.find? (·.id == r.id) = some r → r.bucket = true → r.hop.cur = r.hop.dst → r.res = none →
      bucketPort r.key = some port → s.part? r.part = some p → p.rates.find? (·.1 == port) = some (port, rate, depth) →
      let used := max (s.clock * rate) (((p.buckets.find? (·.1 == port)).map (·.2)).getD 0)
      (used - s.clock * rate + 1024 ≤ max depth 1 * 1024 → ∃ t, exec (.bucketAdmit r.id) s = .next t ∧
        t = { s with parts := t.parts, reqs := s.reqs.map fun x => if x.id = r.id then { x with bucket := false } else x } ∧
        t.part? r.part = some { p with buckets := (port, used + 1024) :: p.buckets.filter (·.1 != port) }) ∧
      (max depth 1 * 1024 < used - s.clock * rate + 1024 → exec (.bucketAdmit r.id) s = .next s))

/-- What the mesh and the interfaces do with flits and messages: the clauses named. -/
def Obligations.Network : Prop :=
  Clause.MessageSteps ∧ Clause.Mesh

/-- The issuing thread's command of a kind, with its four words, as it is put in its core's FIFO. -/
def Sys2Proof.Clause.Queued (ins : Instr) (s : State) (m : Thread) (d a : Reg) (kind : Nat) : Prop :=
  let w := fun i => (m.reg (a.val + i)).toNat
  let c := s.core s.myCore
  ∃ y x, Answers ins s y { m with seq := m.seq + 1 } (gidQk s.iss.gid) 0 d ∧
    y = { s with threads := y.threads, cores := y.cores, copies := s.copies ++ [x], nextId := s.nextId + 1,
                 iss := { s.iss with plain := y.iss.plain, puts := y.iss.puts } } ∧
    y.thread? s.iss.gid = some { m with seq := m.seq + 1 } ∧ (∀ g, g ≠ s.iss.gid → y.thread? g = s.thread? g) ∧
    y.core s.myCore = { c with fifo := c.fifo ++ [s.nextId] } ∧ (∀ j, j ≠ s.myCore → y.core j = s.core j) ∧
    x = { id := s.nextId, core := s.myCore, gid := s.iss.gid, uid := m.uid, dom := m.dom, part := s.myPart, asid := m.asid,
          ef := m.shFmt.toNat % 32, seq := m.seq, kind := kind, w0 := w 0, w1 := w 1, w2 := w 2, w3 := w 3, state := 0,
          total := 0, cnt := 0, status := 0 }

/-- 18 R317, 08 R150, 19 R328 to R330, 21 R365: a full FIFO answers 1, or makes the waiting forms wait; else a scope that may not be
used is a scope fault, whatever the flags, and an accepted request is put in the FIFO with its four words and answered 0.
Acceptance is stated for an address to address copy in private memory, and for an index list and a local buffer in private memory
with a table that the premise checks. -/
def Sys2Proof.Clause.CopyRequests : Prop :=
  ∀ (s : State) (m : Thread) (d a : Reg) (k0 k1 : Nat), s.issues m →
    let w := fun i => (m.reg (a.val + i)).toNat
    let full := Config.copyFifo ≤ (s.core s.myCore).fifo.length
    let sc := w 3 / 2 ^ 18 % 8
    let accepted := fun (ins : Instr) (kind : Nat) => Clause.Queued ins s m d a kind
    let readable := fun (need va n : Nat) => ∀ u : State, u = { s with iss := { s.iss with plain := u.iss.plain, puts := u.iss.puts } } →
      ∃ sp, u.spanOf s.who false need va n = .ok sp u
    let user := s.iss.gid % 16 ≠ 15
    (full → Answers (.cpyq d a) s s m (gidQk s.iss.gid) 1 d ∧ (∃ t, exec (.cpyqw d a) s = .next t ∧ Retries s t m .copyRoom) ∧
      (user → Answers (.gath d a false) s s m (gidQk s.iss.gid) 1 d ∧ Answers (.scat d a false) s s m (gidQk s.iss.gid) 1 d ∧
        (∃ t, exec (.gath d a true) s = .next t ∧ Retries s t m .copyRoom) ∧
        ∃ t, exec (.scat d a true) s = .next t ∧ Retries s t m .copyRoom)) ∧
    (¬full → s.okScope sc = false → let f := Host.Outcome.next (s.fault clsScope sc)
      exec (.cpyq d a) s = f ∧ exec (.cpyqw d a) s = f ∧ (user → ∀ wt, exec (.gath d a wt) s = f ∧ exec (.scat d a wt) s = f)) ∧
    (¬full → s.okScope sc = true →
      (w 3 < 2 ^ 21 → w 2 % 8 = 0 → 8 ≤ w 2 → w 0 % 8 = 0 → w 1 % 8 = 0 → s.privateAt m (w 0) (w 2) k0 →
        s.privateAt m (w 1) (w 2) k1 →
        (k0 + w 2 ≤ k1 ∨ k1 + w 2 ≤ k0 → accepted (.cpyq d a) 0 ∧ accepted (.cpyqw d a) 0) ∧
        (¬(k0 + w 2 ≤ k1 ∨ k1 + w 2 ≤ k0) → ∃ x, Looked s x s.mem m 0 ∧
          exec (.cpyq d a) s = .next (x.fault 8 (w 1)) ∧ exec (.cpyqw d a) s = .next (x.fault 8 (w 1)))) ∧
      (let n := w 3 / 2 ^ 32 % 2 ^ 12 + 1
       let size := (w 3 / 2 ^ 44 % 2 ^ 12 + 1) * 8
       w 3 / 2 ^ 21 % 2 ^ 11 = 0 → w 3 / 2 ^ 56 = 0 → w 0 % 4 = 0 → w 1 % 8 = 0 → w 2 % 8 = 0 →
       user → s.privateAt m (w 0) (4 * n) k0 → s.privateAt m (w 1) (n * size) k1 → w 2 / 2 ^ 60 = 1 ∨ w 2 / 2 ^ 60 = 2 ∨ w 2 / 2 ^ 60 = 4 →
       (∀ wt, readable needR (w 2) 8 → accepted (.gath d a wt) 1) ∧ ∀ wt, readable needW (w 2) 8 → accepted (.scat d a wt) 2))

/-- What a completion of a command leaves: the state `u`, without the command and with its completion in its core's mailbox. -/
def Sys2Proof.Clause.Mailed (s t u : State) (x : Copy) (st cnt : Nat) : Prop :=
  t = { u with copies := s.copies.filter (·.id != x.id), cores := t.cores } ∧ (∀ j, j ≠ x.core → t.core j = s.core j) ∧
  t.core x.core = { s.core x.core with mail := (s.core x.core).mail ++
    [{ slot := gidSlot x.gid, uid := x.uid, dom := x.dom, word := x.w3 % 2 ^ 16 + st * 2 ^ 16 + cnt % 2 ^ 32 * 2 ^ 32, scope := x.sc, acq := x.rl }] }
/-- The completion of a command finds its thread, which does not wait, and room in its mailbox. -/
def Sys2Proof.Clause.Place (s : State) (x : Copy) : Prop :=
  s.uidLive x.uid = true ∧ (s.part? x.part).isSome = true ∧ (s.core x.core).mail.length < Config.mailbox ∧
  ∃ n, s.thread? (s.gidOf x.core (gidSlot x.gid)) = some n ∧ n.wait = none

/-- 19 R330, R331, R333, 08 R150, 07 R127: the oldest command of a FIFO starts while fewer than 48 are in flight and its acquire is
not due; a copy from address to address with its release flag set moves its words and ends with status 0, the count of its bytes and a
completion in its core's mailbox; so does a gather or a scatter, row by row in the order of its index list; a copy that cannot
reach its first word ends with status 2 and count 0. A command that has ended delivers its completion once the mailbox has room. The
checks of the addresses are the premises. -/
def Sys2Proof.Clause.CopySteps : Prop :=
  ∀ (s : State) (core : Nat) (x : Copy) (k0 k1 ki kl len : Nat) (kr : Nat → Nat), s.copies.find? (·.id == x.id) = some x →
    let c := s.core core
    let plain := s.bad = [] ∧ s.soft = [] ∧ s.barWaits = [] ∧ s.feWaits = [] ∧ s.empties = [] ∧ s.mem.wf = true ∧ s.iss.plain = false ∧
      (∀ r ∈ s.reqs, r.adm = none) ∧ s.uncharged
    -- the key of an extent, whatever the bytes of memory
    let at' := fun (need va n k : Nat) => ∀ u : State, u = { s with mem := u.mem } → u.spanOf x.who true need va n = .ok (.here [(k, n)]) u
    (∀ rest, c.fifo = x.id :: rest →
      (s.copies.filter fun y => y.core == core && y.state != 0 && y.kind != 3).length < Config.copiesInFlight →
      (x.aq = true → s.acquireDue x = false) →
      ∃ t, exec (.copyStart core) s = .next t ∧
        t = { s with cores := t.cores, copies := s.copies.map fun y => if y.id = x.id then { y with state := 1 } else y } ∧
        t.core core = { c with fifo := rest } ∧ ∀ j, j ≠ core → t.core j = s.core j) ∧
    (x.state = 2 → x.kind ≤ 2 → x.dk ≠ 2 → Clause.Place s x →
      (∃ t, exec (.copyCompletion x.id) s = .next t ∧ Clause.Mailed s t s x x.status (x.cnt / 8)) ∧
      ∃ t, exec (.streamerCompletion x.id) s = .next t ∧ Clause.Mailed s t s x x.status (x.cnt / 8)) ∧
    (x.state = 1 → x.kind = 0 → x.sk = 0 → x.dk = 0 → x.w2 = 8 * len → x.total = 0 → x.cnt = 0 → x.rl = true → Clause.Place s x → plain →
      (∀ i, i < len → at' needR (x.w0 + 8 * i) 8 (k0 + 8 * i) ∧ at' needW (x.w1 + 8 * i) 8 (k1 + 8 * i)) →
      k0 + 8 * len ≤ k1 ∨ k1 + 8 * len ≤ k0 →
      ∃ t, exec (.copyCompletion x.id) s = .next t ∧ Clause.Mailed s t { s with mem := s.mem.write k1 (s.mem.bytes k0 (8 * len)) } x 0 (8 * len)) ∧
    (x.state = 1 → x.kind = 0 → x.sk = 0 → x.dk = 0 → 8 ≤ x.w2 → x.total = 0 → x.cnt = 0 → s.overdrawn x.part = false → Clause.Place s x →
      (∃ cls tval, cls ≠ clsEcc ∧ s.spanOf x.who true needR x.w0 8 = .trap cls tval) ∨
        (∃ a b e f, s.spanOf x.who true needR x.w0 8 = .miss a b e f) →
      ∃ t, exec (.copyCompletion x.id) s = .next t ∧ Clause.Mailed s t s x 2 0) ∧
    (let n := x.w3 / 2 ^ 32 % 2 ^ 12 + 1
     let size := (x.w3 / 2 ^ 44 % 2 ^ 12 + 1) * 8
     let row := fun j => x.w2 + s.readN (ki + 4 * j) 4 * size
     let rows := fun (need need' : Nat) => ∀ j off l, j < n → off + l ≤ size →
       at' need (row j + off) l (kr j + off) ∧ at' need' (x.w1 + j * size + off) l (kl + j * size + off)
     let apart := ∀ j, j < n → kr j + size ≤ kl ∨ kl + n * size ≤ kr j
     x.state = 1 → x.total = 0 → s.rowsOwed x = false → x.rl = true → Clause.Place s x → plain → (∀ j, j < n → at' needR (x.w0 + 4 * j) 4 (ki + 4 * j)) → apart →
      (x.kind = 1 → rows needR needW → ∃ t, exec (.streamerCompletion x.id) s = .next t ∧
        Clause.Mailed s t { s with mem := (List.range n).foldl (fun (μ : Memory) j => μ.write (kl + j * size) (s.mem.bytes (kr j) size)) s.mem }
          x 0 (n * size)) ∧
      (x.kind = 2 → rows needW needR → ∃ t, exec (.streamerCompletion x.id) s = .next t ∧
        Clause.Mailed s t { s with mem := (List.range n).foldl (fun (μ : Memory) j => μ.write (kr j) (s.mem.bytes (kl + j * size) size)) s.mem }
          x 0 (n * size)))

/-- 18 R317, 19 R330, R331, R333, 21 R365, 08 R150: the forms of the copy engine and the streamer complete in the issuer's own private
memory, with nothing but the state and the operands asked for: a request that finds room is accepted, the command starts, moves its
words or rows and ends with status 0. With the release flag clear a copy's writes leave for their homes as requests of their own. -/
def Sys2Proof.Clause.CopyFormsComplete : Prop :=
  (∀ (s : State) (m : Thread) (d a : Reg) (k0 k1 off : Nat), s.issues m →
    let w := fun i => (m.reg (a.val + i)).toNat
    let n := w 3 / 2 ^ 32 % 2 ^ 12 + 1
    let size := (w 3 / 2 ^ 44 % 2 ^ 12 + 1) * 8
    (s.core s.myCore).fifo.length < Config.copyFifo → s.okScope (w 3 / 2 ^ 18 % 8) = true →
    (w 3 < 2 ^ 21 → w 2 % 8 = 0 → 8 ≤ w 2 → w 0 % 8 = 0 → w 1 % 8 = 0 → s.privateAt m (w 0) (w 2) k0 → s.privateAt m (w 1) (w 2) k1 →
      k0 + w 2 ≤ k1 ∨ k1 + w 2 ≤ k0 → Clause.Queued (.cpyq d a) s m d a 0 ∧ Clause.Queued (.cpyqw d a) s m d a 0) ∧
    (s.iss.gid % 16 ≠ 15 → w 3 / 2 ^ 21 % 2 ^ 11 = 0 → w 3 / 2 ^ 56 = 0 → w 0 % 4 = 0 → w 1 % 8 = 0 → s.privateAt m (w 0) (4 * n) k0 →
      s.privateAt m (w 1) (n * size) k1 → off % 8 = 0 → off + 8 ≤ 0x8000 →
      gidQuad s.iss.gid < Config.quadsPerDie → w 2 = privKey (gidDie s.iss.gid) (gidQuad s.iss.gid) (gidCore s.iss.gid) off →
      ∀ wt, Clause.Queued (.gath d a wt) s m d a 1 ∧ Clause.Queued (.scat d a wt) s m d a 2)) ∧
  ∀ (s : State) (x : Copy) (len off : Nat), s.copies.find? (·.id == x.id) = some x → Clause.Place s x →
    gidQuad x.gid < Config.quadsPerDie → s.owner (gidQk x.gid) = some x.part → s.bad = [] → s.soft = [] → s.barWaits = [] → s.feWaits = [] →
    s.empties = [] → (∀ r ∈ s.reqs, r.adm = none) → s.mem.wf = true → s.iss.plain = false → s.overdrawn x.part = false →
    let key := privKey (gidDie x.gid) (gidQuad x.gid) (gidCore x.gid)
    let n := x.w3 / 2 ^ 32 % 2 ^ 12 + 1
    let size := (x.w3 / 2 ^ 44 % 2 ^ 12 + 1) * 8
    let row := fun j => off + s.readN (key x.w0 + 4 * j) 4 * size
    (∀ rest core, (s.core core).fifo = x.id :: rest → x.aq = false →
      (s.copies.filter fun y => y.core == core && y.state != 0 && y.kind != 3).length < Config.copiesInFlight →
      ∃ t, exec (.copyStart core) s = .next t ∧ (t.core core).fifo = rest ∧
        t.copies = s.copies.map fun y => if y.id = x.id then { y with state := 1 } else y) ∧
    (x.state = 1 → x.kind = 0 → x.sk = 0 → x.dk = 0 → x.w2 = 8 * len → x.total = 0 → x.cnt = 0 → x.w0 + 8 * len ≤ 0x8000 →
      x.w1 + 8 * len ≤ 0x8000 → x.w0 + 8 * len ≤ x.w1 ∨ x.w1 + 8 * len ≤ x.w0 →
      (x.rl = true → ∃ t, exec (.copyCompletion x.id) s = .next t ∧
        Clause.Mailed s t { s with mem := s.mem.write (key x.w1) (s.mem.bytes (key x.w0) (8 * len)) } x 0 (8 * len)) ∧
      (x.rl = false → ∃ t rs, exec (.copyCompletion x.id) s = .next t ∧
        Clause.Mailed s t { s with reqs := s.reqs ++ rs, nextId := t.nextId, freeCtr := t.freeCtr } x 0 (8 * len) ∧
        rs.map (fun r => (r.uid, r.key, r.op)) = (List.range len).map fun i =>
          (0, key x.w1 + 8 * i, ReqOp.copyEl (s.mem.bytes (key x.w0 + 8 * i) 8)))) ∧
    (x.state = 1 → x.total = 0 → s.rowsOwed x = false → x.rl = true → x.w2 = key off → x.w0 + 4 * n ≤ 0x8000 → x.w1 + n * size ≤ 0x8000 → (∀ j, j < n → row j + size ≤ 0x8000) →
      (∀ j, j < n → row j + size ≤ x.w1 ∨ x.w1 + n * size ≤ row j) →
      (x.kind = 1 → ∃ t, exec (.streamerCompletion x.id) s = .next t ∧
        Clause.Mailed s t { s with mem := (List.range n).foldl (fun (μ : Memory) j =>
          μ.write (key x.w1 + j * size) (s.mem.bytes (key (row j)) size)) s.mem } x 0 (n * size)) ∧
      (x.kind = 2 → ∃ t, exec (.streamerCompletion x.id) s = .next t ∧
        Clause.Mailed s t { s with mem := (List.range n).foldl (fun (μ : Memory) j =>
          μ.write (key (row j)) (s.mem.bytes (key x.w1 + j * size) size)) s.mem } x 0 (n * size)))

/-- Copies and streams, from their request to their completion: the clauses named. -/
def Obligations.Copies : Prop :=
  Clause.CopyRequests ∧ Clause.CopySteps ∧ Clause.CopyFormsComplete

/-- 20 R345, R348, R352, 21 R368: `spawn` pushes its continuation on the core's deque and goes to its target, or, with the
deque full, goes there with a return token; `rspawn` starts a thread in the lowest free fork slot of another core, or
answers 1; `fjoin` returns by the token, takes its own youngest entry back, or, with the entry taken, counts the frame down
and ends the strand; the sync form is answered at a count of 0, by the
home of the frame, and parks otherwise. -/
def Sys2Proof.Clause.SpawnResults : Prop :=
  ∀ (s u : State) (m : Thread) (d a b : Reg) (slot : Fin 64) (imm : BitVec 32) (k : Nat), s.issues m → s.iss.gid % 16 ≠ 15 →
    let c := s.core s.myCore
    let x := (m.reg a.val).toNat
    let y := (m.reg b.val).toNat
    let pc := s.tgt imm slot
    let legal := s.targetMiss s.iss.gid pc = none ∧ s.tgtOk imm slot = true
    let moved := { s with iss := { s.iss with jumped := true } }
    let own := c.deque.filter fun e => !e.task && e.uid == m.uid
    let entry : DEnt :=
      { pc := s.iss.succ, frame := x, regs := (List.range 4).map (fun i => (m.reg (b.val + i)).toNat), gid := s.iss.gid,
        uid := m.uid, task := false, dom := m.dom, ra := a.val, rb := b.val, seq := c.dseq, prio := m.prioBase }
    (s.inGang = false → legal → Config.deque ≤ c.deque.length → ∃ t, exec (.spawn d a b slot imm) s = .next t ∧
      OnlyThread moved t s.iss.gid { m.setReg d.val (wd (s.iss.succ + 2 ^ 63)) with pc := wd pc }) ∧
    (s.inGang = false → legal → c.deque.length < Config.deque → s.storesDue 2 = false →
      ∃ t, exec (.spawn d a b slot imm) s = .next t ∧
        CoreTo moved t { m.setReg d.val (wd (2 ^ 32 + c.dseq)) with pc := wd pc } s.myCore
          { c with dseq := (c.dseq + 1) % 2 ^ 16, deque := c.deque ++ [entry] }) ∧
    (s.inGang = false → x < 2 ^ 30 → gidPkg x = s.pkg → s.owner (gidQk x) = some s.myPart → legal →
      s.storesDue 3 = false → ∀ dom, s.domain? m.dom = some dom →
        (s.freeFork dom (gidCk x) = none → Answers (.rspawn d a b slot imm) s s m (gidQk x) 1 d) ∧
        ∀ g, s.freeFork dom (gidCk x) = some g → ∃ t n, Answers (.rspawn d a b slot imm) s t m (gidQk x) 0 d ∧
          t.thread? s.iss.gid = some m ∧ t.thread? g = some n ∧
          (∀ h, h ≠ s.iss.gid → h ≠ g → t.thread? h = s.thread? h) ∧ t.mem = s.mem ∧ t.reqs = s.reqs ∧
          n.uid = s.nextUid ∧ n.dom = dom.num ∧ n.stat = .running ∧ n.pc = wd pc ∧ n.prioBase = m.prioBase ∧
          n.prioCeil = m.prioBase ∧ n.asid = dom.asid ∧ n.wdlim = dom.wdlim ∧ n.args = dom.largs ∧ n.claims = [] ∧
          n.guards = [] ∧ (∀ r, r < 32 → n.reg r = if b.val ≤ r ∧ r < b.val + 4 then m.reg r else 0) ∧
          ∀ p, 0 < p → n.pred p = false) ∧
    (2 ^ 63 ≤ y → ∃ t, exec (.fjoin d a b) s = .next t ∧
      OnlyThread moved t s.iss.gid { m.setReg d.val 0 with pc := wd (y - 2 ^ 63) }) ∧
    (y / 2 ^ 16 = 2 ^ 16 → ∀ e, own.getLast? = some e →
      (e.seq ≠ y % 2 ^ 16 → exec (.fjoin d a b) s = .next (s.fault 8 y)) ∧
      (e.seq = y % 2 ^ 16 → ∃ t, exec (.fjoin d a b) s = .next t ∧
        CoreTo moved t { m.setReg d.val 0 with pc := wd e.pc } s.myCore { c with deque := c.deque.filter (· != e) })) ∧
    (y / 2 ^ 16 = 2 ^ 16 → own = [] → s.bankAccess 3 8 x 8 = .key k s → s.plainAt k 8 → s.actDue k 8 = none → s.storesDue 2 = false →
      m.task = false → m.postDue = 0 → m.claims = [] → s.gangOf s.iss.gid = [] → s.netBars = [] → s.bufferRoom 0 = true → (∀ q ∈ s.iqs, q.dom ≠ m.dom) →
      ∃ t, exec (.fjoin d a b) s = .next t ∧ t.thread? s.iss.gid = none ∧
        t.mem = s.mem.write k (bytesOf 8 ((s.readN k 8 + (2 ^ 64 - 1)) % 2 ^ 64))) ∧
    (s.bankAccess 3 8 x 8 = .key k u → u.actDue k 8 = none → u.badIn k 8 = none →
      (u.readN k 8 = 0 → Answers (.fjoinSync d a) s u m ((homeQuad k).getD (gidQk s.iss.gid)) 0 d ∧
        (y = 0 → Answers (.fjoin d a b) s u m ((homeQuad k).getD (gidQk s.iss.gid)) 0 d)) ∧
      (u.readN k 8 ≠ 0 → m.wait = none → s.holdEdges x = [] → ∃ t, exec (.fjoinSync d a) s = .next t ∧
        ParkedOn u t m (keyDie k s.myDie) x okChild (s.doneTo d.val 0 0 8 false)))

/-- 20 R344, R346, R347, R351: a core with fewer than eight running threads takes the best top entry of its die, after what the core
that has it issues in the same clock: the frame counts
one more strand, and a thread runs the continuation with the pusher's registers; a waiting post enters the top of the deque when there is room. -/
def Sys2Proof.Clause.TaskSteps : Prop :=
  ∀ (s : State) (core : Nat) (e : DEnt) (dom : Domain) (g k : Nat),
    let c := s.core core
    (8 ≤ (s.threads.filter fun t => gidCk t.gid == core && t.stat == .running).length → exec (.stealAttempt core) s = .next s) ∧
    ((s.threads.filter fun t => gidCk t.gid == core && t.stat == .running).length < 8 →
      (s.victim core = none → exec (.stealAttempt core) s = .next s) ∧
      (∀ src, s.victim core = some (src, e) → (s.chosen src).isSome = true → exec (.stealAttempt core) s = .next s) ∧
      (∀ src, s.victim core = some (src, e) → s.chosen src = none → e.task = false → s.domain? e.dom = some dom → s.freeFork dom core = some g →
        (∀ v : State, v = { s with cores := v.cores } →
          v.engineCheck { part := dom.part, asid := dom.asid, gid := g } needW true 8 e.frame 8 (pageFuel 8) = (.ok [(k, 8)], v)) →
        s.badIn k 8 = none → s.barWaits = [] →
        ∃ t n, exec (.stealAttempt core) s = .next t ∧ t.mem = s.mem.write k (bytesOf 8 ((s.readN k 8 + 1) % 2 ^ 64)) ∧
          (t.core src).deque = (s.core src).deque.filter (· != e) ∧ (∀ h, h ≠ g → t.thread? h = s.thread? h) ∧
          t.thread? g = some n ∧ n.dom = dom.num ∧ n.uid = s.nextUid ∧ n.stat = .running ∧ n.pc = wd e.pc ∧ n.prioBase = e.prio ∧
          (e.ra < e.rb ∨ e.rb + 4 ≤ e.ra → e.ra ≠ 0 → e.ra < 32 → n.reg e.ra = wd e.frame) ∧
          ∀ i, i < 4 → 0 < e.rb + i → e.rb + i < 32 → n.reg (e.rb + i) = wd (e.regs.getD i 0))) ∧
    (c.post = [] → exec (.postBufferDrain core) s = .next s) ∧
    ∀ x rest, c.post = x :: rest →
      (Config.deque ≤ c.deque.length → exec (.postBufferDrain core) s = .next s) ∧
      (c.deque.length < Config.deque → ∃ t, exec (.postBufferDrain core) s = .next t ∧ t = { s with cores := t.cores } ∧
        t.core core = { c with post := rest, deque := { x with seq := c.dseq } :: c.deque, dseq := (c.dseq + 1) % 2 ^ 16 } ∧
        ∀ j, j ≠ core → t.core j = s.core j)

/-- 07 R138, 09 R179: `migr` to the quad the thread is on reports 0 and changes nothing else; without a free slot there it
reports 1; with one the thread's context stands in that slot, g[d] 0, and the old slot is free. -/
def Sys2Proof.Clause.Migration : Prop :=
  ∀ (s u : State) (m : Thread) (dom : Domain) (d a : Reg) (k : Nat), s.issues m → s.iss.gid % 16 ≠ 15 → s.inGang = false →
    s.ownsEntries = false → (m.reg a.val).toNat / 2 ^ 60 = 4 → s.access needR false 8 (m.reg a.val).toNat 8 = .key k u →
    s.domain? m.dom = some dom →
    let q := (homeQuad k).getD 0
    let slot := ((List.range 4).map (q * 4 + ·)).findSome? (u.freeFork dom)
    (q = gidQk s.iss.gid → ∃ t, exec (.migr d a) s = .next t ∧ Wrote u t d 0) ∧
    (q ≠ gidQk s.iss.gid → s.pending m.uid = [] → slot = none → ∃ t, exec (.migr d a) s = .next t ∧ Wrote u t d 1) ∧
    (∀ g, q ≠ gidQk s.iss.gid → s.pending m.uid = [] → slot = some g → g ≠ s.iss.gid → (∀ b ∈ s.netBars, b.dom ≠ m.dom) →
      ∃ t, exec (.migr d a) s = .next t ∧ t.thread? s.iss.gid = none ∧ t.mem = s.mem ∧
        t.thread? g = some { m.setReg d.val 0 with gid := g, contReg := none, contVal := none, pc := wd s.iss.succ } ∧
        ∀ h, h ≠ s.iss.gid → h ≠ g → t.thread? h = s.thread? h)

/-- Spawning, dealing and ending tasks, and moving a granule of threads: the clauses named. -/
def Obligations.Tasks : Prop :=
  Clause.SpawnResults ∧ Clause.TaskSteps ∧ Clause.Migration

/-- 13 R225, R226, 20 R350, 21 R371: a packet's task begins with its eight words and ends with the reset ones; a dispatched
packet is pushed at the top of the deque, or 1 is answered where it is full. -/
def Sys2Proof.Clause.PacketResults : Prop :=
  ∀ (s u : State) (m : Thread) (d a : Reg) (k : Nat), s.issues m → s.iss.gid % 16 ≠ 15 → s.inGang = false → s.ownsEntries = false →
    let ea := (m.reg a.val).toNat
    let w := fun (s : State) i => s.readN (k + 8 * i) 8
    let reserved := fun (v : Nat) => v / 2 ^ 16 ≠ 0 ∨ v / 2 ^ 5 % 2 ^ 9 ≠ 0
    (m.task = true → Puts (.pktBeg d a) s d 1) ∧
    (m.task = false → ea % 64 = 0 → s.privateAt m ea 64 k →
      (reserved (w s 0) → exec (.pktBeg d a) s = .next (s.fault 8 ea)) ∧
      (¬reserved (w s 0) → Turns (.pktBeg d a) s fun t => { t with
        shFmt := wd (w s 0), shScl := wd (w s 1), args := #v[wd (w s 2), wd (w s 3), wd (w s 4), wd (w s 5)], task := true,
        triggered := false, depRec := 0 }.setReg d.val 0)) ∧
    (m.task = false → ∃ t, exec .pktEnd s = .next t ∧ WentOn s t) ∧
    (m.task = true → s.storesDue 2 = false → m.postDue = 0 → m.depRec = 0 ∨ m.triggered = true → Turns .pktEnd s fun t => { t with
      shFmt := 0, shScl := 0, args := t.launchArgs, task := false, triggered := false, depRec := 0 }) ∧
    (ea % 64 = 0 → ea / 2 ^ 60 = 2 ∨ ea / 2 ^ 60 = 4 → s.access needR false 64 ea 64 = .key k u → u.badIn k 64 = none →
      s.pending m.uid = [] → ¬reserved (w u 0) → u.targetMiss s.iss.gid (w u 6) = none → u.targetOk s.iss.gid (w u 6) = true →
      u.storesDue 2 = false →
      let c := s.core s.myCore
      let entry : DEnt :=
        { pc := w u 6, frame := ea, regs := [0, 0, 0, 0], gid := s.iss.gid, uid := m.uid, task := true, dom := m.dom, ra := 0,
          rb := 0, seq := c.dseq, prio := m.prioBase }
      (Config.deque ≤ c.deque.length → Answers (.pktDisp d a 0) s u m (ckQuad s.myCore) 1 d) ∧
      (c.deque.length < Config.deque → ∃ t, Answers (.pktDisp d a 0) s t m (ckQuad s.myCore) 0 d ∧
        CoreTo u t m s.myCore { c with dseq := (c.dseq + 1) % 2 ^ 16, deque := entry :: c.deque }))

/-- 20 R353, R354, 21 R369, R370: the roles of `qmap`: a reserved bit or role and a gang member are refused; a role that
another thread of the core has answers 1; else the roles are taken and answered 0. -/
def Sys2Proof.Clause.QueueRoles : Prop :=
  ∀ (s : State) (m : Thread) (d a : Reg), s.issues m → s.iss.gid % 16 ≠ 15 → d.val < 28 →
    let r := (m.reg a.val).toNat
    let role := fun (v n : Nat) => v / 4 ^ n % 4
    let bad := 256 ≤ r ∨ ∃ n, n < 4 ∧ role r n = 3
    let taken := ∃ n, n < 4 ∧ role r n ≠ 0 ∧ ∃ x ∈ s.threads, gidCk x.gid = s.myCore ∧ x.uid ≠ m.uid ∧ role x.qmap n = role r n
    let off := s.edges.filter fun e => !(e.ek != 0 && e.ok == okQueue && e.gid == s.iss.gid &&
      (List.range 4).any fun n => e.obj == queueObj n s.iss.gid)
    (bad → exec (.qmapSet d a) s = .next (s.fault 8 r)) ∧
    (¬bad → s.inGang = true → exec (.qmapSet d a) s = .next (s.fault 8 s.iss.opc)) ∧
    (¬bad → s.inGang = false → taken → Puts (.qmapSet d a) s d 1) ∧
    ((∀ n, n < 4 → s.parkedOn (queueObj n s.iss.gid) okQueue = []) → s.inGang = false →
      (¬bad → ¬taken → ∃ t, exec (.qmapSet d a) s = .next t ∧
        OnlyThread { s with edges := off } t s.iss.gid { m.setReg d.val 0 with qmap := r, pc := wd s.iss.succ }) ∧
      ∃ t, exec (.qmapOff d) s = .next t ∧
        OnlyThread { s with edges := off } t s.iss.gid { m.setReg d.val 0 with qmap := 0, pc := wd s.iss.succ })

/-- Packets and the hardware queues of a pipeline: the clauses named. -/
def Obligations.Pipelines : Prop :=
  Clause.PacketResults ∧ Clause.QueueRoles

/-- 18 R316, R319 to R322, 20 R355, R356, 21 R372 to R374: queues are made and deleted, threads bound; a push appends an open
record with the instant as its time, unless its multiplicity is 0 or the queue takes no more; a pop takes the oldest record once
it is sealed, says that the queue has closed, or parks; the state word counts what the queue holds. The thread waits for the
queue's home, which answers; a binding is made at the answer (`QueueBinds`). -/
def Sys2Proof.Clause.QueueResults : Prop :=
  ∀ (s : State) (m : Thread) (d a b c : Reg) (p : PReg) (e : Fin 128) (q : Iq) (dom : Domain), s.issues m → s.iss.gid % 16 ≠ 15 →
    s.domain? m.dom = some dom →
    let x := (m.reg a.val).toNat
    let y := (m.reg b.val).toNat
    let cap := (m.reg c.val).toNat
    (∀ die off segs u, x % 256 = 0 → x / 2 ^ 60 = 2 → placeOf s.pkg s.iss.gid x = .shared die off →
      s.owner (qk die (sharedBank off)) = some s.myPart → bankLocal off + 1024 ≤ bankBytes (sharedBank off) →
      y / 2 ^ 60 = 4 → (∃ n, 5 ≤ n ∧ n ≤ 20 ∧ cap = 2 ^ n) → s.check s.who needW false 32 y (32 * cap) = (.ok segs, u) →
      let many := 256 ≤ (s.iqs.filter (·.dom == m.dom)).length
      let bank := qk die (sharedBank off)
      let taken := u.ringTaken bank (bankLocal off) = true
      (many → Answers (.iqdefNew d a b c) s u m bank 1 d) ∧ (¬many → taken → Answers (.iqdefNew d a b c) s u m bank 2 d) ∧
      (¬many → ¬taken → Answers (.iqdefNew d a b c) s { u with iqs := u.iqs ++
        [{ id := x, dom := m.dom, bank := bank, spill := y, cap := cap, recs := [], ringN := 0, rhead := 0, head := 0, cons := none,
           prods := [], closed := false, consGone := false }] } m bank 0 d)) ∧
    (s.iq? x = none → exec (.iqdefDel d a) s = .next (s.fault 8 x) ∧ exec (.iqpush d a b) s = .next (s.fault 8 x) ∧
      exec (.iqpop d p a) s = .next (s.fault 8 x) ∧ exec (.iqcons d a) s = .next (s.fault 8 x) ∧
      exec (.iqbind d a b e) s = .next (s.fault 8 x) ∧ exec (.iqstat d a) s = .next (s.fault 8 x)) ∧
    (s.iq? x = some q → q.dom = m.dom → (∀ z ∈ s.iqs, z.id = x → z = q) → s.barWaits = [] →
      -- the queue with its spilled records as memory holds them
      let now := s.iqIn q
      let spilt := q.recs.length - q.ringN
      (q.cons = none → q.prods = [] → q.recs = [] →
        Answers (.iqdefDel d a) s { s with iqs := s.iqs.filter (·.id != x) } m q.bank 0 d) ∧
      (q.cons ≠ none ∨ q.prods ≠ [] ∨ q.recs ≠ [] → Answers (.iqdefDel d a) s s m q.bank 3 d) ∧
      (m.uid ∉ q.prods → exec (.iqpush d a b) s = .next (s.fault 8 x) ∧ exec (.iqcons d a) s = .next (s.fault 8 x)) ∧
      (q.cons ≠ some m.uid → exec (.iqpop d p a) s = .next (s.fault 8 x)) ∧
      (m.uid ∈ q.prods → s.releaseDue = false → s.parkedOn x okQueue = [] →
        let g := m.groupOf b.val
        let mult := g / 2 ^ 192 % 2 ^ 32
        let toSpill := spilt ≠ 0 ∨ Config.iqRing ≤ q.ringN
        let fits := q.consGone = false ∧ (toSpill → spilt < q.cap)
        let r : IqRec := { key := g % 2 ^ 64, val := g / 2 ^ 64 % 2 ^ 128, mult := mult, time := dom.inst % 2 ^ 32, isOpen := true }
        let q' := { now with recs := now.recs ++ [r], ringN := if toSpill then q.ringN else q.ringN + 1 }
        (mult = 0 → Answers (.iqpush d a b) s s m q.bank 2 d) ∧ (mult ≠ 0 → ¬fits → Answers (.iqpush d a b) s s m q.bank 1 d) ∧
        (mult ≠ 0 → fits → Answers (.iqpush d a b) s
          (s.iqOut (if Config.iqOpen ≤ (q.recs.countP (·.isOpen)) + 1 then q'.consolidate.1 else q')) m q.bank 0 d)) ∧
      (m.uid ∈ q.prods → s.parkedOn x okQueue = [] → Answers (.iqcons d a) s (s.iqOut now.consolidate.1) m q.bank now.consolidate.2 d) ∧
      (q.cons = some m.uid → s.iqDone q = q.closed → s.parkedOn x okQueue = [] →
        let left := { s with edges := s.edges.filter fun z => !(z.ek == 1 && z.obj == x && z.ok == okQueue) }
        (∀ r rest, now.recs = r :: rest → r.isOpen = false →
          let n := m.setGroup d.val (r.key + 2 ^ 64 * r.val + 2 ^ 192 * (r.mult + 2 ^ 32 * r.time))
          let q' := if q.ringN = 0 then { now with recs := rest, head := (q.head + 1) % q.cap }
            else { now with recs := rest, ringN := q.ringN - 1, rhead := (q.rhead + 1) % Config.iqRing }
          ∃ u t, exec (.iqpop d p a) s = .next t ∧ OnlyThread ((left.iqTouch q 0).iqOut q') u s.iss.gid n ∧
            Replies u t n q.bank 0 0 true (s.doneTo 0 0 p.val 8 false)) ∧
        ((∀ r, q.recs.head? = some r → r.isOpen = true) →
          (q.closed = true → ∃ t, exec (.iqpop d p a) s = .next t ∧ Replies left t m q.bank 0 0 false (s.doneTo 0 0 p.val 8 false)) ∧
          (q.closed = false → (∀ z ∈ s.threads, z.uid ∈ q.prods → z.gid ≠ s.iss.gid) → m.wait = none → (∀ z ∈ s.edges, z.ek ≠ 0 ∧ z.obj ≠ x) →
            ∃ t n, exec (.iqpop d p a) s = .next t ∧ t.thread? s.iss.gid = some n ∧ n = { m with
              stat := .parked, pc := wd s.iss.pc,
              wait := some { why := .parked x okQueue, again := false, half := s.iss.half, fin := s.doneTo d.val 0 p.val 8 false } }))) ∧
      (∃ t, exec (.iqbind d a b e) s = .next t ∧ Asked s t m (.iqbind (e.val.testBit 1) (y % 2 ^ 32) (e.val.testBit 0)) x 8 x 0 false false
        (s.doneTo d.val 0 0 8 false)) ∧
      Answers (.iqstat d a) s s m q.bank (q.recs.length * 2 ^ 43 + spilt * 2 ^ 22 +
        q.recs.countP (·.isOpen) * 2 ^ 15 + q.prods.length * 2 ^ 11 + (if q.cons = none then 0 else 2 ^ 10) + if q.closed then 2 ^ 9 else 0) d ∧
      exec (.iqSpillRefill x) s = .next (if q.ringN < Config.iqRing ∧ spilt ≠ 0 then
        (s.iqTouch q q.ringN).iqOut { now with ringN := q.ringN + 1, head := (q.head + 1) % q.cap } else s))

/-- 18 R315, R319, 21 R372: the records of a queue stand at their places, and reading the queue again gives them back. Where a
record stands in its ring or its spill is the model's choice (log 70). -/
def Sys2Proof.Clause.QueuePlaces : Prop :=
  ∀ (s : State) (q : Iq) (at' : Nat → Nat), s.barWaits = [] → s.mem.wf = true →
    (∀ r ∈ q.recs, r.key < 2 ^ 64 ∧ r.val < 2 ^ 128 ∧ r.mult < 2 ^ 32 ∧ r.time < 2 ^ 32) →
    (∀ i, i < q.recs.length → s.iqPlace q i = some (at' i)) →
    (∀ i j, i < j → j < q.recs.length → at' i + 32 ≤ at' j ∨ at' j + 32 ≤ at' i) →
    let t := s.iqOut q
    (∀ i r, q.recs[i]? = some r → t.readN (at' i) 32 = r.key + 2 ^ 64 * r.val + 2 ^ 192 * (r.mult + 2 ^ 32 * r.time)) ∧
    ((∀ i, i < q.recs.length → t.iqPlace q i = some (at' i)) → t.iqIn q = q) ∧ t.threads = s.threads ∧
    ∀ k, (∀ i, i < q.recs.length → k < at' i ∨ at' i + 32 ≤ k) → t.mem.byte k = s.mem.byte k

/-- 18 R316, 20 R355: the home's answer binds the thread: 0 where it is bound now, 1 where another thread consumes, 2 where eight
produce, 3 where the named thread is not one of the domain. -/
def Sys2Proof.Clause.QueueBinds : Prop :=
  ∀ (s : State) (r : Req) (x : Res) (n : Thread) (w : Wait) (q : Iq) (oth prod : Bool) (tid : Nat),
    s.reqs.find? (·.id == r.id) = some r → r.res = some x → x.trap = none → r.op = .iqbind oth tid prod → r.hop.cur = r.hop.dst →
    s.thread? r.gid = some n → n.uid = r.uid → n.wait = some w → w.why = .reply r.id → n.waitsOne → w.fin.d < 32 →
    s.byUid r.uid = some n → s.iq? r.va = some q → (∀ z ∈ s.iqs, z.id = q.id → z = q) →
    let who := if oth then s.threads.find? fun t => t.dom == r.dom && t.tidNo == tid else some n
    let got := { s with reqs := s.reqs.filter (·.id != r.id) }
    let gives := fun (v : Nat) (q' : Iq) => ∃ t, exec (.replyArrival r.id) s = .next t ∧
      OnlyThread { got with quads := t.quads, edges := t.edges, iqs := s.iqs.map fun z => if z.id = q.id then q' else z } t r.gid (n.completed v)
    (who = none → gives 3 q) ∧
    (∀ t, who = some t → prod = false →
      (q.cons = some t.uid → gives 0 q) ∧ (q.cons ≠ none → q.cons ≠ some t.uid → gives 1 q) ∧
      (q.cons = none → gives 0 { q with cons := some t.uid })) ∧
    (∀ t, who = some t → prod = true →
      (t.uid ∈ q.prods → gives 0 q) ∧ (t.uid ∉ q.prods → 8 ≤ q.prods.length → gives 2 q) ∧
      (t.uid ∉ q.prods → q.prods.length < 8 → s.parkedOn q.id okQueue = [] → got.iqDone { q with prods := q.prods ++ [t.uid] } = q.closed →
        gives 0 { q with prods := q.prods ++ [t.uid] }))

/-- 18 R324 to R326: `arrget` asks the arrangement's home and waits; the home answers the value of the key and whether it is there.
`arradd` is posted to the home, where it adds to the key's value or takes the first free bucket of its probe. The home serves both in
their turn. -/
def Sys2Proof.Clause.ArrangementResults : Prop :=
  ∀ (s : State) (m : Thread) (d a b c : Reg) (p : PReg) (r : Arr) (q : Req) (k key v : Nat),
    let x := (m.reg a.val).toNat
    (s.issues m → s.iss.gid % 16 ≠ 15 →
      ((∀ z ∈ s.arrs, ¬(z.base = x ∧ m.dom ∈ z.doms)) → exec (.arrget d p a b) s = .next (s.fault 8 x)) ∧
      (s.arrs.find? (fun z => z.base == x && z.doms.contains m.dom) = some r →
        (∀ z ∈ s.pending m.uid, z.va ≠ x) →
        ∃ t, exec (.arrget d p a b) s = .next t ∧
          Asked s t m (.arrget (m.reg b.val).toNat) r.base 8 x 0 false false (s.doneTo d.val 0 p.val 8 false)) ∧
      (∀ die off, placeOf s.pkg s.iss.gid x = .shared die off → s.bufferRoom 1 = true →
        ∃ t, exec (.arradd a b c) s = .next t ∧
          PostedReq s t m (.arradd (m.reg b.val).toNat (m.reg c.val).toNat) (sharedKey die off) 8 x 0 false)) ∧
    (s.reqs.find? (·.id == q.id) = some q → q.op = .arrget key → s.mayPerform q = true → s.arrTurn q = true → q.comb = [] →
      s.arrs.find? (fun z => z.base == q.va && z.doms.contains q.dom) = some r →
      let gives := fun (v : Nat) (found : Bool) => ∃ t, exec (.homeAccess q.id) s = .next t ∧
        Answered s t q s.mem { val := v, val2 := 0, pred := found, trap := none }
      (s.arrFind r key = .found k → gives (s.readN (k + 8) 8) true) ∧
      (s.arrFind r key = .free k ∨ s.arrFind r key = .full → gives 0 false)) ∧
    (s.reqs.find? (·.id == q.id) = some q → q.op = .arradd key v → s.mayPerform q = true → s.arrTurn q = true → s.barWaits = [] →
      s.arrs.find? (fun z => z.base == q.va && z.part == q.part) = some r →
      let gone := fun (μ : Memory) (t : State) => t = { s with
        reqs := s.reqs.filter (·.id != q.id), mem := μ, bad := t.bad, soft := t.soft }
      (s.arrFind r key = .found k → ∃ t, exec (.arrangementAddApply q.id) s = .next t ∧
        gone (s.mem.write (k + 8) (bytesOf 8 ((s.readN (k + 8) 8 + v) % 2 ^ 64))) t) ∧
      (s.arrFind r key = .free k → ∃ t, exec (.arrangementAddApply q.id) s = .next t ∧
        gone (s.mem.write k (bytesOf 8 key ++ bytesOf 8 v ++ bytesOf 8 0 ++ bytesOf 8 1)) t)) ∧
    (s.arrFind r key = .found k → s.readN k 8 = key ∧ s.readN (k + 24) 8 % 2 = 1 ∧
      ∃ i, k = r.base + 32 * ((arrHash r.buckets key + i) % r.buckets) ∧ i < r.buckets)

/-- Incremental queues and arrangements: the clauses named. -/
def Obligations.IncrementalQueues : Prop :=
  Clause.QueueResults ∧ Clause.QueuePlaces ∧ Clause.QueueBinds ∧ Clause.ArrangementResults

/-- 18 R321: a consolidation leaves no open record and no record it made of multiplicity 0, keeps what was sealed first and in order, and
leaves the sum of the multiplicities of each key, value and time as it was, modulo 2^32. -/
def Obligations.ConsolidationSums : Prop :=
  ∀ (q : Iq) (key val time : Nat), (∀ r ∈ q.recs, r.mult < 2 ^ 32) →
    let same := fun (r : IqRec) => r.key == key && r.val == val && r.time == time
    let sum := fun (l : List IqRec) => ((l.filter same).map (·.mult)).sum % 2 ^ 32
    let r := q.consolidate.1
    r.recs.all (fun x => !x.isOpen) = true ∧ q.recs.filter (fun x => !x.isOpen) <+: r.recs ∧ sum r.recs = sum q.recs ∧
    r.recs.length = (q.recs.filter fun x => !x.isOpen).length + q.consolidate.2 ∧
    ((r.recs.drop (q.recs.filter fun x => !x.isOpen).length).filter same).length ≤ 1 ∧
    ∀ x ∈ r.recs.drop (q.recs.filter fun x => !x.isOpen).length, x.mult ≠ 0

/-- 22 R378 to R382, R386: an accepted command is queued on its page and counted; one that is not well formed comes to 1, one of
an old generation to 2, one that only the physical function may give to 4; `ATTACH` starts a new generation on its ring,
and a re-attach writes the records that the host has not read again, oldest first, into the new ring. Which die serves a page is the
model's choice (log 27), and so are the reserved bytes of a command (log 33) and which records a re-attach writes (log 34). -/
def Sys2Proof.Clause.PageCommands : Prop :=
  ∀ (s : State) (fn page : Nat) (c : Cmd) (bs : List Byte),
    let p := s.page fn page
    let ring := c.ring
    let sizes := [16, 32, 64, 128, 256, 512, 1024, 2048, 4096]
    let unread := (p.ring.n + 2 ^ 32 - s.hostRead p.ring.consAt 4 % 2 ^ 32) % 2 ^ 32
    (bs.length = 128 → page < 256 → p.reattach = false → p.cmds.length < 16 → s.queuedAt p.die < Config.coreCommands →
      exec (.commandSubmission fn page bs) s = .next (s.setPage { p with
        acc := (p.acc + 1) % 2 ^ 32, cmds := p.cmds ++ [{ bytes := bs, result := none }], reattach := decide (field bs 0 2 = 2) })) ∧
    (16 ≤ p.cmds.length → exec (.commandSubmission fn page bs) s = .next s) ∧
    (p.due = some c → c.code = 4 → (s.core (cmdCore p.die)).halted = false →
      (c.wellFormed = false → exec (.launch fn page) s = s.resulted fn page 1 0 0) ∧
      (c.wellFormed = true → c.gen ≠ p.gen → exec (.launch fn page) s = s.resulted fn page 2 0 0)) ∧
    (p.due = some c → c.code = 0x11 → (s.core (cmdCore p.die)).halted = false → c.wellFormed = true → c.gen = p.gen → fn ≠ 0 →
      exec (.tenantTeardown fn page) s = s.resulted fn page 4 0 0) ∧
    (s.hasDue fn page 1 c →
      (ring.entries ∉ sizes → exec (.attach fn page) s = s.resulted fn page 1 0 0) ∧
      (ring.entries ∈ sizes → exec (.attach fn page) s =
        (s.setPage { p with gen := (p.gen + 1) % 2 ^ 32, ring := ring, recent := [] }).resulted fn page 0 ((p.gen + 1) % 2 ^ 32) 0)) ∧
    (s.hasDue fn page 2 c →
      (ring.entries ∉ sizes → exec (.reAttach fn page) s = s.resulted fn page 1 0 0) ∧
      (ring.entries ∈ sizes → p.recent.length ≤ 16 →
        let recs := (p.recent.take unread).reverse
        exec (.reAttach fn page) s = ((recs.zipIdx.foldl (fun s (x, i) => s.hostWrite (ring.base + i * 32) x.1) s).setPage
          { p with ring := { ring with n := recs.length } }).resulted fn page 0 p.gen 0))

/-- 22 R380, R387, R394: a result leaves as a 32-byte record in the page's ring, which waits while the ring is full, and its tag goes
to the notify address where the command asks; a full ring's consumed count is read again; the fault queue, the answer to
a fault, which wakes or traps those that wait for the translation, and the four health records. -/
def Sys2Proof.Clause.RingCommands : Prop :=
  ∀ (s : State) (fn page : Nat) (c : Cmd) (q : Partition) (w : Walk) (rest : List Cmd) (r v0 v1 : Nat),
    let p := s.page fn page
    let rec32 := bytesOf 4 (field c.bytes 4 4) ++ bytesOf 4 r ++ bytesOf 8 v0 ++ bytesOf 8 v1 ++ bytesOf 8 0
    let told := tbit (field c.bytes 2 2) 0
    let again := fun (z : Ring) => if (z.n + 2 ^ 32 - z.cons % 2 ^ 32) % 2 ^ 32 = z.entries then { z with cons := s.hostRead z.consAt 4 } else z
    let part := if fn = 0 then none else s.part? (fn - 1)
    (p.cmds = c :: rest → c.result = some (r, v0, v1) → (again p.ring).full = false → exec (.completionRecord fn page) s = .next (
      let u := (s.hostWrite (p.ring.base + p.ring.n % p.ring.entries * 32) rec32).setPage { p with
        ring := { again p.ring with n := p.ring.n + 1 }, done := (p.done + 1) % 2 ^ 32, cmds := rest,
        recent := ((rec32, told) :: p.recent).take 16, reattach := p.reattach && field c.bytes 0 2 != 2 }
      if told then u.hostWrite p.ring.notify (bytesOf 8 (field c.bytes 4 4)) else u)) ∧
    (p.cmds = c :: rest → c.result = some (r, v0, v1) → (again p.ring).full = true →
      exec (.completionRecord fn page) s = .next (s.setPage { p with ring := again p.ring })) ∧
    ((∃ x ∈ s.pages, x.fn = fn ∧ x.page = page) →
      exec (.consumedCountPoll false fn page) s = .next (s.setPage { p with ring := again p.ring })) ∧
    (fn ≠ 0 → exec (.consumedCountPoll true fn page) s =
      .next { s with parts := s.parts.map fun (x : Partition) => if x.num = fn - 1 then { x with faultQ := x.faultQ.map again } else x }) ∧
    (s.hasDue fn page 0x0D c → part = some q → c.ring.entries ∈ [16, 32, 64, 128, 256, 512, 1024, 2048, 4096] →
      exec (.setFaultQueue fn page) s = State.resulted { s with
        parts := s.parts.map fun (x : Partition) => if x.num = fn - 1 then { x with faultQ := some c.ring } else x } fn page 0 0 0) ∧
    (s.hasDue fn page 0x0D c → part = none → exec (.setFaultQueue fn page) s = s.resulted fn page 4 0 0) ∧
    (s.hasDue fn page 0x0B c → part = some q →
      let find := s.walks.find? fun w => w.part == q.num && w.state == 3 && w.num == c.arg 0 8
      let gone := { s with walks := s.walks.filter (·.id != w.id) }
      (find = none → c.arg 8 4 ≤ 1 → exec (.faultAnswer fn page) s = s.resulted fn page 3 0 0) ∧
      (find = some w → c.arg 8 4 = 1 → exec (.faultAnswer fn page) s = gone.resulted fn page 0 0 0) ∧
      (find = some w → c.arg 8 4 = 0 → exec (.faultAnswer fn page) s = (w.waiters.foldl (fun s e =>
        s.trapWaiting e.1 { cls := 7, tval := e.2, kind := 0 } false) gone).resulted fn page 0 0 0) ∧
      (1 < c.arg 8 4 → exec (.faultAnswer fn page) s = s.resulted fn page 1 0 0)) ∧
    (s.hasDue fn page 0x0C c → exec (.healthRead fn page) s = (s.hostWrite (c.arg 0 8) ((List.range 4).flatMap fun d =>
      bytesOf 4 (s.die d).corrected ++ bytesOf 4 (s.die d).uncorrectable ++ bytesOf 4 (s.die d).replays ++ bytesOf 4 (s.die d).macroFails ++
      bytesOf 4 (s.die d).overN ++ bytesOf 4 (s.die d).checks ++ bytesOf 8 (s.die d).lastBad ++ bytesOf 32 0)).resulted fn page 0 256 0)

/-- Submission pages and completion rings: the clauses named. -/
def Obligations.SubmissionPages : Prop :=
  Clause.PageCommands ∧ Clause.RingCommands

/-- 22 R381, R383 to R385, 02 R22, R30, R50, 11 R201 to R203: launching a created domain, feeding an acting one, reading the
record of a closed instant, its end status, aborting it, and suspending it after a closure and resuming it. A domain that
is not there comes to 3, one of another function to 4. Result 5 for a suspend while a hardware queue holds an entry, result 3 for a
resume without a save (log 42), and what an input answers (log 49) are the model's choices. -/
def Sys2Proof.Clause.DomainCommands : Prop :=
  ∀ (s u : State) (fn page : Nat) (c : Cmd) (d : Domain) (x : Saved),
    let num := c.arg 0 2
    let area := c.arg 2 8
    let with' := fun (s : State) (f : Domain → Domain) => { s with domains := s.domains.map fun y => if y.num = num then f y else y }
    let args : Vector Word 4 := #v[wd (c.arg 2 8), wd (c.arg 10 8), wd (c.arg 18 8), wd (c.arg 26 8)]
    (s.hasDue fn page 0x0A c → s.domain? num = none → exec (.endStatus fn page) s = s.resulted fn page 3 0 0) ∧
    (s.domain? num = some d → d.fn ≠ fn → s.hasDue fn page 0x0A c → exec (.endStatus fn page) s = s.resulted fn page 4 0 0) ∧
    (s.domain? num = some d → d.fn = fn →
      (s.hasDue fn page 0x0A c → exec (.endStatus fn page) s = s.resulted fn page 0 d.endWord d.endVal) ∧
      (s.hasDue fn page 4 c → d.stat ≠ .created → exec (.launch fn page) s = s.resulted fn page 5 0 0) ∧
      (s.hasDue fn page 4 c → d.stat = .created → exec (.launch fn page) s = (with' { s with
        threads := s.threads.map fun t => if t.dom = num then { t.resumed s.clock with args := args, launchArgs := args } else t }
        fun y => { y with stat := .reacting, inst := 1, largs := args }).resulted fn page 0 0 0) ∧
      (s.hasDue fn page 5 c → d.sigs.length ≤ c.arg 2 2 → exec (.emitInput fn page) s = s.resulted fn page 3 0 0) ∧
      (s.hasDue fn page 5 c → ∀ g, d.sigs[c.arg 2 2]? = some g →
        (g.out = true ∨ d.acting = false → exec (.emitInput fn page) s = s.resulted fn page 4 0 0) ∧
        (g.out = false → d.acting = true → exec (.emitInput fn page) s = (with' s fun y => { y with
          inputs := y.inputs ++ [(c.arg 2 2, c.arg 4 8)] }).resulted fn page 0 (d.inst + 1) 0)) ∧
      (s.hasDue fn page 6 c →
        (∀ k l, d.outs.find? (·.1 == area) = some (k, l) → exec (.readOutputs fn page) s = (s.hostWrite (c.arg 10 8)
          (bytesOf 8 k ++ bytesOf 4 l.length ++ bytesOf 4 0 ++ l.flatMap fun (sig, st, v) =>
            bytesOf 2 sig ++ bytesOf 1 st ++ bytesOf 5 0 ++ bytesOf 8 v)).resulted fn page 0 (16 + 16 * l.length) 0) ∧
        (d.outs.find? (·.1 == area) = none → exec (.readOutputs fn page) s = s.resulted fn page
          (if area ≠ 0 ∧ d.outs.any (fun y => decide (area < y.1)) = true then 7 else 3) 0 0)) ∧
      (s.hasDue fn page 9 c → d.live = false → exec (.abort fn page) s = s.resulted fn page 5 0 0) ∧
      (s.hasDue fn page 9 c → d.live = true → ∃ t e, exec (.abort fn page) s = .next t ∧ (∀ y ∈ t.threads, y.dom ≠ num) ∧
        t.domain? num = some e ∧ e.stat = .aborted ∧ e.endWord = 6 ∧ e.endVal = area ∧ e.endTval = 0) ∧
      (s.hasDue fn page 7 c → d.stat = .reacting → d.suspendTo = none →
        (s.queuesHold num = true → exec (.suspend fn page) s = s.resulted fn page 5 0 0) ∧
        (s.queuesHold num = false → exec (.suspend fn page) s = .next (with' s fun y => { y with suspendTo := some area }))) ∧
      (s.hasDue fn page 7 c → d.stat = .closing 3 → d.suspendTo = some area → s.queuesHold num = false → s.saveReady num = true →
        s.save d area = some u → exec (.suspend fn page) s = u.resulted fn page 0 d.inst 0 ∧
          u.threads = s.threads.filter (·.dom != num) ∧ (∃ e, u.domain? num = some e ∧ e.stat = .suspended ∧ e.saveAt = some area) ∧
          ∃ y ∈ u.saved, y.dom = num ∧ y.area = area ∧
            y.threads = (s.threads.filter (·.dom == num)).map fun t => { t with contReg := none, contVal := none }) ∧
      (s.hasDue fn page 8 c → d.stat ≠ .suspended → exec (.resume fn page) s = s.resulted fn page 5 0 0) ∧
      (s.hasDue fn page 8 c → d.stat = .suspended → s.saved.find? (fun y => y.dom == num && y.area == area) = none →
        exec (.resume fn page) s = s.resulted fn page 3 0 0) ∧
      (s.hasDue fn page 8 c → d.stat = .suspended → s.saved.find? (fun y => y.dom == num && y.area == area) = some x →
        (s.resumeRoom x = false → exec (.resume fn page) s = s.resulted fn page 6 0 0) ∧
        (s.resumeRoom x = true → exec (.resume fn page) s = (s.restore d x).resulted fn page 0 0 0)))

/-- 22 R388 to R392, 19 R330, R340 to R342, 11 R205, 07 R140, R141: making a tenant, which takes a fresh key, and ending it, which leaves
it no key, object, rectangle, conversion or queued copy; its roots, rates and keys, the pod table, and the attestation report. Result 5
for a tenant that is there and result 3 for one that is not are the model's choices (log 41). -/
def Sys2Proof.Clause.TenantCommands : Prop :=
  ∀ (s : State) (fn page : Nat) (c : Cmd) (q : Partition) (ks : List (List Byte × List Byte)),
    let part := c.arg 0 2
    let withP : (Partition → Partition) → State := fun f => { s with parts := s.parts.map fun (x : Partition) => if x.num = part then f x else x }
    let table := fun (addr n : Nat) => (List.range n).map fun i => (s.hostBytes (addr + 2656 * i) 64, s.hostBytes (addr + 2656 * i + 64) 2592)
    let keyed := fun (addr n : Nat) => 1 ≤ n ∧ n ≤ 8 ∧ ks = table addr n ∧ ∀ k ∈ ks, sha3 k.2 = k.1
    (s.hasDue fn page 0x10 c → keyed (c.arg 18 8) (c.arg 26 2) → part ≤ 255 → c.arg 10 8 < 4 →
      let qs := bitmapQuads (s.hostBytes (c.arg 2 8) 1280)
      (s.part? part ≠ none → exec (.tenantCreate fn page) s = s.resulted fn page 5 0 0) ∧
      (s.part? part = none → (∃ k ∈ qs, s.owner k ≠ none) → exec (.tenantCreate fn page) s = s.resulted fn page 6 0 0) ∧
      (s.part? part = none → (∀ k ∈ qs, s.owner k = none) → ∃ t, exec (.tenantCreate fn page) s = .next t ∧
        t.part? part = some { num := part, policy := c.arg 10 8, keys := ks, roots := [], faultQ := none, recNum := 0, rates := [], buckets := [] } ∧
        (∀ k ∈ qs, t.owner k = some part) ∧ (∀ k, k ∉ qs → t.owner k = s.owner k) ∧ t.threads = s.threads ∧ t.domains = s.domains ∧
        t.keyCtr = s.keyCtr + 1 ∧ t.keySlots.find? (fun x => x.1 == part) = some (part, s.keyCtr + 1) ∧ ∀ w ∈ t.empties, ∀ k, keyRegion w = some k → k ∉ qs)) ∧
    (s.hasDue fn page 0x11 c → s.part? part = none → exec (.tenantTeardown fn page) s = s.resulted fn page 3 0 0) ∧
    (s.hasDue fn page 0x11 c → s.part? part ≠ none → ∃ t, exec (.tenantTeardown fn page) s = .next t ∧ t.part? part = none ∧
      (∀ x ∈ t.keySlots, x.1 ≠ part) ∧ (∀ x ∈ t.rects, x.part ≠ part) ∧ (∀ x ∈ t.convs, x.part ≠ part) ∧
      (∀ x ∈ t.copies, x.part = part → x.state = 1) ∧ ∀ x ∈ t.objs, x.part ≠ part) ∧
    (s.hasDue fn page 0x12 c → s.part? part ≠ none → c.arg 2 2 < 2 ^ 14 → exec (.setRoots fn page) s = (withP fun (p : Partition) => { p with
      roots := putRec (·.1) (c.arg 2 2, c.arg 4 8, c.arg 12 8, c.arg 20 8) p.roots }).resulted fn page 0 0 0) ∧
    (s.hasDue fn page 0x15 c → s.part? part ≠ none → keyed (c.arg 2 8) (c.arg 10 2) →
      exec (.setKeys fn page) s = (withP fun p => { p with keys := ks }).resulted fn page 0 0 0) ∧
    (s.hasDue fn page 0x13 c → s.part? part ≠ none →
      let e := fun i => s.hostRead (c.arg 2 8 + 8 * i) 8
      let n := 4 * Config.quadsPerDie
      ((∃ i, i < n + 4 ∧ 2 ^ 48 ≤ e i) → exec (.setRates fn page) s = s.resulted fn page 1 0 0) ∧
      ((∀ i, i < n + 4 → e i < 2 ^ 48) → exec (.setRates fn page) s = (withP fun (p : Partition) => { p with
        buckets := []
        rates :=
        (List.range (n + 4)).filterMap fun i =>
          if (n ≤ i ∨ s.owner (qk (i / Config.quadsPerDie) (i % Config.quadsPerDie)) = some part) ∧ e i % 2 ^ 32 ≠ 0
          then some (i, e i % 2 ^ 32, e i / 2 ^ 32 % 2 ^ 16) else none }).resulted fn page 0 0 0)) ∧
    (s.hasDue fn page 0x14 c →
      let age := c.arg 0 4
      let drift := c.arg 4 4
      let at' := c.arg 8 8
      let self := s.hostRead at' 2
      let n := s.hostRead (at' + 2) 2
      let members := s.hostRead (at' + 16) 80
      let ws := (List.range n).map fun i => windowOf members (s.hostBytes (at' + 96 + 16 * i) 16)
      let good := 64 ≤ age ∧ age ≤ 4096 ∧ 11 ≤ drift ∧ drift ≤ 40 ∧ self < Config.podPackages ∧ n ≤ 16384 ∧ s.hostRead (at' + 4) 12 = 0 ∧
        members / 2 ^ self % 2 = 1 ∧ (∀ w ∈ ws, w ≠ none) ∧ (ws.filterMap id).Pairwise (fun x y => ¬(x.inbound = y.inbound ∧ x.part = y.part ∧ x.pkg = y.pkg ∧ x.rpart = y.rpart))
      (¬good → exec (.setFabric fn page) s = s.resulted fn page 1 0 0) ∧
      (good → self ≠ s.pkg → s.domains.any (·.live) = true → exec (.setFabric fn page) s = s.resulted fn page 5 0 0) ∧
      (good → self = s.pkg ∨ s.domains.any (·.live) = false → exec (.setFabric fn page) s = State.resulted { s with
        pkg := self, members := members, windows := ws.filterMap id, ageLimit := age, driftLimit := drift,
        lost := s.lost.filter fun p => !tbit members p } fn page 0 0 0)) ∧
    (s.hasDue fn page 0x18 c → fn ≠ 0 → s.part? (fn - 1) = some q →
      let os := s.objs.filter fun o => o.part == q.num && s.objLive o
      let body := (List.range 64).map (fun i => BitVec.ofNat 8 (c.arg i 1)) ++ padTo 64 Config.identityHash ++ padTo 64 Config.romHash ++
        sha3 (s.quadBitmap q.num ++ bytesOf 8 q.policy ++ q.keys.flatMap (·.1)) ++ bytesOf 4 os.length ++ bytesOf 4 0 ++
        os.flatMap fun o => padTo 64 o.measure
      exec (.attest fn page) s = (s.hostWrite (c.arg 64 8) (body ++ padTo 4627 (Config.signature body))).resulted fn page 0
        (body.length + 4627) 0)

/-- 22 R376, R381, R383, 04 R84, 08 R154: a load is refused without its roots, with the check it fails, or with no place, and else is
performed at the places found, answering the new domains; the host's writes go to its own memory, and to DRAM where it has been given a
mapping. The reading of their addresses, and that which mappings there are is free, are the model's choices (log 32). -/
def Sys2Proof.Clause.LoadAndHostWrites : Prop :=
  ∀ (s s1 s2 : State) (fn page : Nat) (c : Cmd) (p : Partition) (text data : Nat) (ts ds : List (Nat × Nat)) (addr : Nat) (bs : List Byte),
    let f := s.hostBytes (c.arg 0 8) (c.arg 8 8)
    let z := zofOf f
    let nums := s.freeNums.take z.doms.length
    let asid := c.arg 16 2
    (s.hasDue fn page 3 c → fn ≠ 0 → s.part? (fn - 1) = some p →
      (p.roots.any (·.1 == asid) = false → exec (.load fn page) s = s.resulted fn page 4 0 0) ∧
      (p.roots.any (·.1 == asid) = true →
        (∀ n, s.loadCode p f (c.arg 8 8) = some n → exec (.load fn page) s = s.resulted fn page 8 n 0) ∧
        (s.loadCode p f (c.arg 8 8) = none → (s.objs.countP fun o => o.part == p.num && s.objLive o) < 16 →
          (s.placeAt p.num asid 4 (z.extent 0) [] = none → exec (.load fn page) s = s.resulted fn page 6 0 0) ∧
          (s.placeAt p.num asid 4 (z.extent 0) [] = some ((text, ts), s1) → s1.placeAt p.num asid 1 (z.extent 3) ts = some ((data, ds), s2) →
            exec (.load fn page) s = (s2.install { part := p.num, asid := asid, text := text, textSegs := ts, data := data, dataSegs := ds }
              z fn nums).resulted fn page 0 0 ((nums.map fun n => n % 64).foldl (fun m n => Nat.lor m (2 ^ n)) 0))))) ∧
    (s.barWaits = [] → addr < 2 ^ 63 →
      (addr / 2 ^ 60 = 4 → addr % 2 ^ 60 + bs.length ≤ Config.dramBytes → ∃ t, exec (.hostPostedWrite addr bs) s = .next t ∧
        t = if Config.hostView s.clock (addr % 2 ^ 60) bs.length = true then { s with mem := s.mem.write addr bs, bad := t.bad, soft := t.soft }
          else s) ∧
      (addr / 2 ^ 60 = 6 → addr % 2 ^ 60 + bs.length ≤ 2 ^ 60 → ∃ t, exec (.hostPostedWrite addr bs) s = .next t ∧
        t = { s with mem := s.mem.write addr bs, bad := t.bad, soft := t.soft }))

/-- Commands on domains and tenants, loading, and the host's own writes: the clauses named. -/
def Obligations.HostCommands : Prop :=
  Clause.DomainCommands ∧ Clause.TenantCommands ∧ Clause.LoadAndHostWrites

/-- 02 R23, R25, R27: a core that runs no gang and holds no released thread in a refill's first 16 clocks issues the first eligible
slot after the one that issued last, and none where there is none or where it has issued in this clock; a refill, on a refill clock
and once in it, sets the budget, samples what it was, and releases the held threads: those found so at their turn, and those that
issue by themselves and whose next bundle is a vector issue while the budget is not positive. That the sample is of the budget before it is set is
the model's reading (log 68). -/
def Obligations.IssueSlots : Prop :=
  ∀ (s : State) (core : Nat), let c := s.core core
    let g := fun (i : Nat) => s.gidOf core ((c.last + 1 + i) % 16)
    let may := fun (i : Nat) => ∃ m, s.thread? (g i) = some m ∧ s.ready m = true ∧
      (m.stream.isSome = true ∨ ∀ k, m.lastIssue = some k → k + 8 ≤ s.clock)
    let held := fun (m : Thread) => m.stat = .held ∨
      ((m.handler = true ∨ ∀ x, (s.quad (gidQk m.gid)).gang = some x → x.slot ≠ gidSlot m.gid ∨ x.leader = m.gid) ∧
        m.stat = .running ∧ m.wait = none ∧ m.stream = none ∧ s.noEnergy m.gid = true ∧ s.vectorNext m = true)
    (c.issuedAt = some s.clock → exec (.barrelIssue core) s = .next s) ∧
    ((∀ q, (s.quad q).gang = none) → c.released = [] ∨ c.relClock + 16 ≤ s.clock → c.issuedAt ≠ some s.clock →
      (∀ i, i < 16 → may i → (∀ j, j < i → ¬may j) →
        exec (.barrelIssue core) s = .next { s with issueQ := s.issueQ ++ [g i] }) ∧
      ((∀ i, i < 16 → ¬may i) → exec (.barrelIssue core) s = .next s)) ∧
    (s.clock % 1024 ≠ 0 ∨ s.clock = c.relClock → exec (.energyRefill core) s = .next s) ∧
    (s.clock % 1024 = 0 → s.clock ≠ c.relClock → ∃ t r, exec (.energyRefill core) s = .next t ∧
      t = { s with threads := t.threads, cores := t.cores, quads := t.quads } ∧
      t.core core = { c with budget := signed 32 (max c.refill 64), relClock := s.clock, released := r } ∧
      (∀ h, h ∈ r ↔ gidCk h = core ∧ ∃ m ∈ s.threads, m.gid = h ∧ held m) ∧
      (∀ k, k ≠ core → t.core k = s.core k) ∧
      (∀ k, t.quad k = if k = ckQuad core then { s.quad k with
        mons := (s.quad k).mons.map fun x => if x.on = true ∧ x.src = 5 then x.sample (unsignedOf 32 c.budget) else x } else s.quad k) ∧
      ∀ h m, s.thread? h = some m →
        t.thread? h = some (if gidCk h = core ∧ m.stat = .held then { m with stat := .running } else m))

/-- 02 R41, R42, 01 R17, 05 R93, 22 R383, R384: nothing happens while a domain reacts; a domain without threads closes its
outputs and terminates; one whose threads all rest closes its outputs and begins the next instant: claims live, host inputs
applied, those among them that a page has accepted and not performed yet (log 49), paused threads running with their watchdogs started, and nothing else touched: of memory only the words of the entries
that an input or the turn of the tag brings into the instant. -/
def Obligations.InstantClosure : Prop :=
  ∀ (s : State) (n : Nat) (d : Domain), s.domain? n = some d →
    let outs := (d.outs ++ [(d.inst, d.outRecord)]).drop (d.outs.length + 1 - 16)
    let given := d.inputs ++ s.pages.flatMap fun p => (p.cmds.filter (s.takesInput d p)).map fun c => (c.arg 2 2, c.arg 4 8)
    let ended := fun (p : Page) (c : Cmd) => if s.takesInput d p c = true then { c with result := some (0, d.inst + 1, 0) } else c
    (d.stat ≠ .reacting ∨ s.quiet n = false → exec (.lull n) s = .next s) ∧
    (d.stat = .reacting → s.quiet n = true →
      ((∀ m ∈ s.threads, m.dom ≠ n) → ∃ t, exec (.lull n) s = .next t ∧
        t.domain? n = some { d with outs := outs, stat := .terminated, endWord := 1, endVal := 0, endTval := 0 } ∧
        t.threads = s.threads ∧ t.mem = s.mem) ∧
      ((∃ m ∈ s.threads, m.dom = n) → (∀ m ∈ s.threads, m.dom = n → m.guards = [] ∧ m.stat = .paused) →
        (∀ q ∈ s.iqs, q.dom ≠ n) → d.suspendTo = none →
        ∃ t e, exec (.lull n) s = .next t ∧
          t = { s with
            threads := t.threads, domains := t.domains, cores := t.cores, mem := t.mem
            pages := s.pages.map fun p => { p with cmds := p.cmds.map (ended p) } } ∧ t.domain? n = some e ∧
          (t.cores = s.cores.map fun c => { c with
            status := c.status.filter (fun x => x.1 != n), handles := c.handles.filter (fun x => x.1 != n) }) ∧
          (s.mem.wf = true → ∀ a, (∀ k arr, ((k < d.sigs.length ∧ (d.inst + 1) % 2 ^ 23 = 0) ∨ ∃ v, (k, v) ∈ given) → arr = 0 ∨ arr = 0x8000 ∨ arr = 0x10000 →
            a < d.sigKey arr k ∨ d.sigKey arr k + 8 ≤ a) → t.mem.byte a = s.mem.byte a) ∧
          e = { d with inst := (d.inst + 1) % 2 ^ 64, outs := outs, inputs := [], stat := .reacting, suspendTo := none, sigs := e.sigs } ∧
          (∀ k, let ins := (given.filter (·.1 == k)).map (·.2)
            if ins = [] ∧ (d.inst + 1) % 2 ^ 23 ≠ 0 then e.sigs.getD k Sig.none = d.sigs.getD k Sig.none
            else k < d.sigs.length → ∃ c, e.sigs.getD k Sig.none = (d.sigs.getD k Sig.none).bring ((d.inst + 1) % 2 ^ 64) c ins) ∧
          ∀ g m, s.thread? g = some m → t.thread? g = some (if m.dom = n then { m with
            stat := .running, heldBy := none, claims := m.claims.map fun c => { c with live := true },
            wdStart := s.clock, wdRun := true, wdFired := false, wdArmed := false, wdPending := false } else m)))

/-- 11 R207, R208, 22 R387: a walk that ends fills the die's store and its quad's table and ends every walk of the partition inside the
page, but fills nothing once it is to be discarded; where there is no mapping the partition's fault queue takes a record, the walk
waiting for its answer, or for room in it behind the partition's earlier misses that wait so; without a queue the waiting threads trap. A miss that found the FIFO full goes to its
end 64 clocks later, and starts where nothing waits before it and a walker is free, or tries again. -/
def Sys2Proof.Clause.PageWalks : Prop :=
  ∀ (s : State) (w : Walk) (e : Tlb) (p : Partition) (r : Ring), w ∈ s.walks → (∀ x ∈ s.walks, x.id = w.id → x = w) →
    let first := ∀ x ∈ s.walks, x.die = w.die → x.state ≠ 0
    let settled := ∀ m ∈ s.threads, ∀ v, m.wait = some v → ∀ a b, v.why ≠ .tlbi a b
    let gone := { s with walks := s.walks.filter (·.id != w.id) }
    let now := fun (st n : Nat) => s.walks.map fun x => if x.id = w.id then { x with state := st, num := n } else x
    let unmapped := w.state = 2 ∨ (w.state = 1 ∧ first ∧ w.discard = false ∧ s.walkTables w.part w.asid w.sel w.va = none)
    let again := if (r.n + 2 ^ 32 - r.cons % 2 ^ 32) % 2 ^ 32 = r.entries then { r with cons := s.hostRead r.consAt 4 } else r
    let num := p.recNum + 1
    let behind := ∃ x, s.walks.find? (fun x => x.part == w.part && x.state == 2) = some x ∧ x.id ≠ w.id
    let rec32 := bytesOf 8 num ++ bytesOf 1 1 ++ bytesOf 1 w.acc ++ bytesOf 2 w.dom ++ bytesOf 4 ((w.waiters.head?.map (·.1)).getD 0) ++
      bytesOf 8 w.first ++ bytesOf 2 w.asid ++ bytesOf 6 0
    (w.state = 1 → first → settled → w.discard = true → exec (.pageWalkComplete w.id) s = .next gone) ∧
    (w.state = 1 → first → settled → w.discard = false → s.walkTables w.part w.asid w.sel w.va = some e →
      ∃ t, exec (.pageWalkComplete w.id) s = .next t ∧ t = { s with
        dies := t.dies, quads := t.quads, walks := s.walks.filter fun x => !(x.die == w.die && x.part == w.part && e.hits x.asid x.sel x.va) } ∧
      (t.die w.die).store.head? = some e ∧ (t.quad w.quad).tlb.head? = some e ∧
      (t.die w.die).store.length ≤ 16384 ∧ (t.quad w.quad).tlb.length ≤ 64) ∧
    (w.state = 2 → (s.part? w.part).bind (·.faultQ) = none → exec (.pageWalkComplete w.id) s =
      .next (w.waiters.foldl (fun s e => s.trapWaiting e.1 { cls := 7, tval := e.2, kind := 0 } false) gone)) ∧
    (unmapped → s.part? w.part = some p → p.faultQ = some r →
      (again.full = true ∨ behind → exec (.pageWalkComplete w.id) s = .next (if w.state = 2 then s
        else { s with walks := s.walks.filter (·.id != w.id) ++ [{ w with state := 2, num := 0 }] })) ∧
      (again.full = false → ¬behind → ∃ t, exec (.pageWalkComplete w.id) s = .next t ∧
        let u := s.hostWrite (r.base + r.n % r.entries * 32) rec32
        t = { (if r.notify = 0 then u else u.hostWrite r.notify (bytesOf 8 num)) with
          walks := now 3 num
          parts := s.parts.map fun (x : Partition) =>
            if x.num = w.part then { x with faultQ := some { again with n := r.n + 1 }, recNum := num } else x })) ∧
    (w.state = 4 → first →
      (s.clock < w.num → exec (.walkFifoRetry w.id) s = .next s) ∧
      (w.num ≤ s.clock → (s.walks.filter fun x => x.die == w.die && x.state == 1).length < 256 →
        exec (.walkFifoRetry w.id) s = .next { s with walks := s.walks.filter (·.id != w.id) ++ [{ w with state := 1, num := 0 }] }) ∧
      (w.num ≤ s.clock → 256 ≤ (s.walks.filter fun x => x.die == w.die && x.state == 1).length →
        exec (.walkFifoRetry w.id) s = .next { s with walks := s.walks.filter (·.id != w.id) ++ [{ w with state := 0, num := 0 }] }))

/-- 11 R191 to R193: every 65,536 clocks the background checker walks again from a die's unchecked wait edges: an edge that closes no
cycle is checked, one that closes a cycle traps its thread, held while it is in a handler, and a walk that reaches another die goes on
there by a message, unless its thread has left the edge meanwhile, along the edges that still stand; a wake-up that comes from another
die completes its thread, or has it try its instruction again. -/
def Sys2Proof.Clause.ChecksAndCrossings : Prop :=
  ∀ (s : State),
    (∀ die, (s.clock % 65536 ≠ 0 ∨ (∀ e ∈ s.edges, e.die = die → e.unc = false ∨ e.ek ≠ 0) → exec (.backgroundChecker die) s = .next s) ∧
      ∀ e, s.clock % 65536 = 0 → s.edges.filter (fun e => e.die == die && e.unc && e.ek == 0) = [e] →
        (s.walkEdge e.gid e = .limit → exec (.backgroundChecker die) s = .next s) ∧
        (s.walkEdge e.gid e = .clear → exec (.backgroundChecker die) s = .next { s with
          edges := s.edges.map fun x => if x.die = e.die ∧ x.idx = e.idx then { x with unc := false } else x }) ∧
        (∀ there n seen work, s.walkEdge e.gid e = .cross there n seen work → exec (.backgroundChecker die) s = .next { s with
          nextId := s.nextId + 1
          walkMsgs := s.walkMsgs ++ [WalkMsg.mk s.nextId there e.gid (s.thread e.gid).uid e true n seen work] }) ∧
        ∀ path m, s.walkEdge e.gid e = .cycle path → s.thread? e.gid = some m →
          let tr : Trap := { cls := clsCycle, tval := e.obj, kind := (causalPath path).toNat }
          (m.handler = false → exec (.backgroundChecker die) s = .next ((s.writeRecord e.gid path).trapWaiting e.gid tr false)) ∧
          (m.handler = true → exec (.backgroundChecker die) s =
            .next ((s.writeRecord e.gid path).modThread e.gid fun t => { t with cycle := some tr }))) ∧
    (∀ x, s.crossings.find? (·.id == x.id) = none → s.walkMsgs.find? (·.id == x.id) = some x →
      let gone := { s with walkMsgs := s.walkMsgs.filter (·.id != x.id) }
      let on := (s.thread x.gid).uid = x.uid ∧ ∃ e ∈ s.edges, e.die = x.edge.die ∧ e.idx = x.edge.idx ∧ e.obj = x.edge.obj ∧ e.ok = x.edge.ok ∧ e.gid = x.gid ∧ e.ek = 0
      let stands := fun (e : Edge) => s.edges.any fun y =>
        y.die == e.die && y.idx == e.idx && y.obj == e.obj && y.ok == e.ok && y.gid == e.gid && y.ek == e.ek
      let found := walkLoop gone x.gid x.die 65 x.n x.seen (x.work.filter fun w => w.1.die != x.die || stands w.1)
      (¬on → exec (.walkCrossing x.id) s = .next gone) ∧
      (on → found = .limit → exec (.walkCrossing x.id) s = .next (if x.checker = true then gone else gone.markEdge x.edge true)) ∧
      (on → found = .clear → exec (.walkCrossing x.id) s = .next (if x.checker = true then gone.markEdge x.edge false else gone)) ∧
      (∀ there n seen work, on → found = .cross there n seen work → exec (.walkCrossing x.id) s = .next { gone with
        nextId := s.nextId + 1
        walkMsgs := gone.walkMsgs ++ [{ x with id := s.nextId, die := there, n := n, seen := seen, work := work }] }) ∧
      ∀ path m, on → found = .cycle path → s.thread? x.gid = some m →
        let tr : Trap := { cls := clsCycle, tval := x.edge.obj, kind := (causalPath path).toNat }
        (m.handler = false ∨ x.checker = false → exec (.walkCrossing x.id) s = .next ((gone.writeRecord x.gid path).trapWaiting x.gid tr false)) ∧
        (m.handler = true → x.checker = true → exec (.walkCrossing x.id) s =
          .next ((gone.writeRecord x.gid path).modThread x.gid fun t => { t with cycle := some tr }))) ∧
    (∀ x n, s.crossings.find? (·.id == x.id) = some x → s.thread? x.gid = some n → n.uid = x.uid →
      (∀ w, n.wait = some w → w.why = .reply x.id) → n.waitsOne → ∃ t, exec (.walkCrossing x.id) s = .next t ∧
        let gone := { s with crossings := s.crossings.filter (·.id != x.id) }
        ((∀ w, n.wait = some w → w.again = false) → OnlyThread gone t x.gid (n.completed x.val)) ∧
        ((∀ w, n.wait = some w → w.again = true) → OnlyThread gone t x.gid n.goOn))

/-- Page walks and the fault queue, the background checker, and what crosses between dies: the clauses named. -/
def Obligations.WalksAndChecks : Prop :=
  Clause.PageWalks ∧ Clause.ChecksAndCrossings

/-- 09 R175, 19 R343, 22 R393 to R395: what the part does with faults of its own, a lost package or die and a thermal alarm. The
counters stop at their largest value (log 38); that a memory fault comes with a scrub, at a word that is free (log 30), the end word of a machine
check (log 39), which reductions a lost die and an error of a barrier's network concern, and that these
two events come with the steps of a lost package and of a link error, is the model's reading (log 69). -/
def Sys2Proof.Clause.PartFaults : Prop :=
  ∀ (s : State),
    let up := fun (n : Nat) => min (n + 1) (2 ^ 32 - 1)
    -- what a scrub finds: a fault that has come since may have struck one word
    (let u := s.struck
      let hit := fun (k : Nat) (two : Bool) => homeQuad k ≠ none ∧ ∃ a, Config.memoryFault s.freeCtr = some (a, two) ∧ k = a / 8 * 8
      u = { s with freeCtr := s.freeCtr + 1, bad := u.bad, soft := u.soft } ∧
      (∀ k, k ∈ u.bad ↔ k ∈ s.bad ∨ hit k true ∨ (hit k false ∧ k ∈ s.soft)) ∧
      (∀ k, k ∈ u.soft ↔ (k ∈ s.soft ∧ (k ∈ s.bad ∨ ¬(hit k true ∨ hit k false))) ∨ (hit k false ∧ k ∉ s.bad ∧ k ∉ s.soft)) ∧
      ∀ w q, homeQuad (w / 8 * 8) = some q → let k := w / 8 * 8
        let d := s.die (qkDie q)
        ∃ t, exec (.patrolScrub w) s = .next t ∧
          t = { u with dies := t.dies, soft := if k ∈ u.bad then u.soft else u.soft.filter (· != k) } ∧
          t.die (qkDie q) = if k ∈ u.bad then { d with uncorrectable := up d.uncorrectable, lastBad := k }
            else if k ∈ u.soft then { d with corrected := up d.corrected } else d) ∧
    (∀ n, let hit := (Config.barrierError s.freeCtr).bind fun i => s.netBars[i]?
      ∃ t, exec (.linkFlitError n) s = .next t ∧ t = { s with dies := t.dies, freeCtr := s.freeCtr + 1, netBars := t.netBars } ∧
        t.die n = (if hit.isNone then { s.die n with replays := up (s.die n).replays } else s.die n) ∧ (∀ k, k ≠ n → t.die k = s.die k) ∧
        t.netBars = s.netBars.map fun b => if hit = some b ∧ b.red ≠ 0 then { b with poisoned := true } else b) ∧
    (∀ core, ∃ t, exec (.machineCheck core) s = .next t ∧
      ((∀ m ∈ s.threads, gidCk m.gid ≠ core) → t = { s with dies := t.dies } ∧
        t.die (ckDie core) = { s.die (ckDie core) with checks := up (s.die (ckDie core)).checks }) ∧
      ∀ m ∈ s.threads, gidCk m.gid = core → ∀ d, s.domain? m.dom = some d →
        ∃ e, t.domain? m.dom = some e ∧ e.stat = .aborted ∧ e.endWord = 7 + 10 * 2 ^ 8) ∧
    (∀ pkg, (pkg ≠ s.pkg → s.lost.contains pkg = true → exec (.packageLoss pkg) s = .next s) ∧
      (pkg ≠ s.pkg → s.lost.contains pkg = false → ∃ t, exec (.packageLoss pkg) s = .next t ∧
        t = { s with lost := t.lost, msgs := s.msgs.filter fun m => gidPkg (m.flit.hdr % 2 ^ 30) != pkg, netBars := t.netBars } ∧
        (∀ x, x ∈ t.lost ↔ x = pkg ∨ x ∈ s.lost) ∧
        t.netBars = s.netBars.map fun b =>
          if b.red ≠ 0 ∧ ((∃ x ∈ s.participants b, gidPkg x.gid = pkg) ∨ ∃ a ∈ b.arrivals, gidPkg a.gid = pkg)
          then { b with poisoned := true } else b)) ∧
    (let die := (Config.lostDie s.freeCtr).val
      ∃ t, exec (.packageLoss s.pkg) s = .next t ∧ (∀ x, x ∈ t.lostDies ↔ x = die ∨ x ∈ s.lostDies) ∧
      ((∀ b ∈ s.netBars, (∀ x ∈ s.participants b, gidDie x.gid ≠ die) ∧ ∀ a ∈ b.arrivals, gidDie a.gid ≠ die) →
        t = { s with lostDies := t.lostDies, freeCtr := s.freeCtr + 1 })) ∧
    (∀ die refill, let r := refill % 2 ^ 32
      ∃ t, exec (.thermalAlarm die refill) s = .next t ∧ t = { s with dies := t.dies, cores := t.cores } ∧
        ∀ k, t.core k = if ckDie k = die then { s.core k with refill := min (s.core k).refill r } else s.core k)

/-- 00 R5, 07 R140: package reset leaves the machine as `State.reset` has it: the clock at 0, no thread, domain or partition,
every word full, every table empty. Memory outside the package keeps its bytes, and memory in it holds nothing written before.
That it keeps the bytes of CXL and of the host, and the counter of the keys (log 12), and the model's own counters (log 1, log 2), is the
model's choice. -/
def Sys2Proof.Clause.ResetStep : Prop :=
  ∀ (s : State), ∃ t, exec .packageReset s = .next t ∧
    t = { State.reset with mem := t.mem, keyCtr := s.keyCtr, agenda := s.agenda, freeCtr := s.freeCtr, nextUid := s.nextUid, nextId := s.nextId } ∧
    (t.clock, t.pkg, t.threads, t.domains, t.parts, t.empties, t.bad) = (0, 0, [], [], [], [], []) ∧
    (s.mem.wf = true → t.mem.wf = true) ∧
    ∀ a, t.mem.byte a = if 5 ≤ keySel a then s.mem.byte a else Memory.byte { s.mem with cells := [] } a

/-- Faults of the part, and package reset: the clauses named. -/
def Obligations.PartFaults : Prop :=
  Clause.PartFaults ∧ Clause.ResetStep

/-- 22 R376: a read of the registers window stops the run under its own name: the rule says that such reads have effects and
states none of them. -/
def Obligations.RegistersWindow : Prop :=
  ∀ (s : State) (a : Nat), exec (.registersWindowRead a) s = .refused .registersWindow

/-- 03 R52 to R58, 02 R23: a step with a thread selected to issue runs the instruction that its line's head decodes to: with a
legal line in its image and a well-formed head outside a bundle, the step is `exec` of that instruction on the state in which
the issue is recorded and the thread has taken its turn; under a false predicate it is the passing of the head. After it the
record of the issue is cleared, an operation that is parked before its effect is kept (00 R9), incremental queues close and parked
operations that are awake complete. The thread may issue, is outside a gang and a handler, maps no queue, and nothing is due before
its issue. -/
def Obligations.StepRunsDecoded : Prop :=
  ∀ (s s2 : State) (g : Nat) (rest : List Nat) (m : Thread) (l : Line) (o : Op), s.issueQ = g :: rest → s.thread? g = some m →
    ({ s with issueQ := rest }).ready m = true → m.wait = none → m.stream = none → m.halfOnly = false → m.qmap = 0 → m.handler = false →
    m.dfr = [] → m.cycle = none → m.wdPending = false → m.uiOn = false → (s.quad (gidQk g)).gang = none →
    let pc := m.pc.toNat
    let own := ({ s with issueQ := rest }).modThread g fun x => { x with wait := none, stat := .running, halfOnly := false }
    State.fetch { own with iss := { Issue.none with gid := g, pc := pc } } = (s2, l, none) →
    opAt l (pcSlot pc) = some o → o.bp = false → isV (opcodeOf o.instr) = false ∨ 0 < (s.core (gidCk g)).budget →
    let next := if pcSlot pc < l.nh then pc + 1 else pcLine pc + 65
    let sel := { s2.turn g with iss := { Issue.none with gid := g, pc := pc, succ := next } }
    let s3 := { sel with iss := { sel.iss with opc := Op.head o / 256, hw := Op.head o } }
    let keep := fun (t : State) => t.modThread t.iss.gid fun x => { x with
      stream := x.stream.map (fun y => y.opened s3 o.instr pc next false)
      parked := match x.wait with
        | some w => (match w.why with
          | .parked _ _ => if t.iss.again = true then some { op := o, v := none, succ := next, lead := none, half := false } else x.parked
          | _ => x.parked)
        | none => x.parked }
    let after := fun (t : State) => (t.settleQueues (t.iqs.length + 1)).resumeParked exec (t.threads.length + 1)
    step s = match (if (m.pred o.p.val != o.pn) = true then exec o.instr s3 else sel.ok) with
      | .next t => after (keep t).finish
      | r => r

/-- 04 R70, 05 R104, 06 R116, R117, 09 R170, 13 R231, 18 R326, 19 R338: words that the spec writes out decode to the instructions they
stand for there. -/
def Obligations.DecodeWords : Prop :=
  let op := fun (i : Instr) (tl : Nat) (p : PReg) (pn : Bool) => some ({ instr := i, tl := tl, bp := false, p := p, pn := pn } : Op)
  decodeWords [0x02C0, 0x2142, 0x0006, 0xFFC0, 0xFFFF] = op (.brc 6 4 5 2 (-64)) 3 0 false ∧
  decodeWords [0x5280, 0x0002, 0x7000] = op (.fence 2) 2 3 true ∧
  decodeWords [0x1843, 0x0881] = op (.add 3 1 2 .e32) 1 0 false ∧
  decodeWords [0x29C6, 0x3802, 0x0000, 0x0003, 0x0000] = op (.sarImm 6 7 .e16 3) 3 0 false ∧
  decodeWords [0x4DC4, 0x1880, 0x2000, 0x0000, 0x0000] = op (.updcfgLd 4 3 2 0) 3 1 false ∧
  decodeWords [0x5540, 0x100A] = op (.barDrain 0 2 0 0 0 2) 1 0 false ∧
  decodeWords [0x4F4A, 0x1053] = op (.lrw 10 1 2 2 false .d) 1 0 false ∧
  decodeWords [0x9583, 0x2808, 0x0004] = op (.vmrgkBank 3 5 4 8) 2 0 false ∧
  decodeWords [0xBB91, 0x2380, 0x0180] = op (.arrget 17 3 4 14) 2 0 false ∧
  decodeWords [0x3540, 0x2802] = op (.msndWrite 0 5) 1 0 false

/-- 00 R5, 02 R25, 07 R125, R126: the values that reset leaves: the clock at 0, package 0, no domain, partition, thread, barrier or
request, every word full and readable, the network's limits at their defaults, no lost package, every core's budget full at its refill. -/
def Obligations.ResetState : Prop :=
  let s := State.reset
  s.clock = 0 ∧ s.pkg = 0 ∧ s.lost = [] ∧ s.ageLimit = 512 ∧ s.driftLimit = 15 ∧ s.threads = [] ∧ s.domains = [] ∧ s.parts = [] ∧
  s.netBars = [] ∧ s.barWaits = [] ∧ s.reqs = [] ∧ s.empties = [] ∧ s.bad = [] ∧ s.edges = [] ∧ s.walks = [] ∧
  (∀ k, (s.core k).refill = 0x1800 ∧ (s.core k).budget = 0x1800) ∧
  (∀ k, (s.quad k).gang = none ∧ (s.quad k).tlb = [])

/-- Memory right after reset is in canonical form. -/
def Obligations.ResetMemoryCanonical : Prop := State.reset.mem.wf = true

/-- 03 R52 to R54, R58: what the encoder lays out, the decoder reads back: every operand field, the tail format, the bundle bit
and the predicate of every well-formed head. -/
def Obligations.RoundTrip : Prop := ∀ o : Op, o.wf = true → decodeWords (encode o) = some o

/-- A step keeps memory in canonical form, whichever step it is. -/
def Obligations.StepKeepsMemoryCanonical : Prop := ∀ s t : State, s.mem.wf = true → step s = .next t → t.mem.wf = true
end

