-- ==== Sys2Proof/Laws/Memory.lean ====
section
/-!
SUPPORT. The laws of memory: what a byte reads after a write to it or to another address, and that every memory operation
keeps the canonical form (addresses strictly rising, no cell equal to what its address reads unlisted).
-/
namespace Sys2Proof.Machine

theorem risingFrom_some {x y : Nat} {l : List Host.Cell} (h : y ≤ x) (hr : risingFrom (some x) l = true) :
    risingFrom (some y) l = true := by
  cases l with
  | nil => rfl
  | cons c cs =>
    obtain ⟨a, b⟩ := c
    simp only [risingFrom, Bool.and_eq_true, decide_eq_true_eq] at hr ⊢
    exact ⟨by omega, hr.2⟩
theorem risingFrom_none {lo : Option Nat} {l : List Host.Cell} (hr : risingFrom lo l = true) : risingFrom none l = true := by
  cases l with
  | nil => rfl
  | cons c cs =>
    obtain ⟨a, b⟩ := c
    simp only [risingFrom, Bool.and_eq_true] at hr ⊢
    exact ⟨trivial, hr.2⟩

theorem lookupCell_insert (k j : Nat) (v : Byte) (l : List Host.Cell) :
    lookupCell j (insertCell k v l) = if j = k then some v else lookupCell j l := by
  induction l with
  | nil => simp only [insertCell, lookupCell, eq_comm]
  | cons c cs ih =>
    obtain ⟨a, b⟩ := c
    unfold insertCell
    by_cases h1 : k < a
    · rw [if_pos h1]
      by_cases hj : j = k
      · simp [lookupCell, hj]
      · simp [lookupCell, hj, Ne.symm hj]
    · rw [if_neg h1]
      by_cases h2 : k = a
      · rw [if_pos h2]; subst h2
        by_cases hj : j = k
        · simp [lookupCell, hj]
        · simp [lookupCell, hj, Ne.symm hj]
      · rw [if_neg h2]
        by_cases hj : j = k
        · subst hj; simp only [lookupCell, Ne.symm h2, if_false, ih, if_true]
        · simp only [lookupCell, ih, hj, if_false]

theorem lookupCell_above {x : Nat} {l : List Host.Cell} (h : risingFrom (some x) l = true) (j : Nat) (hj : j ≤ x) :
    lookupCell j l = none := by
  induction l generalizing x with
  | nil => rfl
  | cons c cs ih =>
    obtain ⟨a, b⟩ := c
    simp only [risingFrom, Bool.and_eq_true, decide_eq_true_eq] at h
    have : ¬ a = j := by omega
    simp only [lookupCell, this, if_false]
    exact ih h.2 (by omega)

theorem lookupCell_erase (k j : Nat) (l : List Host.Cell) (lo : Option Nat) (hr : risingFrom lo l = true) :
    lookupCell j (eraseCell k l) = if j = k then none else lookupCell j l := by
  induction l generalizing lo with
  | nil => simp [eraseCell, lookupCell]
  | cons c cs ih =>
    obtain ⟨a, b⟩ := c
    have h2 : risingFrom (some a) cs = true := by
      simp only [risingFrom, Bool.and_eq_true] at hr; exact hr.2
    unfold eraseCell
    by_cases h : a = k
    · rw [if_pos h]
      by_cases hj : j = k
      · rw [if_pos hj, hj]; exact lookupCell_above h2 k (by omega)
      · have : ¬ a = j := by rw [h]; exact Ne.symm hj
        rw [if_neg hj]; simp [lookupCell, this]
    · rw [if_neg h]
      by_cases hj : j = k
      · have : ¬ a = j := by rw [hj]; exact h
        simp only [lookupCell, this, if_false]
        exact ih _ h2
      · simp only [lookupCell, ih _ h2, hj, if_false]

theorem risingFrom_insert (lo : Option Nat) (k : Nat) (v : Byte) (l : List Host.Cell)
    (hk : (match lo with | none => true | some x => decide (x < k)) = true) (hr : risingFrom lo l = true) :
    risingFrom lo (insertCell k v l) = true := by
  induction l generalizing lo with
  | nil => simp only [insertCell, risingFrom, Bool.and_true]; exact hk
  | cons c cs ih =>
    obtain ⟨a, b⟩ := c
    simp only [risingFrom, Bool.and_eq_true] at hr
    unfold insertCell
    by_cases h1 : k < a
    · rw [if_pos h1]
      simp only [risingFrom, Bool.and_eq_true, decide_eq_true_eq]
      exact ⟨hk, h1, hr.2⟩
    · rw [if_neg h1]
      by_cases h2 : k = a
      · rw [if_pos h2]; subst h2
        simp only [risingFrom, Bool.and_eq_true]; exact hr
      · rw [if_neg h2]
        simp only [risingFrom, Bool.and_eq_true]
        exact ⟨hr.1, ih (some a) (by simp only [decide_eq_true_eq]; omega) hr.2⟩

theorem risingFrom_erase (lo : Option Nat) (k : Nat) (l : List Host.Cell) (hr : risingFrom lo l = true) :
    risingFrom lo (eraseCell k l) = true := by
  induction l generalizing lo with
  | nil => rfl
  | cons c cs ih =>
    obtain ⟨a, b⟩ := c
    simp only [risingFrom, Bool.and_eq_true] at hr
    unfold eraseCell
    by_cases h : a = k
    · rw [if_pos h]
      cases lo with
      | none => exact risingFrom_none hr.2
      | some x =>
        have : x < a := by simpa using hr.1
        exact risingFrom_some (Nat.le_of_lt this) hr.2
    · rw [if_neg h]
      simp only [risingFrom, Bool.and_eq_true]
      exact ⟨hr.1, ih _ hr.2⟩

theorem risingFrom_filter (lo : Option Nat) (p : Host.Cell → Bool) (l : List Host.Cell) (hr : risingFrom lo l = true) :
    risingFrom lo (l.filter p) = true := by
  induction l generalizing lo with
  | nil => rfl
  | cons c cs ih =>
    obtain ⟨a, b⟩ := c
    simp only [risingFrom, Bool.and_eq_true] at hr
    by_cases hp : p (a, b) = true
    · rw [List.filter_cons_of_pos hp]
      simp only [risingFrom, Bool.and_eq_true]
      exact ⟨hr.1, ih _ hr.2⟩
    · rw [List.filter_cons_of_neg hp]
      cases lo with
      | none => exact risingFrom_none (ih _ hr.2)
      | some x =>
        have : x < a := by simpa using hr.1
        exact risingFrom_some (Nat.le_of_lt this) (ih _ hr.2)

theorem mem_insertCell {c : Host.Cell} {k : Nat} {v : Byte} {l : List Host.Cell} (h : c ∈ insertCell k v l) :
    c = (k, v) ∨ c ∈ l := by
  induction l with
  | nil => exact .inl (by simpa [insertCell] using h)
  | cons d cs ih =>
    obtain ⟨a, b⟩ := d
    unfold insertCell at h
    by_cases h1 : k < a
    · rw [if_pos h1] at h; simpa using h
    · rw [if_neg h1] at h
      by_cases h2 : k = a
      · rw [if_pos h2] at h
        rcases List.mem_cons.1 h with h | h
        · exact .inl h
        · exact .inr (List.mem_cons_of_mem _ h)
      · rw [if_neg h2] at h
        rcases List.mem_cons.1 h with h | h
        · exact .inr (h ▸ List.mem_cons_self ..)
        · exact (ih h).imp id (List.mem_cons_of_mem _)
theorem mem_eraseCell {c : Host.Cell} {k : Nat} {l : List Host.Cell} (h : c ∈ eraseCell k l) : c ∈ l := by
  induction l with
  | nil => simp [eraseCell] at h
  | cons d cs ih =>
    obtain ⟨a, b⟩ := d
    unfold eraseCell at h
    by_cases h1 : a = k
    · rw [if_pos h1] at h; exact List.mem_cons_of_mem _ h
    · rw [if_neg h1] at h
      rcases List.mem_cons.1 h with h | h
      · exact h ▸ List.mem_cons_self ..
      · exact List.mem_cons_of_mem _ (ih h)

@[simp] theorem Memory.keyNo_set (m : Memory) (k : Nat) (v : Byte) : (m.set k v).keyNo = m.keyNo := rfl
@[simp] theorem Memory.blank_set (m : Memory) (k j : Nat) (v : Byte) : (m.set k v).blank j = m.blank j := rfl

theorem Memory.wf_iff (m : Memory) :
    m.wf = true ↔ risingFrom none m.cells = true ∧ ∀ c ∈ m.cells, c.2 ≠ m.blank c.1 := by
  simp [Memory.wf]

/-- A byte after a write: the byte written, or what was there. -/
theorem Memory.byte_set (m : Memory) (h : m.wf = true) (k j : Nat) (v : Byte) :
    (m.set k v).byte j = if j = k then v else m.byte j := by
  have hr := (m.wf_iff.1 h).1
  unfold Memory.byte
  rw [Memory.blank_set]
  unfold Memory.set
  by_cases hv : v = m.blank k
  · rw [if_pos hv, lookupCell_erase k j m.cells none hr]
    by_cases hj : j = k <;> simp [hj, hv]
  · rw [if_neg hv, lookupCell_insert]
    by_cases hj : j = k <;> simp [hj]
/-- A write of one byte keeps the canonical form. -/
theorem Memory.wf_set (m : Memory) (h : m.wf = true) (k : Nat) (v : Byte) : (m.set k v).wf = true := by
  obtain ⟨hr, hb⟩ := m.wf_iff.1 h
  rw [Memory.wf_iff]
  by_cases hv : v = m.blank k
  · have e : (m.set k v).cells = eraseCell k m.cells := by simp [Memory.set, hv]
    rw [e]
    exact ⟨risingFrom_erase _ _ _ hr, fun c hc => by rw [Memory.blank_set]; exact hb c (mem_eraseCell hc)⟩
  · have e : (m.set k v).cells = insertCell k v m.cells := by simp [Memory.set, hv]
    rw [e]
    refine ⟨risingFrom_insert _ _ _ _ rfl hr, fun c hc => ?_⟩
    rw [Memory.blank_set]
    rcases mem_insertCell hc with rfl | hc
    · exact hv
    · exact hb c hc
/-- A write of several bytes keeps the canonical form. -/
theorem Memory.wf_write (m : Memory) (h : m.wf = true) (k : Nat) (bs : List Byte) : (m.write k bs).wf = true := by
  induction bs generalizing m k with
  | nil => exact h
  | cons b bs ih => exact ih _ (m.wf_set h k b) _
/-- A byte after a write of several: the byte written at its place, or what was there. -/
theorem Memory.byte_write (m : Memory) (h : m.wf = true) (k j : Nat) (bs : List Byte) :
    (m.write k bs).byte j = if k ≤ j ∧ j < k + bs.length then bs.getD (j - k) 0 else m.byte j := by
  induction bs generalizing m k with
  | nil =>
    have : ¬ (k ≤ j ∧ j < k + ([] : List Byte).length) := by simp only [List.length_nil]; omega
    rw [if_neg this]; rfl
  | cons b bs ih =>
    rw [Memory.write, ih _ (m.wf_set h k b), m.byte_set h]
    by_cases h1 : k + 1 ≤ j ∧ j < k + 1 + bs.length
    · have h2 : k ≤ j ∧ j < k + (b :: bs).length := by simp only [List.length_cons]; omega
      rw [if_pos h1, if_pos h2]
      obtain ⟨n, hn⟩ : ∃ n, j - k = n + 1 := ⟨j - k - 1, by omega⟩
      have : j - (k + 1) = n := by omega
      rw [this, hn, List.getD_cons_succ]
    · rw [if_neg h1]
      by_cases hj : j = k
      · have h2 : k ≤ j ∧ j < k + (b :: bs).length := by simp only [List.length_cons]; omega
        rw [if_pos hj, if_pos h2, hj, Nat.sub_self, List.getD_cons_zero]
      · have h2 : ¬ (k ≤ j ∧ j < k + (b :: bs).length) := by simp only [List.length_cons]; omega
        rw [if_neg hj, if_neg h2]

theorem Memory.keyNoOf_rekey (m : Memory) (q key r : Nat) (h : r ≠ q) : (m.rekey q key).keyNoOf r = m.keyNoOf r := by
  unfold Memory.keyNoOf Memory.rekey
  have h1 : (q == r) = false := beq_false_of_ne (Ne.symm h)
  simp only [List.find?_cons, h1]
  congr 2
  induction m.keyNo with
  | nil => rfl
  | cons e es ih =>
    by_cases he : e.1 = q
    · have h2 : (e.1 == r) = false := by rw [he]; exact h1
      rw [List.filter_cons_of_neg (by simp [he]), ih, List.find?_cons, h2]
    · rw [List.filter_cons_of_pos (by simpa using he), List.find?_cons, List.find?_cons, ih]
/-- Giving a quad's memory to a new key keeps the canonical form. -/
theorem Memory.wf_rekey (m : Memory) (h : m.wf = true) (q key : Nat) : (m.rekey q key).wf = true := by
  obtain ⟨hr, hb⟩ := m.wf_iff.1 h
  rw [Memory.wf_iff]
  refine ⟨risingFrom_filter _ _ _ hr, fun c hc => ?_⟩
  obtain ⟨hc, hq⟩ := List.mem_filter.1 hc
  have e : (m.rekey q key).blank c.1 = m.blank c.1 := by
    unfold Memory.blank
    cases hk : keyRegion c.1 with
    | none => rfl
    | some r =>
      have hrq : r ≠ q := by rintro rfl; simp [hk] at hq
      simp only [m.keyNoOf_rekey q key r hrq]
  rw [e]; exact hb c hc
/-- Forgetting a core's private memory keeps it. -/
theorem Memory.wf_clearCore (m : Memory) (h : m.wf = true) (core : Nat) : (m.clearCore core).wf = true := by
  obtain ⟨hr, hb⟩ := m.wf_iff.1 h
  rw [Memory.wf_iff]
  exact ⟨risingFrom_filter _ _ _ hr, fun c hc => hb c (List.mem_filter.1 hc).1⟩

theorem State.wf_writeBytes (s : State) (h : s.mem.wf = true) (k : Nat) (bs : List Byte) :
    (s.writeBytes k bs).mem.wf = true := s.mem.wf_write h k bs
theorem State.wf_writeN (s : State) (h : s.mem.wf = true) (k n v : Nat) : (s.writeN k n v).mem.wf = true :=
  s.mem.wf_write h k _

theorem bytesOf_length (n x : Nat) : (bytesOf n x).length = n := by
  induction n generalizing x with
  | zero => rfl
  | succ n ih => simp [bytesOf, ih]
/-- The bytes of a number, read back. -/
theorem ofBytes_bytesOf (n x : Nat) : ofBytes (bytesOf n x) = x % 256 ^ n := by
  induction n generalizing x with
  | zero => simp [bytesOf, ofBytes, Nat.mod_one]
  | succ n ih =>
    have e : x % (256 * 256 ^ n) = x % 256 + 256 * (x / 256 % 256 ^ n) := Nat.mod_mul
    rw [show 256 ^ (n + 1) = 256 * 256 ^ n from Nat.pow_succ', e, bytesOf, ofBytes, ih, BitVec.toNat_ofNat]
theorem Memory.bytes_length (m : Memory) (k n : Nat) : (m.bytes k n).length = n := by
  induction n generalizing k with
  | zero => rfl
  | succ n ih => simp [Memory.bytes, ih]
theorem Memory.bytes_congr {m m' : Memory} {k n : Nat} (h : ∀ i, i < n → m.byte (k + i) = m'.byte (k + i)) :
    m.bytes k n = m'.bytes k n := by
  induction n generalizing k with
  | zero => rfl
  | succ n ih =>
    have h0 : m.byte k = m'.byte k := h 0 (by omega)
    rw [Memory.bytes, Memory.bytes, h0, ih fun i hi => ?_]
    have := h (i + 1) (by omega)
    rwa [show k + (i + 1) = k + 1 + i by omega] at this

end Sys2Proof.Machine
end

