-- ==== Sys2Proof/Laws/State.lean ====
section
/-!
SUPPORT. For every update of the state, each field it leaves alone: one lemma per field, true by `rfl`, so that no later
proof unfolds a record update. `thread?` and the like after an update are in Laws/Records.lean.
-/
namespace Sys2Proof.Machine

@[simp] theorem State.modThread_clock (s : State) (g : Nat) (f : Thread → Thread) : (s.modThread g f).clock = s.clock := rfl
@[simp] theorem State.modThread_pkg (s : State) (g : Nat) (f : Thread → Thread) : (s.modThread g f).pkg = s.pkg := rfl
@[simp] theorem State.modThread_members (s : State) (g : Nat) (f : Thread → Thread) : (s.modThread g f).members = s.members := rfl
@[simp] theorem State.modThread_windows (s : State) (g : Nat) (f : Thread → Thread) : (s.modThread g f).windows = s.windows := rfl
@[simp] theorem State.modThread_lost (s : State) (g : Nat) (f : Thread → Thread) : (s.modThread g f).lost = s.lost := rfl
@[simp] theorem State.modThread_lostDies (s : State) (g : Nat) (f : Thread → Thread) : (s.modThread g f).lostDies = s.lostDies := rfl
@[simp] theorem State.modThread_ageLimit (s : State) (g : Nat) (f : Thread → Thread) : (s.modThread g f).ageLimit = s.ageLimit := rfl
@[simp] theorem State.modThread_driftLimit (s : State) (g : Nat) (f : Thread → Thread) : (s.modThread g f).driftLimit = s.driftLimit := rfl
@[simp] theorem State.modThread_parts (s : State) (g : Nat) (f : Thread → Thread) : (s.modThread g f).parts = s.parts := rfl
@[simp] theorem State.modThread_keySlots (s : State) (g : Nat) (f : Thread → Thread) : (s.modThread g f).keySlots = s.keySlots := rfl
@[simp] theorem State.modThread_keyCtr (s : State) (g : Nat) (f : Thread → Thread) : (s.modThread g f).keyCtr = s.keyCtr := rfl
@[simp] theorem State.modThread_pages (s : State) (g : Nat) (f : Thread → Thread) : (s.modThread g f).pages = s.pages := rfl
@[simp] theorem State.modThread_domains (s : State) (g : Nat) (f : Thread → Thread) : (s.modThread g f).domains = s.domains := rfl
@[simp] theorem State.modThread_ended (s : State) (g : Nat) (f : Thread → Thread) : (s.modThread g f).ended = s.ended := rfl
@[simp] theorem State.modThread_cores (s : State) (g : Nat) (f : Thread → Thread) : (s.modThread g f).cores = s.cores := rfl
@[simp] theorem State.modThread_quads (s : State) (g : Nat) (f : Thread → Thread) : (s.modThread g f).quads = s.quads := rfl
@[simp] theorem State.modThread_banks (s : State) (g : Nat) (f : Thread → Thread) : (s.modThread g f).banks = s.banks := rfl
@[simp] theorem State.modThread_dies (s : State) (g : Nat) (f : Thread → Thread) : (s.modThread g f).dies = s.dies := rfl
@[simp] theorem State.modThread_rects (s : State) (g : Nat) (f : Thread → Thread) : (s.modThread g f).rects = s.rects := rfl
@[simp] theorem State.modThread_mem (s : State) (g : Nat) (f : Thread → Thread) : (s.modThread g f).mem = s.mem := rfl
@[simp] theorem State.modThread_empties (s : State) (g : Nat) (f : Thread → Thread) : (s.modThread g f).empties = s.empties := rfl
@[simp] theorem State.modThread_soft (s : State) (g : Nat) (f : Thread → Thread) : (s.modThread g f).soft = s.soft := rfl
@[simp] theorem State.modThread_bad (s : State) (g : Nat) (f : Thread → Thread) : (s.modThread g f).bad = s.bad := rfl
@[simp] theorem State.modThread_edges (s : State) (g : Nat) (f : Thread → Thread) : (s.modThread g f).edges = s.edges := rfl
@[simp] theorem State.modThread_reqs (s : State) (g : Nat) (f : Thread → Thread) : (s.modThread g f).reqs = s.reqs := rfl
@[simp] theorem State.modThread_msgs (s : State) (g : Nat) (f : Thread → Thread) : (s.modThread g f).msgs = s.msgs := rfl
@[simp] theorem State.modThread_feWaits (s : State) (g : Nat) (f : Thread → Thread) : (s.modThread g f).feWaits = s.feWaits := rfl
@[simp] theorem State.modThread_rsvs (s : State) (g : Nat) (f : Thread → Thread) : (s.modThread g f).rsvs = s.rsvs := rfl
@[simp] theorem State.modThread_barWaits (s : State) (g : Nat) (f : Thread → Thread) : (s.modThread g f).barWaits = s.barWaits := rfl
@[simp] theorem State.modThread_netBars (s : State) (g : Nat) (f : Thread → Thread) : (s.modThread g f).netBars = s.netBars := rfl
@[simp] theorem State.modThread_crossings (s : State) (g : Nat) (f : Thread → Thread) : (s.modThread g f).crossings = s.crossings := rfl
@[simp] theorem State.modThread_walkMsgs (s : State) (g : Nat) (f : Thread → Thread) : (s.modThread g f).walkMsgs = s.walkMsgs := rfl
@[simp] theorem State.modThread_reports (s : State) (g : Nat) (f : Thread → Thread) : (s.modThread g f).reports = s.reports := rfl
@[simp] theorem State.modThread_drains (s : State) (g : Nat) (f : Thread → Thread) : (s.modThread g f).drains = s.drains := rfl
@[simp] theorem State.modThread_walks (s : State) (g : Nat) (f : Thread → Thread) : (s.modThread g f).walks = s.walks := rfl
@[simp] theorem State.modThread_copies (s : State) (g : Nat) (f : Thread → Thread) : (s.modThread g f).copies = s.copies := rfl
@[simp] theorem State.modThread_convs (s : State) (g : Nat) (f : Thread → Thread) : (s.modThread g f).convs = s.convs := rfl
@[simp] theorem State.modThread_iqs (s : State) (g : Nat) (f : Thread → Thread) : (s.modThread g f).iqs = s.iqs := rfl
@[simp] theorem State.modThread_arrs (s : State) (g : Nat) (f : Thread → Thread) : (s.modThread g f).arrs = s.arrs := rfl
@[simp] theorem State.modThread_objs (s : State) (g : Nat) (f : Thread → Thread) : (s.modThread g f).objs = s.objs := rfl
@[simp] theorem State.modThread_saved (s : State) (g : Nat) (f : Thread → Thread) : (s.modThread g f).saved = s.saved := rfl
@[simp] theorem State.modThread_sup (s : State) (g : Nat) (f : Thread → Thread) : (s.modThread g f).sup = s.sup := rfl
@[simp] theorem State.modThread_issueQ (s : State) (g : Nat) (f : Thread → Thread) : (s.modThread g f).issueQ = s.issueQ := rfl
@[simp] theorem State.modThread_agenda (s : State) (g : Nat) (f : Thread → Thread) : (s.modThread g f).agenda = s.agenda := rfl
@[simp] theorem State.modThread_iss (s : State) (g : Nat) (f : Thread → Thread) : (s.modThread g f).iss = s.iss := rfl
@[simp] theorem State.modThread_halves (s : State) (g : Nat) (f : Thread → Thread) : (s.modThread g f).halves = s.halves := rfl
@[simp] theorem State.modThread_freeCtr (s : State) (g : Nat) (f : Thread → Thread) : (s.modThread g f).freeCtr = s.freeCtr := rfl
@[simp] theorem State.modThread_nextUid (s : State) (g : Nat) (f : Thread → Thread) : (s.modThread g f).nextUid = s.nextUid := rfl
@[simp] theorem State.modThread_nextId (s : State) (g : Nat) (f : Thread → Thread) : (s.modThread g f).nextId = s.nextId := rfl

@[simp] theorem State.setCore_clock (s : State) (c : Core) : (s.setCore c).clock = s.clock := rfl
@[simp] theorem State.setCore_pkg (s : State) (c : Core) : (s.setCore c).pkg = s.pkg := rfl
@[simp] theorem State.setCore_members (s : State) (c : Core) : (s.setCore c).members = s.members := rfl
@[simp] theorem State.setCore_windows (s : State) (c : Core) : (s.setCore c).windows = s.windows := rfl
@[simp] theorem State.setCore_lost (s : State) (c : Core) : (s.setCore c).lost = s.lost := rfl
@[simp] theorem State.setCore_lostDies (s : State) (c : Core) : (s.setCore c).lostDies = s.lostDies := rfl
@[simp] theorem State.setCore_ageLimit (s : State) (c : Core) : (s.setCore c).ageLimit = s.ageLimit := rfl
@[simp] theorem State.setCore_driftLimit (s : State) (c : Core) : (s.setCore c).driftLimit = s.driftLimit := rfl
@[simp] theorem State.setCore_parts (s : State) (c : Core) : (s.setCore c).parts = s.parts := rfl
@[simp] theorem State.setCore_keySlots (s : State) (c : Core) : (s.setCore c).keySlots = s.keySlots := rfl
@[simp] theorem State.setCore_keyCtr (s : State) (c : Core) : (s.setCore c).keyCtr = s.keyCtr := rfl
@[simp] theorem State.setCore_pages (s : State) (c : Core) : (s.setCore c).pages = s.pages := rfl
@[simp] theorem State.setCore_domains (s : State) (c : Core) : (s.setCore c).domains = s.domains := rfl
@[simp] theorem State.setCore_threads (s : State) (c : Core) : (s.setCore c).threads = s.threads := rfl
@[simp] theorem State.setCore_ended (s : State) (c : Core) : (s.setCore c).ended = s.ended := rfl
@[simp] theorem State.setCore_quads (s : State) (c : Core) : (s.setCore c).quads = s.quads := rfl
@[simp] theorem State.setCore_banks (s : State) (c : Core) : (s.setCore c).banks = s.banks := rfl
@[simp] theorem State.setCore_dies (s : State) (c : Core) : (s.setCore c).dies = s.dies := rfl
@[simp] theorem State.setCore_rects (s : State) (c : Core) : (s.setCore c).rects = s.rects := rfl
@[simp] theorem State.setCore_mem (s : State) (c : Core) : (s.setCore c).mem = s.mem := rfl
@[simp] theorem State.setCore_empties (s : State) (c : Core) : (s.setCore c).empties = s.empties := rfl
@[simp] theorem State.setCore_soft (s : State) (c : Core) : (s.setCore c).soft = s.soft := rfl
@[simp] theorem State.setCore_bad (s : State) (c : Core) : (s.setCore c).bad = s.bad := rfl
@[simp] theorem State.setCore_edges (s : State) (c : Core) : (s.setCore c).edges = s.edges := rfl
@[simp] theorem State.setCore_reqs (s : State) (c : Core) : (s.setCore c).reqs = s.reqs := rfl
@[simp] theorem State.setCore_msgs (s : State) (c : Core) : (s.setCore c).msgs = s.msgs := rfl
@[simp] theorem State.setCore_feWaits (s : State) (c : Core) : (s.setCore c).feWaits = s.feWaits := rfl
@[simp] theorem State.setCore_rsvs (s : State) (c : Core) : (s.setCore c).rsvs = s.rsvs := rfl
@[simp] theorem State.setCore_barWaits (s : State) (c : Core) : (s.setCore c).barWaits = s.barWaits := rfl
@[simp] theorem State.setCore_netBars (s : State) (c : Core) : (s.setCore c).netBars = s.netBars := rfl
@[simp] theorem State.setCore_crossings (s : State) (c : Core) : (s.setCore c).crossings = s.crossings := rfl
@[simp] theorem State.setCore_walkMsgs (s : State) (c : Core) : (s.setCore c).walkMsgs = s.walkMsgs := rfl
@[simp] theorem State.setCore_reports (s : State) (c : Core) : (s.setCore c).reports = s.reports := rfl
@[simp] theorem State.setCore_drains (s : State) (c : Core) : (s.setCore c).drains = s.drains := rfl
@[simp] theorem State.setCore_walks (s : State) (c : Core) : (s.setCore c).walks = s.walks := rfl
@[simp] theorem State.setCore_copies (s : State) (c : Core) : (s.setCore c).copies = s.copies := rfl
@[simp] theorem State.setCore_convs (s : State) (c : Core) : (s.setCore c).convs = s.convs := rfl
@[simp] theorem State.setCore_iqs (s : State) (c : Core) : (s.setCore c).iqs = s.iqs := rfl
@[simp] theorem State.setCore_arrs (s : State) (c : Core) : (s.setCore c).arrs = s.arrs := rfl
@[simp] theorem State.setCore_objs (s : State) (c : Core) : (s.setCore c).objs = s.objs := rfl
@[simp] theorem State.setCore_saved (s : State) (c : Core) : (s.setCore c).saved = s.saved := rfl
@[simp] theorem State.setCore_sup (s : State) (c : Core) : (s.setCore c).sup = s.sup := rfl
@[simp] theorem State.setCore_issueQ (s : State) (c : Core) : (s.setCore c).issueQ = s.issueQ := rfl
@[simp] theorem State.setCore_agenda (s : State) (c : Core) : (s.setCore c).agenda = s.agenda := rfl
@[simp] theorem State.setCore_iss (s : State) (c : Core) : (s.setCore c).iss = s.iss := rfl
@[simp] theorem State.setCore_halves (s : State) (c : Core) : (s.setCore c).halves = s.halves := rfl
@[simp] theorem State.setCore_freeCtr (s : State) (c : Core) : (s.setCore c).freeCtr = s.freeCtr := rfl
@[simp] theorem State.setCore_nextUid (s : State) (c : Core) : (s.setCore c).nextUid = s.nextUid := rfl
@[simp] theorem State.setCore_nextId (s : State) (c : Core) : (s.setCore c).nextId = s.nextId := rfl

@[simp] theorem State.setQuad_clock (s : State) (q : Quad) : (s.setQuad q).clock = s.clock := rfl
@[simp] theorem State.setQuad_pkg (s : State) (q : Quad) : (s.setQuad q).pkg = s.pkg := rfl
@[simp] theorem State.setQuad_members (s : State) (q : Quad) : (s.setQuad q).members = s.members := rfl
@[simp] theorem State.setQuad_windows (s : State) (q : Quad) : (s.setQuad q).windows = s.windows := rfl
@[simp] theorem State.setQuad_lost (s : State) (q : Quad) : (s.setQuad q).lost = s.lost := rfl
@[simp] theorem State.setQuad_lostDies (s : State) (q : Quad) : (s.setQuad q).lostDies = s.lostDies := rfl
@[simp] theorem State.setQuad_ageLimit (s : State) (q : Quad) : (s.setQuad q).ageLimit = s.ageLimit := rfl
@[simp] theorem State.setQuad_driftLimit (s : State) (q : Quad) : (s.setQuad q).driftLimit = s.driftLimit := rfl
@[simp] theorem State.setQuad_parts (s : State) (q : Quad) : (s.setQuad q).parts = s.parts := rfl
@[simp] theorem State.setQuad_keySlots (s : State) (q : Quad) : (s.setQuad q).keySlots = s.keySlots := rfl
@[simp] theorem State.setQuad_keyCtr (s : State) (q : Quad) : (s.setQuad q).keyCtr = s.keyCtr := rfl
@[simp] theorem State.setQuad_pages (s : State) (q : Quad) : (s.setQuad q).pages = s.pages := rfl
@[simp] theorem State.setQuad_domains (s : State) (q : Quad) : (s.setQuad q).domains = s.domains := rfl
@[simp] theorem State.setQuad_threads (s : State) (q : Quad) : (s.setQuad q).threads = s.threads := rfl
@[simp] theorem State.setQuad_ended (s : State) (q : Quad) : (s.setQuad q).ended = s.ended := rfl
@[simp] theorem State.setQuad_cores (s : State) (q : Quad) : (s.setQuad q).cores = s.cores := rfl
@[simp] theorem State.setQuad_banks (s : State) (q : Quad) : (s.setQuad q).banks = s.banks := rfl
@[simp] theorem State.setQuad_dies (s : State) (q : Quad) : (s.setQuad q).dies = s.dies := rfl
@[simp] theorem State.setQuad_rects (s : State) (q : Quad) : (s.setQuad q).rects = s.rects := rfl
@[simp] theorem State.setQuad_mem (s : State) (q : Quad) : (s.setQuad q).mem = s.mem := rfl
@[simp] theorem State.setQuad_empties (s : State) (q : Quad) : (s.setQuad q).empties = s.empties := rfl
@[simp] theorem State.setQuad_soft (s : State) (q : Quad) : (s.setQuad q).soft = s.soft := rfl
@[simp] theorem State.setQuad_bad (s : State) (q : Quad) : (s.setQuad q).bad = s.bad := rfl
@[simp] theorem State.setQuad_edges (s : State) (q : Quad) : (s.setQuad q).edges = s.edges := rfl
@[simp] theorem State.setQuad_reqs (s : State) (q : Quad) : (s.setQuad q).reqs = s.reqs := rfl
@[simp] theorem State.setQuad_msgs (s : State) (q : Quad) : (s.setQuad q).msgs = s.msgs := rfl
@[simp] theorem State.setQuad_feWaits (s : State) (q : Quad) : (s.setQuad q).feWaits = s.feWaits := rfl
@[simp] theorem State.setQuad_rsvs (s : State) (q : Quad) : (s.setQuad q).rsvs = s.rsvs := rfl
@[simp] theorem State.setQuad_barWaits (s : State) (q : Quad) : (s.setQuad q).barWaits = s.barWaits := rfl
@[simp] theorem State.setQuad_netBars (s : State) (q : Quad) : (s.setQuad q).netBars = s.netBars := rfl
@[simp] theorem State.setQuad_crossings (s : State) (q : Quad) : (s.setQuad q).crossings = s.crossings := rfl
@[simp] theorem State.setQuad_walkMsgs (s : State) (q : Quad) : (s.setQuad q).walkMsgs = s.walkMsgs := rfl
@[simp] theorem State.setQuad_reports (s : State) (q : Quad) : (s.setQuad q).reports = s.reports := rfl
@[simp] theorem State.setQuad_drains (s : State) (q : Quad) : (s.setQuad q).drains = s.drains := rfl
@[simp] theorem State.setQuad_walks (s : State) (q : Quad) : (s.setQuad q).walks = s.walks := rfl
@[simp] theorem State.setQuad_copies (s : State) (q : Quad) : (s.setQuad q).copies = s.copies := rfl
@[simp] theorem State.setQuad_convs (s : State) (q : Quad) : (s.setQuad q).convs = s.convs := rfl
@[simp] theorem State.setQuad_iqs (s : State) (q : Quad) : (s.setQuad q).iqs = s.iqs := rfl
@[simp] theorem State.setQuad_arrs (s : State) (q : Quad) : (s.setQuad q).arrs = s.arrs := rfl
@[simp] theorem State.setQuad_objs (s : State) (q : Quad) : (s.setQuad q).objs = s.objs := rfl
@[simp] theorem State.setQuad_saved (s : State) (q : Quad) : (s.setQuad q).saved = s.saved := rfl
@[simp] theorem State.setQuad_sup (s : State) (q : Quad) : (s.setQuad q).sup = s.sup := rfl
@[simp] theorem State.setQuad_issueQ (s : State) (q : Quad) : (s.setQuad q).issueQ = s.issueQ := rfl
@[simp] theorem State.setQuad_agenda (s : State) (q : Quad) : (s.setQuad q).agenda = s.agenda := rfl
@[simp] theorem State.setQuad_iss (s : State) (q : Quad) : (s.setQuad q).iss = s.iss := rfl
@[simp] theorem State.setQuad_halves (s : State) (q : Quad) : (s.setQuad q).halves = s.halves := rfl
@[simp] theorem State.setQuad_freeCtr (s : State) (q : Quad) : (s.setQuad q).freeCtr = s.freeCtr := rfl
@[simp] theorem State.setQuad_nextUid (s : State) (q : Quad) : (s.setQuad q).nextUid = s.nextUid := rfl
@[simp] theorem State.setQuad_nextId (s : State) (q : Quad) : (s.setQuad q).nextId = s.nextId := rfl

@[simp] theorem State.setBank_clock (s : State) (b : Bank) : (s.setBank b).clock = s.clock := rfl
@[simp] theorem State.setBank_pkg (s : State) (b : Bank) : (s.setBank b).pkg = s.pkg := rfl
@[simp] theorem State.setBank_members (s : State) (b : Bank) : (s.setBank b).members = s.members := rfl
@[simp] theorem State.setBank_windows (s : State) (b : Bank) : (s.setBank b).windows = s.windows := rfl
@[simp] theorem State.setBank_lost (s : State) (b : Bank) : (s.setBank b).lost = s.lost := rfl
@[simp] theorem State.setBank_lostDies (s : State) (b : Bank) : (s.setBank b).lostDies = s.lostDies := rfl
@[simp] theorem State.setBank_ageLimit (s : State) (b : Bank) : (s.setBank b).ageLimit = s.ageLimit := rfl
@[simp] theorem State.setBank_driftLimit (s : State) (b : Bank) : (s.setBank b).driftLimit = s.driftLimit := rfl
@[simp] theorem State.setBank_parts (s : State) (b : Bank) : (s.setBank b).parts = s.parts := rfl
@[simp] theorem State.setBank_keySlots (s : State) (b : Bank) : (s.setBank b).keySlots = s.keySlots := rfl
@[simp] theorem State.setBank_keyCtr (s : State) (b : Bank) : (s.setBank b).keyCtr = s.keyCtr := rfl
@[simp] theorem State.setBank_pages (s : State) (b : Bank) : (s.setBank b).pages = s.pages := rfl
@[simp] theorem State.setBank_domains (s : State) (b : Bank) : (s.setBank b).domains = s.domains := rfl
@[simp] theorem State.setBank_threads (s : State) (b : Bank) : (s.setBank b).threads = s.threads := rfl
@[simp] theorem State.setBank_ended (s : State) (b : Bank) : (s.setBank b).ended = s.ended := rfl
@[simp] theorem State.setBank_cores (s : State) (b : Bank) : (s.setBank b).cores = s.cores := rfl
@[simp] theorem State.setBank_quads (s : State) (b : Bank) : (s.setBank b).quads = s.quads := rfl
@[simp] theorem State.setBank_dies (s : State) (b : Bank) : (s.setBank b).dies = s.dies := rfl
@[simp] theorem State.setBank_rects (s : State) (b : Bank) : (s.setBank b).rects = s.rects := rfl
@[simp] theorem State.setBank_mem (s : State) (b : Bank) : (s.setBank b).mem = s.mem := rfl
@[simp] theorem State.setBank_empties (s : State) (b : Bank) : (s.setBank b).empties = s.empties := rfl
@[simp] theorem State.setBank_soft (s : State) (b : Bank) : (s.setBank b).soft = s.soft := rfl
@[simp] theorem State.setBank_bad (s : State) (b : Bank) : (s.setBank b).bad = s.bad := rfl
@[simp] theorem State.setBank_edges (s : State) (b : Bank) : (s.setBank b).edges = s.edges := rfl
@[simp] theorem State.setBank_reqs (s : State) (b : Bank) : (s.setBank b).reqs = s.reqs := rfl
@[simp] theorem State.setBank_msgs (s : State) (b : Bank) : (s.setBank b).msgs = s.msgs := rfl
@[simp] theorem State.setBank_feWaits (s : State) (b : Bank) : (s.setBank b).feWaits = s.feWaits := rfl
@[simp] theorem State.setBank_rsvs (s : State) (b : Bank) : (s.setBank b).rsvs = s.rsvs := rfl
@[simp] theorem State.setBank_barWaits (s : State) (b : Bank) : (s.setBank b).barWaits = s.barWaits := rfl
@[simp] theorem State.setBank_netBars (s : State) (b : Bank) : (s.setBank b).netBars = s.netBars := rfl
@[simp] theorem State.setBank_crossings (s : State) (b : Bank) : (s.setBank b).crossings = s.crossings := rfl
@[simp] theorem State.setBank_walkMsgs (s : State) (b : Bank) : (s.setBank b).walkMsgs = s.walkMsgs := rfl
@[simp] theorem State.setBank_reports (s : State) (b : Bank) : (s.setBank b).reports = s.reports := rfl
@[simp] theorem State.setBank_drains (s : State) (b : Bank) : (s.setBank b).drains = s.drains := rfl
@[simp] theorem State.setBank_walks (s : State) (b : Bank) : (s.setBank b).walks = s.walks := rfl
@[simp] theorem State.setBank_copies (s : State) (b : Bank) : (s.setBank b).copies = s.copies := rfl
@[simp] theorem State.setBank_convs (s : State) (b : Bank) : (s.setBank b).convs = s.convs := rfl
@[simp] theorem State.setBank_iqs (s : State) (b : Bank) : (s.setBank b).iqs = s.iqs := rfl
@[simp] theorem State.setBank_arrs (s : State) (b : Bank) : (s.setBank b).arrs = s.arrs := rfl
@[simp] theorem State.setBank_objs (s : State) (b : Bank) : (s.setBank b).objs = s.objs := rfl
@[simp] theorem State.setBank_saved (s : State) (b : Bank) : (s.setBank b).saved = s.saved := rfl
@[simp] theorem State.setBank_sup (s : State) (b : Bank) : (s.setBank b).sup = s.sup := rfl
@[simp] theorem State.setBank_issueQ (s : State) (b : Bank) : (s.setBank b).issueQ = s.issueQ := rfl
@[simp] theorem State.setBank_agenda (s : State) (b : Bank) : (s.setBank b).agenda = s.agenda := rfl
@[simp] theorem State.setBank_iss (s : State) (b : Bank) : (s.setBank b).iss = s.iss := rfl
@[simp] theorem State.setBank_halves (s : State) (b : Bank) : (s.setBank b).halves = s.halves := rfl
@[simp] theorem State.setBank_freeCtr (s : State) (b : Bank) : (s.setBank b).freeCtr = s.freeCtr := rfl
@[simp] theorem State.setBank_nextUid (s : State) (b : Bank) : (s.setBank b).nextUid = s.nextUid := rfl
@[simp] theorem State.setBank_nextId (s : State) (b : Bank) : (s.setBank b).nextId = s.nextId := rfl

@[simp] theorem State.setDie_clock (s : State) (d : Die) : (s.setDie d).clock = s.clock := rfl
@[simp] theorem State.setDie_pkg (s : State) (d : Die) : (s.setDie d).pkg = s.pkg := rfl
@[simp] theorem State.setDie_members (s : State) (d : Die) : (s.setDie d).members = s.members := rfl
@[simp] theorem State.setDie_windows (s : State) (d : Die) : (s.setDie d).windows = s.windows := rfl
@[simp] theorem State.setDie_lost (s : State) (d : Die) : (s.setDie d).lost = s.lost := rfl
@[simp] theorem State.setDie_lostDies (s : State) (d : Die) : (s.setDie d).lostDies = s.lostDies := rfl
@[simp] theorem State.setDie_ageLimit (s : State) (d : Die) : (s.setDie d).ageLimit = s.ageLimit := rfl
@[simp] theorem State.setDie_driftLimit (s : State) (d : Die) : (s.setDie d).driftLimit = s.driftLimit := rfl
@[simp] theorem State.setDie_parts (s : State) (d : Die) : (s.setDie d).parts = s.parts := rfl
@[simp] theorem State.setDie_keySlots (s : State) (d : Die) : (s.setDie d).keySlots = s.keySlots := rfl
@[simp] theorem State.setDie_keyCtr (s : State) (d : Die) : (s.setDie d).keyCtr = s.keyCtr := rfl
@[simp] theorem State.setDie_pages (s : State) (d : Die) : (s.setDie d).pages = s.pages := rfl
@[simp] theorem State.setDie_domains (s : State) (d : Die) : (s.setDie d).domains = s.domains := rfl
@[simp] theorem State.setDie_threads (s : State) (d : Die) : (s.setDie d).threads = s.threads := rfl
@[simp] theorem State.setDie_ended (s : State) (d : Die) : (s.setDie d).ended = s.ended := rfl
@[simp] theorem State.setDie_cores (s : State) (d : Die) : (s.setDie d).cores = s.cores := rfl
@[simp] theorem State.setDie_quads (s : State) (d : Die) : (s.setDie d).quads = s.quads := rfl
@[simp] theorem State.setDie_banks (s : State) (d : Die) : (s.setDie d).banks = s.banks := rfl
@[simp] theorem State.setDie_rects (s : State) (d : Die) : (s.setDie d).rects = s.rects := rfl
@[simp] theorem State.setDie_mem (s : State) (d : Die) : (s.setDie d).mem = s.mem := rfl
@[simp] theorem State.setDie_empties (s : State) (d : Die) : (s.setDie d).empties = s.empties := rfl
@[simp] theorem State.setDie_soft (s : State) (d : Die) : (s.setDie d).soft = s.soft := rfl
@[simp] theorem State.setDie_bad (s : State) (d : Die) : (s.setDie d).bad = s.bad := rfl
@[simp] theorem State.setDie_edges (s : State) (d : Die) : (s.setDie d).edges = s.edges := rfl
@[simp] theorem State.setDie_reqs (s : State) (d : Die) : (s.setDie d).reqs = s.reqs := rfl
@[simp] theorem State.setDie_msgs (s : State) (d : Die) : (s.setDie d).msgs = s.msgs := rfl
@[simp] theorem State.setDie_feWaits (s : State) (d : Die) : (s.setDie d).feWaits = s.feWaits := rfl
@[simp] theorem State.setDie_rsvs (s : State) (d : Die) : (s.setDie d).rsvs = s.rsvs := rfl
@[simp] theorem State.setDie_barWaits (s : State) (d : Die) : (s.setDie d).barWaits = s.barWaits := rfl
@[simp] theorem State.setDie_netBars (s : State) (d : Die) : (s.setDie d).netBars = s.netBars := rfl
@[simp] theorem State.setDie_crossings (s : State) (d : Die) : (s.setDie d).crossings = s.crossings := rfl
@[simp] theorem State.setDie_walkMsgs (s : State) (d : Die) : (s.setDie d).walkMsgs = s.walkMsgs := rfl
@[simp] theorem State.setDie_reports (s : State) (d : Die) : (s.setDie d).reports = s.reports := rfl
@[simp] theorem State.setDie_drains (s : State) (d : Die) : (s.setDie d).drains = s.drains := rfl
@[simp] theorem State.setDie_walks (s : State) (d : Die) : (s.setDie d).walks = s.walks := rfl
@[simp] theorem State.setDie_copies (s : State) (d : Die) : (s.setDie d).copies = s.copies := rfl
@[simp] theorem State.setDie_convs (s : State) (d : Die) : (s.setDie d).convs = s.convs := rfl
@[simp] theorem State.setDie_iqs (s : State) (d : Die) : (s.setDie d).iqs = s.iqs := rfl
@[simp] theorem State.setDie_arrs (s : State) (d : Die) : (s.setDie d).arrs = s.arrs := rfl
@[simp] theorem State.setDie_objs (s : State) (d : Die) : (s.setDie d).objs = s.objs := rfl
@[simp] theorem State.setDie_saved (s : State) (d : Die) : (s.setDie d).saved = s.saved := rfl
@[simp] theorem State.setDie_sup (s : State) (d : Die) : (s.setDie d).sup = s.sup := rfl
@[simp] theorem State.setDie_issueQ (s : State) (d : Die) : (s.setDie d).issueQ = s.issueQ := rfl
@[simp] theorem State.setDie_agenda (s : State) (d : Die) : (s.setDie d).agenda = s.agenda := rfl
@[simp] theorem State.setDie_iss (s : State) (d : Die) : (s.setDie d).iss = s.iss := rfl
@[simp] theorem State.setDie_halves (s : State) (d : Die) : (s.setDie d).halves = s.halves := rfl
@[simp] theorem State.setDie_freeCtr (s : State) (d : Die) : (s.setDie d).freeCtr = s.freeCtr := rfl
@[simp] theorem State.setDie_nextUid (s : State) (d : Die) : (s.setDie d).nextUid = s.nextUid := rfl
@[simp] theorem State.setDie_nextId (s : State) (d : Die) : (s.setDie d).nextId = s.nextId := rfl

@[simp] theorem State.modDomain_clock (s : State) (n : Nat) (f : Domain → Domain) : (s.modDomain n f).clock = s.clock := rfl
@[simp] theorem State.modDomain_pkg (s : State) (n : Nat) (f : Domain → Domain) : (s.modDomain n f).pkg = s.pkg := rfl
@[simp] theorem State.modDomain_members (s : State) (n : Nat) (f : Domain → Domain) : (s.modDomain n f).members = s.members := rfl
@[simp] theorem State.modDomain_windows (s : State) (n : Nat) (f : Domain → Domain) : (s.modDomain n f).windows = s.windows := rfl
@[simp] theorem State.modDomain_lost (s : State) (n : Nat) (f : Domain → Domain) : (s.modDomain n f).lost = s.lost := rfl
@[simp] theorem State.modDomain_lostDies (s : State) (n : Nat) (f : Domain → Domain) : (s.modDomain n f).lostDies = s.lostDies := rfl
@[simp] theorem State.modDomain_ageLimit (s : State) (n : Nat) (f : Domain → Domain) : (s.modDomain n f).ageLimit = s.ageLimit := rfl
@[simp] theorem State.modDomain_driftLimit (s : State) (n : Nat) (f : Domain → Domain) : (s.modDomain n f).driftLimit = s.driftLimit := rfl
@[simp] theorem State.modDomain_parts (s : State) (n : Nat) (f : Domain → Domain) : (s.modDomain n f).parts = s.parts := rfl
@[simp] theorem State.modDomain_keySlots (s : State) (n : Nat) (f : Domain → Domain) : (s.modDomain n f).keySlots = s.keySlots := rfl
@[simp] theorem State.modDomain_keyCtr (s : State) (n : Nat) (f : Domain → Domain) : (s.modDomain n f).keyCtr = s.keyCtr := rfl
@[simp] theorem State.modDomain_pages (s : State) (n : Nat) (f : Domain → Domain) : (s.modDomain n f).pages = s.pages := rfl
@[simp] theorem State.modDomain_threads (s : State) (n : Nat) (f : Domain → Domain) : (s.modDomain n f).threads = s.threads := rfl
@[simp] theorem State.modDomain_ended (s : State) (n : Nat) (f : Domain → Domain) : (s.modDomain n f).ended = s.ended := rfl
@[simp] theorem State.modDomain_cores (s : State) (n : Nat) (f : Domain → Domain) : (s.modDomain n f).cores = s.cores := rfl
@[simp] theorem State.modDomain_quads (s : State) (n : Nat) (f : Domain → Domain) : (s.modDomain n f).quads = s.quads := rfl
@[simp] theorem State.modDomain_banks (s : State) (n : Nat) (f : Domain → Domain) : (s.modDomain n f).banks = s.banks := rfl
@[simp] theorem State.modDomain_dies (s : State) (n : Nat) (f : Domain → Domain) : (s.modDomain n f).dies = s.dies := rfl
@[simp] theorem State.modDomain_rects (s : State) (n : Nat) (f : Domain → Domain) : (s.modDomain n f).rects = s.rects := rfl
@[simp] theorem State.modDomain_mem (s : State) (n : Nat) (f : Domain → Domain) : (s.modDomain n f).mem = s.mem := rfl
@[simp] theorem State.modDomain_empties (s : State) (n : Nat) (f : Domain → Domain) : (s.modDomain n f).empties = s.empties := rfl
@[simp] theorem State.modDomain_soft (s : State) (n : Nat) (f : Domain → Domain) : (s.modDomain n f).soft = s.soft := rfl
@[simp] theorem State.modDomain_bad (s : State) (n : Nat) (f : Domain → Domain) : (s.modDomain n f).bad = s.bad := rfl
@[simp] theorem State.modDomain_edges (s : State) (n : Nat) (f : Domain → Domain) : (s.modDomain n f).edges = s.edges := rfl
@[simp] theorem State.modDomain_reqs (s : State) (n : Nat) (f : Domain → Domain) : (s.modDomain n f).reqs = s.reqs := rfl
@[simp] theorem State.modDomain_msgs (s : State) (n : Nat) (f : Domain → Domain) : (s.modDomain n f).msgs = s.msgs := rfl
@[simp] theorem State.modDomain_feWaits (s : State) (n : Nat) (f : Domain → Domain) : (s.modDomain n f).feWaits = s.feWaits := rfl
@[simp] theorem State.modDomain_rsvs (s : State) (n : Nat) (f : Domain → Domain) : (s.modDomain n f).rsvs = s.rsvs := rfl
@[simp] theorem State.modDomain_barWaits (s : State) (n : Nat) (f : Domain → Domain) : (s.modDomain n f).barWaits = s.barWaits := rfl
@[simp] theorem State.modDomain_netBars (s : State) (n : Nat) (f : Domain → Domain) : (s.modDomain n f).netBars = s.netBars := rfl
@[simp] theorem State.modDomain_crossings (s : State) (n : Nat) (f : Domain → Domain) : (s.modDomain n f).crossings = s.crossings := rfl
@[simp] theorem State.modDomain_walkMsgs (s : State) (n : Nat) (f : Domain → Domain) : (s.modDomain n f).walkMsgs = s.walkMsgs := rfl
@[simp] theorem State.modDomain_reports (s : State) (n : Nat) (f : Domain → Domain) : (s.modDomain n f).reports = s.reports := rfl
@[simp] theorem State.modDomain_drains (s : State) (n : Nat) (f : Domain → Domain) : (s.modDomain n f).drains = s.drains := rfl
@[simp] theorem State.modDomain_walks (s : State) (n : Nat) (f : Domain → Domain) : (s.modDomain n f).walks = s.walks := rfl
@[simp] theorem State.modDomain_copies (s : State) (n : Nat) (f : Domain → Domain) : (s.modDomain n f).copies = s.copies := rfl
@[simp] theorem State.modDomain_convs (s : State) (n : Nat) (f : Domain → Domain) : (s.modDomain n f).convs = s.convs := rfl
@[simp] theorem State.modDomain_iqs (s : State) (n : Nat) (f : Domain → Domain) : (s.modDomain n f).iqs = s.iqs := rfl
@[simp] theorem State.modDomain_arrs (s : State) (n : Nat) (f : Domain → Domain) : (s.modDomain n f).arrs = s.arrs := rfl
@[simp] theorem State.modDomain_objs (s : State) (n : Nat) (f : Domain → Domain) : (s.modDomain n f).objs = s.objs := rfl
@[simp] theorem State.modDomain_saved (s : State) (n : Nat) (f : Domain → Domain) : (s.modDomain n f).saved = s.saved := rfl
@[simp] theorem State.modDomain_sup (s : State) (n : Nat) (f : Domain → Domain) : (s.modDomain n f).sup = s.sup := rfl
@[simp] theorem State.modDomain_issueQ (s : State) (n : Nat) (f : Domain → Domain) : (s.modDomain n f).issueQ = s.issueQ := rfl
@[simp] theorem State.modDomain_agenda (s : State) (n : Nat) (f : Domain → Domain) : (s.modDomain n f).agenda = s.agenda := rfl
@[simp] theorem State.modDomain_iss (s : State) (n : Nat) (f : Domain → Domain) : (s.modDomain n f).iss = s.iss := rfl
@[simp] theorem State.modDomain_halves (s : State) (n : Nat) (f : Domain → Domain) : (s.modDomain n f).halves = s.halves := rfl
@[simp] theorem State.modDomain_freeCtr (s : State) (n : Nat) (f : Domain → Domain) : (s.modDomain n f).freeCtr = s.freeCtr := rfl
@[simp] theorem State.modDomain_nextUid (s : State) (n : Nat) (f : Domain → Domain) : (s.modDomain n f).nextUid = s.nextUid := rfl
@[simp] theorem State.modDomain_nextId (s : State) (n : Nat) (f : Domain → Domain) : (s.modDomain n f).nextId = s.nextId := rfl

@[simp] theorem State.modPart_clock (s : State) (n : Nat) (f : Partition → Partition) : (s.modPart n f).clock = s.clock := rfl
@[simp] theorem State.modPart_pkg (s : State) (n : Nat) (f : Partition → Partition) : (s.modPart n f).pkg = s.pkg := rfl
@[simp] theorem State.modPart_members (s : State) (n : Nat) (f : Partition → Partition) : (s.modPart n f).members = s.members := rfl
@[simp] theorem State.modPart_windows (s : State) (n : Nat) (f : Partition → Partition) : (s.modPart n f).windows = s.windows := rfl
@[simp] theorem State.modPart_lost (s : State) (n : Nat) (f : Partition → Partition) : (s.modPart n f).lost = s.lost := rfl
@[simp] theorem State.modPart_lostDies (s : State) (n : Nat) (f : Partition → Partition) : (s.modPart n f).lostDies = s.lostDies := rfl
@[simp] theorem State.modPart_ageLimit (s : State) (n : Nat) (f : Partition → Partition) : (s.modPart n f).ageLimit = s.ageLimit := rfl
@[simp] theorem State.modPart_driftLimit (s : State) (n : Nat) (f : Partition → Partition) : (s.modPart n f).driftLimit = s.driftLimit := rfl
@[simp] theorem State.modPart_keySlots (s : State) (n : Nat) (f : Partition → Partition) : (s.modPart n f).keySlots = s.keySlots := rfl
@[simp] theorem State.modPart_keyCtr (s : State) (n : Nat) (f : Partition → Partition) : (s.modPart n f).keyCtr = s.keyCtr := rfl
@[simp] theorem State.modPart_pages (s : State) (n : Nat) (f : Partition → Partition) : (s.modPart n f).pages = s.pages := rfl
@[simp] theorem State.modPart_domains (s : State) (n : Nat) (f : Partition → Partition) : (s.modPart n f).domains = s.domains := rfl
@[simp] theorem State.modPart_threads (s : State) (n : Nat) (f : Partition → Partition) : (s.modPart n f).threads = s.threads := rfl
@[simp] theorem State.modPart_ended (s : State) (n : Nat) (f : Partition → Partition) : (s.modPart n f).ended = s.ended := rfl
@[simp] theorem State.modPart_cores (s : State) (n : Nat) (f : Partition → Partition) : (s.modPart n f).cores = s.cores := rfl
@[simp] theorem State.modPart_quads (s : State) (n : Nat) (f : Partition → Partition) : (s.modPart n f).quads = s.quads := rfl
@[simp] theorem State.modPart_banks (s : State) (n : Nat) (f : Partition → Partition) : (s.modPart n f).banks = s.banks := rfl
@[simp] theorem State.modPart_dies (s : State) (n : Nat) (f : Partition → Partition) : (s.modPart n f).dies = s.dies := rfl
@[simp] theorem State.modPart_rects (s : State) (n : Nat) (f : Partition → Partition) : (s.modPart n f).rects = s.rects := rfl
@[simp] theorem State.modPart_mem (s : State) (n : Nat) (f : Partition → Partition) : (s.modPart n f).mem = s.mem := rfl
@[simp] theorem State.modPart_empties (s : State) (n : Nat) (f : Partition → Partition) : (s.modPart n f).empties = s.empties := rfl
@[simp] theorem State.modPart_soft (s : State) (n : Nat) (f : Partition → Partition) : (s.modPart n f).soft = s.soft := rfl
@[simp] theorem State.modPart_bad (s : State) (n : Nat) (f : Partition → Partition) : (s.modPart n f).bad = s.bad := rfl
@[simp] theorem State.modPart_edges (s : State) (n : Nat) (f : Partition → Partition) : (s.modPart n f).edges = s.edges := rfl
@[simp] theorem State.modPart_reqs (s : State) (n : Nat) (f : Partition → Partition) : (s.modPart n f).reqs = s.reqs := rfl
@[simp] theorem State.modPart_msgs (s : State) (n : Nat) (f : Partition → Partition) : (s.modPart n f).msgs = s.msgs := rfl
@[simp] theorem State.modPart_feWaits (s : State) (n : Nat) (f : Partition → Partition) : (s.modPart n f).feWaits = s.feWaits := rfl
@[simp] theorem State.modPart_rsvs (s : State) (n : Nat) (f : Partition → Partition) : (s.modPart n f).rsvs = s.rsvs := rfl
@[simp] theorem State.modPart_barWaits (s : State) (n : Nat) (f : Partition → Partition) : (s.modPart n f).barWaits = s.barWaits := rfl
@[simp] theorem State.modPart_netBars (s : State) (n : Nat) (f : Partition → Partition) : (s.modPart n f).netBars = s.netBars := rfl
@[simp] theorem State.modPart_crossings (s : State) (n : Nat) (f : Partition → Partition) : (s.modPart n f).crossings = s.crossings := rfl
@[simp] theorem State.modPart_walkMsgs (s : State) (n : Nat) (f : Partition → Partition) : (s.modPart n f).walkMsgs = s.walkMsgs := rfl
@[simp] theorem State.modPart_reports (s : State) (n : Nat) (f : Partition → Partition) : (s.modPart n f).reports = s.reports := rfl
@[simp] theorem State.modPart_drains (s : State) (n : Nat) (f : Partition → Partition) : (s.modPart n f).drains = s.drains := rfl
@[simp] theorem State.modPart_walks (s : State) (n : Nat) (f : Partition → Partition) : (s.modPart n f).walks = s.walks := rfl
@[simp] theorem State.modPart_copies (s : State) (n : Nat) (f : Partition → Partition) : (s.modPart n f).copies = s.copies := rfl
@[simp] theorem State.modPart_convs (s : State) (n : Nat) (f : Partition → Partition) : (s.modPart n f).convs = s.convs := rfl
@[simp] theorem State.modPart_iqs (s : State) (n : Nat) (f : Partition → Partition) : (s.modPart n f).iqs = s.iqs := rfl
@[simp] theorem State.modPart_arrs (s : State) (n : Nat) (f : Partition → Partition) : (s.modPart n f).arrs = s.arrs := rfl
@[simp] theorem State.modPart_objs (s : State) (n : Nat) (f : Partition → Partition) : (s.modPart n f).objs = s.objs := rfl
@[simp] theorem State.modPart_saved (s : State) (n : Nat) (f : Partition → Partition) : (s.modPart n f).saved = s.saved := rfl
@[simp] theorem State.modPart_sup (s : State) (n : Nat) (f : Partition → Partition) : (s.modPart n f).sup = s.sup := rfl
@[simp] theorem State.modPart_issueQ (s : State) (n : Nat) (f : Partition → Partition) : (s.modPart n f).issueQ = s.issueQ := rfl
@[simp] theorem State.modPart_agenda (s : State) (n : Nat) (f : Partition → Partition) : (s.modPart n f).agenda = s.agenda := rfl
@[simp] theorem State.modPart_iss (s : State) (n : Nat) (f : Partition → Partition) : (s.modPart n f).iss = s.iss := rfl
@[simp] theorem State.modPart_halves (s : State) (n : Nat) (f : Partition → Partition) : (s.modPart n f).halves = s.halves := rfl
@[simp] theorem State.modPart_freeCtr (s : State) (n : Nat) (f : Partition → Partition) : (s.modPart n f).freeCtr = s.freeCtr := rfl
@[simp] theorem State.modPart_nextUid (s : State) (n : Nat) (f : Partition → Partition) : (s.modPart n f).nextUid = s.nextUid := rfl
@[simp] theorem State.modPart_nextId (s : State) (n : Nat) (f : Partition → Partition) : (s.modPart n f).nextId = s.nextId := rfl

@[simp] theorem State.modRect_clock (s : State) (n : Nat) (f : Rect → Rect) : (s.modRect n f).clock = s.clock := rfl
@[simp] theorem State.modRect_pkg (s : State) (n : Nat) (f : Rect → Rect) : (s.modRect n f).pkg = s.pkg := rfl
@[simp] theorem State.modRect_members (s : State) (n : Nat) (f : Rect → Rect) : (s.modRect n f).members = s.members := rfl
@[simp] theorem State.modRect_windows (s : State) (n : Nat) (f : Rect → Rect) : (s.modRect n f).windows = s.windows := rfl
@[simp] theorem State.modRect_lost (s : State) (n : Nat) (f : Rect → Rect) : (s.modRect n f).lost = s.lost := rfl
@[simp] theorem State.modRect_lostDies (s : State) (n : Nat) (f : Rect → Rect) : (s.modRect n f).lostDies = s.lostDies := rfl
@[simp] theorem State.modRect_ageLimit (s : State) (n : Nat) (f : Rect → Rect) : (s.modRect n f).ageLimit = s.ageLimit := rfl
@[simp] theorem State.modRect_driftLimit (s : State) (n : Nat) (f : Rect → Rect) : (s.modRect n f).driftLimit = s.driftLimit := rfl
@[simp] theorem State.modRect_parts (s : State) (n : Nat) (f : Rect → Rect) : (s.modRect n f).parts = s.parts := rfl
@[simp] theorem State.modRect_keySlots (s : State) (n : Nat) (f : Rect → Rect) : (s.modRect n f).keySlots = s.keySlots := rfl
@[simp] theorem State.modRect_keyCtr (s : State) (n : Nat) (f : Rect → Rect) : (s.modRect n f).keyCtr = s.keyCtr := rfl
@[simp] theorem State.modRect_pages (s : State) (n : Nat) (f : Rect → Rect) : (s.modRect n f).pages = s.pages := rfl
@[simp] theorem State.modRect_domains (s : State) (n : Nat) (f : Rect → Rect) : (s.modRect n f).domains = s.domains := rfl
@[simp] theorem State.modRect_threads (s : State) (n : Nat) (f : Rect → Rect) : (s.modRect n f).threads = s.threads := rfl
@[simp] theorem State.modRect_ended (s : State) (n : Nat) (f : Rect → Rect) : (s.modRect n f).ended = s.ended := rfl
@[simp] theorem State.modRect_cores (s : State) (n : Nat) (f : Rect → Rect) : (s.modRect n f).cores = s.cores := rfl
@[simp] theorem State.modRect_quads (s : State) (n : Nat) (f : Rect → Rect) : (s.modRect n f).quads = s.quads := rfl
@[simp] theorem State.modRect_banks (s : State) (n : Nat) (f : Rect → Rect) : (s.modRect n f).banks = s.banks := rfl
@[simp] theorem State.modRect_dies (s : State) (n : Nat) (f : Rect → Rect) : (s.modRect n f).dies = s.dies := rfl
@[simp] theorem State.modRect_mem (s : State) (n : Nat) (f : Rect → Rect) : (s.modRect n f).mem = s.mem := rfl
@[simp] theorem State.modRect_empties (s : State) (n : Nat) (f : Rect → Rect) : (s.modRect n f).empties = s.empties := rfl
@[simp] theorem State.modRect_soft (s : State) (n : Nat) (f : Rect → Rect) : (s.modRect n f).soft = s.soft := rfl
@[simp] theorem State.modRect_bad (s : State) (n : Nat) (f : Rect → Rect) : (s.modRect n f).bad = s.bad := rfl
@[simp] theorem State.modRect_edges (s : State) (n : Nat) (f : Rect → Rect) : (s.modRect n f).edges = s.edges := rfl
@[simp] theorem State.modRect_reqs (s : State) (n : Nat) (f : Rect → Rect) : (s.modRect n f).reqs = s.reqs := rfl
@[simp] theorem State.modRect_msgs (s : State) (n : Nat) (f : Rect → Rect) : (s.modRect n f).msgs = s.msgs := rfl
@[simp] theorem State.modRect_feWaits (s : State) (n : Nat) (f : Rect → Rect) : (s.modRect n f).feWaits = s.feWaits := rfl
@[simp] theorem State.modRect_rsvs (s : State) (n : Nat) (f : Rect → Rect) : (s.modRect n f).rsvs = s.rsvs := rfl
@[simp] theorem State.modRect_barWaits (s : State) (n : Nat) (f : Rect → Rect) : (s.modRect n f).barWaits = s.barWaits := rfl
@[simp] theorem State.modRect_netBars (s : State) (n : Nat) (f : Rect → Rect) : (s.modRect n f).netBars = s.netBars := rfl
@[simp] theorem State.modRect_crossings (s : State) (n : Nat) (f : Rect → Rect) : (s.modRect n f).crossings = s.crossings := rfl
@[simp] theorem State.modRect_walkMsgs (s : State) (n : Nat) (f : Rect → Rect) : (s.modRect n f).walkMsgs = s.walkMsgs := rfl
@[simp] theorem State.modRect_reports (s : State) (n : Nat) (f : Rect → Rect) : (s.modRect n f).reports = s.reports := rfl
@[simp] theorem State.modRect_drains (s : State) (n : Nat) (f : Rect → Rect) : (s.modRect n f).drains = s.drains := rfl
@[simp] theorem State.modRect_walks (s : State) (n : Nat) (f : Rect → Rect) : (s.modRect n f).walks = s.walks := rfl
@[simp] theorem State.modRect_copies (s : State) (n : Nat) (f : Rect → Rect) : (s.modRect n f).copies = s.copies := rfl
@[simp] theorem State.modRect_convs (s : State) (n : Nat) (f : Rect → Rect) : (s.modRect n f).convs = s.convs := rfl
@[simp] theorem State.modRect_iqs (s : State) (n : Nat) (f : Rect → Rect) : (s.modRect n f).iqs = s.iqs := rfl
@[simp] theorem State.modRect_arrs (s : State) (n : Nat) (f : Rect → Rect) : (s.modRect n f).arrs = s.arrs := rfl
@[simp] theorem State.modRect_objs (s : State) (n : Nat) (f : Rect → Rect) : (s.modRect n f).objs = s.objs := rfl
@[simp] theorem State.modRect_saved (s : State) (n : Nat) (f : Rect → Rect) : (s.modRect n f).saved = s.saved := rfl
@[simp] theorem State.modRect_sup (s : State) (n : Nat) (f : Rect → Rect) : (s.modRect n f).sup = s.sup := rfl
@[simp] theorem State.modRect_issueQ (s : State) (n : Nat) (f : Rect → Rect) : (s.modRect n f).issueQ = s.issueQ := rfl
@[simp] theorem State.modRect_agenda (s : State) (n : Nat) (f : Rect → Rect) : (s.modRect n f).agenda = s.agenda := rfl
@[simp] theorem State.modRect_iss (s : State) (n : Nat) (f : Rect → Rect) : (s.modRect n f).iss = s.iss := rfl
@[simp] theorem State.modRect_halves (s : State) (n : Nat) (f : Rect → Rect) : (s.modRect n f).halves = s.halves := rfl
@[simp] theorem State.modRect_freeCtr (s : State) (n : Nat) (f : Rect → Rect) : (s.modRect n f).freeCtr = s.freeCtr := rfl
@[simp] theorem State.modRect_nextUid (s : State) (n : Nat) (f : Rect → Rect) : (s.modRect n f).nextUid = s.nextUid := rfl
@[simp] theorem State.modRect_nextId (s : State) (n : Nat) (f : Rect → Rect) : (s.modRect n f).nextId = s.nextId := rfl

@[simp] theorem State.modReq_clock (s : State) (n : Nat) (f : Req → Req) : (s.modReq n f).clock = s.clock := rfl
@[simp] theorem State.modReq_pkg (s : State) (n : Nat) (f : Req → Req) : (s.modReq n f).pkg = s.pkg := rfl
@[simp] theorem State.modReq_members (s : State) (n : Nat) (f : Req → Req) : (s.modReq n f).members = s.members := rfl
@[simp] theorem State.modReq_windows (s : State) (n : Nat) (f : Req → Req) : (s.modReq n f).windows = s.windows := rfl
@[simp] theorem State.modReq_lost (s : State) (n : Nat) (f : Req → Req) : (s.modReq n f).lost = s.lost := rfl
@[simp] theorem State.modReq_lostDies (s : State) (n : Nat) (f : Req → Req) : (s.modReq n f).lostDies = s.lostDies := rfl
@[simp] theorem State.modReq_ageLimit (s : State) (n : Nat) (f : Req → Req) : (s.modReq n f).ageLimit = s.ageLimit := rfl
@[simp] theorem State.modReq_driftLimit (s : State) (n : Nat) (f : Req → Req) : (s.modReq n f).driftLimit = s.driftLimit := rfl
@[simp] theorem State.modReq_parts (s : State) (n : Nat) (f : Req → Req) : (s.modReq n f).parts = s.parts := rfl
@[simp] theorem State.modReq_keySlots (s : State) (n : Nat) (f : Req → Req) : (s.modReq n f).keySlots = s.keySlots := rfl
@[simp] theorem State.modReq_keyCtr (s : State) (n : Nat) (f : Req → Req) : (s.modReq n f).keyCtr = s.keyCtr := rfl
@[simp] theorem State.modReq_pages (s : State) (n : Nat) (f : Req → Req) : (s.modReq n f).pages = s.pages := rfl
@[simp] theorem State.modReq_domains (s : State) (n : Nat) (f : Req → Req) : (s.modReq n f).domains = s.domains := rfl
@[simp] theorem State.modReq_threads (s : State) (n : Nat) (f : Req → Req) : (s.modReq n f).threads = s.threads := rfl
@[simp] theorem State.modReq_ended (s : State) (n : Nat) (f : Req → Req) : (s.modReq n f).ended = s.ended := rfl
@[simp] theorem State.modReq_cores (s : State) (n : Nat) (f : Req → Req) : (s.modReq n f).cores = s.cores := rfl
@[simp] theorem State.modReq_quads (s : State) (n : Nat) (f : Req → Req) : (s.modReq n f).quads = s.quads := rfl
@[simp] theorem State.modReq_banks (s : State) (n : Nat) (f : Req → Req) : (s.modReq n f).banks = s.banks := rfl
@[simp] theorem State.modReq_dies (s : State) (n : Nat) (f : Req → Req) : (s.modReq n f).dies = s.dies := rfl
@[simp] theorem State.modReq_rects (s : State) (n : Nat) (f : Req → Req) : (s.modReq n f).rects = s.rects := rfl
@[simp] theorem State.modReq_mem (s : State) (n : Nat) (f : Req → Req) : (s.modReq n f).mem = s.mem := rfl
@[simp] theorem State.modReq_empties (s : State) (n : Nat) (f : Req → Req) : (s.modReq n f).empties = s.empties := rfl
@[simp] theorem State.modReq_soft (s : State) (n : Nat) (f : Req → Req) : (s.modReq n f).soft = s.soft := rfl
@[simp] theorem State.modReq_bad (s : State) (n : Nat) (f : Req → Req) : (s.modReq n f).bad = s.bad := rfl
@[simp] theorem State.modReq_edges (s : State) (n : Nat) (f : Req → Req) : (s.modReq n f).edges = s.edges := rfl
@[simp] theorem State.modReq_msgs (s : State) (n : Nat) (f : Req → Req) : (s.modReq n f).msgs = s.msgs := rfl
@[simp] theorem State.modReq_feWaits (s : State) (n : Nat) (f : Req → Req) : (s.modReq n f).feWaits = s.feWaits := rfl
@[simp] theorem State.modReq_rsvs (s : State) (n : Nat) (f : Req → Req) : (s.modReq n f).rsvs = s.rsvs := rfl
@[simp] theorem State.modReq_barWaits (s : State) (n : Nat) (f : Req → Req) : (s.modReq n f).barWaits = s.barWaits := rfl
@[simp] theorem State.modReq_netBars (s : State) (n : Nat) (f : Req → Req) : (s.modReq n f).netBars = s.netBars := rfl
@[simp] theorem State.modReq_crossings (s : State) (n : Nat) (f : Req → Req) : (s.modReq n f).crossings = s.crossings := rfl
@[simp] theorem State.modReq_walkMsgs (s : State) (n : Nat) (f : Req → Req) : (s.modReq n f).walkMsgs = s.walkMsgs := rfl
@[simp] theorem State.modReq_reports (s : State) (n : Nat) (f : Req → Req) : (s.modReq n f).reports = s.reports := rfl
@[simp] theorem State.modReq_drains (s : State) (n : Nat) (f : Req → Req) : (s.modReq n f).drains = s.drains := rfl
@[simp] theorem State.modReq_walks (s : State) (n : Nat) (f : Req → Req) : (s.modReq n f).walks = s.walks := rfl
@[simp] theorem State.modReq_copies (s : State) (n : Nat) (f : Req → Req) : (s.modReq n f).copies = s.copies := rfl
@[simp] theorem State.modReq_convs (s : State) (n : Nat) (f : Req → Req) : (s.modReq n f).convs = s.convs := rfl
@[simp] theorem State.modReq_iqs (s : State) (n : Nat) (f : Req → Req) : (s.modReq n f).iqs = s.iqs := rfl
@[simp] theorem State.modReq_arrs (s : State) (n : Nat) (f : Req → Req) : (s.modReq n f).arrs = s.arrs := rfl
@[simp] theorem State.modReq_objs (s : State) (n : Nat) (f : Req → Req) : (s.modReq n f).objs = s.objs := rfl
@[simp] theorem State.modReq_saved (s : State) (n : Nat) (f : Req → Req) : (s.modReq n f).saved = s.saved := rfl
@[simp] theorem State.modReq_sup (s : State) (n : Nat) (f : Req → Req) : (s.modReq n f).sup = s.sup := rfl
@[simp] theorem State.modReq_issueQ (s : State) (n : Nat) (f : Req → Req) : (s.modReq n f).issueQ = s.issueQ := rfl
@[simp] theorem State.modReq_agenda (s : State) (n : Nat) (f : Req → Req) : (s.modReq n f).agenda = s.agenda := rfl
@[simp] theorem State.modReq_iss (s : State) (n : Nat) (f : Req → Req) : (s.modReq n f).iss = s.iss := rfl
@[simp] theorem State.modReq_halves (s : State) (n : Nat) (f : Req → Req) : (s.modReq n f).halves = s.halves := rfl
@[simp] theorem State.modReq_freeCtr (s : State) (n : Nat) (f : Req → Req) : (s.modReq n f).freeCtr = s.freeCtr := rfl
@[simp] theorem State.modReq_nextUid (s : State) (n : Nat) (f : Req → Req) : (s.modReq n f).nextUid = s.nextUid := rfl
@[simp] theorem State.modReq_nextId (s : State) (n : Nat) (f : Req → Req) : (s.modReq n f).nextId = s.nextId := rfl

@[simp] theorem State.dropThread_clock (s : State) (g : Nat) : (s.dropThread g).clock = s.clock := rfl
@[simp] theorem State.dropThread_pkg (s : State) (g : Nat) : (s.dropThread g).pkg = s.pkg := rfl
@[simp] theorem State.dropThread_members (s : State) (g : Nat) : (s.dropThread g).members = s.members := rfl
@[simp] theorem State.dropThread_windows (s : State) (g : Nat) : (s.dropThread g).windows = s.windows := rfl
@[simp] theorem State.dropThread_lost (s : State) (g : Nat) : (s.dropThread g).lost = s.lost := rfl
@[simp] theorem State.dropThread_lostDies (s : State) (g : Nat) : (s.dropThread g).lostDies = s.lostDies := rfl
@[simp] theorem State.dropThread_ageLimit (s : State) (g : Nat) : (s.dropThread g).ageLimit = s.ageLimit := rfl
@[simp] theorem State.dropThread_driftLimit (s : State) (g : Nat) : (s.dropThread g).driftLimit = s.driftLimit := rfl
@[simp] theorem State.dropThread_parts (s : State) (g : Nat) : (s.dropThread g).parts = s.parts := rfl
@[simp] theorem State.dropThread_keySlots (s : State) (g : Nat) : (s.dropThread g).keySlots = s.keySlots := rfl
@[simp] theorem State.dropThread_keyCtr (s : State) (g : Nat) : (s.dropThread g).keyCtr = s.keyCtr := rfl
@[simp] theorem State.dropThread_pages (s : State) (g : Nat) : (s.dropThread g).pages = s.pages := rfl
@[simp] theorem State.dropThread_domains (s : State) (g : Nat) : (s.dropThread g).domains = s.domains := rfl
@[simp] theorem State.dropThread_ended (s : State) (g : Nat) : (s.dropThread g).ended = s.ended := rfl
@[simp] theorem State.dropThread_cores (s : State) (g : Nat) : (s.dropThread g).cores = s.cores := rfl
@[simp] theorem State.dropThread_quads (s : State) (g : Nat) : (s.dropThread g).quads = s.quads := rfl
@[simp] theorem State.dropThread_banks (s : State) (g : Nat) : (s.dropThread g).banks = s.banks := rfl
@[simp] theorem State.dropThread_dies (s : State) (g : Nat) : (s.dropThread g).dies = s.dies := rfl
@[simp] theorem State.dropThread_rects (s : State) (g : Nat) : (s.dropThread g).rects = s.rects := rfl
@[simp] theorem State.dropThread_mem (s : State) (g : Nat) : (s.dropThread g).mem = s.mem := rfl
@[simp] theorem State.dropThread_empties (s : State) (g : Nat) : (s.dropThread g).empties = s.empties := rfl
@[simp] theorem State.dropThread_soft (s : State) (g : Nat) : (s.dropThread g).soft = s.soft := rfl
@[simp] theorem State.dropThread_bad (s : State) (g : Nat) : (s.dropThread g).bad = s.bad := rfl
@[simp] theorem State.dropThread_edges (s : State) (g : Nat) : (s.dropThread g).edges = s.edges := rfl
@[simp] theorem State.dropThread_reqs (s : State) (g : Nat) : (s.dropThread g).reqs = s.reqs := rfl
@[simp] theorem State.dropThread_msgs (s : State) (g : Nat) : (s.dropThread g).msgs = s.msgs := rfl
@[simp] theorem State.dropThread_feWaits (s : State) (g : Nat) : (s.dropThread g).feWaits = s.feWaits := rfl
@[simp] theorem State.dropThread_rsvs (s : State) (g : Nat) : (s.dropThread g).rsvs = s.rsvs := rfl
@[simp] theorem State.dropThread_barWaits (s : State) (g : Nat) : (s.dropThread g).barWaits = s.barWaits := rfl
@[simp] theorem State.dropThread_netBars (s : State) (g : Nat) : (s.dropThread g).netBars = s.netBars := rfl
@[simp] theorem State.dropThread_crossings (s : State) (g : Nat) : (s.dropThread g).crossings = s.crossings := rfl
@[simp] theorem State.dropThread_walkMsgs (s : State) (g : Nat) : (s.dropThread g).walkMsgs = s.walkMsgs := rfl
@[simp] theorem State.dropThread_reports (s : State) (g : Nat) : (s.dropThread g).reports = s.reports := rfl
@[simp] theorem State.dropThread_drains (s : State) (g : Nat) : (s.dropThread g).drains = s.drains := rfl
@[simp] theorem State.dropThread_walks (s : State) (g : Nat) : (s.dropThread g).walks = s.walks := rfl
@[simp] theorem State.dropThread_copies (s : State) (g : Nat) : (s.dropThread g).copies = s.copies := rfl
@[simp] theorem State.dropThread_convs (s : State) (g : Nat) : (s.dropThread g).convs = s.convs := rfl
@[simp] theorem State.dropThread_iqs (s : State) (g : Nat) : (s.dropThread g).iqs = s.iqs := rfl
@[simp] theorem State.dropThread_arrs (s : State) (g : Nat) : (s.dropThread g).arrs = s.arrs := rfl
@[simp] theorem State.dropThread_objs (s : State) (g : Nat) : (s.dropThread g).objs = s.objs := rfl
@[simp] theorem State.dropThread_saved (s : State) (g : Nat) : (s.dropThread g).saved = s.saved := rfl
@[simp] theorem State.dropThread_sup (s : State) (g : Nat) : (s.dropThread g).sup = s.sup := rfl
@[simp] theorem State.dropThread_issueQ (s : State) (g : Nat) : (s.dropThread g).issueQ = s.issueQ := rfl
@[simp] theorem State.dropThread_agenda (s : State) (g : Nat) : (s.dropThread g).agenda = s.agenda := rfl
@[simp] theorem State.dropThread_iss (s : State) (g : Nat) : (s.dropThread g).iss = s.iss := rfl
@[simp] theorem State.dropThread_halves (s : State) (g : Nat) : (s.dropThread g).halves = s.halves := rfl
@[simp] theorem State.dropThread_freeCtr (s : State) (g : Nat) : (s.dropThread g).freeCtr = s.freeCtr := rfl
@[simp] theorem State.dropThread_nextUid (s : State) (g : Nat) : (s.dropThread g).nextUid = s.nextUid := rfl
@[simp] theorem State.dropThread_nextId (s : State) (g : Nat) : (s.dropThread g).nextId = s.nextId := rfl

@[simp] theorem State.addThread_clock (s : State) (t : Thread) : (s.addThread t).clock = s.clock := rfl
@[simp] theorem State.addThread_pkg (s : State) (t : Thread) : (s.addThread t).pkg = s.pkg := rfl
@[simp] theorem State.addThread_members (s : State) (t : Thread) : (s.addThread t).members = s.members := rfl
@[simp] theorem State.addThread_windows (s : State) (t : Thread) : (s.addThread t).windows = s.windows := rfl
@[simp] theorem State.addThread_lost (s : State) (t : Thread) : (s.addThread t).lost = s.lost := rfl
@[simp] theorem State.addThread_lostDies (s : State) (t : Thread) : (s.addThread t).lostDies = s.lostDies := rfl
@[simp] theorem State.addThread_ageLimit (s : State) (t : Thread) : (s.addThread t).ageLimit = s.ageLimit := rfl
@[simp] theorem State.addThread_driftLimit (s : State) (t : Thread) : (s.addThread t).driftLimit = s.driftLimit := rfl
@[simp] theorem State.addThread_parts (s : State) (t : Thread) : (s.addThread t).parts = s.parts := rfl
@[simp] theorem State.addThread_keySlots (s : State) (t : Thread) : (s.addThread t).keySlots = s.keySlots := rfl
@[simp] theorem State.addThread_keyCtr (s : State) (t : Thread) : (s.addThread t).keyCtr = s.keyCtr := rfl
@[simp] theorem State.addThread_pages (s : State) (t : Thread) : (s.addThread t).pages = s.pages := rfl
@[simp] theorem State.addThread_domains (s : State) (t : Thread) : (s.addThread t).domains = s.domains := rfl
@[simp] theorem State.addThread_cores (s : State) (t : Thread) : (s.addThread t).cores = s.cores := rfl
@[simp] theorem State.addThread_quads (s : State) (t : Thread) : (s.addThread t).quads = s.quads := rfl
@[simp] theorem State.addThread_banks (s : State) (t : Thread) : (s.addThread t).banks = s.banks := rfl
@[simp] theorem State.addThread_dies (s : State) (t : Thread) : (s.addThread t).dies = s.dies := rfl
@[simp] theorem State.addThread_rects (s : State) (t : Thread) : (s.addThread t).rects = s.rects := rfl
@[simp] theorem State.addThread_mem (s : State) (t : Thread) : (s.addThread t).mem = s.mem := rfl
@[simp] theorem State.addThread_empties (s : State) (t : Thread) : (s.addThread t).empties = s.empties := rfl
@[simp] theorem State.addThread_soft (s : State) (t : Thread) : (s.addThread t).soft = s.soft := rfl
@[simp] theorem State.addThread_bad (s : State) (t : Thread) : (s.addThread t).bad = s.bad := rfl
@[simp] theorem State.addThread_edges (s : State) (t : Thread) : (s.addThread t).edges = s.edges := rfl
@[simp] theorem State.addThread_reqs (s : State) (t : Thread) : (s.addThread t).reqs = s.reqs := rfl
@[simp] theorem State.addThread_msgs (s : State) (t : Thread) : (s.addThread t).msgs = s.msgs := rfl
@[simp] theorem State.addThread_feWaits (s : State) (t : Thread) : (s.addThread t).feWaits = s.feWaits := rfl
@[simp] theorem State.addThread_rsvs (s : State) (t : Thread) : (s.addThread t).rsvs = s.rsvs := rfl
@[simp] theorem State.addThread_barWaits (s : State) (t : Thread) : (s.addThread t).barWaits = s.barWaits := rfl
@[simp] theorem State.addThread_netBars (s : State) (t : Thread) : (s.addThread t).netBars = s.netBars := rfl
@[simp] theorem State.addThread_crossings (s : State) (t : Thread) : (s.addThread t).crossings = s.crossings := rfl
@[simp] theorem State.addThread_walkMsgs (s : State) (t : Thread) : (s.addThread t).walkMsgs = s.walkMsgs := rfl
@[simp] theorem State.addThread_reports (s : State) (t : Thread) : (s.addThread t).reports = s.reports := rfl
@[simp] theorem State.addThread_drains (s : State) (t : Thread) : (s.addThread t).drains = s.drains := rfl
@[simp] theorem State.addThread_walks (s : State) (t : Thread) : (s.addThread t).walks = s.walks := rfl
@[simp] theorem State.addThread_copies (s : State) (t : Thread) : (s.addThread t).copies = s.copies := rfl
@[simp] theorem State.addThread_convs (s : State) (t : Thread) : (s.addThread t).convs = s.convs := rfl
@[simp] theorem State.addThread_iqs (s : State) (t : Thread) : (s.addThread t).iqs = s.iqs := rfl
@[simp] theorem State.addThread_arrs (s : State) (t : Thread) : (s.addThread t).arrs = s.arrs := rfl
@[simp] theorem State.addThread_objs (s : State) (t : Thread) : (s.addThread t).objs = s.objs := rfl
@[simp] theorem State.addThread_saved (s : State) (t : Thread) : (s.addThread t).saved = s.saved := rfl
@[simp] theorem State.addThread_sup (s : State) (t : Thread) : (s.addThread t).sup = s.sup := rfl
@[simp] theorem State.addThread_issueQ (s : State) (t : Thread) : (s.addThread t).issueQ = s.issueQ := rfl
@[simp] theorem State.addThread_agenda (s : State) (t : Thread) : (s.addThread t).agenda = s.agenda := rfl
@[simp] theorem State.addThread_iss (s : State) (t : Thread) : (s.addThread t).iss = s.iss := rfl
@[simp] theorem State.addThread_halves (s : State) (t : Thread) : (s.addThread t).halves = s.halves := rfl
@[simp] theorem State.addThread_freeCtr (s : State) (t : Thread) : (s.addThread t).freeCtr = s.freeCtr := rfl
@[simp] theorem State.addThread_nextId (s : State) (t : Thread) : (s.addThread t).nextId = s.nextId := rfl

@[simp] theorem State.writeBytes_clock (s : State) (k : Nat) (bs : List Byte) : (s.writeBytes k bs).clock = s.clock := rfl
@[simp] theorem State.writeBytes_pkg (s : State) (k : Nat) (bs : List Byte) : (s.writeBytes k bs).pkg = s.pkg := rfl
@[simp] theorem State.writeBytes_members (s : State) (k : Nat) (bs : List Byte) : (s.writeBytes k bs).members = s.members := rfl
@[simp] theorem State.writeBytes_windows (s : State) (k : Nat) (bs : List Byte) : (s.writeBytes k bs).windows = s.windows := rfl
@[simp] theorem State.writeBytes_lost (s : State) (k : Nat) (bs : List Byte) : (s.writeBytes k bs).lost = s.lost := rfl
@[simp] theorem State.writeBytes_lostDies (s : State) (k : Nat) (bs : List Byte) : (s.writeBytes k bs).lostDies = s.lostDies := rfl
@[simp] theorem State.writeBytes_ageLimit (s : State) (k : Nat) (bs : List Byte) : (s.writeBytes k bs).ageLimit = s.ageLimit := rfl
@[simp] theorem State.writeBytes_driftLimit (s : State) (k : Nat) (bs : List Byte) : (s.writeBytes k bs).driftLimit = s.driftLimit := rfl
@[simp] theorem State.writeBytes_parts (s : State) (k : Nat) (bs : List Byte) : (s.writeBytes k bs).parts = s.parts := rfl
@[simp] theorem State.writeBytes_keySlots (s : State) (k : Nat) (bs : List Byte) : (s.writeBytes k bs).keySlots = s.keySlots := rfl
@[simp] theorem State.writeBytes_keyCtr (s : State) (k : Nat) (bs : List Byte) : (s.writeBytes k bs).keyCtr = s.keyCtr := rfl
@[simp] theorem State.writeBytes_pages (s : State) (k : Nat) (bs : List Byte) : (s.writeBytes k bs).pages = s.pages := rfl
@[simp] theorem State.writeBytes_domains (s : State) (k : Nat) (bs : List Byte) : (s.writeBytes k bs).domains = s.domains := rfl
@[simp] theorem State.writeBytes_threads (s : State) (k : Nat) (bs : List Byte) : (s.writeBytes k bs).threads = s.threads := rfl
@[simp] theorem State.writeBytes_ended (s : State) (k : Nat) (bs : List Byte) : (s.writeBytes k bs).ended = s.ended := rfl
@[simp] theorem State.writeBytes_cores (s : State) (k : Nat) (bs : List Byte) : (s.writeBytes k bs).cores = s.cores := rfl
@[simp] theorem State.writeBytes_quads (s : State) (k : Nat) (bs : List Byte) : (s.writeBytes k bs).quads = s.quads := rfl
@[simp] theorem State.writeBytes_banks (s : State) (k : Nat) (bs : List Byte) : (s.writeBytes k bs).banks = s.banks := rfl
@[simp] theorem State.writeBytes_dies (s : State) (k : Nat) (bs : List Byte) : (s.writeBytes k bs).dies = s.dies := rfl
@[simp] theorem State.writeBytes_rects (s : State) (k : Nat) (bs : List Byte) : (s.writeBytes k bs).rects = s.rects := rfl
@[simp] theorem State.writeBytes_empties (s : State) (k : Nat) (bs : List Byte) : (s.writeBytes k bs).empties = s.empties := rfl
@[simp] theorem State.writeBytes_edges (s : State) (k : Nat) (bs : List Byte) : (s.writeBytes k bs).edges = s.edges := rfl
@[simp] theorem State.writeBytes_reqs (s : State) (k : Nat) (bs : List Byte) : (s.writeBytes k bs).reqs = s.reqs := rfl
@[simp] theorem State.writeBytes_msgs (s : State) (k : Nat) (bs : List Byte) : (s.writeBytes k bs).msgs = s.msgs := rfl
@[simp] theorem State.writeBytes_feWaits (s : State) (k : Nat) (bs : List Byte) : (s.writeBytes k bs).feWaits = s.feWaits := rfl
@[simp] theorem State.writeBytes_rsvs (s : State) (k : Nat) (bs : List Byte) : (s.writeBytes k bs).rsvs = s.rsvs := rfl
@[simp] theorem State.writeBytes_barWaits (s : State) (k : Nat) (bs : List Byte) : (s.writeBytes k bs).barWaits = s.barWaits := rfl
@[simp] theorem State.writeBytes_netBars (s : State) (k : Nat) (bs : List Byte) : (s.writeBytes k bs).netBars = s.netBars := rfl
@[simp] theorem State.writeBytes_crossings (s : State) (k : Nat) (bs : List Byte) : (s.writeBytes k bs).crossings = s.crossings := rfl
@[simp] theorem State.writeBytes_walkMsgs (s : State) (k : Nat) (bs : List Byte) : (s.writeBytes k bs).walkMsgs = s.walkMsgs := rfl
@[simp] theorem State.writeBytes_reports (s : State) (k : Nat) (bs : List Byte) : (s.writeBytes k bs).reports = s.reports := rfl
@[simp] theorem State.writeBytes_drains (s : State) (k : Nat) (bs : List Byte) : (s.writeBytes k bs).drains = s.drains := rfl
@[simp] theorem State.writeBytes_walks (s : State) (k : Nat) (bs : List Byte) : (s.writeBytes k bs).walks = s.walks := rfl
@[simp] theorem State.writeBytes_copies (s : State) (k : Nat) (bs : List Byte) : (s.writeBytes k bs).copies = s.copies := rfl
@[simp] theorem State.writeBytes_convs (s : State) (k : Nat) (bs : List Byte) : (s.writeBytes k bs).convs = s.convs := rfl
@[simp] theorem State.writeBytes_iqs (s : State) (k : Nat) (bs : List Byte) : (s.writeBytes k bs).iqs = s.iqs := rfl
@[simp] theorem State.writeBytes_arrs (s : State) (k : Nat) (bs : List Byte) : (s.writeBytes k bs).arrs = s.arrs := rfl
@[simp] theorem State.writeBytes_objs (s : State) (k : Nat) (bs : List Byte) : (s.writeBytes k bs).objs = s.objs := rfl
@[simp] theorem State.writeBytes_saved (s : State) (k : Nat) (bs : List Byte) : (s.writeBytes k bs).saved = s.saved := rfl
@[simp] theorem State.writeBytes_sup (s : State) (k : Nat) (bs : List Byte) : (s.writeBytes k bs).sup = s.sup := rfl
@[simp] theorem State.writeBytes_issueQ (s : State) (k : Nat) (bs : List Byte) : (s.writeBytes k bs).issueQ = s.issueQ := rfl
@[simp] theorem State.writeBytes_agenda (s : State) (k : Nat) (bs : List Byte) : (s.writeBytes k bs).agenda = s.agenda := rfl
@[simp] theorem State.writeBytes_iss (s : State) (k : Nat) (bs : List Byte) : (s.writeBytes k bs).iss = s.iss := rfl
@[simp] theorem State.writeBytes_halves (s : State) (k : Nat) (bs : List Byte) : (s.writeBytes k bs).halves = s.halves := rfl
@[simp] theorem State.writeBytes_freeCtr (s : State) (k : Nat) (bs : List Byte) : (s.writeBytes k bs).freeCtr = s.freeCtr := rfl
@[simp] theorem State.writeBytes_nextUid (s : State) (k : Nat) (bs : List Byte) : (s.writeBytes k bs).nextUid = s.nextUid := rfl
@[simp] theorem State.writeBytes_nextId (s : State) (k : Nat) (bs : List Byte) : (s.writeBytes k bs).nextId = s.nextId := rfl

@[simp] theorem State.setEmpty_clock (s : State) (k : Nat) (e : Bool) : (s.setEmpty k e).clock = s.clock := rfl
@[simp] theorem State.setEmpty_pkg (s : State) (k : Nat) (e : Bool) : (s.setEmpty k e).pkg = s.pkg := rfl
@[simp] theorem State.setEmpty_members (s : State) (k : Nat) (e : Bool) : (s.setEmpty k e).members = s.members := rfl
@[simp] theorem State.setEmpty_windows (s : State) (k : Nat) (e : Bool) : (s.setEmpty k e).windows = s.windows := rfl
@[simp] theorem State.setEmpty_lost (s : State) (k : Nat) (e : Bool) : (s.setEmpty k e).lost = s.lost := rfl
@[simp] theorem State.setEmpty_lostDies (s : State) (k : Nat) (e : Bool) : (s.setEmpty k e).lostDies = s.lostDies := rfl
@[simp] theorem State.setEmpty_ageLimit (s : State) (k : Nat) (e : Bool) : (s.setEmpty k e).ageLimit = s.ageLimit := rfl
@[simp] theorem State.setEmpty_driftLimit (s : State) (k : Nat) (e : Bool) : (s.setEmpty k e).driftLimit = s.driftLimit := rfl
@[simp] theorem State.setEmpty_parts (s : State) (k : Nat) (e : Bool) : (s.setEmpty k e).parts = s.parts := rfl
@[simp] theorem State.setEmpty_keySlots (s : State) (k : Nat) (e : Bool) : (s.setEmpty k e).keySlots = s.keySlots := rfl
@[simp] theorem State.setEmpty_keyCtr (s : State) (k : Nat) (e : Bool) : (s.setEmpty k e).keyCtr = s.keyCtr := rfl
@[simp] theorem State.setEmpty_pages (s : State) (k : Nat) (e : Bool) : (s.setEmpty k e).pages = s.pages := rfl
@[simp] theorem State.setEmpty_domains (s : State) (k : Nat) (e : Bool) : (s.setEmpty k e).domains = s.domains := rfl
@[simp] theorem State.setEmpty_threads (s : State) (k : Nat) (e : Bool) : (s.setEmpty k e).threads = s.threads := rfl
@[simp] theorem State.setEmpty_ended (s : State) (k : Nat) (e : Bool) : (s.setEmpty k e).ended = s.ended := rfl
@[simp] theorem State.setEmpty_cores (s : State) (k : Nat) (e : Bool) : (s.setEmpty k e).cores = s.cores := rfl
@[simp] theorem State.setEmpty_quads (s : State) (k : Nat) (e : Bool) : (s.setEmpty k e).quads = s.quads := rfl
@[simp] theorem State.setEmpty_banks (s : State) (k : Nat) (e : Bool) : (s.setEmpty k e).banks = s.banks := rfl
@[simp] theorem State.setEmpty_dies (s : State) (k : Nat) (e : Bool) : (s.setEmpty k e).dies = s.dies := rfl
@[simp] theorem State.setEmpty_rects (s : State) (k : Nat) (e : Bool) : (s.setEmpty k e).rects = s.rects := rfl
@[simp] theorem State.setEmpty_mem (s : State) (k : Nat) (e : Bool) : (s.setEmpty k e).mem = s.mem := rfl
@[simp] theorem State.setEmpty_soft (s : State) (k : Nat) (e : Bool) : (s.setEmpty k e).soft = s.soft := rfl
@[simp] theorem State.setEmpty_bad (s : State) (k : Nat) (e : Bool) : (s.setEmpty k e).bad = s.bad := rfl
@[simp] theorem State.setEmpty_edges (s : State) (k : Nat) (e : Bool) : (s.setEmpty k e).edges = s.edges := rfl
@[simp] theorem State.setEmpty_reqs (s : State) (k : Nat) (e : Bool) : (s.setEmpty k e).reqs = s.reqs := rfl
@[simp] theorem State.setEmpty_msgs (s : State) (k : Nat) (e : Bool) : (s.setEmpty k e).msgs = s.msgs := rfl
@[simp] theorem State.setEmpty_feWaits (s : State) (k : Nat) (e : Bool) : (s.setEmpty k e).feWaits = s.feWaits := rfl
@[simp] theorem State.setEmpty_rsvs (s : State) (k : Nat) (e : Bool) : (s.setEmpty k e).rsvs = s.rsvs := rfl
@[simp] theorem State.setEmpty_barWaits (s : State) (k : Nat) (e : Bool) : (s.setEmpty k e).barWaits = s.barWaits := rfl
@[simp] theorem State.setEmpty_netBars (s : State) (k : Nat) (e : Bool) : (s.setEmpty k e).netBars = s.netBars := rfl
@[simp] theorem State.setEmpty_crossings (s : State) (k : Nat) (e : Bool) : (s.setEmpty k e).crossings = s.crossings := rfl
@[simp] theorem State.setEmpty_walkMsgs (s : State) (k : Nat) (e : Bool) : (s.setEmpty k e).walkMsgs = s.walkMsgs := rfl
@[simp] theorem State.setEmpty_reports (s : State) (k : Nat) (e : Bool) : (s.setEmpty k e).reports = s.reports := rfl
@[simp] theorem State.setEmpty_drains (s : State) (k : Nat) (e : Bool) : (s.setEmpty k e).drains = s.drains := rfl
@[simp] theorem State.setEmpty_walks (s : State) (k : Nat) (e : Bool) : (s.setEmpty k e).walks = s.walks := rfl
@[simp] theorem State.setEmpty_copies (s : State) (k : Nat) (e : Bool) : (s.setEmpty k e).copies = s.copies := rfl
@[simp] theorem State.setEmpty_convs (s : State) (k : Nat) (e : Bool) : (s.setEmpty k e).convs = s.convs := rfl
@[simp] theorem State.setEmpty_iqs (s : State) (k : Nat) (e : Bool) : (s.setEmpty k e).iqs = s.iqs := rfl
@[simp] theorem State.setEmpty_arrs (s : State) (k : Nat) (e : Bool) : (s.setEmpty k e).arrs = s.arrs := rfl
@[simp] theorem State.setEmpty_objs (s : State) (k : Nat) (e : Bool) : (s.setEmpty k e).objs = s.objs := rfl
@[simp] theorem State.setEmpty_saved (s : State) (k : Nat) (e : Bool) : (s.setEmpty k e).saved = s.saved := rfl
@[simp] theorem State.setEmpty_sup (s : State) (k : Nat) (e : Bool) : (s.setEmpty k e).sup = s.sup := rfl
@[simp] theorem State.setEmpty_issueQ (s : State) (k : Nat) (e : Bool) : (s.setEmpty k e).issueQ = s.issueQ := rfl
@[simp] theorem State.setEmpty_agenda (s : State) (k : Nat) (e : Bool) : (s.setEmpty k e).agenda = s.agenda := rfl
@[simp] theorem State.setEmpty_iss (s : State) (k : Nat) (e : Bool) : (s.setEmpty k e).iss = s.iss := rfl
@[simp] theorem State.setEmpty_halves (s : State) (k : Nat) (e : Bool) : (s.setEmpty k e).halves = s.halves := rfl
@[simp] theorem State.setEmpty_freeCtr (s : State) (k : Nat) (e : Bool) : (s.setEmpty k e).freeCtr = s.freeCtr := rfl
@[simp] theorem State.setEmpty_nextUid (s : State) (k : Nat) (e : Bool) : (s.setEmpty k e).nextUid = s.nextUid := rfl
@[simp] theorem State.setEmpty_nextId (s : State) (k : Nat) (e : Bool) : (s.setEmpty k e).nextId = s.nextId := rfl

@[simp] theorem State.markFull_clock (s : State) (k n : Nat) : (s.markFull k n).clock = s.clock := rfl
@[simp] theorem State.markFull_pkg (s : State) (k n : Nat) : (s.markFull k n).pkg = s.pkg := rfl
@[simp] theorem State.markFull_members (s : State) (k n : Nat) : (s.markFull k n).members = s.members := rfl
@[simp] theorem State.markFull_windows (s : State) (k n : Nat) : (s.markFull k n).windows = s.windows := rfl
@[simp] theorem State.markFull_lost (s : State) (k n : Nat) : (s.markFull k n).lost = s.lost := rfl
@[simp] theorem State.markFull_lostDies (s : State) (k n : Nat) : (s.markFull k n).lostDies = s.lostDies := rfl
@[simp] theorem State.markFull_ageLimit (s : State) (k n : Nat) : (s.markFull k n).ageLimit = s.ageLimit := rfl
@[simp] theorem State.markFull_driftLimit (s : State) (k n : Nat) : (s.markFull k n).driftLimit = s.driftLimit := rfl
@[simp] theorem State.markFull_parts (s : State) (k n : Nat) : (s.markFull k n).parts = s.parts := rfl
@[simp] theorem State.markFull_keySlots (s : State) (k n : Nat) : (s.markFull k n).keySlots = s.keySlots := rfl
@[simp] theorem State.markFull_keyCtr (s : State) (k n : Nat) : (s.markFull k n).keyCtr = s.keyCtr := rfl
@[simp] theorem State.markFull_pages (s : State) (k n : Nat) : (s.markFull k n).pages = s.pages := rfl
@[simp] theorem State.markFull_domains (s : State) (k n : Nat) : (s.markFull k n).domains = s.domains := rfl
@[simp] theorem State.markFull_threads (s : State) (k n : Nat) : (s.markFull k n).threads = s.threads := rfl
@[simp] theorem State.markFull_ended (s : State) (k n : Nat) : (s.markFull k n).ended = s.ended := rfl
@[simp] theorem State.markFull_cores (s : State) (k n : Nat) : (s.markFull k n).cores = s.cores := rfl
@[simp] theorem State.markFull_quads (s : State) (k n : Nat) : (s.markFull k n).quads = s.quads := rfl
@[simp] theorem State.markFull_banks (s : State) (k n : Nat) : (s.markFull k n).banks = s.banks := rfl
@[simp] theorem State.markFull_dies (s : State) (k n : Nat) : (s.markFull k n).dies = s.dies := rfl
@[simp] theorem State.markFull_rects (s : State) (k n : Nat) : (s.markFull k n).rects = s.rects := rfl
@[simp] theorem State.markFull_mem (s : State) (k n : Nat) : (s.markFull k n).mem = s.mem := rfl
@[simp] theorem State.markFull_soft (s : State) (k n : Nat) : (s.markFull k n).soft = s.soft := rfl
@[simp] theorem State.markFull_bad (s : State) (k n : Nat) : (s.markFull k n).bad = s.bad := rfl
@[simp] theorem State.markFull_edges (s : State) (k n : Nat) : (s.markFull k n).edges = s.edges := rfl
@[simp] theorem State.markFull_reqs (s : State) (k n : Nat) : (s.markFull k n).reqs = s.reqs := rfl
@[simp] theorem State.markFull_msgs (s : State) (k n : Nat) : (s.markFull k n).msgs = s.msgs := rfl
@[simp] theorem State.markFull_feWaits (s : State) (k n : Nat) : (s.markFull k n).feWaits = s.feWaits := rfl
@[simp] theorem State.markFull_rsvs (s : State) (k n : Nat) : (s.markFull k n).rsvs = s.rsvs := rfl
@[simp] theorem State.markFull_barWaits (s : State) (k n : Nat) : (s.markFull k n).barWaits = s.barWaits := rfl
@[simp] theorem State.markFull_netBars (s : State) (k n : Nat) : (s.markFull k n).netBars = s.netBars := rfl
@[simp] theorem State.markFull_crossings (s : State) (k n : Nat) : (s.markFull k n).crossings = s.crossings := rfl
@[simp] theorem State.markFull_walkMsgs (s : State) (k n : Nat) : (s.markFull k n).walkMsgs = s.walkMsgs := rfl
@[simp] theorem State.markFull_reports (s : State) (k n : Nat) : (s.markFull k n).reports = s.reports := rfl
@[simp] theorem State.markFull_drains (s : State) (k n : Nat) : (s.markFull k n).drains = s.drains := rfl
@[simp] theorem State.markFull_walks (s : State) (k n : Nat) : (s.markFull k n).walks = s.walks := rfl
@[simp] theorem State.markFull_copies (s : State) (k n : Nat) : (s.markFull k n).copies = s.copies := rfl
@[simp] theorem State.markFull_convs (s : State) (k n : Nat) : (s.markFull k n).convs = s.convs := rfl
@[simp] theorem State.markFull_iqs (s : State) (k n : Nat) : (s.markFull k n).iqs = s.iqs := rfl
@[simp] theorem State.markFull_arrs (s : State) (k n : Nat) : (s.markFull k n).arrs = s.arrs := rfl
@[simp] theorem State.markFull_objs (s : State) (k n : Nat) : (s.markFull k n).objs = s.objs := rfl
@[simp] theorem State.markFull_saved (s : State) (k n : Nat) : (s.markFull k n).saved = s.saved := rfl
@[simp] theorem State.markFull_sup (s : State) (k n : Nat) : (s.markFull k n).sup = s.sup := rfl
@[simp] theorem State.markFull_issueQ (s : State) (k n : Nat) : (s.markFull k n).issueQ = s.issueQ := rfl
@[simp] theorem State.markFull_agenda (s : State) (k n : Nat) : (s.markFull k n).agenda = s.agenda := rfl
@[simp] theorem State.markFull_iss (s : State) (k n : Nat) : (s.markFull k n).iss = s.iss := rfl
@[simp] theorem State.markFull_halves (s : State) (k n : Nat) : (s.markFull k n).halves = s.halves := rfl
@[simp] theorem State.markFull_freeCtr (s : State) (k n : Nat) : (s.markFull k n).freeCtr = s.freeCtr := rfl
@[simp] theorem State.markFull_nextUid (s : State) (k n : Nat) : (s.markFull k n).nextUid = s.nextUid := rfl
@[simp] theorem State.markFull_nextId (s : State) (k n : Nat) : (s.markFull k n).nextId = s.nextId := rfl

@[simp] theorem State.modMe_clock (s : State) (f : Thread → Thread) : (s.modMe f).clock = s.clock := rfl
@[simp] theorem State.modMe_pkg (s : State) (f : Thread → Thread) : (s.modMe f).pkg = s.pkg := rfl
@[simp] theorem State.modMe_members (s : State) (f : Thread → Thread) : (s.modMe f).members = s.members := rfl
@[simp] theorem State.modMe_windows (s : State) (f : Thread → Thread) : (s.modMe f).windows = s.windows := rfl
@[simp] theorem State.modMe_lost (s : State) (f : Thread → Thread) : (s.modMe f).lost = s.lost := rfl
@[simp] theorem State.modMe_lostDies (s : State) (f : Thread → Thread) : (s.modMe f).lostDies = s.lostDies := rfl
@[simp] theorem State.modMe_ageLimit (s : State) (f : Thread → Thread) : (s.modMe f).ageLimit = s.ageLimit := rfl
@[simp] theorem State.modMe_driftLimit (s : State) (f : Thread → Thread) : (s.modMe f).driftLimit = s.driftLimit := rfl
@[simp] theorem State.modMe_parts (s : State) (f : Thread → Thread) : (s.modMe f).parts = s.parts := rfl
@[simp] theorem State.modMe_keySlots (s : State) (f : Thread → Thread) : (s.modMe f).keySlots = s.keySlots := rfl
@[simp] theorem State.modMe_keyCtr (s : State) (f : Thread → Thread) : (s.modMe f).keyCtr = s.keyCtr := rfl
@[simp] theorem State.modMe_pages (s : State) (f : Thread → Thread) : (s.modMe f).pages = s.pages := rfl
@[simp] theorem State.modMe_domains (s : State) (f : Thread → Thread) : (s.modMe f).domains = s.domains := rfl
@[simp] theorem State.modMe_ended (s : State) (f : Thread → Thread) : (s.modMe f).ended = s.ended := rfl
@[simp] theorem State.modMe_cores (s : State) (f : Thread → Thread) : (s.modMe f).cores = s.cores := rfl
@[simp] theorem State.modMe_quads (s : State) (f : Thread → Thread) : (s.modMe f).quads = s.quads := rfl
@[simp] theorem State.modMe_banks (s : State) (f : Thread → Thread) : (s.modMe f).banks = s.banks := rfl
@[simp] theorem State.modMe_dies (s : State) (f : Thread → Thread) : (s.modMe f).dies = s.dies := rfl
@[simp] theorem State.modMe_rects (s : State) (f : Thread → Thread) : (s.modMe f).rects = s.rects := rfl
@[simp] theorem State.modMe_mem (s : State) (f : Thread → Thread) : (s.modMe f).mem = s.mem := rfl
@[simp] theorem State.modMe_empties (s : State) (f : Thread → Thread) : (s.modMe f).empties = s.empties := rfl
@[simp] theorem State.modMe_soft (s : State) (f : Thread → Thread) : (s.modMe f).soft = s.soft := rfl
@[simp] theorem State.modMe_bad (s : State) (f : Thread → Thread) : (s.modMe f).bad = s.bad := rfl
@[simp] theorem State.modMe_edges (s : State) (f : Thread → Thread) : (s.modMe f).edges = s.edges := rfl
@[simp] theorem State.modMe_reqs (s : State) (f : Thread → Thread) : (s.modMe f).reqs = s.reqs := rfl
@[simp] theorem State.modMe_msgs (s : State) (f : Thread → Thread) : (s.modMe f).msgs = s.msgs := rfl
@[simp] theorem State.modMe_feWaits (s : State) (f : Thread → Thread) : (s.modMe f).feWaits = s.feWaits := rfl
@[simp] theorem State.modMe_rsvs (s : State) (f : Thread → Thread) : (s.modMe f).rsvs = s.rsvs := rfl
@[simp] theorem State.modMe_barWaits (s : State) (f : Thread → Thread) : (s.modMe f).barWaits = s.barWaits := rfl
@[simp] theorem State.modMe_netBars (s : State) (f : Thread → Thread) : (s.modMe f).netBars = s.netBars := rfl
@[simp] theorem State.modMe_crossings (s : State) (f : Thread → Thread) : (s.modMe f).crossings = s.crossings := rfl
@[simp] theorem State.modMe_walkMsgs (s : State) (f : Thread → Thread) : (s.modMe f).walkMsgs = s.walkMsgs := rfl
@[simp] theorem State.modMe_reports (s : State) (f : Thread → Thread) : (s.modMe f).reports = s.reports := rfl
@[simp] theorem State.modMe_drains (s : State) (f : Thread → Thread) : (s.modMe f).drains = s.drains := rfl
@[simp] theorem State.modMe_walks (s : State) (f : Thread → Thread) : (s.modMe f).walks = s.walks := rfl
@[simp] theorem State.modMe_copies (s : State) (f : Thread → Thread) : (s.modMe f).copies = s.copies := rfl
@[simp] theorem State.modMe_convs (s : State) (f : Thread → Thread) : (s.modMe f).convs = s.convs := rfl
@[simp] theorem State.modMe_iqs (s : State) (f : Thread → Thread) : (s.modMe f).iqs = s.iqs := rfl
@[simp] theorem State.modMe_arrs (s : State) (f : Thread → Thread) : (s.modMe f).arrs = s.arrs := rfl
@[simp] theorem State.modMe_objs (s : State) (f : Thread → Thread) : (s.modMe f).objs = s.objs := rfl
@[simp] theorem State.modMe_saved (s : State) (f : Thread → Thread) : (s.modMe f).saved = s.saved := rfl
@[simp] theorem State.modMe_sup (s : State) (f : Thread → Thread) : (s.modMe f).sup = s.sup := rfl
@[simp] theorem State.modMe_issueQ (s : State) (f : Thread → Thread) : (s.modMe f).issueQ = s.issueQ := rfl
@[simp] theorem State.modMe_agenda (s : State) (f : Thread → Thread) : (s.modMe f).agenda = s.agenda := rfl
@[simp] theorem State.modMe_iss (s : State) (f : Thread → Thread) : (s.modMe f).iss = s.iss := rfl
@[simp] theorem State.modMe_halves (s : State) (f : Thread → Thread) : (s.modMe f).halves = s.halves := rfl
@[simp] theorem State.modMe_freeCtr (s : State) (f : Thread → Thread) : (s.modMe f).freeCtr = s.freeCtr := rfl
@[simp] theorem State.modMe_nextUid (s : State) (f : Thread → Thread) : (s.modMe f).nextUid = s.nextUid := rfl
@[simp] theorem State.modMe_nextId (s : State) (f : Thread → Thread) : (s.modMe f).nextId = s.nextId := rfl

@[simp] theorem State.await_clock (s : State) (w : Why) (fin : Done) : (s.await w fin).clock = s.clock := rfl
@[simp] theorem State.await_pkg (s : State) (w : Why) (fin : Done) : (s.await w fin).pkg = s.pkg := rfl
@[simp] theorem State.await_members (s : State) (w : Why) (fin : Done) : (s.await w fin).members = s.members := rfl
@[simp] theorem State.await_windows (s : State) (w : Why) (fin : Done) : (s.await w fin).windows = s.windows := rfl
@[simp] theorem State.await_lost (s : State) (w : Why) (fin : Done) : (s.await w fin).lost = s.lost := rfl
@[simp] theorem State.await_lostDies (s : State) (w : Why) (fin : Done) : (s.await w fin).lostDies = s.lostDies := rfl
@[simp] theorem State.await_ageLimit (s : State) (w : Why) (fin : Done) : (s.await w fin).ageLimit = s.ageLimit := rfl
@[simp] theorem State.await_driftLimit (s : State) (w : Why) (fin : Done) : (s.await w fin).driftLimit = s.driftLimit := rfl
@[simp] theorem State.await_parts (s : State) (w : Why) (fin : Done) : (s.await w fin).parts = s.parts := rfl
@[simp] theorem State.await_keySlots (s : State) (w : Why) (fin : Done) : (s.await w fin).keySlots = s.keySlots := rfl
@[simp] theorem State.await_keyCtr (s : State) (w : Why) (fin : Done) : (s.await w fin).keyCtr = s.keyCtr := rfl
@[simp] theorem State.await_pages (s : State) (w : Why) (fin : Done) : (s.await w fin).pages = s.pages := rfl
@[simp] theorem State.await_domains (s : State) (w : Why) (fin : Done) : (s.await w fin).domains = s.domains := rfl
@[simp] theorem State.await_ended (s : State) (w : Why) (fin : Done) : (s.await w fin).ended = s.ended := rfl
@[simp] theorem State.await_cores (s : State) (w : Why) (fin : Done) : (s.await w fin).cores = s.cores := rfl
@[simp] theorem State.await_quads (s : State) (w : Why) (fin : Done) : (s.await w fin).quads = s.quads := rfl
@[simp] theorem State.await_banks (s : State) (w : Why) (fin : Done) : (s.await w fin).banks = s.banks := rfl
@[simp] theorem State.await_dies (s : State) (w : Why) (fin : Done) : (s.await w fin).dies = s.dies := rfl
@[simp] theorem State.await_rects (s : State) (w : Why) (fin : Done) : (s.await w fin).rects = s.rects := rfl
@[simp] theorem State.await_mem (s : State) (w : Why) (fin : Done) : (s.await w fin).mem = s.mem := rfl
@[simp] theorem State.await_empties (s : State) (w : Why) (fin : Done) : (s.await w fin).empties = s.empties := rfl
@[simp] theorem State.await_soft (s : State) (w : Why) (fin : Done) : (s.await w fin).soft = s.soft := rfl
@[simp] theorem State.await_bad (s : State) (w : Why) (fin : Done) : (s.await w fin).bad = s.bad := rfl
@[simp] theorem State.await_edges (s : State) (w : Why) (fin : Done) : (s.await w fin).edges = s.edges := rfl
@[simp] theorem State.await_reqs (s : State) (w : Why) (fin : Done) : (s.await w fin).reqs = s.reqs := rfl
@[simp] theorem State.await_msgs (s : State) (w : Why) (fin : Done) : (s.await w fin).msgs = s.msgs := rfl
@[simp] theorem State.await_feWaits (s : State) (w : Why) (fin : Done) : (s.await w fin).feWaits = s.feWaits := rfl
@[simp] theorem State.await_rsvs (s : State) (w : Why) (fin : Done) : (s.await w fin).rsvs = s.rsvs := rfl
@[simp] theorem State.await_barWaits (s : State) (w : Why) (fin : Done) : (s.await w fin).barWaits = s.barWaits := rfl
@[simp] theorem State.await_netBars (s : State) (w : Why) (fin : Done) : (s.await w fin).netBars = s.netBars := rfl
@[simp] theorem State.await_crossings (s : State) (w : Why) (fin : Done) : (s.await w fin).crossings = s.crossings := rfl
@[simp] theorem State.await_walkMsgs (s : State) (w : Why) (fin : Done) : (s.await w fin).walkMsgs = s.walkMsgs := rfl
@[simp] theorem State.await_reports (s : State) (w : Why) (fin : Done) : (s.await w fin).reports = s.reports := rfl
@[simp] theorem State.await_drains (s : State) (w : Why) (fin : Done) : (s.await w fin).drains = s.drains := rfl
@[simp] theorem State.await_walks (s : State) (w : Why) (fin : Done) : (s.await w fin).walks = s.walks := rfl
@[simp] theorem State.await_copies (s : State) (w : Why) (fin : Done) : (s.await w fin).copies = s.copies := rfl
@[simp] theorem State.await_convs (s : State) (w : Why) (fin : Done) : (s.await w fin).convs = s.convs := rfl
@[simp] theorem State.await_iqs (s : State) (w : Why) (fin : Done) : (s.await w fin).iqs = s.iqs := rfl
@[simp] theorem State.await_arrs (s : State) (w : Why) (fin : Done) : (s.await w fin).arrs = s.arrs := rfl
@[simp] theorem State.await_objs (s : State) (w : Why) (fin : Done) : (s.await w fin).objs = s.objs := rfl
@[simp] theorem State.await_saved (s : State) (w : Why) (fin : Done) : (s.await w fin).saved = s.saved := rfl
@[simp] theorem State.await_sup (s : State) (w : Why) (fin : Done) : (s.await w fin).sup = s.sup := rfl
@[simp] theorem State.await_issueQ (s : State) (w : Why) (fin : Done) : (s.await w fin).issueQ = s.issueQ := rfl
@[simp] theorem State.await_agenda (s : State) (w : Why) (fin : Done) : (s.await w fin).agenda = s.agenda := rfl
@[simp] theorem State.await_iss (s : State) (w : Why) (fin : Done) : (s.await w fin).iss = s.iss := rfl
@[simp] theorem State.await_halves (s : State) (w : Why) (fin : Done) : (s.await w fin).halves = s.halves := rfl
@[simp] theorem State.await_freeCtr (s : State) (w : Why) (fin : Done) : (s.await w fin).freeCtr = s.freeCtr := rfl
@[simp] theorem State.await_nextUid (s : State) (w : Why) (fin : Done) : (s.await w fin).nextUid = s.nextUid := rfl
@[simp] theorem State.await_nextId (s : State) (w : Why) (fin : Done) : (s.await w fin).nextId = s.nextId := rfl

@[simp] theorem State.retry_clock (s : State) (w : Why) : (s.retry w).clock = s.clock := rfl
@[simp] theorem State.retry_pkg (s : State) (w : Why) : (s.retry w).pkg = s.pkg := rfl
@[simp] theorem State.retry_members (s : State) (w : Why) : (s.retry w).members = s.members := rfl
@[simp] theorem State.retry_windows (s : State) (w : Why) : (s.retry w).windows = s.windows := rfl
@[simp] theorem State.retry_lost (s : State) (w : Why) : (s.retry w).lost = s.lost := rfl
@[simp] theorem State.retry_lostDies (s : State) (w : Why) : (s.retry w).lostDies = s.lostDies := rfl
@[simp] theorem State.retry_ageLimit (s : State) (w : Why) : (s.retry w).ageLimit = s.ageLimit := rfl
@[simp] theorem State.retry_driftLimit (s : State) (w : Why) : (s.retry w).driftLimit = s.driftLimit := rfl
@[simp] theorem State.retry_parts (s : State) (w : Why) : (s.retry w).parts = s.parts := rfl
@[simp] theorem State.retry_keySlots (s : State) (w : Why) : (s.retry w).keySlots = s.keySlots := rfl
@[simp] theorem State.retry_keyCtr (s : State) (w : Why) : (s.retry w).keyCtr = s.keyCtr := rfl
@[simp] theorem State.retry_pages (s : State) (w : Why) : (s.retry w).pages = s.pages := rfl
@[simp] theorem State.retry_domains (s : State) (w : Why) : (s.retry w).domains = s.domains := rfl
@[simp] theorem State.retry_ended (s : State) (w : Why) : (s.retry w).ended = s.ended := rfl
@[simp] theorem State.retry_cores (s : State) (w : Why) : (s.retry w).cores = s.cores := rfl
@[simp] theorem State.retry_quads (s : State) (w : Why) : (s.retry w).quads = s.quads := rfl
@[simp] theorem State.retry_banks (s : State) (w : Why) : (s.retry w).banks = s.banks := rfl
@[simp] theorem State.retry_dies (s : State) (w : Why) : (s.retry w).dies = s.dies := rfl
@[simp] theorem State.retry_rects (s : State) (w : Why) : (s.retry w).rects = s.rects := rfl
@[simp] theorem State.retry_mem (s : State) (w : Why) : (s.retry w).mem = s.mem := rfl
@[simp] theorem State.retry_empties (s : State) (w : Why) : (s.retry w).empties = s.empties := rfl
@[simp] theorem State.retry_soft (s : State) (w : Why) : (s.retry w).soft = s.soft := rfl
@[simp] theorem State.retry_bad (s : State) (w : Why) : (s.retry w).bad = s.bad := rfl
@[simp] theorem State.retry_edges (s : State) (w : Why) : (s.retry w).edges = s.edges := rfl
@[simp] theorem State.retry_reqs (s : State) (w : Why) : (s.retry w).reqs = s.reqs := rfl
@[simp] theorem State.retry_msgs (s : State) (w : Why) : (s.retry w).msgs = s.msgs := rfl
@[simp] theorem State.retry_feWaits (s : State) (w : Why) : (s.retry w).feWaits = s.feWaits := rfl
@[simp] theorem State.retry_rsvs (s : State) (w : Why) : (s.retry w).rsvs = s.rsvs := rfl
@[simp] theorem State.retry_barWaits (s : State) (w : Why) : (s.retry w).barWaits = s.barWaits := rfl
@[simp] theorem State.retry_netBars (s : State) (w : Why) : (s.retry w).netBars = s.netBars := rfl
@[simp] theorem State.retry_crossings (s : State) (w : Why) : (s.retry w).crossings = s.crossings := rfl
@[simp] theorem State.retry_walkMsgs (s : State) (w : Why) : (s.retry w).walkMsgs = s.walkMsgs := rfl
@[simp] theorem State.retry_reports (s : State) (w : Why) : (s.retry w).reports = s.reports := rfl
@[simp] theorem State.retry_drains (s : State) (w : Why) : (s.retry w).drains = s.drains := rfl
@[simp] theorem State.retry_walks (s : State) (w : Why) : (s.retry w).walks = s.walks := rfl
@[simp] theorem State.retry_copies (s : State) (w : Why) : (s.retry w).copies = s.copies := rfl
@[simp] theorem State.retry_convs (s : State) (w : Why) : (s.retry w).convs = s.convs := rfl
@[simp] theorem State.retry_iqs (s : State) (w : Why) : (s.retry w).iqs = s.iqs := rfl
@[simp] theorem State.retry_arrs (s : State) (w : Why) : (s.retry w).arrs = s.arrs := rfl
@[simp] theorem State.retry_objs (s : State) (w : Why) : (s.retry w).objs = s.objs := rfl
@[simp] theorem State.retry_saved (s : State) (w : Why) : (s.retry w).saved = s.saved := rfl
@[simp] theorem State.retry_sup (s : State) (w : Why) : (s.retry w).sup = s.sup := rfl
@[simp] theorem State.retry_issueQ (s : State) (w : Why) : (s.retry w).issueQ = s.issueQ := rfl
@[simp] theorem State.retry_agenda (s : State) (w : Why) : (s.retry w).agenda = s.agenda := rfl
@[simp] theorem State.retry_halves (s : State) (w : Why) : (s.retry w).halves = s.halves := rfl
@[simp] theorem State.retry_freeCtr (s : State) (w : Why) : (s.retry w).freeCtr = s.freeCtr := rfl
@[simp] theorem State.retry_nextUid (s : State) (w : Why) : (s.retry w).nextUid = s.nextUid := rfl
@[simp] theorem State.retry_nextId (s : State) (w : Why) : (s.retry w).nextId = s.nextId := rfl

end Sys2Proof.Machine
end

