-- ==== Sys2Proof/Laws/Records.lean ====
section
/-!
SUPPORT. What reading a record gives after an update of the same or of another record: threads, cores, quads, banks and
dies; the register file of a thread (05 R85).
-/
namespace Sys2Proof.Machine

/-- Reading by key after a map that keeps keys. -/
theorem find?_map_key {α : Type} (key : α → Nat) (f : α → α) (g h : Nat) (l : List α)
    (hf : ∀ t, key t = g → key (f t) = g) :
    (l.map fun t => if key t == g then f t else t).find? (fun t => key t == h)
      = if h = g then (l.find? fun t => key t == g).map f else l.find? fun t => key t == h := by
  induction l with
  | nil => simp
  | cons a l ih =>
    rw [List.map_cons, List.find?_cons, List.find?_cons]
    by_cases ha : key a = g
    · have h1 := hf a ha
      by_cases hh : h = g
      · rw [if_pos (by simpa using ha)]; simp [hh, h1, ha]
      · have e1 : (key (f a) == h) = false := by rw [h1]; exact beq_false_of_ne (Ne.symm hh)
        have e2 : (key a == h) = false := by rw [ha]; exact beq_false_of_ne (Ne.symm hh)
        rw [if_pos (by simpa using ha), e1, ih, if_neg hh, if_neg hh, List.find?_cons, e2]
    · rw [if_neg (by simpa using ha), ih]
      have e3 : (key a == g) = false := beq_false_of_ne ha
      by_cases hh : h = g
      · rw [hh, e3]; simp
      · rw [if_neg hh, if_neg hh, List.find?_cons]

theorem State.thread?_modThread (s : State) (g h : Nat) (f : Thread → Thread) (hf : ∀ t, t.gid = g → (f t).gid = g) :
    (s.modThread g f).thread? h = if h = g then (s.thread? g).map f else s.thread? h :=
  find?_map_key Thread.gid f g h s.threads hf
/-- A listed thread after its own update. -/
theorem State.thread?_modThread_self (s : State) (g : Nat) (f : Thread → Thread) (m : Thread)
    (hm : s.thread? g = some m) (hf : ∀ t, t.gid = g → (f t).gid = g) : (s.modThread g f).thread? g = some (f m) := by
  simp [s.thread?_modThread g g f hf, hm]
/-- Another thread after it. -/
theorem State.thread?_modThread_other (s : State) (g h : Nat) (f : Thread → Thread)
    (hf : ∀ t, t.gid = g → (f t).gid = g) (hne : h ≠ g) : (s.modThread g f).thread? h = s.thread? h := by
  simp [s.thread?_modThread g h f hf, hne]
theorem State.thread?_gid (s : State) (g : Nat) (m : Thread) (h : s.thread? g = some m) : m.gid = g := by
  simpa using List.find?_some h
theorem State.me_of (s : State) (m : Thread) (h : s.thread? s.iss.gid = some m) : s.me = m := by
  simp [State.me, State.thread, h]

/-- Reading by key after `putRec`. -/
theorem find?_putRec {α : Type} (key : α → Nat) (a : α) (l : List α) (k : Nat) :
    (putRec key a l).find? (fun x => key x == k) = if key a = k then some a else l.find? fun x => key x == k := by
  induction l with
  | nil => by_cases h : key a = k <;> simp [putRec, h]
  | cons b l ih =>
    unfold putRec
    by_cases hb : key b = key a
    · rw [if_pos hb, List.find?_cons, List.find?_cons, hb]
      by_cases h : key a = k
      · simp [h]
      · have e : (key a == k) = false := beq_false_of_ne h
        simp [h, e]
    · rw [if_neg hb, List.find?_cons, List.find?_cons, ih]
      by_cases h : key a = k
      · have e : (key b == k) = false := beq_false_of_ne (h ▸ hb)
        simp [h, e]
      · simp [h]

@[simp] theorem State.core_setCore (s : State) (c : Core) : (s.setCore c).core c.key = c := by
  simp [State.core, State.setCore, find?_putRec]
theorem State.core_setCore_other (s : State) (c : Core) (k : Nat) (h : k ≠ c.key) : (s.setCore c).core k = s.core k := by
  simp [State.core, State.setCore, find?_putRec, State.die, Ne.symm h]
@[simp] theorem State.quad_setQuad (s : State) (q : Quad) : (s.setQuad q).quad q.key = q := by
  simp [State.quad, State.setQuad, find?_putRec]
theorem State.quad_setQuad_other (s : State) (q : Quad) (k : Nat) (h : k ≠ q.key) : (s.setQuad q).quad k = s.quad k := by
  simp [State.quad, State.setQuad, find?_putRec, Ne.symm h]
@[simp] theorem State.bank_setBank (s : State) (b : Bank) : (s.setBank b).bank b.key = b := by
  simp [State.bank, State.setBank, find?_putRec]
theorem State.bank_setBank_other (s : State) (b : Bank) (k : Nat) (h : k ≠ b.key) : (s.setBank b).bank k = s.bank k := by
  simp [State.bank, State.setBank, find?_putRec, Ne.symm h]
@[simp] theorem State.die_setDie (s : State) (d : Die) : (s.setDie d).die d.num = d := by
  simp [State.die, State.setDie, find?_putRec]
theorem State.die_setDie_other (s : State) (d : Die) (n : Nat) (h : n ≠ d.num) : (s.setDie d).die n = s.die n := by
  simp [State.die, State.setDie, find?_putRec, Ne.symm h]

/-- Register 0 reads 0 and discards writes (05 R85). -/
@[simp] theorem Thread.reg_zero (t : Thread) : t.reg 0 = 0 := rfl
@[simp] theorem Thread.setReg_zero (t : Thread) (v : Word) : t.setReg 0 v = t := rfl
/-- A written register reads back, and every other register is unchanged. -/
theorem Thread.reg_setReg (t : Thread) (r q : Nat) (v : Word) (hr : r < 32) :
    (t.setReg r v).reg q = if q = r ∧ r ≠ 0 then v else t.reg q := by
  unfold Thread.reg Thread.setReg
  by_cases h0 : r = 0
  · simp [h0]
  · by_cases hq0 : q = 0
    · simp [h0, hq0]; intro h; exact absurd h.symm h0
    · by_cases hq : q = r
      · subst hq; simp [h0, Vector.toList_setIfInBounds, List.getD, hr]
      · simp [h0, hq0, hq, Vector.toList_setIfInBounds, List.getD, Ne.symm hq]
@[simp] theorem Thread.pred_zero (t : Thread) : t.pred 0 = true := rfl
theorem Thread.pred_setPred (t : Thread) (r q : Nat) (v : Bool) (hr : r < 8) :
    (t.setPred r v).pred q = if q = r ∧ r ≠ 0 then v else t.pred q := by
  unfold Thread.pred Thread.setPred
  by_cases h0 : r = 0
  · simp [h0]
  · by_cases hq0 : q = 0
    · simp [h0, hq0]; exact Or.inl fun h => h0 h.symm
    · by_cases hq : q = r
      · subst hq; simp [h0, Vector.toList_setIfInBounds, List.getD, hr]
      · simp [h0, hq0, hq, Vector.toList_setIfInBounds, List.getD, Ne.symm hq]
/-- A register write changes the registers alone. -/
theorem Thread.setReg_eq (t : Thread) (r : Nat) (v : Word) : t.setReg r v = { t with regs := (t.setReg r v).regs } := by
  unfold Thread.setReg; split <;> rfl
@[simp] theorem Thread.setReg_gid (t : Thread) (r : Nat) (v : Word) : (t.setReg r v).gid = t.gid := by
  unfold Thread.setReg; split <;> rfl
@[simp] theorem Thread.setReg_qmap (t : Thread) (r : Nat) (v : Word) : (t.setReg r v).qmap = t.qmap := by
  unfold Thread.setReg; split <;> rfl
theorem Thread.setPred_eq (t : Thread) (r : Nat) (v : Bool) : t.setPred r v = { t with preds := (t.setPred r v).preds } := by
  unfold Thread.setPred; split <;> rfl
@[simp] theorem Thread.setPred_gid (t : Thread) (r : Nat) (v : Bool) : (t.setPred r v).gid = t.gid := by
  unfold Thread.setPred; split <;> rfl

end Sys2Proof.Machine
end

