-- ==== Sys2Proof/Laws/Ops.lean ====
section
/-!
SUPPORT. What the shared ends of an instruction do, once each: writing a register or a predicate and going on, going on
alone, transferring control, leaving rotation, asking a home and being answered.
-/
namespace Sys2Proof.Machine

theorem OnlyThread.modThread {s : State} {g : Nat} {m : Thread} (hm : s.thread? g = some m) (f : Thread → Thread)
    (hf : ∀ t, (f t).gid = t.gid) : OnlyThread s (s.modThread g f) g (f m) :=
  ⟨rfl, s.thread?_modThread_self g f m hm fun t h => (hf t).trans h,
    fun h hne => s.thread?_modThread_other g h f (fun t h => (hf t).trans h) hne⟩
/-- Two updates of one thread are one. -/
theorem State.modThread_modThread (s : State) (g : Nat) (f k : Thread → Thread) (hf : ∀ t, (f t).gid = t.gid) :
    (s.modThread g f).modThread g k = s.modThread g fun t => k (f t) := by
  simp only [State.modThread, List.map_map]
  congr 1
  refine List.map_congr_left fun t _ => ?_
  by_cases h : (t.gid == g) = true
  · have h' : ((f t).gid == g) = true := by rw [hf]; exact h
    simp only [Function.comp, h, h', if_true]
  · simp only [Function.comp, h, if_false, Bool.false_eq_true]

theorem State.put_plain {s : State} {m : Thread} (hm : s.thread? s.iss.gid = some m) (hq : m.qmap = 0) (d : Reg) (v : Word) :
    s.put d v = s.modMe (·.setReg d.val v) := by
  simp [State.put, State.putN, s.me_of m hm, Thread.mapped, hq]
theorem State.g_plain {s : State} {m : Thread} (hm : s.thread? s.iss.gid = some m) (hq : m.qmap = 0) (r : Reg) :
    s.g r = m.reg r.val := by
  simp [State.g, State.gN, s.me_of m hm, Thread.mapped, hq]

/-- Going on: the PC of the issuing thread becomes that of the next head. -/
theorem State.ok_wentOn {s : State} {m : Thread} (h : s.issues m) : ∃ t, s.ok = .next t ∧ WentOn s t := by
  obtain ⟨hm, hj, -, -⟩ := h
  refine ⟨s.advance, rfl, m, hm, ?_⟩
  rw [State.advance, if_neg (by simp [hj])]
  exact OnlyThread.modThread hm _ fun _ => rfl
/-- Writing a result register and going on. -/
theorem State.res_wrote {s : State} {m : Thread} (h : s.issues m) (d : Reg) (v : Word) :
    ∃ t, s.res d v = .next t ∧ Wrote s t d v := by
  obtain ⟨hm, hj, hq, -⟩ := h
  refine ⟨(s.put d v).advance, rfl, m, hm, ?_⟩
  rw [State.put_plain hm hq, State.advance, if_neg (by simp [State.modMe, State.modThread, hj]), State.modMe, State.modMe]
  show OnlyThread s ((s.modThread s.iss.gid _).modThread s.iss.gid _) _ _
  rw [State.modThread_modThread _ _ _ _ fun t => t.setReg_gid _ _]
  exact OnlyThread.modThread hm _ fun t => t.setReg_gid _ _
/-- Writing a result predicate and going on. -/
theorem State.resP_wrote {s : State} {m : Thread} (h : s.issues m) (p : PReg) (v : Bool) :
    ∃ t, s.resP p v = .next t ∧ WroteP s t p v := by
  obtain ⟨hm, hj, -, -⟩ := h
  refine ⟨(s.putP p v).advance, rfl, m, hm, ?_⟩
  rw [State.putP, State.advance, if_neg (by simp [State.modMe, State.modThread, hj]), State.modMe, State.modMe]
  show OnlyThread s ((s.modThread s.iss.gid _).modThread s.iss.gid _) _ _
  rw [State.modThread_modThread _ _ _ _ fun t => t.setPred_gid _ _]
  exact OnlyThread.modThread hm _ fun t => t.setPred_gid _ _
/-- Transferring control. -/
theorem State.jump_wentTo {s : State} {m : Thread} (h : s.issues m) (pc : Nat) : WentTo s (s.jump pc) pc := by
  obtain ⟨hm, -, -, hf⟩ := h
  refine ⟨m, hm, ?_⟩
  have e : s.jump pc = ({ s with iss := { s.iss with jumped := true } } : State).modThread s.iss.gid fun t => { t with pc := wd pc } := by
    simp [State.jump, State.modMe, State.modThread, hf]
  rw [e]
  exact OnlyThread.modThread (s := { s with iss := { s.iss with jumped := true } }) hm (fun t => { t with pc := wd pc }) fun _ => rfl
/-- Leaving rotation until what the instruction waits for is over, with no effect yet. -/
theorem State.retry_retries {s : State} {m : Thread} (hm : s.thread? s.iss.gid = some m) (why : Why) : Retries s (s.retry why) m why :=
  OnlyThread.modThread (s := { s with iss := { s.iss with again := true } }) hm
    (fun t => { t with wait := some { why := why, again := true, half := s.iss.half, fin := s.doneTo 0 0 0 8 false }, pc := wd s.iss.pc }) fun _ => rfl
/-- Waiting for the answer of a home that this issue's effect has already reached (02 R24). -/
theorem State.repliedAs_replies {s : State} {m : Thread} (hm : s.thread? s.iss.gid = some m) (op : ReqOp) (home v v2 : Nat) (p : Bool) (fin : Done) :
    ∃ t, s.repliedAs op home v v2 p fin = .next t ∧ RepliesAs s t m op home v v2 p fin := by
  let r := s.newAnswer op home { val := v, val2 := v2, pred := p, trap := none }
  have e := s.me_of m hm
  refine ⟨_, rfl, r, rfl, congrArg Thread.gid e, congrArg Thread.uid e, congrArg Thread.seq e, rfl, rfl, congrArg Thread.dom e, rfl, rfl, rfl, ?_⟩
  exact OnlyThread.modThread (s := { s with reqs := s.reqs ++ [r], nextId := s.nextId + 1 }) hm
    (fun t => { t with wait := some { why := .reply s.nextId, again := false, half := s.iss.half, fin := fin }, pc := wd s.iss.pc }) fun _ => rfl
/-- The same where the answer is a word for register `d`. -/
theorem State.reply_replies {s : State} {m : Thread} (hm : s.thread? s.iss.gid = some m) (d : Reg) (home v : Nat) :
    ∃ t, s.reply d home v = .next t ∧ Replies s t m home v 0 false (s.doneTo d.val 0 0 8 false) :=
  State.repliedAs_replies hm .asked home v 0 false _
/-- A request of the issuing thread as it sets out. -/
theorem State.newReq_made {s : State} {m : Thread} (hm : s.thread? s.iss.gid = some m) (op : ReqOp) (k n va sc : Nat) (rel acq posted : Bool) :
    Made s m (s.newReq s.iss.gid op k n va sc rel acq posted) op k n va sc rel acq posted := by
  have e := s.me_of m hm
  exact ⟨rfl, congrArg Thread.gid e, congrArg Thread.uid e, congrArg Thread.seq e, rfl, rfl, rfl, rfl, rfl, rfl, rfl, rfl, congrArg Thread.dom e,
    rfl, rfl, rfl, rfl⟩
/-- Asking a home and waiting for its reply. -/
theorem State.ask_asked {s : State} {m : Thread} (hm : s.thread? s.iss.gid = some m) (op : ReqOp) (k n va sc : Nat) (rel acq : Bool) (fin : Done) :
    ∃ t, s.ask op k n va sc rel acq fin = .next t ∧ Asked s t m op k n va sc rel acq fin := by
  refine ⟨_, rfl, s.newReq s.iss.gid op k n va sc rel acq false, s.newReq_made hm op k n va sc rel acq false, ?_⟩
  show OnlyThread _ ((State.modThread _ s.iss.gid _).modThread s.iss.gid _) _ _
  rw [State.modThread_modThread _ _ (fun t => { t with seq := t.seq + 1 }) _ fun _ => rfl]
  exact OnlyThread.modThread (s := { s with reqs := s.reqs ++ [_], nextId := s.nextId + 1 }) hm _ fun _ => rfl
/-- Posting to a home with room in the store buffer (02 R24). -/
theorem State.post_posted {s : State} {m : Thread} (h : s.issues m) (hr : s.bufferRoom 1 = true) (op : ReqOp) (k n va sc : Nat) (rel : Bool) :
    ∃ t, s.post op k n va sc rel = .next t ∧ PostedReq s t m op k n va sc rel := by
  obtain ⟨hm, hj, -, -⟩ := h
  refine ⟨(s.postReq op k n va sc rel).advance, by rw [State.post, if_pos hr]; rfl, s.newReq s.iss.gid op k n va sc rel false true,
    s.newReq_made hm op k n va sc rel false true, ?_⟩
  rw [State.advance, if_neg (by show ¬(s.iss.jumped = true); simp [hj])]
  show OnlyThread _ ((State.modThread _ s.iss.gid _).modThread s.iss.gid _) _ _
  rw [State.modThread_modThread _ _ (fun t => { t with seq := t.seq + 1 }) _ fun _ => rfl]
  exact OnlyThread.modThread (s := { s with reqs := s.reqs ++ [_], nextId := s.nextId + 1 }) hm _ fun _ => rfl

end Sys2Proof.Machine
end

