-- ==== Sys2Proof/Tests/Slice0.lean ====
section
/-!
SUPPORT. Tests: words the spec writes out and what they decode to; ill-formed terms that the check refuses; single steps on
small states; and, for each statement with hypotheses, a state and operands that meet them (`witness_`, named after the
statement or the clause).
-/
namespace Sys2Proof.Tests
set_option Elab.async false
open Sys2Proof Sys2Proof.Machine

/-! ## Words of the spec -/

/-- A head decoded from its words: the instruction, its predicate and the sense of it. -/
def word (ws : List Nat) : Option (Instr × Nat × Bool) := (decodeWords ws).map fun o => (o.instr, o.p.val, o.pn)

theorem test_word_brc : word [0x02C0, 0x2142, 0x0006, 0xFFC0, 0xFFFF] = some (.brc 6 4 5 2 (-64), 0, false) := by decide
theorem test_word_fence : word [0x5280, 0x0002, 0x7000] = some (.fence 2, 3, true) := by decide
theorem test_word_fence_core : word [0x5200] = some (.fenceCore, 0, false) := by decide
theorem test_word_add : word [0x1843, 0x0881] = some (.add 3 1 2 .e32, 0, false) := by decide
theorem test_word_sar : word [0x29C6, 0x3802, 0, 3, 0] = some (.sarImm 6 7 .e16 3, 0, false) := by decide
theorem test_word_cmpi : word [0x32C1, 0x2000, 0, 0, 0] = some (.cmpi 1 4 0 0, 0, false) := by decide
theorem test_word_updcfg : word [0x4DC4, 0x1880, 0x2000, 0, 0] = some (.updcfgLd 4 3 2 0, 1, false) := by decide
theorem test_word_upd : word [0x4B80, 0x5B00, 0] = some (.upd 11 12 0 0, 0, false) := by decide
theorem test_word_bar_drn : word [0x5540, 0x100A] = some (.barDrain 0 2 0 0 0 2, 0, false) := by decide
/-- `bar.die g3, [g2]` with `b` = 5, which that form does not read (09 R173; 03 R59). -/
theorem test_word_bar_object : word [0x5543, 0x1142] = some (.barObject 3 2 2, 0, false) := by decide
theorem test_word_lrw : word [0x4F4A, 0x1053] = some (.lrw 10 1 2 2 false .d, 0, false) := by decide
theorem test_word_sch : word [0x5043, 0x1AD3] = some (.sch 3 3 11 2 .d, 0, false) := by decide
theorem test_word_rsvx : word [0x5140, 0x1000] = some (.rsvx 2, 0, false) := by decide
theorem test_word_wdarm : word [0x6743, 0x3800] = some (.wdarm 3 7, 0, false) := by decide
theorem test_word_pkt_beg : word [0xBF8B, 0x4000, 0x2000] = some (.pktBeg 11 8, 1, false) := by decide
theorem test_word_mmul : word [0x9DCC, 0x3800, 0x2000, 0x0002, 0x000B] = some (.mmul 12 7 0 0x000B0002, 1, false) := by decide
theorem test_word_vtopk : word [0x9485, 0x2098, 0x0004] = some (.vtopk 5 4 2 4 true 8, 0, false) := by decide
theorem test_word_vmrgk_bank : word [0x9583, 0x2808, 0x0004] = some (.vmrgkBank 3 5 4 8, 0, false) := by decide
theorem test_word_vsmx : word [0x9649, 0x8008] = some (.vsmx 9 16 false 8, 0, false) := by decide
theorem test_word_vsmn : word [0x9754, 0x8248] = some (.vsmn 20 16 9 false 8, 0, false) := by decide
theorem test_word_rng : word [0x994B, 0xCE80] = some (.rng 11 25 26, 0, false) := by decide
theorem test_word_vsamp : word [0x989B, 0xA2C8, 0] = some (.vsamp 27 20 11 8, 0, false) := by decide
theorem test_word_vscl : word [0x8550, 0x8048] = some (.vscl 16 16 1 8, 0, false) := by decide
theorem test_word_vadd_th : word [0x6845, 0x31DA] = some (.vadd 5 6 7 true 10, 0, false) := by decide
theorem test_word_iqbind : word [0xBD85, 0x1180, 0x0002] = some (.iqbind 5 2 6 2, 0, false) := by decide
theorem test_word_cpyqw : word [0xAD88, 0x2000, 0] = some (.cpyqw 8 4, 0, false) := by decide
theorem test_word_waitm : word [0xB14B, 0] = some (.waitm 11, 0, false) := by decide
theorem test_word_iqpop : word [0xB948, 0x1040] = some (.iqpop 8 1 2, 0, false) := by decide
theorem test_word_arradd : word [0xBC80, 0x2240, 0x0600] = some (.arradd 4 9 12, 0, false) := by decide
theorem test_word_arrget : word [0xBB91, 0x2380, 0x0180] = some (.arrget 17 3 4 14, 0, false) := by decide
theorem test_word_iqpush : word [0xB893, 0x1E00, 0xA000] = some (.iqpush 19 3 24, 5, false) := by decide
theorem test_word_msnd : word [0x3540, 0x2802] = some (.msndWrite 0 5, 0, false) := by decide
theorem test_word_mrcv : word [0x3546, 0x0041] = some (.mrcvRead 6, 0, false) := by decide
/-- Written from R53, R54, R59 and R90: `emit 133`, opcode 0x09, F2, with signal bits 11:7 in `c` and 6:0 in `e`. -/
theorem test_word_emit : word [0x0980, 0x0000, 0x0085] = some (.emit (.imm 133), 0, false) := by decide
/-- Written from R53, R54 and R312: `relay g1, g2, g3, g4, 3`, opcode 0xA5, F2. -/
theorem test_word_relay : word [0xA581, 0x10C0, 0x0203] = some (.relay 1 2 3 4 3, 0, false) := by decide
/-- The reserved `m` of `and` must be zero (R103, R59). -/
theorem test_word_reserved : word [0x2241, 0x1081] = none := by decide
/-- A tail shorter than the opcode's is illegal (R54, R64): `add` with F0. -/
theorem test_word_short : word [0x1803] = none := by decide

/-! ## Ill-formed terms (R59, R62 and the range sentences of the instruction chapters) -/

/-- Whether the check refuses every term. -/
def refused (l : List Instr) : Bool := l.all fun i => !wellFormed i

theorem test_wf_scalar : refused [
    .brc 10 1 2 3 0, .loop 0 1 0, .bfx 1 2 0 0 0, .bfx 1 2 0 65 0, .bfx 1 2 60 5 0, .bfx 1 2 0 1 2, .bfi 1 2 0 0, .bfi 1 2 63 2,
    .cmp 1 2 3 10, .cmpi 1 2 10 0, .movFromSpecial 1 1, .movFromSpecial 1 10, .msndWrite 1 2, .msndWrite 10 2, .plog 1 2 3 6,
    .plog 1 2 3 5, .lea 1 2 3 4 0, .cvti 1 2 6, .fadd 1 2 3 5, .fmul 1 2 3 5, .ffma 1 2 3 4 5, .fcmp 1 2 3 8] = true := by decide
theorem test_wf_memory : refused [
    .ld 1 2 true .d 0, .ldfe 1 2 0 true .d 0, .ldff 1 2 0 true .d 0, .ldp 1 2 0, .ldp 0 2 0, .stp 2 3 0, .ldc 1 2 3 true .d 0,
    .upd 1 2 16 0, .updr 1 2 3 4 16 0, .updcfgLd 1 2 3 16, .updcfgSt 1 2 16, .updcfgClr 1 2 16, .cas 1 2 3 4 0 true .d,
    .lrw 1 2 3 0 true .d, .fenceDrn 1, .lda 1 2 0 true .d 0, .barDrain 1 0 2 3 0 2,  .barinit 1 2 3 2 0,
    .swap 1 2 3 0 true .d, .stm 1 2 3 0 0, .stm 1 2 3 5 0, .stm 1 30 3 3 0, .fetchadd 1 2 3 0 true .d,
    .fetchaddImm 1 2 3 0 true .d 0, .zfill 1 3 0] = true := by decide
theorem test_wf_system : refused [
    .trapNothing 1 2, .srr 1 13 0, .srr 1 0 15, .srw 1 4 0, .srw 1 13 0, .srw 1 0 15, .srwEbud 1 15, .monSel 1 4 2, .monEdge 4 1,
    .monRd 1 4 2, .monOff 4] = true := by decide
theorem test_wf_vector_sets : refused [
    .vadd 4 8 12 false 13, .vsub 4 8 12 false 14, .vmul 4 8 13 false 8, .vfma 4 8 12 28 false 8, .vdiv 2 8 12 false 8,
    .vmin 0 8 12 false 8, .vmax 4 0 12 false 8, .vabs 4 8 true 13, .vneg 4 9 false 8, .vcmp 4 8 12 8 false 8, .vcmp 4 8 12 10 false 0,
    .vsel 4 8 12 16 true 14, .vand 4 8 13 false 0, .vor 4 8 12 true 13, .vxor 5 8 12 false 0, .vshl 4 8 12 false 8,
    .vshr 4 8 12 false 9, .vsar 4 8 12 false 11, .vexp 4 8 false 0, .vexp2 4 8 false 7, .vlog 4 8 false 11, .vrcp 4 8 false 12,
    .vrsq 4 8 false 13, .vsqrt 4 8 false 14, .vtanh 4 28 false 8, .vsgm 3 8 false 8, .vsilu 4 8 false 1] = true := by decide
theorem test_wf_vector_conversions : refused [
    .vcvt 4 8 8 9 false 5, .vcvt 4 8 15 9 false 0, .vcvt 4 8 8 41 false 0, .vcvt 4 8 13 9 true 0, .vqnt 4 8 12 8 8 false 0,
    .vqnt 4 8 12 13 7 false 0, .vqnt 4 8 12 13 8 true 0, .vdeq 4 8 12 7 13 false 0, .vdeq 4 8 12 8 12 false 0, .vdeq 4 8 12 8 13 true 0,
    .vscl 4 8 1 11, .vfill 4 8 true 13, .vcpy 4 9 false 8, .vbcast 5 8 1 8, .vperm 4 8 12 17 8, .vclamp 4 8 12 16 false 13,
    .vround 4 8 13 false 0, .vround 4 8 8 false 5, .vdot 4 9 12 false 8, .vlerp 4 8 12 16 false 0, .vnorm 4 8 12 false 0,
    .vmask 5 8 12 false 8] = true := by decide
theorem test_wf_vector_reductions : refused [
    .vsum 4 9 false 8, .vrmax 4 8 false 13, .vrmin 4 8 false 14, .vscan 5 8 false 8, .vtopk 4 8 12 4 false 8, .vtopk 4 8 12 0 true 8,
    .vtopk 4 8 12 65 true 8, .vtopk 4 8 12 4 true 3, .vmrgkLocal 4 8 0 4 8, .vmrgkLocal 4 8 12 65 8, .vmrgkBank 4 8 0 8,
    .vmrgkBank 4 8 4 7, .vsmx 4 8 false 0, .vsmn 5 8 12 false 8, .vsamp 4 8 12 9, .vsamp 4 9 12 8, .rng 4 0 8, .vrng 4 0 8 false 8,
    .vrng 4 8 12 false 11, .vcnt 4 9 false 8] = true := by decide
theorem test_wf_tensor : refused [
    .mload 1 2 8 0, .mload 1 2 0 16, .mmul 1 2 16 1, .mmul 1 2 0 0, .mmul 1 2 0 65, .mmul 1 2 0 0x00000081, .mmul 1 2 0 0x00200001,
    .mcfgMask 1 2 3 4 65, .mstat 0, .mstat 30, .thdef 1 2 3 0 5, .thdef 1 2 3 4 0, .thld 5 8 12 16 false 8, .thld 4 8 12 16 true 8,
    .thst 5 8 12 16 false 8, .thst 4 8 12 0 true 13, .relay 1 2 3 4 7, .thqry 1 2 3] = true := by decide
theorem test_wf_messages : refused [
    .send 1 0 1, .send 1 2 0, .send 1 30 3, .send 1 2 8, .recvWait 0, .recvWait 25, .recvPoll 0 1, .recvPoll 25 1, .cont 1 0,
    .cpyq 1 5, .cpyqw 1 0, .gath 1 28 false, .scat 1 6 true, .rspawn 1 2 3 4 0, .spawn 1 0 4 5 0, .spawn 1 2 5 5 0, .fjoin 1 2 0,
    .qmapSet 28 1, .qmapSet 1 28, .qmapOff 28, .iqpush 1 2 3, .iqpop 5 1 2, .iqbind 1 2 3 4] = true := by decide
/-- The boundaries that are well formed. -/
theorem test_wf_boundaries : [
    Instr.bfx 1 2 63 1 1, .bfi 1 2 0 64, .brc 9 1 2 3 0, .stm 1 28 3 4 0, .send 1 25 7, .relay 1 2 3 4 6, .mmul 1 2 15 64,
    .mcfgMask 1 2 3 4 64, .mstat 29, .recvWait 24, .vtopk 4 8 12 64 true 8, .vcvt 24 4 11 0x28 false 4, .vadd 31 31 31 true 12,
    .srr 1 12 31, .fenceDrn 2, .zfill 1 2 0].all wellFormed = true := by decide

/-! ## Small states -/

def part0 : Partition := { num := 0, policy := 0, keys := [], roots := [], faultQ := none, recNum := 0, rates := [], buckets := [] }
def sig0 : Sig := { st := 0, out := false, cmb := 0, ty := 0, cnt := 0, inst := 1, pst := 2, val := 0, prev := 0 }
/-- A domain in instant 1 with two undecided signals and an image of 256 bytes of zeros, which hold no legal line. -/
def dom0 : Domain :=
  { num := 0, stat := .reacting, fn := 1, part := 0, asid := 0, seed := 7, wdlim := 0, home := 0, sigOff := 0, sigs := [sig0, sig0],
    inst := 1, inputs := [], outs := [], endWord := 0, endVal := 0, endTval := 0, code := [(4 * 2 ^ 60, 256)], forks := [], tidCtr := 1,
    largs := Vector.replicate 4 0, suspendTo := none, saveAt := none }
/-- Thread 0 (slot 0 of core 0) with some registers set. -/
def thr (rs : List (Nat × Word) := []) : Thread := rs.foldl (fun t r => t.setReg r.1 r.2) (Thread.fresh 0 1 0)
/-- The state in which thread `m` issues at slot 1 of the first line; quad 0 is partition 0's. -/
def one (m : Thread) (d : Domain := dom0) : State :=
  { State.reset with
    parts := [part0], domains := [d], threads := [m], quads := [{ Quad.fresh 0 with part := some 0 }], nextUid := 2, nextId := 1,
    iss := { Issue.none with gid := m.gid, pc := 4 * 2 ^ 60 + 1, succ := 4 * 2 ^ 60 + 2, opc := 0x18 } }

def page (perm : Nat) : Tlb := { asid := 0, sel := 4, va := 0, size := 65536, pa := 0, perm := perm }
/-- Thread `m` with a page of DRAM in the quad's table; its partition has the vaults of quads 0 and 1. -/
def paged (m : Thread) (perm : Nat := 7) : State :=
  { one m with quads := [{ Quad.fresh 0 with part := some 0, tlb := [page perm] }, { Quad.fresh 1 with part := some 0 }] }
theorem issues_one (rs : List (Nat × Word)) : (one (thr rs)).issues (thr rs) := by
  have h : ∀ (l : List (Nat × Word)) (t : Thread), t.gid = 0 → t.qmap = 0 →
      (l.foldl (fun t r => t.setReg r.1 r.2) t).gid = 0 ∧ (l.foldl (fun t r => t.setReg r.1 r.2) t).qmap = 0 := by
    intro l
    induction l with
    | nil => exact fun _ a b => ⟨a, b⟩
    | cons x l ih =>
      intro t a b
      exact ih _ (by show (t.setReg x.1 x.2).gid = 0; unfold Thread.setReg; split <;> exact a)
        (by show (t.setReg x.1 x.2).qmap = 0; unfold Thread.setReg; split <;> exact b)
  obtain ⟨a, b⟩ := h rs (Thread.fresh 0 1 0) rfl rfl
  exact ⟨by simp [one, State.thread?, thr], rfl, b, rfl, rfl⟩

/-! ## Witnesses: scalar instructions, control and traps -/

theorem witness_IntegerElements : (one (thr [(1, 5)])).issues (thr [(1, 5)]) := issues_one _
theorem witness_DivisionElements : (one (thr [(1, 5)])).issues (thr [(1, 5)]) ∧ (thr [(1, 5)]).reg 2 = 0 := ⟨issues_one _, by decide⟩
theorem witness_ShiftElements : (one (thr [(1, 64)])).issues (thr [(1, 64)]) := issues_one _
theorem witness_BitResults : (one (thr [])).issues (thr []) ∧ 1 ≤ (64 : Fin 128).val ∧ (0 : Fin 64).val + (64 : Fin 128).val ≤ 64 :=
  ⟨issues_one _, by decide⟩
theorem witness_CompareResults : (one (thr [])).issues (thr []) ∧ (9 : Fin 64).val < 10 := ⟨issues_one _, by decide⟩
theorem witness_MoveResults : (one (thr [(1, 1)])).issues (thr [(1, 1)]) := issues_one _
theorem witness_FloatResults : (one (thr [])).issues (thr []) ∧ (4 : Fin 64).val < 5 ∧ (5 : Fin 64).val < 6 := ⟨issues_one _, by decide⟩
/-- A NaN, the two infinities, and an infinity with a zero. -/
theorem witness_FloatSpecialCases : (∀ rs, (one (thr rs)).issues (thr rs)) ∧ (3 : Fin 64).val < 4 ∧
    0x7F800000 < 0x7F800001 % 2 ^ 31 ∧ 0xFF800000 % 2 ^ 31 = 0x7F800000 ∧ 0x80000000 % 2 ^ 31 = 0 := ⟨issues_one, by decide⟩
theorem witness_FloatRoundTrip : ∀ f ∈ [8, 9, 10], 1 < 2 ^ fmtWidth f ∧ (fdecode f 1).isNaN = false := by decide
theorem witness_FloatCompares : (one (thr [])).issues (thr []) ∧ (7 : Fin 64).val < 8 ∧ 8 ≤ (8 : Fin 64).val := ⟨issues_one _, by decide⟩
theorem witness_RegisterFile : (31 : Fin 32) ≠ 0 ∧ (30 : Fin 32) ≠ 31 ∧ (7 : Fin 8) ≠ 0 ∧ (6 : Fin 8) ≠ 7 := by decide
def mapped : Thread := { thr [] with qmap := 2 }
theorem witness_MappedDestination : (one mapped).thread? (one mapped).iss.gid = some mapped ∧ (one mapped).iss.jumped = false ∧
    mapped.qmap ≠ 0 ∧ 28 ≤ (28 : Reg).val ∧ (27 : Reg).val < 28 := by decide +kernel
/-- A legal target: slot 31 of the same line, whose bytes hold no legal line; the same where its page has no translation; a count of
1 for `loop` to end on, and of 2. -/
theorem witness_Transfers : (∀ rs, (one (thr rs)).issues (thr rs)) ∧ (paged (thr [])).issues (thr []) ∧
    (paged (thr [])).targetOk 0 (4 * 2 ^ 60 + 31) = true ∧ (paged (thr [])).targetMiss 0 (4 * 2 ^ 60 + 31) = none ∧
    (one (thr [])).targetMiss 0 (4 * 2 ^ 60 + 31) = some (4 * 2 ^ 60) ∧ (thr [(1, 1)]).reg 1 - 1 = 0 ∧ (thr [(1, 2)]).reg 1 - 1 ≠ 0 :=
  ⟨issues_one, by unfold State.issues; decide +kernel⟩
/-- Slot 0, slot 32, a displacement that is no multiple of 64, and a line past the image. -/
theorem witness_TransferTraps : (∀ rs, (one (thr rs)).issues (thr rs)) ∧ (1 : BitVec 32).toNat % 64 ≠ 0 ∧ (0 : Fin 64).val = 0 ∧
    31 < (32 : Fin 64).val ∧ (one (thr [])).targetOk 0 (4 * 2 ^ 60 + 257) = false ∧ (thr []).reg 1 ≠ 1 :=
  ⟨issues_one, by decide +kernel⟩
def enabled (cls : Nat) : Thread := { thr [] with uien := BitVec.ofNat 64 (2 ^ cls), uih := BitVec.ofNat 64 (4 * 2 ^ 60 + 1) }
theorem witness_TrapToHandler : ∀ c ∈ [1, 14], let m := enabled c
    (one m).thread? (one m).iss.gid = some m ∧ (one m).iss.gid % 16 ≠ 15 ∧ 1 ≤ c ∧ c ≤ 14 ∧ m.handler = false ∧
    m.uien.getLsbD c = true ∧ (one m).targetOk 0 m.uih.toNat = true := by decide +kernel
theorem witness_TrapToSupervisor : ∀ c ∈ [1, 13, 14], ∀ h ∈ [true, false], h = false ∨ c ≠ 13 → let m := { thr [] with handler := h }
    (one m).thread? (one m).iss.gid = some m ∧ (one m).iss.gid % 16 ≠ 15 ∧ 1 ≤ c ∧ c ≤ 14 ∧
    ((m.handler = true ∧ c ≠ 13) ∨ (m.handler = false ∧ (m.uien.getLsbD c = false ∨ (one m).targetOk 0 m.uih.toNat = false))) := by
  decide +kernel
/-- In a handler, in slot 15 with a trapped sibling, and outside both. -/
def inHandler : Thread := { thr [] with handler := true, epc := BitVec.ofNat 64 (4 * 2 ^ 60 + 1) }
def slot15 : Thread := { Thread.fresh 15 2 0 with uid := 2 }
def trapped0 : SupTrap := { core := 0, gid := 0, uid := 1, dom := 0, kind := 7, cls := 8, tval := 0, epc := 0, service := none }
def super : State := { one slot15 with threads := [thr [], slot15], sup := [trapped0] }
theorem witness_ReturnFromTrap :
    ((one inHandler).issues inHandler ∧ (one inHandler).iss.gid % 16 ≠ 15 ∧ inHandler.handler = true ∧
      (one inHandler).targetOkAs 0 inHandler.epc.toNat (inHandler.cause.getLsbD 9) = true) ∧
    (super.issues slot15 ∧ super.iss.gid % 16 = 15 ∧ super.sup.find? (fun x => x.core == gidCk super.iss.gid) = some trapped0 ∧
      super.thread? trapped0.gid = some (thr [])) ∧
    (one (thr [])).issues (thr []) ∧ (thr []).handler = false := by
  unfold State.issues; decide +kernel

/-! ## Witnesses: signals, guards, reactions -/

/-- The domain with its first signal as given, and a thread with claims. -/
def domSig (e : Sig) : Domain := { dom0 with sigs := [e, sig0] }
def claimer (l : List Claim) : Thread := { thr [] with claims := l }
def present : Sig := { sig0 with st := 1 }
def absent : Sig := { sig0 with st := 2 }
theorem witness_EntryInInstant : sig0.inst < 2 ^ 24 ∧ sig0.inst = 1 % 2 ^ 24 ∧ sig0.inst ≠ 2 % 2 ^ 24 ∧
    sig0.inst = (2 + 2 ^ 24 - 1) % 2 ^ 24 ∧ sig0.inst ≠ (3 + 2 ^ 24 - 1) % 2 ^ 24 := by decide
/-- A request that stands at its home. -/
def req (op : ReqOp) (key : Nat) : Req :=
  { id := 0, gid := 0, uid := 1, seq := 0, op := op, key := key, len := 8, va := key, place := 0, scope := 0, rel := false, acq := false,
    posted := false, part := 0, dom := 0, prio := 0, res := none, resendAt := 0, bucket := false, comb := [], carried := false, born := 0,
    hop := { chan := 0, cur := 0, dst := 0, mid := none, port := .here, since := 0, age := 0, urgent := false } }
def arrived (op : ReqOp) (key : Nat) (f : Req → Req := id) : State := { one (thr []) with reqs := [f (req op key)] }
theorem witness_Emissions : ∀ e ∈ [sig0, present, absent], let s := one (thr []) (domSig e);
    s.signals (thr []) (domSig e) (.imm 0) 0 e ∧ s.releaseDue = false ∧ s.parkedOn (sigObj 0 0) okSig = [] ∧
    ({ s with reqs := [{ req (.store [0] 1) (2 * 2 ^ 60) with posted := true }] } : State).releaseDue = true := by
  unfold State.signals State.issues; decide +kernel
/-- The same with an earlier cede of thread 0 under way to the signal's word. -/
def ceding (s : State) (k : Nat) : State := { s with reqs := [{ req (.cede 0) k with posted := true }] }
/-- A remembered status; a decided signal; an undecided one with no claim and no holder; an earlier cede under way and none. -/
def remembers : State := { one (thr []) with cores := [{ Core.fresh 0 with status := [(0, 0, true)] }] }
theorem witness_SignalReads :
    (remembers.signals (thr []) dom0 (.imm 0) 0 sig0 ∧
      (remembers.core remembers.myCore).status.find? (fun x => x.1 == 0 && x.2.1 == 0) = some (0, 0, true)) ∧
    ∀ e ∈ [sig0, present, absent], let s := one (thr []) (domSig e);
      s.signals (thr []) (domSig e) (.imm 0) 0 e ∧ (s.core s.myCore).status.find? (fun x => x.1 == 0 && x.2.1 == 0) = none ∧
      (thr []).wait = none ∧ s.claimsOn 0 0 = 0 ∧ s.holdEdges (sigObj 0 0) = [] ∧ e.cnt = 0 ∧
      s.wordsDue (thr []).uid ((domSig e).sigKey 0 0) 8 = false ∧
      (ceding s ((domSig e).sigKey 0 0)).wordsDue (thr []).uid ((domSig e).sigKey 0 0) 8 = true := by
  unfold State.signals State.issues; decide +kernel
/-- A claim held; eight others held; the count at its largest; an absent signal; a new claim. -/
theorem witness_ClaimResults :
    (let m := claimer [{ sig := 0, live := true }];
      (one m).signals m dom0 (.imm 0) 0 sig0 ∧ m.claims.any (·.sig == 0) = true) ∧
    (let m := claimer (List.replicate 8 { sig := 1, live := true });
      (one m).signals m dom0 (.imm 0) 0 sig0 ∧ m.claims.any (·.sig == 0) = false ∧ 8 ≤ m.claims.length) ∧
    (∀ e ∈ [{ sig0 with cnt := 1048575 }, { sig0 with cnt := 1048574, st := 2 }, sig0], let s := one (thr []) (domSig e);
      s.signals (thr []) (domSig e) (.imm 0) 0 e ∧ (thr []).claims.any (·.sig == 0) = false ∧ (thr []).claims.length < 8 ∧
      s.parkedOn (sigObj 0 0) okSig = [] ∧ s.wordsDue (thr []).uid ((domSig e).sigKey 0 0) 8 = false ∧
      (ceding s ((domSig e).sigKey 0 0)).wordsDue (thr []).uid ((domSig e).sigKey 0 0) 8 = true) := by
  unfold State.signals State.issues; decide +kernel
theorem witness_CedeAndUnclaim : ∀ l ∈ [true, false], let m := claimer [{ sig := 0, live := l }];
    (one m).signals m dom0 (.imm 0) 0 sig0 ∧ (m.claims.any fun c => c.sig == 0 && c.live) = l ∧ (one m).bufferRoom 1 = true := by
  unfold State.signals State.issues; decide +kernel
theorem witness_CedeAtEntry : let r := req (.cede 0) 0
    let s := { one (thr []) (domSig { sig0 with cnt := 1 }) with reqs := [r] };
    s.reqs.find? (·.id == r.id) = some r ∧ r.op = .cede 0 ∧ s.mayPerform r = true ∧
    s.domain? r.dom = some (domSig { sig0 with cnt := 1 }) ∧ 0 < (domSig sig0).sigs.length ∧ s.mem.wf = true ∧ s.parkedOn (sigObj r.dom 0) okSig = [] := by
  decide +kernel
def guarded (n : Nat) : Thread :=
  { thr [] with guards := (List.range n).map fun i => { abort := false, sig := 1, exit := 0, id := i, own := true } }
/-- Room for an eighth guard and none for a ninth; a legal and an illegal exit; a guard to end and none. -/
theorem witness_GuardEntries :
    (let m := guarded 7; (paged m).signals m dom0 (.imm 0) 0 sig0 ∧ m.guards.length < 8 ∧ (paged m).tgtOk 0 1 = true ∧
      (paged m).targetMiss 0 ((paged m).tgt 0 1) = none ∧ (paged m).tgtOk 0 0 = false ∧ m.guards ≠ []) ∧
    (let m := guarded 8; (one m).signals m dom0 (.imm 0) 0 sig0 ∧ 8 ≤ m.guards.length) ∧
    (one (thr [])).issues (thr []) ∧ (one (thr [])).iss.gid % 16 ≠ 15 ∧ (thr []).guards = [] := by
  unfold State.signals State.issues; decide +kernel
theorem witness_SignalNumberTraps : (one (thr [])).issues (thr []) ∧ (one (thr [])).iss.gid % 16 ≠ 15 ∧
    (one (thr [])).domain? 0 = some dom0 ∧ dom0.sigs.length ≤ (one (thr [])).sigNo (.imm 2) := by
  unfold State.issues; decide +kernel
theorem witness_InstResults : (one (thr [])).issues (thr []) ∧ (one (thr [])).iss.gid % 16 ≠ 15 ∧
    (one (thr [])).domain? (thr []).dom = some dom0 := by
  unfold State.issues; decide +kernel
theorem witness_PauseAndHalt : let s := one (thr []);
    s.issues (thr []) ∧ s.iss.gid % 16 ≠ 15 ∧ s.ownsEntries = false ∧ s.gangOf s.iss.gid = [] ∧ (thr []).claims = [] ∧
    (thr []).wait = none ∧ (thr []).task = false ∧ (thr []).postDue = 0 ∧ s.unwatched (thr []) := by
  unfold State.issues State.unwatched; decide +kernel
def parent (n : Nat) : Thread := { thr [] with children := List.replicate n 9 }
/-- 64 children; no fork slot; a fork slot. -/
theorem witness_ForkResults :
    (let m := parent 64; (paged m).issues m ∧ (paged m).inGang = false ∧ (paged m).tgtOk 0 1 = true ∧
      (paged m).targetMiss 0 ((paged m).tgt 0 1) = none ∧ (paged m).domain? m.dom = some dom0 ∧ 64 ≤ m.children.length) ∧
    (let m := parent 63; (one m).issues m ∧ m.children.length < 64 ∧ (one m).forkSlot dom0 = none) ∧
    (let m := parent 63; let d := { dom0 with forks := [16] }
      let s := { paged m with domains := [d] }
      s.issues m ∧ s.tgtOk 0 1 = true ∧ s.targetMiss 0 (s.tgt 0 1) = none ∧ m.children.length < 64 ∧ s.forkSlot d = some 16) := by
  unfold State.issues; decide +kernel
/-- No child left; one that has paused; a trigger without a task, and in one without a dependence record; scope 4 without leave. -/
def child : Thread := { Thread.fresh 16 9 0 with stat := .paused }
theorem witness_JoinAndTrig :
    ((one (thr [])).issues (thr []) ∧ (thr []).children.filterMap (one (thr [])).byUid = [] ∧ (one (thr [])).okScope 2 = true ∧
      (one (thr [])).storesDue 2 = false ∧ (thr []).task = false ∧ (thr []).postDue = 0 ∧ (one (thr [])).okScope 4 = false) ∧
    (let m := parent 1; let s := { one m with threads := [m, child] };
      s.issues m ∧ m.children.filterMap s.byUid ≠ [] ∧ (m.children.filterMap s.byUid).all (·.resting) = true ∧ m.claims = [] ∧
      s.gangOf s.iss.gid = [] ∧ m.wait = none ∧ s.unwatched m) ∧
    (let m := { thr [] with task := true }; (one m).issues m ∧ (one m).okScope 2 = true ∧ (one m).storesDue 2 = false ∧ m.task = true ∧
      m.triggered = false ∧ m.depRec = 0 ∧ m.postDue = 0) := by
  unfold State.issues State.unwatched; decide +kernel
/-- No gang; a gang in the quad; the other three threads of the slot waiting for one, and not. -/
def done0 : Done := { d := 0, d2 := 0, pd := 0, width := 8, sext := false, succ := 4 * 2 ^ 60 + 2 }
def waits (g : Nat) : Thread :=
  { Thread.fresh g g 0 with
    stat := .parked, wait := some { why := .parked (gangObj g) okGang, again := false, half := false, fin := done0 } }
def gang0 : State := { one (thr []) with quads := [{ Quad.fresh 0 with gang := some { leader := 1, slot := 1, todo := [] } }] }
def waiting : State := { one (thr []) with threads := [thr [], waits 16, waits 32, waits 48] }
theorem witness_GangResults :
    (let s := one (thr []); s.issues (thr []) ∧ s.iss.gid % 16 ≠ 15 ∧ s.inGang = false ∧ (thr []).wait = none ∧
      s.holdEdges (gangObj s.iss.gid) = [] ∧ (s.quad (gidQk s.iss.gid)).gang = none ∧ s.gangOf s.iss.gid = [] ∧
      ((gangMembers s.pkg 0 0).filter (· != 0)).all s.awaitsGang = false) ∧
    (gang0.issues (thr []) ∧ (gang0.quad (gidQk gang0.iss.gid)).gang ≠ none) ∧
    (waiting.issues (thr []) ∧ (waiting.quad (gidQk waiting.iss.gid)).gang = none ∧
      ((gangMembers waiting.pkg 0 0).filter (· != 0)).all waiting.awaitsGang = true) := by
  unfold State.issues; decide +kernel

/-! ## Witnesses: memory -/

theorem plain (s : State) (h : s.bad = [] ∧ s.soft = [] ∧ s.barWaits = [] ∧ s.feWaits = []) (k n : Nat) : s.plainAt k n := by
  obtain ⟨a, b, c, d⟩ := h
  intro w hw
  simp [a, b, c, d] at hw
/-- `privateAt` from facts that can be computed. -/
theorem private_of (s : State) (m : Thread) (ea n k : Nat)
    (h : (s.thread? s.iss.gid = some m ∧ s.iss.jumped = false ∧ m.qmap = 0 ∧ s.iss.follow = none ∧ s.iss.plain = false) ∧ ea + n ≤ 0x8000 ∧
      s.owner (gidQk s.iss.gid) = some s.myPart ∧ s.pending m.uid = [] ∧ s.msgs = [] ∧
      k = privKey (gidDie s.iss.gid) (gidQuad s.iss.gid) (gidCore s.iss.gid) ea ∧
      s.bad = [] ∧ s.soft = [] ∧ s.barWaits = [] ∧ s.feWaits = []) : s.privateAt m ea n k := by
  obtain ⟨i, a, b, c, d, e, f⟩ := h
  exact ⟨i, a, b, c, by simp [d], e, plain s f k n⟩
def empt (l : List Nat) (m : Thread) : State := { one m with empties := l }
theorem witness_AccessChecks :
    ∀ e ∈ [(1, 8, 8), (3 * 2 ^ 60, 8, 8), (8 * 2 ^ 60, 1, 1), (0x7FF9, 8, 1), (0x7FF8, 8, 8), (2 ^ 60 + 3 * 2 ^ 58 + 2559 * 2 ^ 46 + 3 * 2 ^ 44 + 0x7FF8, 8, 8),
      (2 * 2 ^ 60 + 3 * 2 ^ 58 + 0xBFFFFFF8, 8, 8), (5 * 2 ^ 60 + 2 ^ 48 - 8, 8, 8), (6 * 2 ^ 60, 4096, 1)],
      e.1 < 2 ^ 64 ∧ 0 < e.2.1 ∧ e.2.1 ≤ 4096 ∧ 0 < e.2.2 := by decide
/-- The last bytes of the page, with and without the permission. -/
theorem witness_TranslatedAccess : ∀ p ∈ [3, 1], let s := paged (thr []) p
    2 ≤ 7 ∧ 65528 + 8 ≤ 2 ^ 48 ∧ (s.quad (gidQk 0)).tlb.find? (·.hits 0 4 65528) = some (page p) ∧
    65528 + 8 ≤ (page p).va + (page p).size := by decide +kernel
theorem witness_MemoryReadAfterWrite : ({ cells := [(3, 1)], keyNo := [] } : Memory).wf = true := by decide +kernel
def atEa (ea : Nat) : Thread := thr [(1, BitVec.ofNat 64 ea)]
/-- The last extents of private memory of each width, of a full and of an empty word, with a scope that is permitted. -/
theorem witness_PrivateLoads : ∀ n ∈ [1, 2, 4, 8, 16], let m := atEa (0x8000 - n)
    (empt [] m).privateAt m (0x8000 - n) n (privKey 0 0 0 (0x8000 - n)) ∧ (0x8000 - n) % n = 0 ∧ (m.reg 1).toNat = 0x8000 - n ∧
    (empt [] m).okScope 6 = false ∧ (empt [] m).okScope 5 = true ∧ privKey 0 0 0 (0x8000 - n) / 8 * 8 ∉ (empt [] m).empties := by
  intro n hn
  refine ⟨private_of _ _ _ _ _ ?_, ?_⟩ <;> revert n <;> decide +kernel
theorem witness_PrivateStores : ∀ n ∈ [1, 2, 4, 8, 16, 32, 64, 256, 4096], let m := atEa (0x8000 - n)
    (empt [] m).privateAt m (0x8000 - n) n (privKey 0 0 0 (0x8000 - n)) ∧ (0x8000 - n) % n = 0 ∧ (m.reg 1).toNat = 0x8000 - n ∧
    (empt [] m).okScope 0 = true ∧ m.entered = 0 ∧ (empt [] m).mem.wf = true := by
  intro n hn
  refine ⟨private_of _ _ _ _ _ ?_, ?_⟩ <;> revert n <;> decide +kernel
theorem witness_FullEmptyStores : ∀ l ∈ [[], [privKey 0 0 0 0x7FF8]], let m := atEa 0x7FF8
    (empt l m).privateAt m 0x7FF8 8 (privKey 0 0 0 0x7FF8) ∧ (m.reg 1).toNat = 0x7FF8 ∧ (empt l m).okScope 0 = true ∧
    (privKey 0 0 0 0x7FF8 / 8 * 8 ∈ (empt l m).empties ↔ l ≠ []) := by
  intro l hl
  refine ⟨private_of _ _ _ _ _ ?_, ?_⟩ <;> revert l <;> decide +kernel
/-- A compare that holds and one that fails, on a byte that holds 5. -/
def five (m : Thread) : State := { one m with mem := { cells := [(privKey 0 0 0 0x7FFF, 5)], keyNo := [] } }
theorem witness_PrivateAtomics : ∀ y ∈ [5, 6], let m := (atEa 0x7FFF).setReg 2 (BitVec.ofNat 64 y)
    (five m).privateAt m 0x7FFF 1 (privKey 0 0 0 0x7FFF) ∧ (m.reg 1).toNat = 0x7FFF ∧ (five m).okScope 0 = true ∧
    ((five m).mem.read (privKey 0 0 0 0x7FFF) 1 % 2 ^ 8 = (m.reg 2).toNat % 2 ^ 8 ↔ y = 5) := by
  intro y hy
  refine ⟨private_of _ _ _ _ _ ?_, ?_⟩ <;> revert y <;> decide +kernel
/-- What an access comes to, and the witness of one that reaches its home. -/
def reaches (a : Acc) : Bool := match a with | .key _ _ => true | _ => false
theorem reached (a : Acc) (h : reaches a = true) : ∃ k u, a = .key k u := by
  cases a with
  | key k u => exact ⟨k, u, rfl⟩
  | away s => simp [reaches] at h
  | stop o => simp [reaches] at h
def far : Nat := 4 * 2 ^ 60 + 4096
def asker : Thread := thr [(1, BitVec.ofNat 64 far), (2, BitVec.ofNat 64 far)]
/-- DRAM, for every access that `HomeRequests` and `PostedRequests` speak of. -/
theorem witness_HomeRequests : let s := paged asker
    s.issues asker ∧ s.okScope 2 = true ∧ (asker.reg 1).toNat = far ∧ 2 ^ 60 ≤ far ∧ s.rsvs = [] ∧ s.bufferRoom 1 = true ∧
    (∀ n ∈ [1, 2, 4, 8], ∀ fe ∈ [true, false], ∀ need ∈ [1, 2], ∃ k u, s.access need fe n far n = .key k u) ∧
    (∃ k u, s.access needR false 16 far 16 = .key k u) ∧ (∃ k u, s.bankAccess needW 8 far 8 = .key k u) ∧
    (∃ k u, s.bankAccess needR 8 far 8 = .key k u) ∧ (∃ k u, s.cfgBank 2 = .key k u) := by
  refine ⟨by unfold State.issues; decide +kernel, by decide +kernel, by decide +kernel, by decide, by decide +kernel, by decide +kernel,
    ?_, reached _ (by decide +kernel), reached _ (by decide +kernel), reached _ (by decide +kernel), reached _ (by decide +kernel)⟩
  intro n hn fe hf need hd
  exact reached _ (by revert need fe n; decide +kernel)
/-- A store of the thread not yet performed. -/
def storing : State := { one (thr []) with reqs := [{ req (.store [0] 1) (2 * 2 ^ 60) with posted := true }] }
theorem witness_PostedRequests : let s := paged asker
    s.issues asker ∧ s.okScope 2 = true ∧ s.bufferRoom 1 = true ∧ 2 ^ 60 ≤ far ∧
    (∀ n ∈ [1, 8, 16, 64, 4096], ∃ k u, s.access needW false n far n = .key k u) ∧ (∃ k u, s.access needW true 8 far 8 = .key k u) ∧
    (∃ k u, s.bankAccess needW 8 far 8 = .key k u) ∧ storing.buffered = true ∧ storing.bufferRoom 1 = true := by
  refine ⟨by unfold State.issues; decide +kernel, by decide +kernel, by decide +kernel, by decide, ?_, reached _ (by decide +kernel),
    reached _ (by decide +kernel), by decide +kernel, by decide +kernel⟩
  intro n hn
  exact reached _ (by revert n; decide +kernel)
/-- One word and four, in DRAM; the same in private memory, behind a store that has not been performed. -/
theorem witness_StoreMultiple : ∀ n ∈ [1, 4], ∀ mask ∈ [0xFF, 0xFF00FF],
    let m := asker.setReg 3 (BitVec.ofNat 64 mask); let s := paged m
    let is := (List.range n).filter fun i => (m.reg 3).toNat / 2 ^ (8 * i) % 256 != 0
    s.issues m ∧ m.entered = 0 ∧ (m.reg 1).toNat = far ∧ 2 ^ 60 ≤ far ∧
    (match s.check s.who needW false 8 far (8 * n) with | (.ok _, u) => u.bufferRoom is.length | _ => false) = true ∧
    (match storing.check storing.who needW false 8 0x40 (8 * n) with | (.ok _, u) => u.buffered && u.bufferRoom n | _ => false) = true := by
  unfold State.issues; decide +kernel
theorem witness_AlignmentTraps : let m := thr [(1, 1)]
    (one m).issues m ∧ (one m).okScope 2 = true ∧ (m.reg 1).toNat % 2 ≠ 0 ∧ (m.reg 1).toNat % 8 ≠ 0 ∧ (m.reg 1).toNat % 16 ≠ 0 := by
  unfold State.issues; decide +kernel
theorem witness_ScopeTraps : let s := one (thr [])
    s.issues (thr []) ∧ s.okScope 4 = false ∧ s.okScope 6 = false ∧ s.okScope 7 = false ∧ s.okScope 5 = true := by
  unfold State.issues; decide +kernel
/-- Nothing outstanding; an entry held in a bank; a store not yet performed; a fault report on its way. -/
theorem witness_FenceResults :
    (let s := one (thr []); s.issues (thr []) ∧ s.fenceDueOf s.iss.gid 0 = false ∧ s.okScope 2 = true ∧ s.fenceDueOf s.iss.gid 2 = false ∧
      s.banksOf (thr []).uid = []) ∧
    (let x : Held := { gid := 0, uid := 1, part := 0, va := far, seq := 0, word := far, fn := 0, operand := 9 }
     let s := { one (thr []) with banks := [{ Bank.fresh 1 with overN := [x] }] }
     s.issues (thr []) ∧ s.fenceDueOf s.iss.gid 2 = false ∧ s.banksOf (thr []).uid = [1]) ∧
    (storing.issues (thr []) ∧ storing.okScope 3 = true ∧ storing.fenceDueOf storing.iss.gid 3 = true) ∧
    let s := { one (thr []) with reports := [{ id := 0, uid := 1, trap := { cls := 8, tval := 0, kind := 0 } }] }
    s.issues (thr []) ∧ s.fenceDueOf s.iss.gid 2 = true := by
  unfold State.issues; decide +kernel

/-! ## Witnesses: homes, banks, barriers -/

def dk : Nat := 4 * 2 ^ 60 + 64
/-- `atHome` from facts that can be computed: the request is the only one. -/
theorem home_of (s : State) (r : Req) (n : Nat) (hs : s.reqs = [r]) (hn : match r.op with | .store _ _ | .zero _ => False | _ => True)
    (h : s.mayPerform r = true ∧ r.comb = [] ∧ s.bad = [] ∧ s.soft = [] ∧ s.barWaits = [] ∧ s.feWaits = []) : s.atHome r n := by
  obtain ⟨a, b, c⟩ := h
  refine ⟨by simp [hs], a, b, plain s c _ _, ?_⟩
  intro x hx _
  rw [hs] at hx
  simp only [List.mem_singleton] at hx
  rw [hx]; exact hn
theorem witness_HomeAtomics : (∀ op ∈ [ReqOp.load 8, .pair, .feqry, .swap 8 5, .fadd 1 7, .cas 4 0 9, .cas 4 1 9],
    (arrived op dk).atHome (req op dk) 16 ∧ keySel dk < 5) ∧
    ∀ op ∈ [ReqOp.pair, .pairHi 7], (arrived op (5 * 2 ^ 60)).atHome (req op (5 * 2 ^ 60)) 16 ∧ 5 ≤ keySel (5 * 2 ^ 60) := by
  refine ⟨fun op h => ⟨home_of _ _ _ rfl ?_ ?_, by decide⟩, fun op h => ⟨home_of _ _ _ rfl ?_ ?_, by decide⟩⟩
  · simp only [List.mem_cons, List.not_mem_nil, or_false] at h
    rcases h with h | h | h | h | h | h | h <;> subst h <;> trivial
  · revert op; decide +kernel
  · simp only [List.mem_cons, List.not_mem_nil, or_false] at h
    rcases h with h | h <;> subst h <;> trivial
  · revert op; decide +kernel
/-- The byte of DRAM at the key reads 0: the compare with 0 holds and the one with 1 fails. -/
theorem witness_HomeAtomics_compares : let old := (arrived (.cas 4 0 9) dk).mem.read dk 4
    old % 2 ^ 32 = 0 % 2 ^ 32 ∧ old % 2 ^ 32 ≠ 1 % 2 ^ 32 := by decide +kernel
theorem witness_HomeStores : let r := { req (.store [1, 2] 3) dk with posted := true }
    let s := { one (thr []) with reqs := [r] }
    s.reqs.find? (·.id == r.id) = some r ∧ r.comb = [] ∧ s.mayPerform r = true ∧ s.plainAt r.key 2 ∧ s.mem.wf = true :=
  ⟨by decide +kernel, rfl, by decide +kernel, plain _ ⟨rfl, rfl, rfl, rfl⟩ _ _, by decide +kernel⟩
def held (w : Nat) : Rsv := { word := w, gid := 0, uid := 1, hold := true, scope := 2, off := 0 }
/-- A free word; a `sch` of the holder and of a thread that does not hold. -/
theorem witness_Reservations :
    (∀ op ∈ [ReqOp.lrw 8, .sch 8 5], (arrived op dk).atHome (req op dk) 8 ∧ (arrived op dk).rsvs = [] ∧ dk % 8 + 8 ≤ 8 ∧
      ((arrived op dk).rsvs.any fun x => x.word == dk / 8 * 8 && x.uid == 1 && x.hold) = false) ∧
    (∀ op ∈ [ReqOp.sch 8 5, .rsvx], let s := { arrived op dk with rsvs := [held dk] }
      s.atHome (req op dk) 8 ∧ s.rsvs = [held dk] ∧ (held dk).word = dk / 8 * 8 ∧ (held dk).uid = (req op dk).uid ∧ (held dk).hold = true) := by
  constructor
  · intro op h
    refine ⟨home_of _ _ _ rfl ?_ ?_, ?_⟩
    · simp only [List.mem_cons, List.not_mem_nil, or_false] at h
      rcases h with h | h <;> subst h <;> trivial
    · revert op; decide +kernel
    · revert op; decide +kernel
  · intro op h
    refine ⟨home_of _ _ _ rfl ?_ ?_, ?_⟩
    · simp only [List.mem_cons, List.not_mem_nil, or_false] at h
      rcases h with h | h <;> subst h <;> trivial
    · revert op; decide +kernel
    · revert op; decide +kernel
/-- A barrier word in memory, as its eight bytes. -/
def barWord (op : ReqOp) (v : Nat) : State :=
  { arrived op dk with mem := { cells := ((List.range 8).map fun i => (dk + i, BitVec.ofNat 8 (v / 2 ^ (8 * i)))).filter (·.2 != 0), keyNo := [] } }
/-- Counts 0, 1, 65,535 and 65,536; no object, a spent one, and a last arrival of each kind of object. -/
theorem witness_BarrierObjects :
    (∀ c ∈ [0, 1, 65535, 65536], (arrived (.barinit true c) dk).atHome (req (.barinit true c) dk) 8) ∧
    (∀ v ∈ [0, 2 ^ 63 + 2 ^ 61, 2 ^ 63 + 2 * 2 ^ 16 + 1, 2 ^ 63 + 2 ^ 62 + 1 * 2 ^ 16],
      (barWord .barObj v).atHome (req .barObj dk) 8 ∧ (barWord .barObj v).mem.read dk 8 = v ∧
      (v.testBit 63 = true → v.testBit 61 = false → v / 2 ^ 16 % 2 ^ 16 ≤ v % 2 ^ 16 + 1)) := by
  constructor
  · intro c h
    exact home_of _ _ _ rfl trivial (by revert c; decide +kernel)
  · intro v h
    exact ⟨home_of _ _ _ rfl trivial (by revert v; decide +kernel), by revert v; decide +kernel⟩
/-- A thread that waits for its operation. -/
def served (g : Nat) (w : Why) : Thread := { thr [] with gid := g, wait := some { why := w, again := false, half := false, fin := { done0 with d := 3 } } }
/-- The second of three arrivals, with one parked already. -/
theorem witness_BarrierArrivals : ∀ l ∈ [[], [{ word := dk, gid := 16, uid := 9, gen := 0 : BarWait }]], let v := 2 ^ 63 + 3 * 2 ^ 16 + 1
    let m := served 0 (.reply 0)
    let s := { barWord .barObj v with threads := [m], barWaits := l }
    let r := req .barObj dk
    s.reqs.find? (·.id == r.id) = some r ∧ s.mayPerform r = true ∧ r.comb = [] ∧ s.bad = [] ∧ s.soft = [] ∧ s.thread? r.gid = some m ∧
    m.wait.isSome = true ∧ s.holdEdges r.key = [] ∧ s.mem.read dk 8 = v ∧ v.testBit 63 = true ∧ v.testBit 61 = false ∧
    v % 2 ^ 16 + 1 < v / 2 ^ 16 % 2 ^ 16 ∧ (s.freeEntry 0).isSome = true := by decide +kernel
/-- A thread that waits for the reply to its request; the reply carries a value, or a trap, or is the answer to `mstat`. -/
def asking (op : ReqOp) (x : Res) : Thread × Req := ({ thr [] with wait := some { why := .reply 0, again := false, half := false, fin := { done0 with d := 31, pd := 7 } } },
  { req op dk with res := some x })
theorem witness_ReplyCompletes : ∀ tr ∈ [none, some { cls := 10, tval := dk, kind := 0 : Trap }], ∀ op ∈ [ReqOp.load 8, .stat 5],
    let x : Res := { val := 2 ^ 64 - 1, val2 := 0, pred := true, trap := tr }
    let (m, r) := asking op x
    let s := { one m with reqs := [r] }
    s.reqs.find? (·.id == r.id) = some r ∧ r.res = some x ∧ r.hop.cur = r.hop.dst ∧ s.thread? r.gid = some m ∧ m.uid = r.uid ∧
    m.qmap = 0 ∧ (m.wait.map (·.why)) = some (.reply r.id) ∧ x.val < 2 ^ (8 * 8) ∧
    m.wait.map (fun w => decide (w.fin.d < 32 ∧ w.fin.d2 < 31 ∧ w.fin.d ≠ w.fin.d2 + 1 ∧ w.fin.pd < 8 ∧ w.fin.width = 8)) = some true := by
  decide +kernel
/-- A thread that waits for two words of a chunk, with the reply for one of them, or for the 64 bytes from it. -/
theorem witness_WordReplies : ∀ op ∈ [ReqOp.word, .line], ∀ tr ∈ [none, some { cls := 10, tval := dk, kind := 0 : Trap }],
    let x : Res := { val := 7, val2 := 0, pred := false, trap := tr }
    let m := served 0 (.gather 0 [(dk, 8), (dk + 64, 8)])
    let r := { req op dk with res := some x }
    let s := { one m with reqs := [r] }
    s.reqs.find? (·.id == r.id) = some r ∧ r.hop.cur = r.hop.dst ∧ s.thread? r.gid = some m ∧ m.uid = r.uid ∧
    m.wait.map (·.why) = some (.gather 0 [(dk, 8), (dk + 64, 8)]) ∧ 0 ≤ r.seq ∧ r.key ∈ [(dk, 8), (dk + 64, 8)].map (·.1) := by decide +kernel
/-- An empty bank; a plain and a deterministic function that writes the operand. -/
def fn0 (det : Bool) : BankFn :=
  { num := 0, image := 1 + (if det then 32 else 0), nspill := 0, unord := false, ovf := false, sqCtr := 0 }
def updated (l : List BankFn) : State := { arrived (.upd 0 9) dk with banks := [{ Bank.fresh ((homeQuad dk).getD 0) with fns := l }] }
theorem witness_BankUpdates :
    (∀ l ∈ [[], [fn0 false], [fn0 true]], let s := updated l; let r := req (.upd 0 9) dk
      s.reqs.find? (·.id == r.id) = some r ∧ s.mayPerform r = true ∧ (s.bank ((homeQuad dk).getD 0)).fn 0 = l.head? ∧
      (s.bank ((homeQuad dk).getD 0)).hands = []) ∧
    imgDet (fn0 false).image = false ∧ imgDet (fn0 true).image = true ∧ (updated [fn0 false]).plainAt dk 8 ∧
    (fnRun (fn0 false).image 0 0 ((updated [fn0 false]).mem.read dk 8) 9).set = 0 :=
  ⟨by decide +kernel, by decide, by decide, plain _ ⟨rfl, rfl, rfl, rfl⟩ _ _, by decide +kernel⟩
def reported : State := { one (thr []) with reports := [{ id := 0, uid := 1, trap := { cls := 8, tval := 0, kind := 0 } }] }
theorem witness_DrainsAndReports : (one (thr [])).drains.find? (·.bank == 0) = none ∧
    (let x : DrainMsg := { bank := 0, uid := 1, dom := 0, obj := 0 }
     let m := { thr [] with wait := some { why := .drains, again := false, half := false, fin := done0 } }
     let s := { one m with drains := [x] }
     s.drains.find? (·.bank == 0) = some x ∧ (s.bank 0).hands = [] ∧ (s.bank 0).overN = [] ∧ s.threads.find? (·.uid == x.uid) = some m ∧
     s.thread? m.gid = some m ∧ m.dfr = [] ∧ s.reports = [] ∧ s.drains.filter (·.uid == x.uid) = [x]) ∧
    reported.reports.find? (·.id == 0) = some { id := 0, uid := 1, trap := { cls := 8, tval := 0, kind := 0 } } ∧
    reported.threads.find? (·.uid == 1) = some (thr []) ∧ (thr []).wait = none ∧ reported.thread? 0 = some (thr []) := by
  decide +kernel
theorem witness_FullEmptyResend : ∀ c ∈ [0, 1], let r := { req (.fe true true true 8 0) dk with resendAt := c }
    ({ one (thr []) with reqs := [r] } : State).reqs.find? (·.id == r.id) = some r := by decide +kernel
/-- Another thread of the domain has still to come. -/
def pair : State := { paged asker with threads := [asker, { Thread.fresh 16 9 0 with dom := 0 }] }
theorem witness_NetworkBarriers : let obj := netObj 0 2 0
    pair.issues asker ∧ pair.okScope 2 = true ∧ pair.netBars = [] ∧ pair.storesDue 2 = false ∧ asker.wait = none ∧ pair.holdEdges obj = [] ∧
    (pair.threads.any fun t => t.dom == asker.dom && netObj asker.dom 2 t.gid == obj && t.uid != asker.uid && !pair.lostDies.contains (gidDie t.gid)) = true ∧
    ∃ k u, pair.bankAccess needW 8 (asker.reg 1).toNat 8 = .key k u :=
  ⟨by unfold State.issues; decide +kernel, by decide +kernel, rfl, by decide +kernel, by decide +kernel, by decide +kernel,
   by decide +kernel, reached _ (by decide +kernel)⟩
/-- The quad of the address is the thread's own, or another with no slot, or with one. -/
theorem witness_Migration : ∀ x ∈ [(0, []), (4096, []), (4096, [64])], let m := thr [(1, BitVec.ofNat 64 (4 * 2 ^ 60 + x.1))]
    let d := { dom0 with forks := x.2 }
    let s := { paged m with domains := [d] }
    s.issues m ∧ s.iss.gid % 16 ≠ 15 ∧ s.inGang = false ∧ s.ownsEntries = false ∧ (m.reg 1).toNat / 2 ^ 60 = 4 ∧
    s.domain? m.dom = some d ∧ s.pending m.uid = [] ∧ s.netBars = [] ∧
    (match s.access needR false 8 (m.reg 1).toNat 8 with
      | .key k u => let q := (homeQuad k).getD 0
        decide (q = x.1 / 4096) && (((List.range 4).map (q * 4 + ·)).findSome? (u.freeFork d) == if q = 0 then none else x.2.head?)
      | _ => false) = true := by
  unfold State.issues; decide +kernel

/-! ## Witnesses: services, state registers, translation, monitors -/

theorem witness_SupervisorRefusals : super.issues slot15 ∧ super.iss.gid % 16 = 15 ∧ super.okScope 3 = true := by unfold State.issues; decide +kernel
def edge (ok gid : Nat) : Edge := { die := 3, idx := 0, obj := 2 * 2 ^ 60 + 3 * 2 ^ 58 + 0xBFFFFFF8, ok := ok, ek := 1, gid := gid, unc := false }
/-- The last word of die 3's shared SRAM: not registered, held by the thread, a full/empty registration of it, another's hold. -/
theorem witness_WaitObjects : ∀ l ∈ [[], [edge 7 0], [edge 0 0], [edge 7 16]],
    let x := 2 * 2 ^ 60 + 3 * 2 ^ 58 + 0xBFFFFFF8
    let m := thr [(1, BitVec.ofNat 64 x)]
    let s := { one m with edges := l }
    s.issues m ∧ s.iss.gid % 16 ≠ 15 ∧ m.wait = none ∧ (m.reg 1).toNat = x ∧ 0xBFFFFFF8 % 8 = 0 ∧ 0xBFFFFFF8 + 8 ≤ 0xC0000000 ∧
    (s.freeEntry 3).isSome = true ∧ s.parkedOn x 7 = [] ∧ s.releaseDue = false ∧
    ((s.edges.any fun e => e.ek != 0 && e.obj == x && e.ok == 7 && e.gid == s.iss.gid) = true ↔ l = [edge 7 0]) ∧
    ((s.edges.any fun e => e.ek != 0 && e.obj == x && e.ok == 0 && e.gid == s.iss.gid) = true ↔ l = [edge 0 0]) ∧
    (l = [edge 7 16] → (s.edges.any fun e => e.ek != 0 && e.obj == x && e.ok == 7) = true ∧
      s.edges.all (fun e => e.ek == 0 || e.obj != x || e.gid != s.iss.gid) = true ∧ s.edges.all (fun e => e.ek != 0) = true) := by
  unfold State.issues; decide +kernel
/-- A number past 7, one above the ceiling, the ceiling. -/
theorem witness_PriorityResults : ∀ v ∈ [8, 7, 6], let m := { thr [(1, BitVec.ofNat 64 v)] with prioCeil := 6 }
    (one m).issues m ∧ (one m).iss.gid % 16 ≠ 15 ∧ (m.reg 1).toNat = v ∧ m.prioCeil = 6 := by
  unfold State.issues; decide +kernel
theorem witness_ServiceRequests : let s := one (thr []); s.issues (thr []) ∧ s.iss.gid % 16 ≠ 15 ∧ s.releaseDue = false ∧
    (1 : BitVec 32) ≠ 0 := by
  unfold State.issues; decide +kernel
theorem witness_SupervisorServes : ∀ v ∈ [some (0, 0), some (1, 0), some (2, 5), none],
    let x := { trapped0 with service := v }
    let m := { thr [] with wait := some { why := .super, again := false, half := false, fin := done0 } }
    let s := { one m with sup := [x] }
    s.sup.find? (·.core == 0) = some x ∧ (s.core 0).halted = false ∧ s.thread? x.gid = some m ∧ m.qmap = 0 ∧ x.cls ≠ 10 ∧
    done0.d < 32 ∧ done0.d2 = 0 ∧ done0.pd = 0 ∧ done0.width = 8 ∧ done0.sext = false := by decide +kernel
theorem witness_StateRegisterReads :
    ((one (thr [])).issues (thr []) ∧ (one (thr [])).domain? (thr []).dom = some dom0 ∧ (15 : Fin 32).val < 16 ∧
      ((one (thr [])).core (one (thr [])).myCore).budget = (BitVec.ofNat 32 Config.refill).toInt ∧
      ((one (thr [])).core (one (thr [])).myCore).refill < 2 ^ 32 ∧ 16 ≤ (16 : Fin 32).val ∧ (one (thr [])).iss.gid % 16 ≠ 15) ∧
    super.issues slot15 ∧ super.domain? slot15.dom = some dom0 ∧ super.iss.gid % 16 = 15 ∧
    super.thread? (super.iss.gid - 15 + ((16 : Fin 32).val - 16)) = some (thr []) := by
  unfold State.issues; decide +kernel
/-- The largest values that may be written, the least reserved bits, and numbers beside the writable ones. -/
theorem witness_StateRegisterWrites : ∀ v ∈ [2 ^ 11 - 1, 2 ^ 11, 2 ^ 15 - 2, 2 ^ 15 - 1, 2 ^ 15], let m := thr [(1, BitVec.ofNat 64 v)]
    (one m).issues m ∧ (one m).iss.gid % 16 ≠ 15 ∧ (m.reg 1).toNat = v ∧ ((m.reg 1).getLsbD 0 = true ↔ v % 2 = 1) ∧
    (5 : Fin 128).val < 6 ∧ 11 < (12 : Fin 128).val ∧ 16 ≤ (16 : Fin 32).val := by
  unfold State.issues; decide +kernel
/-- Slot 15, its own registers and those of slot 0; the largest values that may be written, and the least past them. -/
theorem witness_SupervisorRegisterWrites :
    ∀ v ∈ [0x707, 0x708, 2 ^ 11, 2 ^ 14 - 1, 2 ^ 14, 2 ^ 15 - 2, 2 ^ 15, 2 ^ 32 - 1, 2 ^ 32], ∀ c : Fin 32, c.val = 0 ∨ c.val = 16 →
      let m := slot15.setReg 1 (BitVec.ofNat 64 v)
      let s := { one m with threads := [thr [], m] }
      s.issues m ∧ s.iss.gid % 16 = 15 ∧ (m.reg 1).toNat = v ∧
      (s.thread? (if c.val < 16 then s.iss.gid else s.iss.gid - 15 + (c.val - 16))).isSome = true := by
  unfold State.issues; decide +kernel
theorem witness_EnergyBudgetWrite : super.issues slot15 ∧ super.iss.gid % 16 = 15 ∧ super.thread? 0 = some (thr []) ∧
    0 ≠ super.iss.gid := by
  unfold State.issues; decide +kernel
/-- A slot 15, any other, and the three selectors. -/
theorem witness_TranslationInvalidation : super.issues slot15 ∧ super.iss.gid % 16 = 15 ∧
    ∀ k ∈ [4, 5, 6], let m := thr [(1, BitVec.ofNat 64 (k * 2 ^ 60 + (2 ^ 48 - 1)))]
      (paged m).issues m ∧ (paged m).iss.gid % 16 ≠ 15 ∧ (m.reg 1).toNat / 2 ^ 60 = k ∧ (m.reg 1).toNat % 2 ^ 60 = 2 ^ 48 - 1 := by
  unfold State.issues; decide +kernel
theorem witness_MonitorUnits : ∀ v ∈ [5, 6], let m := thr [(1, BitVec.ofNat 64 v)]; let s := one m
    s.issues m ∧ (3 : Fin 32).val < 4 ∧ (s.quad s.myQuad).mons.length = 4 ∧ (m.reg 1).toNat = v ∧
    ∀ c ∈ [0, 63, 64], ∀ k ∈ [1, 2, 4], let u := { Mon.fresh with on := true, src := k }
      let s := { s with clock := c, quads := [{ Quad.fresh 0 with mons := [u, u, u, u] }] }
      (s.quad 0).mons.getD 3 Mon.fresh = u ∧ (s.clock % 64 = 0 ∧ u.tick < s.clock / 64 ↔ c = 64) := by
  unfold State.issues; decide +kernel
/-- Sixty zeros, and a table whose first edge is above its second. -/
def edges (l : List Host.Cell) : State := { one (atEa 64) with mem := { cells := l, keyNo := [] } }
theorem witness_MonitorEdges : ∀ l ∈ [[], [(privKey 0 0 0 64, 1)]],
    (edges l).privateAt (atEa 64) ((atEa 64).reg 1).toNat 60 (privKey 0 0 0 64) ∧ (3 : Fin 32).val < 4 ∧
    ((atEa 64).reg 1).toNat % 64 = 0 ∧ gidQuad (edges l).iss.gid < 2560 ∧
    (ascending ((List.range 15).map fun i => (edges l).mem.read (privKey 0 0 0 64 + 4 * i) 4) = true ↔ l = []) := by
  intro l hl
  refine ⟨private_of _ _ _ _ _ ?_, ?_⟩ <;> revert l <;> decide +kernel
theorem witness_Watchdog :
    (∀ b ∈ [true, false], let m := { thr [] with wdArmed := b }; (one m).issues m) ∧
    ∀ n ∈ [5, 6], let m := { thr [] with wdlim := n }; let s := { one m with clock := 5 }
      s.thread? m.gid = some m ∧ m.wdRun = true ∧ m.wdlim ≠ 0 ∧ m.wait = none ∧ m.wdPending = false ∧
      (m.wdStart + m.wdlim ≤ s.clock ↔ n = 5) := by
  unfold State.issues; decide +kernel

/-! ## Witnesses: class V, tensors and k-lists -/

/-- A thread whose format word is `f`, with format code 15, which stands for it. -/
def formats (f : Nat) (rs : List (Nat × Word) := []) : Thread := { thr rs with shFmt := BitVec.ofNat 64 f }
theorem vectors_one (f : Nat) (fmt : Fin 16) (h : (fmt.val = 15 ∧ f < 32) ∨ (fmt.val ≠ 15 ∧ f = fmt.val)) :
    (one (formats f)).vectors (formats f) fmt f := by
  refine ⟨⟨rfl, rfl, rfl, rfl, rfl⟩, by show 0 < 2 ^ 128; decide, ?_⟩
  rcases h with ⟨a, b⟩ | ⟨a, b⟩
  · simp [a, formats]
    omega
  · simp [a, b]
theorem witness_VectorArithmetic : (∀ f ∈ [7, 12], (one (formats f)).vectors (formats f) 15 f ∧ f < 13) ∧ (28 - 4) % 4 = 0 ∧
    ∀ f : Fin 13, (one (formats f.val)).vectors (formats f.val) ⟨f.val, by omega⟩ f.val := by
  refine ⟨fun f h => ⟨vectors_one f 15 (.inl ⟨rfl, ?_⟩), ?_⟩, rfl, fun f => vectors_one f.val _ (.inr ⟨?_, rfl⟩)⟩
  · revert f; decide
  · revert f; decide
  · show f.val ≠ 15
    omega
theorem witness_VectorMoves : (∀ f ∈ [7, 12, 14], (one (formats f)).vectors (formats f) 15 f ∧ f < 15) ∧ (24 : Reg).val % 4 = 0 ∧
    (24 : Reg).val < 28 ∧ (9 : Fin 128).val < 10 ∧ (7 : Fin 128).val < 8 := by
  refine ⟨fun f h => ⟨vectors_one f 15 (.inl ⟨rfl, ?_⟩), ?_⟩, by decide⟩ <;> revert f <;> decide
theorem witness_VectorFunctions : ∀ f ∈ [8, 9, 10], (one (formats f)).vectors (formats f) 15 f := by
  intro f h
  exact vectors_one f 15 (.inl ⟨rfl, by revert f; decide⟩)
/-- Each format by its own code and by the format word; the codes at the edges of the conversions' clauses. -/
theorem witness_VectorFormsComplete : (∀ f ∈ [7, 8, 9, 10, 12, 14], (one (formats f)).vectors (formats f) 15 f) ∧
    (∀ f : Fin 15, (one (formats f.val)).vectors (formats f.val) ⟨f.val, by omega⟩ f.val) ∧
    (∀ f ∈ [13, 14], ∀ e : Fin 128, e.val % 32 = 15 → (if e.val % 32 = 15 then (formats f).shFmt.toNat % 32 else e.val % 32) = f) := by
  refine ⟨fun f h => vectors_one f 15 (.inl ⟨rfl, ?_⟩), fun f => vectors_one f.val _ (.inr ⟨?_, rfl⟩), by decide +kernel⟩
  · revert f; decide
  · show f.val ≠ 15
    omega
/-- The format pairs at the edge of each clause, and a scale register that is none of the destination's. -/
theorem witness_VectorConversions : ∀ f ∈ [14, 12, 10, 8], (one (formats f)).issues (formats f) ∧ (formats f).sqCtr < 2 ^ 128 ∧
    (4 : Fin 8).val < 5 ∧ (24 : Reg).val % 4 = 0 ∧ (24 : Reg).val < 28 ∧ (4 : Reg).val ≠ 0 ∧ (4 : Reg).val + 3 < (24 : Reg).val ∧
    (formats f).shFmt.toNat % 32 = f := by
  unfold State.issues; decide +kernel
theorem witness_VectorReductions : ∀ f ∈ [7, 8, 12], (one (formats f)).vectors (formats f) 15 f := by
  intro f h
  exact vectors_one f 15 (.inl ⟨rfl, by revert f; decide⟩)
/-- Formats that may be drawn in and others. -/
theorem witness_VectorSampling : ∀ f ∈ [8, 9, 10, 0, 31], (one (formats f)).vectors (formats f) 15 f := by
  intro f h
  exact vectors_one f 15 (.inl ⟨rfl, by revert f; decide⟩)
/-- Lanes that sum to 0, and lanes 0 and 1 of which the second is 1.0: a draw of 0, whose share is exceeded first at lane 1. -/
theorem witness_VectorSampling_lanes : let p (m : Thread) (j : Nat) : Nat :=
      if (f32 (m.vel 32 4 j)).isNaN = false ∧ fxZero.lt (f32 (m.vel 32 4 j)) = true then m.vel 32 4 j else 0
    let sum (m : Thread) (j : Nat) : Nat :=
      ((List.range j).map fun i => p m (i + 1)).foldl (fun y x => fencode 8 .rne false 0 ((f32 y).add .rne (f32 x))) (p m 0)
    let share (m : Thread) : FV := f32 (fencode 8 .rne false 0 ((FV.fin false ((m.reg 2).toNat / 2 ^ 40 % 2 ^ 24) (2 ^ 24)).mul (f32 (sum m 7))))
    sum (formats 8) 7 = 0 ∧
    let m := formats 8 [(4, BitVec.ofNat 64 (0x3F800000 * 2 ^ 32))]
    sum m 7 ≠ 0 ∧ (share m).lt (f32 (sum m 0)) = false ∧ (share m).lt (f32 (sum m 1)) = true := by decide +kernel
/-- A format word that stands for no format; a gang member with a format that does. -/
theorem witness_VectorTraps : (one (formats 15)).vectors (formats 15) 15 15 ∧
    let s := { one (formats 12) with quads := [{ Quad.fresh 0 with gang := some { leader := 1, slot := 0, todo := [] } }] }
    s.vectors (formats 12) 15 12 ∧ s.inGang = true := by
  refine ⟨vectors_one 15 15 (.inl ⟨rfl, by decide⟩), ⟨⟨rfl, rfl, rfl, rfl, rfl⟩, by decide, rfl⟩, by decide +kernel⟩
/-- The record of a tensor of `n` elements in a row at `base`, of format `f` and layout `lay`. -/
def record (base n f lay : Nat) : Nat := base + n * 2 ^ 128 + 2 ^ 160 + 2 ^ 192 + 2 ^ 224 + (f + lay * 32) * 2 ^ 256
def tensor (n f i : Nat) : Handle := Handle.of (64 * i) (record (0x1000 * (i + 1)) n f 0) 0
/-- A thread whose core holds the handles of tensors at 0x1000, 0x2000, 0x3000 and 0x4000; handle `i` is at `64 * i`. -/
def tensors (m : Thread) (n f : Nat) : State :=
  { one m with cores := [{ Core.fresh 0 with handles := (List.range 4).map fun i => (0, 64 * i, record (0x1000 * (i + 1)) n f 0) }] }
theorem tensor_of (s : State) (m : Thread) (va raw k : Nat) (h : Handle) (q : ∀ r ∈ s.reqs, r.adm = none) (hh : h = Handle.of va raw (m.shFmt.toNat % 32))
    (v : h.valid = true ∧ h.conv = 0 ∧ h.ch = false ∧ h.lay < 4)
    (e : (s.core s.myCore).handles.find? (fun e => e.1 == m.dom && e.2.1 == va) = some (m.dom, va, raw))
    (p : s.privateAt m h.base h.foot k) : s.tensor m va h k := by
  subst hh
  exact ⟨⟨v.1, raw, rfl, q, .inl ⟨_, e, rfl⟩⟩, v.2.1, v.2.2.1, v.2.2.2, p⟩
/-- The four addresses in registers 2 to 5, and offsets in 6 to 9. -/
def viewer : Thread := thr [(2, 0), (3, 64), (4, 128), (5, 192), (6, 2 ^ 31 - 1), (7, 2 ^ 31)]
theorem tensors_tensor (n f i : Nat) (hn : n ∈ [1, 65]) (hf : f < 13) (hi : i < 4) :
    (tensors viewer n f).tensor viewer (64 * i) (tensor n f i) (privKey 0 0 0 (0x1000 * (i + 1))) := by
  refine tensor_of _ _ _ (record (0x1000 * (i + 1)) n f 0) _ _ (by simp [tensors, one, State.reset]) rfl ?_ ?_ (private_of _ _ _ _ _ ?_) <;>
    (revert i; revert f; revert n; decide +kernel)
/-- Every format an element-wise operation takes; 65 elements are several chunks of each, one element is one. -/
theorem witness_TensorElements : ∀ n ∈ [1, 65], ∀ f < 13,
    (tensors viewer n f).tensor viewer (viewer.reg 3).toNat (tensor n f 1) (privKey 0 0 0 0x2000) ∧
    (tensors viewer n f).tensor viewer (viewer.reg 2).toNat (tensor n f 0) (privKey 0 0 0 0x1000) ∧
    (tensor n f 1).fmt = f ∧ (tensor n f 0).ext = (tensor n f 1).window ∧ (tensors viewer n f).inGang = false ∧
    (tensor n f 1).inside (0, 0, 0, 0) = true ∧ (viewer.reg 6).toNat < 2 ^ 31 ∧ viewer.sqCtr < 2 ^ 128 := by
  intro n hn f hf
  refine ⟨tensors_tensor n f 1 hn hf (by decide), tensors_tensor n f 0 hn hf (by decide), ?_⟩
  revert f; revert n; decide +kernel
theorem witness_VectorHandles : ∀ n ∈ [1, 65], ∀ f, (hf : f < 13) → let s := tensors viewer n f; let t := tensor n f
    s.vectors viewer ⟨f, by omega⟩ f ∧ s.inGang = false ∧
    (∀ i < 4, s.tensor viewer (64 * i) (t i) (privKey 0 0 0 (0x1000 * (i + 1))) ∧ (t i).fmt = f ∧ (t i).fits (t 0).ext = true ∧
      (t i).ext = (t 0).ext) ∧
    (viewer.reg 2).toNat = 64 * 0 ∧ (viewer.reg 3).toNat = 64 * 1 ∧ (viewer.reg 4).toNat = 64 * 2 ∧ (viewer.reg 5).toNat = 64 * 3 := by
  intro n hn f hf
  refine ⟨⟨⟨rfl, rfl, rfl, rfl, rfl⟩, by decide, ?_⟩, ?_, fun i hi => ⟨tensors_tensor n f i hn hf hi, ?_⟩, by decide⟩
  · show f = if f = 15 then _ else f
    rw [if_neg (by omega)]
  · revert f; revert n; decide +kernel
  · revert i; revert f; revert n; decide +kernel
/-- A word of bank 0 past the domain's signal table. -/
def bankWord : Nat := 2 * 2 ^ 60 + 2560 * 0x180 * 256
/-- A handle's record in private memory at 64, with a conversion or none, which is live or not. -/
def recorded (m : Thread) (raw : Nat) (l : List Conv) : State :=
  { one m with mem := ({ cells := [], keyNo := [] } : Memory).write (privKey 0 0 0 64) (bytesOf 64 raw), convs := l }
def conv (key stop : Nat) : Conv :=
  { handle := key, handleVa := 64, die := 0, record := bankWord, oldBase := 0x1000, oldCtl := 0, gran := [2, 0], stop := stop, tval := 0,
    flags := 0, gid := 0, uid := 1, dom := 0, part := 0, asid := 0, ef := 0, seq := 0, copied := false }
def recKey : Nat := privKey 0 0 0 64
theorem witness_HandleRecords : ∀ x ∈ [(0, []), (2 ^ 61 * 2 ^ 64, []), (2 ^ 61 * 2 ^ 64, [conv recKey 0]), (2 ^ 61 * 2 ^ 64, [conv recKey 2])],
    let s := recorded (atEa 64) x.1 x.2
    ((atEa 64).reg 1).toNat % 64 = 0 ∧ s.privateAt (atEa 64) ((atEa 64).reg 1).toNat 64 recKey ∧ (4 : Fin 64).val < 5 ∧
    (3 : Fin 64).val = 3 ∧ (s.readN (recKey + 8) 8 = 0 ↔ x.1 = 0) ∧ s.convAt recKey = x.2.head? ∧ s.reqs = [] := by
  intro x hx
  refine ⟨by decide, private_of _ _ _ _ _ ?_, by decide, rfl, ?_⟩ <;> (revert x; decide +kernel)
/-- The keys of the ranges an extent comes to, where the state is as before. -/
def spanKeys (s : State) (g : Got Span) : Option (List (Nat × Nat)) :=
  match g with
  | .ok (.here l) t => if t = s then some l else none
  | _ => none
theorem span_of (s : State) (g : Got Span) (l : List (Nat × Nat)) (h : spanKeys s g = some l) : g = .ok (.here l) s := by
  unfold spanKeys at h
  split at h
  · split at h
    · simp_all
    · simp at h
  · simp at h
/-- A row of 40 integers to be re-laid as tiles at 0x4000, with its record in shared SRAM; the same in place; a conversion live;
and a shuffler that can take no more. -/
def relayed (raw : Nat) (l : List Conv) : Thread × State :=
  let m := thr [(1, 64), (2, 0x4000), (3, BitVec.ofNat 64 (bankWord)), (4, 3), (5, 0x1000)]
  (m, recorded m raw l)
def row40 : Handle := Handle.of 64 (record 0x1000 40 0 0) 0
theorem witness_Relayout :
    (∀ x ∈ [(0, []), (0, List.replicate 64 (conv 0 0)), (2 ^ 61 * 2 ^ 64, [conv recKey 0])],
      let h := Handle.of 64 (record 0x1000 40 0 0 + x.1) 0
      let (m, s) := relayed (record 0x1000 40 0 0 + x.1) x.2
      (m.reg 1).toNat % 64 = 0 ∧ s.privateAt m 64 64 recKey ∧ h = Handle.of 64 (s.readN recKey 64) (m.shFmt.toNat % 32) ∧
      h.valid = true ∧ h.ch = false ∧ (m.reg 4).toNat < 2 ^ 16 ∧ (x.1 ≠ 0 → h.conv ≠ 0 ∧ s.convAt recKey = some (conv recKey 0)) ∧
      (x.1 = 0 → h.conv = 0 ∧ h.lay = 0 ∧ (m.reg 5).toNat = h.base) ∧
      let h' : Handle := { h with base := 0x4000, ctl := setBits h.ctl 8 5 2 }
      h'.valid = true ∧ s.spanOf s.who false 3 (bankWord) (64 + cdiv h'.grans 4) = .ok (.here [(bankWord, 64 + cdiv h'.grans 4)]) s ∧
      s.plainAt (bankWord) (64 + cdiv h'.grans 4) ∧ s.privateAt m h.base h.foot (privKey 0 0 0 0x1000) ∧
      s.privateAt m 0x4000 h'.foot (privKey 0 0 0 0x4000) ∧ privKey 0 0 0 0x1000 + h.foot ≤ privKey 0 0 0 0x4000 ∧
      (Config.conversions ≤ (s.convs.filter (·.die == keyDie (bankWord) s.myDie)).length ↔ 64 ≤ x.2.length)) := by
  intro x hx
  refine ⟨?_, private_of _ _ _ _ _ ?_, ?_, ?_, ?_, ?_, ?_, ?_, ?_, span_of _ _ _ ?_, plain _ ⟨rfl, rfl, rfl, rfl⟩ _ _,
    private_of _ _ _ _ _ ?_, private_of _ _ _ _ _ ?_, ?_⟩ <;> (revert x; decide +kernel)
/-- An extent of shared SRAM past the signal table that is the accessor's, whatever else the state holds. -/
theorem shared_span (s : State) (w : Who) (need n : Nat) (h : 0 < n ∧ n ≤ 256) (o : s.ownsShared w.part 0 (2560 * 0x180 * 256) n = true)
    (r : s.reservedShared 0 (2560 * 0x180 * 256) n = false) : s.spanOf w false need bankWord n = .ok (.here [(bankWord, n)]) s := by
  have p : placeOf s.pkg w.gid bankWord = .shared 0 (2560 * 0x180 * 256) := rfl
  have q : Place.room bankWord (.shared 0 (2560 * 0x180 * 256)) = 0xB1000000 := rfl
  have k : sharedKey 0 (2560 * 0x180 * 256) = bankWord := rfl
  have e : s.check w need false 1 bankWord n = (.ok [(bankWord, n)], s) := by
    simp [State.check, Nat.mod_one, p, q, o, r, k, show ¬(0xB1000000 < n) by omega]
  simp [State.spanOf, e]
/-- A handle whose conversion has stopped, to be taken up again where it is: its record in shared SRAM says one granule, which was done. -/
theorem witness_Relayout_resumed : let raw := record 0x1000 40 0 0 + 2 ^ 61 * 2 ^ 64
    let h := Handle.of 64 raw 0
    let x : Conv := { conv recKey 2 with gran := [2] }
    let m := thr [(1, 64), (2, 0x1000), (3, BitVec.ofNat 64 bankWord), (4, 3)]
    let s := recorded m raw [x]
    let t := { s with mem := s.mem.write bankWord (x.bytes 3 2) }
    ((m.reg 1).toNat = 64 ∧ t.privateAt m 64 64 recKey ∧ h = Handle.of 64 (t.readN recKey 64) (m.shFmt.toNat % 32) ∧ h.conv ≠ 0 ∧
      t.convAt recKey = some x ∧ x.stop ≠ 0 ∧ (0 : Fin 128).val = h.lay ∧ (m.reg 2).toNat = h.base ∧ t.reqs = []) ∧
    (match t.engBytes x.who x.record 64 with
      | .ok bs _ => decide (ofBytes ((bs.drop 16).take 4) = 1) &&
        (match t.engBytes x.who (x.record + 64) 1 with | .ok st _ => decide (ofBytes st % 4 = 2) | _ => false)
      | _ => false) = true := by
  refine ⟨⟨by decide +kernel, private_of _ _ _ _ _ (by decide +kernel), by decide +kernel⟩, by decide +kernel⟩
theorem witness_VectorHandleReductions : ∀ n ∈ [1, 65], ∀ f, (hf : f < 13) → let s := tensors viewer n f
    s.vectors viewer ⟨f, by omega⟩ f ∧ s.inGang = false ∧ s.tensor viewer (viewer.reg 2).toNat (tensor n f 0) (privKey 0 0 0 0x1000) ∧
    s.tensor viewer (viewer.reg 3).toNat (tensor n f 1) (privKey 0 0 0 0x2000) ∧ (tensor n f 0).fmt = f ∧ (tensor n f 1).fmt = f ∧
    (tensor n f 1).ext = (tensor n f 0).ext := by
  intro n hn f hf
  obtain ⟨v, g, t, -⟩ := witness_VectorHandles n hn f hf
  obtain ⟨t0, f0, -⟩ := t 0 (by decide)
  obtain ⟨t1, f1, -, e⟩ := t 1 (by decide)
  exact ⟨v, g, t0, t1, f0, f1, e⟩
/-- Lists of 127 entries in private memory, and one of 32 in a bank's 256 bytes. -/
theorem witness_KListResults : ∀ f, (hf : f < 13) → f ≠ 3 → f ≠ 7 →
    let m := thr [(1, 0), (2, 0x5000), (3, 0x6000), (4, 0x7000), (5, BitVec.ofNat 64 (bankWord))]
    let s := tensors m 65 f
    s.vectors m ⟨f, by omega⟩ f ∧ s.inGang = false ∧ s.tensor m (m.reg 1).toNat (tensor 65 f 0) (privKey 0 0 0 0x1000) ∧
    (∀ r ∈ [(2, 0x5000), (3, 0x6000), (4, 0x7000)], (m.reg r.1).toNat = r.2 ∧ r.2 % 8 = 0 ∧ s.privateAt m r.2 (8 * 127) (privKey 0 0 0 r.2)) ∧
    (m.reg 5).toNat = bankWord ∧ bankWord / 2 ^ 60 = 2 ∧ bankWord % 256 + 8 * 32 ≤ 256 ∧ s.reqs = [] ∧
    ∀ u : State, u = { s with iss := { s.iss with plain := u.iss.plain, puts := u.iss.puts } } →
      u.spanOf s.who false 3 bankWord (8 * 32) = .ok (.here [(bankWord, 8 * 32)]) u := by
  intro f hf h3 h7
  refine ⟨⟨⟨rfl, rfl, rfl, rfl, rfl⟩, by decide, ?_⟩, ?_, ?_, fun r hr => ⟨?_, ?_, private_of _ _ _ _ _ ?_⟩, by decide, by decide, by decide, rfl, ?_⟩
  · show f = if f = 15 then _ else f
    rw [if_neg (by omega)]
  · clear h3 h7; revert f; decide +kernel
  · refine tensor_of _ _ _ (record 0x1000 65 f 0) _ _ (by simp [tensors, one, State.reset]) rfl ?_ ?_ (private_of _ _ _ _ _ ?_) <;>
      (clear h3 h7; revert f; decide +kernel)
  · revert r; decide
  · revert r; decide
  · clear h3 h7; revert r; revert f; decide +kernel
  · intro u hu
    rw [hu]
    have o : (tensors (thr [(1, 0), (2, 0x5000), (3, 0x6000), (4, 0x7000), (5, BitVec.ofNat 64 bankWord)]) 65 f).ownsShared 0 0 (2560 * 0x180 * 256) 256 = true := by
      clear hu u h3 h7; revert f; decide +kernel
    have q : (tensors (thr [(1, 0), (2, 0x5000), (3, 0x6000), (4, 0x7000), (5, BitVec.ofNat 64 bankWord)]) 65 f).reservedShared 0 (2560 * 0x180 * 256) 256 = false := by
      clear hu u h3 h7 o; revert f; decide +kernel
    exact shared_span _ _ 3 256 (by decide) o q
/-- A list of 32 entries at its bank, to be merged with one entry. -/
theorem witness_BankMerge : (arrived (.topk 8 32 [5]) bankWord).atHome (req (.topk 8 32 [5]) bankWord) (8 * 32) :=
  home_of _ _ _ rfl trivial (by decide +kernel)
theorem witness_KListOrder : ∀ x ∈ [0, 5, 2 ^ 64 - 1], x < 2 ^ 64 := by decide

/-! ## Witnesses: the matrix engine, messages, continuations -/

def rect0 : Rect :=
  { id := 0, dom := 0, part := 0, die := 0, quad := 0, rows := 1, cols := 1, acc := 0x6000, st := 0, why := 0, mr := 0, accF := false,
    slot := 0, grp := 0, step := 0, aAddr := 0, imm := 0, mask := [], maskCore := 0, maskHandle := 0, reload := [], queue := [],
    loaded := 0, failed := false, sent := [], weights := [], got := [], asid := 0, orphan := false }
/-- A weight image at 0 (handle 0x7000), 16 rows of 256 activations at 0x1000 (handle 0x7040), and activations nowhere (0x7080). -/
def weights : Nat := 256 * 2 ^ 128 + 128 * 2 ^ 160 + 2 ^ 192 + 2 ^ 224 + (13 + 5 * 32) * 2 ^ 256
def acts (base : Nat) : Nat := base + 256 * 2 ^ 128 + 16 * 2 ^ 160 + 2 ^ 192 + 2 ^ 224 + 9 * 2 ^ 256
def onRect (m : Thread) (r : Rect) (mem : Memory := { cells := [], keyNo := [] }) : State :=
  { one m with rects := [r], mem := mem, cores := [{ Core.fresh 0 with handles :=
      [(0, 0x7000, weights), (0, 0x7040, acts 0x1000), (0, 0x7080, acts (3 * 2 ^ 60))] }] }
theorem on_rect (s : State) (m : Thread) (r : Rect) (h : s.thread? s.iss.gid = some m ∧ s.iss.jumped = false ∧ m.qmap = 0 ∧ s.iss.follow = none ∧ s.iss.plain = false)
    (h' : s.iss.gid % 16 ≠ 15 ∧ m.handler = false ∧ s.inGang = false ∧ s.rects = [r] ∧ (r.dom == m.dom && !r.orphan && qk r.die r.quad * 4 == s.myCore) = true) :
    s.onRectangle m r := by
  obtain ⟨a, b, c, d, e⟩ := h'
  refine ⟨h, a, by simp [b], c, by simp [d, e], ?_⟩
  intro x hx _
  simpa [d] using hx
/-- An extent of the issuer's own private memory, whatever its core holds. -/
theorem own_span (s : State) (w : Who) (need va n : Nat) (h : w.gid = 0) (o : s.owner 0 = some w.part) (b : va < 0x8000 ∧ va + n ≤ 0x8000) :
    s.spanOf w true need va n = .ok (.here [(privKey 0 0 0 va, n)]) s := by
  have v : va / 2 ^ 60 = 0 := by omega
  have p : placeOf s.pkg w.gid va = .priv 0 0 0 va := by
    rw [h]
    have x : bits va 59 15 = 0 := by
      unfold bits
      rw [show va / 2 ^ 15 = 0 by omega, Nat.zero_mod]
    have y : bits va 14 0 = va := by
      unfold bits
      rw [Nat.pow_zero, Nat.div_one]
      omega
    unfold placeOf
    rw [v]
    simp only [x, y]
    rfl
  have q : qk 0 0 = 0 := rfl
  have r : Place.room va (.priv 0 0 0 va) = 0x8000 - va := by simp [Place.room, Config.privBytes]
  have e : s.check w need false 1 va n = (.ok [(privKey 0 0 0 va, n)], s) := by
    simp [State.check, p, q, r, o, show ¬(0x8000 - va < n) by omega, Nat.mod_one]
  simp [State.spanOf, State.engineCheck, pageFuel, e]
def user2 : Thread := thr [(1, 0x7000), (2, 0x7040), (3, 64)]
/-- Idle, running, stopped at the same operation, and with one queued: `mload` of one macro and `mmul` of 16 and of no rows. -/
theorem witness_MatrixIssue : ∀ r ∈ [rect0, { rect0 with st := 1 }, { rect0 with st := 2, why := 2, imm := 16, aAddr := 0x7040 },
      { rect0 with queue := [(0, 1, .mload 0 0x7000 0 weights)] }],
    let s := onRect user2 r
    let w := Handle.of 0x7000 weights (user2.shFmt.toNat % 32)
    let h := Handle.of 0x7040 (acts 0x1000) (user2.shFmt.toNat % 32)
    s.onRectangle user2 r ∧ s.recorded user2 (user2.reg 1).toNat weights ∧ (user2.reg 1).toNat = 0x7000 ∧ w.valid = true ∧ w.ch = false ∧ w.lay = 5 ∧
    w.e0 = 256 * r.rows ∧ w.e1 = 128 * r.cols ∧ s.recorded user2 (user2.reg 2).toNat (acts 0x1000) ∧ (user2.reg 2).toNat = 0x7040 ∧ h.valid = true ∧
    h.ch = false ∧ h.lay = 0 ∧ h.fmt = 9 ∧ h.e0 = 256 * r.rows ∧ 16 ≤ h.e1 ∧ (2 : Nat) % 2 ≠ 1 ∧
    (∀ x ∈ [w, h], ∀ u : State, u = { s with cores := u.cores, iss := { s.iss with plain := u.iss.plain, puts := u.iss.puts } } →
      ∃ sp, u.spanOf s.who true needR x.base x.foot = .ok sp u) ∧
    user2.shFmt.toNat / 2 ^ 14 % 4 ≠ 3 ∧ user2.shScl.toNat = 0 ∧ r.mask = [] ∧ user2.handler = false := by
  intro r hr s w h
  refine ⟨on_rect _ _ _ ⟨rfl, rfl, rfl, rfl, rfl⟩ ?_, ⟨by simp [s, onRect, one, State.reset], .inl ⟨(0, 0x7000, weights), ?_, rfl⟩⟩, by decide +kernel,
    by decide +kernel, by decide +kernel, by decide +kernel, ?_, ?_, ⟨by simp [s, onRect, one, State.reset], .inl ⟨(0, 0x7040, acts 0x1000), ?_, rfl⟩⟩,
    by decide +kernel, by decide +kernel, by decide +kernel, by decide +kernel, by decide +kernel, ?_, by decide +kernel, by decide, ?_, ?_⟩
  · revert r; decide +kernel
  · show (State.core _ _).handles.find? _ = some (0, 0x7000, weights)
    revert r; decide +kernel
  · revert r; decide +kernel
  · revert r; decide +kernel
  · show (State.core _ _).handles.find? _ = some (0, 0x7040, acts 0x1000)
    revert r; decide +kernel
  · revert r; decide +kernel
  · intro x hx u hu
    rw [hu]
    refine ⟨_, own_span _ _ _ _ _ rfl ?_ ?_⟩
    · show (onRect user2 r).owner 0 = some (onRect user2 r).who.part
      clear hu u hx x; revert r; decide +kernel
    · clear hu u; revert x; decide +kernel
  · revert r; decide +kernel
/-- With a mask list of two channels, the last one the last of the rectangle; with a stopped operation; tile rows 1 and 64; a store
that the release waits for. -/
def lister (rows : Nat) : Thread := thr [(1, 64), (4, BitVec.ofNat 64 rows)]
theorem witness_MatrixState : ∀ st ∈ [0, 2], ∀ rows ∈ [0, 1, 64, 65], let m := lister rows
    let s := onRect m { rect0 with st := st } (({ cells := [], keyNo := [] } : Memory).write (privKey 0 0 0 64) (bytesOf 2 0 ++ bytesOf 2 255))
    s.onRectangle m { rect0 with st := st } ∧ (2 : Fin 128).val ≠ 0 ∧ (m.reg 1).toNat % 2 = 0 ∧
    s.privateAt m (m.reg 1).toNat (2 * 2) (privKey 0 0 0 64) ∧
    ((List.range 2).map fun i => s.readN (privKey 0 0 0 64 + 2 * i) 2) = [0, 255] ∧ 255 < 256 * rect0.rows ∧
    (m.reg 2).toNat = 0 ∧ gidPkg 0 = s.pkg ∧ qkDie (gidQk 0) = rect0.die ∧ s.owner (gidQk 0) = some rect0.part ∧
    s.storesDue 2 = false ∧ s.reqs = [] ∧ (m.reg 4).toNat = rows ∧
    ({ s with reqs := storing.reqs } : State).storesDue 2 = true ∧
    ∀ i j, s.plainAt ({ rect0 with st := st }.tileKey i j) 4 := by
  intro st hst rows hr
  refine ⟨on_rect _ _ _ ⟨rfl, rfl, rfl, rfl, rfl⟩ ?_, by decide, ?_, private_of _ _ _ _ _ ?_, ?_, ?_, ?_, ?_, ?_, ?_, ?_, ?_, ?_, ?_,
    fun i j => plain _ ⟨rfl, rfl, rfl, rfl⟩ _ _⟩ <;> (revert rows; revert st; decide +kernel)
theorem waits_one (m : Thread) (w : Why) (q : m.qmap = 0)
    (h : m.wait = some { why := w, again := false, half := false, fin := { done0 with d := 3 } }) : m.waitsOne :=
  ⟨q, _, h, rfl, rfl, rfl, rfl⟩
def mmulOp (a mr : Nat) : Nat × Nat × MatOp := (0, 1, .mmul 0 a mr 0 0 (acts (if a = 0x7080 then 3 * 2 ^ 60 else 0x1000)))
def running (a mr : Nat) : Rect := { rect0 with st := 1, mr := mr, imm := mr, aAddr := a, queue := [mmulOp a mr] }
def engaged (r : Rect) : State := { onRect (served 0 (.matrix 0)) r with iss := Issue.none }
/-- How the steps ended: all taken, stopped by a trap, by a bad codeword, by a missing translation. -/
def stopKind (o : Option (Got Unit)) : Nat :=
  match o with | none => 0 | some (.trap c _) => if c = clsEcc then 2 else 1 | some (.miss _ _ _ _) => 3 | _ => 4
/-- An `mmul` of no rows ends; one of a row that is nowhere stops, and so does one that meets an uncorrectable word. -/
def bad1000 (s : State) (b : Bool) : State := { s with bad := if b then [privKey 0 0 0 0x1000] else [] }
theorem witness_SequencerEnds :
    (∀ x ∈ [(0x7040, 0, false, 0), (0x7080, 1, false, 1), (0x7040, 1, true, 2)],
      let r := running x.1 x.2.1
      let s := bad1000 (engaged r) x.2.2.1
      let y := s.runMmul r 0 x.1 0 0 (acts (if x.1 = 0x7080 then 3 * 2 ^ 60 else 0x1000))
      s.rect? r.id = some r ∧ r.queue = [mmulOp x.1 x.2.1] ∧ r.st = 1 ∧ s.matAcquireDue r 0 1 false 0 = false ∧ r.orphan = false ∧
      stopKind y.2.1 = x.2.2.2 ∧
      y.2.2.thread? 0 = some (served 0 (.matrix 0)) ∧ (∀ z ∈ y.2.2.rects, z.id = r.id → y.2.2.rect? r.id = some z) ∧
      (y.2.2.rect? r.id).map (fun z => (z.queue, z.orphan)) = some (r.queue, false)) ∧
    (served 0 (.matrix 0)).waitsOne :=
  ⟨by decide +kernel, waits_one _ _ rfl rfl⟩
/-- What reading images comes to. -/
def images (g : Got (List Nat)) : List Nat := match g with | .ok l _ => l | _ => []
theorem images_of (g : Got (List Nat)) (h : images g ≠ []) : ∃ s, g = .ok (images g) s := by
  unfold images at h ⊢
  split
  · exact ⟨_, rfl⟩
  · simp_all
/-- The image of a weight handle in private memory is read. -/
theorem witness_SequencerEnds_mload : let r := { rect0 with queue := [(0, 1, .mload 0 0x7000 0 weights)] }
    let s := engaged r
    s.rect? 0 = some r ∧ s.matAcquireDue r 0 1 (tbit 0 0) (bits 0 3 1) = false ∧
    (let who : Who := { part := r.part, asid := r.asid, gid := 0 }
     let (h, u) := s.recordNow who r.dom 0x7000 weights ((s.thread 0).shFmt.toNat % 32)
       fun h => !h.ch && h.scaled && h.e0 == 256 * r.rows && h.e1 == 128 * r.cols
     (images (u.readImages who h 1)).length = 1) ∧ r.orphan = false ∧
    1 ≤ r.rows ∧ 1 ≤ r.cols ∧ r.quad + 64 * (r.rows - 1) + r.cols ≤ 4096 ∧ r.cols ≤ 64 := by decide +kernel
def msg (hdr : Nat) : Msg :=
  { id := 0, flit := { hdr := hdr, words := [7], src := 0, dom := 0 }, seq := 0, srcUid := 1, hop := (req (.load 8) 0).hop, resendAt := 0,
    prio := 0, ldc := none }
/-- A header to thread 0 of one word, one of none, one to no thread that has a field set it may not have, and a continuation's. -/
theorem witness_SendResults : ∀ ms ∈ [[], List.replicate 4 (msg 0)],
    ∀ x ∈ [(2 ^ 56, true), (0, true), (2 ^ 59, false), (2 ^ 62 + 2 ^ 40, true), (2 ^ 62 + 2 ^ 45, false)], ∀ p ∈ [none, some (2 * 2 ^ 56, []), some (2 ^ 56, [])],
    let m := { thr [(1, BitVec.ofNat 64 x.1)] with sendPart := p }
    let s := { one m with msgs := ms }
    s.issues m ∧ (m.reg 1).toNat = x.1 ∧ m.sendPart = p ∧ s.mayReach (x.1 % 2 ^ 30) = true ∧
    ((s.msgs.filter fun y => gidCk y.flit.src == s.myCore && y.ldc.isNone).length < Config.sendBuffer ↔ ms = []) := by
  unfold State.issues; decide +kernel
theorem witness_ReceiveResults : ∀ x ∈ [([1], []), ([], [(msg 0).flit]), ([], [])], let m := { thr [] with recvPart := x.1 }
    let s := { one m with cores := [{ Core.fresh 0 with recv := x.2 }] }
    s.issues m ∧ m.wait = none ∧ s.holdEdges (queueObj 5 s.iss.gid) = [] ∧
    ((s.core s.myCore).recv.find? fun f => hdrGid f.hdr % 16 == s.iss.gid % 16) = x.2.head? := by
  unfold State.issues; decide +kernel
def compl : Compl := { slot := 0, uid := 1, dom := 0, word := 9, scope := 6, acq := false }
theorem witness_ContinuationResults : (∀ x ∈ [(none, none, []), (some 5, some 1, [compl]), (some 31, none, [compl])],
    let m := { thr [] with contReg := x.1, contVal := x.2.1 }
    let s := { one m with cores := [{ Core.fresh 0 with mail := x.2.2 }] }
    s.issues m ∧ s.iss.gid % 16 ≠ 15 ∧ m.wait = none ∧ s.holdEdges (queueObj 4 s.iss.gid) = [] ∧
    ((s.core s.myCore).mail.find? fun y => y.slot == s.iss.gid % 16) = x.2.2.head?) ∧ super.issues slot15 ∧ super.iss.gid % 16 = 15 := by
  unfold State.issues; decide +kernel
def inRecv : Thread :=
  { thr [] with
    wait := some { why := .parked (queueObj 5 0) okQueue, again := false, half := false, fin := { done0 with d := 4, width := 0 } } }
def messaged (l : List Thread) (h : Nat) (posted : List (Nat × Nat)) : State :=
  { one (thr []) with threads := l, msgs := [msg h], cores := [{ Core.fresh 0 with posted := posted }] }
theorem witness_MessageSteps :
    (∀ l ∈ [[], [{ thr [] with dom := 1 }], [thr []], [inRecv]],
      ∀ p ∈ [[], [(0, 1)]], let s := messaged l (2 ^ 56) p
      (s.msgs.find? fun x => x.id == 0 && x.flit.hdr / 2 ^ 62 == 0) = some (msg (2 ^ 56)) ∧ s.flitDue (msg (2 ^ 56)) = true ∧
      s.thread? (hdrGid (2 ^ 56)) = l.head? ∧ (p.any (fun p => p.1 == gidSlot 0 && decide (s.clock < p.2)) = true ↔ p ≠ []) ∧
      (s.core (gidCk 0)).posted = p) ∧
    (∀ m ∈ [thr [], { thr [] with contReg := some 5, contSeq := 3 }, { served 0 .cont with contReg := some 5, contSeq := 3 }],
      let h := 2 ^ 62 + 3 * 2 ^ 48 + 5 * 2 ^ 40
      let s := messaged [m] h []
      (s.msgs.find? fun x => x.id == 0 && (x.flit.hdr / 2 ^ 62 == 1 || x.ldc.isSome)) = some (msg h) ∧ s.flitDue (msg h) = true ∧
      s.thread? (hdrGid h) = some m) ∧
    (served 0 .cont).waitsOne ∧
    (∀ m ∈ [thr [], { thr [] with contReg := some 5, contSeq := 3, dom := 1 }],
      let h := 2 ^ 62 + 3 * 2 ^ 48 + 5 * 2 ^ 40
      let r := req (.ldc 8 false h) far
      let x := { msg h with ldc := some 0 }
      let s := { messaged [m] h [] with msgs := [x], reqs := [r] }
      (s.msgs.find? fun x => x.id == 0 && (x.flit.hdr / 2 ^ 62 == 1 || x.ldc.isSome)) = some x ∧ s.flitDue x = true ∧ x.ldc = some r.id ∧
      s.reqs.find? (·.id == r.id) = some r ∧ gidPkg (hdrGid h) = s.pkg ∧ s.thread? (hdrGid h) = some m ∧
      ¬(m.contReg = some 5 ∧ m.dom = x.flit.dom)) ∧
    (let m := { enabled 1 with uiOn := true }
     let s := { one m with cores := [{ Core.fresh 0 with mail := [compl] }] }
     s.thread? 0 = some m ∧ m.wait = none ∧ m.stream = none ∧ m.parked = none ∧ m.stat = .running ∧ m.dfr = [] ∧ m.cycle = none ∧ m.wdPending = false ∧ m.handler = false ∧
     m.uiOnce = false ∧ ((s.core (gidCk 0)).mail.any fun x => x.slot == 0 % 16) = true ∧ s.targetOk 0 (m.uih.toNat + 1) = true) :=
  ⟨by decide +kernel, by decide +kernel, waits_one _ _ rfl rfl, by decide +kernel, by decide +kernel⟩

/-! ## Witnesses: copies, spawns, tasks, hardware queues -/

def copier (l : List Nat) : Thread := thr ((List.range 4).map fun i => (4 + i, BitVec.ofNat 64 (l.getD i 0)))
def fifo (m : Thread) (n : Nat) : State := { one m with cores := [{ Core.fresh 0 with fifo := List.range n }] }
def here (o : Got Span) : Bool := match o with | .ok _ _ => true | _ => false
/-- A full FIFO and one with a place; a scope that may be used and two that may not; a copy of a word apart and onto itself; a row of
one word of a table in shared SRAM. -/
theorem witness_CopyRequests :
    (∀ n ∈ [15, 16], let m := copier [0x1000, 0x1008, 8, 0]; let s := fifo m n
      s.issues m ∧ s.iss.gid % 16 ≠ 15 ∧ (Config.copyFifo ≤ (s.core s.myCore).fifo.length ↔ n = 16)) ∧
    (∀ sc ∈ [2, 4, 7], let m := copier [0x1000, 0x1008, 8, sc * 2 ^ 18]; let s := fifo m 15
      s.issues m ∧ (m.reg 7).toNat / 2 ^ 18 % 8 = sc ∧ (s.okScope sc = true ↔ sc = 2)) ∧
    (∀ tgt ∈ [0x1000, 0x1008], let m := copier [0x1000, tgt, 8, 2 ^ 19 + 2 ^ 17 + 5]; let s := fifo m 15;
      (m.reg 4).toNat = 0x1000 ∧ (m.reg 5).toNat = tgt ∧ (m.reg 6).toNat = 8 ∧ (m.reg 7).toNat < 2 ^ 21 ∧
      s.privateAt m 0x1000 8 (privKey 0 0 0 0x1000) ∧ s.privateAt m tgt 8 (privKey 0 0 0 tgt) ∧
      (privKey 0 0 0 0x1000 + 8 ≤ privKey 0 0 0 tgt ∨ privKey 0 0 0 tgt + 8 ≤ privKey 0 0 0 0x1000 ↔ tgt = 0x1008)) ∧
    (let m := copier [0x1000, 0x1008, bankWord, 2 ^ 19]; let s := fifo m 15;
      (m.reg 7).toNat / 2 ^ 21 % 2 ^ 11 = 0 ∧ (m.reg 7).toNat / 2 ^ 56 = 0 ∧ (m.reg 6).toNat = bankWord ∧ bankWord % 8 = 0 ∧ bankWord / 2 ^ 60 = 2 ∧
      s.privateAt m 0x1000 4 (privKey 0 0 0 0x1000) ∧ s.privateAt m 0x1008 8 (privKey 0 0 0 0x1008) ∧
      ∀ need ∈ [needR, needW], ∀ u : State, u = { s with iss := { s.iss with plain := u.iss.plain, puts := u.iss.puts } } →
        ∃ sp, u.spanOf s.who false need bankWord 8 = .ok sp u) := by
  refine ⟨by unfold State.issues; decide +kernel, by unfold State.issues; decide +kernel, ?_, by decide +kernel, by decide +kernel, by decide +kernel,
    by decide +kernel, by decide +kernel, private_of _ _ _ _ _ (by decide +kernel), private_of _ _ _ _ _ (by decide +kernel), ?_⟩
  · intro tgt ht
    refine ⟨?_, ?_, ?_, ?_, private_of _ _ _ _ _ ?_, private_of _ _ _ _ _ ?_, ?_⟩ <;> (revert tgt; decide +kernel)
  · intro need _ u hu
    exact ⟨_, shared_span _ _ _ 8 (by decide) (by rw [hu]; rfl) (by rw [hu]; rfl)⟩
def copy0 (st kind w2 : Nat) (w3 : Nat := 2 ^ 17) : Copy :=
  { id := 5, core := 0, gid := 0, uid := 1, dom := 0, part := 0, asid := 0, ef := 0, seq := 0, kind := kind, w0 := 0x1000, w1 := 0x2000,
    w2 := w2, w3 := w3, state := st, total := 0, cnt := 0, status := 0 }
def copying (x : Copy) (n : Nat) : State :=
  { one (thr []) with
    copies := x :: List.replicate n { copy0 1 0 8 with id := 6 }, cores := [{ Core.fresh 0 with fifo := [5] }], iss := Issue.none }
/-- The address of the first word of the thread's private memory. -/
def home0 : Nat := privKey 0 0 0 0
/-- An extent of the thread's own private memory, in any memory. -/
theorem copy_at (x : Copy) (n : Nat) (hx : x.gid = 0 ∧ x.part = 0) (need va l : Nat) (h : va < 0x8000 ∧ va + l ≤ 0x8000) :
    ∀ u : State, u = { copying x n with mem := u.mem } → u.spanOf x.who true need va l = .ok (.here [(home0 + va, l)]) u := by
  intro u hu
  have e : privKey 0 0 0 va = home0 + va := by simp [home0, privKey]
  rw [← e]
  exact own_span u x.who need va l hx.1 (by rw [hu, show x.who.part = 0 from hx.2]; rfl) h
/-- 47 others in flight; an acquire that is due; a command that has ended; a copy of two words; a copy from an address where nothing is; a
gather and a scatter of two rows of a word. -/
theorem witness_CopySteps :
    (let s := copying (copy0 0 0 8) 47;
      s.copies.find? (·.id == 5) = some (copy0 0 0 8) ∧ (s.core 0).fifo = [5] ∧
      (s.copies.filter fun y => y.core == 0 && y.state != 0 && y.kind != 3).length < Config.copiesInFlight ∧ (copy0 0 0 8).aq = false ∧
      (copy0 0 0 8 (2 ^ 16 + 2 ^ 19)).aq = true ∧
      ({ s with reqs := [req (.load 8) bankWord] } : State).acquireDue { copy0 0 0 8 (2 ^ 16 + 2 ^ 19) with seq := 1 } = true) ∧
    (∀ x ∈ [copy0 2 0 8, copy0 1 0 16, { copy0 1 0 8 with w0 := 3 * 2 ^ 60 }, copy0 1 1 0x3000 (2 ^ 17 + 2 ^ 32), copy0 1 2 0x3000 (2 ^ 17 + 2 ^ 32)],
      let s := copying x 0;
      s.copies.find? (·.id == x.id) = some x ∧ x.dk = 0 ∧ x.sk = 0 ∧ x.kind ≤ 2 ∧ x.rl = true ∧ s.uidLive x.uid = true ∧
      (s.part? x.part).isSome = true ∧ s.thread? (s.gidOf x.core (gidSlot x.gid)) = some (thr []) ∧ (thr []).wait = none ∧
      (s.core x.core).mail.length < Config.mailbox ∧ s.bad = [] ∧ s.soft = [] ∧ s.barWaits = [] ∧ s.feWaits = [] ∧ s.empties = [] ∧
      s.mem.wf = true ∧ s.iss.plain = false ∧ s.reqs = [] ∧ (∀ p ∈ s.parts, p.rates = []) ∧
      (∀ q ∈ s.quads, ∀ u ∈ q.mons, u.on = true → u.src ≠ 3) ∧ s.overdrawn x.part = false ∧ x.total = 0 ∧ s.rowsOwed x = false) ∧
    (let x := copy0 1 0 16; let s := copying x 0; x.w2 = 8 * 2 ∧ x.total = 0 ∧ x.cnt = 0 ∧ home0 + 0x1000 + 8 * 2 ≤ home0 + 0x2000 ∧ ∀ i, i < 2 →
      (∀ u : State, u = { s with mem := u.mem } → u.spanOf x.who true needR (x.w0 + 8 * i) 8 = .ok (.here [(home0 + 0x1000 + 8 * i, 8)]) u) ∧
      ∀ u : State, u = { s with mem := u.mem } → u.spanOf x.who true needW (x.w1 + 8 * i) 8 = .ok (.here [(home0 + 0x2000 + 8 * i, 8)]) u) ∧
    (let x := { copy0 1 0 8 with w0 := 3 * 2 ^ 60 }; 8 ≤ x.w2 ∧
      ∃ cls tval, cls ≠ clsEcc ∧ (copying x 0).spanOf x.who true needR x.w0 8 = .trap cls tval) ∧
    ∀ k ∈ [1, 2], let x := copy0 1 k 0x3000 (2 ^ 17 + 2 ^ 32); let s := copying x 0
      x.w3 / 2 ^ 32 % 2 ^ 12 + 1 = 2 ∧ (x.w3 / 2 ^ 44 % 2 ^ 12 + 1) * 8 = 8 ∧
      (∀ j, j < 2 → ∀ u : State, u = { s with mem := u.mem } →
        u.spanOf x.who true needR (x.w0 + 4 * j) 4 = .ok (.here [(home0 + 0x1000 + 4 * j, 4)]) u) ∧
      (home0 + 0x2000 + 2 * 8 ≤ home0 + 0x3000) ∧
      ∀ need need' j off l, j < 2 → off + l ≤ 8 → x.w2 + s.readN (home0 + 0x1000 + 4 * j) 4 * 8 = 0x3000 ∧
        (∀ u : State, u = { s with mem := u.mem } → u.spanOf x.who true need (0x3000 + off) l = .ok (.here [(home0 + 0x3000 + off, l)]) u) ∧
        ∀ u : State, u = { s with mem := u.mem } →
          u.spanOf x.who true need' (x.w1 + j * 8 + off) l = .ok (.here [(home0 + 0x2000 + j * 8 + off, l)]) u := by
  refine ⟨by decide +kernel, by decide +kernel, ⟨by decide, rfl, rfl, by decide, fun i hi => ⟨?_, ?_⟩⟩, ⟨by decide, 6, 3 * 2 ^ 60, by decide, rfl⟩, ?_⟩
  · have := copy_at (copy0 1 0 16) 0 ⟨rfl, rfl⟩ needR (0x1000 + 8 * i) 8 (by omega)
    rwa [← Nat.add_assoc] at this
  · have := copy_at (copy0 1 0 16) 0 ⟨rfl, rfl⟩ needW (0x2000 + 8 * i) 8 (by omega)
    rwa [← Nat.add_assoc] at this
  · intro k hk
    have hx : (copy0 1 k 0x3000 (2 ^ 17 + 2 ^ 32)).gid = 0 ∧ (copy0 1 k 0x3000 (2 ^ 17 + 2 ^ 32)).part = 0 := ⟨rfl, rfl⟩
    refine ⟨by decide +revert, by decide +revert, fun j hj => ?_, by decide, fun need need' j off l hj hl => ⟨?_, ?_, ?_⟩⟩
    · have := copy_at _ 0 hx needR (0x1000 + 4 * j) 4 (by omega)
      rwa [← Nat.add_assoc] at this
    · obtain rfl | rfl : j = 0 ∨ j = 1 := by omega
      all_goals (revert k; decide +kernel)
    · have := copy_at _ 0 hx need (0x3000 + off) l (by omega)
      rwa [← Nat.add_assoc] at this
    · have := copy_at _ 0 hx need' (0x2000 + (j * 8 + off)) l (by omega)
      simp only [← Nat.add_assoc] at this
      exact this
/-- The forms with nothing but the state and the operands asked for: a FIFO with room; a copy of two words with its release flag set and clear;
a gather and a scatter of two rows of a word from a table at 0x3000 in the issuer's private memory. -/
theorem witness_CopyFormsComplete :
    (∀ l ∈ [[0x1000, 0x1008, 8, 2 ^ 19], [0x1000, 0x1008, privKey 0 0 0 0x7FF8, 2 ^ 19]], let m := copier l; let s := fifo m 15
      s.issues m ∧ (s.core s.myCore).fifo.length < Config.copyFifo ∧ s.okScope ((m.reg 7).toNat / 2 ^ 18 % 8) = true ∧
      (m.reg 4).toNat = 0x1000 ∧ (m.reg 5).toNat = 0x1008 ∧ (m.reg 6).toNat = l.getD 2 0 ∧ (m.reg 7).toNat / 2 ^ 21 % 2 ^ 11 = 0 ∧
      (m.reg 7).toNat / 2 ^ 56 = 0 ∧ gidQuad s.iss.gid < Config.quadsPerDie) ∧
    (∀ l ∈ [[0x1000, 0x1008, 8, 2 ^ 19], [0x1000, 0x1008, privKey 0 0 0 0x7FF8, 2 ^ 19]], ∀ n ∈ [4, 8], ∀ va ∈ [0x1000, 0x1008],
      (fifo (copier l) 15).privateAt (copier l) va n (privKey 0 0 0 va)) ∧
    ∀ x ∈ [copy0 1 0 16, copy0 1 0 16 0, copy0 1 1 (privKey 0 0 0 0x3000) (2 ^ 17 + 2 ^ 32), copy0 1 2 (privKey 0 0 0 0x3000) (2 ^ 17 + 2 ^ 32)],
      let s := copying x 0
      s.copies.find? (·.id == x.id) = some x ∧ (s.uidLive x.uid = true ∧ (s.part? x.part).isSome = true ∧
        (s.core x.core).mail.length < Config.mailbox ∧ s.thread? (s.gidOf x.core (gidSlot x.gid)) = some (thr []) ∧ (thr []).wait = none) ∧
      gidQuad x.gid < Config.quadsPerDie ∧ s.owner (gidQk x.gid) = some x.part ∧ s.bad = [] ∧ s.soft = [] ∧ s.barWaits = [] ∧ s.feWaits = [] ∧
      s.empties = [] ∧ s.reqs = [] ∧ s.mem.wf = true ∧ s.iss.plain = false ∧ s.overdrawn x.part = false ∧ x.total = 0 ∧ s.rowsOwed x = false ∧ x.aq = false ∧ (s.core 0).fifo = [x.id] ∧
      (s.copies.filter fun y => y.core == 0 && y.state != 0 && y.kind != 3).length < Config.copiesInFlight ∧
      ∀ j < x.w3 / 2 ^ 32 % 2 ^ 12 + 1, 0x3000 + s.readN (privKey 0 0 0 x.w0 + 4 * j) 4 * 8 = 0x3000 := by
  refine ⟨by unfold State.issues; decide +kernel, fun l hl n hn va hv => private_of _ _ _ _ _ ?_, by decide +kernel⟩
  revert l n va
  decide +kernel
/-- The home of an access that leaves the state as it is. -/
def keyIn (s : State) (a : Acc) : Option Nat := match a with | .key k t => if t = s then some k else none | _ => none
theorem key_of (s : State) (a : Acc) (k : Nat) (h : keyIn s a = some k) : a = .key k s := by
  unfold keyIn at h
  split at h
  · split at h
    · simp_all
    · simp at h
  · simp at h
def entry0 (uid seq : Nat) : DEnt :=
  { pc := 4 * 2 ^ 60 + 2, frame := bankWord, regs := [1, 2, 3, 4], gid := 0, uid := uid, task := false, dom := 0, ra := 5, rb := 8, seq := seq, prio := 0 }
def dequed (m : Thread) (l : List DEnt) (forks : List Nat := []) (cells : List Host.Cell := []) : State :=
  { paged m with
    domains := [{ dom0 with forks := forks }], cores := [{ Core.fresh 0 with deque := l }], mem := { cells := cells, keyNo := [] } }
/-- Registers 1: the frame, a word of shared SRAM; 2: a token of entry 3; 3: a return token; 4: 0; 5: the gid of core 1's slot 0. -/
def strand : Thread := thr [(1, BitVec.ofNat 64 bankWord), (2, 2 ^ 32 + 3), (3, 2 ^ 63 + 64), (5, 16)]
/-- 64 and 63 entries; core 1 with a free fork slot and none; the entry of the token, another, and none; a count of 0 and of 1. -/
theorem witness_SpawnResults :
    (∀ n ∈ [63, 64], ∀ f ∈ [[], [16]], let s := dequed strand (List.replicate n (entry0 9 0)) f
      s.issues strand ∧ s.iss.gid % 16 ≠ 15 ∧ s.inGang = false ∧ s.tgtOk 0 1 = true ∧ s.targetMiss s.iss.gid (s.tgt 0 1) = none ∧ (s.core s.myCore).deque.length = n ∧
      s.storesDue 2 = false ∧ s.storesDue 3 = false ∧ (strand.reg 5).toNat = 16 ∧ gidPkg 16 = s.pkg ∧ s.owner (gidQk 16) = some s.myPart ∧
      s.freeFork { dom0 with forks := f } (gidCk 16) = f.head?) ∧
    2 ^ 63 ≤ (strand.reg 3).toNat ∧ (strand.reg 2).toNat / 2 ^ 16 = 2 ^ 16 ∧ (strand.reg 2).toNat % 2 ^ 16 = 3 ∧ (strand.reg 4).toNat = 0 ∧
    (∀ l ∈ [[], [entry0 1 3], [entry0 1 4]],
      (dequed strand l).issues strand ∧ ((dequed strand l).core 0).deque.filter (fun e => !e.task && e.uid == strand.uid) = l) ∧
    (∀ l ∈ [[], [(bankWord, 1)]], let s := dequed strand [] [] l
      s.bankAccess 3 8 (strand.reg 1).toNat 8 = .key bankWord s ∧ s.plainAt bankWord 8 ∧ s.badIn bankWord 8 = none ∧
      s.actDue bankWord 8 = none ∧ strand.task = false ∧ strand.postDue = 0 ∧ strand.claims = [] ∧ strand.wait = none ∧ s.holdEdges bankWord = [] ∧ s.gangOf s.iss.gid = [] ∧ s.netBars = [] ∧
      s.bufferRoom 0 = true ∧ s.iqs = [] ∧ (s.readN bankWord 8 = 0 ↔ l = [])) := by
  refine ⟨by unfold State.issues; decide +kernel, by decide +kernel, by decide +kernel, by decide +kernel, by decide +kernel,
    by unfold State.issues; decide +kernel, ?_⟩
  intro l hl
  refine ⟨key_of _ _ _ ?_, plain _ ⟨rfl, rfl, rfl, rfl⟩ _ _, ?_⟩ <;> (revert l; decide +kernel)
/-- A packet in private memory whose first word has no reserved bit, or one; a task under way, with an unmet trigger and a met one; a
packet in shared SRAM whose task starts at a legal target, and a deque full and not. -/
def packet (m : Thread) (at' w0 : Nat) (l : List DEnt) : State :=
  { dequed m l with mem := ({ cells := [], keyNo := [] } : Memory).write at' (bytesOf 8 w0 ++ List.replicate 40 0 ++ bytesOf 8 (4 * 2 ^ 60 + 1)) }
theorem witness_PacketResults :
    (∀ x ∈ [(false, false, 0), (true, false, 0), (true, true, 4)],
      let m := { atEa 64 with task := x.1, triggered := x.2.1, depRec := x.2.2 }
      let s := packet m (privKey 0 0 0 64) 31 []
      s.issues m ∧ s.iss.gid % 16 ≠ 15 ∧ s.inGang = false ∧ s.ownsEntries = false ∧ s.storesDue 2 = false ∧ m.postDue = 0) ∧
    (∀ v ∈ [31, 32], let s := packet (atEa 64) (privKey 0 0 0 64) v []
      ((atEa 64).reg 1).toNat % 64 = 0 ∧ s.privateAt (atEa 64) ((atEa 64).reg 1).toNat 64 (privKey 0 0 0 64) ∧
      (s.readN (privKey 0 0 0 64) 8 / 2 ^ 5 % 2 ^ 9 ≠ 0 ↔ v = 32)) ∧
    (∀ n ∈ [63, 64], let s := packet (atEa bankWord) bankWord 31 (List.replicate n (entry0 9 0))
      s.issues (atEa bankWord) ∧ s.ownsEntries = false ∧ ((atEa bankWord).reg 1).toNat = bankWord ∧ bankWord % 64 = 0 ∧ bankWord / 2 ^ 60 = 2 ∧
      keyIn s (s.access needR false 64 bankWord 64) = some bankWord ∧ s.badIn bankWord 64 = none ∧ s.pending (atEa bankWord).uid = [] ∧
      s.readN bankWord 8 = 31 ∧ s.targetOk s.iss.gid (s.readN (bankWord + 48) 8) = true ∧
      s.targetMiss s.iss.gid (s.readN (bankWord + 48) 8) = none ∧ s.storesDue 2 = false ∧
      (s.core s.myCore).deque.length = n) := by
  refine ⟨by unfold State.issues; decide +kernel, ?_, by unfold State.issues; decide +kernel⟩
  intro v hv
  refine ⟨by decide, private_of _ _ _ _ _ ?_, ?_⟩ <;> (revert v; decide +kernel)
/-- Roles of 8 bits, with one reserved, past them, and one that another thread of the core has or has not. -/
theorem witness_QueueRoles :
    (∀ r ∈ [0, 1, 0xAA, 3, 0xC0, 256], ∀ q ∈ [0, 1], let m := thr [(1, BitVec.ofNat 64 r)]
      let s := { one m with threads := [m, { Thread.fresh 1 2 0 with qmap := q }] }
      s.issues m ∧ s.iss.gid % 16 ≠ 15 ∧ (27 : Reg).val < 28 ∧ (m.reg 1).toNat = r ∧ s.inGang = false ∧
      (∀ n < 4, s.parkedOn (queueObj n s.iss.gid) okQueue = []) ∧ gidCk 1 = s.myCore ∧ 2 ≠ m.uid) ∧
    let s := { one (thr []) with quads := [{ Quad.fresh 0 with gang := some { leader := 1, slot := 0, todo := [] } }] }
    s.issues (thr []) ∧ s.inGang = true := by
  unfold State.issues; decide +kernel
/-- Core 1 with some running threads, core 0's deque, core 1's deque and its posts. -/
def stealing (n : Nat) (l : List DEnt) (full : Nat) (post : List DEnt) : State :=
  { one (thr []) { dom0 with forks := [24] } with
    threads := (List.range n).map fun i => Thread.fresh (16 + i) (2 + i) 0,
    cores := [{ Core.fresh 0 with deque := l }, { Core.fresh 1 with post := post, deque := List.replicate full (entry0 9 0) }] }
theorem frame_check (s : State) (w : Who) (o : s.ownsShared w.part 0 (2560 * 0x180 * 256) 8 = true)
    (r : s.reservedShared 0 (2560 * 0x180 * 256) 8 = false) :
    s.engineCheck w needW true 8 bankWord 8 (pageFuel 8) = (.ok [(bankWord, 8)], s) := by
  have p : placeOf s.pkg w.gid bankWord = .shared 0 (2560 * 0x180 * 256) := rfl
  have q : Place.room bankWord (.shared 0 (2560 * 0x180 * 256)) = 0xB1000000 := rfl
  have a : bankWord % 8 = 0 := rfl
  have k : sharedKey 0 (2560 * 0x180 * 256) = bankWord := rfl
  have e : s.check w needW true 8 bankWord 8 = (.ok [(bankWord, 8)], s) := by
    simp only [State.check, a, p, q, o, r, k]
    rfl
  show s.engineCheck w needW true 8 bankWord 8 3 = _
  unfold State.engineCheck
  rw [e]
/-- Eight running threads and seven; an entry to take and none; a post, with a full deque and one with a place. -/
theorem witness_TaskSteps :
    (∀ n ∈ [7, 8], ∀ l ∈ [[], [entry0 9 0]], let s := stealing n l 0 []
      (s.threads.filter fun t => gidCk t.gid == 1 && t.stat == .running).length = n ∧ s.victim 1 = l.head?.map ((0, ·)) ∧ s.chosen 0 = none ∧
      s.domain? 0 = some { dom0 with forks := [24] } ∧ s.freeFork { dom0 with forks := [24] } 1 = some 24 ∧ s.badIn bankWord 8 = none ∧ s.barWaits = []) ∧
    (∀ v : State, v = { stealing 7 [entry0 9 0] 0 [] with cores := v.cores } →
      v.engineCheck { part := 0, asid := 0, gid := 24 } needW true 8 (entry0 9 0).frame 8 (pageFuel 8) = (.ok [(bankWord, 8)], v)) ∧
    (5 < 8 ∧ 5 ≠ 0 ∧ 0 < 8 + 3 ∧ 8 + 3 < 32) ∧
    (let s := { stealing 7 [entry0 9 0] 0 [] with threads := thr [] :: (List.range 7).map fun i => Thread.fresh (16 + i) (2 + i) 0 }
     s.victim 1 = some (0, entry0 9 0) ∧ (s.chosen 0).isSome = true) ∧
    ∀ p ∈ [[], [entry0 9 1]], ∀ n ∈ [63, 64], ((stealing 7 [] n p).core 1).post = p ∧ ((stealing 7 [] n p).core 1).deque.length = n := by
  refine ⟨by decide +kernel, ?_, by decide, by decide +kernel, by decide +kernel⟩
  intro v hv
  rw [hv]
  exact frame_check _ _ (show (stealing 7 [entry0 9 0] 0 []).ownsShared 0 0 _ 8 = true by decide +kernel)
    (show (stealing 7 [entry0 9 0] 0 []).reservedShared 0 _ 8 = false by decide +kernel)

/-! ## Witnesses: incremental queues and arrangements -/

def rec0 (o : Bool) : IqRec := { key := 1, val := 2, mult := 2 ^ 32 - 1, time := 1, isOpen := o }
def queue (cons : Option Nat) (prods : List Nat) (recs : List IqRec) (closed : Bool) : Iq :=
  { id := bankWord, dom := 0, bank := 0, spill := 4 * 2 ^ 60, cap := 32, recs := recs, ringN := min 32 recs.length, rhead := 0, head := 0, cons := cons, prods := prods,
    closed := closed, consGone := false }
/-- The thread with the address of the queue, that of the spill, a capacity, and a record of a multiplicity in the group at 8. -/
def pusher (mult : Nat) : Thread :=
  thr [(1, BitVec.ofNat 64 bankWord), (2, BitVec.ofNat 64 (4 * 2 ^ 60)), (3, 32), (8, 1), (9, 2), (11, BitVec.ofNat 64 mult)]
def queued (m : Thread) (l : List Iq) : State := { paged m with threads := [m, { Thread.fresh 16 9 0 with dom := 0, tidNo := 7 }], iqs := l }
/-- No queue there; 256 queues elsewhere; one in the same place. -/
theorem witness_QueueResults_new : ∀ l ∈ [[], List.replicate 256 { queue none [] [] true with id := bankWord + 0x10000000 }, [queue none [] [] true]],
    let m := pusher 0; let s := queued m l
    s.issues m ∧ s.iss.gid % 16 ≠ 15 ∧ s.domain? m.dom = some dom0 ∧ (m.reg 1).toNat % 256 = 0 ∧ (m.reg 1).toNat / 2 ^ 60 = 2 ∧
    placeOf s.pkg s.iss.gid (m.reg 1).toNat = .shared 0 (2560 * 0x180 * 256) ∧ s.owner (qk 0 (sharedBank (2560 * 0x180 * 256))) = some s.myPart ∧
    bankLocal (2560 * 0x180 * 256) + 1024 ≤ bankBytes (sharedBank (2560 * 0x180 * 256)) ∧ (m.reg 2).toNat / 2 ^ 60 = 4 ∧
    (m.reg 3).toNat = 2 ^ 5 ∧ (s.check s.who needW false 32 (m.reg 2).toNat (32 * 32)).1 = .ok [(4 * 2 ^ 60, 1024)] ∧
    (256 ≤ (s.iqs.filter (·.dom == m.dom)).length ↔ l.length = 256) ∧
    (s.check s.who needW false 32 (m.reg 2).toNat (32 * 32)).2.ringTaken (qk 0 (sharedBank (2560 * 0x180 * 256)))
      (bankLocal (2560 * 0x180 * 256)) = decide (l = [queue none [] [] true]) := by
  unfold State.issues; decide +kernel
/-- An empty queue; one with a consumer or producers, or that is full, or closed; with 62 and 63 open records; records to pop, sealed and
open; a record to push of multiplicity 0 and more; a thread of its number and none. -/
def queues : List Iq :=
  [queue none [] [] true, queue (some 1) [] [] true, queue (some 9) [1] [] false, queue (some 1) [9] [] false, queue (some 1) [9] [rec0 true] false,
   queue (some 1) [9] [rec0 false] false, queue none (List.replicate 8 9) [] false, queue none (List.replicate 7 9) [] false,
   queue none [1] (List.replicate 62 (rec0 true)) false, queue none [1] (List.replicate 63 (rec0 true)) false, queue none [1] (List.replicate 64 (rec0 false)) false]
theorem witness_QueueResults_one : ∀ q ∈ queues, ∀ n ∈ [0, 1], let m := pusher n; let s := queued m [q]
    s.issues m ∧ s.iss.gid % 16 ≠ 15 ∧ s.domain? m.dom = some dom0 ∧ s.iq? (m.reg 1).toNat = some q ∧ q.dom = m.dom ∧
    (∀ z ∈ s.iqs, z.id = (m.reg 1).toNat → z = q) ∧ s.barWaits = [] ∧ (q.recs.length ≤ 32 → (s.iqIn q).recs = q.recs) ∧ s.releaseDue = false ∧ s.parkedOn bankWord okQueue = [] ∧ m.wait = none ∧
    m.groupOf 8 / 2 ^ 192 % 2 ^ 32 = n ∧ s.iqDone q = q.closed ∧ s.edges = [] ∧ m.uid = 1 ∧
    (∀ z ∈ s.threads, z.uid = 9 → z.gid ≠ s.iss.gid) ∧
    (s.threads.find? fun t => t.dom == m.dom && t.tidNo == 0x4000000000000000 % 2 ^ 32) = some m ∧
    (s.threads.find? fun t => t.dom == m.dom && t.tidNo == 6 % 2 ^ 32) = none ∧
    (q.prods.length < 8 → s.iqDone { q with prods := q.prods ++ [9] } = false) := by
  unfold State.issues; decide +kernel
/-- The answer to a binding, of the thread itself or of one that is not there, with the roles that the queues have and have not room for. -/
def binder : Thread := { thr [] with wait := some { why := .reply 0, again := false, half := false, fin := { done0 with d := 3 } } }
def bound (q : Iq) (oth prod : Bool) : Req × State :=
  let r := { req (.iqbind oth 5 prod) bankWord with res := some { val := 0, val2 := 0, pred := false, trap := none } }
  (r, { queued binder [q] with reqs := [r] })
theorem witness_QueueBinds : binder.waitsOne ∧ binder.uid = 1 ∧
    ∀ q ∈ queues ++ [queue (some 9) (List.replicate 8 9) [] false], ∀ x ∈ [(false, false), (false, true), (true, false)],
    let (r, s) := bound q x.1 x.2
    (s.reqs.find? (·.id == r.id) = some r ∧ r.hop.cur = r.hop.dst ∧ s.thread? r.gid = some binder ∧ r.uid = 1 ∧ r.id = 0) ∧
    (s.byUid r.uid = some binder ∧ s.iq? r.va = some q ∧ (∀ z ∈ s.iqs, z.id = q.id → z = q)) ∧
    (s.threads.find? fun t => t.dom == r.dom && t.tidNo == 5) = none ∧ s.parkedOn q.id okQueue = [] ∧
    (q.prods.length < 8 → ({ s with reqs := s.reqs.filter (·.id != r.id) } : State).iqDone { q with prods := q.prods ++ [1] } = false) ∧
    (q.closed = false ∨ q.prods = []) := ⟨⟨rfl, _, rfl, rfl, rfl, rfl, rfl⟩, rfl, by decide +kernel⟩
theorem witness_ConsolidationSums : ∀ r ∈ (queue none [] [rec0 true, rec0 false, rec0 true] true).recs, r.mult < 2 ^ 32 := by decide
def arr0 : Arr := { base := bankWord, buckets := 4, part := 0, doms := [0] }
/-- Four buckets: none used; the key's among them; all of another key. -/
def arranged (m : Thread) (l : List Host.Cell) : State := { one m with arrs := [arr0], mem := { cells := l, keyNo := [] } }
def buckets (k : BitVec 8) : List Host.Cell := (List.range 4).flatMap fun i => [(bankWord + 32 * i, k), (bankWord + 32 * i + 24, 1)]
def probed (p : Probe) : Nat := match p with | .free _ => 0 | .found _ => 1 | .full => 2 | .bad _ => 3
theorem witness_ArrangementResults :
    (∀ x ∈ [([], 0), (buckets 5, 1), (buckets 6, 2)], let m := thr [(1, BitVec.ofNat 64 bankWord), (2, 5), (3, 6)]; let s := arranged m x.1
      s.issues m ∧ s.iss.gid % 16 ≠ 15 ∧ (s.arrs.find? fun z => z.base == (m.reg 1).toNat && z.doms.contains m.dom) = some arr0 ∧
      s.pending m.uid = [] ∧ placeOf s.pkg s.iss.gid (m.reg 1).toNat = .shared 0 (2560 * 0x180 * 256) ∧ s.bufferRoom 1 = true) ∧
    (∀ z ∈ (one (thr [])).arrs, ¬(z.base = 0 ∧ (thr []).dom ∈ z.doms)) ∧
    (∀ x ∈ [([], 0), (buckets 5, 1), (buckets 6, 2)], let q := req (.arrget 5) bankWord
      let s := { arranged (thr []) x.1 with reqs := [q] }
      s.reqs.find? (·.id == q.id) = some q ∧ s.mayPerform q = true ∧ s.arrTurn q = true ∧ q.comb = [] ∧
      (s.arrs.find? fun z => z.base == q.va && z.doms.contains q.dom) = some arr0 ∧ probed (s.arrFind arr0 5) = x.2) ∧
    ∀ x ∈ [([], 0), (buckets 5, 1)], let q := { req (.arradd 5 6) bankWord with posted := true }
      let s := { arranged (thr []) x.1 with reqs := [q] }
      s.reqs.find? (·.id == q.id) = some q ∧ q.op = .arradd 5 6 ∧ s.mayPerform q = true ∧ s.arrTurn q = true ∧ s.barWaits = [] ∧
      (s.arrs.find? fun z => z.base == q.va && z.part == q.part) = some arr0 ∧
      probed (s.arrFind arr0 5) = x.2 := by
  unfold State.issues; decide +kernel

/-! ## Witnesses: commands of the host -/

/-- A command of 128 bytes: its code, its generation, and its arguments by offset, size and value. -/
def command (code gen : Nat) (args : List (Nat × Nat × Nat)) : List Byte :=
  bytesOf 2 code ++ bytesOf 6 0 ++ bytesOf 4 gen ++ bytesOf 4 0 ++ (bytesOf 112 (args.map fun a => a.2.2 * 2 ^ (8 * a.1)).sum)
def asked (bs : List Byte) : Cmd := { bytes := bs, result := none }
def ring0 (n entries : Nat) : Ring := { base := 0x100, entries := entries, notify := 0x80, consAt := 0x40, cons := 0, n := n }
/-- Page 0 of a function with one command on it. -/
def paging (fn : Nat) (c : Cmd) (n : Nat := 0) : State :=
  { one (thr []) with pages := [{ Page.fresh fn 0 with cmds := [c], ring := ring0 n 16, recent := [([1], false), ([2], false)] }] }
theorem witness_PageCommands :
    (let s := { one (thr []) with pages := (List.range 4).map fun i => { Page.fresh 0 (252 + i) with cmds := List.replicate 15 (asked []) } }
     (command 4 0 []).length = 128 ∧ 255 < 256 ∧ (s.page 0 255).reattach = false ∧ (s.page 0 255).cmds.length < 16 ∧
     s.queuedAt (s.page 0 255).die < Config.coreCommands) ∧
    16 ≤ (({ one (thr []) with pages := [{ Page.fresh 0 0 with cmds := List.replicate 16 (asked []) }] } : State).page 0 0).cmds.length ∧
    (∀ x ∈ [(command 4 0 [(34, 1, 1)], false), (command 4 1 [], true)], let c := asked x.1; let s := paging 0 c;
      (s.page 0 0).due = some c ∧ c.code = 4 ∧ (s.core (cmdCore (s.page 0 0).die)).halted = false ∧ c.wellFormed = x.2 ∧
      (x.2 = true → c.gen ≠ (s.page 0 0).gen)) ∧
    (let c := asked (command 0x11 0 []); let s := paging 1 c
     (s.page 1 0).due = some c ∧ c.code = 0x11 ∧ (s.core (cmdCore (s.page 1 0).die)).halted = false ∧ c.wellFormed = true ∧
     c.gen = (s.page 1 0).gen) ∧
    (∀ e ∈ [15, 16, 4096], let c := asked (command 1 9 [(8, 4, e)]); (paging 0 c).hasDue 0 0 1 c ∧ c.ring.entries = e) ∧
    ∀ e ∈ [15, 16, 4096], ∀ n ∈ [0, 1, 2], let c := asked (command 2 0 [(8, 4, e)]); let s := paging 0 c n;
      s.hasDue 0 0 2 c ∧ c.ring.entries = e ∧
      ((s.page 0 0).ring.n + 2 ^ 32 - s.hostRead (s.page 0 0).ring.consAt 4 % 2 ^ 32) % 2 ^ 32 = n ∧
      (s.page 0 0).recent.length ≤ 16 := by
  unfold State.hasDue; decide +kernel
def walk0 : Walk :=
  { id := 0, die := 0, quad := 0, part := 0, dom := 0, asid := 0, sel := 4, va := 0, acc := 1, first := 0, waiters := [(0, 8)], state := 3,
    num := 1, discard := false }
/-- A result on a ring with room and on a full one whose count has not moved; a function of a partition and one of none; a fault
that waits for its answer and none; answers 0, 1 and 2. -/
theorem witness_RingCommands :
    (∀ n ∈ [15, 16], let c := { asked (command 4 0 []) with result := some (0, 1, 2) }; let s := paging 0 c n; let p := s.page 0 0
      p.cmds = [c] ∧ c.result = some (0, 1, 2) ∧ ((p.ring.n + 2 ^ 32 - p.ring.cons % 2 ^ 32) % 2 ^ 32 = p.ring.entries ↔ n = 16) ∧
      s.hostRead p.ring.consAt 4 = 0 ∧ p.ring.full = decide (n = 16) ∧ (∃ x ∈ s.pages, x.fn = 0 ∧ x.page = 0)) ∧
    (let c := { asked (command 4 0 []) with result := some (0, 1, 2) }
     let s := { paging 0 c 16 with mem := { cells := [(hostKey 0x40, 16)], keyNo := [] } }; let p := s.page 0 0
     p.cmds = [c] ∧ (p.ring.n + 2 ^ 32 - p.ring.cons % 2 ^ 32) % 2 ^ 32 = p.ring.entries ∧ s.hostRead p.ring.consAt 4 = 16 ∧
     ({ p.ring with cons := 16 } : Ring).full = false) ∧
    (∀ fn ∈ [0, 1], let c := asked (command 0x0D 0 [(8, 4, 4096)]); let s := paging fn c;
      s.hasDue fn 0 0x0D c ∧ c.ring.entries = 4096 ∧ (if fn = 0 then none else s.part? (fn - 1)) = if fn = 0 then none else some part0) ∧
    (∀ l ∈ [[], [walk0]], ∀ v ∈ [0, 1, 2], let c := asked (command 0x0B 0 [(0, 8, 1), (8, 4, v)])
      let s := { paging 1 c with walks := l }
      s.hasDue 1 0 0x0B c ∧ s.part? (1 - 1) = some part0 ∧ c.arg 8 4 = v ∧
      (s.walks.find? fun w => w.part == part0.num && w.state == 3 && w.num == c.arg 0 8) = l.head?) ∧
    (let c := asked (command 0x0C 0 [(0, 8, 0x2000)]); (paging 0 c).hasDue 0 0 0x0C c) := by
  unfold State.hasDue; exact ⟨by decide +kernel, by decide +kernel, by decide +kernel, by decide +kernel, by decide +kernel⟩
/-- A domain of the physical function. -/
def mine (st : DStat) (f : Domain → Domain := id) : Domain := f { dom0 with fn := 0, stat := st }
def owned (d : Domain) (code : Nat) (args : List (Nat × Nat × Nat)) : State :=
  { paging 0 (asked (command code 0 args)) with domains := [d] }
def area0 : Nat := bankWord
def saved0 : Saved := { dom := 0, area := area0, threads := [thr []], mails := [], tasks := [], flits := [], tiles := [], rects := [] }
/-- For each command of a domain, the states its answers tell apart. -/
theorem witness_DomainCommands :
    (let c := asked (command 0x0A 0 [(0, 2, 1)]); (paging 0 c).hasDue 0 0 0x0A c ∧ (paging 0 c).domain? (c.arg 0 2) = none) ∧
    (let c := asked (command 0x0A 0 []); (paging 0 c).hasDue 0 0 0x0A c ∧ (paging 0 c).domain? 0 = some dom0 ∧ dom0.fn ≠ 0) ∧
    (∀ x ∈ [(0x0A, DStat.terminated, []), (4, .created, []), (4, .reacting, []), (5, .reacting, [(2, 2, 0), (4, 8, 7)]),
        (5, .terminated, [(2, 2, 1), (4, 8, 7)]), (5, .reacting, [(2, 2, 2)]), (6, .reacting, [(2, 8, 3), (10, 8, 0x2000)]), (9, .terminated, []),
        (9, .reacting, [(2, 8, 5)]), (7, .reacting, [(2, 8, area0)]), (8, .reacting, [(2, 8, area0)]), (8, .suspended, [(2, 8, area0)])],
      let s := owned (mine x.2.1) x.1 x.2.2; let c := asked (command x.1 0 x.2.2)
      s.hasDue 0 0 x.1 c ∧ s.domain? (c.arg 0 2) = some (mine x.2.1) ∧ (mine x.2.1).fn = 0 ∧ (mine x.2.1).suspendTo = none ∧
      s.queuesHold (c.arg 0 2) = false ∧ (mine x.2.1).sigs.length = 2) ∧
    ((mine .reacting).acting = true ∧ (mine .terminated).acting = false ∧ sig0.out = false ∧ (mine .terminated).live = false ∧
      (mine .reacting).live = true) ∧
    (∀ l ∈ [[], [(3, [(0, 1, 9)])], [(4, [])]],
      ((mine .reacting fun d => { d with outs := l }).outs.find? (·.1 == 3)).isSome = decide (l = [(3, [(0, 1, 9)])]) ∧
      ((mine .reacting fun d => { d with outs := l }).outs.any fun y => decide (3 < y.1)) = decide (l = [(4, [])])) ∧
    (let s := { owned (mine .reacting) 7 [(2, 8, area0)] with cores := [{ Core.fresh 0 with hwq := #v[[1], [], [], []] }] }; s.queuesHold 0 = true) ∧
    (let d := mine (.closing 3) fun d => { d with suspendTo := some area0, home := 4 }
     let s := owned d 7 [(2, 8, area0)]
     s.hasDue 0 0 7 (asked (command 7 0 [(2, 8, area0)])) ∧ s.domain? 0 = some d ∧ s.queuesHold 0 = false ∧ s.saveReady 0 = true) ∧
    ∀ l ∈ [[], [saved0]], ∀ t ∈ [[], [thr []]], let s := { owned (mine .suspended) 8 [(2, 8, area0)] with saved := l, threads := t }
      s.saved.find? (fun y => y.dom == 0 && y.area == area0) = l.head? ∧ (s.resumeRoom saved0 = true ↔ t = []) := by
  unfold State.hasDue; decide +kernel
/-- A save that has its area. -/
theorem witness_DomainCommands_save :
    let d := mine (.closing 3) fun d => { d with suspendTo := some (4 * 2 ^ 60) }
    let s := { owned d 7 [(2, 8, 4 * 2 ^ 60)] with
      quads := { Quad.fresh 0 with part := some 0, tlb := [page 7] } :: (List.range 15).map fun i => { Quad.fresh (i + 1) with part := some 0 } }
    (s.save d (4 * 2 ^ 60)).isSome = true := by decide +kernel
theorem byte_at (m : Memory) (k n i : Nat) (h : i < n) : (m.bytes k n).getD i 0 = m.byte (k + i) := by
  induction n generalizing k i with
  | zero => omega
  | succ n ih =>
    cases i with
    | zero => rfl
    | succ i => rw [Memory.bytes, List.getD_cons_succ, ih _ _ (by omega)]; congr 1; omega
/-- What has been written is read, and what has not been is as before. -/
theorem written (m : Memory) (w : m.wf = true) (k : Nat) (bs : List Byte) : (m.write k bs).bytes k bs.length = bs := by
  apply List.ext_getElem (by rw [Memory.bytes_length])
  intro i h _
  have hi : i < bs.length := by rwa [Memory.bytes_length] at h
  have a := byte_at (m.write k bs) k bs.length i hi
  rw [Memory.byte_write _ w, if_pos ⟨by omega, by omega⟩] at a
  rw [← List.getD_eq_getElem _ 0 h, a, ← List.getD_eq_getElem _ 0 hi]
  congr 1
  omega
theorem unwritten (m : Memory) (w : m.wf = true) (k j n : Nat) (bs : List Byte) (h : k + bs.length ≤ j ∨ j + n ≤ k) :
    (m.write k bs).bytes j n = m.bytes j n := by
  apply Memory.bytes_congr
  intro i hi
  rw [Memory.byte_write _ w, if_neg (by omega)]
theorem moved_length (a : List Nat) (n k x y : Nat) (out : List Nat) : (moveLanes a n k x y out).length = out.length := by
  induction n generalizing k x y out with
  | zero => rfl
  | succ n ih => rw [moveLanes, ih, List.length_set]
theorem permute_length (n r : Nat) (a : List Nat) : (permute n r a).length = a.length := by
  induction n generalizing r a with
  | zero => rfl
  | succ n ih => rw [permute]; simp [ih, mixRows, moved_length, mixSheets]
theorem soak_length (n : Nat) (bs : List Byte) (a : List Nat) : (soak bs n a).length = a.length := by
  induction n generalizing bs a with
  | zero => rfl
  | succ n ih => rw [soak, ih, permute_length, List.length_mapIdx]
theorem sha3_length (m : List Byte) : (sha3 m).length = 64 := by
  have b : ∀ l : List Nat, (l.flatMap (bytesOf 8)).length = 8 * l.length := by
    intro l
    induction l with
    | nil => rfl
    | cons x l ih => rw [List.flatMap_cons, List.length_append, ih, bytesOf_length, List.length_cons]; omega
  rw [sha3, b, List.length_take, soak_length, List.length_replicate]
  rfl
/-- A key of 2,592 zeros in host memory at 0x4040, with its hash before it, and one byte at 0x100. -/
def keyBytes : List Byte := List.replicate 2592 0
def held2 (c : Cmd) (m : Memory) (k : Nat) (bs : List Byte) : State := { paging 0 c with mem := m.write k bs }
theorem held2_bytes (c : Cmd) (m : Memory) (k a n : Nat) (bs : List Byte) :
    (held2 c m k bs).hostBytes a n = (m.write k bs).bytes (hostKey (a % 2 ^ 60)) n := rfl
def low (v : Byte) : Memory := { cells := [(hostKey 0x100, v)], keyNo := [] }
theorem low_wf : ∀ v : Byte, v ≠ 0 → (low v).wf = true := by decide +kernel
def keyed (c : Cmd) (v : Byte) : State := held2 c (low v) (hostKey 0x4000) (sha3 keyBytes)
theorem zeros (v : Byte) (a n : Nat) (h : 0x100 < a) (h' : a + n ≤ 2 ^ 60) : (low v).bytes (hostKey a) n = List.replicate n 0 := by
  induction n generalizing a with
  | zero => rfl
  | succ n ih =>
    have r : keyRegion (hostKey a) = none := by
      have : keySel (hostKey a) = 6 := by unfold keySel hostKey; omega
      simp [keyRegion, this]
    have b : (low v).byte (hostKey a) = 0 := by
      have : ¬(hostKey 0x100 = hostKey a) := by unfold hostKey; omega
      simp [Memory.byte, Memory.blank, low, lookupCell, r, this]
    rw [Memory.bytes, b, List.replicate_succ, show hostKey a + 1 = hostKey (a + 1) by unfold hostKey; omega, ih (a + 1) (by omega) (by omega)]
theorem key_table (c : Cmd) (v : Byte) (hv : v ≠ 0) : ∀ k ∈ (List.range 1).map (fun i => ((keyed c v).hostBytes (0x4000 + 2656 * i) 64,
    (keyed c v).hostBytes (0x4000 + 2656 * i + 64) 2592)), sha3 k.2 = k.1 := by
  intro k hk
  have e : k = ((keyed c v).hostBytes 0x4000 64, (keyed c v).hostBytes 0x4040 2592) := by
    rw [List.range_one, List.map_singleton, List.mem_singleton] at hk
    rw [hk]
  have a : (keyed c v).hostBytes 0x4000 64 = sha3 keyBytes := by
    rw [keyed, held2_bytes]
    have := written (low v) (low_wf v hv) (hostKey 0x4000) (sha3 keyBytes)
    rw [sha3_length] at this
    exact this
  have b : (keyed c v).hostBytes 0x4040 2592 = keyBytes := by
    rw [keyed, held2_bytes, unwritten _ (low_wf v hv) (hostKey 0x4000) (hostKey (0x4040 % 2 ^ 60)) 2592 (sha3 keyBytes)
      (.inl (by rw [sha3_length]; decide))]
    exact zeros v 0x4040 2592 (by decide) (by decide)
  rw [e, a, b]
theorem bitmap (c : Cmd) (v : Byte) (hv : v ≠ 0) : (keyed c v).hostBytes 0x100 1280 = v :: List.replicate 1279 0 := by
  rw [keyed, held2_bytes, unwritten _ (low_wf v hv) _ _ _ _ (.inr (by decide)), Memory.bytes]
  have a : (low v).byte (hostKey (0x100 % 2 ^ 60)) = v := by simp [Memory.byte, low, lookupCell]
  rw [a, show hostKey (0x100 % 2 ^ 60) + 1 = hostKey 0x101 by decide, zeros v 0x101 1279 (by decide) (by decide)]
theorem bitmap_one (v : Byte) (q N : Nat) (h : q < 8 ∧ ∀ i < 8, tbit v.toNat i = true ↔ i = q) (k : Nat) :
    k ∈ bitmapQuads (v :: List.replicate N 0) ↔ k = q := by
  obtain ⟨hq, h⟩ := h
  have e : ∀ i, tbit ((v :: List.replicate N (0 : Byte)).getD (i / 8) 0).toNat (i % 8) = true ↔ i = q := by
    intro i
    cases hn : i / 8 with
    | zero => rw [List.getD_cons_zero, h _ (by omega)]; omega
    | succ n =>
      have z : (List.replicate N (0 : Byte)).getD n 0 = 0 := by
        by_cases a : n < N
        · simp [List.getD, a]
        · simp [List.getD, a]
      rw [List.getD_cons_succ, z]
      simp [tbit]
      omega
  rw [bitmapQuads, List.mem_filterMap]
  constructor
  · rintro ⟨i, -, hi⟩
    split at hi
    · rename_i t
      have := (e i).1 t
      subst this
      have : qk (i / Config.quadsPerDie) (i % Config.quadsPerDie) = i := by unfold qk Config.quadsPerDie; omega
      injection hi with hi
      rw [← hi, this]
    · simp at hi
  · intro hk
    refine ⟨q, by rw [List.mem_range]; unfold Config.quadsPerDie; omega, ?_⟩
    rw [if_pos ((e q).2 rfl), hk]
    unfold qk Config.quadsPerDie
    congr 1
    omega
/-- A tenant of no free number, of a quad that another has, and of one that none has. -/
theorem witness_TenantCommands_create : ∀ x ∈ [(0, 1), (1, 1), (1, 2)],
    let c := asked (command 0x10 0 [(0, 2, x.1), (2, 8, 0x100), (10, 8, 3), (18, 8, 0x4000), (26, 2, 1)])
    let s := keyed c (BitVec.ofNat 8 x.2)
    s.hasDue 0 0 0x10 c ∧ c.arg 18 8 = 0x4000 ∧ c.arg 26 2 = 1 ∧
    (∀ k ∈ (List.range 1).map (fun i => (s.hostBytes (0x4000 + 2656 * i) 64, s.hostBytes (0x4000 + 2656 * i + 64) 2592)), sha3 k.2 = k.1) ∧
    c.arg 0 2 ≤ 255 ∧ c.arg 10 8 < 4 ∧ c.arg 2 8 = 0x100 ∧ (s.part? (c.arg 0 2) = none ↔ x.1 = 1) ∧
    (∀ k, k ∈ bitmapQuads (s.hostBytes 0x100 1280) ↔ k = x.2 - 1) ∧ (s.owner (x.2 - 1) = none ↔ x.2 = 2) := by
  intro x hx
  have hv : BitVec.ofNat 8 x.2 ≠ 0 := by revert x; decide
  refine ⟨?_, ?_, ?_, key_table _ _ hv, ?_, ?_, ?_, ?_, fun k => ?_, ?_⟩
  · unfold State.hasDue; clear hv; revert x; decide +kernel
  · clear hv; revert x; decide +kernel
  · clear hv; revert x; decide +kernel
  · clear hv; revert x; decide +kernel
  · clear hv; revert x; decide +kernel
  · clear hv; revert x; decide +kernel
  · clear hv; revert x; decide +kernel
  · rw [bitmap _ _ hv]
    exact bitmap_one _ _ _ (by clear hv k; revert x; decide) k
  · clear hv; revert x; decide +kernel
/-- Bytes of host memory, by address. -/
def hosting (fn : Nat) (c : Cmd) (l : List (Nat × Byte)) (ds : List Domain := [dom0]) : State :=
  { paging fn c with mem := { cells := l.map fun e => (hostKey e.1, e.2), keyNo := [] }, domains := ds }
theorem host_zero (s : State) (h : s.mem.cells = []) (a n : Nat) (ha : a + n ≤ 2 ^ 60) : s.hostBytes a n = List.replicate n 0 := by
  have g : ∀ (k n : Nat), 6 * 2 ^ 60 ≤ k → k + n ≤ 7 * 2 ^ 60 → s.mem.bytes k n = List.replicate n 0 := by
    intro k n
    induction n generalizing k with
    | zero => exact fun _ _ => rfl
    | succ n ih =>
      intro h1 h2
      have r : keyRegion k = none := by
        have : keySel k = 6 := by unfold keySel; omega
        rw [keyRegion, this]
        rfl
      have b : s.mem.byte k = 0 := by
        rw [Memory.byte, h, Memory.blank, r]
        rfl
      rw [Memory.bytes, b, List.replicate_succ, ih _ (by omega) (by omega)]
  exact g _ _ (by unfold hostKey; omega) (by unfold hostKey; omega)
theorem witness_TenantCommands_rates : let c := asked (command 0x13 0 [(2, 8, 0x200)])
    ∀ i < 4 * Config.quadsPerDie + 4, (hosting 0 c []).hostRead (c.arg 2 8 + 8 * i) 8 < 2 ^ 48 := by
  intro c i hi
  have a : c.arg 2 8 = 0x200 := by decide +kernel
  unfold Config.quadsPerDie at hi
  show ofBytes ((hosting 0 c []).hostBytes (c.arg 2 8 + 8 * i) 8) < 2 ^ 48
  rw [host_zero _ rfl _ _ (by omega)]
  decide
theorem witness_TenantCommands :
    (∀ p ∈ [0, 1], let c := asked (command 0x11 0 [(0, 2, p)]); let s := paging 0 c; s.hasDue 0 0 0x11 c ∧ (s.part? (c.arg 0 2) = none ↔ p = 1)) ∧
    (let c := asked (command 0x12 0 [(2, 2, 2 ^ 14 - 1)]); let s := paging 0 c; s.hasDue 0 0 0x12 c ∧ s.part? (c.arg 0 2) ≠ none ∧ c.arg 2 2 < 2 ^ 14) ∧
    (∀ v ∈ [(0, 0), (6, 1)], let c := asked (command 0x13 0 [(2, 8, 0x200)]); let s := hosting 0 c [(0x200 + v.1, v.2)]
      s.hasDue 0 0 0x13 c ∧ s.part? (c.arg 0 2) ≠ none ∧ (2 ^ 48 ≤ s.hostRead (c.arg 2 8 + 8 * 0) 8 ↔ v.1 = 6)) ∧
    (∀ a ∈ [63, 64, 4096], ∀ d ∈ [11, 40], ∀ self ∈ [0, 1], ∀ ds ∈ [[], [dom0]],
      let c := asked (command 0x14 0 [(0, 4, a), (4, 4, d), (8, 8, 0x200)]); let s := hosting 0 c [(0x200, BitVec.ofNat 8 self), (0x210, 3)] ds
      s.hasDue 0 0 0x14 c ∧ c.arg 0 4 = a ∧ c.arg 4 4 = d ∧ s.hostRead 0x200 2 = self ∧ self < Config.podPackages ∧ s.hostRead 0x202 2 = 0 ∧
      s.hostRead 0x204 12 = 0 ∧ s.hostRead 0x210 80 / 2 ^ self % 2 = 1 ∧ s.pkg = 0 ∧ s.domains.any (·.live) = decide (ds = [dom0])) ∧
    (let c := asked (command 0x18 0 [(64, 8, 0x2000)]); let s := paging 1 c; s.hasDue 1 0 0x18 c ∧ s.part? (1 - 1) = some part0) := by
  unfold State.hasDue
  exact ⟨by decide +kernel, by decide +kernel, by decide +kernel, by decide +kernel, by decide +kernel⟩
theorem witness_TenantCommands_keys : let c := asked (command 0x15 0 [(2, 8, 0x4000), (10, 2, 1)])
    let s := keyed c 1
    s.hasDue 0 0 0x15 c ∧ s.part? (c.arg 0 2) ≠ none ∧ c.arg 2 8 = 0x4000 ∧ c.arg 10 2 = 1 ∧
    ∀ k ∈ (List.range 1).map (fun i => (s.hostBytes (0x4000 + 2656 * i) 64, s.hostBytes (0x4000 + 2656 * i + 64) 2592)), sha3 k.2 = k.1 :=
  ⟨by unfold State.hasDue; decide +kernel, by decide +kernel, by decide +kernel, by decide +kernel, key_table _ 1 (by decide)⟩
/-- An object with nothing in it but its measurement and its signature table, signed under a key whose hash is given as zeros. -/
def objHead : List Byte :=
  bytesOf 4 0x5445485A ++ bytesOf 2 1 ++ bytesOf 2 1 ++ bytesOf 4 0x40 ++ bytesOf 4 5035 ++ List.replicate 224 0 ++
    (bytesOf 2 64 ++ bytesOf 2 0 ++ bytesOf 4 1 ++ bytesOf 8 272) ++ (bytesOf 2 1 ++ bytesOf 2 0 ++ bytesOf 4 4699 ++ bytesOf 8 336)
def objSig : List Byte := bytesOf 2 1 ++ bytesOf 2 0 ++ bytesOf 4 4627 ++ List.replicate 4691 0
def object : List Byte := objHead ++ (sha3 objHead ++ objSig)
def signedKeys : List (List Byte × List Byte) := [(List.replicate 64 0, [])]
theorem object_length : object.length = 5035 := by
  rw [object, List.length_append, List.length_append, sha3_length]
  decide +kernel
theorem object_parts : object.take 272 = objHead ∧ slice object 272 64 = sha3 objHead ∧ slice object 336 4699 = objSig := by
  have a : objHead.length = 272 := by decide +kernel
  have b : objSig.length = 4699 := by decide +kernel
  have c : object.drop 272 = sha3 objHead ++ objSig := by rw [object, ← a, List.drop_left]
  have d : object.drop 336 = objSig := by
    rw [show (336 : Nat) = 272 + 64 by rfl, ← List.drop_drop, c, ← sha3_length objHead, List.drop_left]
  refine ⟨by rw [object, ← a, List.take_left], ?_, ?_⟩
  · rw [slice, c, ← sha3_length objHead, List.take_left]
  · rw [slice, d, ← b, List.take_length]
theorem object_signed (h : Config.verifies [] (sha3 objHead) (List.replicate 4627 0) = true) : sigOk object signedKeys = true := by
  obtain ⟨a, b, c⟩ := object_parts
  have m : tabOf object 14 = { size := 64, zero := 0, count := 1, off := 272 } := by decide +kernel
  have g : tabOf object 15 = { size := 1, zero := 0, count := 4699, off := 336 } := by decide +kernel
  have n : ((List.range 14).all fun k => (tabOf object k).count == 0 || decide ((tabOf object k).off + (tabOf object k).bytes ≤ 272)) = true := by
    decide +kernel
  have s : slice objSig 72 4627 = List.replicate 4627 0 := by
    have l : objSig.drop 8 = List.replicate 4691 0 := List.drop_left (l₁ := bytesOf 2 1 ++ bytesOf 2 0 ++ bytesOf 4 4627)
    rw [slice, show (72 : Nat) = 8 + 64 by rfl, ← List.drop_drop, l, List.drop_replicate, List.take_replicate]
    rfl
  have k : slice objSig 8 64 = List.replicate 64 0 := by decide +kernel
  have e : field objSig 0 2 = 1 ∧ field objSig 2 2 = 0 ∧ field objSig 4 4 = 4627 := by decide +kernel
  have f : signedKeys.find? (fun k => k.1 == List.replicate 64 0) = some (List.replicate 64 0, []) := by decide +kernel
  have t : Tab.bytes { size := 1, zero := 0, count := 4699, off := 336 } = 4699 := rfl
  simp only [sigOk, m, g, n, a, b, t, c, k, s, e, f, h]
  simp
def signedPart : Partition := { part0 with roots := [(0, 0, 0, 0)], keys := signedKeys }
def loading (m : Memory) (asid : Nat) : State :=
  { paging 1 (asked (command 3 0 [(0, 8, 0x4000), (8, 8, 5035), (16, 2, asid)])) with parts := [signedPart], mem := m }
theorem loading_bytes (m : Memory) (asid : Nat) (a n : Nat) : (loading m asid).hostBytes a n = m.bytes (hostKey (a % 2 ^ 60)) n := rfl
/-- An address space without roots, an object that is none, and an object whose signature verifies. -/
theorem witness_LoadAndHostWrites :
    (∀ asid ∈ [0, 1], let s := loading { cells := [], keyNo := [] } asid
      let c := asked (command 3 0 [(0, 8, 0x4000), (8, 8, 5035), (16, 2, asid)])
      s.hasDue 1 0 3 c ∧ s.part? (1 - 1) = some signedPart ∧ c.arg 16 2 = asid ∧ c.arg 0 8 = 0x4000 ∧ c.arg 8 8 = 5035 ∧
      (signedPart.roots.any (·.1 == asid) = true ↔ asid = 0)) ∧
    (loading { cells := [], keyNo := [] } 0).loadCode signedPart ((loading { cells := [], keyNo := [] } 0).hostBytes 0x4000 5035) 5035 = some 1 ∧
    (Config.verifies [] (sha3 objHead) (List.replicate 4627 0) = true →
      let s := loading (({ cells := [], keyNo := [] } : Memory).write (hostKey 0x4000) object) 0
      let f := s.hostBytes 0x4000 5035
      s.loadCode signedPart f 5035 = none ∧ (s.objs.countP fun o => o.part == 0 && s.objLive o) < 16 ∧
      s.placeAt 0 0 4 ((zofOf f).extent 0) [] = some ((0, []), s) ∧ s.placeAt 0 0 1 ((zofOf f).extent 3) [] = some ((0, []), s)) ∧
    (one (thr [])).barWaits = [] ∧ 4 * 2 ^ 60 + (Config.dramBytes - 1) < 2 ^ 63 ∧ (4 * 2 ^ 60 + (Config.dramBytes - 1)) / 2 ^ 60 = 4 ∧
    (4 * 2 ^ 60 + (Config.dramBytes - 1)) % 2 ^ 60 + [(0 : Byte)].length ≤ Config.dramBytes ∧ (7 * 2 ^ 60 - 1) / 2 ^ 60 = 6 ∧
    (7 * 2 ^ 60 - 1) % 2 ^ 60 + [(0 : Byte)].length ≤ 2 ^ 60 := by
  refine ⟨by unfold State.hasDue; decide +kernel, by decide +kernel, ?_, by decide +kernel⟩
  intro h
  have e : (loading (({ cells := [], keyNo := [] } : Memory).write (hostKey 0x4000) object) 0).hostBytes 0x4000 5035 = object := by
    rw [loading_bytes]
    have := written { cells := [], keyNo := [] } rfl (hostKey 0x4000) object
    rwa [object_length] at this
  have z : (zofOf object).extent 0 = 0 ∧ (zofOf object).extent 3 = 0 := by decide +kernel
  generalize ({ cells := [], keyNo := [] } : Memory).write (hostKey 0x4000) object = m at e
  intro s f
  show s.loadCode signedPart ((loading m 0).hostBytes 0x4000 5035) 5035 = none ∧ _ ∧ s.placeAt 0 0 4 ((zofOf ((loading m 0).hostBytes 0x4000 5035)).extent 0) [] = _ ∧
    s.placeAt 0 0 1 ((zofOf ((loading m 0).hostBytes 0x4000 5035)).extent 3) [] = _
  rw [e, z.1, z.2]
  have g := object_signed h
  refine ⟨?_, by show 0 < 16; decide, ?_, ?_⟩
  · have o : headOk object 5035 = true := by decide +kernel
    have y : (zofOf object).sects = [] ∧ (zofOf object).relocs = [] ∧ (zofOf object).map = [] ∧ (zofOf object).doms = [] ∧ (zofOf object).sigs = [] ∧
        (zofOf object).claims = [] ∧ (zofOf object).thrs = [] ∧ (zofOf object).hdls = [] ∧ (zofOf object).mxs = [] ∧ (zofOf object).ques = [] ∧
        (zofOf object).arns = [] ∧ (zofOf object).bfns = [] ∧ (zofOf object).needs = [] ∧ (zofOf object).cores = [] := by decide +kernel
    show s.loadCode { part0 with roots := [(0, 0, 0, 0)], keys := signedKeys } object 5035 = none
    simp [State.loadCode, o, g, State.sectionsOk, State.mapOk, State.domainsOk, State.threadsOk, State.matrixOk, State.restOk, Rng.disjoint, y]
  · simp [State.placeAt]
  · simp [State.placeAt]

/-! ## Witnesses: the barrel, the dealer, the mesh, the walkers, the shuffler and the package -/

/-- A thread that may issue; one that has just issued; a core that has issued in this clock; a refill clock, another, and the same again; a
thread found held at its turn, and one whose next bundle is a vector issue (`vadd`) with the budget spent. -/
theorem witness_IssueSlots :
    (let s := one (thr [])
     s.quads.all (fun q => q.gang.isNone) = true ∧ (s.core 0).released = [] ∧ (s.core 0).issuedAt ≠ some s.clock ∧
     s.thread? (s.gidOf 0 (((s.core 0).last + 1 + 0) % 16)) = some (thr []) ∧ s.ready (thr []) = true ∧ (thr []).lastIssue = none) ∧
    (let m := { thr [] with lastIssue := some 3 }
     let s := { one m with clock := 10 }
     (s.core 0).issuedAt ≠ some s.clock ∧ m.stream.isSome = false ∧ ¬(3 + 8 ≤ s.clock) ∧
     ∀ i < 16, s.thread? (s.gidOf 0 (((s.core 0).last + 1 + i) % 16)) = none ∨ s.thread? (s.gidOf 0 (((s.core 0).last + 1 + i) % 16)) = some m) ∧
    (({ one (thr []) with cores := [{ Core.fresh 0 with issuedAt := some 0 }] } : State).core 0).issuedAt = some (one (thr [])).clock ∧
    (∀ c ∈ [1023, 1024, 2048], let s := { one (thr []) with clock := c, cores := [{ Core.fresh 0 with relClock := 1024 }] }
      s.clock % 1024 = (if c = 1023 then 1023 else 0) ∧ (s.clock = (s.core 0).relClock ↔ c = 1024)) ∧
    (∃ m ∈ (one { thr [] with stat := .held }).threads, m.gid = 0 ∧ gidCk 0 = 0 ∧ m.stat = .held) ∧
    let s := let r := State.reset.withFetchWord 32 0x684531DA
      { r with clock := 1024, cores := [{ Core.fresh 0 with budget := 0 }] }
    ∃ m ∈ s.threads, m.gid = 0 ∧ (s.quad (gidQk m.gid)).gang = none ∧ m.stat = .running ∧ m.wait = none ∧ m.stream = none ∧ s.noEnergy m.gid = true ∧ s.vectorNext m = true := by
  decide +kernel
def resting (g : List Guard) : Thread := { thr [] with stat := .paused, guards := g }
/-- A created domain, one whose thread runs; one with no thread; an input that has been accepted; one whose threads rest. -/
theorem witness_InstantClosure :
    (let s := one (thr []) { dom0 with stat := .created }; s.domain? 0 = some { dom0 with stat := .created } ∧ (DStat.created ≠ .reacting)) ∧
    (let s := one (thr []); s.domain? 0 = some dom0 ∧ s.quiet 0 = false) ∧
    (let s := { one (thr []) with threads := [] }; s.domain? 0 = some dom0 ∧ s.quiet 0 = true ∧ ∀ m ∈ s.threads, m.dom ≠ 0) ∧
    (let s := owned (mine .reacting) 5 [(2, 2, 1), (4, 8, 7)]
     s.pages.map (fun p => (p.cmds.filter (s.takesInput (mine .reacting) p)).map fun c => (c.arg 2 2, c.arg 4 8)) = [[(1, 7)]]) ∧
    (let d := { dom0 with inputs := [(0, 5)] }
     let s := one (resting []) d
     s.domain? 0 = some d ∧ d.stat = .reacting ∧ s.quiet 0 = true ∧ (∃ m ∈ s.threads, m.dom = 0) ∧
     (∀ m ∈ s.threads, m.dom = 0 → m.guards = [] ∧ m.stat = .paused) ∧ (∀ q ∈ s.iqs, q.dom ≠ 0) ∧ d.suspendTo = none ∧ 0 < d.sigs.length ∧ s.mem.wf = true ∧
     ∀ a ∈ [0, 0x8000, 0x10000], 0 < d.sigKey a 0) := by
  decide +kernel
def aborts : Guard := { abort := true, sig := 0, exit := 4 * 2 ^ 60 + 65, id := 0, own := true }
theorem witness_GuardAbort : let d := domSig present; let m := resting [aborts]; let s := one m d
    s.domain? 0 = some d ∧ d.stat = .reacting ∧ s.quiet 0 = true ∧ d.suspendTo = none ∧ (∀ q ∈ s.iqs, q.dom ≠ 0) ∧
    s.threads.filter (·.dom == 0) = [m] ∧ s.thread? m.gid = some m ∧ m.stat = .paused ∧ m.guards = [aborts] ∧
    ((d.sigs.getD aborts.sig Sig.none).closed d.inst).1 = 1 := by decide +kernel
/-- A request bound for the quad at column 1, row 1, from the corner and from above its destination; nothing to route; loads that
are uneven; a token at the ingress and none. -/
def routed (cur : Nat) (mid : Option Nat := none) : Req := { req (.load 8) far with hop := { (req (.load 8) far).hop with cur := cur, dst := 65, mid := mid } }
theorem witness_Mesh :
    (∀ x ∈ [(0, Dir.east), (1, .south), (66, .west), (129, .north)], ∀ y ∈ [none, some 4], let r := routed x.1 y; let s := { one (thr []) with reqs := [r] }
      s.reqs.find? (·.id == r.id) = some r ∧ s.packetsAt x.1 = [⟨r.id, r.hop, r.prio⟩] ∧ s.msgs = [] ∧ r.hop.chan < 5 ∧
      x.2 = (if quadX x.1 < quadX 65 then .east else if quadX 65 < quadX x.1 then .west else if quadY x.1 < quadY 65 then .south else .north) ∧
      (quadX x.1 ≠ quadX 65 ∨ quadY x.1 ≠ quadY 65) ∧ (dirCode (opposite x.2), r.hop.chan) ∉ (s.quad (neighbour x.1 x.2)).stops) ∧
    (one (thr [])).packetsAt 0 = [] ∧
    (∀ c ∈ [4095, 4096], let s := { one (thr []) with clock := c, dies := [{ Die.fresh 0 with loads := [(0, 100000), (1, 1)] }] }
      (s.die 0).winStart = 0 ∧ (c < (s.die 0).winStart + 4096 ↔ c = 4095)) ∧
    ∀ u ∈ [0, 1, 1024], let p := { part0 with rates := [(1, 0, 1)], buckets := [(1, u)] }
      let r := { req (.load 8) far with bucket := true }
      let s := { one (thr []) with parts := [p], reqs := [r] }
      s.reqs.find? (·.id == r.id) = some r ∧ r.hop.cur = r.hop.dst ∧ r.res = none ∧ bucketPort r.key = some 1 ∧ s.part? r.part = some p ∧
      p.rates.find? (·.1 == 1) = some (1, 0, 1) ∧
      (max (s.clock * 0) (((p.buckets.find? (·.1 == 1)).map (·.2)).getD 0) - s.clock * 0 + 1024 ≤ max 1 1 * 1024 ↔ u = 0) := by
  decide +kernel
/-- A second-level leaf of 1 GiB in DRAM at 0x1000, under the root at 0x2000. -/
def tables : State :=
  { one (thr []) with
    parts := [{ part0 with roots := [(0, 0x2000, 0, 0)] }],
    mem := (({ cells := [], keyNo := [] } : Memory).write (dramKey 0x2000) (bytesOf 8 (0x1000 + 1))).write (dramKey 0x1000) (bytesOf 8 (3 + 28)) }
def walking (st : Nat) (d : Bool) : Walk := { walk0 with state := st, discard := d }
/-- Two threads that wait for each other, and two with no wait between them. -/
def waitEdge (g obj ek : Nat) (u : Bool) : Edge := { die := 0, idx := g + 32 * ek, obj := obj, ok := 7, ek := ek, gid := g, unc := u }
def crossed : State := { one (thr []) with edges := [waitEdge 0 8 0 true, waitEdge 16 8 1 false, waitEdge 16 9 0 false, waitEdge 0 9 1 false] }
/-- A queue of 33 records: 32 in its ring and one in its spill. -/
theorem witness_QueuePlaces : let q := { queue none [1] (List.replicate 33 (rec0 true)) false with cap := 64 }
    let s := { tables with iqs := [q] }
    let at' := fun (i : Nat) => (s.iqPlace q i).getD 0
    s.barWaits = [] ∧ s.mem.wf = true ∧ (∀ r ∈ q.recs, r.key < 2 ^ 64 ∧ r.val < 2 ^ 128 ∧ r.mult < 2 ^ 32 ∧ r.time < 2 ^ 32) ∧
    (∀ i < q.recs.length, s.iqPlace q i = some (at' i)) ∧
    ∀ i < q.recs.length, ∀ j < q.recs.length, i < j → at' i + 32 ≤ at' j ∨ at' j + 32 ≤ at' i := by decide +kernel
/-- A walk that ends with its mapping, kept and discarded; one without a mapping where there is no fault queue, one full queue and
one with room; one that waits behind another; a miss to be tried again before its time, at it, and with no walker free. -/
theorem witness_PageWalks :
    (∀ d ∈ [true, false], let s := { tables with walks := [walking 1 d] }
      walking 1 d ∈ s.walks ∧ (∀ x ∈ s.walks, x.id = 0 → x = walking 1 d) ∧ (∀ x ∈ s.walks, x.die = 0 → x.state ≠ 0) ∧
      (∀ m ∈ s.threads, m.wait = none) ∧ (s.walkTables 0 0 4 0).isSome = true) ∧
    (let s := { one (thr []) with walks := [walking 2 false] }; walking 2 false ∈ s.walks ∧ (s.part? 0).bind (·.faultQ) = none) ∧
    (∀ st ∈ [1, 2], ∀ n ∈ [15, 16], let p := { part0 with faultQ := some (ring0 n 16) }
      let s := { one (thr []) with parts := [p], walks := [walking st false] }
      walking st false ∈ s.walks ∧ (∀ x ∈ s.walks, x.die = 0 → x.state ≠ 0) ∧ (walking st false).discard = false ∧
      s.walkTables 0 0 4 0 = none ∧ s.part? 0 = some p ∧ s.hostRead (ring0 n 16).consAt 4 = 0 ∧ (ring0 n 16).full = decide (n = 16) ∧
      s.walks.find? (fun x => x.part == 0 && x.state == 2) = (if st = 2 then some (walking 2 false) else none)) ∧
    (∀ st ∈ [1, 2], let w := walking st false
      let s := { one (thr []) with walks := [{ walking 2 false with id := 1 }, w] }
      w ∈ s.walks ∧ ∃ x, s.walks.find? (fun x => x.part == w.part && x.state == 2) = some x ∧ x.id ≠ w.id) ∧
    ∀ c ∈ [3, 5], ∀ k ∈ [0, 255], let w := { walking 4 false with num := 5 }
      let s := { one (thr []) with clock := c, walks := w :: (List.range (k + 1)).map fun i => { walking 1 false with id := i + 1 } }
      w ∈ s.walks ∧ (∀ x ∈ s.walks, x.id = w.id → x = w) ∧ (∀ x ∈ s.walks, x.die = w.die → x.state ≠ 0) ∧ (s.clock < w.num ↔ c = 3) ∧
      ((s.walks.filter fun x => x.die == w.die && x.state == 1).length < 256 ↔ k = 0) := by
  refine ⟨by decide +kernel, by decide +kernel, by decide +kernel, ?_, by decide +kernel⟩
  intro st h
  exact ⟨by revert st; decide +kernel, { walking 2 false with id := 1 }, by revert st; decide +kernel, by revert st; decide +kernel⟩
/-- What a walk comes to: 0 nothing, 1 its limit, 2 a cycle, 3 another die. -/
def found : Found → Nat | .clear => 0 | .limit => 1 | .cycle _ => 2 | .cross _ _ _ _ => 3
/-- A chain of `n` threads, each waiting for the next. -/
def chain (n : Nat) (m : Thread := thr []) : State :=
  { one m with edges := waitEdge 0 0 0 true :: (List.range n).flatMap fun i => [waitEdge (i + 1) i 1 false, waitEdge (i + 1) (i + 1) 0 false] }
/-- A walk that has come to die 0 for the edge of thread 0 on die 0. -/
def crossing (n : Nat) (uid : Nat := 1) : WalkMsg :=
  { id := 5, die := 0, gid := 0, uid := uid, edge := waitEdge 0 8 0 true, checker := true, n := n, seen := [], work := [(waitEdge 0 8 0 true, [])] }
/-- Clocks of the checker and not; an edge that ends nowhere, one of a long chain, one of a cycle, and one that leads to die 1; the same for
a walk that comes from another die, and one whose thread has gone; a wake-up. -/
theorem witness_ChecksAndCrossings :
    (∀ c ∈ [65535, 65536], ({ one (thr []) with clock := c } : State).clock % 65536 = if c = 65536 then 0 else 65535) ∧
    (one (thr [])).edges = [] ∧ (crossed.clock = 0 ∧ (chain 40).clock = 0) ∧
    (∀ n ∈ [0, 40], (chain n).edges.filter (fun e => e.die == 0 && e.unc && e.ek == 0) = [waitEdge 0 0 0 true] ∧
      found ((chain n).walkEdge 0 (waitEdge 0 0 0 true)) = if n = 0 then 0 else 1) ∧
    (∀ h ∈ [true, false], let m := { thr [] with handler := h }
      let s := { crossed with threads := [m] }
      s.edges.filter (fun e => e.die == 0 && e.unc && e.ek == 0) = [waitEdge 0 8 0 true] ∧ found (s.walkEdge 0 (waitEdge 0 8 0 true)) = 2 ∧
      s.thread? 0 = some m) ∧
    (let s := { one (thr []) with edges := [waitEdge 0 8 0 true, waitEdge 16 8 1 false, { waitEdge 16 9 0 false with die := 1 }] }
     s.edges.filter (fun e => e.die == 0 && e.unc && e.ek == 0) = [waitEdge 0 8 0 true] ∧ found (s.walkEdge 0 (waitEdge 0 8 0 true)) = 3) ∧
    (∀ x ∈ [(crossed, 0, 2), (crossed, 63, 1), ({ one (thr []) with edges := [waitEdge 0 8 0 true] }, 0, 0),
        ({ one (thr []) with edges := [waitEdge 0 8 0 true, waitEdge 16 8 1 false, { waitEdge 16 9 0 false with die := 1 }] }, 0, 3)],
      let s := { x.1 with walkMsgs := [crossing x.2.1] }
      s.crossings = [] ∧ s.walkMsgs.find? (·.id == 5) = some (crossing x.2.1) ∧ (s.thread 0).uid = 1 ∧ (thr []).handler = false ∧
      waitEdge 0 8 0 true ∈ s.edges ∧
      found (walkLoop { s with walkMsgs := [] } 0 0 65 x.2.1 [] ((crossing x.2.1).work.filter fun w => w.1.die != 0 || s.stands w.1)) = x.2.2) ∧
    (∀ h ∈ [true, false], ∀ k ∈ [true, false], let x := { crossing 0 with checker := k }
      let s := { crossed with threads := [{ thr [] with handler := h }], walkMsgs := [x] }
      s.walkMsgs.find? (·.id == 5) = some x ∧ found (walkLoop { s with walkMsgs := [] } 0 0 65 0 [] (x.work.filter fun w => w.1.die != 0 || s.stands w.1)) = 2 ∧
      s.thread? 0 = some { thr [] with handler := h }) ∧
    (({ crossed with walkMsgs := [crossing 0 2] } : State).thread 0).uid ≠ (crossing 0 2).uid ∧
    (∀ k ∈ [true, false], let x : Crossing := { id := 5, gid := 0, uid := 1, val := 7, val2 := 0, pred := false }
     let m := { thr [] with wait := some { why := .reply 5, again := k, half := false, fin := { done0 with d := 3 } } }
     let s := { one m with crossings := [x] }
     s.crossings.find? (·.id == x.id) = some x ∧ s.thread? x.gid = some m ∧ m.uid = x.uid ∧ m.wait.map (·.why) = some (.reply x.id) ∧ m.wait.map (·.again) = some k) ∧
    (∀ k ∈ [true, false], ({ thr [] with wait := some { why := .reply 5, again := k, half := false, fin := { done0 with d := 3 } } } : Thread).waitsOne) ∧
    (served 0 (.reply 5)).waitsOne :=
  by refine ⟨?_, rfl, ⟨rfl, rfl⟩, ?_, ?_, ?_, ?_, ?_, ?_, ?_, fun _ _ => ⟨rfl, _, rfl, rfl, rfl, rfl, rfl⟩, waits_one _ _ rfl rfl⟩ <;> decide +kernel
def done? (g : Got Unit) : Option State := match g with | .ok _ s => some s | _ => none
/-- A conversion of 40 bytes from a row at 0x1000, or from nowhere, to tiles at 0x4000, with flags: its granule old, moving and new. -/
def shuffled (old : Nat) (g : List Nat) (flags : Nat := 0) : Conv × State :=
  let c : Conv := { conv recKey 0 with record := bankWord, oldBase := old, oldCtl := 0, gran := g, flags := flags }
  (c, { recorded (thr []) (record 0x4000 40 0 2 + bankWord * 2 ^ 64) [c] with clock := 0 })
/-- Whether a step of the shuffler has come to a state in which its completion can be taken. -/
def mailable (g : Got Unit) : Bool :=
  match done? g with
  | some u => u.uidLive 1 && (u.part? 0).isSome && (u.thread? 0 == some (thr [])) && decide ((u.core 0).mail.length < Config.mailbox)
  | none => false
theorem witness_Shuffler :
    (∀ st ∈ [0, 1], let x := shuffled 0x1000 [st]
      (x.2.convs.find? fun y => y.die == 0 && y.stop == 0 && y.next.isSome) = some x.1 ∧ x.1.next = some 0 ∧ x.1.gran.getD 0 2 = st ∧
      x.2.moveWaits x.1 = false ∧ x.2.admittedDue x.1 0 = false ∧ x.1.copied = false ∧
      (st = 0 ∨ (match done? (x.2.moveGranule x.1 0) with | some u => u.threads.all (·.wait.isNone) | none => false) = true)) ∧
    (let x := shuffled 0x1000 [1]
     ({ x.2 with reqs := [{ req (.store [0] 1) far with adm := some (recKey, 0) }] } : State).admittedDue x.1 0 = true) ∧
    -- the writes are on their way, or performed; an access that the acquire flag orders before the move
    (∀ l ∈ [[], [{ req (.store [0] 1) far with uid := 0, adm := some (recKey, 0) }]], let x := shuffled 0x1000 [1]
     let c := { x.1 with copied := true }
     let s := { x.2 with convs := [c], reqs := l }
     (s.convs.find? fun y => y.die == 0 && y.stop == 0 && y.next.isSome) = some c ∧ c.next = some 0 ∧ s.moveWaits c = false ∧
     s.admittedDue c 0 = false ∧ s.threads.all (·.wait.isNone) = true ∧
     (s.reqs.any (fun r => r.uid == 0 && r.adm == some (c.handle, 0) && r.res.isNone) = true ↔ l ≠ [])) ∧
    (let x := shuffled 0x1000 [0] (2 ^ 16 + 2 * 2 ^ 18)
     let c := { x.1 with seq := 1 }
     ({ x.2 with convs := [c], reqs := [req (.load 8) far] } : State).moveWaits c = true) ∧
    (let x := shuffled 0x1000 [2]
     let s1 := ((x.2.homeWrite (x.1.handle + 8) (bytesOf 8 0)).homeWrite (x.1.handle + 48) (bytesOf 4 (x.2.readN (x.1.handle + 48) 4 + 1))).dropHandle
       (gidCk x.1.gid) x.1.handleVa true
     x.2.convAt x.1.handle = some x.1 ∧ x.1.next = none ∧ x.1.stop = 0 ∧ mailable (s1.engStore x.1.who x.1.record (x.1.bytes 1 0)) = true) ∧
    (let x := shuffled (3 * 2 ^ 60) [1]
     let c' := { x.1 with gran := [0], stop := 2, tval := 3 * 2 ^ 60 }
     let s1 := { x.2.moved x.1 0 with convs := [c'] }
     x.2.convAt x.1.handle = some x.1 ∧ x.1.next = some 0 ∧ x.1.gran.getD 0 2 = 1 ∧ x.1.copied = false ∧ x.2.moveWaits x.1 = false ∧ x.2.admittedDue x.1 0 = false ∧
     (match x.2.moveGranule x.1 0 with | .trap c t => c != clsEcc && t == 3 * 2 ^ 60 | _ => false) = true ∧
     s1.threads.all (·.wait.isNone) = true ∧ mailable (s1.engStore x.1.who x.1.record (c'.bytes 2 (3 * 2 ^ 60))) = true) ∧
    (let x := shuffled far [1]
     (match x.2.moveGranule x.1 0 with | .miss _ _ _ t => t == far | _ => false) = true) := by
  decide +kernel
/-- No page of address space 0 is in an empty table. -/
theorem no_tables (l : List Conv) (raw va : Nat) : ({ recorded (thr []) raw l with clock := 0 } : State).walkTables 0 0 4 va = none := rfl
/-- A conversion whose old page no table has. -/
theorem witness_ConversionFormsComplete_miss : let x := shuffled far [1]; let new := x.2.convHandle x.1; let old := new.old x.1
    x.2.convAt x.1.handle = some x.1 ∧ x.1.next = some 0 ∧ x.1.copied = false ∧ x.2.moveWaits x.1 = false ∧ x.2.admittedDue x.1 0 = false ∧ old.valid = true ∧
    ((allIx new.ext).filter fun i => new.gran i == 0).length = 40 ∧ old.base = far ∧ far % 2 ^ 60 + old.foot ≤ 2 ^ 48 ∧
    (x.2.quad (gidQk x.1.gid)).tlb = [] ∧ (x.2.die (gidDie x.1.gid)).store = [] ∧ ∀ va, x.2.walkTables x.1.part x.1.asid 4 va = none := by
  intro x new old
  have h : x.2.convAt x.1.handle = some x.1 ∧ x.1.next = some 0 ∧ x.1.copied = false ∧ x.2.moveWaits x.1 = false ∧
      x.2.admittedDue x.1 0 = false ∧ old.valid = true ∧ ((allIx new.ext).filter fun i => new.gran i == 0).length = 40 ∧ old.base = far := by decide +kernel
  obtain ⟨a, b, c, d, e, f, g, i⟩ := h
  exact ⟨a, b, c, d, e, f, g, i, by decide +kernel, by decide +kernel, by decide +kernel, no_tables _ _⟩
/-- A relay to be accepted; a granule to move under the release flag and without it; a conversion that ends; one whose old page no table
has. -/
theorem witness_ConversionFormsComplete :
    (let raw := record 0x1000 40 0 0
     let h := Handle.of 64 raw 0
     let (m, s) := relayed raw []
     let h' : Handle := { h with base := 0x4000, ctl := setBits h.ctl 8 5 2 }
     (m.reg 1).toNat = 64 ∧ s.privateAt m 64 64 recKey ∧ h = Handle.of 64 (s.readN recKey 64) (m.shFmt.toNat % 32) ∧ (m.reg 4).toNat < 2 ^ 16 ∧
     h.conv = 0 ∧ h.valid = true ∧ h.ch = false ∧ h.lay = 0 ∧ h'.valid = true ∧ s.privateAt m h.base h.foot (privKey 0 0 0 0x1000) ∧
     s.privateAt m 0x4000 h'.foot (privKey 0 0 0 0x4000) ∧ privKey 0 0 0 0x1000 + h.foot ≤ privKey 0 0 0 0x4000 ∧
     let off := 2560 * 0x180 * 256
     off % 64 = 0 ∧ off + (64 + cdiv h'.grans 4) ≤ Config.sharedBytes ∧ (m.reg 3).toNat = sharedKey 0 off ∧
     s.ownsShared s.myPart 0 off (64 + cdiv h'.grans 4) = true ∧ s.reservedShared 0 off (64 + cdiv h'.grans 4) = false ∧
     s.plainAt (sharedKey 0 off) (64 + cdiv h'.grans 4) ∧ s.convs = [] ∧ 0 + h'.grans ≤ Config.granules ∧ s.reqs = []) ∧
    (∀ fl ∈ [0, 2 ^ 17], let x := shuffled 0x1000 [1] fl; let new := x.2.convHandle x.1; let old := new.old x.1
      x.2.convs = [x.1] ∧ x.1.next = some 0 ∧ x.1.copied = false ∧ x.2.moveWaits x.1 = false ∧ x.2.reqs = [] ∧
      (allIx new.ext).filter (fun i => new.gran i == 0) ≠ [] ∧ x.2.admittedDue x.1 0 = false ∧ x.2.bad = [] ∧ x.2.barWaits = [] ∧ x.2.mem.wf = true ∧
      x.2.iss.plain = false ∧ x.2.owner (gidQk x.1.gid) = some x.1.part ∧ old.valid = true ∧ new.valid = true ∧ new.lay < 4 ∧ old.lay < 4 ∧
      8 ≤ new.w ∧ new.w = old.w ∧ old.base + old.foot ≤ new.base ∧ new.base + new.foot ≤ 0x8000 ∧ (x.1.flags.testBit 17 = true ↔ fl ≠ 0)) ∧
    (let x := shuffled 0x1000 [2]; x.2.convAt x.1.handle = some x.1 ∧ x.1.next = none) ∧
    (let x := shuffled far [1]; let new := x.2.convHandle x.1; let old := new.old x.1
     x.2.convAt x.1.handle = some x.1 ∧ x.1.next = some 0 ∧ x.1.copied = false ∧ x.2.moveWaits x.1 = false ∧ x.2.admittedDue x.1 0 = false ∧ old.valid = true ∧
     ((allIx new.ext).filter fun i => new.gran i == 0).length = 40 ∧ old.base = far ∧ far % 2 ^ 60 + old.foot ≤ 2 ^ 48 ∧
     (x.2.quad (gidQk x.1.gid)).tlb = [] ∧ (x.2.die (gidDie x.1.gid)).store = [] ∧ ∀ va, x.2.walkTables x.1.part x.1.asid 4 va = none) := by
  refine ⟨⟨?_, private_of _ _ _ _ _ ?_, ?_, ?_, ?_, ?_, ?_, ?_, ?_, private_of _ _ _ _ _ ?_, private_of _ _ _ _ _ ?_, ?_, ?_, ?_, ?_, ?_, ?_,
    plain _ ⟨rfl, rfl, rfl, rfl⟩ _ _, rfl, ?_, rfl⟩, ?_, ?_, witness_ConversionFormsComplete_miss⟩ <;> decide +kernel
/-- A word of DRAM; a core with threads and one without. -/
theorem witness_PartFaults :
    homeQuad ((far + 7) / 8 * 8) = some 1 ∧
    (∀ m ∈ (one (thr [])).threads, gidCk m.gid ≠ 1) ∧ (∃ m ∈ (one (thr [])).threads, gidCk m.gid = 0 ∧ (one (thr [])).domain? m.dom = some dom0) ∧
    (one (thr [])).netBars = [] ∧ (one (thr [])).pkg ≠ 1 ∧ (one (thr [])).lost.contains 1 = false ∧ ({ one (thr []) with lost := [1] } : State).lost.contains 1 = true := by
  decide +kernel
theorem witness_ResetStep : State.reset.mem.wf = true := by decide
/-- `add.e32` placed where the next step fetches. -/
def ready0 : State := State.reset.withFetchWord 32 0x18430881
theorem witness_StepRunsDecoded :
    let own := ({ ready0 with issueQ := [] }).modThread 0 fun x => { x with wait := none, stat := .running, halfOnly := false }
    ready0.issueQ = [0] ∧ (match ready0.thread? 0 with
      | some m => ({ ready0 with issueQ := [] }).ready m && m.stat == .running && m.wait.isNone && m.stream.isNone && !m.halfOnly && m.qmap == 0 && !m.handler && m.dfr.isEmpty && m.cycle.isNone &&
          !m.wdPending && !m.uiOn && (match State.fetch { own with iss := { Issue.none with gid := 0, pc := m.pc.toNat } } with
            | (_, l, none) => (match opAt l (pcSlot m.pc.toNat) with
              | some o => o.instr == .add 3 1 2 .e32 && !o.bp && !isV (opcodeOf o.instr)
              | none => false)
            | _ => false)
      | none => false) = true ∧ (ready0.quad (gidQk 0)).gang = none := by decide +kernel
theorem witness_RoundTrip : ({ instr := .add 3 1 2 .e32, tl := 1, bp := false, p := 0, pn := false } : Op).wf = true := by decide +kernel
theorem witness_StepKeepsMemoryCanonical : State.reset.mem.wf = true ∧ (match step State.reset with | .next _ => true | _ => false) = true := by
  decide +kernel

/-! ## Single steps, with the results the spec works out -/

/-- A register of the issuing thread after an instruction. -/
def after (i : Instr) (s : State) (d : Nat) : Option Nat :=
  match exec i s with | .next t => some ((t.thread s.iss.gid).reg d).toNat | _ => none
/-- 05 R102: −128 by −1 is −128, and 7 by 0 is all ones. -/
theorem test_div_min : after (.div 3 1 2 false .e8) (one (thr [(1, 0x80), (2, 0xFF)])) 3 = some 0xFFFFFFFFFFFFFF80 := by decide +kernel
theorem test_div_zero : after (.div 3 1 2 true .e32) (one (thr [(1, 7)])) 3 = some 0xFFFFFFFFFFFFFFFF := by decide +kernel
theorem test_rem_zero : after (.rem 3 1 2 true .e32) (one (thr [(1, 7)])) 3 = some 7 := by decide +kernel
/-- 05 R104. -/
def shifted : Thread := thr [(7, 0x800000017FFF0010), (8, 0x0010001000100010)]
theorem test_sar_imm : after (.sarImm 6 7 .e16 3) (one shifted) 6 = some 0xF00000000FFF0002 := by decide +kernel
theorem test_sar_width : after (.sar 6 7 8 .e16) (one shifted) 6 = some 0xFFFF000000000000 := by decide +kernel
/-- 14 R244. -/
theorem test_convert : convert 8 10 .rne false 0 0x3F800001 = 0x3F80 ∧ convert 8 10 .rup false 0 0x3F800001 = 0x3F81 ∧
    convert 8 11 .rne false 0 0x43FA0000 = 0x7E ∧ convert 8 11 .rne true 0 0x43FA0000 = 0x7F ∧ convert 8 11 .rne false 0 0x3A800000 = 0 ∧
    convert 8 11 .rup false 0 0x3A800000 = 1 ∧ convert 8 9 .rne false 0 0x4788B800 = 0x7C00 ∧ convert 8 9 .rtz false 0 0x4788B800 = 0x7BFF ∧
    convert 8 13 .rne false 0 0xC02CCCCD = 13 ∧ convert 8 14 .rne false 0 0x3E4CCCCD = 0x1A ∧ convert 8 0 .rne false 0 0xBFC00000 = 0xFE ∧
    convert 8 4 .rne false 0 0xBFC00000 = 0 := by decide +kernel
/-- 14 R252, R254. -/
theorem test_vexp : fencode 8 .rne false 0 (vExp (fdecode 8 0)) = 0x3F800000 ∧ fencode 8 .rne false 0 (vExp (fdecode 8 0x3F800000)) = 0x402DF854 := by
  decide +kernel
/-- 15 R258, R265: the offsets of two elements in a row of 1,024 and in tiles of 32. -/
theorem test_layouts : let h (lay : Nat) := { tensor 1 8 0 with e0 := 1024, e1 := 8, ctl := 8 + lay * 32 }
    ((h 0).loc (100, 5, 0, 0)).2 = 8 * 20880 ∧ ((h 3).loc (100, 5, 0, 0)).2 = 8 * 12944 ∧ ((h 3).loc (10, 5, 0, 0)).2 = 8 * 680 ∧
    (h 3).gran (100, 5, 0, 0) = 3 ∧ (h 3).gran (10, 5, 0, 0) = 0 ∧ (h 3).foot = 131072 := by decide +kernel
/-- 19 R338: the word of the fifth continuation of thread 0x053, into register 9. -/
theorem test_cont : let m := { Thread.fresh 0x53 1 0 with contSeq := 4 }
    after (.cont 5 9) { one m with threads := [m] } 5 = some 0x4005090000000053 := by decide +kernel
/-- 20 R349: the token of an entry with number 7. -/
theorem test_spawn_token : let s := paged strand
    after (.spawn 9 1 4 1 0) { s with cores := [{ Core.fresh 0 with dseq := 7 }] } 9 = some 0x100000007 := by decide +kernel
/-- 03 R54: a word placed by `withFetchWord` is the next step's instruction, alone in its line. -/
theorem test_first_step : (match step (State.reset.withFetchWord 32 0x18430881) with
    | .next t => (t.thread 0).pc == 0x4000000000000041#64 && t.clock == State.reset.clock
    | _ => false) = true := by decide +kernel

end Sys2Proof.Tests
end

section
/-!
SUPPORT. Two things that every function of the model keeps. Memory stays in canonical form (00 R5, 07 R122), whatever a step does: only
the operations of Laws/Memory write it. And the record that an instruction is to issue again (00 R9, 02 R24) is the last thing that the
instruction writes, so the threads of its number are then parked alike. Each function that gives a state keeps both if the functions that
it calls do: one lemma per function, in the order of the model, named after it; `what` says which of the two is asked. What a function
gives besides a state is carried along by `Out.fit`, `Got.fit`, `Acc.fit`, `Ans.fit` and `Posted.fit`. An issue as a whole, which clears
its record, is followed for memory alone.
-/
open Sys2Proof
namespace Sys2Proof.Machine

/-! ### What is asked of a state and of an outcome -/

/-- The wait is one on an object, for which an operation was parked before it had an effect (00 R9). -/
def Wait.parks (w : Wait) : Bool := match w.why with | .parked _ _ => true | _ => false
/-- The threads of the issuing thread's number are parked alike. -/
def State.alike (s : State) : Prop := ∃ b, ∀ t ∈ s.threads, t.gid = s.iss.gid → (t.wait.map Wait.parks).getD false = b
/-- What is asked of a state: that its memory is in canonical form, or that the instruction under way is not to issue again. -/
inductive Concern where
  | canonical
  | single
/-- Memory `m` and the record `again` of the issue are as is asked. -/
def Fit : Concern → Memory → Bool → Prop
  | .canonical, m, _ => m.wf = true
  | .single, _, again => again = false
abbrev State.fit (s : State) (what : Concern) : Prop := Fit what s.mem s.iss.again
/-- What is asked of the state that an instruction leaves: it may be that it issues again, but then its threads are parked alike. -/
def State.fitEnd (t : State) : Concern → Prop
  | .canonical => t.mem.wf = true
  | .single => t.iss.again = true → t.alike
/-- The state that an outcome goes on to, if any, is as is asked. -/
def Out.fit (what : Concern) : Out → Prop
  | .next t => t.fitEnd what
  | _ => True
/-- The same of what an access of a handle comes to. -/
def Got.fit {α : Type} (what : Concern) : Got α → Prop
  | .ok _ t | .held _ t => t.fit what
  | _ => True
/-- The same of what stands between the checks of an access and its effect. -/
def Acc.fit (what : Concern) : Acc → Prop
  | .key _ t | .away t => t.fit what
  | .stop o => Out.fit what o
/-- The same of what a command comes to. -/
def Ans.fit (what : Concern) : Ans → Prop
  | .done _ _ _ t | .wait t => t.fit what
/-- The same of what posting to a fault queue comes to. -/
def Posted.fit (what : Concern) : Posted → Prop
  | .posted _ t => t.fit what
  | _ => True

section
variable {what : Concern}

theorem fit_next {t : State} (h : t.fit what) : Out.fit what (.next t) :=
  match what, h with
  | .canonical, h => h
  | .single, h => fun ha => absurd (h.symm.trans ha) Bool.false_ne_true
theorem fit_next_alike {t : State} {again : Bool} (h : Fit what t.mem again) (ha : t.alike) : Out.fit what (.next t) :=
  match what, h with
  | .canonical, h => h
  | .single, _ => fun _ => ha
/-- What writes memory alone is fit for the first if it keeps the form, and for the second at any rate. -/
theorem Fit.mem {m m' : Memory} {again : Bool} (h : Fit what m again) (hm : m.wf = true → m'.wf = true) : Fit what m' again :=
  match what, h with
  | .canonical, h => hm h
  | .single, h => h

/-! Choices and folds of what is as is asked. -/

theorem fit_ite {c : Prop} [Decidable c] {a b : State} (ha : a.fit what) (hb : b.fit what) :
    (if c then a else b).fit what := by split <;> assumption
theorem Out.fit_ite {c : Prop} [Decidable c] {a b : Out} (ha :
    Out.fit what a) (hb : Out.fit what b) : Out.fit what (if c then a else b) := by
  split <;> assumption
theorem Got.fit_ite {α : Type} {c : Prop} [Decidable c] {a b : Got α} (ha : a.fit what) (hb : b.fit what) :
    (if c then a else b).fit what := by
  split <;> assumption
theorem Ans.fit_ite {c : Prop} [Decidable c] {a b : Ans} (ha :
    Ans.fit what a) (hb : Ans.fit what b) : Ans.fit what (if c then a else b) := by
  split <;> assumption
theorem fit_foldl {α : Type} {f : State → α → State} {l : List α} {s : State} (h : s.fit what)
    (hf : ∀ s a, s.fit what → (f s a).fit what) : (l.foldl f s).fit what :=
  List.foldlRecOn l f (motive := fun s => s.fit what) h fun s hs a _ => hf s a hs
theorem Got.fit_foldl {α β : Type} {f : Got α → β → Got α} {l : List β} {x : Got α} (hx : x.fit what)
    (hf : ∀ x b, x.fit what → (f x b).fit what) : (l.foldl f x).fit what :=
  List.foldlRecOn l f (motive := Got.fit what) hx fun x hx b _ => hf x b hx
theorem fit_foldl_fst {α β : Type} {f : State × β → α → State × β} {l : List α} {x : State × β} (h : x.1.fit what)
    (hf : ∀ x a, x.1.fit what → (f x a).1.fit what) : (l.foldl f x).1.fit what :=
  List.foldlRecOn l f (motive := fun x => x.1.fit what) h fun x hx a _ => hf x a hx
theorem fit_foldl_snd {α β : Type} {f : β × State → α → β × State} {l : List α} {x : β × State} (h : x.2.fit what)
    (hf : ∀ x a y, x.2.fit what → f x a = y → y.2.fit what) : (l.foldl f x).2.fit what :=
  List.foldlRecOn l f (motive := fun x => x.2.fit what) h fun x hx a _ => hf x a _ hx rfl

/-! The state inside a result that is known. -/

theorem fit_fst {α : Type} {p : State × α} {s : State} {a : α} (e : p = (s, a)) (h : p.1.fit what) : s.fit what := by
  subst e; exact h
theorem fit_snd {α : Type} {p : α × State} {s : State} {a : α} (e : p = (a, s)) (h : p.2.fit what) : s.fit what := by
  subst e; exact h
theorem fit_snd_snd {α β : Type} {p : α × β × State} {s : State} {a : α} {b : β} (e : p = (a, b, s)) (h : p.2.2.fit what) :
    s.fit what := by
  subst e; exact h
theorem Out.fit_next {o : Out} {s : State} (e : o = .next s) (h : Out.fit .canonical o) : s.fit .canonical := by
  subst e; exact h
theorem Got.fit_ok {α : Type} {x : Got α} {a : α} {s : State} (e : x = .ok a s) (h : Got.fit what x) : s.fit what := by
  subst e; exact h
theorem Got.fit_held {α : Type} {x : Got α} {w : Why} {s : State} (e : x = .held w s) (h : Got.fit what x) : s.fit what := by
  subst e; exact h
theorem Ans.fit_done {x : Ans} {r a b : Nat} {s : State} (e : x = .done r a b s) (h : Ans.fit what x) : s.fit what := by
  subst e; exact h
theorem Ans.fit_wait {x : Ans} {s : State} (e : x = .wait s) (h : Ans.fit what x) : s.fit what := by
  subst e; exact h
theorem Posted.fit_posted {x : Posted} {n : Nat} {s : State} (e : x = .posted n s) (h : Posted.fit what x) : s.fit what := by
  subst e; exact h
theorem Got.fit_bind {α β : Type} {x : Got α} {f : α → State → Got β} (hx : x.fit what)
    (hf : ∀ a s, s.fit what → (f a s).fit what) : (x.bind f).fit what := by
  cases x with
  | ok a s => exact hf a s hx
  | held w s => exact hx
  | trap | miss | stall => trivial
/-- The same of a state that is equal to one that is as is asked; stated apart, so that the states are compared as they are written. -/
theorem fit_of_eq {s t : State} (h : t.fit what) (e : s = t) : s.fit what := e ▸ h
theorem Domain.wf_tableMem {d : Domain} {sig : Nat} {g : Sig} {m : Memory} (h : m.wf = true) :
    (d.tableMem sig g m).wf = true := by
  unfold Domain.tableMem
  exact Memory.wf_write _ (Memory.wf_write _ (Memory.wf_write _ h _ _) _ _) _ _
theorem Acc.fit_bind {x : Acc} {far : State → Out} {f : Nat → State → Out} (hx : x.fit what)
    (hfar : ∀ t, t.fit what → Out.fit what (far t)) (hf : ∀ a t, t.fit what → Out.fit what (f a t)) :
    Out.fit what (x.bind far f) := by
  cases x with
  | key k t => exact hf k t hx
  | away t => exact hfar t hx
  | stop o => exact hx
/-- What changed between two memories, put into a third. -/
theorem Memory.wf_patch {m : Memory} (old new : Memory) (h : m.wf = true) : (Memory.patch old new m).wf = true :=
  List.foldlRecOn _ _ (motive := fun m : Memory => m.wf = true) h fun m hm c _ => by
    split
    · exact hm
    · exact m.wf_set hm _ _
theorem Got.fit_need {α : Type} {c : Bool} {cls tval : Nat} {x : Got α} (hx : x.fit what) : (Got.need c cls tval x).fit what := by
  unfold Got.need
  split
  · exact hx
  · exact trivial
theorem Domain.wf_formTable {d : Domain} {m : Memory} (h : m.wf = true) : (d.formTable m).wf = true :=
  List.foldlRecOn _ _ (motive := fun m : Memory => m.wf = true) h fun m hm n _ => by
    split
    · exact Domain.wf_tableMem hm
    · exact hm
/-- The same of a fetch, and of the state in which it ends the issue, if it does. -/
def FetchFit (what : Concern) (x : State × Line × Option State) : Prop := x.1.fit what ∧ ∀ t, x.2.2 = some t → t.fit what
theorem fetchFit_some {s u : State} {l : Line} (hs : s.fit what) (hu : u.fit what) : FetchFit what (s, l, some u) :=
  ⟨hs, fun _ e => Option.some.inj e ▸ hu⟩
theorem fetchFit_none {s : State} {l : Line} (hs : s.fit what) : FetchFit what (s, l, none) := ⟨hs, nofun⟩
end

section
variable {what : Concern} {s : State}

/-! ### Machine/Memory -/

theorem fit_writeBytes {k : Nat} {bs : List Byte} (hm : s.fit what) : (s.writeBytes k bs).fit what :=
  hm.mem fun h => Memory.wf_write _ h _ _
theorem fit_writeN {k n v : Nat} (hm : s.fit what) : (s.writeN k n v).fit what := fit_writeBytes hm
theorem fit_setEmpty {k : Nat} {e : Bool} (hm : s.fit what) : (s.setEmpty k e).fit what := hm
theorem fit_markFull {k n : Nat} (hm : s.fit what) : (s.markFull k n).fit what := hm

/-! ### Machine/Access -/

theorem fit_setCore {c : Core} (hm : s.fit what) : (s.setCore c).fit what := hm
theorem fit_setQuad {q : Quad} (hm : s.fit what) : (s.setQuad q).fit what := hm
theorem fit_setBank {b : Bank} (hm : s.fit what) : (s.setBank b).fit what := hm
theorem fit_setDie {d : Die} (hm : s.fit what) : (s.setDie d).fit what := hm
theorem fit_modThread {g : Nat} {f : Thread → Thread} (hm : s.fit what) : (s.modThread g f).fit what := hm
theorem fit_modDomain {n : Nat} {f : Domain → Domain} (hm : s.fit what) : (s.modDomain n f).fit what := hm
theorem fit_modPart {n : Nat} {f : Partition → Partition} (hm : s.fit what) : (s.modPart n f).fit what := hm
theorem fit_modRect {n : Nat} {f : Rect → Rect} (hm : s.fit what) : (s.modRect n f).fit what := hm
theorem fit_modReq {n : Nat} {f : Req → Req} (hm : s.fit what) : (s.modReq n f).fit what := hm
theorem fit_addThread {t : Thread} (hm : s.fit what) : (s.addThread t).fit what := hm
theorem fit_dropThread {g : Nat} (hm : s.fit what) : (s.dropThread g).fit what := hm
theorem fit_setMonitor {qk c : Nat} {m : Mon} (hm : s.fit what) : (s.setMonitor qk c m).fit what := hm
theorem fit_sampled {qk src v : Nat} (hm : s.fit what) : (s.sampled qk src v).fit what := fit_ite (fit_setQuad hm) hm
theorem fit_modMe {f : Thread → Thread} (hm : s.fit what) : (s.modMe f).fit what := hm
theorem fit_hwPush {core n : Nat} {v : Word} (hm : s.fit what) : (s.hwPush core n v).fit what := hm
theorem fit_putN {r : Nat} {v : Word} (hm : s.fit what) : (s.putN r v).fit what :=
  fit_ite (fit_hwPush hm) (fit_modMe hm)
theorem fit_put {r : Reg} {v : Word} (hm : s.fit what) : (s.put r v).fit what := fit_putN hm
theorem fit_putP {i : PReg} {v : Bool} (hm : s.fit what) : (s.putP i v).fit what := hm
theorem fit_putGroup {r v : Nat} (hm : s.fit what) : (s.putGroup r v).fit what :=
  fit_putN (fit_putN (fit_putN (fit_putN hm)))
theorem fit_advance (hm : s.fit what) : s.advance.fit what := fit_ite hm (fit_modMe hm)
theorem fit_jump {pc : Nat} (hm : s.fit what) : (s.jump pc).fit what := hm
theorem fit_ok (hm : s.fit what) : Out.fit what s.ok := fit_next (fit_advance hm)
theorem fit_await {why : Why} {fin : Done} (hm : s.fit what) : (s.await why fin).fit what := hm
/-- What an update of the issuing thread makes of the threads of its number decides whether they are parked alike. -/
theorem alike_modMe {f : Thread → Thread} {b : Bool}
    (hf : ∀ t ∈ s.threads, t.gid = s.iss.gid → ((f t).wait.map Wait.parks).getD false = b) : (s.modMe f).alike := by
  refine ⟨b, fun t ht hgid => ?_⟩
  obtain ⟨x, hx, rfl⟩ := List.mem_map.1 ht
  by_cases h : x.gid = s.iss.gid
  · rw [if_pos (beq_iff_eq.2 h)]
    exact hf x hx h
  · rw [if_neg (mt beq_iff_eq.1 h)] at hgid
    exact absurd hgid h
theorem fit_retry {why : Why} (hm : s.fit what) : Out.fit what (.next (s.retry why)) :=
  fit_next_alike hm (alike_modMe (s := s) fun _ _ _ => rfl)
theorem fit_takeId (hm : s.fit what) : s.takeId.2.fit what := hm
theorem fit_putFor {g r : Nat} {v : Word} (hm : s.fit what) : (s.putFor g r v).fit what :=
  fit_ite (fit_hwPush hm) (fit_modThread hm)
theorem fit_complete {g val val2 : Nat} {pred : Bool} (hm : s.fit what) :
    (s.complete g val val2 pred).fit what := by
  unfold State.complete
  dsimp only
  split
  · exact hm
  · exact fit_modThread (fit_putFor (fit_putFor hm))

/-! ### Machine/Translate -/

theorem fit_fillQuad {q : Nat} {e : Tlb} (hm : s.fit what) : (s.fillQuad q e).fit what := hm
theorem fit_fillDie {d : Nat} {e : Tlb} (hm : s.fit what) : (s.fillDie d e).fit what := hm
theorem fit_lookupTlb {q asid sel va : Nat} (hm : s.fit what) : (s.lookupTlb q asid sel va).2.fit what := by
  unfold State.lookupTlb
  split
  · exact fit_fillQuad hm
  · split
    · exact fit_fillQuad (fit_fillDie hm)
    · exact hm
theorem fit_pages? {w : Who} {q sel a b c : Nat} {d : List (Nat × Nat)} {e : Nat} (hm : s.fit what) :
    (s.pages? w q sel a b c d e).2.fit what := by
  induction a generalizing s w q sel b c d e with
  | zero => exact hm
  | succ n ih =>
    rw [State.pages?]
    dsimp only
    split
    · exact fit_snd ‹_› (fit_lookupTlb hm)
    · split
      · exact fit_snd ‹_› (fit_lookupTlb hm)
      · exact ih (fit_snd ‹_› (fit_lookupTlb hm))
theorem fit_check {w : Who} {need : Nat} {fe : Bool} {align addr len : Nat} (hm : s.fit what) :
    (s.check w need fe align addr len).2.fit what := by
  unfold State.check
  dsimp only
  split
  · exact hm
  · split
    · exact hm
    · split
      · exact hm
      · split <;> exact hm
      · split <;> exact hm
      · split
        · exact hm
        · split
          · exact fit_snd ‹_› (fit_pages? hm)
          · split <;> exact fit_snd ‹_› (fit_pages? hm)
      · split
        · exact hm
        · split
          · split
            · exact hm
            · split <;> exact hm
          · exact hm
theorem fit_engineCheck {w : Who} {need : Nat} {fe : Bool} {align addr len a : Nat} (hm : s.fit what) :
    (s.engineCheck w need fe align addr len a).2.fit what := by
  induction a generalizing s w need fe align addr len with
  | zero => exact fit_check hm
  | succ n ih =>
    rw [State.engineCheck]
    split
    · split
      · exact ih (fit_fillQuad (fit_fillDie (fit_snd ‹_› (fit_check hm))))
      · exact fit_snd ‹_› (fit_check hm)
    · exact fit_check hm
theorem fit_segWrite {a : List (Nat × Nat)} {b : List Byte} (hm : s.fit what) : (s.segWrite a b).fit what := by
  induction a generalizing s b with
  | nil => exact hm
  | cons a l ih => exact ih (fit_writeBytes hm)
theorem fit_startWalk {w : Who} {dom acc sel va first : Nat} (hm : s.fit what) :
    (s.startWalk w dom acc sel va first).2.fit what := by
  unfold State.startWalk
  dsimp only
  split <;> exact hm
theorem fit_waitWalk {need sel va first : Nat} (hm : s.fit what) : Out.fit what (.next (s.waitWalk need sel va first)) :=
  fit_retry (fit_startWalk hm)

/-! ### Machine/Wft -/

theorem fit_overflowed {die : Nat} (hm : s.fit what) : (s.overflowed die).fit what := hm
theorem fit_enter {die obj ok ek gid : Nat} (hm : s.fit what) : (s.enter die obj ok ek gid).1.fit what := by
  unfold State.enter
  split
  · exact fit_overflowed hm
  · exact hm
theorem fit_hold {die obj ok ek gid : Nat} (hm : s.fit what) : (s.hold die obj ok ek gid).fit what := fit_enter hm
theorem fit_unhold {obj ok gid : Nat} (hm : s.fit what) : (s.unhold obj ok gid).fit what := hm
theorem fit_unwait {g : Nat} (hm : s.fit what) : (s.unwait g).fit what := hm
theorem fit_markEdge {e : Edge} {u : Bool} (hm : s.fit what) : (s.markEdge e u).fit what := hm
theorem fit_sendWalk {g : Nat} {e : Edge} {checker : Bool} {die n : Nat} {seen : List Nat} {work : List (Edge × List Edge)}
    (hm : s.fit what) : (s.sendWalk g e checker die n seen work).fit what :=
  hm
theorem fit_wake {g objDie val val2 : Nat} {pred : Bool} (hm : s.fit what) :
    (s.wake g objDie val val2 pred).fit what :=
  fit_ite (fit_complete (fit_unwait hm)) hm
theorem fit_writeRecord {g : Nat} {path : List Edge} (hm : s.fit what) : (s.writeRecord g path).fit what :=
  fit_ite hm (fit_writeBytes hm)

/-! ### Machine/Ops -/

theorem fit_toTarget {form : Bool} {pc : Nat} {f : Bool → State → Out} (hm : s.fit what)
    (hf : ∀ a t, t.fit what → Out.fit what (f a t)) : Out.fit what (s.toTarget form pc f) := by
  unfold State.toTarget
  split
  · split
    · exact (fit_waitWalk hm)
    · exact hf _ _ hm
  · exact hf _ _ hm
theorem fit_toSuper {g kind : Nat} {tr : Trap} {epc : Nat} (hm : s.fit what) :
    (s.toSuper g kind tr epc).fit what :=
  hm
theorem fit_deliverAs {g : Nat} {tr : Trap} {epc : Nat} {dfr bdone user : Bool} (hm : s.fit what) :
    (s.deliverAs g tr epc dfr bdone user).fit what :=
  fit_ite (fit_modThread (fit_setDie (fit_setCore hm))) (fit_ite (fit_toSuper (fit_modThread (fit_unwait hm))) (fit_ite (fit_ite
    (fit_modThread (fit_modThread (fit_unwait hm))) (fit_toSuper (fit_modThread (fit_unwait hm)))) (fit_toSuper (fit_modThread
    (fit_unwait hm)))))
theorem fit_deliver {g : Nat} {tr : Trap} {epc : Nat} {dfr bdone : Bool} (hm : s.fit what) :
    (s.deliver g tr epc dfr bdone).fit what :=
  fit_deliverAs hm
theorem fit_deliverWatchdog {g epc : Nat} {half : Bool} (hm : s.fit what) :
    (s.deliverWatchdog g epc half).fit what :=
  fit_modThread (fit_deliverAs hm)
theorem fit_fault {cls tval : Nat} (hm : s.fit what) : (s.fault cls tval).fit what := fit_deliver hm
theorem fit_trap {cls tval : Nat} (hm : s.fit what) : Out.fit what (s.trap cls tval) := fit_next (fit_fault hm)
theorem fit_prot {tval : Nat} (hm : s.fit what) : Out.fit what (s.prot tval) := fit_trap hm
theorem fit_returnUser (hm : s.fit what) : s.returnUser.fit what := fit_ite hm (fit_deliver hm)
theorem fit_returnSuper (hm : s.fit what) : s.returnSuper.fit what := by
  unfold State.returnSuper
  dsimp only
  split <;> exact hm
theorem fit_enterWait {g objDie obj ok : Nat} (hm : s.fit what) : (s.enterWait g objDie obj ok).1.fit what := by
  unfold State.enterWait
  dsimp only
  split
  · exact fit_overflowed hm
  · split
    · exact hm
    · exact fit_markEdge hm
    · exact fit_sendWalk hm
    · exact fit_unwait (fit_writeRecord hm)
theorem fit_park {g objDie obj ok : Nat} {fin : Done} {pc : Nat} (hm : s.fit what) :
    (s.park g objDie obj ok fin pc).1.fit what :=
  fit_enterWait (fit_modThread hm)
/-- A wait that closes no cycle changes no thread. -/
theorem enterWait_none {t : State} {g objDie obj ok : Nat} (e : s.enterWait g objDie obj ok = (t, none)) :
    t.threads = s.threads ∧ t.iss.gid = s.iss.gid := by
  unfold State.enterWait at e
  dsimp only at e
  split at e
  · cases e; exact ⟨rfl, rfl⟩
  · split at e
    · cases e; exact ⟨rfl, rfl⟩
    · cases e; exact ⟨rfl, rfl⟩
    · cases e; exact ⟨rfl, rfl⟩
    · cases e
theorem park_none {t : State} {g objDie obj ok pc : Nat} {fin : Done} (e : s.park g objDie obj ok fin pc = (t, none)) :
    t.threads = (s.threads.map fun t => if t.gid == g then { t with
      wait := some { why := .parked obj ok, again := false, half := (t.wait.map (·.half)).getD (g == s.iss.gid && s.iss.half), fin := fin },
      stat := .parked, pc := wd pc } else t) ∧ t.iss.gid = s.iss.gid :=
  enterWait_none e
theorem fit_parkAgain {objDie obj ok : Nat} (hm : s.fit what) : Out.fit what (.next (s.parkAgain objDie obj ok)) := by
  unfold State.parkAgain
  dsimp only
  split
  · exact fit_next (fit_deliver (fit_fst ‹_› (fit_park hm)))
  · next t e =>
    obtain ⟨hthreads, hgid⟩ := park_none e
    have ht : t.fit what := fit_fst e (fit_park hm)
    refine fit_next_alike ht (alike_modMe (s := t) (b := true) fun x hx hg => ?_)
    rw [hthreads] at hx
    obtain ⟨y, -, rfl⟩ := List.mem_map.1 hx
    rw [hgid] at hg
    by_cases h : y.gid = s.iss.gid
    · simp [h, Wait.parks]
    · rw [if_neg (mt beq_iff_eq.1 h)] at hg
      exact absurd hg h

/-! ### Machine/Homes -/

theorem fit_countSoft {k n : Nat} (hm : s.fit what) : (s.countSoft k n).fit what := by
  unfold State.countSoft
  dsimp only
  split
  · exact fit_ite hm (fit_setDie hm)
  · exact hm
theorem fit_wakeBar {word status : Nat} (hm : s.fit what) : (s.wakeBar word status).fit what :=
  fit_foldl hm fun _ _ hm => fit_wake hm
theorem fit_homeWrite {k : Nat} {bs : List Byte} (hm : s.fit what) : (s.homeWrite k bs).fit what :=
  fit_foldl (fit_writeBytes hm) fun _ _ hm => fit_wakeBar hm
theorem fit_barInit {w : Nat} {auto : Bool} {cnt : Nat} (hm : s.fit what) : (s.barInit w auto cnt).2.fit what := by
  unfold State.barInit
  dsimp only
  split
  · exact hm
  · exact fit_wakeBar (fit_writeN hm)
theorem fit_barWaits {ws : List BarWait} (hm : s.fit what) : State.fit { s with barWaits := ws } what := hm
theorem fit_barArrive {w g uid : Nat} (hm : s.fit what) : (s.barArrive w g uid).2.fit what := by
  unfold State.barArrive
  dsimp only
  split
  · exact hm
  · split
    · exact hm
    · split
      · exact fit_barWaits (fit_writeN hm)
      · exact fit_wakeBar (fit_ite (fit_writeN hm) (fit_writeN hm))
theorem fit_barTakeBack {uid : Nat} (hm : s.fit what) : (s.barTakeBack uid).fit what := by
  unfold State.barTakeBack
  dsimp only
  split
  · exact hm
  · exact fit_ite (fit_writeN hm) hm
theorem fit_withdraw {g : Nat} (hm : s.fit what) : (s.withdraw g).fit what := by
  unfold State.withdraw
  dsimp only
  split
  · exact fit_unwait hm
  · split
    · exact hm
    · exact fit_barTakeBack (fit_unwait hm)
    · exact hm
    · exact fit_setCore (fit_unwait hm)
    · exact hm
    · exact fit_unwait hm
theorem fit_trapWaiting {g : Nat} {tr : Trap} {dfr : Bool} (hm : s.fit what) : (s.trapWaiting g tr dfr).fit what :=
  fit_deliver (fit_withdraw hm)
theorem fit_feAct {isLoad makeEmpty : Bool} {k n data : Nat} (hm : s.fit what) :
    (s.feAct isLoad makeEmpty k n data).2.fit what := by
  unfold State.feAct
  split
  · exact fit_setEmpty hm
  · exact fit_setEmpty (fit_homeWrite hm)
theorem fit_feServe {w a : Nat} (hm : s.fit what) : (s.feServe w a).fit what := by
  induction a generalizing s w with
  | zero => exact hm
  | succ n ih =>
    rw [State.feServe]
    dsimp only
    split
    · exact hm
    · split
      · split
        · split
          · exact ih (fit_trapWaiting hm)
          · exact ih (fit_wake (fit_feAct hm))
        · exact hm
      · exact hm
theorem fit_feChanged {w : Nat} {was : Bool} (hm : s.fit what) : (s.feChanged w was).fit what :=
  fit_ite hm (fit_feServe hm)
theorem fit_feNow {isLoad makeEmpty : Bool} {k n data : Nat} (hm : s.fit what) :
    (s.feNow isLoad makeEmpty k n data).2.fit what :=
  fit_feChanged (fit_feAct hm)
theorem fit_feSet {k : Nat} {e : Bool} (hm : s.fit what) : (s.feSet k e).fit what := fit_feChanged (fit_setEmpty hm)
theorem fit_fillWords {keys : List Nat} (hm : s.fit what) : (s.fillWords keys).fit what :=
  fit_foldl hm fun _ _ hm => fit_ite (fit_feSet hm) hm
theorem fit_passHold {w : Nat} (hm : s.fit what) : (s.passHold w).fit what := by
  unfold State.passHold
  dsimp only
  split
  · exact hm
  · split
    · exact fit_ite (fit_wake (fit_hold hm)) (fit_hold hm)
    · exact fit_hold hm
theorem fit_dropHold {w g : Nat} (hm : s.fit what) : (s.dropHold w g).fit what := fit_passHold (fit_unhold hm)
theorem fit_abandon {uid g : Nat} (hm : s.fit what) : (s.abandon uid g).fit what :=
  fit_foldl hm fun _ _ hm => fit_ite (fit_dropHold hm) hm
theorem fit_report {uid : Nat} {tr : Trap} (hm : s.fit what) : (s.report uid tr).fit what := hm
theorem fit_applyFn {bank : Nat} {f : BankFn} {w x : Nat} (hm : s.fit what) :
    (s.applyFn bank f w x).2.2.fit what :=
  fit_ite (fit_ite (fit_homeWrite (fit_setBank hm)) (fit_setBank hm)) (fit_feSet (fit_ite (fit_homeWrite (fit_setBank hm))
    (fit_setBank hm)))
theorem fit_updOn {uid va k : Nat} {f : State → State} (hm : s.fit what)
    (hf : ∀ t, t.fit what → (f t).fit what) : (s.updOn uid va k f).fit what := by
  unfold State.updOn
  split
  · exact fit_report hm
  · exact hf _ hm
theorem fit_holdUpd {bank : Nat} {f : BankFn} {h : Held} (hm : s.fit what) : (s.holdUpd bank f h).fit what :=
  fit_ite (fit_setBank hm) (fit_ite (fit_setBank hm) (fit_updOn (fit_setBank hm) fun _ hm => fit_applyFn hm))
theorem fit_arriveUpd {r : Req} {fn operand : Nat} (hm : s.fit what) : (s.arriveUpd r fn operand).fit what := by
  unfold State.arriveUpd
  dsimp only
  split
  · exact fit_report hm
  · exact fit_ite (fit_holdUpd hm) (fit_updOn hm fun _ hm => fit_applyFn hm)
theorem fit_drainOne {bank : Nat} {h : Held} (hm : s.fit what) : (s.drainOne bank h).fit what := by
  unfold State.drainOne
  split
  · exact hm
  · exact fit_updOn hm fun _ hm => fit_applyFn hm
theorem fit_drainBank {bank : Nat} (hm : s.fit what) : (s.drainBank bank).fit what :=
  fit_foldl (fit_setBank hm) fun _ _ hm => fit_foldl hm fun _ _ hm => fit_drainOne hm
theorem fit_parkAt {g objDie obj ok : Nat} {fin : Done} {pc : Nat} (hm : s.fit what) :
    (s.parkAt g objDie obj ok fin pc).fit what := by
  unfold State.parkAt
  split
  · exact fit_fst ‹_› (fit_park hm)
  · exact fit_trapWaiting (fit_fst ‹_› (fit_park hm))
theorem fit_parkMe {objDie obj ok : Nat} {fin : Done} (hm : s.fit what) :
    (s.parkMe objDie obj ok fin).fit what := by
  unfold State.parkMe
  dsimp only
  split
  · exact fit_fst ‹_› (fit_park hm)
  · exact fit_trapWaiting (fit_fst ‹_› (fit_park hm))
theorem fit_answer {r : Req} {x : Res} (hm : s.fit what) : (s.answer r x).fit what := hm
theorem fit_dropReq {id : Nat} (hm : s.fit what) : (s.dropReq id).fit what := hm
theorem fit_arrLook {r : Req} {key : Nat} (hm : s.fit what) : (s.arrLook r key).fit what := by
  unfold State.arrLook
  split
  · exact fit_answer hm
  · split <;> exact fit_answer hm
theorem fit_parkReq {r : Req} {obj ok : Nat} (hm : s.fit what) : (s.parkReq r obj ok).fit what := by
  unfold State.parkReq
  dsimp only
  split
  · exact fit_parkAt hm
  · exact hm
theorem fit_rmw {op : ReqOp} {k : Nat} (hm : s.fit what) : (s.rmw op k).2.fit what := fit_ite (fit_homeWrite hm) hm
theorem fit_lrwAt {r : Req} {n : Nat} (hm : s.fit what) : (s.lrwAt r n).2.fit what := by
  unfold State.lrwAt
  dsimp only
  split
  · split <;> exact hm
  · split
    · exact hm
    · split
      · exact hm
      · exact fit_hold hm

/-! ### Machine/Serve -/

theorem fit_takeToken {part k : Nat} (hm : s.fit what) : (s.takeToken part k).fit what := by
  unfold State.takeToken
  dsimp only
  split
  · exact hm
  · exact fit_modPart hm
theorem fit_admitReq {r : Req} (hm : s.fit what) : (s.admitReq r).fit what := by
  unfold State.admitReq
  dsimp only
  split
  · exact hm
  · split
    · exact fit_modReq hm
    · exact fit_ite (fit_modPart (fit_modReq hm)) hm
theorem fit_execBucketAdmit {req : Nat} (hm : s.fit what) : Out.fit what (execBucketAdmit req s) := by
  unfold execBucketAdmit
  split
  · exact fit_next (fit_admitReq hm)
  · exact fit_next hm
theorem fit_requestOf {g : Nat} {op : ReqOp} {key len va scope : Nat} {rel acq posted : Bool} (hm : s.fit what) :
    (s.requestOf g op key len va scope rel acq posted).2.fit what :=
  hm
theorem fit_request {op : ReqOp} {key len va scope : Nat} {rel acq posted : Bool} (hm : s.fit what) :
    (s.request op key len va scope rel acq posted).2.fit what :=
  hm
theorem fit_ask {op : ReqOp} {key len va scope : Nat} {rel acq : Bool} {fin : Done} (hm : s.fit what) :
    Out.fit what (s.ask op key len va scope rel acq fin) :=
  (fit_next hm)
theorem fit_repliedAs {op : ReqOp} {home val val2 : Nat} {pred : Bool} {fin : Done} (hm : s.fit what) :
    Out.fit what (s.repliedAs op home val val2 pred fin) :=
  (fit_next hm)
theorem fit_replied {home val val2 : Nat} {pred : Bool} {fin : Done} (hm : s.fit what) :
    Out.fit what (s.replied home val val2 pred fin) :=
  (fit_next hm)
theorem fit_reply {d : Reg} {home val : Nat} (hm : s.fit what) : Out.fit what (s.reply d home val) := fit_next hm
theorem fit_postReq {op : ReqOp} {key len va scope : Nat} {rel : Bool} (hm : s.fit what) :
    (s.postReq op key len va scope rel).fit what :=
  hm
theorem fit_post {op : ReqOp} {key len va scope : Nat} {rel : Bool} (hm : s.fit what) :
    Out.fit what (s.post op key len va scope rel) := by
  unfold State.post
  split
  · exact fit_ok (fit_postReq hm)
  · exact fit_retry hm
theorem fit_guarded {r : Req} {n : Nat} {f : State → State} (hm : s.fit what)
    (hf : ∀ t, t.fit what → (f t).fit what) : (s.guarded r n f).fit what := by
  unfold State.guarded
  split
  · exact fit_answer hm
  · exact hf _ (fit_countSoft hm)
theorem fit_guardedW {r : Req} {n : Nat} {f : State → State} (hm : s.fit what)
    (hf : ∀ t, t.fit what → (f t).fit what) : (s.guardedW r n f).fit what := by
  unfold State.guardedW
  refine fit_guarded hm fun _ hm => ?_
  split
  · exact fit_answer hm
  · exact hf _ hm
theorem fit_serveFe {r : Req} {want isLoad empties : Bool} {n data : Nat} (hm : s.fit what) :
    (s.serveFe r want isLoad empties n data).fit what := by
  unfold State.serveFe
  dsimp only
  split
  · exact fit_answer hm
  · exact fit_ite (fit_ite (fit_wake (fit_dropReq (fit_feNow hm))) (fit_answer (fit_feNow hm))) (fit_ite (fit_ite
    (fit_modReq hm) hm) (fit_parkReq (fit_ite (fit_modReq hm) hm)))
theorem fit_configFn {bank : Nat} {op : ReqOp} (hm : s.fit what) : (s.configFn bank op).2.fit what := by
  unfold State.configFn
  dsimp only
  split
  · split
    · exact hm
    · split
      · exact hm
      · exact fit_setBank hm
  · exact hm
  · dsimp only
    split
    · exact fit_setBank hm
    · exact hm
  · exact hm
theorem fit_serveRmw {r : Req} (hm : s.fit what) : (s.serveRmw r).fit what :=
  fit_ite (fit_answer hm) (fit_answer (fit_rmw hm))
theorem fit_farWord (hm : s.fit what) : s.farWord.2.fit what := hm
theorem fit_sendLdc {r : Req} {cont v : Nat} (hm : s.fit what) : (s.sendLdc r cont v).fit what :=
  fit_ite (fit_answer hm) (fit_modReq hm)
theorem fit_tileEl {g k va : Nat} {acc : Bool} {v : Nat} (hm : s.fit what) : (s.tileEl g k va acc v).fit what := by
  unfold State.tileEl
  split
  · exact fit_report hm
  · exact fit_homeWrite hm
theorem fit_matMsg {gid : Nat} {r : Rect} {op : ReqOp} {source core : Nat} (hm : s.fit what) :
    (s.matMsg gid r op source core).fit what :=
  hm
theorem fit_maskedIn {q : Req} {id row : Nat} {els : List Nat} (hm : s.fit what) :
    (s.maskedIn q id row els).fit what := by
  unfold State.maskedIn
  dsimp only
  split
  · exact hm
  · exact fit_foldl (fit_modRect hm) fun _ _ hm => fit_matMsg hm
theorem fit_perform {r : Req} (hm : s.fit what) : (s.perform r).fit what := by
  unfold State.perform
  dsimp only
  split
  · exact fit_guarded hm fun _ hm => fit_answer hm
  · exact fit_guarded hm fun _ hm => fit_answer hm
  · exact fit_maskedIn (fit_dropReq hm)
  · exact fit_modRect (fit_dropReq hm)
  · exact fit_answer (fit_countSoft hm)
  · exact fit_ite (fit_guarded hm fun _ hm => fit_modReq hm) (fit_guarded hm fun _ hm => fit_answer hm)
  · exact fit_ite (fit_sendLdc (fit_farWord hm)) (fit_guarded hm fun _ hm => fit_sendLdc hm)
  · exact fit_guarded hm fun _ hm => fit_answer hm
  · exact hm
  · exact hm
  · exact fit_guarded hm fun _ hm => fit_answer hm
  · split
    · exact fit_report (fit_dropReq hm)
    · exact fit_homeWrite (fit_dropReq hm)
  · split
    · refine fit_dropReq ?_
      split
      · exact fit_report hm
      · exact fit_homeWrite hm
    · refine fit_modReq ?_
      split
      · exact fit_report hm
      · exact fit_homeWrite hm
  · split
    · exact fit_report (fit_dropReq hm)
    · exact fit_feSet (fit_dropReq hm)
  · exact fit_serveFe hm
  · split
    · exact fit_answer hm
    · exact fit_ite (fit_answer hm) (fit_guardedW hm fun _ hm => fit_answer (fit_applyFn hm))
  · exact fit_answer (fit_configFn hm)
  · exact fit_answer (fit_configFn hm)
  · exact fit_answer (fit_configFn hm)
  · exact fit_ite (fit_guardedW hm fun _ hm => fit_serveRmw hm) (fit_guarded hm fun _ hm => fit_serveRmw hm)
  · exact fit_ite (fit_guardedW hm fun _ hm => fit_serveRmw hm) (fit_guarded hm fun _ hm => fit_serveRmw hm)
  · exact fit_ite (fit_guardedW hm fun _ hm => fit_serveRmw hm) (fit_guarded hm fun _ hm => fit_serveRmw hm)
  · refine fit_guarded hm fun _ hm => ?_
    split
    · exact fit_answer (fit_snd ‹_› (fit_lrwAt hm))
    · exact fit_answer (fit_modThread (fit_snd ‹_› (fit_lrwAt hm)))
    · exact fit_parkReq (fit_dropReq (fit_snd ‹_› (fit_lrwAt hm)))
  · split
    · split
      · exact fit_answer hm
      · exact fit_answer (fit_dropHold (fit_homeWrite hm))
    · exact fit_answer hm
  · exact fit_answer (fit_ite (fit_dropHold hm) hm)
  · exact fit_tileEl (fit_dropReq hm)
  · exact fit_guardedW hm fun _ hm => fit_answer (fit_homeWrite hm)
  · exact fit_guardedW hm fun _ hm => fit_answer (fit_barInit hm)
  · split
    · refine fit_guardedW hm fun _ hm => ?_
      split
      · exact fit_answer (fit_snd ‹_› (fit_barArrive hm))
      · exact fit_parkReq (fit_dropReq (fit_snd ‹_› (fit_barArrive hm)))
    · refine fit_guarded hm fun _ hm => ?_
      split
      · exact fit_answer (fit_snd ‹_› (fit_barArrive hm))
      · exact fit_parkReq (fit_dropReq (fit_snd ‹_› (fit_barArrive hm)))
  · split
    · exact fit_ite (fit_dropReq hm) (fit_report (fit_dropReq hm))
    · exact fit_fillWords (fit_homeWrite (fit_dropReq hm))
  · exact fit_answer hm
  · exact fit_ite (fit_arrLook hm) hm
  · exact hm
  · exact hm
  · exact hm
theorem fit_sliceSeen {r : Req} (hm : s.fit what) : (s.sliceSeen r).fit what := fit_ite (fit_sampled hm) hm
theorem fit_performAll {r : Req} (hm : s.fit what) : (s.performAll r).fit what := by
  unfold State.performAll
  refine fit_foldl (fit_perform hm) fun _ _ hm => ?_
  split
  · exact fit_perform (fit_modReq hm)
  · exact hm
theorem fit_execHomeAccess {req : Nat} (hm : s.fit what) : Out.fit what (execHomeAccess req s) := by
  unfold execHomeAccess
  dsimp only
  split
  · split
    · exact fit_next (fit_ite (fit_performAll (fit_sliceSeen (fit_admitReq hm))) (fit_admitReq hm))
    · exact fit_next (fit_ite (fit_performAll (fit_sliceSeen hm)) hm)
  · split
    · exact fit_next (fit_admitReq hm)
    · exact fit_next hm
theorem fit_execFeRetryResend {req : Nat} (hm : s.fit what) : Out.fit what (execFeRetryResend req s) := fit_next hm
theorem fit_execBankUpdateArrival {req : Nat} (hm : s.fit what) : Out.fit what (execBankUpdateArrival req s) := by
  unfold execBankUpdateArrival
  dsimp only
  split
  · split
    · split
      · exact fit_next (fit_ite (fit_arriveUpd (fit_dropReq (fit_sliceSeen (fit_admitReq hm)))) (fit_admitReq hm))
      · exact fit_next (fit_ite (fit_arriveUpd (fit_dropReq (fit_sliceSeen hm))) hm)
    · split
      · exact fit_next (fit_admitReq hm)
      · exact fit_next hm
  · split
    · exact fit_next (fit_admitReq hm)
    · exact fit_next hm
theorem fit_fenceDrained {uid : Nat} (hm : s.fit what) : (s.fenceDrained uid).fit what := by
  unfold State.fenceDrained
  dsimp only
  split
  · exact hm
  · split
    · split
      · exact hm
      · split
        · exact fit_ite (fit_complete hm) (fit_trapWaiting (fit_modThread hm))
        · exact fit_complete hm
    · split
      · exact hm
      · split
        · exact fit_ite (fit_complete hm) (fit_trapWaiting (fit_modThread hm))
        · exact fit_complete hm
theorem fit_execDeferredFaultReport {msg : Nat} (hm : s.fit what) : Out.fit what (execDeferredFaultReport msg s) := by
  unfold execDeferredFaultReport
  dsimp only
  split
  · exact fit_next hm
  · split
    · exact fit_next hm
    · split
      · exact fit_next (fit_trapWaiting hm)
      · exact fit_next (fit_fenceDrained (fit_modThread hm))

/-! ### Machine/Reactive -/

theorem fit_setEntry {dom sig : Nat} {g : Sig} (hm : s.fit what) : (s.setEntry dom sig g).fit what := by
  unfold State.setEntry
  dsimp only
  split
  · exact hm.mem Domain.wf_tableMem
  · exact hm
theorem fit_bringIn {dom sig : Nat} (hm : s.fit what) : (s.bringIn dom sig).fit what := by
  unfold State.bringIn
  split
  · exact hm
  · exact fit_setEntry hm
theorem fit_remember {core dom sig : Nat} {present : Bool} (hm : s.fit what) :
    (s.remember core dom sig present).fit what :=
  hm
theorem fit_wakeOnSig {dom sig : Nat} {t : Thread} (hm : s.fit what) : (s.wakeOnSig dom sig t).fit what := by
  unfold State.wakeOnSig
  dsimp only
  split
  · exact hm
  · exact fit_ite (fit_ite hm (fit_wake (fit_remember hm))) (fit_ite (fit_wake hm) hm)
theorem fit_settleSig {dom sig : Nat} (hm : s.fit what) : (s.settleSig dom sig).fit what :=
  fit_ite (fit_foldl hm fun _ _ hm => fit_wakeOnSig hm) (fit_foldl hm fun _ _ hm => fit_wakeOnSig hm)
theorem fit_claimEdges {dom sig : Nat} (hm : s.fit what) : (s.claimEdges dom sig).fit what :=
  fit_foldl hm fun _ _ hm => fit_ite hm (fit_hold hm)
theorem fit_parkSig {sig : Nat} {fin : Done} (hm : s.fit what) : (s.parkSig sig fin).fit what :=
  fit_parkMe (fit_claimEdges hm)
theorem fit_applyCede {dom sig : Nat} (hm : s.fit what) : (s.applyCede dom sig).fit what :=
  fit_settleSig (fit_setEntry hm)
theorem fit_execCedeApply {req : Nat} (hm : s.fit what) : Out.fit what (execCedeApply req s) := by
  unfold execCedeApply
  split
  · split
    · exact fit_next (fit_ite (fit_applyCede (fit_dropReq (fit_bringIn hm))) hm)
    · exact fit_next hm
  · exact fit_next hm
theorem fit_postCede {g sig : Nat} (hm : s.fit what) : (s.postCede g sig).fit what := by
  unfold State.postCede
  dsimp only
  split
  · exact hm
  · exact fit_requestOf hm

/-! ### Machine/Streams -/

theorem fit_modIq {id : Nat} {f : Iq → Iq} (hm : s.fit what) : (s.modIq id f).fit what := hm
theorem fit_iqTouch {q : Iq} {i : Nat} (hm : s.fit what) : (s.iqTouch q i).fit what := by
  unfold State.iqTouch
  split
  · exact hm
  · split
    · exact hm
    · split
      · exact fit_snd ‹_› (fit_lookupTlb hm)
      · split
        · exact fit_fillQuad (fit_fillDie (fit_snd ‹_› (fit_lookupTlb hm)))
        · exact fit_snd ‹_› (fit_lookupTlb hm)
theorem fit_iqOut {q : Iq} (hm : s.fit what) : (s.iqOut q).fit what := by
  unfold State.iqOut
  refine fit_foldl (fit_modIq hm) fun _ _ hm => ?_
  dsimp only
  split
  · exact fit_ite hm (fit_homeWrite (fit_iqTouch hm))
  · exact hm
theorem fit_iqServe {id : Nat} (hm : s.fit what) : (s.iqServe id).fit what := by
  unfold State.iqServe
  dsimp only
  split
  · exact hm
  · split
    · exact hm
    · split
      · exact fit_wake (fit_modThread (fit_iqOut (fit_iqTouch hm)))
      · exact fit_ite (fit_wake (fit_modThread hm)) hm
theorem fit_iqEdges {q : Iq} (hm : s.fit what) : (s.iqEdges q).fit what :=
  fit_ite hm (fit_foldl hm fun _ _ hm => fit_ite hm (fit_hold hm))
theorem fit_iqSettleOne {id : Nat} (hm : s.fit what) : (s.iqSettleOne id).fit what := by
  unfold State.iqSettleOne
  dsimp only
  split
  · exact hm
  · split
    · exact fit_iqEdges (fit_iqServe (fit_ite (fit_iqOut hm) (fit_ite (fit_modIq hm) hm)))
    · exact fit_ite (fit_iqOut hm) (fit_ite (fit_modIq hm) hm)
theorem fit_iqPush {q : Iq} {rec time : Nat} (hm : s.fit what) : (s.iqPush q rec time).2.fit what :=
  fit_ite (fit_iqServe (fit_iqOut hm)) hm
theorem fit_iqSettle {dom : Nat} (hm : s.fit what) : (s.iqSettle dom).fit what :=
  fit_foldl hm fun _ _ hm => fit_iqSettleOne hm
theorem fit_iqUnbind {uid : Nat} (hm : s.fit what) : (s.iqUnbind uid).fit what := hm
theorem fit_execIqSpillRefill {queue : Nat} (hm : s.fit what) : Out.fit what (execIqSpillRefill queue s) := by
  unfold execIqSpillRefill
  dsimp only
  split
  · exact fit_next hm
  · exact fit_next (fit_ite (fit_iqOut (fit_iqTouch hm)) hm)
theorem fit_bindIq {q : Iq} {who : Option Thread} {prod : Bool} (hm : s.fit what) :
    (s.bindIq q who prod).2.fit what := by
  unfold State.bindIq
  split
  · exact hm
  · split
    · split
      · exact hm
      · split
        · exact hm
        · exact fit_iqSettleOne (fit_modIq hm)
    · split
      · exact hm
      · split
        · exact hm
        · exact fit_modIq hm
theorem fit_bindReply {r : Req} {oth : Bool} {tid : Nat} {prod : Bool} (hm : s.fit what) :
    (s.bindReply r oth tid prod).fit what := by
  unfold State.bindReply
  dsimp only
  split
  · exact fit_trapWaiting hm
  · exact fit_complete (fit_bindIq hm)
theorem fit_execReplyArrival {req : Nat} (hm : s.fit what) : Out.fit what (execReplyArrival req s) := by
  unfold execReplyArrival
  dsimp only
  split
  · split
    · exact fit_next hm
    · split
      · exact fit_next hm
      · split
        · split
          · exact fit_next (fit_ite (fit_modThread (fit_sampled (fit_dropReq hm))) (fit_sampled (fit_dropReq hm)))
          · exact fit_next (fit_sampled (fit_dropReq hm))
        · split
          · split
            · exact fit_next (fit_sampled (fit_dropReq hm))
            · split
              · exact fit_next (fit_trapWaiting (fit_sampled (fit_dropReq hm)))
              · split
                · exact fit_next (fit_bindReply (fit_sampled (fit_dropReq hm)))
                · exact fit_next (fit_complete (fit_putFor (fit_sampled (fit_dropReq hm))))
                · exact fit_next (fit_complete (fit_sampled (fit_dropReq hm)))
          · split
            · exact fit_next (fit_sampled (fit_dropReq hm))
            · split
              · exact fit_next (fit_trapWaiting (fit_sampled (fit_dropReq hm)))
              · split
                · exact fit_next (fit_bindReply (fit_sampled (fit_dropReq hm)))
                · exact fit_next (fit_complete (fit_putFor (fit_sampled (fit_dropReq hm))))
                · exact fit_next (fit_complete (fit_sampled (fit_dropReq hm)))
  · exact fit_next hm
theorem fit_finishBar {b : NetBar} (hm : s.fit what) : (s.finishBar b).fit what :=
  fit_foldl hm fun _ _ hm => fit_wake hm
theorem fit_completeBar {b : NetBar} (hm : s.fit what) : (s.completeBar b).fit what := by
  unfold State.completeBar
  split
  · exact fit_finishBar hm
  · exact hm
theorem fit_barSettle {dom : Nat} (hm : s.fit what) : (s.barSettle dom).fit what :=
  fit_foldl hm fun _ _ hm => fit_ite (fit_completeBar hm) hm
theorem fit_barDrained {m : DrainMsg} (hm : s.fit what) : (s.barDrained m).fit what := by
  unfold State.barDrained
  split
  · exact hm
  · split
    · exact fit_finishBar hm
    · exact hm
theorem fit_execDrain {bank : Nat} (hm : s.fit what) : Out.fit what (execDrain bank s) := by
  unfold execDrain
  dsimp only
  split
  · exact fit_next hm
  · exact fit_next (fit_ite (fit_barDrained (fit_drainBank hm)) (fit_fenceDrained (fit_drainBank hm)))

/-! ### Machine/Life -/

theorem fit_wakeReg {obj status : Nat} (hm : s.fit what) : (s.wakeReg obj status).fit what :=
  fit_foldl hm fun _ _ hm => fit_wake hm
theorem fit_releaseHolds {g : Nat} (hm : s.fit what) : (s.releaseHolds g).fit what :=
  fit_foldl hm fun _ _ hm => fit_ite hm (fit_wakeReg hm)
theorem fit_dissolve {g : Nat} (hm : s.fit what) : (s.dissolve g).fit what := fit_ite hm (fit_setQuad hm)
theorem fit_pauseCore {g pc : Nat} (hm : s.fit what) : (s.pauseCore g pc).fit what :=
  fit_modThread (fit_foldl hm fun _ _ hm => fit_postCede hm)
theorem fit_pauseJoin {g pc : Nat} (hm : s.fit what) : (s.pauseJoin g pc).fit what :=
  fit_foldl hm fun _ _ hm => fit_ite (fit_modThread (fit_pauseCore (fit_unwait hm))) (fit_pauseCore (fit_unwait hm))
theorem fit_joinStir {u a : Nat} (hm : s.fit what) : (s.joinStir u a).fit what := by
  induction a generalizing s u with
  | zero => exact hm
  | succ n ih =>
    rw [State.joinStir]
    dsimp only
    split
    · split <;> exact hm
    · split <;> exact fit_ite (fit_complete (fit_modThread (fit_unwait hm))) (fit_ite (ih (fit_iqSettle (fit_pauseJoin hm))) hm)
theorem fit_pauseThread {g pc : Nat} (hm : s.fit what) : (s.pauseThread g pc).fit what :=
  fit_joinStir (fit_iqSettle (fit_pauseCore hm))
theorem fit_endThread {g : Nat} (hm : s.fit what) : (s.endThread g).fit what := by
  fun_cases State.endThread s g with
  | case1 => exact hm
  | case2 t _ s1 s2 c s3 s4 =>
    have h2 : s2.fit what :=
      fit_iqUnbind (fit_releaseHolds (fit_abandon (fit_dissolve (fit_withdraw hm))))
    have h3 : s3.fit what := fit_setCore h2
    clear_value s3
    have h4 : s4.fit what := fit_dropThread (g := g) h3
    exact fit_joinStir (fit_barSettle (fit_iqSettle h4))
theorem fit_noteEnd {t : Thread} (hm : s.fit what) : (s.noteEnd t).fit what := hm
theorem fit_haltThread {g : Nat} (hm : s.fit what) : (s.haltThread g).fit what := by
  unfold State.haltThread
  refine fit_endThread ?_
  split
  · exact fit_noteEnd (fit_foldl hm fun _ _ hm => fit_postCede hm)
  · exact fit_foldl hm fun _ _ hm => fit_postCede hm
theorem fit_freeDomain {dom : Nat} (hm : s.fit what) : (s.freeDomain dom).fit what := hm
theorem fit_endDomain {dom : Nat} {stat : DStat} {word val : Nat} (hm : s.fit what) :
    (s.endDomain dom stat word val).fit what :=
  fit_modDomain (fit_freeDomain (fit_foldl (fit_foldl hm fun _ _ hm => fit_modThread (fit_withdraw hm)) fun _ _ hm =>
    fit_endThread hm))
theorem fit_abortDomain {dom kind cls gid val : Nat} (hm : s.fit what) :
    (s.abortDomain dom kind cls gid val).fit what :=
  fit_endDomain hm
theorem fit_abortFor {dom kind cls gid val tval : Nat} (hm : s.fit what) :
    (s.abortFor dom kind cls gid val tval).fit what :=
  fit_modDomain (fit_abortDomain hm)

/-! ### Machine/Integer -/

theorem fit_res {d : Reg} {v : Word} (hm : s.fit what) : Out.fit what (s.res d v) := fit_ok (fit_put hm)
theorem fit_resP {p : PReg} {v : Bool} (hm : s.fit what) : Out.fit what (s.resP p v) := fit_ok (fit_putP hm)
theorem fit_packed {d a b : Reg} {w : ElW} {f : Nat → Nat → Nat → Nat} (hm : s.fit what) :
    Out.fit what (s.packed d a b w f) :=
  fit_res hm
theorem fit_packedImm {d a : Reg} {w : ElW} {imm : BitVec 32} {f : Nat → Nat → Nat → Nat} (hm : s.fit what) :
    Out.fit what (s.packedImm d a w imm f) :=
  fit_res hm
theorem fit_execAdd {d a b : Reg} {w : ElW} (hm : s.fit what) : Out.fit what (execAdd d a b w s) := fit_packed hm
theorem fit_execSub {d a b : Reg} {w : ElW} (hm : s.fit what) : Out.fit what (execSub d a b w s) := fit_packed hm
theorem fit_execAddi {d a : Reg} {imm : BitVec 32} (hm : s.fit what) : Out.fit what (execAddi d a imm s) := fit_res hm
theorem fit_execMul {d a b : Reg} {w : ElW} (hm : s.fit what) : Out.fit what (execMul d a b w s) := fit_packed hm
theorem fit_execMulh {d a b : Reg} {u : Bool} {w : ElW} (hm : s.fit what) : Out.fit what (execMulh d a b u w s) :=
  fit_packed hm
theorem fit_execDiv {d a b : Reg} {u : Bool} {w : ElW} (hm : s.fit what) : Out.fit what (execDiv d a b u w s) := fit_packed hm
theorem fit_execRem {d a b : Reg} {u : Bool} {w : ElW} (hm : s.fit what) : Out.fit what (execRem d a b u w s) := fit_packed hm
theorem fit_execMin {d a b : Reg} {u : Bool} {w : ElW} (hm : s.fit what) : Out.fit what (execMin d a b u w s) := fit_packed hm
theorem fit_execMax {d a b : Reg} {u : Bool} {w : ElW} (hm : s.fit what) : Out.fit what (execMax d a b u w s) := fit_packed hm
theorem fit_execAbs {d a : Reg} {w : ElW} (hm : s.fit what) : Out.fit what (execAbs d a w s) := fit_res hm
theorem fit_execAnd {d a b : Reg} (hm : s.fit what) : Out.fit what (execAnd d a b s) := fit_res hm
theorem fit_execOr {d a b : Reg} (hm : s.fit what) : Out.fit what (execOr d a b s) := fit_res hm
theorem fit_execXor {d a b : Reg} (hm : s.fit what) : Out.fit what (execXor d a b s) := fit_res hm
theorem fit_execAndn {d a b : Reg} (hm : s.fit what) : Out.fit what (execAndn d a b s) := fit_res hm
theorem fit_execOrn {d a b : Reg} (hm : s.fit what) : Out.fit what (execOrn d a b s) := fit_res hm
theorem fit_execShl {d a b : Reg} {w : ElW} (hm : s.fit what) : Out.fit what (execShl d a b w s) := fit_packed hm
theorem fit_execShlImm {d a : Reg} {w : ElW} {imm : BitVec 32} (hm : s.fit what) : Out.fit what (execShlImm d a w imm s) :=
  fit_packedImm hm
theorem fit_execShr {d a b : Reg} {w : ElW} (hm : s.fit what) : Out.fit what (execShr d a b w s) := fit_packed hm
theorem fit_execShrImm {d a : Reg} {w : ElW} {imm : BitVec 32} (hm : s.fit what) : Out.fit what (execShrImm d a w imm s) :=
  fit_packedImm hm
theorem fit_execSar {d a b : Reg} {w : ElW} (hm : s.fit what) : Out.fit what (execSar d a b w s) := fit_packed hm
theorem fit_execSarImm {d a : Reg} {w : ElW} {imm : BitVec 32} (hm : s.fit what) : Out.fit what (execSarImm d a w imm s) :=
  fit_packedImm hm
theorem fit_execRol {d a b : Reg} {w : ElW} (hm : s.fit what) : Out.fit what (execRol d a b w s) := fit_packed hm
theorem fit_execRolImm {d a : Reg} {w : ElW} {imm : BitVec 32} (hm : s.fit what) : Out.fit what (execRolImm d a w imm s) :=
  fit_packedImm hm
theorem fit_execClz {d a : Reg} (hm : s.fit what) : Out.fit what (execClz d a s) := fit_res hm
theorem fit_execCtz {d a : Reg} (hm : s.fit what) : Out.fit what (execCtz d a s) := fit_res hm
theorem fit_execPopc {d a : Reg} (hm : s.fit what) : Out.fit what (execPopc d a s) := fit_res hm
theorem fit_execBrev {d a : Reg} (hm : s.fit what) : Out.fit what (execBrev d a s) := fit_res hm
theorem fit_execBfx {d a : Reg} {pos : Fin 64} {e : Fin 128} {c : Fin 32} (hm : s.fit what) :
    Out.fit what (execBfx d a pos e c s) :=
  fit_res hm
theorem fit_execBfi {d a : Reg} {pos : Fin 64} {e : Fin 128} (hm : s.fit what) : Out.fit what (execBfi d a pos e s) :=
  fit_res hm
theorem fit_execCmp {pd : PReg} {a b : Reg} {cc : Fin 64} (hm : s.fit what) : Out.fit what (execCmp pd a b cc s) := fit_resP hm
theorem fit_execCmpi {pd : PReg} {a : Reg} {cc : Fin 64} {imm : BitVec 32} (hm : s.fit what) :
    Out.fit what (execCmpi pd a cc imm s) :=
  fit_resP hm
theorem fit_execSel {d : Reg} {pc : PReg} {a b : Reg} (hm : s.fit what) : Out.fit what (execSel d pc a b s) := fit_res hm
theorem fit_execPlog {pd pa pb : PReg} {op : Fin 64} (hm : s.fit what) : Out.fit what (execPlog pd pa pb op s) := fit_resP hm
theorem fit_execMovi {d : Reg} {imm : BitVec 32} (hm : s.fit what) : Out.fit what (execMovi d imm s) := fit_res hm
theorem fit_execMoviZx {d : Reg} {imm : BitVec 32} (hm : s.fit what) : Out.fit what (execMoviZx d imm s) := fit_res hm
theorem fit_execMoviHi {d : Reg} {imm : BitVec 32} (hm : s.fit what) : Out.fit what (execMoviHi d imm s) := fit_res hm
theorem fit_execMov {d a : Reg} (hm : s.fit what) : Out.fit what (execMov d a s) := fit_res hm
theorem fit_execMovFromSpecial {d n : Reg} (hm : s.fit what) : Out.fit what (execMovFromSpecial d n s) := fit_res hm
theorem fit_execMovFromPred {d : Reg} {pa : PReg} (hm : s.fit what) : Out.fit what (execMovFromPred d pa s) := fit_res hm
theorem fit_execMovToPred {pd : PReg} {a : Reg} (hm : s.fit what) : Out.fit what (execMovToPred pd a s) := fit_resP hm
theorem fit_execLea {d a b : Reg} {sh : Fin 64} {imm : BitVec 32} (hm : s.fit what) : Out.fit what (execLea d a b sh imm s) :=
  fit_res hm
theorem fit_execMad {d a b c : Reg} {w : ElW} (hm : s.fit what) : Out.fit what (execMad d a b c w s) := fit_res hm
theorem fit_execSext {d a : Reg} {w : ElW} (hm : s.fit what) : Out.fit what (execSext d a w s) := fit_res hm
theorem fit_execZext {d a : Reg} {w : ElW} (hm : s.fit what) : Out.fit what (execZext d a w s) := fit_res hm
theorem fit_execCvti {d a : Reg} {op : Fin 64} (hm : s.fit what) : Out.fit what (execCvti d a op s) := fit_res hm
theorem fit_spend {n : Nat} (hm : s.fit what) : (s.spend n).fit what := hm
theorem fit_resF {d : Reg} {rm : Nat} {v : Rm → FV} (hm : s.fit what) : Out.fit what (s.resF d rm v) :=
  fit_res (fit_ite (fit_spend hm) hm)
theorem fit_execFadd {d a b : Reg} {rm : Fin 64} (hm : s.fit what) : Out.fit what (execFadd d a b rm s) := fit_resF hm
theorem fit_execFmul {d a b : Reg} {rm : Fin 64} (hm : s.fit what) : Out.fit what (execFmul d a b rm s) := fit_resF hm
theorem fit_execFfma {d a b c : Reg} {rm : Fin 64} (hm : s.fit what) : Out.fit what (execFfma d a b c rm s) := fit_resF hm
theorem fit_execFcmp {pd : PReg} {a b : Reg} {cc : Fin 64} (hm : s.fit what) : Out.fit what (execFcmp pd a b cc s) :=
  fit_resP hm

/-! ### Machine/MemOps -/

theorem fit_access {need : Nat} {fe : Bool} {align addr len : Nat} (hm : s.fit what) :
    (s.access need fe align addr len).fit what := by
  unfold State.access
  split
  · exact fit_snd ‹_› (fit_check hm)
  · exact fit_trap (fit_snd ‹_› (fit_check hm))
  · exact fit_waitWalk (fit_snd ‹_› (fit_check hm))
  · exact fit_snd ‹_› (fit_check hm)
theorem fit_scoped {sc : Scope} {f : State → Out} (hm : s.fit what) (hf : ∀ t, t.fit what → Out.fit what (f t)) :
    Out.fit what (s.scoped sc f) := by
  unfold State.scoped
  split
  · exact hf _ hm
  · exact fit_trap hm
theorem fit_farImage (hm : s.fit what) : s.farImage.2.fit what := hm
theorem fit_released {rel : Bool} {sc : Nat} {f : State → Out} (hm : s.fit what)
    (hf : ∀ t, t.fit what → Out.fit what (f t)) : Out.fit what (s.released rel sc f) := by
  unfold State.released
  split
  · exact fit_retry hm
  · exact hf _ hm
theorem fit_load {d : Reg} {ea n : Nat} {sext acq : Bool} {sc : Nat} (hm : s.fit what) :
    Out.fit what (s.load d ea n sext acq sc) := by
  unfold State.load
  refine Acc.fit_bind (fit_access hm) (fun _ hm => fit_res (fit_farWord hm)) fun _ _ hm => ?_
  split
  · split
    · exact fit_trap hm
    · exact fit_res (fit_countSoft hm)
  · exact fit_ask hm
theorem fit_storeOne {k va : Nat} {bs : List Byte} {mask sc : Nat} {rel own : Bool} (hm : s.fit what) :
    (s.storeOne k va bs mask sc rel own).fit what :=
  fit_ite (fit_homeWrite hm) (fit_postReq hm)
theorem fit_store {ea align : Nat} {bs : List Byte} {rel : Bool} {sc : Nat} (hm : s.fit what) :
    Out.fit what (s.store ea align bs rel sc) := by
  unfold State.store
  refine Acc.fit_bind (fit_access hm) (fun _ hm => fit_released hm fun _ hm => fit_ok hm) fun _ _ hm => ?_
  dsimp only
  split
  · split
    · exact fit_trap hm
    · exact fit_ok (fit_homeWrite hm)
  · exact fit_post hm
theorem fit_execLd {d a : Reg} {sx : Bool} {mw : MemW} {imm : BitVec 32} (hm : s.fit what) :
    Out.fit what (execLd d a sx mw imm s) :=
  fit_load hm
theorem fit_execSt {a b : Reg} {mw : MemW} {e : Fin 128} {imm : BitVec 32} (hm : s.fit what) :
    Out.fit what (execSt a b mw e imm s) :=
  fit_store hm
theorem fit_execLda {d a : Reg} {sc : Scope} {sx : Bool} {mw : MemW} {imm : BitVec 32} (hm : s.fit what) :
    Out.fit what (execLda d a sc sx mw imm s) :=
  fit_scoped hm fun _ hm => fit_load hm
theorem fit_execStl {a b : Reg} {sc : Scope} {mw : MemW} {e : Fin 128} {imm : BitVec 32} (hm : s.fit what) :
    Out.fit what (execStl a b sc mw e imm s) :=
  fit_scoped hm fun _ hm => fit_store hm
theorem fit_feOp {ea n : Nat} {want isLoad empties sext : Bool} {data d : Nat} {sc : Scope} (hm : s.fit what) :
    Out.fit what (s.feOp ea n want isLoad empties sext data d sc) := by
  unfold State.feOp
  refine fit_scoped hm fun _ hm => Acc.fit_bind (fit_access hm) (fun _ hm => fit_released hm fun _ hm => ?_) fun _ _ hm => ?_
  · dsimp only
    split
    · exact fit_ok (fit_putN (fit_farWord hm))
    · exact fit_ok hm
  · dsimp only
    split
    · split
      · exact fit_retry hm
      · split
        · exact fit_trap hm
        · split
          · exact fit_ok (fit_putN (fit_feNow hm))
          · split
            · exact fit_next (fit_request hm)
            · exact fit_next (fit_parkMe hm)
    · exact fit_ask hm
theorem fit_execLdfe {d a : Reg} {sc : Scope} {sx : Bool} {mw : MemW} {imm : BitVec 32} (hm : s.fit what) :
    Out.fit what (execLdfe d a sc sx mw imm s) :=
  fit_feOp hm
theorem fit_execStef {a b : Reg} {sc : Scope} {mw : MemW} {e : Fin 128} {imm : BitVec 32} (hm : s.fit what) :
    Out.fit what (execStef a b sc mw e imm s) :=
  fit_feOp hm
theorem fit_execLdff {d a : Reg} {sc : Scope} {sx : Bool} {mw : MemW} {imm : BitVec 32} (hm : s.fit what) :
    Out.fit what (execLdff d a sc sx mw imm s) :=
  fit_feOp hm
theorem fit_execStff {a b : Reg} {sc : Scope} {mw : MemW} {e : Fin 128} {imm : BitVec 32} (hm : s.fit what) :
    Out.fit what (execStff a b sc mw e imm s) :=
  fit_feOp hm
theorem fit_fesetOp {a : Reg} {imm : BitVec 32} {e : Bool} (hm : s.fit what) : Out.fit what (s.fesetOp a imm e) := by
  unfold State.fesetOp
  refine Acc.fit_bind (fit_access hm) (fun _ hm => fit_ok hm) fun _ _ hm => ?_
  split
  · split
    · exact fit_trap hm
    · exact fit_ok (fit_feSet hm)
  · exact fit_post hm
theorem fit_execFesetFull {a : Reg} {imm : BitVec 32} (hm : s.fit what) : Out.fit what (execFesetFull a imm s) :=
  fit_fesetOp hm
theorem fit_execFesetEmpty {a : Reg} {imm : BitVec 32} (hm : s.fit what) : Out.fit what (execFesetEmpty a imm s) :=
  fit_fesetOp hm
theorem fit_execFeqry {d a : Reg} {imm : BitVec 32} (hm : s.fit what) : Out.fit what (execFeqry d a imm s) := by
  unfold execFeqry
  refine Acc.fit_bind (fit_access hm) (fun _ hm => fit_res (fit_farWord hm)) fun _ _ hm => ?_
  split
  · split
    · exact fit_trap hm
    · exact fit_res hm
  · exact fit_ask hm
theorem fit_execLdp {d a : Reg} {imm : BitVec 32} (hm : s.fit what) : Out.fit what (execLdp d a imm s) := by
  unfold execLdp
  refine Acc.fit_bind (fit_access hm) (fun _ hm => fit_ok (fit_putN (fit_put (fit_farWord (fit_farWord hm))))) fun _ _ hm => ?_
  dsimp only
  split
  · split
    · exact fit_trap hm
    · exact fit_ok (fit_putN (fit_put (fit_countSoft hm)))
  · exact fit_ask hm
theorem fit_enterWords {ws : List (Nat × Nat × List Byte × Nat)} (hm : s.fit what) : Out.fit what (s.enterWords ws) := by
  unfold State.enterWords
  dsimp only
  split
  · exact fit_ok (fit_foldl hm fun _ _ hm => fit_modMe (fit_storeOne hm))
  · exact (fit_retry (fit_foldl hm fun _ _ hm => fit_modMe (fit_storeOne hm)))
theorem fit_execStp {a b : Reg} {imm : BitVec 32} (hm : s.fit what) : Out.fit what (execStp a b imm s) := by
  unfold execStp
  refine Acc.fit_bind (fit_access hm) (fun _ hm => fit_ok hm) fun _ _ hm => ?_
  split
  · split
    · exact fit_ok (fit_homeWrite hm)
    · exact fit_post hm
  · exact fit_enterWords hm
theorem fit_execStm {a b c : Reg} {op : Fin 64} {imm : BitVec 32} (hm : s.fit what) :
    Out.fit what (execStm a b c op imm s) := by
  unfold execStm
  dsimp only
  split
  · exact fit_trap (fit_snd ‹_› (fit_check hm))
  · exact (fit_waitWalk (fit_snd ‹_› (fit_check hm)))
  · exact fit_ok (fit_snd ‹_› (fit_check hm))
  · split
    · split
      · exact fit_trap (fit_snd ‹_› (fit_check hm))
      · exact fit_ok (fit_foldl (fit_snd ‹_› (fit_check hm)) fun _ _ hm => fit_storeOne hm)
    · exact fit_enterWords (fit_snd ‹_› (fit_check hm))
theorem fit_execZfill {a : Reg} {op : Fin 64} {imm : BitVec 32} (hm : s.fit what) : Out.fit what (execZfill a op imm s) := by
  unfold execZfill
  refine Acc.fit_bind (fit_access hm) (fun _ hm => fit_ok hm) fun _ _ hm => ?_
  split
  · exact fit_ok (fit_homeWrite hm)
  · exact fit_post hm
theorem fit_execLdc {d a c : Reg} {sx : Bool} {mw : MemW} {imm : BitVec 32} (hm : s.fit what) :
    Out.fit what (execLdc d a c sx mw imm s) :=
  Acc.fit_bind (fit_access hm) (fun _ hm => fit_ask hm) fun _ _ hm => fit_ask hm
theorem fit_bankAccess {need align ea len : Nat} (hm : s.fit what) : (s.bankAccess need align ea len).fit what := by
  unfold State.bankAccess
  split
  · exact fit_prot hm
  · exact fit_access hm
theorem fit_execUpd {a b : Reg} {fn : Fin 64} {imm : BitVec 32} (hm : s.fit what) : Out.fit what (execUpd a b fn imm s) :=
  Acc.fit_bind (fit_bankAccess hm) (fun _ hm => fit_ok hm) fun _ _ hm => fit_post hm
theorem fit_execUpdr {d : Reg} {pc : PReg} {a b : Reg} {fn : Fin 64} {imm : BitVec 32} (hm : s.fit what) :
    Out.fit what (execUpdr d pc a b fn imm s) :=
  Acc.fit_bind (fit_bankAccess hm) (fun _ hm => fit_ok (fit_putP (fit_put (fit_farWord (fit_farWord hm))))) fun _ _ hm => fit_ask hm
theorem fit_cfgBank {b : Reg} (hm : s.fit what) : (s.cfgBank b).fit what := by
  unfold State.cfgBank
  dsimp only
  split
  · exact fit_prot hm
  · exact fit_access hm
theorem fit_execUpdcfgLd {d a b : Reg} {imm : BitVec 32} (hm : s.fit what) : Out.fit what (execUpdcfgLd d a b imm s) := by
  unfold execUpdcfgLd
  refine Acc.fit_bind (fit_cfgBank hm) (fun _ hm => fit_prot hm) fun _ _ hm => Acc.fit_bind (fit_access hm) (fun _ hm =>
    fit_ask (fit_farImage hm)) fun _ _ hm => ?_
  split
  · exact fit_retry hm
  · split
    · exact fit_trap hm
    · exact fit_ask hm
theorem fit_execUpdcfgSt {d b : Reg} {imm : BitVec 32} (hm : s.fit what) : Out.fit what (execUpdcfgSt d b imm s) :=
  Acc.fit_bind (fit_cfgBank hm) (fun _ hm => fit_prot hm) fun _ _ hm => fit_ask hm
theorem fit_execUpdcfgClr {d b : Reg} {imm : BitVec 32} (hm : s.fit what) : Out.fit what (execUpdcfgClr d b imm s) :=
  Acc.fit_bind (fit_cfgBank hm) (fun _ hm => fit_prot hm) fun _ _ hm => fit_ask hm
theorem fit_atomic {d : Reg} {ea n : Nat} {sext : Bool} {sc : Scope} {op : ReqOp} (hm : s.fit what) :
    Out.fit what (s.atomic d ea n sext sc op) := by
  unfold State.atomic
  refine fit_scoped hm fun _ hm => Acc.fit_bind (fit_access hm) (fun _ hm => fit_released hm fun _ hm =>
    fit_res (fit_farWord hm)) fun _ _ hm => ?_
  dsimp only
  split
  · split
    · exact fit_retry hm
    · split
      · exact fit_trap hm
      · exact fit_res (fit_rmw hm)
  · split
    · exact fit_prot hm
    · exact fit_ask hm
theorem fit_execCas {d a b c : Reg} {sc : Scope} {sx : Bool} {mw : MemW} (hm : s.fit what) :
    Out.fit what (execCas d a b c sc sx mw s) :=
  fit_atomic hm
theorem fit_execSwap {d a b : Reg} {sc : Scope} {sx : Bool} {mw : MemW} (hm : s.fit what) :
    Out.fit what (execSwap d a b sc sx mw s) :=
  fit_atomic hm
theorem fit_execFetchadd {d a b : Reg} {sc : Scope} {sx : Bool} {mw : MemW} (hm : s.fit what) :
    Out.fit what (execFetchadd d a b sc sx mw s) :=
  fit_atomic hm
theorem fit_execFetchaddImm {d a b : Reg} {sc : Scope} {sx : Bool} {mw : MemW} {imm : BitVec 32} (hm : s.fit what) :
    Out.fit what (execFetchaddImm d a b sc sx mw imm s) :=
  fit_atomic hm
theorem fit_execLrw {d : Reg} {pb : PReg} {a : Reg} {sc : Scope} {sx : Bool} {mw : MemW} (hm : s.fit what) :
    Out.fit what (execLrw d pb a sc sx mw s) := by
  unfold execLrw
  refine fit_scoped hm fun _ hm => Acc.fit_bind (fit_bankAccess hm) (fun _ hm => ?_) fun _ _ hm => fit_ask hm
  dsimp only
  split
  · exact fit_ok (fit_putP (fit_put (fit_farWord (fit_farWord hm))))
  · exact fit_ok (fit_putP (fit_farWord (fit_farWord hm)))
theorem fit_execSch {pd : PReg} {a b : Reg} {sc : Scope} {mw : MemW} (hm : s.fit what) :
    Out.fit what (execSch pd a b sc mw s) := by
  unfold execSch
  dsimp only
  refine fit_scoped hm fun _ hm => Acc.fit_bind (fit_bankAccess hm) (fun _ hm => fit_released hm fun _ hm => ?_)
    fun _ _ hm => fit_ask hm
  exact fit_resP (fit_farWord hm)
theorem fit_execRsvx {a : Reg} (hm : s.fit what) : Out.fit what (execRsvx a s) :=
  Acc.fit_bind (fit_bankAccess hm) (fun _ hm => fit_ok hm) fun _ _ hm => fit_ask hm
theorem fit_fenceOp {sc : Nat} {drn : Bool} (hm : s.fit what) : Out.fit what (s.fenceOp sc drn) := by
  unfold State.fenceOp
  dsimp only
  split
  · exact fit_trap hm
  · split
    · refine fit_next_alike hm (alike_modMe (s := s.retry _) (b := false) fun x hx hg => ?_)
      obtain ⟨y, -, rfl⟩ := List.mem_map.1 hx
      by_cases h : y.gid = s.iss.gid
      · simp [h, Wait.parks]
      · rw [if_neg (mt beq_iff_eq.1 h)] at hg
        exact absurd hg h
    · split
      · split
        · split
          · exact fit_ok (fit_setCore hm)
          · exact fit_next (fit_await hm)
        · split
          · exact fit_ok hm
          · exact fit_next (fit_await hm)
      · split
        · exact fit_ok (fit_ite (fit_setCore hm) hm)
        · exact fit_next (fit_await (fit_ite (fit_setCore hm) hm))
theorem fit_execFenceCore (hm : s.fit what) : Out.fit what (execFenceCore s) := fit_fenceOp hm
theorem fit_execFence {sc : Scope} (hm : s.fit what) : Out.fit what (execFence sc s) := fit_fenceOp hm
theorem fit_execFenceDrn {sc : Scope} (hm : s.fit what) : Out.fit what (execFenceDrn sc s) := fit_fenceOp hm
theorem fit_execBarinit {d a b : Reg} {e : Fin 128} {sc : Scope} (hm : s.fit what) :
    Out.fit what (execBarinit d a b e sc s) := by
  unfold execBarinit
  dsimp only
  refine fit_scoped hm fun _ hm => Acc.fit_bind (fit_bankAccess hm) (fun _ hm => fit_released hm fun _ hm => ?_)
    fun _ _ hm => fit_ask hm
  exact fit_res (fit_farWord hm)
theorem fit_execBarObject {d a : Reg} {sc : Scope} (hm : s.fit what) : Out.fit what (execBarObject d a sc s) := by
  unfold execBarObject
  dsimp only
  refine fit_scoped hm fun _ hm => Acc.fit_bind (fit_bankAccess hm) (fun _ hm => fit_released hm fun _ hm => ?_)
    fun _ _ hm => fit_ask hm
  exact fit_res (fit_farWord hm)

/-! ### Machine/Deque -/

theorem fit_create {g : Nat} {d : Domain} {f : Thread → Thread} (hm : s.fit what) : (s.create g d f).fit what := hm
theorem fit_pushEntry {core : Nat} {e : DEnt} {top : Bool} (hm : s.fit what) : (s.pushEntry core e top).fit what :=
  hm
theorem fit_dispatchDep {pkt : Nat} {k : State → Out} (hm : s.fit what) (hk : ∀ t, t.fit what → Out.fit what (k t)) :
    Out.fit what (s.dispatchDep pkt k) := by
  unfold State.dispatchDep
  dsimp only
  split
  · split
    · exact hk _ (fit_modMe (fit_pushEntry (fit_snd ‹_› (fit_check hm))))
    · split
      · exact hk _ (fit_modMe (fit_setCore (fit_snd ‹_› (fit_check hm))))
      · exact (fit_retry (fit_modMe hm))
  · exact hk _ (fit_modMe (fit_report (fit_snd ‹_› (fit_check hm))))
  · exact (fit_waitWalk (fit_modMe hm))
  · exact hk _ (fit_modMe (fit_snd ‹_› (fit_check hm)))
theorem fit_trigger {k : State → Out} (hm : s.fit what) (hk : ∀ t, t.fit what → Out.fit what (k t)) :
    Out.fit what (s.trigger k) := by
  unfold State.trigger
  dsimp only
  split
  · exact fit_dispatchDep hm fun _ hm => hk _ hm
  · split
    · exact hk _ hm
    · split
      · exact hk _ (fit_modMe hm)
      · split
        · exact fit_trap (fit_snd ‹_› (fit_check hm))
        · exact (fit_waitWalk (fit_snd ‹_› (fit_check hm)))
        · exact hk _ (fit_modMe (fit_snd ‹_› (fit_check hm)))
        · split
          · exact fit_prot (fit_snd ‹_› (fit_check hm))
          · split
            · exact (fit_retry (fit_snd ‹_› (fit_check hm)))
            · exact fit_trap (fit_snd ‹_› (fit_check hm))
            · split
              · exact hk _ (fit_modMe (fit_report (fit_snd ‹_› (fit_check hm))))
              · split
                · exact hk _ (fit_modMe (fit_report (fit_snd ‹_› (fit_check hm))))
                · split
                  · exact fit_dispatchDep (fit_applyFn (fit_snd ‹_› (fit_check hm))) fun _ hm => hk _ hm
                  · exact hk _ (fit_modMe (fit_applyFn (fit_snd ‹_› (fit_check hm))))
theorem fit_retire {k : State → Out} (hm : s.fit what) (hk : ∀ t, t.fit what → Out.fit what (k t)) :
    Out.fit what (s.retire k) := by
  unfold State.retire
  split
  · exact fit_retry hm
  · exact fit_trigger hm fun _ hm => hk _ hm
theorem fit_execPostBufferDrain {core : Nat} (hm : s.fit what) : Out.fit what (execPostBufferDrain core s) := by
  unfold execPostBufferDrain
  dsimp only
  split
  · exact fit_next (fit_ite (fit_pushEntry (fit_setCore hm)) hm)
  · exact fit_next hm
theorem fit_take {core src : Nat} {e : DEnt} (hm : s.fit what) : (s.take core src e).fit what := by
  unfold State.take
  dsimp only
  split
  · exact hm
  · split
    · exact hm
    · split
      · split
        · exact fit_ite hm (fit_create (fit_snd ‹_› (fit_engineCheck (fit_setCore hm))))
        · exact hm
      · split
        · exact fit_ite hm (fit_create (fit_hold (fit_homeWrite (fit_snd ‹_› (fit_engineCheck (fit_setCore hm))))))
        · exact hm

/-! ### Machine/Issue -/

theorem fit_stirQueues (hm : s.fit what) : s.stirQueues.fit what :=
  fit_foldl hm fun _ _ hm => fit_modThread (fit_unwait hm)
theorem fit_interrupt {g : Nat} (hm : s.fit what) : (s.interrupt g).fit what :=
  fit_ite (fit_modThread (fit_modThread hm)) (fit_toSuper (fit_modThread hm))
theorem fit_preIssue {t : State} {g : Nat} (hm : s.fit .canonical) (e : s.preIssue g = some t) : t.fit .canonical := by
  unfold State.preIssue at e
  dsimp only at e
  split at e
  · split at e
    · cases e; exact fit_deliverWatchdog hm
    · cases e
  · split at e
    · cases e; exact fit_deliver (fit_modThread hm)
    · cases e; exact fit_deliver (fit_modThread hm)
    · cases e; exact fit_deliverWatchdog hm
    · split at e
      · cases e; exact fit_interrupt hm
      · cases e
theorem fit_preResume {t : State} {g : Nat} {w : Wait} (hm : s.fit .canonical) (e : s.preResume g w = some t) :
    t.fit .canonical := by
  unfold State.preResume at e
  dsimp only at e
  split at e
  · split at e
    · cases e; exact fit_deliver (fit_modThread hm)
    · cases e
  · cases e
theorem fit_stop {cls tval : Nat} (hm : s.fit .canonical) : (s.stop cls tval).fit .canonical := fit_fault hm
theorem fit_fetch (hm : s.fit .canonical) : FetchFit .canonical s.fetch := by
  have look : ∀ {s' : State} {e pc}, s.lookupTlb s.myQuad s.me.asid 4 (pcLine pc % 2 ^ 48) = (e, s') → s'.fit .canonical :=
    fun h => fit_snd h (fit_lookupTlb hm)
  fun_cases State.fetch s with
  | case1 => exact fetchFit_some hm (fit_stop hm)
  | case2 _ _ _ _ _ _ h => exact fetchFit_some (look h) (Out.fit_next rfl (fit_waitWalk (look h)))
  | case3 _ _ _ _ _ _ _ h | case4 _ _ _ _ _ _ _ h | case5 _ _ _ _ _ _ _ h | case6 _ _ _ _ _ _ _ h | case7 _ _ _ _ _ _ _ h =>
    exact fetchFit_some (look h) (fit_stop (look h))
  | case8 _ _ _ _ _ _ _ h => exact fetchFit_none (look h)
theorem fit_parkQueue {n : Nat} (hm : s.fit .canonical) : (s.parkQueue n).fit .canonical :=
  Out.fit_next rfl (fit_parkAgain (fit_foldl hm fun _ _ hm => fit_ite hm (fit_hold hm)))
theorem fit_popQueues {core : Nat} {pops : List (Nat × Word)} (hm : s.fit .canonical) :
    (s.popQueues core pops).fit .canonical :=
  fit_ite hm (fit_setCore hm)
theorem fit_runOne {exec : Instr → State → Out} {i : Instr} {hw : Nat} {on : Bool} (hm : s.fit .canonical)
    (hexec : ∀ a t, t.fit .canonical → Out.fit .canonical (exec a t)) : Out.fit .canonical (s.runOne exec i hw on) := by
  unfold State.runOne
  dsimp only
  split
  · exact hexec _ _ hm
  · exact fit_ok hm
theorem fit_keepHalf {i : Instr} {tr : Trap} {epc : Nat} (hm : s.fit .canonical) : (s.keepHalf i tr epc).fit .canonical :=
  fit_deliver (fit_popQueues hm)
/-- A bundle takes the memory of one half, or of both with what one of them has changed put into the other's. -/
theorem fit_runTwo {exec : Instr → State → Out} {i j : Instr} {ih jh : Nat} {ion jon : Bool} (hm : s.fit .canonical)
    (hexec : ∀ a t, t.fit .canonical → Out.fit .canonical (exec a t)) : Out.fit .canonical (s.runTwo exec i j ih jh ion jon) := by
  unfold State.runTwo
  dsimp only
  split
  · next s1 v e1 ev =>
    have h1 : s1.fit .canonical := Out.fit_next e1 (fit_runOne hm hexec)
    have hv : v.fit .canonical := Out.fit_next ev (fit_runOne hm hexec)
    refine Out.fit_ite (fit_next (fit_keepHalf hv)) (Out.fit_ite (fit_next h1) (Out.fit_ite (fit_next (fit_keepHalf h1))
      (Out.fit_ite (fit_next hv) (Out.fit_ite (fit_next h1) (Out.fit_ite (fit_next hv) ?_)))))
    have again := fit_runOne (i := i) (hw := ih) (on := ion)
      (s := { v.modMe (fun t => { t with regs := s.me.regs, preds := s.me.preds, pc := s.me.pc, stream := none }) with iss := s.iss })
      hv hexec
    split
    · next e2 _ => exact fit_next (Memory.wf_patch _ _ (Out.fit_next e2 again))
    · exact again
  · next e1 _ =>
    exact Out.fit_ite (fit_next (Out.fit_next e1 (fit_runOne hm hexec))) (fit_runOne hm hexec)
  · exact fit_runOne hm hexec
theorem fit_followed {g : Nat} (hm : s.fit .canonical) : (s.followed g).fit .canonical := by
  unfold State.followed
  dsimp only
  split
  · exact fit_setQuad hm
  · exact hm
theorem fit_finish (hm : s.fit .canonical) : s.finish.fit .canonical :=
  fit_ite (fit_ite (fit_ite (fit_followed hm) hm) (fit_popQueues (fit_ite (fit_followed hm) hm))) (fit_modThread (fit_ite (fit_ite
    (fit_followed hm) hm) (fit_popQueues (fit_ite (fit_followed hm) hm))))
theorem fit_lead {s0 : State} {pred whole : Bool} (hm : s.fit .canonical) :
    (s.lead s0 pred whole).fit .canonical := by
  unfold State.lead
  dsimp only
  split
  · exact hm
  · exact hm
  · exact fit_ite hm (fit_setQuad hm)
theorem fit_turn {g : Nat} (hm : s.fit .canonical) : (s.turn g).fit .canonical := hm
theorem fit_eachV {exec : Instr → State → Out} {v : Op} {gs : List Nat} (hm : s.fit .canonical)
    (hexec : ∀ a t, t.fit .canonical → Out.fit .canonical (exec a t)) : Out.fit .canonical (s.eachV exec v gs) :=
  List.foldlRecOn gs _ (motive := Out.fit .canonical) (fit_next hm) fun o ho g _ => by
    dsimp only
    split
    · next x =>
      split
      · exact ho
      · refine Out.fit_ite ho ?_
        have hr := hexec v.instr { x with iss := { s.iss with gid := g, jumped := true, opc := opcodeOf v.instr, hw := Op.head v } }
          ho
        split
        · next y e =>
          have hy : y.fit .canonical := Out.fit_next e hr
          exact Out.fit_ite (fit_next (fit_deliver hm)) (fit_next hy)
        · exact hr
    · exact ho
/-- What remains of the state after its operation was run: a parked operation is kept, followers are led, the issue ends. -/
theorem fit_runOps {exec : Instr → State → Out} {o : Op} {v : Option Op} {lead : Option (Nat × Bool)}
    (hm : s.fit .canonical) (hexec : ∀ a t, t.fit .canonical → Out.fit .canonical (exec a t)) :
    Out.fit .canonical (s.runOps exec o v lead) := by
  have keep : ∀ (c : Bool) (t : State) (f : Thread → Thread), t.fit .canonical → (if c then t.modMe f else t).fit .canonical :=
    fun _ _ _ ht => fit_ite (fit_modMe ht) ht
  unfold State.runOps
  extract_lets io ion von is kp
  split
  · exact fit_next (fit_finish (fit_fault hm))
  · exact fit_next (fit_finish (keep _ _ _ (fit_parkQueue hm)))
  · exact fit_next (fit_finish (Out.fit_next rfl (fit_retry hm)))
  · next pops _ =>
    extract_lets s' whole r
    have hs : s'.fit .canonical := hm
    have hr : Out.fit .canonical r := by
      dsimp only [r]
      split
      · have h1 := fit_runOne (i := o.instr) (hw := Op.head o) (on := ion) hs hexec
        split
        · next t e => exact fit_next (fit_modMe (Out.fit_next e h1))
        · exact h1
      · next v _ =>
        have two : ∀ t : State, t.fit .canonical →
            Out.fit .canonical (t.runTwo exec o.instr v.instr (Op.head o) (Op.head v) ion von) := fun _ ht => fit_runTwo ht hexec
        split
        · next e =>
          refine Out.fit_ite (fit_next (Out.fit_next e (two _ hs))) ?_
          split
          · next x e' =>
            have hx : x.fit .canonical := Out.fit_next e' (fit_eachV hs hexec)
            exact Out.fit_ite (fit_next hx) (two _ hx)
          · exact fit_eachV hs hexec
        · exact two _ hs
    clear_value r
    split
    · exact fit_next (fit_finish (keep _ _ _ (fit_lead (Out.fit_next rfl hr))))
    · exact hr
theorem fit_issueOps {exec : Instr → State → Out} {o : Op} {v : Option Op} {lead : Option (Nat × Bool)}
    (hm : s.fit .canonical) (hexec : ∀ a t, t.fit .canonical → Out.fit .canonical (exec a t)) :
    Out.fit .canonical (s.issueOps exec o v lead) := by
  unfold State.issueOps
  dsimp only
  exact Out.fit_ite (fit_next hm) (fit_runOps (fit_turn hm) hexec)
theorem fit_streamChunk {exec : Instr → State → Out} {g : Nat} {x : Stream} (hm : s.fit .canonical)
    (hexec : ∀ a t, t.fit .canonical → Out.fit .canonical (exec a t)) : Out.fit .canonical (s.streamChunk exec g x) := by
  unfold State.streamChunk
  dsimp only
  split
  · next s2 e =>
    have h2 : s2.fit .canonical := Out.fit_next e (hexec _ _ hm)
    split
    · have hmem : (if s2.trapOf.cls = clsCycle then { s with mem := s2.mem } else s).fit .canonical :=
        fit_ite h2 hm
      split <;> exact fit_next (fit_deliver hmem)
    · exact fit_next (fit_finish h2)
  · exact hexec _ _ hm
theorem fit_streamTurn {exec : Instr → State → Out} {g : Nat} {x : Stream} (hm : s.fit .canonical)
    (hexec : ∀ a t, t.fit .canonical → Out.fit .canonical (exec a t)) : Out.fit .canonical (s.streamTurn exec g x) :=
  fit_streamChunk (fit_turn hm) fun _ _ hm => hexec _ _ hm
theorem fit_resumeOne {exec : Instr → State → Out} {g : Nat} {t : Thread} {x : Parked} (hm : s.fit .canonical)
    (hexec : ∀ a t, t.fit .canonical → Out.fit .canonical (exec a t)) : Out.fit .canonical (s.resumeOne exec g t x) := by
  unfold State.resumeOne
  dsimp only
  split
  · exact fit_streamChunk (fit_modThread hm) fun _ _ hm => hexec _ _ hm
  · exact fit_runOps hm fun _ _ hm => hexec _ _ hm
theorem fit_resumeParked {exec : Instr → State → Out} {a : Nat} {b : State}
    (hexec : ∀ a t, t.fit .canonical → Out.fit .canonical (exec a t)) (hm : b.fit .canonical) :
    Out.fit .canonical (State.resumeParked exec a b) := by
  induction a generalizing b with
  | zero => exact fit_next hm
  | succ n ih =>
    rw [State.resumeParked]
    split
    · exact fit_next (fit_stirQueues hm)
    · split
      · exact fit_next (fit_stirQueues hm)
      · split
        · exact ih (Out.fit_next ‹_› (fit_resumeOne (fit_stirQueues hm) fun _ _ hm => hexec _ _ hm))
        · exact fit_resumeOne (fit_stirQueues hm) fun _ _ hm => hexec _ _ hm
theorem fit_issueWith {exec : Instr → State → Out} {g : Nat} (hexec : ∀ a t, t.fit .canonical → Out.fit .canonical (exec a t))
    (hm : s.fit .canonical) : Out.fit .canonical (issueWith exec g s) := by
  unfold issueWith
  split
  · exact fit_next hm
  · next t _ =>
    refine Out.fit_ite (fit_next hm) ?_
    extract_lets +onlyGivenNames half s1 q lead
    have h1 : s1.fit .canonical := fit_modThread hm
    split
    · exact fit_streamTurn h1 hexec
    · split
      · next e =>
        refine fit_next (fit_turn ?_)
        split at e
        · exact fit_preResume h1 e
        · exact fit_preIssue h1 e
      · extract_lets +onlyGivenNames pc moved blank s2
        have hmoved : moved.fit .canonical := fit_modThread h1
        have h2 : s2.fit .canonical := hmoved
        have hf := fit_fetch h2
        rcases e : s2.fetch with ⟨s3, l, u | u⟩ <;> rw [e] at hf <;> obtain ⟨h3, hu⟩ := hf
        rotate_left
        · exact fit_next (fit_finish (fit_turn (hu u rfl)))
        · dsimp -zeta only
          extract_lets +onlyGivenNames i after stop
          have hstop : ∀ (x : State) cls tval, x.fit .canonical → Out.fit .canonical (stop x cls tval) :=
            fun x _ _ hx => fit_next (fit_finish (fit_stop (fit_turn hx)))
          split
          · exact hstop _ _ _ h3
          · refine Out.fit_ite (fit_issueOps h3 hexec) (Out.fit_ite (hstop _ _ _ h3) ?_)
            split
            · exact hstop _ _ _ h3
            · exact Out.fit_ite (hstop _ _ _ h3) (fit_issueOps h3 hexec)

/-! ### Machine/Barrel -/

theorem fit_execBarrelIssue {core : Nat} (hm : s.fit what) : Out.fit what (execBarrelIssue core s) := by
  unfold execBarrelIssue
  split <;> exact fit_next hm
theorem fit_execStealAttempt {core : Nat} (hm : s.fit what) : Out.fit what (execStealAttempt core s) := by
  unfold execStealAttempt
  dsimp only
  split
  · exact fit_next hm
  · split
    · exact fit_next (fit_ite hm (fit_take hm))
    · exact fit_next hm

/-! ### Machine/Control -/

theorem fit_protOpc (hm : s.fit what) : Out.fit what s.protOpc := fit_prot hm
theorem fit_user {f : State → Out} (hm : s.fit what) (hf : ∀ t, t.fit what → Out.fit what (f t)) :
    Out.fit what (s.user f) := by
  unfold State.user
  split
  · exact fit_protOpc hm
  · exact hf _ hm
theorem fit_branchTo {taken form : Bool} {pc : Nat} {f : State → State} (hm : s.fit what)
    (hf : ∀ t, t.fit what → (f t).fit what) : Out.fit what (s.branchTo taken form pc f) := by
  unfold State.branchTo
  split
  · exact fit_next (fit_jump (hf _ hm))
  · split
    · exact fit_ok (hf _ hm)
    · refine fit_toTarget hm fun _ _ hm => ?_
      split
      · exact fit_next (fit_jump (hf _ hm))
      · exact fit_trap hm
theorem fit_execNop (hm : s.fit what) : Out.fit what (execNop s) := fit_ok hm
theorem fit_execBr {slot : Fin 64} {imm : BitVec 32} (hm : s.fit what) : Out.fit what (execBr slot imm s) :=
  fit_branchTo hm fun _ hm => hm
theorem fit_execBrc {e : Fin 128} {a b : Reg} {slot : Fin 64} {imm : BitVec 32} (hm : s.fit what) :
    Out.fit what (execBrc e a b slot imm s) :=
  fit_branchTo hm fun _ hm => hm
theorem fit_execBrr {a : Reg} (hm : s.fit what) : Out.fit what (execBrr a s) := fit_branchTo hm fun _ hm => hm
theorem fit_execCall {d : Reg} {slot : Fin 64} {imm : BitVec 32} (hm : s.fit what) : Out.fit what (execCall d slot imm s) :=
  fit_branchTo hm fun _ hm => fit_put hm
theorem fit_execRet {a : Reg} (hm : s.fit what) : Out.fit what (execRet a s) := fit_branchTo hm fun _ hm => hm
theorem fit_execLoop {d : Reg} {slot : Fin 64} {imm : BitVec 32} (hm : s.fit what) : Out.fit what (execLoop d slot imm s) :=
  fit_branchTo hm fun _ hm => fit_put hm
theorem fit_cedeSome {gs : List Nat} (hm : s.fit what) : (s.cedeSome gs).fit what :=
  fit_foldl hm fun _ _ hm => fit_foldl hm fun _ _ hm => fit_ite (fit_postCede hm) hm
/-- Outside a gang, `pause` and `halt` act for the issuing thread alone. -/
theorem wholeGang_of_none {g : Nat} (hg : (s.quad (gidQk g)).gang = none) : s.wholeGang g = [g] := by
  simp [State.wholeGang, State.gangOf, hg]
theorem fit_unowned {gs : List Nat} {f : State → Out} (hm : s.fit what) (hgs : what = .single → gs = [s.iss.gid])
    (hf : ∀ t, t.fit what → Out.fit what (f t)) : Out.fit what (s.unowned gs f) := by
  unfold State.unowned
  dsimp only
  split
  · exact fit_protOpc hm
  · next hown =>
    split
    · exact hf _ hm
    · next e =>
      refine (match what, hm, hgs with
        | .canonical, hm, _ => fit_deliver hm
        | .single, _, hgs => absurd e ?_)
      rw [hgs rfl, List.find?_singleton]
      exact fun h => by
        split at h
        · next hne => exact hown hne
        · cases h
theorem fit_retireAll {me : Nat} {a : List Nat} {b : State → Out} (hm : s.fit what)
    (hb : ∀ t, t.fit what → Out.fit what (b t)) : Out.fit what (s.retireAll me a b) := by
  induction a generalizing s me with
  | nil => exact hb _ hm
  | cons a l ih => exact fit_retire hm fun _ hm => ih hm
theorem fit_execHalt (hm :
    s.fit what) (hg : what = .single → (s.quad (gidQk s.iss.gid)).gang = none) : Out.fit what (execHalt s) := by
  unfold execHalt State.user
  refine Out.fit_ite (fit_protOpc hm) (fit_unowned hm (fun ho => wholeGang_of_none (hg ho)) fun _ hm => ?_)
  dsimp only
  split
  · exact fit_retry (fit_cedeSome hm)
  · exact fit_retireAll (fit_cedeSome hm) fun _ hm => fit_next (fit_foldl hm fun _ _ hm => fit_haltThread hm)
theorem fit_execPause (hm :
    s.fit what) (hg : what = .single → (s.quad (gidQk s.iss.gid)).gang = none) : Out.fit what (execPause s) := by
  unfold execPause State.user
  refine Out.fit_ite (fit_protOpc hm) (fit_unowned hm (fun ho => wholeGang_of_none (hg ho)) fun _ hm => ?_)
  dsimp only
  split
  · exact fit_retry (fit_cedeSome hm)
  · exact fit_next (fit_foldl (fit_cedeSome hm) fun _ _ hm => fit_pauseThread hm)
theorem fit_withSig {op : SigOp} {f : Nat → State → Out} (hm : s.fit what)
    (hf : ∀ a t, t.fit what → Out.fit what (f a t)) : Out.fit what (s.withSig op f) := by
  unfold State.withSig
  refine fit_user hm fun _ hm => ?_
  dsimp only
  split
  · exact fit_trap hm
  · exact hf _ _ hm
theorem fit_afterRelease {f : State → Out} (hm : s.fit what) (hf : ∀ t, t.fit what → Out.fit what (f t)) :
    Out.fit what (s.afterRelease f) := by
  unfold State.afterRelease
  split
  · exact fit_retry hm
  · exact hf _ hm
theorem fit_atEntry {n : Nat} {f : Sig → State → Out} (hm : s.fit what) (hf : ∀ a t, t.fit what → Out.fit what (f a t)) :
    Out.fit what (s.atEntry n f) := by
  unfold State.atEntry
  dsimp only
  split
  · exact fit_retry hm
  · exact hf _ _ (fit_bringIn hm)
theorem fit_emission {n : Nat} {v : Option Nat} (hm : s.fit what) : Out.fit what (s.emission n v) := by
  unfold State.emission
  dsimp only
  split
  · exact fit_trap (fit_bringIn hm)
  · exact fit_replied (fit_settleSig (fit_remember (fit_setEntry (fit_bringIn hm))))
theorem fit_execEmit {sig : SigOp} (hm : s.fit what) : Out.fit what (execEmit sig s) :=
  fit_withSig hm fun _ _ hm => fit_afterRelease hm fun _ hm => fit_emission hm
theorem fit_execEmitv {a : Reg} {sig : SigOp} (hm : s.fit what) : Out.fit what (execEmitv a sig s) :=
  fit_withSig hm fun _ _ hm => fit_afterRelease hm fun _ hm => fit_emission hm
theorem fit_execPres {pd : PReg} {sig : SigOp} (hm : s.fit what) : Out.fit what (execPres pd sig s) := by
  unfold execPres
  refine fit_withSig hm fun _ _ hm => ?_
  split
  · exact fit_resP hm
  · refine fit_atEntry hm fun _ _ hm => ?_
    split
    · exact fit_next (fit_parkSig hm)
    · exact fit_replied (fit_remember hm)
theorem fit_execCede {sig : SigOp} (hm : s.fit what) : Out.fit what (execCede sig s) := by
  unfold execCede
  refine fit_withSig hm fun _ _ hm => ?_
  split
  · exact fit_ok hm
  · split
    · exact fit_ok (fit_postCede hm)
    · exact fit_retry hm
theorem fit_execUnclaim {sig : SigOp} (hm : s.fit what) : Out.fit what (execUnclaim sig s) := by
  unfold execUnclaim
  refine fit_withSig hm fun _ _ hm => ?_
  dsimp only
  split
  · exact fit_ok (fit_modMe hm)
  · split
    · exact fit_ok (fit_modMe (fit_postCede hm))
    · exact fit_retry hm
theorem fit_execClaim {d : Reg} {sig : SigOp} (hm : s.fit what) : Out.fit what (execClaim d sig s) := by
  unfold execClaim
  refine fit_withSig hm fun _ _ hm => fit_atEntry hm fun _ _ hm => ?_
  dsimp only
  split
  · exact fit_reply hm
  · split
    · exact fit_reply hm
    · split
      · exact fit_reply hm
      · split
        · exact fit_reply (fit_modMe hm)
        · exact fit_reply (fit_ite (fit_setEntry (fit_modMe hm)) (fit_claimEdges (fit_setEntry (fit_modMe hm))))
theorem fit_execSigvCur {d : Reg} {sig : SigOp} (hm : s.fit what) : Out.fit what (execSigvCur d sig s) := by
  unfold execSigvCur
  refine fit_withSig hm fun _ _ hm => fit_atEntry hm fun _ _ hm => ?_
  split
  · exact fit_next (fit_parkSig hm)
  · exact fit_reply hm
theorem fit_execSigvPrev {d : Reg} {sig : SigOp} (hm : s.fit what) : Out.fit what (execSigvPrev d sig s) :=
  fit_withSig hm fun _ _ hm => fit_atEntry hm fun _ _ hm => fit_reply hm
theorem fit_pushGuard {abort : Bool} {n exit : Nat} (hm : s.fit what) : (s.pushGuard abort n exit).fit what := hm
theorem fit_execAbortw {sn : Fin 4096} {slot : Fin 64} {imm : BitVec 32} (hm : s.fit what) :
    Out.fit what (execAbortw sn slot imm s) := by
  unfold execAbortw
  refine fit_withSig hm fun _ _ hm => ?_
  split
  · exact fit_prot hm
  · refine fit_toTarget hm fun _ _ hm => ?_
    split
    · exact fit_ok (fit_pushGuard hm)
    · exact fit_trap hm
theorem fit_execSuspw {sig : SigOp} (hm : s.fit what) : Out.fit what (execSuspw sig s) := by
  unfold execSuspw
  refine fit_withSig hm fun _ _ hm => ?_
  split
  · exact fit_prot hm
  · exact fit_ok (fit_pushGuard hm)
theorem fit_execEndw (hm : s.fit what) : Out.fit what (execEndw s) := by
  unfold execEndw
  refine fit_user hm fun _ hm => ?_
  split
  · exact fit_prot hm
  · exact fit_ok (fit_modMe hm)
theorem fit_execFork {d : Reg} {slot : Fin 64} {imm : BitVec 32} (hm : s.fit what) :
    Out.fit what (execFork d slot imm s) := by
  unfold execFork
  refine fit_user hm fun _ hm => ?_
  dsimp only
  split
  · exact fit_protOpc hm
  · refine fit_toTarget hm fun _ _ hm => ?_
    split
    · exact fit_trap hm
    · split
      · exact fit_res hm
      · split
        · exact fit_res hm
        · split
          · exact fit_res hm
          · exact fit_res (fit_modMe (fit_create hm))
theorem fit_parkJoin {kids : List Thread} (hm : s.fit what) : (s.parkJoin kids).fit what := by
  unfold State.parkJoin
  refine fit_foldl (fit_modMe hm) fun _ _ hm => ?_
  dsimp only
  split
  · exact hm
  · split
    · exact fit_fst ‹_› (fit_enterWait (fit_hold hm))
    · exact fit_trapWaiting (fit_fst ‹_› (fit_enterWait (fit_hold hm)))
theorem fit_execJoin (hm : s.fit what) : Out.fit what (execJoin s) := by
  unfold execJoin
  refine fit_user hm fun _ hm => ?_
  dsimp only
  split
  · exact fit_ok (fit_modMe hm)
  · split
    · split
      · exact fit_retry (fit_cedeSome hm)
      · exact fit_next (fit_joinStir (fit_iqSettle (fit_pauseJoin (fit_cedeSome hm))))
    · exact fit_next (fit_parkJoin hm)
theorem fit_execInstNum {d : Reg} (hm : s.fit what) : Out.fit what (execInstNum d s) := fit_user hm fun _ hm => fit_res hm
theorem fit_execInstSeed {d : Reg} (hm : s.fit what) : Out.fit what (execInstSeed d s) := fit_user hm fun _ hm => fit_res hm
theorem fit_execInstNsig {d : Reg} (hm : s.fit what) : Out.fit what (execInstNsig d s) := fit_user hm fun _ hm => fit_res hm
theorem fit_execTrig {sc : Scope} (hm : s.fit what) : Out.fit what (execTrig sc s) := by
  unfold execTrig
  refine fit_scoped hm fun _ hm => fit_user hm fun _ hm => ?_
  split
  · exact fit_retry hm
  · exact fit_trigger hm fun _ hm => fit_ok hm
theorem fit_execGangWait (hm : s.fit what) : Out.fit what (execGangWait s) := by
  unfold execGangWait
  refine fit_user hm fun _ hm => ?_
  split
  · exact fit_protOpc hm
  · exact fit_next (fit_parkMe hm)
theorem fit_execGangOn {d : Reg} (hm : s.fit what) : Out.fit what (execGangOn d s) := by
  unfold execGangOn
  refine fit_user hm fun _ hm => ?_
  dsimp only
  split
  · exact fit_res hm
  · split
    · exact fit_res (fit_foldl (fit_setQuad hm) fun _ _ hm => fit_modThread (fit_wake hm))
    · exact fit_res hm
theorem fit_execGangOff (hm : s.fit what) : Out.fit what (execGangOff s) := by
  unfold execGangOff
  refine fit_user hm fun _ hm => ?_
  dsimp only
  split
  · exact fit_ok hm
  · exact fit_ok (fit_foldl (fit_dissolve hm) fun _ _ hm => fit_modThread hm)

/-! ### Machine/Barrier -/

theorem fit_arriveBar {d b c : Reg} {m red sc : Nat} {drn : Bool} {drain : Option Nat} (hm : s.fit what) :
    Out.fit what (s.arriveBar d b c m red sc drn drain) := by
  unfold State.arriveBar
  dsimp only
  split
  · exact fit_prot hm
  · split
    · exact fit_retry hm
    · exact fit_next (fit_barSettle (fit_parkMe hm))
theorem fit_execBarNetwork {d b c : Reg} {red : Fin 4} {sc : Scope} (hm : s.fit what) :
    Out.fit what (execBarNetwork d b c red sc s) :=
  fit_scoped hm fun _ hm => fit_arriveBar hm
theorem fit_execBarDrain {d a b c : Reg} {red : Fin 4} {sc : Scope} (hm : s.fit what) :
    Out.fit what (execBarDrain d a b c red sc s) :=
  fit_scoped hm fun _ hm => Acc.fit_bind (fit_bankAccess hm) (fun _ hm => fit_arriveBar hm) fun _ _ hm => fit_arriveBar hm
theorem fit_of_res {t : State} {d : Reg} {v : Nat} (e : s.res d v = .next t) (hm : s.fit what) : t.fit what := by
  cases e
  exact fit_advance (fit_put hm)
theorem fit_moveTo {g : Nat} (hm : s.fit what) : (s.moveTo g).fit what := hm
theorem fit_execMigr {d a : Reg} (hm : s.fit what) : Out.fit what (execMigr d a s) := by
  unfold execMigr
  refine fit_user hm fun _ hm => ?_
  dsimp only
  split
  · exact fit_protOpc hm
  · split
    · exact fit_prot hm
    · refine Acc.fit_bind (fit_access hm) (fun _ hm => fit_res hm) fun _ _ hm => ?_
      split
      · exact fit_res hm
      · split
        · exact fit_retry hm
        · split
          · exact fit_res hm
          · split
            · exact fit_next (fit_barSettle (fit_of_res ‹_› (fit_moveTo hm)))
            · exact fit_res (fit_moveTo hm)

/-! ### Machine/HostMem -/

theorem fit_hostWrite {a : Nat} {bs : List Byte} (hm : s.fit what) : (s.hostWrite a bs).fit what :=
  fit_writeBytes hm
theorem fit_ringPost {t : State} {r r' : Ring} {bs : List Byte} (hm : s.fit what) (e : s.ringPost r bs = some (r', t)) :
    t.fit what := by
  unfold State.ringPost at e
  dsimp only at e
  split at e <;> cases e
  exact fit_hostWrite hm
theorem fit_postFault {part kind acc dom gid addr asid : Nat} (hm : s.fit what) :
    (s.postFault part kind acc dom gid addr asid).fit what := by
  fun_cases State.postFault s part kind acc dom gid addr asid with
  | case1 | case2 | case3 => exact trivial
  | case4 p _ r _ num rec32 ring u e v =>
    have hv : v.fit what := fit_modPart (fit_ringPost hm e)
    exact fit_ite hv (fit_hostWrite hv)

/-! ### Machine/Dealer -/

theorem fit_dealerClose {dom : Nat} (hm : s.fit what) : (s.dealerClose dom).fit what := hm
theorem fit_abortGuard {n : Nat} {t : Thread} {g : Guard} (hm : s.fit what) : (s.abortGuard n t g).fit what :=
  fit_ite (fit_modThread hm) (fit_endThread hm)
theorem fit_visitGuard {dom n : Nat} {x : State × List (Nat × Nat)} {id : Nat} (hx : x.1.fit what) :
    (State.visitGuard dom n x id).1.fit what := by
  unfold State.visitGuard
  dsimp only
  split
  · exact hx
  · split
    · exact hx
    · split
      · exact fit_foldl hx fun _ _ hm => fit_abortGuard hm
      · exact hx
theorem fit_visitDepth {dom : Nat} {x : State × List (Nat × Nat)} {n : Nat} (hx : x.1.fit what) :
    (State.visitDepth dom x n).1.fit what :=
  fit_foldl_fst hx fun _ _ hx => fit_visitGuard hx
theorem fit_splitGangs {held : List (Nat × Nat)} (hm : s.fit what) : (s.splitGangs held).fit what :=
  fit_foldl hm fun _ _ hm => fit_ite hm (fit_dissolve hm)
theorem fit_dealerGuards {dom : Nat} (hm : s.fit what) : (s.dealerGuards dom).fit what := by
  fun_cases State.dealerGuards s dom with
  | case1 t held e u =>
    have ht : t.fit what := fit_fst e (fit_foldl_fst hm fun _ _ hx => fit_visitDepth hx)
    exact fit_splitGangs ht
theorem fit_refresh {dom n : Nat} (hm : s.fit what) : (s.refresh dom n).fit what := by
  unfold State.refresh
  split
  · exact hm
  · exact fit_setEntry hm
theorem fit_dealerAdvance {dom : Nat} (hm : s.fit what) : (s.dealerAdvance dom).fit what := by
  unfold State.dealerAdvance
  dsimp only
  split
  · exact hm
  · exact fit_modDomain (fit_foldl hm fun _ _ hm => fit_refresh hm)
theorem fit_cedeHeld {t : Thread} (hm : s.fit what) : (s.cedeHeld t).fit what :=
  fit_modThread (fit_foldl hm fun _ _ hm => fit_applyCede (fit_bringIn hm))
theorem fit_dealerResume {dom : Nat} (hm : s.fit what) : (s.dealerResume dom).fit what :=
  fit_iqSettle (fit_modDomain (fit_foldl hm fun _ _ hm => fit_cedeHeld hm))
theorem fit_takeInputs {dom : Nat} (hm : s.fit what) : (s.takeInputs dom).fit what := by
  unfold State.takeInputs
  dsimp only
  split
  · exact hm
  · exact fit_modDomain hm
theorem fit_closure {dom : Nat} (hm : s.fit what) : (s.closure dom).fit what := by
  unfold State.closure
  dsimp only
  split
  · exact fit_endDomain (fit_dealerClose hm)
  · split
    · exact fit_modDomain (fit_dealerAdvance (fit_takeInputs (fit_dealerGuards (fit_dealerClose hm))))
    · exact fit_dealerResume (fit_dealerAdvance (fit_takeInputs (fit_dealerGuards (fit_dealerClose hm))))
theorem fit_execLull {dom : Nat} (hm : s.fit what) : Out.fit what (execLull dom s) := by
  unfold execLull
  split
  · exact fit_next (fit_ite (fit_closure hm) hm)
  · exact fit_next hm

/-! ### Machine/Handles -/

theorem fit_askWords {ws : List (Nat × Nat)} (hm : s.fit what) : Out.fit what (.next (s.askWords ws)) :=
  fit_retry (fit_foldl hm fun _ _ hm => fit_request hm)
theorem fit_askLine {ws : List (Nat × Nat)} (hm : s.fit what) : Out.fit what (.next (s.askLine ws)) :=
  fit_retry (fit_foldl hm fun _ _ hm => fit_request hm)
theorem fit_spanOf {w : Who} {eng : Bool} {need addr len : Nat} (hm : s.fit what) :
    (s.spanOf w eng need addr len).fit what := by
  unfold State.spanOf
  split
  · refine fit_snd ‹_› ?_
    split
    · exact fit_engineCheck hm
    · exact fit_check hm
  · exact trivial
  · exact trivial
  · refine fit_snd ‹_› ?_
    split
    · exact fit_engineCheck hm
    · exact fit_check hm
theorem fit_settle {α : Type} {x : Got α} {f : α → State → Out} (hm : s.fit what) (hx : x.fit what)
    (hf : ∀ a t, t.fit what → Out.fit what (f a t)) : Out.fit what (s.settle x f) := by
  unfold State.settle
  split
  · exact hf _ _ hx
  · exact fit_trap hm
  · exact fit_waitWalk hm
  · exact fit_parkAgain hm
  · split
    · exact fit_askWords hm
    · exact fit_askLine hm
  · exact fit_retry hm
  · exact fit_retry hx
theorem fit_plainly {f : State → Out} (hm : s.fit what) (hf : ∀ t, t.fit what → Out.fit what (f t)) :
    Out.fit what (s.plainly f) :=
  hf _ hm
theorem fit_fetched {ws : List (Nat × Nat)} (hm : s.fit what) : (s.fetched ws).fit what := by
  unfold State.fetched
  split
  · exact trivial
  · split
    · exact hm
    · exact trivial
theorem fit_readPlain {va : Nat} {keys : List Nat} (hm : s.fit what) : (s.readPlain va keys).fit what := by
  unfold State.readPlain
  split
  · exact trivial
  · refine Got.fit_bind (fit_fetched hm) fun _ _ hm => ?_
    split
    · exact trivial
    · exact hm
theorem fit_readKeys {va : Nat} {keys : List Nat} (hm : s.fit what) : (s.readKeys va keys).fit what := by
  unfold State.readKeys
  split
  · exact fit_readPlain hm
  · split
    · exact trivial
    · exact hm
theorem fit_farBytes {a : Nat} (hm : s.fit what) : (s.farBytes a).2.fit what := by
  induction a generalizing s with
  | zero => exact hm
  | succ n ih => exact ih (fit_farWord hm)
theorem fit_readSpan {va : Nat} {sp : Span} {off n : Nat} (hm : s.fit what) : (s.readSpan va sp off n).fit what := by
  unfold State.readSpan
  dsimp only
  split
  · exact fit_readKeys (fit_foldl hm fun _ _ hm => fit_countSoft hm)
  · exact fit_farBytes hm
theorem fit_readLine {va : Nat} {sp : Span} (hm : s.fit what) : (s.readLine va sp).fit what := by
  unfold State.readLine
  dsimp only
  split
  · exact fit_readSpan hm
  · split
    · exact fit_readSpan hm
    · split
      · exact trivial
      · refine Got.fit_bind (fit_readSpan hm) fun _ _ hm => ?_
        split
        · exact hm
        · exact trivial
theorem fit_keep {ps : List Put} (hm : s.fit what) : (s.keep ps).fit what := hm
theorem fit_writeKeys {va : Nat} {keys : List Nat} {bs : List Byte} (hm : s.fit what) :
    (s.writeKeys va keys bs).fit what := by
  unfold State.writeKeys
  dsimp only
  split
  · exact fit_keep hm
  · split
    · split
      · exact trivial
      · exact fit_homeWrite hm
    · split
      · exact trivial
      · exact fit_foldl hm fun _ _ hm => fit_homeWrite hm
theorem fit_writeSpan {va : Nat} {sp : Span} {off : Nat} {bs : List Byte} (hm : s.fit what) :
    (s.writeSpan va sp off bs).fit what := by
  unfold State.writeSpan
  split
  · exact fit_writeKeys hm
  · exact hm
theorem fit_putNow {p : Put} (hm : s.fit what) : (s.putNow p).fit what :=
  fit_ite (fit_fillWords (fit_homeWrite hm)) (fit_homeWrite hm)
theorem fit_putOut {p : Put} (hm : s.fit what) : (s.putOut p).fit what :=
  fit_ite (fit_modReq (fit_request hm)) (fit_request hm)
theorem fit_commit (hm : s.fit what) : s.commit.fit what := by
  unfold State.commit
  dsimp only
  split
  · exact trivial
  · exact trivial
  · split
    · split
      · exact trivial
      · exact fit_foldl hm fun _ _ hm => fit_putNow hm
    · split
      · exact fit_foldl hm fun _ _ hm => fit_putOut hm
      · exact trivial
theorem fit_inTurn {sp : Span} (hm : s.fit what) : (s.inTurn sp).fit what := by
  unfold State.inTurn
  split
  · exact hm
  · split
    · exact trivial
    · split
      · exact trivial
      · exact hm
theorem fit_keepHandle {core : Nat} {e : Nat × Nat × Nat} (hm : s.fit what) : (s.keepHandle core e).fit what := hm
theorem fit_handleSpan {w : Who} {eng : Bool} {need va : Nat} (hm : s.fit what) : (s.handleSpan w eng need va).fit what :=
  Got.fit_need (Got.fit_need (fit_spanOf hm))
theorem fit_rawHandle {w : Who} {eng : Bool} {dom va : Nat} (hm : s.fit what) : (s.rawHandle w eng dom va).fit what := by
  unfold State.rawHandle
  split
  · exact fit_keepHandle hm
  · exact Got.fit_bind (fit_handleSpan hm) fun _ _ hm => Got.fit_bind (fit_readLine hm) fun _ _ hm => fit_keepHandle hm
theorem fit_handle {w : Who} {eng : Bool} {dom ef va : Nat} (hm : s.fit what) : (s.handle w eng dom ef va).fit what :=
  Got.fit_bind (fit_rawHandle hm) fun _ _ hm => Got.fit_need hm
theorem fit_pagesOf {w : Who} {eng : Bool} {need : Nat} {h : Handle} {sp : Span} {a : List Nat}
    {b : List (Nat × Nat × Span)} (hm : s.fit what) : (s.pagesOf w eng need h sp a b).fit what := by
  induction a generalizing s w eng need h sp b with
  | nil => exact hm
  | cons a l ih =>
    rw [State.pagesOf]
    refine Got.fit_bind (fit_readSpan hm) fun _ _ hm => ?_
    dsimp only
    split
    · exact ih hm
    · exact Got.fit_need (Got.fit_bind (fit_spanOf hm) fun _ _ hm => ih hm)
theorem fit_pagesIn {w : Who} {eng : Bool} {need : Nat} {h : Handle} {sp : Span} {js : List Nat} (hm : s.fit what) :
    (s.pagesIn w eng need h sp js).fit what :=
  Got.fit_bind (fit_fetched hm) fun _ _ hm => fit_pagesOf hm
theorem fit_storeOf {w : Who} {eng : Bool} {need : Nat} {h : Handle} {is : List Ix} (hm : s.fit what) :
    (s.storeOf w eng need h is).fit what := by
  unfold State.storeOf
  split
  · exact hm
  · refine Got.fit_bind (fit_spanOf hm) fun _ _ hm => ?_
    split
    · exact hm
    · exact Got.fit_bind (fit_pagesIn hm) fun _ _ hm => hm
theorem fit_viewOf {w : Who} {eng : Bool} {need : Nat} {h : Handle} {is : List Ix} (hm : s.fit what) :
    (s.viewOf w eng need h is).fit what := by
  unfold State.viewOf
  refine Got.fit_bind (fit_storeOf hm) fun _ _ hm => ?_
  split
  · exact hm
  · exact Got.fit_bind (fit_storeOf hm) fun _ _ hm => hm
theorem fit_readEl {st : Store} {i : Ix} (hm : s.fit what) : (s.readEl st i).fit what := by
  unfold State.readEl
  dsimp only
  split
  · exact hm
  · exact fit_farWord hm
  · exact Got.fit_bind (fit_readKeys hm) fun _ _ hm => hm
theorem fit_writeEl {st : Store} {i : Ix} {v : Nat} (hm : s.fit what) : (s.writeEl st i v).fit what := by
  unfold State.writeEl
  dsimp only
  split
  · exact trivial
  · exact hm
  · split
    · exact Got.fit_bind (fit_readKeys hm) fun _ _ hm => fit_writeKeys hm
    · exact fit_writeKeys hm
theorem fit_readPlc {p : Plc} {n : Nat} (hm : s.fit what) : (s.readPlc p n).fit what := by
  unfold State.readPlc
  dsimp only
  split
  · exact hm
  · exact fit_farBytes hm
  · exact Got.fit_bind (fit_readKeys hm) fun _ _ hm => hm
theorem fit_writePlc {p : Plc} {n v : Nat} (hm : s.fit what) : (s.writePlc p n v).fit what := by
  unfold State.writePlc
  split
  · exact fit_writeKeys hm
  · exact hm
theorem fit_chanOf {w : Who} {eng : Bool} {va : Nat} (hm : s.fit what) : (s.chanOf w eng va).fit what := by
  unfold State.chanOf
  refine Got.fit_need (Got.fit_bind (fit_spanOf hm) fun _ _ hm => Got.fit_bind ?_ fun _ _ hm =>
    Got.fit_bind (fit_readSpan hm) fun _ _ hm => Got.fit_need (Got.fit_bind (fit_spanOf hm) fun _ _ hm =>
    Got.fit_bind ?_ fun _ _ hm => hm))
  · split
    · exact hm
    · exact fit_inTurn hm
  · split
    · exact hm
    · exact fit_inTurn hm
theorem fit_again? {t : State} {n : Nat} (hm : s.fit what) (e : s.again? = some (n, t)) : t.fit what := by
  obtain ⟨v, -, hv⟩ := Option.map_eq_some_iff.1 e
  cases hv
  exact hm
theorem fit_taken {v : Nat} (hm : s.fit what) : (s.taken v).fit what := hm
theorem fit_awaitChan {α : Type} {eng : Bool} {va : Nat} (hm : s.fit what) : Got.fit what (α := α) (s.awaitChan eng va) := by
  unfold State.awaitChan
  split
  · exact trivial
  · exact hm
theorem fit_setHalf {c : Chan} {w on : Bool} (hm : s.fit what) : (s.setHalf c w on).fit what := hm
theorem fit_chanGet {w : Who} {eng : Bool} {h : Handle} (hm : s.fit what) : (s.chanGet w eng h).fit what := by
  unfold State.chanGet
  dsimp only
  split
  · next e =>
    split at e
    · cases e
    · exact fit_again? hm e
  · refine Got.fit_bind (fit_chanOf hm) fun _ _ hm => ?_
    split
    · exact fit_awaitChan hm
    · refine Got.fit_bind (fit_readSpan hm) fun _ _ hm => ?_
      split
      · exact fit_ite (fit_setHalf hm) (fit_taken (fit_setHalf hm))
      · exact Got.fit_bind (fit_writeSpan hm) fun _ _ hm => fit_ite (fit_setHalf hm) (fit_taken (fit_setHalf hm))
theorem fit_chanPut {w : Who} {eng : Bool} {h : Handle} {v : Nat} (hm : s.fit what) : (s.chanPut w eng h v).fit what := by
  unfold State.chanPut
  dsimp only
  split
  · next e =>
    split at e
    · cases e
    · exact fit_again? hm e
  · refine Got.fit_bind (fit_chanOf hm) fun _ _ hm => ?_
    split
    · exact fit_awaitChan hm
    · refine Got.fit_bind ?_ fun _ _ hm => Got.fit_bind (fit_writeSpan hm) fun _ _ hm => ?_
      · exact Got.fit_ite (Got.fit_bind (fit_readSpan hm) fun _ _ hm => hm) hm
      · split
        · exact fit_ite (fit_setHalf (fit_ite (fit_fillWords hm) hm)) (fit_taken (fit_setHalf (fit_ite (fit_fillWords hm) hm)))
        · exact Got.fit_bind (fit_writeSpan (fit_ite (fit_fillWords hm) hm)) fun _ _ hm => fit_ite (fit_setHalf hm) (fit_taken (fit_setHalf hm))
theorem fit_atOnce {α : Type} {f : State → Got α} (hm : s.fit what) (hf : ∀ t, t.fit what → (f t).fit what) :
    (s.atOnce f).fit what :=
  Got.fit_bind (hf _ hm) fun _ _ hm => hm
theorem fit_admitted {was : Option (Store × Conv)} {g : Nat} (hm : s.fit what) : (s.admitted was g).fit what := by
  unfold State.admitted
  dsimp only
  split
  · exact fit_ite hm hm
  · exact hm
theorem fit_getEl {w : Who} {eng : Bool} {v : View} {i : Ix} (hm : s.fit what) : (s.getEl w eng v i).fit what := by
  unfold State.getEl
  split
  · exact fit_atOnce hm fun _ hm => fit_chanGet hm
  · exact fit_readEl hm
theorem fit_putEl {w : Who} {eng : Bool} {v : View} {i : Ix} {x : Nat} (hm : s.fit what) :
    (s.putEl w eng v i x).fit what := by
  unfold State.putEl
  split
  · exact fit_atOnce hm fun _ hm => fit_chanPut hm
  · refine Got.fit_bind (fit_fetched hm) fun _ _ hm => ?_
    split
    · exact Got.fit_bind (fit_writeEl hm) fun _ _ hm => fit_admitted hm
    · exact trivial
    · exact hm
theorem fit_getEls {w : Who} {eng : Bool} {v : View} {a : List Ix} (hm : s.fit what) : (s.getEls w eng v a).fit what := by
  induction a generalizing s w eng v with
  | nil => exact hm
  | cons a l ih => exact Got.fit_bind (fit_getEl hm) fun _ _ hm => Got.fit_bind (ih hm) fun _ _ hm => hm
theorem fit_loadEls {v : View} {is : List Ix} (hm : s.fit what) : (s.loadEls v is).fit what :=
  Got.fit_bind (fit_fetched hm) fun _ _ hm => fit_getEls hm
theorem fit_loadClipped {v : View} {is : List Ix} (hm : s.fit what) : (s.loadClipped v is).fit what := by
  unfold State.loadClipped
  refine Got.fit_bind (fit_fetched hm) fun _ _ hm => Got.fit_foldl hm fun _ _ hg => Got.fit_bind hg fun _ _ hm => ?_
  split
  · exact Got.fit_bind (fit_getEl hm) fun _ _ hm => hm
  · exact hm
theorem fit_putEls {w : Who} {eng : Bool} {v : View} {a : List (Ix × Nat)} (hm : s.fit what) :
    (s.putEls w eng v a).fit what := by
  induction a generalizing s w eng v with
  | nil => exact hm
  | cons a l ih => exact Got.fit_bind (fit_putEl hm) fun _ _ hm => ih hm
theorem fit_getScaled {v : View} {i : Ix} (hm : s.fit what) : (s.getScaled v i).fit what :=
  Got.fit_bind (fit_readEl hm) fun _ _ hm => Got.fit_bind (fit_readPlc hm) fun _ _ hm => hm
theorem fit_putBlock {v : View} {i : Ix} {blk scale : Nat} (hm : s.fit what) : (s.putBlock v i blk scale).fit what := by
  unfold State.putBlock
  refine Got.fit_bind (fit_fetched hm) fun _ _ hm => ?_
  split
  · exact Got.fit_bind (fit_writePlc hm) fun _ _ hm => Got.fit_bind (fit_writePlc hm) fun _ _ hm => fit_admitted hm
  · exact trivial
  · exact hm
theorem fit_myHandle {va : Nat} (hm : s.fit what) : (s.myHandle va).fit what := fit_handle hm
theorem fit_myView {need : Nat} {h : Handle} {is : List Ix} (hm : s.fit what) : (s.myView need h is).fit what := fit_viewOf hm

/-! ### Machine/Engines -/

theorem fit_moved? {sp : Span} {mine : optParam (Option (Nat × Nat)) none} (hm : s.fit what) :
    (s.moved? sp mine).fit what := by
  unfold State.moved?
  split
  · exact hm
  · split
    · exact trivial
    · exact hm
theorem fit_engCharge {w : Who} {sp : Span} (hm : s.fit what) : (s.engCharge w sp).fit what := by
  unfold State.engCharge
  refine fit_foldl hm fun _ _ hm => ?_
  dsimp only
  split
  · exact fit_ite (fit_sampled (fit_takeToken hm)) (fit_takeToken hm)
  · exact fit_takeToken hm
theorem fit_engBytes {w : Who} {addr n : Nat} (hm : s.fit what) : (s.engBytes w addr n).fit what :=
  Got.fit_bind (fit_spanOf hm) fun _ _ hm => Got.fit_bind (fit_moved? hm) fun _ _ hm => fit_readSpan (fit_engCharge hm)
theorem fit_engStore {w : Who} {addr : Nat} {bs : List Byte} (hm : s.fit what) : (s.engStore w addr bs).fit what :=
  Got.fit_bind (fit_spanOf hm) fun _ _ hm => Got.fit_bind (fit_moved? hm) fun _ _ hm => fit_writeSpan (fit_engCharge hm)
theorem fit_engFill {w : Who} {addr : Nat} {bs : List Byte} (hm : s.fit what) : (s.engFill w addr bs).fit what := by
  unfold State.engFill
  refine Got.fit_bind (fit_spanOf hm) fun _ _ hm => Got.fit_bind (fit_moved? hm) fun _ _ hm =>
    Got.fit_bind (fit_writeSpan (fit_engCharge hm)) fun _ _ hm => ?_
  split
  · exact fit_fillWords hm
  · exact hm
theorem fit_afterReads {x : Writer} {addr n : Nat} (hm : s.fit what) : (s.afterReads x addr n).fit what := by
  unfold State.afterReads
  split
  · exact hm
  · refine Got.fit_bind (fit_spanOf hm) fun _ _ hm => ?_
    split
    · exact trivial
    · exact hm
theorem fit_engNow {x : Writer} {addr : Nat} {bs : List Byte} (hm : s.fit what) : (s.engNow x addr bs).fit what := by
  unfold State.engNow
  refine Got.fit_bind (fit_afterReads hm) fun _ _ hm => ?_
  split
  · exact fit_engFill hm
  · exact fit_engStore hm
theorem fit_engPost {x : Writer} {op : ReqOp} {k len va : Nat} (hm : s.fit what) :
    (s.engPost x op k len va).fit what :=
  fit_ite hm (fit_takeId hm)
theorem fit_engOut {x : Writer} {addr : Nat} {bs : List Byte} (hm : s.fit what) : (s.engOut x addr bs).fit what := by
  unfold State.engOut
  split
  · exact fit_engNow hm
  · refine Got.fit_bind (fit_spanOf hm) fun _ _ hm => Got.fit_bind (fit_moved? hm) fun _ _ hm => ?_
    split
    · split
      · exact trivial
      · exact fit_engPost hm
    · exact fit_engNow hm
theorem fit_engAddr {w : Who} {h : Handle} {i : Ix} (hm : s.fit what) : (s.engAddr w h i).fit what := by
  unfold State.engAddr
  dsimp only
  split
  · refine Got.fit_bind (fit_engBytes hm) fun _ _ hm => ?_
    split
    · exact hm
    · exact Got.fit_need hm
  · exact hm
theorem fit_engRead {w : Who} {h : Handle} {i : Ix} (hm : s.fit what) : (s.engRead w h i).fit what := by
  unfold State.engRead
  refine Got.fit_bind (fit_engAddr hm) fun _ _ hm => ?_
  split
  · exact hm
  · exact Got.fit_bind (fit_engBytes hm) fun _ _ hm => hm
theorem fit_engMapped {w : Who} {h : Handle} {i : Ix} (hm : s.fit what) : (s.engMapped w h i).fit what := by
  unfold State.engMapped
  dsimp only
  split
  · exact hm
  · exact Got.fit_bind (fit_engAddr hm) fun _ _ hm => hm
theorem fit_engWrite {x : Writer} {h : Handle} {i : Ix} {v : Nat} (hm : s.fit what) : (s.engWrite x h i v).fit what := by
  unfold State.engWrite
  refine Got.fit_bind (fit_engAddr hm) fun _ _ hm => ?_
  dsimp only
  split
  · exact trivial
  · split
    · exact Got.fit_bind (fit_engBytes hm) fun _ _ hm => fit_engNow hm
    · exact fit_engOut hm
theorem fit_engGet {w : Who} {h : Handle} {i : Ix} (hm : s.fit what) : (s.engGet w h i).fit what := by
  unfold State.engGet
  split
  · exact fit_chanGet hm
  · exact fit_engRead hm
theorem fit_engPut {x : Writer} {h : Handle} {i : Ix} {v : Nat} (hm : s.fit what) : (s.engPut x h i v).fit what := by
  unfold State.engPut
  split
  · exact fit_chanPut hm
  · split
    · exact fit_engWrite hm
    · exact trivial
theorem fit_complete? {t : State} {core : Nat} {m : Compl} {part : Nat} (hm : s.fit what)
    (e : s.complete? core m part = some t) : t.fit what := by
  unfold State.complete? at e
  extract_lets g waiting c at e
  clear_value waiting
  split at e
  · cases e; exact hm
  · split at e
    · cases e; exact fit_wake hm
    · split at e
      · cases e
      · cases e; exact fit_setCore hm

/-! ### Machine/Vector -/

theorem fit_charge {n : Nat} (hm : s.fit what) : (s.charge n).fit what := hm
theorem fit_withFmt {fmt : Nat} {ok : Nat → Bool} {f : Nat → Out} (hm : s.fit what) (hf : ∀ a, Out.fit what (f a)) :
    Out.fit what (s.withFmt fmt ok f) := by
  unfold State.withFmt
  dsimp only
  split
  · exact hf _ 
  · exact fit_prot hm
theorem fit_handleMode {f : State → Out} (hm : s.fit what) (hf : ∀ t, t.fit what → Out.fit what (f t)) :
    Out.fit what (s.handleMode f) := by
  unfold State.handleMode
  split
  · exact fit_protOpc hm
  · exact fit_plainly hm fun _ hm => hf _ hm
theorem fit_streamed {total charge blocks : Nat} {init : List Nat} {chunk : Nat → List Nat → State → Got (List Nat)}
    {fin : List Nat → State → State} (hm : s.fit what) (hchunk : ∀ a b t, t.fit what → (chunk a b t).fit what)
    (hfin : ∀ a t, t.fit what → (fin a t).fit what) : Out.fit what (s.streamed total charge blocks init chunk fin) := by
  unfold State.streamed
  refine fit_settle hm (Got.fit_bind (hchunk _ _ _ hm) fun _ _ hm => Got.fit_bind (fit_commit hm) fun _ _ hm =>
    hm) fun _ _ hm => ?_
  dsimp only
  split
  · dsimp only
    split
    · exact fit_ok (hfin _ _ (fit_modMe (fit_ite (fit_spend (fit_charge hm)) hm)))
    · exact fit_next (fit_modMe (fit_ite (fit_spend (fit_charge hm)) hm))
  · dsimp only
    split
    · exact fit_ok (hfin _ _ (fit_modMe (fit_ite (fit_spend (fit_charge hm)) hm)))
    · exact fit_next (fit_modMe (fit_ite (fit_spend (fit_charge hm)) hm))
theorem fit_myHandles {a : List Nat} (hm : s.fit what) : (s.myHandles a).fit what := by
  induction a generalizing s with
  | nil => exact hm
  | cons a l ih => exact Got.fit_bind (fit_myHandle hm) fun _ _ hm => Got.fit_bind (ih hm) fun _ _ hm => hm
theorem fit_getCols {is : List Ix} {a : List View} (hm : s.fit what) : (s.getCols is a).fit what := by
  induction a generalizing s is with
  | nil => exact hm
  | cons a l ih => exact Got.fit_bind (fit_getEls hm) fun _ _ hm => Got.fit_bind (ih hm) fun _ _ hm => hm
theorem fit_myViews {e : Ix} {a : List Handle} (hm : s.fit what) : (s.myViews e a).fit what := by
  induction a generalizing s e with
  | nil => exact hm
  | cons a l ih => exact Got.fit_bind (fit_myView hm) fun _ _ hm => Got.fit_bind (ih hm) fun _ _ hm => hm
theorem fit_getAll {e : Ix} {is : List Ix} {hs : List Handle} (hm : s.fit what) : (s.getAll e is hs).fit what :=
  Got.fit_bind (fit_myViews hm) fun _ _ hm => Got.fit_bind (fit_fetched hm) fun _ _ hm => fit_getCols hm
theorem fit_hmap {d : Reg} {as : List Reg} {wd' ws charge : Nat} {f : Nat → Ix → List Nat → Nat} {blocks : Nat → Nat}
    (hm : s.fit what) : Out.fit what (s.hmap d as wd' ws charge f blocks) := by
  unfold State.hmap
  refine fit_handleMode hm fun _ hm => fit_settle hm (fit_myHandle hm) fun _ _ hm =>
    fit_settle hm (fit_myHandles hm) fun _ _ hm => ?_
  dsimp only
  split
  · exact fit_prot hm
  · exact fit_prot hm
  · exact fit_prot hm
  · exact fit_streamed hm (fun _ _ _ hm => Got.fit_bind (fit_myView hm) fun _ _ hm => Got.fit_bind (fit_getAll hm) fun _ _ hm =>
    Got.fit_bind (fit_putEls hm) fun _ _ hm => hm) fun _ _ hm => hm
theorem fit_rmap {d : Reg} {as : List Reg} {wd' ws n charge : Nat} {f : Nat → List Nat → Nat} (hm : s.fit what) :
    (s.rmap d as wd' ws n charge f).fit what :=
  fit_charge (fit_putGroup hm)
theorem fit_vmap {d : Reg} {as : List Reg} {th : Bool} {fmt : Fin 16} {ok : Nat → Bool} {unit : Nat → Nat}
    {f : Nat → Nat → List Nat → Nat} (hm : s.fit what) : Out.fit what (s.vmap d as th fmt ok unit f) := by
  unfold State.vmap
  refine fit_withFmt hm fun _ => ?_
  split
  · exact fit_hmap hm
  · exact fit_ok (fit_rmap hm)
theorem fit_arith {d : Reg} {as : List Reg} {th : Bool} {fmt : Fin 16} {int flt : Nat → List Nat → Nat}
    (hm : s.fit what) : Out.fit what (s.arith d as th fmt int flt) :=
  fit_vmap hm
theorem fit_execVadd {d a b : Reg} {th : Bool} {fmt : Fin 16} (hm : s.fit what) : Out.fit what (execVadd d a b th fmt s) :=
  fit_arith hm
theorem fit_execVsub {d a b : Reg} {th : Bool} {fmt : Fin 16} (hm : s.fit what) : Out.fit what (execVsub d a b th fmt s) :=
  fit_arith hm
theorem fit_execVmul {d a b : Reg} {th : Bool} {fmt : Fin 16} (hm : s.fit what) : Out.fit what (execVmul d a b th fmt s) :=
  fit_arith hm
theorem fit_execVfma {d a b c : Reg} {th : Bool} {fmt : Fin 16} (hm : s.fit what) :
    Out.fit what (execVfma d a b c th fmt s) :=
  fit_arith hm
theorem fit_execVdiv {d a b : Reg} {th : Bool} {fmt : Fin 16} (hm : s.fit what) : Out.fit what (execVdiv d a b th fmt s) :=
  fit_arith hm
theorem fit_execVmin {d a b : Reg} {th : Bool} {fmt : Fin 16} (hm : s.fit what) : Out.fit what (execVmin d a b th fmt s) :=
  fit_arith hm
theorem fit_execVmax {d a b : Reg} {th : Bool} {fmt : Fin 16} (hm : s.fit what) : Out.fit what (execVmax d a b th fmt s) :=
  fit_arith hm
theorem fit_execVabs {d a : Reg} {th : Bool} {fmt : Fin 16} (hm : s.fit what) : Out.fit what (execVabs d a th fmt s) :=
  fit_arith hm
theorem fit_execVneg {d a : Reg} {th : Bool} {fmt : Fin 16} (hm : s.fit what) : Out.fit what (execVneg d a th fmt s) :=
  fit_arith hm
theorem fit_execVclamp {d a b c : Reg} {th : Bool} {fmt : Fin 16} (hm : s.fit what) :
    Out.fit what (execVclamp d a b c th fmt s) :=
  fit_arith hm
theorem fit_execVlerp {d a b c : Reg} {th : Bool} {fmt : Fin 16} (hm : s.fit what) :
    Out.fit what (execVlerp d a b c th fmt s) :=
  fit_vmap hm
theorem fit_execVcmp {d a b : Reg} {e : Fin 128} {th : Bool} {fmt : Fin 16} (hm : s.fit what) :
    Out.fit what (execVcmp d a b e th fmt s) :=
  fit_vmap hm
theorem fit_execVsel {d a b c : Reg} {th : Bool} {fmt : Fin 16} (hm : s.fit what) :
    Out.fit what (execVsel d a b c th fmt s) :=
  fit_vmap hm
theorem fit_execVand {d a b : Reg} {th : Bool} {fmt : Fin 16} (hm : s.fit what) : Out.fit what (execVand d a b th fmt s) :=
  fit_vmap hm
theorem fit_execVor {d a b : Reg} {th : Bool} {fmt : Fin 16} (hm : s.fit what) : Out.fit what (execVor d a b th fmt s) :=
  fit_vmap hm
theorem fit_execVxor {d a b : Reg} {th : Bool} {fmt : Fin 16} (hm : s.fit what) : Out.fit what (execVxor d a b th fmt s) :=
  fit_vmap hm
theorem fit_execVshl {d a b : Reg} {th : Bool} {fmt : Fin 16} (hm : s.fit what) : Out.fit what (execVshl d a b th fmt s) :=
  fit_vmap hm
theorem fit_execVshr {d a b : Reg} {th : Bool} {fmt : Fin 16} (hm : s.fit what) : Out.fit what (execVshr d a b th fmt s) :=
  fit_vmap hm
theorem fit_execVsar {d a b : Reg} {th : Bool} {fmt : Fin 16} (hm : s.fit what) : Out.fit what (execVsar d a b th fmt s) :=
  fit_vmap hm
theorem fit_execVfill {d a : Reg} {th : Bool} {fmt : Fin 16} (hm : s.fit what) : Out.fit what (execVfill d a th fmt s) := by
  unfold execVfill
  exact fit_vmap hm
theorem fit_execVcpy {d a : Reg} {th : Bool} {fmt : Fin 16} (hm : s.fit what) : Out.fit what (execVcpy d a th fmt s) :=
  fit_vmap hm
theorem fit_execVbcast {d a b : Reg} {fmt : Fin 16} (hm : s.fit what) : Out.fit what (execVbcast d a b fmt s) := by
  unfold execVbcast
  exact fit_withFmt hm fun _ => fit_ok (fit_rmap hm)
theorem fit_execVperm {d a b c : Reg} {fmt : Fin 16} (hm : s.fit what) : Out.fit what (execVperm d a b c fmt s) :=
  fit_withFmt hm fun _ => fit_ok (fit_rmap hm)
theorem fit_execVmask {d a b : Reg} {th : Bool} {fmt : Fin 16} (hm : s.fit what) :
    Out.fit what (execVmask d a b th fmt s) := by
  unfold execVmask
  exact fit_vmap hm
theorem fit_special {d a : Reg} {th : Bool} {fmt : Fin 16} {f : FV → FV} (hm : s.fit what) :
    Out.fit what (s.special d a th fmt f) :=
  fit_vmap hm
theorem fit_execVexp {d a : Reg} {th : Bool} {fmt : Fin 16} (hm : s.fit what) : Out.fit what (execVexp d a th fmt s) :=
  fit_special hm
theorem fit_execVexp2 {d a : Reg} {th : Bool} {fmt : Fin 16} (hm : s.fit what) : Out.fit what (execVexp2 d a th fmt s) :=
  fit_special hm
theorem fit_execVlog {d a : Reg} {th : Bool} {fmt : Fin 16} (hm : s.fit what) : Out.fit what (execVlog d a th fmt s) :=
  fit_special hm
theorem fit_execVrcp {d a : Reg} {th : Bool} {fmt : Fin 16} (hm : s.fit what) : Out.fit what (execVrcp d a th fmt s) :=
  fit_special hm
theorem fit_execVrsq {d a : Reg} {th : Bool} {fmt : Fin 16} (hm : s.fit what) : Out.fit what (execVrsq d a th fmt s) :=
  fit_special hm
theorem fit_execVsqrt {d a : Reg} {th : Bool} {fmt : Fin 16} (hm : s.fit what) : Out.fit what (execVsqrt d a th fmt s) :=
  fit_special hm
theorem fit_execVtanh {d a : Reg} {th : Bool} {fmt : Fin 16} (hm : s.fit what) : Out.fit what (execVtanh d a th fmt s) :=
  fit_special hm
theorem fit_execVsgm {d a : Reg} {th : Bool} {fmt : Fin 16} (hm : s.fit what) : Out.fit what (execVsgm d a th fmt s) :=
  fit_special hm
theorem fit_execVsilu {d a : Reg} {th : Bool} {fmt : Fin 16} (hm : s.fit what) : Out.fit what (execVsilu d a th fmt s) :=
  fit_special hm
theorem fit_execVscl {d a b : Reg} {fmt : Fin 16} (hm : s.fit what) : Out.fit what (execVscl d a b fmt s) := by
  unfold execVscl
  exact fit_withFmt hm fun _ => fit_ok (fit_rmap hm)
theorem fit_withFmts {th : Bool} {src dst : Nat} {ok : Nat → Nat → Bool} {f : Nat → Nat → Out} (hm : s.fit what)
    (hf : ∀ a b, Out.fit what (f a b)) : Out.fit what (s.withFmts th src dst ok f) := by
  unfold State.withFmts
  dsimp only
  split
  · exact hf _ _ 
  · exact fit_prot hm
theorem fit_execVcvt {d a : Reg} {c : Fin 32} {e : Fin 128} {th : Bool} {rm : Fin 8} (hm : s.fit what) :
    Out.fit what (execVcvt d a c e th rm s) := by
  unfold execVcvt
  refine fit_withFmts hm fun _ _ => ?_
  dsimp only
  split
  · exact fit_hmap hm
  · exact fit_ok (fit_spend (fit_rmap hm))
theorem fit_execVround {d a : Reg} {c : Fin 32} {th : Bool} {rm : Fin 8} (hm : s.fit what) :
    Out.fit what (execVround d a c th rm s) := by
  unfold execVround
  refine fit_withFmts hm fun _ _ => ?_
  dsimp only
  split
  · exact fit_hmap hm
  · exact fit_ok (fit_spend (fit_rmap hm))
theorem fit_execVqnt {d a b : Reg} {c : Fin 32} {e : Fin 128} {th : Bool} {rm : Fin 8} (hm : s.fit what) :
    Out.fit what (execVqnt d a b c e th rm s) := by
  unfold execVqnt
  dsimp only
  split
  · exact fit_prot hm
  · split
    · refine fit_handleMode hm fun _ hm => fit_settle hm (fit_myHandle hm) fun _ _ hm =>
      fit_settle hm (fit_myHandle hm) fun _ _ hm => ?_
      split
      · exact fit_prot hm
      · split
        · exact fit_prot hm
        · exact fit_streamed hm (fun _ _ _ hm => Got.fit_bind (fit_myView hm) fun _ _ hm =>
          Got.fit_bind (fit_getAll hm) fun _ _ hm => Got.fit_bind (Got.fit_foldl hm fun _ _ hg => Got.fit_bind hg fun _ _ hm =>
          fit_putBlock hm) fun _ _ hm => hm) fun _ _ hm => hm
    · exact fit_ok (fit_spend (fit_charge (fit_put (fit_putGroup hm))))
theorem fit_execVdeq {d a b : Reg} {c : Fin 32} {e : Fin 128} {th : Bool} {rm : Fin 8} (hm : s.fit what) :
    Out.fit what (execVdeq d a b c e th rm s) := by
  unfold execVdeq
  dsimp only
  split
  · exact fit_prot hm
  · split
    · refine fit_handleMode hm fun _ hm => fit_settle hm (fit_myHandle hm) fun _ _ hm =>
      fit_settle hm (fit_myHandle hm) fun _ _ hm => ?_
      split
      · exact fit_prot hm
      · split
        · exact fit_prot hm
        · exact fit_streamed hm (fun _ _ _ hm => Got.fit_bind (fit_myView hm) fun _ _ hm =>
          Got.fit_bind (fit_myView hm) fun _ _ hm => Got.fit_bind (fit_fetched hm) fun _ _ hm =>
          Got.fit_bind (Got.fit_foldl hm fun _ _ hg => Got.fit_bind hg fun _ _ hm =>
          Got.fit_bind (fit_getScaled hm) fun _ _ hm => hm) fun _ _ hm => Got.fit_bind (fit_putEls hm) fun _ _ hm =>
          hm) fun _ _ hm => hm
    · exact fit_ok (fit_spend (fit_charge (fit_putGroup hm)))
theorem fit_execVrng {d a b : Reg} {th : Bool} {fmt : Fin 16} (hm : s.fit what) : Out.fit what (execVrng d a b th fmt s) := by
  unfold execVrng
  refine fit_withFmt hm fun _ => ?_
  dsimp only
  split
  · exact fit_hmap hm
  · exact fit_ok (fit_spend (fit_rmap hm))

/-! ### Machine/Matrix -/

theorem fit_setSlot {q slot img : Nat} (hm : s.fit what) : (s.setSlot q slot img).fit what := hm
theorem fit_engEls {w : Who} {h : Handle} {a : List Ix} (hm : s.fit what) : (s.engEls w h a).fit what := by
  induction a generalizing s w h with
  | nil => exact hm
  | cons a l ih => exact Got.fit_bind (fit_engGet hm) fun _ _ hm => Got.fit_bind (ih hm) fun _ _ hm => hm
theorem fit_maskHandleOf {r : Rect} {ef : Nat} (hm : s.fit what) : (s.maskHandleOf r ef).fit what := by
  fun_cases State.maskHandleOf s r ef with
  | case1 w bad plain s1 h t e =>
    have h1 : s1.fit what := hm
    have ht : t.fit what := Got.fit_ok e (Got.fit_bind (fit_handleSpan h1) fun _ _ hm => Got.fit_need (Got.fit_bind (fit_handle hm) fun _ _ hm =>
      Got.fit_need (Got.fit_bind (fit_spanOf hm) fun _ _ hm => Got.fit_need hm)))
    exact ht
  | case2 | case3 | case4 => exact trivial
theorem fit_recordNow {w : Who} {dom va raw ef : Nat} {ok : Handle → Bool} (hm : s.fit what) :
    (s.recordNow w dom va raw ef ok).2.fit what := by
  unfold State.recordNow
  dsimp only
  split
  · split
    · exact Got.fit_ok ‹_› (fit_rawHandle hm)
    · exact hm
  · exact hm
theorem fit_aNow {w : Who} {r : Rect} {x : Mul} (hm : s.fit what) : (s.aNow w r x).2.fit what := fit_recordNow hm
theorem fit_modQuad {q : Nat} {f : Quad → Quad} (hm : s.fit what) : (s.modQuad q f).fit what := hm
theorem fit_aRow {w : Who} {r : Rect} {h : Handle} {width scl m : Nat} (hm : s.fit what) :
    (s.aRow w r h width scl m).fit what := by
  unfold State.aRow
  refine Got.fit_bind (fit_engEls hm) fun _ _ hm => Got.fit_bind ?_ fun _ _ hm => hm
  split
  · exact hm
  · exact fit_engBytes hm
theorem fit_maskWeights {r : Rect} {ef : Nat} (hm : s.fit what) : (s.maskWeights r ef).fit what := by
  unfold State.maskWeights
  split
  · exact hm
  · exact Got.fit_bind (fit_maskHandleOf hm) fun _ _ hm => fit_engEls hm
theorem fit_loadGroup {w : Who} {r : Rect} {m : Mul} {g : Nat} (hm : s.fit what) : (s.loadGroup w r m g).fit what :=
  Got.fit_bind (fit_maskWeights hm) fun _ _ hm => Got.fit_bind (Got.fit_foldl (fit_aNow hm) fun _ _ hg =>
    Got.fit_bind hg fun _ _ hm => Got.fit_bind (fit_aRow hm) fun _ _ hm => hm) fun _ _ hm =>
    fit_modRect (fit_ite (fit_foldl hm fun _ _ hm => fit_modQuad hm) (fit_foldl (fit_foldl hm fun _ _ hm =>
    fit_modQuad hm) fun _ _ hm => fit_matMsg hm))
theorem fit_deliverMasked {id : Nat} (hm : s.fit what) : (s.deliverMasked id).fit what :=
  fit_foldl (fit_foldl hm fun _ _ hm => fit_perform hm) fun _ _ hm => fit_perform hm
theorem fit_broadcast {r : Rect} {width m b : Nat} (hm : s.fit what) : (s.broadcast r width m b).fit what := by
  unfold State.broadcast
  dsimp only
  split
  · exact fit_ite hm (fit_foldl hm fun _ _ hm => fit_modQuad hm)
  · refine fit_foldl (fit_ite hm (fit_foldl hm fun _ _ hm => fit_modQuad hm)) fun _ _ hm => ?_
    split
    · exact hm
    · exact fit_ite (fit_setQuad hm) (fit_modRect (fit_setQuad hm))
theorem fit_passSouth {r : Rect} {m rho : Nat} (hm : s.fit what) : (s.passSouth r m rho).fit what :=
  fit_foldl hm fun _ _ hm => fit_modQuad (fit_modQuad hm)
theorem fit_tileOut {x : Writer} {acc : Bool} {k v : Nat} (hm : s.fit what) : (s.tileOut x acc k v).fit what :=
  fit_ite (fit_tileEl hm) (fit_engPost hm)
theorem fit_accumulate {w : Who} {r : Rect} {fmt m : Nat} (hm : s.fit what) : (s.accumulate w r fmt m).fit what :=
  fit_modRect (fit_foldl hm fun _ _ hm => fit_foldl (fit_modQuad hm) fun _ _ hm => fit_tileOut hm)
theorem fit_seqStep {w : Who} {r : Rect} {x : Mul} (hm : s.fit what) : (s.seqStep w r x).fit what := by
  unfold State.seqStep
  dsimp only
  split
  · split
    · exact fit_modRect hm
    · exact Got.fit_bind (fit_loadGroup hm) fun _ _ hm => fit_modRect hm
  · split
    · exact fit_modRect (fit_broadcast hm)
    · split
      · exact fit_modRect (fit_passSouth hm)
      · split
        · exact fit_modRect (fit_accumulate hm)
        · exact trivial
theorem fit_runSteps {w : Who} {id : Nat} {m : Mul} {a : Nat} (hm : s.fit what) :
    (s.runSteps w id m a).2.2.fit what := by
  induction a generalizing s w id m with
  | zero => exact hm
  | succ n ih =>
    rw [State.runSteps]
    split
    · exact hm
    · split
      · exact hm
      · split
        · exact ih (Got.fit_ok ‹_› (fit_seqStep hm))
        · exact hm
theorem fit_runMmul {r : Rect} {gid addr fmt scl raw : Nat} (hm : s.fit what) :
    (s.runMmul r gid addr fmt scl raw).2.2.fit what :=
  fit_runSteps hm
theorem fit_emptyBuffers {r : Rect} (hm : s.fit what) : (s.emptyBuffers r).fit what :=
  fit_modRect (fit_foldl hm fun _ _ hm => fit_modQuad hm)
theorem fit_maccRows {r : Rect} {g rows : Nat} {f : Nat → Nat} (hm : s.fit what) :
    (s.maccRows r g rows f).fit what := by
  unfold State.maccRows
  exact fit_foldl hm fun _ m hm => fit_foldl hm fun _ n hm => fit_of_eq (fit_tileEl hm) rfl
theorem fit_pump {id a : Nat} (hm : s.fit what) : (s.pump id a).fit what := by
  induction a generalizing s id with
  | zero => exact hm
  | succ n ih =>
    rw [State.pump]
    dsimp only
    split
    · exact hm
    · split
      · exact hm
      · split
        · exact ih (fit_trapWaiting (fit_modRect hm))
        · split
          · exact fit_ite hm (fit_modRect hm)
          · exact fit_modRect hm
          · exact ih (fit_complete (fit_modRect (fit_modRect hm)))
          · exact fit_ite (ih (fit_complete (fit_modRect (fit_modRect hm)))) (ih (fit_complete (fit_modRect hm)))
          · exact ih (fit_complete (fit_modRect (fit_maccRows (fit_modRect hm))))
          · exact ih (fit_complete (fit_modRect (fit_maccRows (fit_modRect hm))))
theorem fit_sequence {r : Rect} {op : MatOp} {d : Reg} (hm : s.fit what) : Out.fit what (s.sequence r op d) :=
  fit_next (fit_ite (fit_pump (fit_modRect (fit_await hm))) (fit_modRect (fit_await hm)))
theorem fit_onRect {f : Rect → State → Out} (hm : s.fit what) (hf : ∀ a t, t.fit what → Out.fit what (f a t)) :
    Out.fit what (s.onRect f) := by
  unfold State.onRect
  split
  · exact fit_protOpc hm
  · split
    · exact fit_protOpc hm
    · exact hf _ _ hm
theorem fit_onFreeRect {f : Rect → State → Out} (hm : s.fit what) (hf : ∀ a t, t.fit what → Out.fit what (f a t)) :
    Out.fit what (s.onFreeRect f) := by
  unfold State.onFreeRect
  refine fit_onRect hm fun _ _ hm => ?_
  split
  · exact fit_protOpc hm
  · exact hf _ _ hm
theorem fit_flagScope {sc : Nat} {used : Bool} {f : State → Out} (hm : s.fit what)
    (hf : ∀ t, t.fit what → Out.fit what (f t)) : Out.fit what (s.flagScope sc used f) := by
  unfold State.flagScope
  split
  · exact fit_trap hm
  · exact hf _ hm
theorem fit_mmulChecks {r : Rect} {h : Handle} {scl rows : Nat} (hm : s.fit what) : (s.mmulChecks r h scl rows).fit what := by
  unfold State.mmulChecks
  refine Got.fit_bind ?_ fun _ _ hm => Got.fit_bind ?_ fun _ _ hm => ?_
  · dsimp only
    split
    · exact Got.fit_ok ‹_› (fit_spanOf hm)
    · exact trivial
    · exact hm
  · split
    · exact hm
    · split
      · exact trivial
      · split
        · exact trivial
        · split
          · exact Got.fit_ok ‹_› (fit_spanOf hm)
          · exact trivial
          · exact hm
  · split
    · exact hm
    · exact Got.fit_bind (fit_maskHandleOf hm) fun _ _ hm => hm
theorem fit_myRaw {va : Nat} (hm : s.fit what) : (s.myRaw va).fit what :=
  Got.fit_bind (fit_rawHandle hm) fun _ _ hm => Got.fit_need hm
theorem fit_execMmul {d a : Reg} {op : Fin 64} {imm : BitVec 32} (hm : s.fit what) :
    Out.fit what (execMmul d a op imm s) := by
  unfold execMmul
  refine fit_flagScope hm fun _ hm => fit_onRect hm fun _ _ hm => ?_
  dsimp only
  split
  · exact fit_protOpc hm
  · refine fit_plainly hm fun _ hm => fit_settle hm (fit_myRaw hm) fun _ _ hm => ?_
    split
    · exact fit_prot hm
    · exact fit_settle hm (fit_mmulChecks hm) fun _ _ hm => fit_sequence hm
theorem fit_nextMat {id : Nat} (hm : s.fit what) : (s.nextMat id).fit what := fit_ite hm (fit_pump (fit_modRect hm))
theorem fit_matDone {r : Rect} {g v : Nat} (hm : s.fit what) : (s.matDone r g v).fit what :=
  fit_ite hm (fit_complete hm)
theorem fit_matTrap {r : Rect} {g : Nat} {tr : Trap} (hm : s.fit what) : (s.matTrap r g tr).fit what :=
  fit_ite hm (fit_trapWaiting hm)
theorem fit_execMmulComplete {rect : Nat} {upset : Bool} (hm : s.fit what) :
    Out.fit what (execMmulComplete rect upset s) := by
  unfold execMmulComplete
  dsimp only
  split
  · exact fit_next hm
  · split
    · split
      · exact fit_next hm
      · split
        · exact fit_next (fit_nextMat (fit_matDone (fit_ite (fit_setDie (fit_modRect (fit_emptyBuffers (fit_snd_snd ‹_› (fit_runMmul hm)))))
          (fit_modRect (fit_emptyBuffers (fit_snd_snd ‹_› (fit_runMmul hm)))))))
        · exact fit_next (fit_snd_snd ‹_› (fit_runMmul hm))
        · exact fit_next hm
    · exact fit_next hm
theorem fit_haltMmul {r : Rect} {fmt grp why : Nat} (hm : s.fit what) : (s.haltMmul r fmt grp why).fit what :=
  fit_modRect (fit_emptyBuffers hm)
theorem fit_execSequencerStop {rect : Nat} (hm : s.fit what) : Out.fit what (execSequencerStop rect s) := by
  unfold execSequencerStop
  split
  · exact fit_next hm
  · split
    · split
      · exact fit_next hm
      · split
        · split
          · exact fit_next (fit_nextMat (fit_matTrap (fit_haltMmul (fit_snd_snd ‹_› (fit_runMmul hm)))))
          · exact fit_next (fit_nextMat (fit_matDone (fit_haltMmul (fit_snd_snd ‹_› (fit_runMmul hm)))))
        · exact fit_next (fit_nextMat (fit_matDone (fit_haltMmul (fit_snd_snd ‹_› (fit_runMmul hm)))))
        · exact fit_next hm
    · exact fit_next hm
theorem fit_seqRun {id n : Nat} (hm : s.fit what) : (s.seqRun id n).fit what := by
  unfold State.seqRun
  split
  · exact hm
  · split
    · exact fit_ite hm (fit_runSteps hm)
    · exact hm
theorem fit_seqAhead {id : Nat} (hm : s.fit what) : (s.seqAhead id).fit what := by
  unfold State.seqAhead
  split
  · exact hm
  · split
    · split
      · exact hm
      · split
        · exact Got.fit_ok ‹_› (fit_loadGroup hm)
        · exact hm
    · exact hm
theorem fit_sequencers (hm : s.fit what) : s.sequencers.fit what :=
  fit_foldl hm fun _ _ hm => fit_ite (fit_seqAhead (fit_seqRun hm)) (fit_seqRun hm)
theorem fit_stopRect {id : Nat} (hm : s.fit what) : (s.stopRect id).fit what := by
  unfold State.stopRect
  dsimp only
  split
  · exact hm
  · split
    · exact fit_ite hm (fit_haltMmul (fit_runSteps (fit_deliverMasked hm)))
    · exact hm
theorem fit_execMload {d a : Reg} {op : Fin 64} {e : Fin 128} (hm : s.fit what) : Out.fit what (execMload d a op e s) := by
  unfold execMload
  refine fit_flagScope hm fun _ hm => fit_onFreeRect hm fun _ _ hm => fit_plainly hm fun _ hm =>
    fit_settle hm (fit_myRaw hm) fun _ _ hm => fit_settle hm ?_ fun _ _ hm => ?_
  · split
    · exact Got.fit_ok ‹_› (fit_storeOf hm)
    · split
      · exact hm
      · exact trivial
    · exact hm
  · split
    · exact fit_prot hm
    · exact fit_sequence hm
theorem fit_readImage {w : Who} {h : Handle} {g : Nat} (hm : s.fit what) : (s.readImage w h g).fit what := by
  unfold State.readImage
  extract_lets +onlyGivenNames at' side bytesAt whole
  have hbytes : ∀ (t : State) (as : List Nat) (n : Nat), t.fit what → (bytesAt t as n).fit what := fun t as n ht =>
    Got.fit_foldl ht fun _ _ hg => Got.fit_bind hg fun _ _ hm => Got.fit_bind (fit_engBytes hm) fun _ _ hm => hm
  clear_value bytesAt whole side
  split
  · exact Got.fit_bind (fit_engBytes hm) fun _ _ hm => hm
  · extract_lets +onlyGivenNames blocks
    clear_value blocks
    refine Got.fit_bind (hbytes _ _ _ hm) fun _ _ hm => Got.fit_bind (hbytes _ _ _ hm) fun _ _ hm => Got.fit_bind ?_ fun _ _ hm => hm
    split
    · exact fit_engBytes hm
    · exact hm
theorem fit_fillSlot {r : Rect} {slot : Nat} {imgs : List Nat} (hm : s.fit what) :
    (s.fillSlot r slot imgs).fit what :=
  fit_foldl hm fun _ _ hm => fit_setSlot hm
theorem fit_readImages {w : Who} {h : Handle} {n : Nat} (hm : s.fit what) : (s.readImages w h n).fit what :=
  Got.fit_foldl hm fun _ _ hg => Got.fit_bind hg fun _ _ hm => Got.fit_bind (fit_readImage hm) fun _ _ hm => hm
theorem fit_execMloadComplete {rect : Nat} (hm : s.fit what) : Out.fit what (execMloadComplete rect s) := by
  unfold execMloadComplete
  dsimp only
  split
  · exact fit_next hm
  · split
    · split
      · exact fit_next hm
      · split
        · exact fit_next (fit_nextMat (fit_complete (fit_modRect (fit_fillSlot (Got.fit_ok ‹_› (fit_readImages (fit_recordNow hm)))))))
        · split
          · exact fit_next (fit_nextMat (fit_trapWaiting (fit_modRect (fit_fillSlot (fit_recordNow hm)))))
          · exact fit_next (fit_nextMat (fit_complete (fit_modRect (fit_fillSlot (fit_recordNow hm)))))
        · exact fit_next (fit_nextMat (fit_complete (fit_modRect (fit_fillSlot (fit_recordNow hm)))))
        · exact fit_next (fit_recordNow hm)
        · exact fit_next (fit_recordNow hm)
    · exact fit_next hm
theorem fit_execMcfgMask {d a b c : Reg} {e : Fin 128} (hm : s.fit what) : Out.fit what (execMcfgMask d a b c e s) := by
  unfold execMcfgMask
  refine fit_onFreeRect hm fun _ _ hm => ?_
  dsimp only
  split
  · exact fit_sequence hm
  · refine fit_plainly hm fun _ hm => fit_settle hm (Got.fit_need (Got.fit_bind (fit_spanOf hm) fun _ _ hm =>
    fit_readSpan hm)) fun _ _ hm => ?_
    split
    · exact fit_prot hm
    · split
      · exact fit_prot hm
      · exact fit_sequence hm
theorem fit_execMcfgCancel {d : Reg} (hm : s.fit what) : Out.fit what (execMcfgCancel d s) := by
  unfold execMcfgCancel
  refine fit_onRect hm fun _ _ hm => ?_
  split
  · exact fit_protOpc hm
  · exact fit_sequence hm
theorem fit_macc {d a : Reg} {op : Nat → MatOp} (hm : s.fit what) : Out.fit what (s.macc d a op) := by
  unfold State.macc
  refine fit_onFreeRect hm fun _ _ hm => ?_
  split
  · exact fit_res hm
  · split
    · exact fit_retry hm
    · exact fit_sequence hm
theorem fit_execMaccClr {d a : Reg} (hm : s.fit what) : Out.fit what (execMaccClr d a s) := fit_macc hm
theorem fit_execMaccScl {d a b : Reg} (hm : s.fit what) : Out.fit what (execMaccScl d a b s) := fit_macc hm
theorem fit_execMstat {d : Reg} (hm : s.fit what) : Out.fit what (execMstat d s) := by
  unfold execMstat
  refine fit_onRect hm fun _ _ hm => ?_
  split
  · exact fit_protOpc hm
  · exact fit_repliedAs hm

/-! ### Machine/Save -/

theorem fit_takeSaved {x : Saved} (hm : s.fit what) : (s.takeSaved x).fit what := hm
theorem fit_save {t : State} {d : Domain} {area : Nat} (hm : s.fit what) (e : s.save d area = some t) :
    t.fit what := by
  unfold State.save at e
  dsimp only at e
  split at e
  · next h =>
    have h := fit_snd h (fit_engineCheck hm)
    split at e <;> cases e
    exact fit_modDomain (fit_takeSaved (fit_segWrite h))
  · cases e
theorem fit_reloadSlot {d : Domain} {r : Rect} {handle slot : Nat} (hm : s.fit what) :
    (s.reloadSlot d r handle slot).fit what := by
  unfold State.reloadSlot
  dsimp only
  split
  · exact fit_fillSlot (Got.fit_ok ‹_› (Got.fit_bind (fit_handle hm) fun _ _ hm => fit_readImages hm))
  · exact fit_modRect (fit_fillSlot hm)
theorem fit_restore {d : Domain} {saved : Saved} (hm : s.fit what) : (s.restore d saved).fit what := by
  unfold State.restore
  refine fit_dealerResume (fit_modDomain (fit_foldl (fit_foldl (fit_foldl (fit_foldl (fit_foldl (fit_foldl ?_ fun _ _ hm =>
    hm) fun _ _ hm => fit_setCore hm) fun _ _ hm => fit_setCore hm) fun _ _ hm => fit_setCore hm) fun _ _ hm =>
    fit_writeBytes hm) fun _ _ hm => fit_foldl hm fun _ _ hm => fit_reloadSlot hm))
  split
  · exact fit_snd ‹_› (fit_engineCheck hm)
  · exact hm

/-! ### Machine/Commands -/

theorem fit_setPage {p : Page} (hm : s.fit what) : (s.setPage p).fit what := hm
theorem fit_execCommandSubmission {fn page : Nat} {cmd : List Byte} (hm : s.fit what) :
    Out.fit what (execCommandSubmission fn page cmd s) := by
  unfold execCommandSubmission
  dsimp only
  split
  · exact fit_next hm
  · exact fit_next (fit_setPage hm)
theorem fit_deny {r : Nat} (hm : s.fit what) : (s.deny r).fit what := hm
theorem fit_command1 {fn page code : Nat} {f : Cmd → State → Ans} (hm : s.fit what)
    (hf : ∀ a t, t.fit what → (f a t).fit what) : Out.fit what (s.command1 fn page code f) := by
  unfold State.command1
  dsimp only
  split
  · exact fit_next hm
  · split
    · exact fit_next hm
    · split
      · refine fit_next (fit_setPage (Ans.fit_done ‹_› ?_))
        split
        · exact fit_deny hm
        · split
          · exact fit_deny hm
          · split
            · exact fit_deny hm
            · exact hf _ _ hm
      · refine fit_next (Ans.fit_wait ‹_› ?_)
        split
        · exact fit_deny hm
        · split
          · exact fit_deny hm
          · split
            · exact fit_deny hm
            · exact hf _ _ hm
theorem fit_onDomain {fn num : Nat} {f : Domain → State → Ans} (hm : s.fit what)
    (hf : ∀ a t, t.fit what → (f a t).fit what) : (s.onDomain fn num f).fit what := by
  unfold State.onDomain
  split
  · exact fit_deny hm
  · split
    · exact fit_deny hm
    · exact hf _ _ hm
theorem fit_onPart {fn : Nat} {f : Partition → State → Ans} (hm : s.fit what)
    (hf : ∀ a t, t.fit what → (f a t).fit what) : (s.onPart fn f).fit what := by
  unfold State.onPart
  split
  · exact fit_deny hm
  · exact hf _ _ hm
theorem fit_execCompletionRecord {fn page : Nat} (hm : s.fit what) : Out.fit what (execCompletionRecord fn page s) := by
  fun_cases execCompletionRecord fn page s with
  | case1 => exact fit_next hm
  | case2 => exact fit_next (fit_setPage hm)
  | case3 p c r v0 v1 _ bs ring u e v =>
    have hv : v.fit what := fit_setPage (fit_ringPost hm e)
    exact fit_next (fit_ite (fit_hostWrite hv) hv)
theorem fit_execConsumedCountPoll {faultRing : Bool} {fn page : Nat} (hm : s.fit what) :
    Out.fit what (execConsumedCountPoll faultRing fn page s) := by
  unfold execConsumedCountPoll
  dsimp only
  split
  · split
    · exact fit_next (fit_modPart hm)
    · exact fit_next hm
  · split
    · exact fit_next (fit_setPage hm)
    · exact fit_next hm
theorem fit_execAttach {fn page : Nat} (hm : s.fit what) : Out.fit what (execAttach fn page s) := by
  unfold execAttach
  refine fit_command1 hm fun _ _ hm => ?_
  dsimp only
  split
  · exact fit_deny hm
  · exact fit_setPage hm
theorem fit_execReAttach {fn page : Nat} (hm : s.fit what) : Out.fit what (execReAttach fn page s) := by
  refine fit_command1 hm fun c s hm => ?_
  refine Ans.fit_ite (fit_deny hm) ?_
  extract_lets p again
  clear_value p again
  generalize e : List.foldl _ _ _ = x
  obtain ⟨ring, u⟩ := x
  have h : u.fit what := fit_snd e (fit_foldl_snd hm fun x a y hx ey => by
    split at ey
    · next h => exact ey ▸ fit_ringPost hx h
    · exact ey ▸ hx)
  exact fit_setPage h
theorem fit_launch {dom : Nat} {args : Vector Word 4} (hm : s.fit what) : (s.launch dom args).fit what := hm
theorem fit_execLaunch {fn page : Nat} (hm : s.fit what) : Out.fit what (execLaunch fn page s) := by
  unfold execLaunch
  refine fit_command1 hm fun _ _ hm => fit_onDomain hm fun _ _ hm => ?_
  split
  · exact fit_deny hm
  · exact fit_launch hm
theorem fit_execEmitInput {fn page : Nat} (hm : s.fit what) : Out.fit what (execEmitInput fn page s) := by
  unfold execEmitInput
  refine fit_command1 hm fun _ _ hm => fit_onDomain hm fun _ _ hm => ?_
  dsimp only
  split
  · exact fit_deny hm
  · split
    · exact fit_deny hm
    · exact fit_modDomain hm
theorem fit_execReadOutputs {fn page : Nat} (hm : s.fit what) : Out.fit what (execReadOutputs fn page s) := by
  unfold execReadOutputs
  refine fit_command1 hm fun _ _ hm => fit_onDomain hm fun _ _ hm => ?_
  dsimp only
  split
  · exact fit_hostWrite hm
  · exact fit_deny hm
theorem fit_execSuspend {fn page : Nat} (hm : s.fit what) : Out.fit what (execSuspend fn page s) := by
  unfold execSuspend
  refine fit_command1 hm fun _ _ hm => fit_onDomain hm fun _ _ hm => ?_
  dsimp only
  split
  · split
    · exact fit_deny hm
    · exact fit_modDomain hm
  · split
    · exact hm
    · exact fit_deny hm
  · split
    · exact fit_deny hm
    · split
      · exact fit_dealerResume hm
      · split
        · exact hm
        · split
          · exact fit_save hm ‹_›
          · exact fit_dealerResume hm
  · exact fit_deny hm
theorem fit_execResume {fn page : Nat} (hm : s.fit what) : Out.fit what (execResume fn page s) := by
  unfold execResume
  refine fit_command1 hm fun _ _ hm => fit_onDomain hm fun _ _ hm => ?_
  split
  · exact fit_deny hm
  · split
    · exact fit_deny hm
    · split
      · exact fit_restore hm
      · exact fit_deny hm
theorem fit_endSaved {dom : Nat} (hm : s.fit what) : (s.endSaved dom).fit what :=
  fit_foldl hm fun _ _ hm => fit_ite (fit_releaseHolds (fit_iqUnbind (fit_abandon hm))) (fit_iqUnbind (fit_abandon hm))
theorem fit_execAbort {fn page : Nat} (hm : s.fit what) : Out.fit what (execAbort fn page s) := by
  unfold execAbort
  refine fit_command1 hm fun _ _ hm => fit_onDomain hm fun _ _ hm => ?_
  split
  · exact fit_abortDomain (fit_endSaved hm)
  · exact fit_deny hm
theorem fit_execEndStatus {fn page : Nat} (hm : s.fit what) : Out.fit what (execEndStatus fn page s) :=
  fit_command1 hm fun _ _ hm => fit_onDomain hm fun _ _ hm => hm
theorem fit_execFaultAnswer {fn page : Nat} (hm : s.fit what) : Out.fit what (execFaultAnswer fn page s) := by
  unfold execFaultAnswer
  refine fit_command1 hm fun _ _ hm => fit_onPart hm fun _ _ hm => ?_
  split
  · exact fit_deny hm
  · split
    · exact fit_deny hm
    · exact fit_ite hm (fit_foldl hm fun _ _ hm => fit_trapWaiting hm)
theorem fit_execHealthRead {fn page : Nat} (hm : s.fit what) : Out.fit what (execHealthRead fn page s) :=
  fit_command1 hm fun _ _ hm => fit_hostWrite hm
theorem fit_execSetFaultQueue {fn page : Nat} (hm : s.fit what) : Out.fit what (execSetFaultQueue fn page s) := by
  unfold execSetFaultQueue
  refine fit_command1 hm fun _ _ hm => fit_onPart hm fun _ _ hm => ?_
  split
  · exact fit_deny hm
  · exact fit_modPart hm

/-! ### Machine/Queues -/

theorem fit_withIq {a : Reg} {f : Iq → State → Out} (hm : s.fit what) (hf : ∀ a t, t.fit what → Out.fit what (f a t)) :
    Out.fit what (s.withIq a f) := by
  unfold State.withIq
  refine fit_user hm fun _ hm => ?_
  split
  · split
    · exact hf _ _ hm
    · exact fit_prot hm
  · exact fit_prot hm
theorem fit_makeIq {d : Reg} {x y cap bank loc : Nat} (hm : s.fit what) : Out.fit what (s.makeIq d x y cap bank loc) := by
  unfold State.makeIq
  dsimp only
  split
  · exact fit_trap (fit_snd ‹_› (fit_check hm))
  · exact fit_waitWalk (fit_snd ‹_› (fit_check hm))
  · exact fit_prot (fit_snd ‹_› (fit_check hm))
  · split
    · exact fit_prot (fit_snd ‹_› (fit_check hm))
    · split
      · exact fit_prot (fit_snd ‹_› (fit_check hm))
      · split
        · exact fit_reply (fit_snd ‹_› (fit_check hm))
        · split
          · exact fit_reply (fit_snd ‹_› (fit_check hm))
          · exact fit_reply (fit_snd ‹_ = (_, _)› (fit_check hm) :)
theorem fit_execIqdefNew {d a b c : Reg} (hm : s.fit what) : Out.fit what (execIqdefNew d a b c s) := by
  unfold execIqdefNew
  refine fit_user hm fun _ hm => ?_
  dsimp only
  split
  · exact fit_prot hm
  · split
    · exact fit_trap hm
    · split
      · exact fit_prot hm
      · exact fit_makeIq hm
    · exact fit_prot hm
theorem fit_execIqdefDel {d a : Reg} (hm : s.fit what) : Out.fit what (execIqdefDel d a s) := by
  unfold execIqdefDel
  refine fit_withIq hm fun _ _ hm => ?_
  split <;> exact fit_reply hm
theorem fit_execIqpush {d a b : Reg} (hm : s.fit what) : Out.fit what (execIqpush d a b s) := by
  unfold execIqpush
  refine fit_withIq hm fun _ _ hm => ?_
  dsimp only
  split
  · exact fit_prot hm
  · exact fit_afterRelease hm fun _ hm => fit_reply (fit_iqPush hm)
theorem fit_parkIq {q : Iq} {d : Reg} {pb : PReg} (hm : s.fit what) : (s.parkIq q d pb).fit what :=
  fit_parkMe (fit_foldl hm fun _ _ hm => fit_hold hm)
theorem fit_execIqpop {d : Reg} {pb : PReg} {a : Reg} (hm : s.fit what) : Out.fit what (execIqpop d pb a s) := by
  unfold execIqpop
  refine fit_withIq hm fun _ _ hm => ?_
  dsimp only
  split
  · exact fit_prot hm
  · split
    · exact fit_prot (fit_iqSettleOne hm)
    · split
      · exact fit_replied (fit_putGroup (fit_iqOut (fit_iqTouch (fit_iqSettleOne hm))))
      · split
        · exact fit_replied (fit_iqSettleOne hm)
        · exact fit_next (fit_parkIq (fit_iqSettleOne hm))
theorem fit_execIqcons {d a : Reg} (hm : s.fit what) : Out.fit what (execIqcons d a s) := by
  unfold execIqcons
  refine fit_withIq hm fun _ _ hm => ?_
  dsimp only
  split
  · exact fit_prot hm
  · exact fit_reply (fit_iqServe (fit_iqOut hm))
theorem fit_execIqbind {d a b : Reg} {e : Fin 128} (hm : s.fit what) : Out.fit what (execIqbind d a b e s) :=
  fit_withIq hm fun _ _ hm => fit_ask hm
theorem fit_execIqstat {d a : Reg} (hm : s.fit what) : Out.fit what (execIqstat d a s) :=
  fit_withIq hm fun _ _ hm => fit_reply hm
theorem fit_execArrget {d : Reg} {pc : PReg} {a b : Reg} (hm : s.fit what) : Out.fit what (execArrget d pc a b s) := by
  unfold execArrget
  refine fit_user hm fun _ hm => ?_
  dsimp only
  split
  · exact fit_prot hm
  · split
    · exact fit_retry hm
    · exact fit_ask hm
theorem fit_execArradd {a b c : Reg} (hm : s.fit what) : Out.fit what (execArradd a b c s) :=
  fit_user hm fun _ hm => fit_post hm
theorem fit_arrAdd {r : Req} {key v : Nat} (hm : s.fit what) : (s.arrAdd r key v).fit what := by
  unfold State.arrAdd
  split
  · exact fit_report hm
  · split
    · exact fit_homeWrite hm
    · exact fit_homeWrite hm
    · exact fit_report hm
    · exact fit_report hm
theorem fit_execArrangementAddApply {req : Nat} (hm : s.fit what) : Out.fit what (execArrangementAddApply req s) := by
  unfold execArrangementAddApply
  split
  · split
    · exact fit_next (fit_ite (fit_arrAdd (fit_dropReq hm)) hm)
    · exact fit_next hm
  · exact fit_next hm

/-! ### Machine/Copies -/

theorem fit_queueCopy {c : Copy} (hm : s.fit what) : (s.queueCopy c).fit what := hm
theorem fit_copyHandle {c : Copy} {va need : Nat} {windowed : Bool} (hm : s.fit what) :
    (s.copyHandle c va need windowed).fit what := by
  unfold State.copyHandle
  refine Got.fit_bind (fit_myHandle hm) fun _ _ hm => Got.fit_need (Got.fit_bind ?_ fun _ _ hm =>
    Got.fit_bind (fit_myView hm) fun _ _ hm => Got.fit_need hm)
  split
  · exact Got.fit_bind (fit_atOnce hm fun _ hm => fit_chanOf hm) fun _ _ hm => hm
  · exact hm
theorem fit_copySide {va need len : Nat} (hm : s.fit what) : (s.copySide va need len).fit what := Got.fit_need (fit_spanOf hm)
theorem fit_copyChecks {c : Copy} (hm : s.fit what) : (s.copyChecks c).fit what := by
  unfold State.copyChecks
  refine Got.fit_need ?_
  dsimp only
  split
  · exact Got.fit_need (Got.fit_bind (fit_copySide hm) fun _ _ hm => Got.fit_bind (fit_copySide hm) fun _ _ hm => Got.fit_need hm)
  · exact Got.fit_need (Got.fit_bind (fit_copySide hm) fun _ _ hm => hm)
  · exact Got.fit_bind (fit_copyHandle hm) fun _ _ hm => Got.fit_bind (fit_copySide hm) fun _ _ hm => hm
  · exact Got.fit_bind (fit_copyHandle hm) fun _ _ hm => Got.fit_bind (fit_copySide hm) fun _ _ hm => hm
  · exact Got.fit_bind (fit_copyHandle hm) fun _ _ hm => Got.fit_bind (fit_copyHandle hm) fun _ _ hm => Got.fit_need hm
theorem fit_streamChecks {c : Copy} (hm : s.fit what) : (s.streamChecks c).fit what :=
  Got.fit_need (Got.fit_need (Got.fit_need (Got.fit_need (Got.fit_bind (fit_spanOf hm) fun _ _ hm =>
    Got.fit_bind (fit_copySide hm) fun _ _ hm => Got.fit_bind (fit_copySide hm) fun _ _ hm => hm))))
theorem fit_enqueue {d : Reg} {c : Copy} {wait : Bool} {checks : State → Got Unit} (hm : s.fit what)
    (hchecks : ∀ t, t.fit what → (checks t).fit what) : Out.fit what (s.enqueue d c wait checks) := by
  unfold State.enqueue
  split
  · split
    · exact fit_retry hm
    · exact fit_reply hm
  · split
    · exact fit_trap hm
    · exact fit_plainly hm fun _ hm => fit_settle hm (hchecks _ hm) fun _ _ hm => fit_reply (fit_queueCopy hm)
theorem fit_execCpyq {d a : Reg} (hm : s.fit what) : Out.fit what (execCpyq d a s) :=
  fit_enqueue hm fun _ hm => fit_copyChecks hm
theorem fit_execCpyqw {d a : Reg} (hm : s.fit what) : Out.fit what (execCpyqw d a s) :=
  fit_enqueue hm fun _ hm => fit_copyChecks hm
theorem fit_execGath {d a : Reg} {wt : Bool} (hm : s.fit what) : Out.fit what (execGath d a wt s) :=
  fit_user hm fun _ hm => fit_enqueue hm fun _ hm => fit_streamChecks hm
theorem fit_execScat {d a : Reg} {wt : Bool} (hm : s.fit what) : Out.fit what (execScat d a wt s) :=
  fit_user hm fun _ hm => fit_enqueue hm fun _ hm => fit_streamChecks hm
theorem fit_modCopy {id : Nat} {f : Copy → Copy} (hm : s.fit what) : (s.modCopy id f).fit what := hm
theorem fit_execCopyStart {core : Nat} (hm : s.fit what) : Out.fit what (execCopyStart core s) := by
  unfold execCopyStart
  dsimp only
  split
  · exact fit_next hm
  · split
    · exact fit_next (fit_setCore hm)
    · split
      · exact fit_next hm
      · exact fit_next (fit_modCopy (fit_setCore hm))
theorem fit_packGet {w : Who} {h : Handle} {addr k : Nat} (hm : s.fit what) : (s.packGet w h addr k).fit what :=
  Got.fit_bind (fit_engBytes hm) fun _ _ hm => hm
theorem fit_packPut {c : Copy} {h : Handle} {addr k v : Nat} (hm : s.fit what) : (s.packPut c h addr k v).fit what := by
  unfold State.packPut
  split
  · exact Got.fit_bind (fit_engBytes hm) fun _ _ hm => fit_engFill hm
  · exact fit_engOut hm
theorem fit_copyElem {c : Copy} {src dst : Option Handle} {k : Nat} (hm : s.fit what) :
    (s.copyElem c src dst k).fit what := by
  unfold State.copyElem
  dsimp only
  split
  · split
    · exact Got.fit_bind (fit_engMapped hm) fun _ _ hm => Got.fit_bind (fit_engGet hm) fun _ _ hm =>
      Got.fit_bind (fit_packPut hm) fun _ _ hm => hm
    · split
      · exact hm
      · exact Got.fit_bind (fit_packPut hm) fun _ _ hm => hm
  · split
    · exact Got.fit_bind (fit_packGet hm) fun _ _ hm => Got.fit_bind (fit_engPut hm) fun _ _ hm => hm
    · exact hm
  · split
    · exact Got.fit_bind (fit_engMapped hm) fun _ _ hm => Got.fit_bind (fit_engGet hm) fun _ _ hm =>
      Got.fit_bind (fit_engPut hm) fun _ _ hm => hm
    · split
      · exact hm
      · exact Got.fit_bind (fit_engPut hm) fun _ _ hm => hm
  · exact hm
theorem fit_copyRec {c : Copy} {k : Nat} (hm : s.fit what) : (s.copyRec c k).fit what := by
  unfold State.copyRec
  dsimp only
  split
  · exact trivial
  · refine Got.fit_bind (fit_engBytes hm) fun _ _ hm => ?_
    split
    · exact hm
    · exact fit_iqPush hm
theorem fit_copyOne {c : Copy} {src dst : Option Handle} {k : Nat} (hm : s.fit what) :
    Got.fit what (if c.dk = 2 then s.copyRec c k
      else if src.isSome || dst.isSome then (s.copyElem c src dst k).bind fun b s => .ok (if b then 0 else 2) s
      else (s.engBytes c.who (c.w0 + 8 * k) 8).bind fun bs s => (s.engOut c.writer (c.w1 + 8 * k) bs).bind fun _ s => .ok 0 s) :=
  Got.fit_ite (fit_copyRec hm) (Got.fit_ite (Got.fit_bind (fit_copyElem hm) fun _ _ hm => hm)
    (Got.fit_bind (fit_engBytes hm) fun _ _ hm => Got.fit_bind (fit_engOut hm) fun _ _ hm => hm))
theorem fit_runCopy {c : Copy} {src dst : Option Handle} {total a : Nat} {b : Ran} (hm : s.fit what) :
    (s.runCopy c src dst total a b).2.fit what := by
  fun_induction State.runCopy s c src dst total a b with
  | case1 | case2 | case6 => exact hm
  | case3 _ _ _ _ _ _ _ e ih | case5 _ _ _ _ _ _ _ _ _ e ih => exact ih (Got.fit_ok e (fit_copyOne hm))
  | case4 _ _ _ _ _ _ e => exact Got.fit_ok e (fit_copyOne hm)
theorem fit_sideHandle {c : Copy} {is : Bool} {va : Nat} (hm : s.fit what) : (s.sideHandle c is va).fit what := by
  unfold State.sideHandle
  split
  · exact Got.fit_bind (fit_handle hm) fun _ _ hm => hm
  · exact hm
theorem fit_postCopy {id : Nat} (hm : s.fit what) : (s.postCopy id).fit what := by
  unfold State.postCopy
  dsimp only
  split
  · exact hm
  · split
    · exact hm
    · exact fit_ite (fit_iqSettleOne (fit_complete? hm ‹_ = some _› :)) (fit_complete? hm ‹_ = some _› :)
theorem fit_execCopyCompletion {copy : Nat} (hm : s.fit what) : Out.fit what (execCopyCompletion copy s) := by
  fun_cases execCopyCompletion copy s with
  | case1 | case3 => exact fit_next hm
  | case2 => exact fit_next (fit_postCopy hm)
  | case4 c _ _ _ src dst s1 e total r s2 e' s3 =>
    have h1 : s1.fit what :=
      Got.fit_ok e (Got.fit_bind (fit_sideHandle hm) fun _ _ hm => Got.fit_bind (fit_sideHandle hm) fun _ _ hm => hm)
    have h2 : s2.fit what := fit_snd e' (fit_runCopy h1)
    have h3 : s3.fit what := fit_modCopy h2
    exact fit_next (fit_ite (fit_postCopy h3) h3)
  | case5 => exact fit_next (fit_postCopy (fit_modCopy hm))
theorem fit_keepRows {c : Copy} {size : Nat} {a : List Nat} {b : List (Nat × Nat × Span)} (hm : s.fit what) :
    (s.keepRows c size a b).2.2.fit what := by
  fun_induction State.keepRows s c size a b with
  | case1 => exact hm
  | case2 s _ j js bs s1 e1 addr sp s2 e2 ih =>
    have h1 : s1.fit what := Got.fit_ok e1 (fit_engBytes hm)
    exact ih (Got.fit_ok e2 (Got.fit_bind (fit_spanOf h1) fun _ _ hm => Got.fit_bind (fit_spanOf hm) fun _ _ hm => hm))
  | case3 s _ j js bs s1 e1 => exact Got.fit_ok e1 (fit_engBytes hm)
  | case4 => exact hm
theorem fit_serveRow {c : Copy} {local' addr off len : Nat} (hm : s.fit what) :
    (s.serveRow c local' addr off len).2.2.fit what := by
  unfold State.serveRow
  dsimp only
  split
  · refine Got.fit_ok ‹_› ?_
    split <;> exact Got.fit_bind (fit_engBytes hm) fun _ _ hm => fit_engOut hm
  · exact hm
theorem fit_endRows {c : Copy} (hm : s.fit what) : (s.endRows c).fit what :=
  fit_ite hm (fit_postCopy (fit_modCopy hm))
theorem fit_execStreamerCompletion {copy : Nat} (hm : s.fit what) : Out.fit what (execStreamerCompletion copy s) := by
  fun_cases execStreamerCompletion copy s with
  | case1 => exact fit_next hm
  | case2 => exact fit_next (fit_postCopy hm)
  | case3 => exact fit_next (fit_endRows hm)
  | case4 => exact fit_next hm
  | case5 c _ _ _ _ n size rows cut s1 e parts cnt st s2 e2 =>
    have h1 : s1.fit what := fit_snd_snd e (fit_keepRows hm)
    have h2 : s2.fit what := fit_snd_snd e2 (List.foldlRecOn _ _ (motive := fun x : Nat × Nat × State => x.2.2.fit what)
      h1 fun _ hx _ _ => fit_serveRow hx)
    exact fit_next (fit_endRows (fit_modCopy h2))

/-! ### Machine/Network -/

theorem fit_setHop {id : Nat} {h : Hop} (hm : s.fit what) : (s.setHop id h).fit what := hm
theorem fit_signalStop {q port chan : Nat} (hm : s.fit what) : (s.signalStop q port chan).fit what :=
  fit_ite (fit_setQuad hm) (fit_ite (fit_ite (fit_setQuad hm) hm) hm)
theorem fit_combine {p : Packet} {others : List Packet} (hm : s.fit what) : (s.combine p others).2.fit what := by
  unfold State.combine
  dsimp only
  split
  · exact hm
  · split
    · exact hm
    · exact fit_modReq (fit_modReq hm)
theorem fit_forward {q : Nat} {out : Dir} {id : Nat} (hm : s.fit what) : (s.forward q out id).fit what := by
  unfold State.forward
  dsimp only
  split
  · exact hm
  · exact fit_ite (fit_signalStop (fit_setDie (fit_setQuad (fit_setHop hm)))) (fit_signalStop (fit_signalStop (fit_setDie
    (fit_setQuad (fit_setHop hm)))))
theorem fit_execFlitRoute {quad : Nat} {out : Dir} (hm : s.fit what) : Out.fit what (execFlitRoute quad out s) := by
  unfold execFlitRoute
  dsimp only
  split
  · exact fit_next hm
  · split
    · exact fit_next hm
    · split
      · exact fit_next hm
      · exact fit_next (fit_forward (fit_combine (fit_setQuad hm)))
theorem fit_execPacketUrgent {req : Nat} (hm : s.fit what) : Out.fit what (execPacketUrgent req s) := fit_next hm
theorem fit_execDriftWindow {die : Nat} (hm : s.fit what) : Out.fit what (execDriftWindow die s) := by
  unfold execDriftWindow
  dsimp only
  split
  · exact fit_next hm
  · exact fit_next (fit_setDie hm)

/-! ### Machine/System -/

theorem fit_regObj {a : Reg} {fe : Bool} {f : Nat → State → Out} (hm : s.fit what)
    (hf : ∀ a t, t.fit what → Out.fit what (f a t)) : Out.fit what (s.regObj a fe f) := by
  unfold State.regObj
  refine fit_user hm fun _ hm => ?_
  dsimp only
  split
  · exact fit_trap hm
  · split
    · exact fit_prot hm
    · split
      · exact hf _ _ hm
      · exact hf _ _ hm
      · exact Acc.fit_bind (fit_access hm) (fun _ hm => fit_prot hm) fun _ _ hm => hf _ _ hm
      · exact fit_trap hm
theorem fit_register {d : Reg} {obj ok : Nat} (hm : s.fit what) : Out.fit what (s.register d obj ok) := by
  unfold State.register
  split
  · exact fit_res hm
  · split <;> exact fit_res (fit_fst ‹_› (fit_enter hm))
theorem fit_execWregHold {d a : Reg} (hm : s.fit what) : Out.fit what (execWregHold d a s) :=
  fit_regObj hm fun _ _ hm => fit_register hm
theorem fit_execWregFe {d a : Reg} (hm : s.fit what) : Out.fit what (execWregFe d a s) :=
  fit_regObj hm fun _ _ hm => fit_register hm
theorem fit_execWunreg {d a : Reg} (hm : s.fit what) : Out.fit what (execWunreg d a s) := by
  unfold execWunreg
  refine fit_regObj hm fun _ _ hm => ?_
  dsimp only
  split
  · exact fit_res (fit_ite (fit_unhold (fit_unhold hm)) (fit_wakeReg (fit_unhold (fit_unhold hm))))
  · exact fit_res hm
theorem fit_execWwait {d a : Reg} (hm : s.fit what) : Out.fit what (execWwait d a s) := by
  unfold execWwait
  refine fit_regObj hm fun _ _ hm => ?_
  dsimp only
  split
  · exact fit_res hm
  · split
    · exact fit_res (fit_overflowed hm)
    · exact fit_next (fit_parkMe hm)
theorem fit_execWsig {d a : Reg} (hm : s.fit what) : Out.fit what (execWsig d a s) := by
  unfold execWsig
  refine fit_regObj hm fun _ _ hm => fit_afterRelease hm fun _ hm => ?_
  split
  · exact fit_res (fit_wakeReg hm)
  · exact fit_res hm
theorem fit_execPrioSet {d a : Reg} (hm : s.fit what) : Out.fit what (execPrioSet d a s) := by
  unfold execPrioSet
  refine fit_user hm fun _ hm => ?_
  dsimp only
  split
  · exact fit_res hm
  · split
    · exact fit_res hm
    · exact fit_res (fit_modMe hm)
theorem fit_execPrioMax {d : Reg} (hm : s.fit what) : Out.fit what (execPrioMax d s) :=
  fit_user hm fun _ hm => fit_res (fit_modMe hm)
theorem fit_service {d : Reg} {n v : Nat} (hm : s.fit what) : Out.fit what (s.service d n v) :=
  fit_user hm fun _ hm => fit_afterRelease hm fun _ hm => fit_next (fit_await hm)
theorem fit_execTrapNothing {d : Reg} {imm : BitVec 32} (hm : s.fit what) : Out.fit what (execTrapNothing d imm s) := by
  unfold execTrapNothing
  refine fit_user hm fun _ hm => ?_
  split
  · exact fit_service hm
  · exact fit_prot hm
theorem fit_execTrapTime {d : Reg} (hm : s.fit what) : Out.fit what (execTrapTime d s) := fit_service hm
theorem fit_execTrapUserAbort {d : Reg} (hm : s.fit what) : Out.fit what (execTrapUserAbort d s) := fit_service hm
theorem fit_execTrapPostFaultQueue {d : Reg} (hm : s.fit what) : Out.fit what (execTrapPostFaultQueue d s) := fit_service hm
theorem fit_execRft (hm : s.fit what) : Out.fit what (execRft s) := by
  unfold execRft
  split
  · exact fit_next (fit_returnSuper hm)
  · split
    · exact fit_next (fit_returnUser hm)
    · exact fit_protOpc hm
theorem fit_execSrr {d : Reg} {e : Fin 128} {c : Fin 32} (hm : s.fit what) : Out.fit what (execSrr d e c s) := by
  unfold execSrr
  split
  · exact fit_protOpc hm
  · exact fit_res hm
theorem fit_execSrw {a : Reg} {e : Fin 128} {c : Fin 32} (hm : s.fit what) : Out.fit what (execSrw a e c s) := by
  unfold execSrw
  dsimp only
  split
  · exact fit_protOpc hm
  · split
    · exact fit_prot hm
    · exact fit_ok (fit_modThread hm)
theorem fit_unholdCore {core : Nat} (hm : s.fit what) : (s.unholdCore core).fit what := hm
theorem fit_execSrwEbud {a : Reg} {c : Fin 32} (hm : s.fit what) : Out.fit what (execSrwEbud a c s) := by
  unfold execSrwEbud
  dsimp only
  split
  · exact fit_protOpc hm
  · split
    · exact fit_prot hm
    · exact fit_ok (fit_ite (fit_unholdCore (fit_setCore hm)) (fit_setCore hm))
theorem fit_invalidate {asid : Nat} {pick : Tlb → Bool} (hm : s.fit what) : (s.invalidate asid pick).fit what := hm
theorem fit_tlbi {asid : Nat} {pick : Tlb → Bool} (hm : s.fit what) : Out.fit what (s.tlbi asid pick) := by
  unfold State.tlbi
  dsimp only
  split
  · exact fit_next (fit_await (fit_invalidate hm))
  · exact fit_ok (fit_invalidate hm)
theorem fit_tlbiEnds (hm : s.fit what) : s.tlbiEnds.fit what := fit_foldl hm fun _ _ hm => fit_complete hm
theorem fit_execTlbiAll (hm : s.fit what) : Out.fit what (execTlbiAll s) := fit_tlbi hm
theorem fit_execTlbiPage {a : Reg} (hm : s.fit what) : Out.fit what (execTlbiPage a s) := by
  unfold execTlbiPage
  split <;> exact fit_tlbi hm
theorem fit_execTlbiAsid {a : Reg} (hm : s.fit what) : Out.fit what (execTlbiAsid a s) := by
  unfold execTlbiAsid
  split
  · exact fit_tlbi hm
  · exact fit_protOpc hm
theorem fit_execMonSel {d : Reg} {c : Fin 32} {a : Reg} (hm : s.fit what) : Out.fit what (execMonSel d c a s) := by
  unfold execMonSel
  dsimp only
  split
  · exact fit_res hm
  · exact fit_res (fit_setMonitor hm)
theorem fit_execMonEdge {c : Fin 32} {a : Reg} (hm : s.fit what) : Out.fit what (execMonEdge c a s) := by
  fun_cases execMonEdge c a s with
  | case1 | case3 | case6 => exact fit_trap hm
  | case2 | case4 | case7 => exact fit_prot hm
  | case5 => exact fit_ok (fit_setMonitor hm)
theorem fit_execMonRd {d : Reg} {c : Fin 32} {b : Reg} (hm : s.fit what) : Out.fit what (execMonRd d c b s) := fit_res hm
theorem fit_execMonOff {c : Fin 32} (hm : s.fit what) : Out.fit what (execMonOff c s) := fit_ok (fit_setMonitor hm)
theorem fit_execMonitorSample {quad unit _value : Nat} (hm : s.fit what) :
    Out.fit what (execMonitorSample quad unit _value s) := by
  unfold execMonitorSample
  dsimp only
  split
  · exact fit_next (fit_ite (fit_setMonitor hm) hm)
  · exact fit_next hm
theorem fit_ticks {n : Nat} (hm : s.fit what) : (s.ticks n).fit what := hm
theorem fit_execWdarm {d a : Reg} (hm : s.fit what) : Out.fit what (execWdarm d a s) := fit_res (fit_modMe hm)
theorem fit_execWatchdogFiring {gid : Nat} (hm : s.fit what) : Out.fit what (execWatchdogFiring gid s) := by
  unfold execWatchdogFiring
  dsimp only
  split
  · exact fit_next hm
  · split
    · exact fit_next hm
    · split
      · exact fit_next (fit_deliverWatchdog (fit_withdraw hm))
      · exact fit_next (fit_modThread hm)
theorem fit_logBad {die addr : Nat} (hm : s.fit what) : (s.logBad die addr).fit what := hm
theorem fit_supervise {x : SupTrap} (hm : s.fit what) : (s.supervise x).fit what := by
  unfold State.supervise
  dsimp only
  split
  · exact fit_abortFor (fit_ite (fit_logBad hm) hm)
  · exact fit_complete hm
  · exact fit_abortDomain hm
  · split
    · exact fit_complete (Posted.fit_posted ‹_› (fit_postFault hm))
    · exact fit_complete hm
  · exact fit_complete hm
theorem fit_execSupervisorTrapService {core : Nat} (hm : s.fit what) : Out.fit what (execSupervisorTrapService core s) := by
  unfold execSupervisorTrapService
  split
  · exact fit_next hm
  · split
    · exact fit_next hm
    · exact fit_next (fit_supervise hm)
theorem fit_cycleTrap {g : Nat} {e : Edge} {path : List Edge} {checker : Bool} (hm : s.fit what) :
    (s.cycleTrap g e path checker).fit what :=
  fit_ite (fit_modThread (fit_writeRecord hm)) (fit_trapWaiting (fit_writeRecord hm))
theorem fit_walked {g : Nat} {e : Edge} {checker : Bool} {x : Found} (hm : s.fit what) :
    (s.walked g e checker x).fit what := by
  unfold State.walked
  split
  · exact fit_ite (fit_markEdge hm) hm
  · exact fit_ite hm (fit_markEdge hm)
  · exact fit_cycleTrap hm
  · exact fit_sendWalk hm
theorem fit_recheck {e : Edge} (hm : s.fit what) : (s.recheck e).fit what := fit_ite (fit_walked hm) hm
theorem fit_execBackgroundChecker {die : Nat} (hm : s.fit what) : Out.fit what (execBackgroundChecker die s) := by
  unfold execBackgroundChecker
  dsimp only
  split
  · exact fit_next hm
  · exact fit_next (fit_foldl hm fun _ _ hm => fit_recheck hm)
theorem fit_walkOn {x : WalkMsg} (hm : s.fit what) : (s.walkOn x).fit what := fit_ite (fit_walked hm) hm
theorem fit_execWalkCrossing {msg : Nat} (hm : s.fit what) : Out.fit what (execWalkCrossing msg s) := by
  unfold execWalkCrossing
  dsimp only
  split
  · split
    · exact fit_next (fit_walkOn hm)
    · exact fit_next hm
  · split
    · exact fit_next hm
    · split
      · exact fit_next (fit_ite hm (fit_ite (fit_modThread hm) (fit_complete hm)))
      · exact fit_next hm
theorem fit_nextWalk {die : Nat} (hm : s.fit what) : (s.nextWalk die).fit what := by
  unfold State.nextWalk
  dsimp only
  split
  · exact fit_ite hm hm
  · exact hm
theorem fit_dropWalk {id : Nat} (hm : s.fit what) : (s.dropWalk id).fit what := hm
theorem fit_refuseWalk {w : Walk} (hm : s.fit what) : (s.refuseWalk w).fit what :=
  fit_foldl (fit_dropWalk hm) fun _ _ hm => fit_trapWaiting hm
theorem fit_askHost {w : Walk} (hm : s.fit what) : (s.askHost w).fit what := by
  unfold State.askHost
  dsimp only
  split
  · exact fit_refuseWalk hm
  · exact fit_ite hm hm
  · exact fit_ite (fit_ite hm hm) (Posted.fit_posted ‹_ = Posted.posted _ _› (fit_postFault hm) :)
theorem fit_execPageWalkComplete {walk : Nat} (hm : s.fit what) : Out.fit what (execPageWalkComplete walk s) := by
  unfold execPageWalkComplete
  dsimp only
  split
  · exact fit_next hm
  · split
    · exact fit_next (fit_askHost hm)
    · split
      · exact fit_next hm
      · split
        · exact fit_next (fit_tlbiEnds (fit_nextWalk (fit_dropWalk hm)))
        · split
          · exact fit_next (fit_nextWalk (fit_askHost hm))
          · exact fit_next (fit_tlbiEnds (fit_nextWalk hm))
theorem fit_execWalkFifoRetry {walk : Nat} (hm : s.fit what) : Out.fit what (execWalkFifoRetry walk s) := by
  unfold execWalkFifoRetry
  dsimp only
  split
  · exact fit_next hm
  · exact fit_next (fit_nextWalk (fit_ite hm (fit_ite hm hm)))
theorem fit_execEnergyRefill {core : Nat} (hm : s.fit what) : Out.fit what (execEnergyRefill core s) := by
  unfold execEnergyRefill
  dsimp only
  split
  · exact fit_next hm
  · exact fit_next (fit_unholdCore (fit_setCore (fit_sampled hm)))

/-! ### Machine/Health -/

theorem fit_struck (hm : s.fit what) : s.struck.fit what := by
  unfold State.struck
  dsimp only
  split
  · exact hm
  · exact fit_ite hm (fit_ite hm hm)
theorem fit_execPatrolScrub {word : Nat} (hm : s.fit what) : Out.fit what (execPatrolScrub word s) := by
  unfold execPatrolScrub
  dsimp only
  split
  · exact fit_next (fit_struck hm)
  · split
    · exact fit_next (fit_logBad (fit_struck hm))
    · split <;> exact fit_next (fit_struck hm)
theorem fit_poison {pick : NetBar → Bool} (hm : s.fit what) : (s.poison pick).fit what := hm
theorem fit_execLinkFlitError {die : Nat} (hm : s.fit what) : Out.fit what (execLinkFlitError die s) := by
  unfold execLinkFlitError
  dsimp only
  split
  · exact fit_next (fit_poison hm)
  · exact fit_next (fit_setDie hm)
theorem fit_execMachineCheck {core : Nat} (hm : s.fit what) : Out.fit what (execMachineCheck core s) :=
  fit_next (fit_foldl (fit_setDie hm) fun _ _ hm => fit_abortDomain hm)
theorem fit_loseDie {die : Nat} (hm : s.fit what) : (s.loseDie die).fit what :=
  fit_foldl hm fun _ _ hm => fit_barSettle hm
theorem fit_execPackageLoss {pkg : Nat} (hm : s.fit what) : Out.fit what (execPackageLoss pkg s) := by
  unfold execPackageLoss
  dsimp only
  split
  · exact fit_next (fit_loseDie hm)
  · split <;> exact fit_next hm
theorem fit_execThermalAlarm {die refill : Nat} (hm : s.fit what) : Out.fit what (execThermalAlarm die refill s) := fit_next hm
theorem fit_execHostPostedWrite {addr : Nat} {data : List Byte} (hm : s.fit what) :
    Out.fit what (execHostPostedWrite addr data s) := by
  unfold execHostPostedWrite
  dsimp only
  split
  · exact fit_next (fit_homeWrite hm)
  · split
    · exact fit_next (fit_homeWrite hm)
    · exact fit_next hm
/-- Package reset keeps some of the cells of memory and the numbers of its keys, and clears the record of the issue. -/
theorem fit_execPackageReset (hm : s.fit what) : Out.fit what (execPackageReset s) := by
  cases what with
  | single => exact fit_next (rfl : Fit .single _ _)
  | canonical =>
  obtain ⟨hr, hb⟩ := s.mem.wf_iff.1 hm
  exact (Memory.wf_iff _).2 ⟨risingFrom_filter _ _ _ hr, fun c hc => hb c (List.mem_filter.1 hc).1⟩

/-! ### Machine/Tensor -/

theorem fit_record {need va : Nat} (hm : s.fit what) : (s.record need va).fit what :=
  Got.fit_bind (fit_handleSpan hm) fun _ _ hm => Got.fit_bind (fit_readLine hm) fun _ _ hm => hm
theorem fit_dropHandle {core va : Nat} {all : Bool} (hm : s.fit what) : (s.dropHandle core va all).fit what := hm
theorem fit_dropMine {va : Nat} (hm : s.fit what) : (s.dropMine va).fit what := hm
theorem fit_answered {d : Reg} {key v : Nat} (hm : s.fit what) : Out.fit what (s.answered d key v) := by
  unfold State.answered
  split
  · exact fit_res hm
  · exact fit_reply hm
theorem fit_execThdef {d a b c : Reg} {op : Fin 64} (hm : s.fit what) : Out.fit what (execThdef d a b c op s) := by
  unfold execThdef
  refine fit_settle hm (fit_record hm) fun _ _ hm => fit_settle hm (fit_inTurn hm) fun _ _ hm => ?_
  dsimp only
  split
  · exact fit_answered hm
  · refine fit_settle hm ?_ fun _ _ hm => fit_answered (fit_dropMine hm)
    split
    · exact Got.fit_bind (fit_writeSpan hm) fun _ _ hm => fit_writeSpan hm
    · exact Got.fit_bind (fit_writeSpan hm) fun _ _ hm => fit_writeSpan hm
    · exact Got.fit_bind (fit_writeSpan hm) fun _ _ hm => fit_writeSpan hm
    · exact fit_writeSpan hm
    · exact fit_writeSpan hm
theorem fit_row {a b c : Reg} {fmt : Fin 16} {f : Handle → List Ix → State → Out} (hm : s.fit what)
    (hf : ∀ a b t, t.fit what → Out.fit what (f a b t)) : Out.fit what (s.row a b c fmt f) := by
  unfold State.row
  refine fit_withFmt hm fun _ => fit_plainly hm fun _ hm => fit_settle hm (fit_myHandle hm) fun _ _ hm => ?_
  split
  · exact fit_prot hm
  · exact hf _ _ _ hm
theorem fit_filled {from' : Nat} (hm : s.fit what) : (s.filled from').fit what := hm
theorem fit_putFilled {v : View} {a : List (Ix × Nat × Bool)} (hm : s.fit what) : (s.putFilled v a).fit what := by
  induction a generalizing s v with
  | nil => exact hm
  | cons a l ih => exact Got.fit_bind (fit_putEl hm) fun _ _ hm => ih (fit_ite (fit_filled hm) hm)
theorem fit_tile {d a b : Reg} {fmt : Fin 16} {load : Bool} (hm : s.fit what) : Out.fit what (s.tile d a b fmt load) := by
  unfold State.tile
  refine fit_withFmt hm fun _ => fit_handleMode hm fun _ hm => fit_settle hm (fit_myHandle hm) fun _ _ hm =>
    fit_settle hm (fit_myHandle hm) fun _ _ hm => ?_
  dsimp only
  split
  · exact fit_prot hm
  · split
    · exact fit_prot hm
    · refine fit_streamed hm (fun _ _ _ hm => Got.fit_bind (fit_myView hm) fun _ _ hm =>
      Got.fit_bind (fit_myView hm) fun _ _ hm => ?_) fun _ _ hm => hm
      split
      · exact Got.fit_bind (fit_loadClipped hm) fun _ _ hm => Got.fit_bind (fit_putFilled hm) fun _ _ hm => hm
      · exact Got.fit_bind (fit_loadEls hm) fun _ _ hm => Got.fit_bind (fit_putEls hm) fun _ _ hm => hm
theorem fit_execThld {d a b c : Reg} {th : Bool} {fmt : Fin 16} (hm : s.fit what) :
    Out.fit what (execThld d a b c th fmt s) := by
  unfold execThld
  split
  · exact fit_tile hm
  · exact fit_row hm fun _ _ _ hm => fit_settle hm (Got.fit_bind (fit_myView hm) fun _ _ hm => fit_loadClipped hm) fun _ _ hm =>
    fit_ok (fit_putGroup hm)
theorem fit_execThst {d a b c : Reg} {th : Bool} {fmt : Fin 16} (hm : s.fit what) :
    Out.fit what (execThst d a b c th fmt s) := by
  unfold execThst
  dsimp only
  split
  · exact fit_tile hm
  · exact fit_row hm fun _ _ _ hm => fit_settle hm (Got.fit_bind (fit_myView hm) fun _ _ hm =>
    Got.fit_bind (fit_putEls hm) fun _ _ hm => fit_commit hm) fun _ _ hm => fit_ok hm
theorem fit_execThaddr {d a b c : Reg} (hm : s.fit what) : Out.fit what (execThaddr d a b c s) := by
  unfold execThaddr
  refine fit_plainly hm fun _ hm => fit_settle hm (fit_myHandle hm) fun _ _ hm => ?_
  split
  · exact fit_prot hm
  · exact fit_settle hm (Got.fit_bind (fit_myView hm) fun _ _ hm => Got.fit_bind (fit_fetched hm) fun _ _ hm =>
    hm) fun _ _ hm => fit_res hm
theorem fit_modConv {key : Nat} {f : Conv → Conv} (hm : s.fit what) : (s.modConv key f).fit what := hm
theorem fit_writeConv {c : Conv} {st tval : Nat} (hm : s.fit what) : (s.writeConv c st tval).fit what := by
  unfold State.writeConv
  split
  · exact Got.fit_ok ‹_› (fit_engStore hm)
  · exact hm
theorem fit_wakeTile {obj : Nat} (hm : s.fit what) : (s.wakeTile obj).fit what :=
  fit_foldl hm fun _ _ hm => fit_ite (fit_modThread (fit_unwait hm)) (fit_wake hm)
theorem fit_areaOf {va n : Nat} (hm : s.fit what) : (s.areaOf va n).fit what := by
  unfold State.areaOf
  split
  · refine Got.fit_need (Got.fit_ok ‹_› ?_)
    split
    · exact fit_spanOf hm
    · exact trivial
  · exact trivial
  · exact trivial
  · refine Got.fit_held ‹_› ?_
    split
    · exact fit_spanOf hm
    · exact trivial
  · exact trivial
theorem fit_execRelay {d a b c : Reg} {e : Fin 128} (hm : s.fit what) : Out.fit what (execRelay d a b c e s) := by
  unfold execRelay
  extract_lets +onlyGivenNames va base rec' fl tag
  refine Out.fit_ite (fit_prot hm) (Out.fit_ite (fit_trap hm) (fit_settle hm (fit_record hm) fun r s hm =>
    fit_settle hm (fit_inTurn hm) fun _ s hm => ?_))
  extract_lets +onlyGivenNames h answer
  have hanswer : ∀ (t : State) (v : Nat), t.fit what → Out.fit what (answer t v) := fun _ _ ht => fit_reply ht
  clear_value answer h va base rec' fl tag
  split
  · exact Out.fit_ite (fit_settle hm (Got.fit_bind (fit_engBytes hm) fun _ _ hm => Got.fit_bind (fit_engBytes hm) fun _ _ hm => hm)
      fun _ _ hm => hanswer _ _ (fit_modConv hm)) (hanswer _ _ hm)
  · refine Out.fit_ite (hanswer _ _ hm) ?_
    extract_lets +onlyGivenNames h' n
    clear_value n h'
    refine fit_settle hm (fit_areaOf hm) fun rs s hm => Out.fit_ite (fit_prot hm) (fit_settle hm (fit_storeOf hm) fun nw s hm =>
      fit_settle hm (fit_storeOf hm) fun od s hm => Out.fit_ite (fit_prot hm) (Out.fit_ite (fit_prot hm) (Out.fit_ite (fit_prot hm) ?_)))
    extract_lets +onlyGivenNames die live
    clear_value live die
    refine Out.fit_ite (hanswer _ _ hm) ?_
    extract_lets +onlyGivenNames cv
    clear_value cv
    exact fit_settle hm (Got.fit_bind (fit_inTurn hm) fun _ _ hm => Got.fit_bind (fit_writeSpan hm) fun _ _ hm =>
      Got.fit_bind (fit_writeSpan hm) fun _ _ hm => Got.fit_bind (fit_writeSpan hm) fun _ _ hm => fit_writeSpan hm)
      fun _ s hm => hanswer _ _ (fit_dropHandle (core := s.myCore) (va := va) (all := true) hm)
theorem fit_execThqry {d a : Reg} {op : Fin 64} (hm : s.fit what) : Out.fit what (execThqry d a op s) := by
  unfold execThqry
  refine fit_plainly hm fun _ hm => ?_
  dsimp only
  split
  · exact fit_settle hm (Got.fit_bind (fit_myHandle hm) fun _ _ hm => Got.fit_bind (fit_storeOf hm) fun _ _ hm =>
    hm) fun _ _ hm => fit_reply hm
  · refine fit_settle hm (Got.fit_need (Got.fit_bind (fit_spanOf hm) fun _ _ hm => Got.fit_bind (fit_readLine hm) fun _ _ hm =>
    hm)) fun _ _ hm => ?_
    split
    · exact fit_answered hm
    · split <;> exact fit_answered hm
theorem fit_execThsync {d a : Reg} (hm : s.fit what) : Out.fit what (execThsync d a s) := by
  unfold execThsync
  refine fit_plainly hm fun _ hm => fit_settle hm (fit_record hm) fun _ _ hm => ?_
  split
  · exact fit_res hm
  · split
    · exact fit_next (fit_await hm)
    · exact fit_res hm
theorem fit_endSync {key v : Nat} (hm : s.fit what) : (s.endSync key v).fit what :=
  fit_foldl hm fun _ _ hm => fit_complete hm
theorem fit_moveEls {x : Writer} {old new : Handle} {a : List Ix} (hm : s.fit what) : (s.moveEls x old new a).fit what := by
  induction a generalizing s x old new with
  | nil => exact hm
  | cons a l ih => exact Got.fit_bind (fit_engRead hm) fun _ _ hm => Got.fit_bind (fit_engWrite hm) fun _ _ hm => ih hm
theorem fit_moveBlocks {x : Writer} {old new : Handle} {a : List Ix} (hm : s.fit what) :
    (s.moveBlocks x old new a).fit what := by
  induction a generalizing s x old new with
  | nil => exact hm
  | cons a l ih =>
    exact Got.fit_bind (fit_engBytes hm) fun _ _ hm => Got.fit_bind (fit_engOut hm) fun _ _ hm =>
      Got.fit_bind (fit_engBytes hm) fun _ _ hm => Got.fit_bind (fit_engOut hm) fun _ _ hm => ih hm
theorem fit_moveBands {x : Writer} {old new : Handle} {g : Nat} (hm : s.fit what) : (s.moveBands x old new g).fit what := by
  unfold State.moveBands
  dsimp only
  split
  · exact fit_engOut hm
  · exact Got.fit_bind (fit_engBytes hm) fun _ _ hm => fit_engOut hm
theorem fit_movePads {x : Writer} {new : Handle} {a : List Nat} (hm : s.fit what) : (s.movePads x new a).fit what := by
  induction a generalizing s x new with
  | nil => exact hm
  | cons a l ih => exact Got.fit_bind (fit_engOut hm) fun _ _ hm => ih hm
theorem fit_moveGranule {c : Conv} {g : Nat} (hm : s.fit what) : (s.moveGranule c g).fit what := by
  unfold State.moveGranule
  dsimp only
  split
  · refine Got.fit_bind (fit_moveBlocks hm) fun _ _ hm => ?_
    split
    · exact fit_moveBands hm
    · exact hm
  · refine Got.fit_bind (fit_moveEls hm) fun _ _ hm => ?_
    split
    · exact Got.fit_foldl hm fun _ _ hg => Got.fit_bind hg fun _ _ hm => Got.fit_bind (fit_engBytes hm) fun _ _ hm =>
      fit_engStore hm
    · exact fit_movePads hm
theorem fit_moveSome {one : State → Ix → Got Unit} {a : List Ix} (hone : ∀ t a, t.fit what → (one t a).fit what)
    (hm : s.fit what) : (moveSome one s a).fit what := by
  induction a generalizing s with
  | nil => exact hm
  | cons a l ih =>
    rw [moveSome]
    split
    · exact ih (Got.fit_ok ‹_› (hone _ _ hm))
    · exact hm
theorem fit_moved {c : Conv} {g : Nat} (hm : s.fit what) : (s.moved c g).fit what :=
  fit_ite (fit_moveSome (fun _ _ hm => fit_moveBlocks hm) hm) (fit_moveSome (fun _ _ hm => fit_moveEls hm) hm)
theorem fit_granuleNew {c : Conv} {g : Nat} (hm : s.fit what) : (s.granuleNew c g).fit what :=
  fit_ite hm (fit_wakeTile hm)
theorem fit_execGranuleMove {die : Nat} (hm : s.fit what) : Out.fit what (execGranuleMove die s) := by
  unfold execGranuleMove
  dsimp only
  split
  · exact fit_next hm
  · split
    · exact fit_next hm
    · split
      · exact fit_next (fit_modConv hm)
      · split
        · exact fit_next (fit_granuleNew hm)
        · split
          · exact fit_next (fit_granuleNew (fit_modConv (Got.fit_ok ‹_› (fit_moveGranule hm))))
          · exact fit_next hm
theorem fit_convDone {c : Conv} {st : Nat} (hm : s.fit what) : (s.convDone c st).fit what := by
  fun_cases State.convDone s c st with
  | case1 _ s1 _ _ e =>
    have h1 : s1.fit what := hm
    exact fit_complete? h1 e
  | case2 _ s1 _ _ _ u e =>
    have h1 : s1.fit what := hm
    have hu : u.fit what := fit_snd e (fit_takeId h1)
    exact hu
theorem fit_execConversionComplete {handle : Nat} (hm : s.fit what) : Out.fit what (execConversionComplete handle s) := by
  unfold execConversionComplete
  dsimp only
  split
  · exact fit_next hm
  · split
    · exact fit_next hm
    · refine fit_next ?_
      exact fit_endSync (fit_convDone (fit_writeConv (fit_dropHandle (fit_homeWrite (fit_homeWrite hm)))))
theorem fit_execConversionStop {handle : Nat} (hm : s.fit what) : Out.fit what (execConversionStop handle s) := by
  unfold execConversionStop
  dsimp only
  split
  · exact fit_next hm
  · split
    · exact fit_next hm
    · split
      · exact fit_next hm
      · split
        · exact fit_next (fit_endSync (fit_convDone (fit_writeConv (fit_wakeTile (fit_modConv (fit_moved hm))))))
        · exact fit_next (fit_endSync (fit_convDone (fit_writeConv (fit_wakeTile (fit_modConv (fit_moved hm))))))
        · exact fit_next hm

/-! ### Machine/Tenants -/

theorem fit_giveQuads {part : Nat} {qs : List Nat} (hm : s.fit what) : (s.giveQuads part qs).fit what :=
  fit_foldl hm fun _ _ hm => hm.mem fun h => Memory.wf_rekey _ h _ _
theorem fit_execTenantCreate {fn page : Nat} (hm : s.fit what) : Out.fit what (execTenantCreate fn page s) := by
  refine fit_command1 hm fun c s hm => ?_
  extract_lets +onlyGivenNames part policy qs
  clear_value part policy qs
  split
  · exact fit_deny hm
  · exact Ans.fit_ite (fit_deny hm) (Ans.fit_ite (fit_deny hm) (Ans.fit_ite (fit_deny hm) (fit_giveQuads hm)))
theorem fit_discardHomes {part : Nat} {qs : List Nat} (hm : s.fit what) : (s.discardHomes part qs).fit what := hm
theorem fit_teardown {part : Nat} (hm : s.fit what) : (s.teardown part).fit what := by
  unfold State.teardown
  refine fit_foldl (fit_discardHomes (fit_foldl (fit_foldl (fit_foldl (fit_foldl hm fun _ _ hm => fit_stopRect hm) fun _ _ hm =>
    fit_endDomain (fit_endSaved hm)) fun _ _ hm => fit_writeConv hm) fun _ _ hm => fit_setCore hm)) fun _ _ hm => ?_
  exact hm.mem fun h => List.foldlRecOn _ _ (motive := fun m : Memory => m.wf = true) h fun m h c _ => m.wf_clearCore h _
theorem fit_execTenantTeardown {fn page : Nat} (hm : s.fit what) : Out.fit what (execTenantTeardown fn page s) := by
  unfold execTenantTeardown
  refine fit_command1 hm fun _ _ hm => ?_
  split
  · exact fit_deny hm
  · exact fit_teardown hm
theorem fit_execSetRoots {fn page : Nat} (hm : s.fit what) : Out.fit what (execSetRoots fn page s) := by
  unfold execSetRoots
  refine fit_command1 hm fun _ _ hm => ?_
  dsimp only
  split
  · exact fit_deny hm
  · split
    · exact fit_deny hm
    · exact fit_modPart hm
theorem fit_execSetRates {fn page : Nat} (hm : s.fit what) : Out.fit what (execSetRates fn page s) := by
  refine fit_command1 hm fun c s hm => ?_
  extract_lets +onlyGivenNames part es
  clear_value part es
  exact Ans.fit_ite (fit_deny hm) (Ans.fit_ite (fit_deny hm) (fit_modPart hm))
theorem fit_execSetKeys {fn page : Nat} (hm : s.fit what) : Out.fit what (execSetKeys fn page s) := by
  unfold execSetKeys
  refine fit_command1 hm fun _ _ hm => ?_
  split
  · exact fit_deny hm
  · split
    · exact fit_deny hm
    · exact fit_modPart hm
theorem fit_execSetFabric {fn page : Nat} (hm : s.fit what) : Out.fit what (execSetFabric fn page s) := by
  unfold execSetFabric
  refine fit_command1 hm fun _ _ hm => ?_
  dsimp only
  split
  · exact fit_deny hm
  · split
    · exact fit_deny hm
    · exact hm
theorem fit_execAttest {fn page : Nat} (hm : s.fit what) : Out.fit what (execAttest fn page s) :=
  fit_command1 hm fun _ _ hm => fit_onPart hm fun _ _ hm => fit_hostWrite hm

/-! ### Machine/Loader -/

theorem fit_placeAt {t : State} {part asid perm len : Nat} {taken : List (Nat × Nat)} {x : Nat × List (Nat × Nat)}
    (hm : s.fit what) (e : s.placeAt part asid perm len taken = some (x, t)) : t.fit what := by
  unfold State.placeAt at e
  dsimp only at e
  split at e
  · cases e; exact hm
  · obtain ⟨v, -, hv⟩ := Option.map_eq_some_iff.1 e
    cases hv
    exact hm
theorem fit_putFull {segs : List (Nat × Nat)} {bs : List Byte} (hm : s.fit what) : (s.putFull segs bs).fit what :=
  fit_foldl (fit_segWrite hm) fun _ _ hm => fit_markFull hm
theorem fit_writeImages {b : Based} {z : Zof} (hm : s.fit what) : (s.writeImages b z).fit what :=
  fit_foldl (fit_foldl hm fun _ _ hm => fit_foldl hm fun _ _ hm => fit_putFull hm) fun _ _ hm =>
    fit_ite (fit_foldl (fit_putFull hm) fun _ _ hm => fit_ite (fit_setEmpty hm) hm) (fit_putFull hm)
theorem fit_relocate {b : Based} {z : Zof} (hm : s.fit what) : (s.relocate b z).fit what := by
  unfold State.relocate
  refine fit_foldl hm fun _ _ hm => ?_
  dsimp only
  split
  · exact fit_segWrite hm
  · exact hm
theorem fit_installFns {z : Zof} (hm : s.fit what) : (s.installFns z).fit what := by
  unfold State.installFns
  refine fit_foldl hm fun _ _ hm => ?_
  split
  · exact hm
  · exact fit_foldl hm fun _ _ hm => fit_setBank hm
theorem fit_fillRects {b : Based} {z : Zof} {nums : List Nat} (hm : s.fit what) :
    (s.fillRects b z nums).fit what := by
  unfold State.fillRects
  refine fit_foldl hm fun _ _ hm => fit_foldl (fit_foldl hm fun _ _ hm => fit_setQuad hm) fun _ _ hm => ?_
  dsimp only
  split
  · split
    · exact hm
    · split
      · exact hm
      · split
        · exact fit_modRect (fit_fillSlot (Got.fit_ok ‹_› (Got.fit_bind (fit_handle hm) fun _ _ hm => fit_readImages hm)))
        · exact fit_fillSlot hm
  · exact hm
theorem fit_autoLaunch {b : Based} {z : Zof} {i num : Nat} (hm : s.fit what) : (s.autoLaunch b z i num).fit what :=
  fit_foldl (fit_launch hm) fun _ _ hm => fit_modThread hm
theorem fit_makeDomain {b : Based} {z : Zof} {fn i num : Nat} {d : Dcl} (hm : s.fit what) :
    (s.makeDomain b z fn i num d).fit what := by
  unfold State.makeDomain
  extract_lets +onlyGivenNames x s1 s2 qs s3
  have h1 : s1.fit what := hm.mem Domain.wf_formTable
  have h2 : s2.fit what := fit_foldl h1 fun u row hu => by
    split
    · exact fit_ite (fit_addThread hu) hu
    · exact hu
  clear_value s2
  have h3 : s3.fit what := h2
  exact fit_ite (fit_autoLaunch h3) h3
theorem fit_reuse {nums : List Nat} (hm : s.fit what) : (s.reuse nums).fit what := hm
theorem fit_install {b : Based} {z : Zof} {fn : Nat} {nums : List Nat} (hm : s.fit what) :
    (s.install b z fn nums).fit what := by
  unfold State.install
  refine fit_foldl (fit_fillRects (fit_installFns (fit_relocate (fit_writeImages (fit_reuse hm))))) fun _ _ hm => ?_
  split
  · exact fit_makeDomain hm
  · exact hm
theorem fit_execLoad {fn page : Nat} (hm : s.fit what) : Out.fit what (execLoad fn page s) := by
  refine fit_command1 hm fun c s hm => fit_onPart hm fun p s hm => ?_
  extract_lets +onlyGivenNames asid len f
  refine Ans.fit_ite (fit_deny hm) ?_
  split
  · exact hm
  · extract_lets +onlyGivenNames z nums
    refine Ans.fit_ite (fit_deny hm) ?_
    split
    · exact fit_deny hm
    · next e1 =>
      split
      · exact fit_deny hm
      · next e2 => exact fit_install (fit_placeAt (fit_placeAt hm e1) e2)

/-! ### Machine/Messages -/

theorem fit_inject {h : Nat} {ws : List Nat} (hm : s.fit what) : (s.inject h ws).fit what := hm
theorem fit_execMsndWrite {n a : Reg} (hm : s.fit what) : Out.fit what (execMsndWrite n a s) := by
  unfold execMsndWrite
  dsimp only
  split
  · exact fit_prot hm
  · split
    · split
      · exact fit_prot hm
      · split
        · exact fit_ok (fit_modMe hm)
        · split
          · exact fit_ok (fit_inject hm)
          · exact fit_retry hm
    · split
      · exact fit_ok (fit_modMe hm)
      · split
        · exact fit_ok (fit_inject (fit_modMe hm))
        · exact fit_retry hm
theorem fit_execSend {a b : Reg} {op : Fin 64} (hm : s.fit what) : Out.fit what (execSend a b op s) := by
  unfold execSend
  dsimp only
  split
  · exact fit_prot hm
  · split
    · exact fit_prot hm
    · split
      · exact fit_prot hm
      · split
        · exact fit_ok (fit_inject hm)
        · exact fit_retry hm
theorem fit_takeFlit {t : State} {core slot : Nat} {f : Flit} (hm : s.fit what)
    (e : s.takeFlit core slot = some (f, t)) : t.fit what := by
  unfold State.takeFlit at e
  dsimp only at e
  split at e <;> cases e
  exact hm
theorem fit_parkRecv {d width : Nat} (hm : s.fit what) : (s.parkRecv d width).fit what := fit_parkMe hm
theorem fit_execMrcvRead {d : Reg} (hm : s.fit what) : Out.fit what (execMrcvRead d s) := by
  unfold execMrcvRead
  split
  · exact fit_ok (fit_put (fit_modMe hm))
  · split
    · exact fit_ok (fit_put (fit_modMe (fit_takeFlit hm ‹_›)))
    · exact fit_next (fit_parkRecv hm)
theorem fit_execRecvWait {d : Reg} (hm : s.fit what) : Out.fit what (execRecvWait d s) := by
  unfold execRecvWait
  split
  · exact fit_prot hm
  · split
    · exact fit_ok (fit_modMe (fit_takeFlit hm ‹_›))
    · exact fit_next (fit_parkRecv hm)
theorem fit_execRecvPoll {d : Reg} {pb : PReg} (hm : s.fit what) : Out.fit what (execRecvPoll d pb s) := by
  unfold execRecvPoll
  dsimp only
  split
  · exact fit_prot hm
  · split
    · exact fit_resP (fit_modMe (fit_takeFlit hm ‹_›))
    · exact fit_resP (fit_setCore hm)
theorem fit_execCont {d a : Reg} (hm : s.fit what) : Out.fit what (execCont d a s) := fit_res (fit_modMe hm)
theorem fit_execWaitr {d : Reg} (hm : s.fit what) : Out.fit what (execWaitr d s) := by
  unfold execWaitr
  split
  · exact fit_res hm
  · exact fit_ok (fit_modMe (fit_putN (fit_ite hm (fit_put hm))))
  · exact fit_next (fit_await hm)
theorem fit_takeCompl {t : State} {core slot v : Nat} (hm : s.fit what) (e : s.takeCompl core slot = some (v, t)) :
    t.fit what := by
  unfold State.takeCompl at e
  dsimp only at e
  split at e <;> cases e
  exact hm
theorem fit_execMbox {d : Reg} {pb : PReg} (hm : s.fit what) : Out.fit what (execMbox d pb s) := by
  unfold execMbox
  split
  · exact fit_ok (fit_putP (fit_put (fit_takeCompl hm ‹_›)))
  · exact fit_resP hm
theorem fit_execWaitm {d : Reg} (hm : s.fit what) : Out.fit what (execWaitm d s) := by
  unfold execWaitm
  split
  · exact fit_res (fit_takeCompl hm ‹_›)
  · exact fit_next (fit_parkMe hm)
theorem fit_execUisetOff {d : Reg} (hm : s.fit what) : Out.fit what (execUisetOff d s) :=
  fit_user hm fun _ hm => fit_res (fit_modMe hm)
theorem fit_execUisetOn {d : Reg} (hm : s.fit what) : Out.fit what (execUisetOn d s) :=
  fit_user hm fun _ hm => fit_res (fit_modMe hm)
theorem fit_execUserLevelInterrupt {gid : Nat} (hm : s.fit what) : Out.fit what (execUserLevelInterrupt gid s) := by
  unfold execUserLevelInterrupt
  dsimp only
  split
  · exact fit_next hm
  · split
    · exact fit_next (fit_interrupt hm)
    · exact fit_next hm
theorem fit_deliverFlit {t : Thread} {w : Wait} {f : Flit} (hm : s.fit what) : (s.deliverFlit t w f).fit what :=
  fit_ite (fit_wake (fit_modThread hm)) (fit_wake (fit_modThread hm))
theorem fit_dropMsg {id : Nat} (hm : s.fit what) : (s.dropMsg id).fit what := hm
theorem fit_refuseOrStore {m : Msg} {c : Core} {g : Nat} (hm : s.fit what) : (s.refuseOrStore m c g).fit what :=
  fit_ite (fit_setCore (fit_dropMsg hm)) hm
theorem fit_execMessageArrival {req : Nat} (hm : s.fit what) : Out.fit what (execMessageArrival req s) := by
  unfold execMessageArrival
  dsimp only
  split
  · exact fit_next hm
  · split
    · exact fit_next hm
    · split
      · exact fit_next (fit_dropMsg hm)
      · split
        · exact fit_next (fit_dropMsg hm)
        · split
          · split
            · exact fit_next (fit_deliverFlit (fit_dropMsg hm))
            · exact fit_next (fit_refuseOrStore hm)
          · exact fit_next (fit_refuseOrStore hm)
theorem fit_applyCont {h v : Nat} {dom : Option Nat} (hm : s.fit what) : (s.applyCont h v dom).2.fit what := by
  unfold State.applyCont
  dsimp only
  split
  · exact hm
  · split
    · split
      · exact hm
      · split
        · split
          · exact fit_putFor (fit_complete (fit_modThread hm))
          · exact fit_modThread hm
        · split
          · exact fit_putFor (fit_complete (fit_modThread hm))
          · exact fit_modThread hm
    · split
      · exact hm
      · split
        · split
          · exact fit_putFor (fit_complete (fit_modThread hm))
          · exact fit_modThread hm
        · split
          · exact fit_putFor (fit_complete (fit_modThread hm))
          · exact fit_modThread hm
theorem fit_execContinuationArrival {req : Nat} (hm : s.fit what) : Out.fit what (execContinuationArrival req s) := by
  unfold execContinuationArrival
  dsimp only
  split
  · exact fit_next hm
  · split
    · exact fit_next hm
    · split
      · exact fit_next (fit_applyCont (fit_dropMsg hm))
      · split
        · exact fit_next (fit_applyCont (fit_dropMsg hm))
        · refine fit_next (fit_answer (fit_modReq (fit_modThread ?_)))
          split <;> exact fit_applyCont (fit_dropMsg hm)
theorem fit_execMessageResend {req : Nat} (hm : s.fit what) : Out.fit what (execMessageResend req s) := fit_next hm
theorem fit_execPostedReceiveExpiry {core slot : Nat} (hm : s.fit what) :
    Out.fit what (execPostedReceiveExpiry core slot s) :=
  (fit_next hm)

/-! ### Machine/Reduce -/

theorem fit_reduce {as : List Reg} {th : Bool} {fmt : Fin 16} {ok : Nat → Bool} {unit : Nat → Nat}
    {el : Nat → List Nat → Nat} {fin : Nat → List Nat → State → State} (hm : s.fit what)
    (hfin : ∀ a b t, t.fit what → (fin a b t).fit what) : Out.fit what (s.reduce as th fmt ok unit el fin) := by
  unfold State.reduce
  refine fit_withFmt hm fun _ => ?_
  dsimp only
  split
  · refine fit_handleMode hm fun _ hm => fit_settle hm (fit_myHandles hm) fun _ _ hm => ?_
    split
    · exact fit_prot hm
    · exact fit_prot hm
    · exact fit_streamed hm (fun _ _ _ hm => Got.fit_bind (fit_getAll hm) fun _ _ hm => hm) fun _ _ hm => hfin _ _ _ hm
  · exact fit_ok (hfin _ _ _ (fit_charge hm))
theorem fit_execVcnt {d a : Reg} {th : Bool} {fmt : Fin 16} (hm : s.fit what) : Out.fit what (execVcnt d a th fmt s) :=
  fit_reduce hm fun _ _ _ hm => fit_put hm
theorem fit_execVdot {d a b : Reg} {th : Bool} {fmt : Fin 16} (hm : s.fit what) : Out.fit what (execVdot d a b th fmt s) :=
  fit_reduce hm fun _ _ _ hm => fit_put hm
theorem fit_execVsum {d a : Reg} {th : Bool} {fmt : Fin 16} (hm : s.fit what) : Out.fit what (execVsum d a th fmt s) :=
  fit_reduce hm fun _ _ _ hm => fit_put hm
theorem fit_execVrmax {d a : Reg} {th : Bool} {fmt : Fin 16} (hm : s.fit what) : Out.fit what (execVrmax d a th fmt s) :=
  fit_reduce hm fun _ _ _ hm => fit_put hm
theorem fit_execVrmin {d a : Reg} {th : Bool} {fmt : Fin 16} (hm : s.fit what) : Out.fit what (execVrmin d a th fmt s) :=
  fit_reduce hm fun _ _ _ hm => fit_put hm
theorem fit_execVscan {d a : Reg} {th : Bool} {fmt : Fin 16} (hm : s.fit what) : Out.fit what (execVscan d a th fmt s) := by
  unfold execVscan
  refine fit_withFmt hm fun _ => ?_
  dsimp only
  split
  · refine fit_handleMode hm fun _ hm => fit_settle hm (fit_myHandle hm) fun _ _ hm =>
    fit_settle hm (fit_myHandle hm) fun _ _ hm => ?_
    split
    · exact fit_prot hm
    · exact fit_prot hm
    · exact fit_streamed hm (fun _ _ _ hm => Got.fit_bind (fit_myView hm) fun _ _ hm =>
      Got.fit_bind (fit_getAll hm) fun _ _ hm => Got.fit_bind (fit_putEls hm) fun _ _ hm => hm) fun _ _ hm => hm
  · exact fit_ok (fit_charge (fit_putGroup hm))
theorem fit_execVnorm {d a b : Reg} {th : Bool} {fmt : Fin 16} (hm : s.fit what) :
    Out.fit what (execVnorm d a b th fmt s) := by
  unfold execVnorm
  refine fit_withFmt hm fun _ => ?_
  dsimp only
  split
  · refine fit_handleMode hm fun _ hm => fit_settle hm (fit_myHandle hm) fun _ _ hm =>
    fit_settle hm (fit_myHandle hm) fun _ _ hm => ?_
    split
    · exact fit_prot hm
    · exact fit_prot hm
    · refine fit_streamed hm (fun _ _ _ hm => Got.fit_bind (fit_myView hm) fun _ _ hm => ?_) fun _ _ hm => hm
      split
      · exact Got.fit_bind (fit_getAll hm) fun _ _ hm => hm
      · exact Got.fit_bind (fit_putEls hm) fun _ _ hm => hm
  · exact fit_ok (fit_charge (fit_putGroup hm))
theorem fit_withK {fmt : Fin 16} {f : Nat → Out} (hm : s.fit what) (hf : ∀ a, Out.fit what (f a)) :
    Out.fit what (s.withK fmt f) := by
  unfold State.withK
  dsimp only
  split
  · exact hf _ 
  · split
    · exact fit_trap hm
    · exact fit_prot hm
theorem fit_listSpan {need va k : Nat} (hm : s.fit what) : (s.listSpan need va k).fit what := Got.fit_need (fit_spanOf hm)
theorem fit_writeList {va : Nat} {sp : Span} {l : List Nat} (hm : s.fit what) : (s.writeList va sp l).fit what := by
  unfold State.writeList
  refine Got.fit_foldl hm fun _ _ hg => Got.fit_bind hg fun _ _ hm => ?_
  split
  · exact hm
  · exact fit_writeSpan hm
theorem fit_execVtopk {d a b : Reg} {e : Fin 128} {_th : Bool} {fmt : Fin 16} (hm : s.fit what) :
    Out.fit what (execVtopk d a b e _th fmt s) := by
  unfold execVtopk
  refine fit_withK hm fun _ => fit_handleMode hm fun _ hm => fit_settle hm (fit_listSpan hm) fun _ _ hm =>
    fit_settle hm (fit_myHandle hm) fun _ _ hm => ?_
  dsimp only
  split
  · exact fit_prot hm
  · refine fit_streamed hm (fun _ _ _ hm => Got.fit_bind (fit_listSpan hm) fun _ _ hm =>
    Got.fit_bind (fit_getAll hm) fun _ _ hm => ?_) fun _ _ hm => hm
    split
    · exact Got.fit_bind (fit_writeList hm) fun _ _ hm => hm
    · exact hm
theorem fit_execVmrgkLocal {d a b : Reg} {e : Fin 128} {fmt : Fin 16} (hm : s.fit what) :
    Out.fit what (execVmrgkLocal d a b e fmt s) := by
  unfold execVmrgkLocal
  dsimp only
  exact fit_withK hm fun _ => fit_plainly hm fun _ hm => fit_settle hm (Got.fit_bind (fit_listSpan hm) fun _ _ hm =>
    Got.fit_bind (fit_listSpan hm) fun _ _ hm => Got.fit_bind (fit_listSpan hm) fun _ _ hm =>
    Got.fit_bind (fit_fetched hm) fun _ _ hm => Got.fit_bind (fit_readSpan hm) fun _ _ hm =>
    Got.fit_bind (fit_readSpan hm) fun _ _ hm => Got.fit_bind (fit_writeList hm) fun _ _ hm => fit_commit hm)
    fun _ _ hm => fit_ok (fit_charge hm)
theorem fit_execVmrgkBank {d a : Reg} {e : Fin 128} {fmt : Fin 16} (hm : s.fit what) :
    Out.fit what (execVmrgkBank d a e fmt s) := by
  unfold execVmrgkBank
  refine fit_withK hm fun _ => ?_
  dsimp only
  split
  · exact fit_prot hm
  · refine fit_plainly hm fun _ hm => fit_settle hm (Got.fit_bind (fit_listSpan hm) fun _ _ hm =>
    Got.fit_bind (fit_listSpan hm) fun _ _ hm => Got.fit_bind (fit_readSpan hm) fun _ _ hm => hm) fun _ _ hm => ?_
    split
    · exact fit_ok (fit_charge hm)
    · exact fit_ask (fit_charge hm)
theorem fit_execVsmx {d a : Reg} {th : Bool} {fmt : Fin 16} (hm : s.fit what) : Out.fit what (execVsmx d a th fmt s) := by
  unfold execVsmx
  exact fit_reduce hm fun _ _ _ hm => fit_put hm
theorem fit_execVsmn {d a b : Reg} {th : Bool} {fmt : Fin 16} (hm : s.fit what) : Out.fit what (execVsmn d a b th fmt s) := by
  unfold execVsmn
  exact fit_vmap hm
theorem fit_execVsamp {d a b : Reg} {fmt : Fin 16} (hm : s.fit what) : Out.fit what (execVsamp d a b fmt s) :=
  fit_withFmt hm fun _ => fit_ok (fit_charge (fit_put hm))
theorem fit_execRng {d a b : Reg} (hm : s.fit what) : Out.fit what (execRng d a b s) := by
  unfold execRng
  split
  · exact fit_ok (fit_charge (fit_put (fit_spend hm)))
  · exact fit_ok (fit_charge (fit_put hm))

/-! ### Machine/Tasks -/

theorem fit_alone {f : State → Out} (hm : s.fit what) (hf : ∀ t, t.fit what → Out.fit what (f t)) :
    Out.fit what (s.alone f) := by
  unfold State.alone
  split
  · exact fit_protOpc hm
  · exact hf _ hm
theorem fit_execSpawn {d a b : Reg} {slot : Fin 64} {imm : BitVec 32} (hm : s.fit what) :
    Out.fit what (execSpawn d a b slot imm s) := by
  unfold execSpawn
  refine fit_alone hm fun _ hm => fit_toTarget hm fun _ _ hm => ?_
  dsimp only
  split
  · exact fit_trap hm
  · split
    · exact fit_next (fit_jump (fit_put hm))
    · split
      · exact fit_retry hm
      · exact fit_next (fit_jump (fit_put (fit_pushEntry hm)))
theorem fit_execRspawn {d a b : Reg} {slot : Fin 64} {imm : BitVec 32} (hm : s.fit what) :
    Out.fit what (execRspawn d a b slot imm s) := by
  unfold execRspawn
  refine fit_alone hm fun _ hm => ?_
  dsimp only
  split
  · exact fit_prot hm
  · refine fit_toTarget hm fun _ _ hm => ?_
    split
    · exact fit_trap hm
    · split
      · exact fit_retry hm
      · split
        · exact fit_reply hm
        · split
          · exact fit_reply hm
          · exact fit_reply (fit_create hm)
theorem fit_wakeFrame {k : Nat} (hm : s.fit what) : (s.wakeFrame k).fit what :=
  fit_foldl hm fun _ _ hm => fit_wake hm
theorem fit_unholdFrame {k g : Nat} (hm : s.fit what) : (s.unholdFrame k g).fit what := hm
theorem fit_frameSync {d : Reg} {ea : Nat} (hm : s.fit what) : Out.fit what (s.frameSync d ea) := by
  unfold State.frameSync
  refine Acc.fit_bind (fit_bankAccess hm) (fun _ hm => fit_res hm) fun k s hm => ?_
  generalize s.readN k 8 = count
  split
  · exact fit_retry hm
  · exact fit_trap hm
  · exact Out.fit_ite (fit_reply hm) (fit_next (fit_parkMe hm))
theorem fit_strandEnd {ea : Nat} (hm : s.fit what) : Out.fit what (s.strandEnd ea) := by
  unfold State.strandEnd
  refine Acc.fit_bind (fit_bankAccess hm) (fun _ hm => fit_next (fit_haltThread hm)) fun _ _ hm => ?_
  dsimp only
  split
  · exact fit_retry hm
  · exact fit_trap hm
  · split
    · exact fit_retry hm
    · split
      · exact fit_retry (fit_cedeSome hm)
      · exact fit_retire (fit_cedeSome hm) fun _ hm =>
        fit_next (fit_haltThread (fit_ite (fit_wakeFrame (fit_unholdFrame (fit_homeWrite hm))) (fit_unholdFrame (fit_homeWrite hm))))
theorem fit_execFjoin {d a b : Reg} (hm : s.fit what) : Out.fit what (execFjoin d a b s) := by
  unfold execFjoin
  refine fit_user hm fun _ hm => ?_
  dsimp only
  split
  · exact fit_frameSync hm
  · split
    · exact fit_next (fit_jump (fit_put hm))
    · split
      · exact fit_prot hm
      · split
        · exact fit_strandEnd hm
        · split
          · exact fit_next (fit_jump (fit_put (fit_setCore hm)))
          · exact fit_prot hm
theorem fit_execFjoinSync {d a : Reg} (hm : s.fit what) : Out.fit what (execFjoinSync d a s) :=
  fit_user hm fun _ hm => fit_frameSync hm
theorem fit_packet {ea : Nat} {priv : Bool} {f : Nat → List Nat → State → Out} (hm : s.fit what)
    (hf : ∀ a b t, t.fit what → Out.fit what (f a b t)) : Out.fit what (s.packet ea priv f) := by
  unfold State.packet
  dsimp only
  split
  · exact fit_trap hm
  · split
    · exact fit_trap hm
    · split
      · split
        · exact fit_prot hm
        · refine Acc.fit_bind (fit_access hm) (fun _ hm => hf _ _ _ hm) fun _ _ hm => ?_
          split
          · exact fit_retry hm
          · split
            · exact fit_trap hm
            · exact hf _ _ _ hm
      · split
        · exact fit_prot hm
        · refine Acc.fit_bind (fit_access hm) (fun _ hm => hf _ _ _ hm) fun _ _ hm => ?_
          split
          · exact fit_retry hm
          · split
            · exact fit_trap hm
            · exact hf _ _ _ hm
      · split
        · exact fit_prot hm
        · refine Acc.fit_bind (fit_access hm) (fun _ hm => hf _ _ _ hm) fun _ _ hm => ?_
          split
          · exact fit_retry hm
          · split
            · exact fit_trap hm
            · exact hf _ _ _ hm
      · split
        · exact fit_prot hm
        · refine Acc.fit_bind (fit_access hm) (fun _ hm => hf _ _ _ hm) fun _ _ hm => ?_
          split
          · exact fit_retry hm
          · split
            · exact fit_trap hm
            · exact hf _ _ _ hm
theorem fit_execPktBeg {d a : Reg} (hm : s.fit what) : Out.fit what (execPktBeg d a s) := by
  unfold execPktBeg
  refine fit_alone hm fun _ hm => ?_
  dsimp only
  split
  · exact fit_protOpc hm
  · split
    · exact fit_res hm
    · refine fit_packet hm fun _ _ _ hm => ?_
      split
      · exact fit_prot hm
      · split
        · exact fit_res (fit_modMe hm)
        · exact fit_reply (fit_modMe hm)
theorem fit_execPktEnd (hm : s.fit what) : Out.fit what (execPktEnd s) := by
  unfold execPktEnd
  refine fit_alone hm fun _ hm => ?_
  split
  · exact fit_protOpc hm
  · split
    · exact fit_ok hm
    · exact fit_retire hm fun _ hm => fit_ok (fit_modMe hm)
theorem fit_execPktDisp {d a b : Reg} (hm : s.fit what) : Out.fit what (execPktDisp d a b s) := by
  unfold execPktDisp
  refine fit_alone hm fun _ hm => ?_
  dsimp only
  split
  · exact fit_protOpc hm
  · refine fit_packet hm fun _ _ _ hm => ?_
    split
    · exact fit_prot hm
    · refine fit_toTarget hm fun _ _ hm => ?_
      split
      · exact fit_trap hm
      · split
        · split
          · exact fit_prot hm
          · split
            · exact fit_retry hm
            · split
              · exact fit_reply hm
              · exact fit_reply (fit_pushEntry hm)
        · split
          · exact fit_prot hm
          · split
            · exact fit_retry hm
            · split
              · exact fit_reply hm
              · exact fit_reply (fit_pushEntry hm)
theorem fit_setRoles {roles : Nat} (hm : s.fit what) : (s.setRoles roles).fit what :=
  fit_foldl (fit_modMe hm) fun _ _ hm => fit_ite (fit_hold (fit_unhold hm)) (fit_unhold hm)
theorem fit_execQmapSet {d a : Reg} (hm : s.fit what) : Out.fit what (execQmapSet d a s) := by
  unfold execQmapSet
  refine fit_user hm fun _ hm => ?_
  dsimp only
  split
  · exact fit_prot hm
  · split
    · exact fit_protOpc hm
    · split
      · exact fit_res hm
      · exact fit_res (fit_setRoles hm)
theorem fit_execQmapOff {d : Reg} (hm : s.fit what) : Out.fit what (execQmapOff d s) :=
  fit_alone hm fun _ hm => fit_res (fit_setRoles hm)

/-! ### Machine/Dispatch -/

/-- Whatever an instruction does, memory stays canonical. -/
theorem fit_exec (i : Instr) (hm :
    s.fit what) (hg : what = .single → (s.quad (gidQk s.iss.gid)).gang = none) : Out.fit what (exec i s) :=
  match i with
  | .nop => fit_execNop hm
  | .br .. => fit_execBr hm
  | .brc .. => fit_execBrc hm
  | .brr .. => fit_execBrr hm
  | .call .. => fit_execCall hm
  | .ret .. => fit_execRet hm
  | .loop .. => fit_execLoop hm
  | .halt => fit_execHalt hm hg
  | .pause => fit_execPause hm hg
  | .emit .. => fit_execEmit hm
  | .emitv .. => fit_execEmitv hm
  | .pres .. => fit_execPres hm
  | .cede .. => fit_execCede hm
  | .claim .. => fit_execClaim hm
  | .unclaim .. => fit_execUnclaim hm
  | .sigvCur .. => fit_execSigvCur hm
  | .sigvPrev .. => fit_execSigvPrev hm
  | .abortw .. => fit_execAbortw hm
  | .suspw .. => fit_execSuspw hm
  | .endw => fit_execEndw hm
  | .fork .. => fit_execFork hm
  | .join => fit_execJoin hm
  | .instNum .. => fit_execInstNum hm
  | .instSeed .. => fit_execInstSeed hm
  | .instNsig .. => fit_execInstNsig hm
  | .trig .. => fit_execTrig hm
  | .gangWait => fit_execGangWait hm
  | .gangOn .. => fit_execGangOn hm
  | .gangOff => fit_execGangOff hm
  | .add .. => fit_execAdd hm
  | .sub .. => fit_execSub hm
  | .addi .. => fit_execAddi hm
  | .mul .. => fit_execMul hm
  | .mulh .. => fit_execMulh hm
  | .div .. => fit_execDiv hm
  | .rem .. => fit_execRem hm
  | .min .. => fit_execMin hm
  | .max .. => fit_execMax hm
  | .abs .. => fit_execAbs hm
  | .and .. => fit_execAnd hm
  | .or .. => fit_execOr hm
  | .xor .. => fit_execXor hm
  | .andn .. => fit_execAndn hm
  | .orn .. => fit_execOrn hm
  | .shl .. => fit_execShl hm
  | .shlImm .. => fit_execShlImm hm
  | .shr .. => fit_execShr hm
  | .shrImm .. => fit_execShrImm hm
  | .sar .. => fit_execSar hm
  | .sarImm .. => fit_execSarImm hm
  | .rol .. => fit_execRol hm
  | .rolImm .. => fit_execRolImm hm
  | .clz .. => fit_execClz hm
  | .ctz .. => fit_execCtz hm
  | .popc .. => fit_execPopc hm
  | .brev .. => fit_execBrev hm
  | .bfx .. => fit_execBfx hm
  | .bfi .. => fit_execBfi hm
  | .cmp .. => fit_execCmp hm
  | .cmpi .. => fit_execCmpi hm
  | .sel .. => fit_execSel hm
  | .movi .. => fit_execMovi hm
  | .moviZx .. => fit_execMoviZx hm
  | .moviHi .. => fit_execMoviHi hm
  | .mov .. => fit_execMov hm
  | .movFromSpecial .. => fit_execMovFromSpecial hm
  | .mrcvRead .. => fit_execMrcvRead hm
  | .msndWrite .. => fit_execMsndWrite hm
  | .movFromPred .. => fit_execMovFromPred hm
  | .movToPred .. => fit_execMovToPred hm
  | .plog .. => fit_execPlog hm
  | .lea .. => fit_execLea hm
  | .mad .. => fit_execMad hm
  | .sext .. => fit_execSext hm
  | .zext .. => fit_execZext hm
  | .cvti .. => fit_execCvti hm
  | .fadd .. => fit_execFadd hm
  | .fmul .. => fit_execFmul hm
  | .ffma .. => fit_execFfma hm
  | .fcmp .. => fit_execFcmp hm
  | .ld .. => fit_execLd hm
  | .st .. => fit_execSt hm
  | .ldfe .. => fit_execLdfe hm
  | .stef .. => fit_execStef hm
  | .ldff .. => fit_execLdff hm
  | .stff .. => fit_execStff hm
  | .fesetFull .. => fit_execFesetFull hm
  | .fesetEmpty .. => fit_execFesetEmpty hm
  | .feqry .. => fit_execFeqry hm
  | .ldp .. => fit_execLdp hm
  | .stp .. => fit_execStp hm
  | .ldc .. => fit_execLdc hm
  | .upd .. => fit_execUpd hm
  | .updr .. => fit_execUpdr hm
  | .updcfgLd .. => fit_execUpdcfgLd hm
  | .updcfgSt .. => fit_execUpdcfgSt hm
  | .updcfgClr .. => fit_execUpdcfgClr hm
  | .cas .. => fit_execCas hm
  | .lrw .. => fit_execLrw hm
  | .sch .. => fit_execSch hm
  | .rsvx .. => fit_execRsvx hm
  | .fenceCore => fit_execFenceCore hm
  | .fence .. => fit_execFence hm
  | .fenceDrn .. => fit_execFenceDrn hm
  | .lda .. => fit_execLda hm
  | .stl .. => fit_execStl hm
  | .barNetwork .. => fit_execBarNetwork hm
  | .barDrain .. => fit_execBarDrain hm
  | .barObject .. => fit_execBarObject hm
  | .barinit .. => fit_execBarinit hm
  | .migr .. => fit_execMigr hm
  | .swap .. => fit_execSwap hm
  | .stm .. => fit_execStm hm
  | .fetchadd .. => fit_execFetchadd hm
  | .fetchaddImm .. => fit_execFetchaddImm hm
  | .zfill .. => fit_execZfill hm
  | .wregHold .. => fit_execWregHold hm
  | .wregFe .. => fit_execWregFe hm
  | .wunreg .. => fit_execWunreg hm
  | .wwait .. => fit_execWwait hm
  | .wsig .. => fit_execWsig hm
  | .prioSet .. => fit_execPrioSet hm
  | .prioMax .. => fit_execPrioMax hm
  | .trapNothing .. => fit_execTrapNothing hm
  | .trapTime .. => fit_execTrapTime hm
  | .trapUserAbort .. => fit_execTrapUserAbort hm
  | .trapPostFaultQueue .. => fit_execTrapPostFaultQueue hm
  | .rft => fit_execRft hm
  | .srr .. => fit_execSrr hm
  | .srw .. => fit_execSrw hm
  | .srwEbud .. => fit_execSrwEbud hm
  | .tlbiAll => fit_execTlbiAll hm
  | .tlbiPage .. => fit_execTlbiPage hm
  | .tlbiAsid .. => fit_execTlbiAsid hm
  | .monSel .. => fit_execMonSel hm
  | .monEdge .. => fit_execMonEdge hm
  | .monRd .. => fit_execMonRd hm
  | .monOff .. => fit_execMonOff hm
  | .wdarm .. => fit_execWdarm hm
  | .vadd .. => fit_execVadd hm
  | .vsub .. => fit_execVsub hm
  | .vmul .. => fit_execVmul hm
  | .vfma .. => fit_execVfma hm
  | .vdiv .. => fit_execVdiv hm
  | .vmin .. => fit_execVmin hm
  | .vmax .. => fit_execVmax hm
  | .vabs .. => fit_execVabs hm
  | .vneg .. => fit_execVneg hm
  | .vcmp .. => fit_execVcmp hm
  | .vsel .. => fit_execVsel hm
  | .vand .. => fit_execVand hm
  | .vor .. => fit_execVor hm
  | .vxor .. => fit_execVxor hm
  | .vshl .. => fit_execVshl hm
  | .vshr .. => fit_execVshr hm
  | .vsar .. => fit_execVsar hm
  | .vexp .. => fit_execVexp hm
  | .vexp2 .. => fit_execVexp2 hm
  | .vlog .. => fit_execVlog hm
  | .vrcp .. => fit_execVrcp hm
  | .vrsq .. => fit_execVrsq hm
  | .vsqrt .. => fit_execVsqrt hm
  | .vtanh .. => fit_execVtanh hm
  | .vsgm .. => fit_execVsgm hm
  | .vsilu .. => fit_execVsilu hm
  | .vcvt .. => fit_execVcvt hm
  | .vqnt .. => fit_execVqnt hm
  | .vdeq .. => fit_execVdeq hm
  | .vscl .. => fit_execVscl hm
  | .vfill .. => fit_execVfill hm
  | .vcpy .. => fit_execVcpy hm
  | .vbcast .. => fit_execVbcast hm
  | .vperm .. => fit_execVperm hm
  | .vclamp .. => fit_execVclamp hm
  | .vround .. => fit_execVround hm
  | .vdot .. => fit_execVdot hm
  | .vlerp .. => fit_execVlerp hm
  | .vnorm .. => fit_execVnorm hm
  | .vmask .. => fit_execVmask hm
  | .vsum .. => fit_execVsum hm
  | .vrmax .. => fit_execVrmax hm
  | .vrmin .. => fit_execVrmin hm
  | .vscan .. => fit_execVscan hm
  | .vtopk _ _ _ _ h _ => fit_execVtopk (_th := h) hm
  | .vmrgkLocal .. => fit_execVmrgkLocal hm
  | .vmrgkBank .. => fit_execVmrgkBank hm
  | .vsmx .. => fit_execVsmx hm
  | .vsmn .. => fit_execVsmn hm
  | .vsamp .. => fit_execVsamp hm
  | .rng .. => fit_execRng hm
  | .vrng .. => fit_execVrng hm
  | .vcnt .. => fit_execVcnt hm
  | .mload .. => fit_execMload hm
  | .mmul .. => fit_execMmul hm
  | .mcfgMask .. => fit_execMcfgMask hm
  | .mcfgCancel .. => fit_execMcfgCancel hm
  | .maccClr .. => fit_execMaccClr hm
  | .maccScl .. => fit_execMaccScl hm
  | .mstat .. => fit_execMstat hm
  | .thdef .. => fit_execThdef hm
  | .thld .. => fit_execThld hm
  | .thst .. => fit_execThst hm
  | .thaddr .. => fit_execThaddr hm
  | .relay .. => fit_execRelay hm
  | .thqry .. => fit_execThqry hm
  | .thsync .. => fit_execThsync hm
  | .send .. => fit_execSend hm
  | .recvWait .. => fit_execRecvWait hm
  | .recvPoll .. => fit_execRecvPoll hm
  | .cont .. => fit_execCont hm
  | .waitr .. => fit_execWaitr hm
  | .cpyq .. => fit_execCpyq hm
  | .cpyqw .. => fit_execCpyqw hm
  | .gath .. => fit_execGath hm
  | .scat .. => fit_execScat hm
  | .mbox .. => fit_execMbox hm
  | .waitm .. => fit_execWaitm hm
  | .uisetOff .. => fit_execUisetOff hm
  | .uisetOn .. => fit_execUisetOn hm
  | .rspawn .. => fit_execRspawn hm
  | .spawn .. => fit_execSpawn hm
  | .fjoin .. => fit_execFjoin hm
  | .fjoinSync .. => fit_execFjoinSync hm
  | .qmapSet .. => fit_execQmapSet hm
  | .qmapOff .. => fit_execQmapOff hm
  | .iqdefNew .. => fit_execIqdefNew hm
  | .iqdefDel .. => fit_execIqdefDel hm
  | .iqpush .. => fit_execIqpush hm
  | .iqpop .. => fit_execIqpop hm
  | .iqcons .. => fit_execIqcons hm
  | .arrget .. => fit_execArrget hm
  | .arradd .. => fit_execArradd hm
  | .iqbind .. => fit_execIqbind hm
  | .iqstat .. => fit_execIqstat hm
  | .pktBeg .. => fit_execPktBeg hm
  | .pktEnd => fit_execPktEnd hm
  | .pktDisp .. => fit_execPktDisp hm
  | .commandSubmission .. => fit_execCommandSubmission hm
  | .attach .. => fit_execAttach hm
  | .reAttach .. => fit_execReAttach hm
  | .load .. => fit_execLoad hm
  | .launch .. => fit_execLaunch hm
  | .emitInput .. => fit_execEmitInput hm
  | .readOutputs .. => fit_execReadOutputs hm
  | .suspend .. => fit_execSuspend hm
  | .resume .. => fit_execResume hm
  | .abort .. => fit_execAbort hm
  | .endStatus .. => fit_execEndStatus hm
  | .faultAnswer .. => fit_execFaultAnswer hm
  | .healthRead .. => fit_execHealthRead hm
  | .setFaultQueue .. => fit_execSetFaultQueue hm
  | .tenantCreate .. => fit_execTenantCreate hm
  | .tenantTeardown .. => fit_execTenantTeardown hm
  | .setRoots .. => fit_execSetRoots hm
  | .setRates .. => fit_execSetRates hm
  | .setFabric .. => fit_execSetFabric hm
  | .setKeys .. => fit_execSetKeys hm
  | .attest .. => fit_execAttest hm
  | .completionRecord .. => fit_execCompletionRecord hm
  | .consumedCountPoll .. => fit_execConsumedCountPoll hm
  | .hostPostedWrite .. => fit_execHostPostedWrite hm
  | .packageReset => fit_execPackageReset hm
  | .lull .. => fit_execLull hm
  | .energyRefill .. => fit_execEnergyRefill hm
  | .watchdogFiring .. => fit_execWatchdogFiring hm
  | .cedeApply .. => fit_execCedeApply hm
  | .replyArrival .. => fit_execReplyArrival hm
  | .homeAccess .. => fit_execHomeAccess hm
  | .feRetryResend .. => fit_execFeRetryResend hm
  | .bankUpdateArrival .. => fit_execBankUpdateArrival hm
  | .drain .. => fit_execDrain hm
  | .backgroundChecker .. => fit_execBackgroundChecker hm
  | .walkCrossing .. => fit_execWalkCrossing hm
  | .deferredFaultReport .. => fit_execDeferredFaultReport hm
  | .supervisorTrapService .. => fit_execSupervisorTrapService hm
  | .pageWalkComplete .. => fit_execPageWalkComplete hm
  | .walkFifoRetry .. => fit_execWalkFifoRetry hm
  | .copyStart .. => fit_execCopyStart hm
  | .copyCompletion .. => fit_execCopyCompletion hm
  | .streamerCompletion .. => fit_execStreamerCompletion hm
  | .userLevelInterrupt .. => fit_execUserLevelInterrupt hm
  | .messageArrival .. => fit_execMessageArrival hm
  | .continuationArrival .. => fit_execContinuationArrival hm
  | .messageResend .. => fit_execMessageResend hm
  | .flitRoute .. => fit_execFlitRoute hm
  | .packetUrgent .. => fit_execPacketUrgent hm
  | .driftWindow .. => fit_execDriftWindow hm
  | .bucketAdmit .. => fit_execBucketAdmit hm
  | .stealAttempt .. => fit_execStealAttempt hm
  | .postBufferDrain .. => fit_execPostBufferDrain hm
  | .iqSpillRefill .. => fit_execIqSpillRefill hm
  | .granuleMove .. => fit_execGranuleMove hm
  | .conversionComplete .. => fit_execConversionComplete hm
  | .conversionStop .. => fit_execConversionStop hm
  | .mmulComplete .. => fit_execMmulComplete hm
  | .sequencerStop .. => fit_execSequencerStop hm
  | .patrolScrub .. => fit_execPatrolScrub hm
  | .linkFlitError .. => fit_execLinkFlitError hm
  | .machineCheck .. => fit_execMachineCheck hm
  | .packageLoss .. => fit_execPackageLoss hm
  | .thermalAlarm .. => fit_execThermalAlarm hm
  | .monitorSample _ _ v => fit_execMonitorSample (_value := v) hm
  | .arrangementAddApply .. => fit_execArrangementAddApply hm
  | .barrelIssue .. => fit_execBarrelIssue hm
  | .mloadComplete .. => fit_execMloadComplete hm
  | .postedReceiveExpiry .. => fit_execPostedReceiveExpiry hm
  | .registersWindowRead .. => trivial

/-! ### Machine/Schedule -/

theorem fit_auto (hm : s.fit what) : Out.fit what s.auto := fit_next hm
theorem fit_passes {dt : Nat} (hm : s.fit what) : (s.passes dt).fit what := fit_ite hm (fit_sequencers hm)
theorem fit_settleQueues {a : Nat} {b : State} (hm : b.fit what) : (State.settleQueues a b).fit what := by
  induction a generalizing b with
  | zero => exact hm
  | succ n ih =>
    rw [State.settleQueues]
    split
    · exact ih (fit_iqSettleOne hm)
    · exact hm

/-! ### Machine/Step -/

theorem fit_stepWith {exec : Instr → State → Out} (hexec : ∀ a t, t.fit .canonical → Out.fit .canonical (exec a t))
    (hm : s.fit .canonical) : Out.fit .canonical (stepWith exec s) := by
  unfold stepWith
  extract_lets +onlyGivenNames o
  have ho : Out.fit .canonical o := by
    dsimp only [o]
    split
    · exact fit_issueWith hexec hm
    · split
      · exact Out.fit_ite (hexec _ _ (fit_passes hm)) (fit_next (fit_passes hm))
      · exact fit_auto (fit_passes hm)
  clear_value o
  split
  · exact fit_resumeParked hexec (fit_settleQueues (Out.fit_next rfl ho))
  · exact ho

/-! ### Machine/Core -/

theorem fit_step (hm : s.fit .canonical) : Out.fit .canonical (step s) := fit_stepWith (fun i _ hm => fit_exec i hm nofun) hm

end

end Sys2Proof.Machine

/-- Settles O60: a step is an issue or a step of another agent, then queues close and parked operations complete; each of these
runs functions of the model that keep memory canonical. -/
theorem stepKeepsMemoryCanonical : Obligations.StepKeepsMemoryCanonical :=
  fun _ _ hm e => Sys2Proof.Machine.Out.fit_next e (Sys2Proof.Machine.fit_step hm)
end

section
/-!
SUPPORT. Checks that come before an access: its alignment (07 R125, R208) and its scope (08 R147). An instruction whose operand fails
one of them is a trap of the state as it stood.
-/
open Sys2Proof
namespace Sys2Proof.Machine

theorem tbit_eq_testBit (x k : Nat) : tbit x k = x.testBit k := by
  rw [tbit, Nat.testBit_eq_decide_div_mod_eq, beq_eq_decide]
theorem signed_toNat (imm : BitVec 32) : signed 32 imm.toNat = imm.toInt := by
  rw [signed, BitVec.toInt_eq_toNat_cond, Nat.mod_eq_of_lt imm.isLt]
  by_cases h : 2 * imm.toNat < 2 ^ 32
  · rw [if_pos h]
    exact if_neg (by omega)
  · rw [if_neg h]
    exact if_pos (by omega)
theorem sxImm_eq (imm : BitVec 32) : sxImm imm = BitVec.signExtend 64 imm := by
  rw [sxImm, signed_toNat]; rfl

section
variable {s : State} {m : Thread}

theorem State.gv_plain (h : s.issues m) (r : Reg) : s.gv r = (m.reg r.val).toNat := by
  obtain ⟨hm, -, hq, -⟩ := h
  rw [State.gv, s.g_plain hm hq]
theorem State.ea_plain (h : s.issues m) (r : Reg) (imm : BitVec 32) :
    s.ea r imm = (m.reg r.val + BitVec.signExtend 64 imm).toNat := by
  obtain ⟨hm, -, hq, -⟩ := h
  rw [State.ea, s.g_plain hm hq, sxImm_eq]
end

section
variable {s : State} {align ea : Nat}

theorem State.access_misaligned (h : ea % align ≠ 0) (need : Nat) (fe : Bool) (len : Nat) :
    s.access need fe align ea len = .stop (.next (s.fault 5 ea)) := by
  rw [State.access, State.check, if_pos (by simpa using h)]; rfl
theorem State.bankAccess_misaligned (h : ea % align ≠ 0) (need len : Nat) :
    s.bankAccess need align ea len = .stop (.next (s.fault 5 ea)) := by
  rw [State.bankAccess, if_neg (by simp [h]), access_misaligned h]
theorem State.load_misaligned (h : ea % align ≠ 0) (d : Reg) (sext acq : Bool) (sc : Nat) :
    s.load d ea align sext acq sc = .next (s.fault 5 ea) := by
  rw [State.load, access_misaligned h]; rfl
theorem State.store_misaligned (h : ea % align ≠ 0) (bs : List Byte) (rel : Bool) (sc : Nat) :
    s.store ea align bs rel sc = .next (s.fault 5 ea) := by
  rw [State.store, access_misaligned h]; rfl
theorem State.fesetOp_misaligned {a : Reg} {imm : BitVec 32} (h : s.ea a imm % 8 ≠ 0) (e : Bool) :
    s.fesetOp a imm e = .next (s.fault 5 (s.ea a imm)) := by
  rw [State.fesetOp, access_misaligned h]; rfl

theorem State.scoped_of_ok {sc : Scope} (h : s.okScope sc.val = true) (f : State → Out) : s.scoped sc f = f s := by
  rw [State.scoped, if_pos h]
theorem State.scoped_of_not {sc : Scope} (h : s.okScope sc.val = false) (f : State → Out) :
    s.scoped sc f = .next (s.fault 14 sc.val) := by
  rw [State.scoped, if_neg (by simp [h])]; rfl
theorem State.fenceOp_of_not {sc : Nat} (h : s.okScope sc = false) (drn : Bool) :
    s.fenceOp sc drn = .next (s.fault 14 sc) := by
  rw [State.fenceOp, if_pos (by simp [h])]; rfl
theorem State.feOp_misaligned (h : ea % align ≠ 0) {sc : Scope} (hsc : s.okScope sc.val = true)
    (want isLoad empties sext : Bool) (data d : Nat) :
    s.feOp ea align want isLoad empties sext data d sc = .next (s.fault 5 ea) := by
  rw [State.feOp, scoped_of_ok hsc, access_misaligned h]; rfl
theorem State.atomic_misaligned (h : ea % align ≠ 0) {sc : Scope} (hsc : s.okScope sc.val = true) (d : Reg) (sext : Bool)
    (op : ReqOp) : s.atomic d ea align sext sc op = .next (s.fault 5 ea) := by
  rw [State.atomic, scoped_of_ok hsc, access_misaligned h]; rfl
end

/-- The scopes a policy permits (08 R147): `pkg` and `pod` by its two bits. -/
theorem State.okScope_eq (s : State) (v : Nat) : s.okScope v = match v with
    | 0 => true | 1 => true | 2 => true | 3 => true | 5 => true
    | 4 => ((s.part? s.myPart).map fun x => x.policy.testBit 0).getD false
    | 6 => ((s.part? s.myPart).map fun x => x.policy.testBit 1).getD false
    | _ => false := by
  have hbit : ∀ k, (match s.part? s.myPart with | some p => tbit p.policy k | none => false) =
      ((s.part? s.myPart).map fun x => x.policy.testBit k).getD false := fun k => by
    cases s.part? s.myPart with
    | none => rfl
    | some p => exact tbit_eq_testBit _ _
  match v with
  | 0 | 1 | 2 | 3 | 5 => rfl
  | 4 => exact hbit 0
  | 6 => exact hbit 1
  | _ + 7 => rfl
end Sys2Proof.Machine

open Sys2Proof.Machine

theorem alignmentTraps : Clause.AlignmentTraps := by
  intro s m d a b c p sc sx mw imm fn e hi hsc
  dsimp only
  rw [← State.ea_plain hi, ← State.gv_plain hi]
  refine ⟨fun (h : _ % memBytes mw ≠ 0) => ⟨?_, ?_, ?_, ?_, ?_, ?_, ?_, ?_, ?_⟩, fun h => ⟨?_, ?_, ?_, ?_, ?_, ?_⟩,
    fun h => ⟨?_, ?_⟩, fun (h : _ % memBytes mw ≠ 0) => ⟨?_, ?_, ?_, ?_, ?_, ?_⟩, fun h => ⟨?_, ?_, ?_⟩⟩
  · show execLd d a sx mw imm s = _
    rw [execLd, State.load_misaligned h]
  · show execLda d a sc sx mw imm s = _
    rw [execLda, State.scoped_of_ok hsc, State.load_misaligned h]
  · show execSt a b mw e imm s = _
    rw [execSt, State.store_misaligned h]
  · show execStl a b sc mw e imm s = _
    rw [execStl, State.scoped_of_ok hsc, State.store_misaligned h]
  · show execLdfe d a sc sx mw imm s = _
    rw [execLdfe, State.feOp_misaligned h hsc]
  · show execLdff d a sc sx mw imm s = _
    rw [execLdff, State.feOp_misaligned h hsc]
  · show execStef a b sc mw e imm s = _
    rw [execStef, State.feOp_misaligned h hsc]
  · show execStff a b sc mw e imm s = _
    rw [execStff, State.feOp_misaligned h hsc]
  · show execLdc d a c sx mw imm s = _
    rw [execLdc, State.access_misaligned h, Acc.bind]
  · show execFesetFull a imm s = _
    rw [execFesetFull, State.fesetOp_misaligned h]
  · show execFesetEmpty a imm s = _
    rw [execFesetEmpty, State.fesetOp_misaligned h]
  · show execFeqry d a imm s = _
    rw [execFeqry, State.access_misaligned h, Acc.bind]
  · show execUpd a b fn imm s = _
    rw [execUpd, State.bankAccess_misaligned h, Acc.bind]
  · show execUpdr d p a b fn imm s = _
    rw [execUpdr, State.bankAccess_misaligned h, Acc.bind]
  · show execStm a b c fn imm s = _
    rw [execStm, State.check, if_pos (by simpa using h)]
    rfl
  · show execLdp d a imm s = _
    rw [execLdp, State.access_misaligned h, Acc.bind]
  · show execStp a b imm s = _
    rw [execStp, State.access_misaligned h, Acc.bind]
  · show execCas d a b c sc sx mw s = _
    rw [execCas, State.atomic_misaligned h hsc]
  · show execSwap d a b sc sx mw s = _
    rw [execSwap, State.atomic_misaligned h hsc]
  · show execFetchadd d a b sc sx mw s = _
    rw [execFetchadd, State.atomic_misaligned h hsc]
  · show execFetchaddImm d a b sc sx mw imm s = _
    rw [execFetchaddImm, State.atomic_misaligned h hsc]
  · show execLrw d p a sc sx mw s = _
    rw [execLrw, State.scoped_of_ok hsc, State.bankAccess_misaligned h, Acc.bind]
  · show execSch p a b sc mw s = _
    rw [execSch, State.scoped_of_ok hsc, State.bankAccess_misaligned h, Acc.bind]
  · show execRsvx a s = _
    rw [execRsvx, State.bankAccess_misaligned h, Acc.bind]
  · show execBarinit d a b e sc s = _
    rw [execBarinit, State.scoped_of_ok hsc, State.bankAccess_misaligned h, Acc.bind]
  · show execBarObject d a sc s = _
    rw [execBarObject, State.scoped_of_ok hsc, State.bankAccess_misaligned h, Acc.bind]

theorem scopeTraps : Clause.ScopeTraps := by
  intro s m d a b c p sc sx mw imm red e hi
  refine ⟨s.okScope_eq, fun h => ?_⟩
  refine ⟨?_, ?_, ?_, ?_, ?_, ?_, ?_, ?_, ?_, ?_, ?_, ?_, ?_, ?_, ?_, ?_, ?_, ?_⟩
  · show execLda d a sc sx mw imm s = _
    rw [execLda, State.scoped_of_not h]
  · show execStl a b sc mw e imm s = _
    rw [execStl, State.scoped_of_not h]
  · show execLdfe d a sc sx mw imm s = _
    rw [execLdfe, State.feOp, State.scoped_of_not h]
  · show execStef a b sc mw e imm s = _
    rw [execStef, State.feOp, State.scoped_of_not h]
  · show execLdff d a sc sx mw imm s = _
    rw [execLdff, State.feOp, State.scoped_of_not h]
  · show execStff a b sc mw e imm s = _
    rw [execStff, State.feOp, State.scoped_of_not h]
  · show execCas d a b c sc sx mw s = _
    rw [execCas, State.atomic, State.scoped_of_not h]
  · show execSwap d a b sc sx mw s = _
    rw [execSwap, State.atomic, State.scoped_of_not h]
  · show execFetchadd d a b sc sx mw s = _
    rw [execFetchadd, State.atomic, State.scoped_of_not h]
  · show execFetchaddImm d a b sc sx mw imm s = _
    rw [execFetchaddImm, State.atomic, State.scoped_of_not h]
  · show execLrw d p a sc sx mw s = _
    rw [execLrw, State.scoped_of_not h]
  · show execSch p a b sc mw s = _
    rw [execSch, State.scoped_of_not h]
  · show execFence sc s = _
    rw [execFence, State.fenceOp_of_not h]
  · show execFenceDrn sc s = _
    rw [execFenceDrn, State.fenceOp_of_not h]
  · show execBarNetwork d b c red sc s = _
    rw [execBarNetwork, State.scoped_of_not h]
  · show execBarDrain d a b c red sc s = _
    rw [execBarDrain, State.scoped_of_not h]
  · show execBarObject d a sc s = _
    rw [execBarObject, State.scoped_of_not h]
  · show execBarinit d a b e sc s = _
    rw [execBarinit, State.scoped_of_not h]

/-- Settles O19: alignment is the first check of an access, and the scope comes before it. -/
theorem operandTraps : Obligations.OperandTraps := ⟨alignmentTraps, scopeTraps⟩
end

section
/-!
SUPPORT. Taking a trap and returning from it (00 R11, 11 R198 to R200, 12 R216, R218): the state after `State.fault` and after `rft`, as
one update of the thread concerned.
-/
open Sys2Proof
namespace Sys2Proof.Machine

/-- The record of a thread that takes a trap, before it enters its handler or waits for the supervisor. -/
def Thread.trapped (t : Thread) (cls tval epc : Nat) (half : Bool) : Thread :=
  { t with cause := wd (causeWord { cls := cls, tval := tval, kind := 0 } false (half || t.halfOnly)), tval := wd tval, epc := wd epc,
           wait := none, stat := .running, pc := wd epc, stream := none, streamQ := [], parked := none, halfOnly := false, words := [],
           entered := 0, postDue := 0, took := [] }
/-- The wait of a trapped thread for the supervisor of its core. -/
def superWait (epc : Nat) : Wait :=
  { why := .super, again := false, half := false, fin := { d := 0, d2 := 0, pd := 0, width := 8, sext := false, succ := epc } }

/-- A thread that waits for the supervisor. -/
def Thread.awaitsSuper (t : Thread) (epc : Nat) : Thread := { t with wait := some (superWait epc) }

theorem causeWord_eq (cls tval : Nat) (half : Bool) :
    causeWord { cls := cls, tval := tval, kind := 0 } false half = cls + if half = true then 512 else 0 := by
  rw [causeWord]
  cases half with
  | false => simp
  | true => simp
theorem Thread.trapped_cause (t : Thread) (cls tval epc : Nat) (half : Bool) : (t.trapped cls tval epc half).cause =
    BitVec.ofNat 64 (cls + if half = true ∨ t.halfOnly = true then 512 else 0) :=
  congrArg wd ((causeWord_eq cls tval _).trans (by simp only [Bool.or_eq_true]))
theorem Thread.takesUser_eq (t : Thread) (cls : Nat) : t.takesUser cls = (t.uien.getLsbD cls && !t.handler) := by
  rw [Thread.takesUser, tbit_eq_testBit]; rfl

section
variable {s : State} {g : Nat} {m : Thread}

theorem State.thread_of (hm : s.thread? g = some m) : s.thread g = m := by rw [State.thread, hm]; rfl
theorem State.thread_modThread (hm : s.thread? g = some m) (f : Thread → Thread) (hf : ∀ t, (f t).gid = t.gid) :
    (s.modThread g f).thread g = f m :=
  State.thread_of (s.thread?_modThread_self g f m hm fun t h => (hf t).trans h)

/-- A translation is the same whatever the threads and their waits are. -/
theorem State.walkFrom_threads (ts : List Thread) (es : List Edge) (asid sel va fuel level table : Nat) :
    { s with threads := ts, edges := es }.walkFrom asid sel va fuel level table = s.walkFrom asid sel va fuel level table := by
  induction fuel generalizing level table with
  | zero => rfl
  | succ n ih =>
    rw [State.walkFrom, State.walkFrom]
    simp only [ih]
    rfl
theorem State.walkTables_threads (ts : List Thread) (es : List Edge) (part asid sel va : Nat) :
    { s with threads := ts, edges := es }.walkTables part asid sel va = s.walkTables part asid sel va := by
  rw [State.walkTables, State.walkTables, show ({ s with threads := ts, edges := es } : State).root part asid sel = s.root part asid sel from rfl]
  simp only [State.walkFrom_threads]
theorem State.peekTlb_threads (ts : List Thread) (es : List Edge) (q part asid sel va : Nat) :
    { s with threads := ts, edges := es }.peekTlb q part asid sel va = s.peekTlb q part asid sel va := by
  have look : ({ s with threads := ts, edges := es }.lookupTlb q asid sel va).1 = (s.lookupTlb q asid sel va).1 := by
    rw [State.lookupTlb, State.lookupTlb, show ({ s with threads := ts, edges := es } : State).quad q = s.quad q from rfl,
      show ({ s with threads := ts, edges := es } : State).die (qkDie q) = s.die (qkDie q) from rfl]
    split
    · rfl
    · split <;> rfl
  rw [State.peekTlb, State.peekTlb, look, State.walkTables_threads]

/-- Which targets are legal depends on a thread's domain and address space, and on nothing else of its record. -/
theorem State.targetOkAs_modThread (hm : s.thread? g = some m) (f : Thread → Thread) (hgid : ∀ t, (f t).gid = t.gid)
    (hdom : (f m).dom = m.dom) (hasid : (f m).asid = m.asid) (pc : Nat) (half : Bool) :
    ((s.unwait g).modThread g f).targetOkAs g pc half = s.targetOkAs g pc half := by
  have h := State.thread_modThread (s := s.unwait g) hm f hgid
  have hpeek : ∀ line, ((s.unwait g).modThread g f).peekLine g line = s.peekLine g line := fun line => by
    rw [State.peekLine, State.peekLine, State.partOf, State.partOf, h, State.thread_of hm, hdom, hasid,
      show (s.unwait g).modThread g f = { s with threads := ((s.unwait g).modThread g f).threads, edges := (s.unwait g).edges } from rfl,
      State.peekTlb_threads]
    rfl
  rw [State.targetOkAs, State.targetOkAs, h, State.thread_of hm, hdom, hpeek]
  rfl

/-- A trap of a thread outside slot 15. -/
theorem State.deliver_of_slot (hm : s.thread? g = some m) (hslot : g % 16 ≠ 15) (cls tval epc : Nat) (half : Bool) :
    s.deliver g { cls := cls, tval := tval, kind := 0 } epc false half =
      let u := (s.unwait g).modThread g (·.trapped cls tval epc half)
      let tr : Trap := { cls := cls, tval := tval, kind := 0 }
      if m.handler && cls != clsWatchdog then u.toSuper g 4 tr epc
      else if m.takesUser cls then
        if s.targetOk g m.uih.toNat then u.modThread g (·.enterHandler m.uih.toNat) else u.toSuper g (endKindOf cls) tr epc
      else u.toSuper g (endKindOf cls) tr epc := by
  have hok := State.targetOkAs_modThread (s := s) hm (·.trapped cls tval epc half) (fun _ => rfl) rfl rfl m.uih.toNat false
  rw [State.deliver, State.deliverAs, if_neg (show ¬ gidSlot g = 15 from hslot), State.thread_of hm]
  rw [State.targetOk, ← hok]
  rfl

/-- A trap that goes to the handler of the thread. -/
theorem State.fault_toHandler (hm : s.thread? s.iss.gid = some m) (hslot : s.iss.gid % 16 ≠ 15) {cls : Nat} (tval : Nat)
    (hh : m.handler = false) (hen : m.uien.getLsbD cls = true) (hok : s.targetOk s.iss.gid m.uih.toNat = true) :
    s.fault cls tval =
      { (s.unwait s.iss.gid).modThread s.iss.gid
          fun t => (t.trapped cls tval s.iss.pc s.iss.half).enterHandler m.uih.toNat with
        iss := { s.iss with trapped := true } } := by
  have huser : m.takesUser cls = true := by simp [Thread.takesUser_eq, hen, hh]
  rw [State.fault, State.deliver_of_slot hm hslot]
  simp only [hh, Bool.false_and, Bool.false_eq_true, if_false, huser, if_true, hok]
  rw [State.modThread_modThread _ _ (fun t => t.trapped cls tval s.iss.pc s.iss.half) _ fun _ => rfl]
  rfl
/-- The end-status kind of a trap that goes to the supervisor (00 R11, 22 R385). -/
def Thread.trapKind (t : Thread) (cls : Nat) : Nat := if t.handler then 4 else endKindOf cls
/-- The trap that a supervisor is handed. -/
def Thread.supTrap (t : Thread) (g cls tval epc : Nat) : SupTrap :=
  { core := gidCk g, gid := g, uid := t.uid, dom := t.dom, kind := t.trapKind cls, cls := cls, tval := tval, epc := epc,
    service := none }
theorem State.toSuper_eq {n : Thread} (hn : s.thread? g = some n) (kind epc : Nat) (tr : Trap) :
    s.toSuper g kind tr epc =
      { s.modThread g (·.awaitsSuper epc) with
        sup := s.sup ++ [{ core := gidCk g, gid := g, uid := n.uid, dom := n.dom, kind := kind, cls := tr.cls, tval := tr.tval,
                           epc := epc, service := none }] } := by
  rw [State.toSuper, State.thread_of hn]; rfl
/-- A trap that goes to the supervisor context of the core. -/
theorem State.fault_toSuper (hm : s.thread? s.iss.gid = some m) (hslot : s.iss.gid % 16 ≠ 15) {cls : Nat} (tval : Nat)
    (h : (m.handler = true ∧ cls ≠ 13) ∨
      (m.handler = false ∧ (m.uien.getLsbD cls = false ∨ s.targetOk s.iss.gid m.uih.toNat = false))) :
    s.fault cls tval =
      { (s.unwait s.iss.gid).modThread s.iss.gid fun t => (t.trapped cls tval s.iss.pc s.iss.half).awaitsSuper s.iss.pc with
        sup := s.sup ++ [m.supTrap s.iss.gid cls tval s.iss.pc], iss := { s.iss with trapped := true } } := by
  have hd : s.deliver s.iss.gid { cls := cls, tval := tval, kind := 0 } s.iss.pc false s.iss.half =
      ((s.unwait s.iss.gid).modThread s.iss.gid (·.trapped cls tval s.iss.pc s.iss.half)).toSuper s.iss.gid (m.trapKind cls)
        { cls := cls, tval := tval, kind := 0 } s.iss.pc := by
    rw [State.deliver_of_slot hm hslot, Thread.takesUser_eq, Thread.trapKind]
    rcases h with ⟨hh, hc⟩ | ⟨hh, hen | hok⟩
    · simp [hh, clsWatchdog, hc]
    · simp [hh, hen]
    · simp [hh, hok]
  have hu := (s.unwait s.iss.gid).thread?_modThread_self s.iss.gid (·.trapped cls tval s.iss.pc s.iss.half) m hm fun _ h => h
  rw [State.fault, hd, State.toSuper_eq hu, State.modThread_modThread _ _ (·.trapped cls tval s.iss.pc s.iss.half) _ fun _ => rfl]
  rfl
end

/-! Registers g24 to g27 (11 R198). -/

theorem Thread.setReg_of_ne (t : Thread) (r : Nat) (v : Word) (h : r ≠ 0) :
    t.setReg r v = { t with regs := t.regs.setIfInBounds r v } := if_neg h
theorem Thread.setHigh_eq (t : Thread) (v : Vector Word 4) : t.setHigh v = { t with regs := (t.setHigh v).regs } := by
  rw [Thread.setHigh]
  rw [Thread.setReg_of_ne _ 24 _ (by decide), Thread.setReg_of_ne _ 25 _ (by decide), Thread.setReg_of_ne _ 26 _ (by decide),
    Thread.setReg_of_ne _ 27 _ (by decide)]
theorem Thread.leaveHandler_eq (t : Thread) (pc : Nat) : t.leaveHandler pc =
    { t with regs := (t.setHigh t.saved).regs, shadow := t.high, handler := false, pc := wd pc, uiOnce := true } := by
  rw [Thread.leaveHandler, Thread.setHigh_eq]
theorem Thread.enterHandler_eq (t : Thread) (pc : Nat) : t.enterHandler pc =
    { t with regs := (t.setHigh t.shadow).regs, saved := t.high, handler := true, pc := wd pc } := by
  rw [Thread.enterHandler, Thread.setHigh_eq]
theorem Thread.reg_setHigh (t : Thread) (v : Vector Word 4) (k : Fin 4) : (t.setHigh v).reg (24 + k.val) = v.get k := by
  rw [Thread.setHigh]
  simp only [Thread.reg_setReg _ _ _ _ (show 24 < 32 by decide), Thread.reg_setReg _ _ _ _ (show 25 < 32 by decide),
    Thread.reg_setReg _ _ _ _ (show 26 < 32 by decide), Thread.reg_setReg _ _ _ _ (show 27 < 32 by decide)]
  match k with
  | 0 | 1 | 2 | 3 => rfl
theorem Thread.reg_setHigh_other (t : Thread) (v : Vector Word 4) (r : Nat) (h : r < 24 ∨ 28 ≤ r) :
    (t.setHigh v).reg r = t.reg r := by
  rw [Thread.setHigh, Thread.reg_setReg _ _ _ _ (by decide), if_neg (by omega), Thread.reg_setReg _ _ _ _ (by decide),
    if_neg (by omega), Thread.reg_setReg _ _ _ _ (by decide), if_neg (by omega), Thread.reg_setReg _ _ _ _ (by decide),
    if_neg (by omega)]
theorem Thread.get_high (t : Thread) (k : Fin 4) : t.high.get k = t.reg (24 + k.val) := by
  match k with
  | 0 | 1 | 2 | 3 => rfl
theorem Thread.reg_enterHandler (t : Thread) (pc : Nat) (k : Fin 4) :
    (t.enterHandler pc).reg (24 + k.val) = t.shadow.get k := t.reg_setHigh t.shadow k
theorem Thread.reg_enterHandler_other (t : Thread) (pc r : Nat) (h : r < 24 ∨ 28 ≤ r) :
    (t.enterHandler pc).reg r = t.reg r := t.reg_setHigh_other t.shadow r h
theorem Thread.reg_leaveHandler (t : Thread) (pc : Nat) (k : Fin 4) :
    (t.leaveHandler pc).reg (24 + k.val) = t.saved.get k := t.reg_setHigh t.saved k
theorem Thread.reg_leaveHandler_other (t : Thread) (pc r : Nat) (h : r < 24 ∨ 28 ≤ r) :
    (t.leaveHandler pc).reg r = t.reg r := t.reg_setHigh_other t.saved r h

theorem tbit_toNat (w : Word) (k : Nat) : tbit w.toNat k = w.getLsbD k := tbit_eq_testBit _ _
/-- The record of a thread that returns from its handler (12 R218). -/
def Thread.returned (t : Thread) (epc : Nat) : Thread := { t.leaveHandler epc with halfOnly := tbit t.cause.toNat 9 }
theorem Thread.returned_eq (t : Thread) (epc : Nat) : t.returned epc =
    { t with regs := (t.setHigh t.saved).regs, shadow := t.high, handler := false, pc := wd epc, uiOnce := true,
             halfOnly := tbit t.cause.toNat 9 } := by
  rw [Thread.returned, Thread.leaveHandler_eq]
theorem State.returnUser_of_ok {s : State} {m : Thread} (hm : s.thread? s.iss.gid = some m)
    (hok : s.targetOkAs s.iss.gid m.epc.toNat (m.cause.getLsbD 9) = true) :
    s.returnUser = { s.modThread s.iss.gid (·.returned m.epc.toNat) with iss := { s.iss with jumped := true } } := by
  rw [State.returnUser, s.me_of m hm]
  dsimp only
  rw [if_pos (by rw [tbit_toNat]; exact hok)]
  rfl
theorem State.returnSuper_of_find {s : State} {x : SupTrap} (hx : s.sup.find? (fun x => x.core == gidCk s.iss.gid) = some x) :
    s.returnSuper =
      { s.modThread x.gid fun t => { t with wait := none, stat := .running, pc := t.epc, halfOnly := t.cause.getLsbD 9 } with
        sup := s.sup.filter (· != x) } := by
  rw [State.returnSuper, State.myCore, hx]
  simp only [tbit_toNat]
  rfl
end Sys2Proof.Machine

open Sys2Proof.Machine

theorem trapToHandler : Clause.TrapToHandler := by
  intro s m cls tval hm hslot _ _ hh hen hok
  have hn := (s.unwait s.iss.gid).thread?_modThread_self s.iss.gid
    (fun t => (t.trapped cls tval s.iss.pc s.iss.half).enterHandler m.uih.toNat) m hm fun _ h => h
  have hother : ∀ h, h ≠ s.iss.gid → _ := fun h => (s.unwait s.iss.gid).thread?_modThread_other s.iss.gid h
    (fun t => (t.trapped cls tval s.iss.pc s.iss.half).enterHandler m.uih.toNat) fun _ h => h
  rw [State.fault_toHandler hm hslot tval hh hen hok]
  refine ⟨_, hn, ?_, rfl, rfl, ?_, rfl, rfl, rfl, fun k => ⟨?_, ?_⟩, fun r hr => ?_, rfl, rfl, rfl, rfl, rfl, rfl, rfl, rfl, rfl,
    rfl, rfl, hother, rfl, rfl, rfl, rfl⟩
  · exact Thread.trapped_cause m cls tval s.iss.pc s.iss.half
  · exact BitVec.ofNat_toNat ..
  · exact Thread.reg_enterHandler ..
  · exact Thread.get_high _ k
  · exact Thread.reg_enterHandler_other _ _ _ hr

theorem trapToSupervisor : Clause.TrapToSupervisor := by
  intro s m cls tval hm hslot _ _ h
  have hn := (s.unwait s.iss.gid).thread?_modThread_self s.iss.gid
    (fun t => (t.trapped cls tval s.iss.pc s.iss.half).awaitsSuper s.iss.pc) m hm fun _ h => h
  have hother : ∀ h, h ≠ s.iss.gid → _ := fun h => (s.unwait s.iss.gid).thread?_modThread_other s.iss.gid h
    (fun t => (t.trapped cls tval s.iss.pc s.iss.half).awaitsSuper s.iss.pc) fun _ h => h
  rw [State.fault_toSuper hm hslot tval h]
  refine ⟨_, superWait s.iss.pc, hn, rfl, ?_, rfl, rfl, rfl, rfl, rfl, rfl, rfl, hother, rfl, rfl⟩
  exact Thread.trapped_cause m cls tval s.iss.pc s.iss.half

theorem returnFromTrap : Clause.ReturnFromTrap := by
  intro s m hi
  obtain ⟨hm, -, -, -⟩ := hi
  have hme := s.me_of m hm
  refine ⟨fun hslot hh hok => ?_, fun hslot x n hx hn => ?_, fun hslot hh => ?_⟩
  · have honly : OnlyThread { s with iss := { s.iss with jumped := true } } s.returnUser s.iss.gid (m.returned m.epc.toNat) := by
      have hgid (t : Thread) (h : t.gid = s.iss.gid) : (t.returned m.epc.toNat).gid = s.iss.gid := by rw [Thread.returned_eq]; exact h
      rw [State.returnUser_of_ok hm hok]
      exact ⟨rfl, s.thread?_modThread_self s.iss.gid (·.returned m.epc.toNat) m hm hgid,
        fun h => s.thread?_modThread_other s.iss.gid h (·.returned m.epc.toNat) hgid⟩
    have hexec : exec .rft s = .next s.returnUser := by
      show execRft s = _
      rw [execRft, if_neg (by simpa [State.inSuper, gidSlot] using hslot), hme, if_pos hh]
    refine ⟨s.returnUser, m.returned m.epc.toNat, hexec, honly, ?_, ?_, ?_, ?_, ?_, ?_, fun k => ⟨?_, ?_⟩, fun r hr => ?_⟩
    · rw [Thread.returned_eq]; exact BitVec.ofNat_toNat ..
    · rw [Thread.returned_eq]
    · rw [Thread.returned_eq]
    · rw [Thread.returned_eq]
    · rw [Thread.returned_eq]
    · rw [Thread.returned_eq]
    · exact Thread.reg_leaveHandler m m.epc.toNat k
    · rw [Thread.returned_eq]; exact Thread.get_high m k
    · exact Thread.reg_leaveHandler_other m m.epc.toNat r hr
  · have hexec : exec .rft s = .next s.returnSuper := by
      show execRft s = _
      rw [execRft, if_pos (by simpa [State.inSuper, gidSlot] using hslot)]
    refine ⟨s.returnSuper, hexec, ?_, ?_⟩ <;> rw [State.returnSuper_of_find hx]
    exact OnlyThread.modThread hn (fun t => { t with wait := none, stat := .running, pc := t.epc, halfOnly := t.cause.getLsbD 9 })
      fun _ => rfl
  · show execRft s = _
    rw [execRft, if_neg (by simpa [State.inSuper, gidSlot] using hslot), hme, if_neg (by simp [hh])]
    rfl

/-- Settles O8. -/
theorem traps : Obligations.Traps := ⟨trapToHandler, trapToSupervisor, returnFromTrap⟩
end
section
/-!
SUPPORT. Faults of the part (09 R175, 22 R393 to R395) and package reset (00 R5, 07 R140).
-/
open Sys2Proof
namespace Sys2Proof.Machine

/-! ### What the end of a thread leaves of domains and dies -/

/-- The domains and the lost dies are those of `o`. -/
def Kept (o s : State) : Prop := s.domains = o.domains ∧ s.lostDies = o.lostDies
theorem Kept.refl (s : State) : Kept s s := ⟨rfl, rfl⟩
theorem kept_ite {o a b : State} {c : Prop} [Decidable c] (ha : Kept o a) (hb : Kept o b) : Kept o (if c then a else b) := by
  split <;> assumption
theorem kept_foldl {α : Type} {o s : State} {f : State → α → State} {l : List α} (h : Kept o s)
    (hf : ∀ s a, Kept o s → Kept o (f s a)) : Kept o (l.foldl f s) :=
  List.foldlRecOn l f (motive := Kept o) h fun s hs a _ => hf s a hs
theorem kept_snd {α : Type} {o s : State} {p : α × State} {a : α} (e : p = (a, s)) (h : Kept o p.2) : Kept o s := by
  subst e; exact h

section
variable {o s : State}

theorem kept_writeBytes {k : Nat} {bs : List Byte} (hk : Kept o s) : Kept o (s.writeBytes k bs) := hk
theorem kept_writeN {k n v : Nat} (hk : Kept o s) : Kept o (s.writeN k n v) := kept_writeBytes hk
theorem kept_setCore {c : Core} (hk : Kept o s) : Kept o (s.setCore c) := hk
theorem kept_setQuad {q : Quad} (hk : Kept o s) : Kept o (s.setQuad q) := hk
theorem kept_setDie {d : Die} (hk : Kept o s) : Kept o (s.setDie d) := hk
theorem kept_modThread {g : Nat} {f : Thread → Thread} (hk : Kept o s) : Kept o (s.modThread g f) := hk
theorem kept_dropThread {g : Nat} (hk : Kept o s) : Kept o (s.dropThread g) := hk
theorem kept_hwPush {core n : Nat} {v : Word} (hk : Kept o s) : Kept o (s.hwPush core n v) := hk
theorem kept_takeId (hk : Kept o s) : Kept o s.takeId.2 := hk
theorem kept_putFor {g r : Nat} {v : Word} (hk : Kept o s) : Kept o (s.putFor g r v) :=
  kept_ite (kept_hwPush hk) (kept_modThread hk)
theorem kept_complete {g val val2 : Nat} {pred : Bool} (hk : Kept o s) : Kept o (s.complete g val val2 pred) := by
  unfold State.complete
  dsimp only
  split
  · exact hk
  · exact kept_modThread (kept_putFor (kept_putFor hk))
theorem kept_fillQuad {q : Nat} {e : Tlb} (hk : Kept o s) : Kept o (s.fillQuad q e) := hk
theorem kept_fillDie {d : Nat} {e : Tlb} (hk : Kept o s) : Kept o (s.fillDie d e) := hk
theorem kept_lookupTlb {q asid sel va : Nat} (hk : Kept o s) : Kept o (s.lookupTlb q asid sel va).2 := by
  unfold State.lookupTlb
  split
  · exact kept_fillQuad hk
  · split
    · exact kept_fillQuad (kept_fillDie hk)
    · exact hk
theorem kept_overflowed {die : Nat} (hk : Kept o s) : Kept o (s.overflowed die) := hk
theorem kept_enter {die obj ok ek gid : Nat} (hk : Kept o s) : Kept o (s.enter die obj ok ek gid).1 := by
  unfold State.enter
  split
  · exact kept_overflowed hk
  · exact hk
theorem kept_hold {die obj ok ek gid : Nat} (hk : Kept o s) : Kept o (s.hold die obj ok ek gid) := kept_enter hk
theorem kept_unhold {obj ok gid : Nat} (hk : Kept o s) : Kept o (s.unhold obj ok gid) := hk
theorem kept_unwait {g : Nat} (hk : Kept o s) : Kept o (s.unwait g) := hk
theorem kept_wake {g objDie val val2 : Nat} {pred : Bool} (hk : Kept o s) :
    Kept o (s.wake g objDie val val2 pred) :=
  kept_ite (kept_complete (kept_unwait hk)) hk
theorem kept_wakeBar {word status : Nat} (hk : Kept o s) : Kept o (s.wakeBar word status) :=
  kept_foldl hk fun _ _ hk => kept_wake hk
theorem kept_homeWrite {k : Nat} {bs : List Byte} (hk : Kept o s) : Kept o (s.homeWrite k bs) :=
  kept_foldl (kept_writeBytes hk) fun _ _ hk => kept_wakeBar hk
theorem kept_barTakeBack {uid : Nat} (hk : Kept o s) : Kept o (s.barTakeBack uid) := by
  unfold State.barTakeBack
  dsimp only
  split
  · exact hk
  · exact kept_ite (kept_writeN hk) hk
theorem kept_withdraw {g : Nat} (hk : Kept o s) : Kept o (s.withdraw g) := by
  unfold State.withdraw
  dsimp only
  split
  · exact kept_unwait hk
  · split
    · exact hk
    · exact kept_barTakeBack (kept_unwait hk)
    · exact hk
    · exact kept_setCore (kept_unwait hk)
    · exact hk
    · exact kept_unwait hk
theorem kept_passHold {w : Nat} (hk : Kept o s) : Kept o (s.passHold w) := by
  unfold State.passHold
  dsimp only
  split
  · exact hk
  · split
    · exact kept_ite (kept_wake (kept_hold hk)) (kept_hold hk)
    · exact kept_hold hk
theorem kept_dropHold {w g : Nat} (hk : Kept o s) : Kept o (s.dropHold w g) := kept_passHold (kept_unhold hk)
theorem kept_abandon {uid g : Nat} (hk : Kept o s) : Kept o (s.abandon uid g) :=
  kept_foldl hk fun _ _ hk => kept_ite (kept_dropHold hk) hk
theorem kept_requestOf {g : Nat} {op : ReqOp} {key len va scope : Nat} {rel acq posted : Bool} (hk : Kept o s) :
    Kept o (s.requestOf g op key len va scope rel acq posted).2 :=
  hk
theorem kept_postCede {g sig : Nat} (hk : Kept o s) : Kept o (s.postCede g sig) := by
  unfold State.postCede
  dsimp only
  split
  · exact hk
  · exact kept_requestOf hk
theorem kept_modIq {id : Nat} {f : Iq → Iq} (hk : Kept o s) : Kept o (s.modIq id f) := hk
theorem kept_iqTouch {q : Iq} {i : Nat} (hk : Kept o s) : Kept o (s.iqTouch q i) := by
  unfold State.iqTouch
  split
  · exact hk
  · split
    · exact hk
    · split
      · exact kept_snd ‹_› (kept_lookupTlb hk)
      · split
        · exact kept_fillQuad (kept_fillDie (kept_snd ‹_› (kept_lookupTlb hk)))
        · exact kept_snd ‹_› (kept_lookupTlb hk)
theorem kept_iqOut {q : Iq} (hk : Kept o s) : Kept o (s.iqOut q) := by
  unfold State.iqOut
  refine kept_foldl (kept_modIq hk) fun _ _ hk => ?_
  dsimp only
  split
  · exact kept_ite hk (kept_homeWrite (kept_iqTouch hk))
  · exact hk
theorem kept_iqServe {id : Nat} (hk : Kept o s) : Kept o (s.iqServe id) := by
  unfold State.iqServe
  dsimp only
  split
  · exact hk
  · split
    · exact hk
    · split
      · exact kept_wake (kept_modThread (kept_iqOut (kept_iqTouch hk)))
      · exact kept_ite (kept_wake (kept_modThread hk)) hk
theorem kept_iqEdges {q : Iq} (hk : Kept o s) : Kept o (s.iqEdges q) :=
  kept_ite hk (kept_foldl hk fun _ _ hk => kept_ite hk (kept_hold hk))
theorem kept_iqSettleOne {id : Nat} (hk : Kept o s) : Kept o (s.iqSettleOne id) := by
  unfold State.iqSettleOne
  dsimp only
  split
  · exact hk
  · split
    · exact kept_iqEdges (kept_iqServe (kept_ite (kept_iqOut hk) (kept_ite (kept_modIq hk) hk)))
    · exact kept_ite (kept_iqOut hk) (kept_ite (kept_modIq hk) hk)
theorem kept_iqSettle {dom : Nat} (hk : Kept o s) : Kept o (s.iqSettle dom) :=
  kept_foldl hk fun _ _ hk => kept_iqSettleOne hk
theorem kept_iqUnbind {uid : Nat} (hk : Kept o s) : Kept o (s.iqUnbind uid) := hk
theorem kept_finishBar {b : NetBar} (hk : Kept o s) : Kept o (s.finishBar b) :=
  kept_foldl hk fun _ _ hk => kept_wake hk
theorem kept_completeBar {b : NetBar} (hk : Kept o s) : Kept o (s.completeBar b) := by
  unfold State.completeBar
  split
  · exact kept_finishBar hk
  · exact hk
theorem kept_barSettle {dom : Nat} (hk : Kept o s) : Kept o (s.barSettle dom) :=
  kept_foldl hk fun _ _ hk => kept_ite (kept_completeBar hk) hk
theorem kept_wakeReg {obj status : Nat} (hk : Kept o s) : Kept o (s.wakeReg obj status) :=
  kept_foldl hk fun _ _ hk => kept_wake hk
theorem kept_releaseHolds {g : Nat} (hk : Kept o s) : Kept o (s.releaseHolds g) :=
  kept_foldl hk fun _ _ hk => kept_ite hk (kept_wakeReg hk)
theorem kept_dissolve {g : Nat} (hk : Kept o s) : Kept o (s.dissolve g) := kept_ite hk (kept_setQuad hk)
theorem kept_pauseCore {g pc : Nat} (hk : Kept o s) : Kept o (s.pauseCore g pc) :=
  kept_modThread (kept_foldl hk fun _ _ hk => kept_postCede hk)
theorem kept_pauseJoin {g pc : Nat} (hk : Kept o s) : Kept o (s.pauseJoin g pc) :=
  kept_foldl hk fun _ _ hk => kept_ite (kept_modThread (kept_pauseCore (kept_unwait hk))) (kept_pauseCore (kept_unwait hk))
theorem kept_joinStir {u a : Nat} (hk : Kept o s) : Kept o (s.joinStir u a) := by
  induction a generalizing s u with
  | zero => exact hk
  | succ n ih =>
    rw [State.joinStir]
    dsimp only
    split
    · split <;> exact hk
    · split <;> exact kept_ite (kept_complete (kept_modThread (kept_unwait hk))) (kept_ite (ih (kept_iqSettle (kept_pauseJoin hk))) hk)
theorem kept_endThread {g : Nat} (hk : Kept o s) : Kept o (s.endThread g) := by
  fun_cases State.endThread s g with
  | case1 => exact hk
  | case2 t _ s1 s2 c s3 s4 =>
    have h2 : Kept o s2 :=
      kept_iqUnbind (kept_releaseHolds (kept_abandon (kept_dissolve (kept_withdraw hk))))
    have h3 : Kept o s3 := kept_setCore h2
    clear_value s3
    have h4 : Kept o s4 := kept_dropThread (g := g) h3
    exact kept_joinStir (kept_barSettle (kept_iqSettle h4))
theorem kept_freeDomain {dom : Nat} (hk : Kept o s) : Kept o (s.freeDomain dom) := hk

end

/-! ### Domains that end -/

/-- A domain that has ended aborted. -/
def Domain.ended (d : Domain) (word val : Nat) : Domain := { d with stat := .aborted, endWord := word, endVal := val, endTval := 0 }
theorem State.domains_abortDomain (s : State) (dom kind cls gid val : Nat) : (s.abortDomain dom kind cls gid val).domains =
    s.domains.map fun d => if d.num == dom then d.ended (endWord kind cls gid) val else d := by
  have h : Kept s (((s.threads.filter (·.dom == dom)).map (·.gid)).foldl State.endThread
      (((s.threads.filter (·.dom == dom)).map (·.gid)).foldl (fun s g => (s.withdraw g).modThread g fun t => { t with wait := none }) s)) :=
    kept_foldl (kept_foldl (Kept.refl s) fun _ _ hk => kept_modThread (kept_withdraw hk)) fun _ _ hk => kept_endThread hk
  rw [← h.1]
  rfl
theorem State.domain?_abortDomain (s : State) (dom kind cls gid val n : Nat) : (s.abortDomain dom kind cls gid val).domain? n =
    if n = dom then (s.domain? dom).map (·.ended (endWord kind cls gid) val) else s.domain? n := by
  rw [State.domain?, State.domains_abortDomain]
  exact find?_map_key Domain.num _ dom n s.domains fun _ h => h
/-- The domains of a list, aborted one after the other. -/
theorem State.domain?_foldl_abortDomain (s : State) (doms : List Nat) (kind cls gid val n : Nat) :
    (doms.foldl (fun s k => s.abortDomain k kind cls gid val) s).domain? n =
      if n ∈ doms then (s.domain? n).map (·.ended (endWord kind cls gid) val) else s.domain? n := by
  induction doms generalizing s with
  | nil => rfl
  | cons k l ih =>
    rw [List.foldl_cons, ih, State.domain?_abortDomain]
    by_cases h : n = k
    · subst h
      cases s.domain? n <;> simp [Domain.ended]
    · simp [h]

/-! ### Lists of numbers -/

theorem mem_insertNat {x k : Nat} {l : List Nat} : x ∈ insertNat k l ↔ x = k ∨ x ∈ l := by
  induction l with
  | nil => simp [insertNat]
  | cons a l ih =>
    rw [insertNat]
    split
    · simp
    · split
      · next h => simp [h]
      · simp only [List.mem_cons, ih]
        exact ⟨fun h => by tauto, fun h => by tauto⟩

theorem State.die_num (s : State) (n : Nat) : (s.die n).num = n := by
  rw [State.die]
  cases h : s.dies.find? (·.num == n) with
  | none => rfl
  | some d => simpa using List.find?_some h
/-- The dies after one record is written. -/
theorem State.die_setDie_num (s : State) (d : Die) (n : Nat) (h : d.num = n) (k : Nat) :
    (s.setDie d).die k = if k = n then d else s.die k := by
  subst h
  split
  · next h => rw [h, State.die_setDie]
  · next h => exact s.die_setDie_other d k h

end Sys2Proof.Machine
end

section
open Sys2Proof
namespace Sys2Proof.Machine

theorem mem_dedup {x : Nat} {l : List Nat} : x ∈ dedup l ↔ x ∈ l := by
  induction l with
  | nil => rfl
  | cons a l ih =>
    rw [dedup, List.mem_cons, List.mem_cons, List.mem_filter, ih, bne_iff_ne]
    by_cases h : x = a <;> simp [h]

/-! ### Memory faults (22 R393) -/

/-- The memory fault at the next scrub, if any, strikes the word `k`: one bit of it, or `two`. -/
def State.strikes (s : State) (k : Nat) (two : Bool) : Prop :=
  homeQuad k ≠ none ∧ ∃ a, Config.memoryFault s.freeCtr = some (a, two) ∧ k = a / 8 * 8

section
variable {s : State}

theorem State.not_strikes (h : Config.memoryFault s.freeCtr = none) (k : Nat) (two : Bool) : ¬ s.strikes k two := by
  simp [State.strikes, h]
theorem State.strikes_iff {a : Nat} {one : Bool} (h : Config.memoryFault s.freeCtr = some (a, one)) (k : Nat) (two : Bool) :
    s.strikes k two ↔ homeQuad (wordKey a) ≠ none ∧ two = one ∧ k = wordKey a := by
  simp only [State.strikes, h, Option.some.injEq, Prod.mk.injEq, wordKey]
  constructor
  · rintro ⟨hq, a', ⟨rfl, rfl⟩, rfl⟩
    exact ⟨hq, rfl, rfl⟩
  · rintro ⟨hq, rfl, rfl⟩
    exact ⟨hq, a, ⟨rfl, rfl⟩, rfl⟩
theorem State.struck_eq : s.struck = { s with freeCtr := s.freeCtr + 1, bad := s.struck.bad, soft := s.struck.soft } := by
  rw [State.struck]
  split
  · rfl
  · dsimp only
    split
    · rfl
    · split <;> rfl
/-- The words that hold an error that is detected, and those that hold one that is corrected, after a fault. -/
theorem State.mem_struck (k : Nat) :
    (k ∈ s.struck.bad ↔ k ∈ s.bad ∨ s.strikes k true ∨ (s.strikes k false ∧ k ∈ s.soft)) ∧
    (k ∈ s.struck.soft ↔ (k ∈ s.soft ∧ (k ∈ s.bad ∨ ¬(s.strikes k true ∨ s.strikes k false))) ∨
      (s.strikes k false ∧ k ∉ s.bad ∧ k ∉ s.soft)) := by
  cases h : Config.memoryFault s.freeCtr with
  | none => simp [State.struck, h, State.not_strikes h]
  | some x =>
    obtain ⟨a, two⟩ := x
    rw [State.strikes_iff h, State.strikes_iff h, State.struck]
    simp only [h]
    generalize wordKey a = w
    cases hq : homeQuad w with
    | none => simp
    | some q =>
      by_cases hk : k = w
      · subst hk
        by_cases hb : k ∈ s.bad
        · simp [hb]
        · by_cases hs : k ∈ s.soft <;> cases two <;> simp [hb, hs, mem_insertNat]
      · by_cases hb : w ∈ s.bad
        · simp [hb, hk]
        · by_cases hs : w ∈ s.soft <;> cases two <;> simp [hb, hs, hk, mem_insertNat]

theorem State.die_struck (n : Nat) : s.struck.die n = s.die n := by rw [State.struck_eq]; rfl

theorem execPatrolScrub_eq {w q : Nat} (hq : homeQuad (wordKey w) = some q) : execPatrolScrub w s =
    if wordKey w ∈ s.struck.bad then .next (s.struck.logBad (qkDie q) (wordKey w))
    else if wordKey w ∈ s.struck.soft then
      .next { s.struck.setDie { s.struck.die (qkDie q) with corrected := countUp (s.struck.die (qkDie q)).corrected 1 } with
        soft := s.struck.soft.filter (· != wordKey w) }
    else .next s.struck := by
  rw [execPatrolScrub]
  simp only [hq, List.contains_iff_mem]

/-! ### Errors of a link, a machine check, a loss, an alarm (09 R175, 19 R343, 22 R393, R395) -/

theorem State.poison_eq (s : State) (pick : NetBar → Bool) : s.poison pick =
    { s with netBars := s.netBars.map fun b => if pick b = true ∧ b.red ≠ 0 then { b with poisoned := true } else b } := by
  rw [State.poison]
  congr 1
  refine List.map_congr_left fun b _ => ?_
  by_cases hp : pick b = true
  · by_cases hr : b.red = 0
    · cases b; simp_all
    · simp [hp, hr]
  · simp [hp]
theorem State.lostDies_loseDie (s : State) (die : Nat) : (s.loseDie die).lostDies = insertNat die s.lostDies :=
  (kept_foldl (Kept.refl _) fun _ _ hk => kept_barSettle hk : Kept _ (s.loseDie die)).2
theorem State.loseDie_of_none {s : State} {die : Nat}
    (h : ∀ b ∈ s.netBars, (∀ x ∈ s.participants b, gidDie x.gid ≠ die) ∧ ∀ a ∈ b.arrivals, gidDie a.gid ≠ die) :
    s.loseDie die = { s with lostDies := insertNat die s.lostDies } := by
  have hit : ∀ b ∈ s.netBars,
      ((s.participants b).any (fun t => gidDie t.gid == die) || b.arrivals.any fun a => gidDie a.gid == die) = false := fun b hb => by
    obtain ⟨hp, ha⟩ := h b hb
    simpa using ⟨hp, ha⟩
  rw [State.loseDie]
  dsimp only
  rw [List.filter_eq_nil_iff.2 fun b hb => by simp [hit b hb], State.poison_eq]
  simp only [List.map_nil, dedup, List.foldl_nil]
  congr 1
  exact (List.map_congr_left fun b hb => by simp [hit b hb]).trans (List.map_id _)
/-- The core records after one change that keeps each key. -/
theorem find?_map_core {f : Core → Core} (hf : ∀ c, (f c).key = c.key) (l : List Core) (k : Nat) :
    (l.map f).find? (·.key == k) = (l.find? (·.key == k)).map f := by
  rw [List.find?_map]
  congr 2
  funext c
  exact congrArg (· == k) (hf c)
theorem State.core_key (s : State) (k : Nat) : (s.core k).key = k := by
  rw [State.core]
  cases h : s.cores.find? (·.key == k) with
  | none => rfl
  | some c => simpa using List.find?_some h
/-- A core after a thermal alarm has lowered the refill of a die to `r`: a core with a record has it lowered there, a fresh one takes the die's. -/
theorem State.core_alarm (s : State) (n r k : Nat) :
    State.core { s.setDie { s.die n with refill := min (s.die n).refill r } with
      cores := s.cores.map fun c => if ckDie c.key == n then { c with refill := min c.refill r } else c } k =
    if ckDie k = n then { s.core k with refill := min (s.core k).refill r } else s.core k := by
  have hdie := s.die_setDie_num { s.die n with refill := min (s.die n).refill r } n (s.die_num n) (ckDie k)
  rw [State.core, State.core, find?_map_core (fun c => by split <;> rfl)]
  cases h : s.cores.find? (·.key == k) with
  | none =>
    show { Core.fresh k with refill := ((s.setDie { s.die n with refill := min (s.die n).refill r }).die (ckDie k)).refill } = _
    rw [hdie]
    by_cases hk : ckDie k = n
    · simp [hk]
    · simp [hk]
  | some c =>
    have hc : c.key = k := by simpa using List.find?_some h
    simp [hc]
end

/-! ### Package reset (07 R140) -/

theorem lookupCell_filter (p : Nat → Bool) (cells : List Host.Cell) (a : Nat) :
    lookupCell a (cells.filter fun c => p c.1) = if p a then lookupCell a cells else none := by
  induction cells with
  | nil => simp [lookupCell]
  | cons c cells ih =>
    obtain ⟨k, v⟩ := c
    by_cases hk : k = a
    · subst hk
      by_cases hp : p k = true
      · simp [hp, lookupCell]
      · simp [hp, ih]
    · by_cases hp : p k = true
      · simp [hp, hk, lookupCell, ih]
      · simp [hp, hk, lookupCell, ih]
/-- Memory after its cells outside the package are kept. -/
theorem Memory.byte_filter (m : Memory) (p : Nat → Bool) (a : Nat) :
    Memory.byte { m with cells := m.cells.filter fun c => p c.1 } a = if p a then m.byte a else Memory.byte { m with cells := [] } a := by
  rw [Memory.byte, lookupCell_filter]
  cases p a <;> rfl
end Sys2Proof.Machine
open Sys2Proof.Machine

theorem partFaultsClause : Clause.PartFaults := by
  intro s
  refine ⟨⟨State.struck_eq, fun k => (State.mem_struck k).1, fun k => (State.mem_struck k).2, fun w q hq => ?_⟩, fun n => ?_,
    fun core => ?_, fun pkg => ⟨fun hp hl => ?_, fun hp hl => ?_⟩, ?_, fun die refill => ?_⟩
  · have hx : exec (.patrolScrub w) s = _ := execPatrolScrub_eq hq
    have hd (t : Die) (h : t.num = qkDie q) : (s.struck.setDie t).die (qkDie q) = t :=
      (s.struck.die_setDie_num t _ h _).trans (if_pos rfl)
    have hnum := s.die_num (qkDie q)
    rw [State.logBad, State.die_struck] at hx
    intro k d
    by_cases hb : k ∈ s.struck.bad
    · refine ⟨_, hx.trans (if_pos hb), ?_, ?_⟩
      · rw [if_pos hb]; rfl
      · rw [if_pos hb]; exact hd { d with uncorrectable := _, lastBad := k } hnum
    · by_cases hs : k ∈ s.struck.soft
      · refine ⟨_, hx.trans ((if_neg hb).trans (if_pos hs)), ?_, ?_⟩
        · rw [if_neg hb]; rfl
        · rw [if_neg hb, if_pos hs]; exact hd { d with corrected := _ } hnum
      · refine ⟨_, hx.trans ((if_neg hb).trans (if_neg hs)), ?_, ?_⟩
        · rw [if_neg hb, List.filter_eq_self.2 fun x hx => by simpa using fun h : x = k => hs (h ▸ hx)]
        · rw [if_neg hb, if_neg hs, State.die_struck]
  · show ∃ t, execLinkFlitError n s = .next t ∧ _
    rw [execLinkFlitError]
    cases hit : (Config.barrierError s.freeCtr).bind fun i => s.netBars[i]? with
    | none =>
      have hset := ({ s with freeCtr := s.freeCtr + 1 } : State).die_setDie_num
        { s.die n with replays := countUp (s.die n).replays 1 } n (State.die_num ..)
      refine ⟨_, rfl, ?_, ?_, fun k hk => ?_, ?_⟩
      · rfl
      · exact (hset n).trans (if_pos rfl)
      · exact (hset k).trans (if_neg hk)
      · simp
    | some b =>
      refine ⟨_, rfl, ?_, rfl, fun _ _ => rfl, ?_⟩
      · rw [State.poison_eq]
      · rw [State.poison_eq]
        refine List.map_congr_left fun b' _ => ?_
        simp only [beq_iff_eq, Option.some.injEq, eq_comm (a := b)]
  · refine ⟨_, rfl, fun h => ?_, fun m hm hc d hd => ?_⟩
    · rw [List.filter_eq_nil_iff.2 fun m hm => by simpa using h m hm]
      simp only [List.map_nil, dedup, List.foldl_nil]
      exact ⟨rfl, (s.die_setDie_num { s.die (ckDie core) with checks := countUp (s.die (ckDie core)).checks 1 } _ (s.die_num _) _).trans
        (if_pos rfl)⟩
    · rw [State.domain?_foldl_abortDomain, if_pos (mem_dedup.2 (List.mem_map.2 ⟨m, List.mem_filter.2 ⟨hm, by simpa using hc⟩, rfl⟩))]
      exact ⟨_, congrArg _ hd, rfl, rfl⟩
  · show execPackageLoss pkg s = _
    rw [execPackageLoss, if_neg hp, if_pos hl]
  · show ∃ t, execPackageLoss pkg s = .next t ∧ _
    rw [execPackageLoss, if_neg hp, if_neg (hl ▸ Bool.false_ne_true)]
    refine ⟨_, rfl, ?_, fun x => mem_insertNat, ?_⟩
    · rw [State.poison_eq]
    · rw [State.poison_eq]
      refine List.map_congr_left fun b _ => ?_
      refine if_congr ?_ rfl rfl
      rw [and_comm, Bool.or_eq_true, List.any_eq_true, List.any_eq_true]
      simp only [beq_iff_eq]
  · show ∃ t, execPackageLoss s.pkg s = .next t ∧ _
    rw [execPackageLoss, if_pos rfl]
    refine ⟨_, rfl, fun x => ?_, fun h => ?_⟩
    · rw [State.lostDies_loseDie]; exact mem_insertNat
    · rw [State.loseDie_of_none (s := { s with freeCtr := s.freeCtr + 1 }) h]
  · exact ⟨_, rfl, rfl, fun k => State.core_alarm s die (refill % 2 ^ 32) k⟩

theorem resetStepClause : Clause.ResetStep := by
  intro s
  refine ⟨_, rfl, rfl, rfl, fun h => ?_, fun a => ?_⟩
  · exact fit_execPackageReset (what := .canonical) h
  · exact (Memory.byte_filter s.mem (fun k => decide (5 ≤ keySel k)) a).trans (by simp)

/-- Settles O53: each fault of the part by its own step, the losses by what a settled barrier leaves unchanged, and package reset by the
cells that it keeps. -/
theorem partFaults : Obligations.PartFaults := ⟨partFaultsClause, resetStepClause⟩
end
section
/-!
SUPPORT. A step that issues one head (02 R23; 03 R52 to R58): what fetching leaves, and an issue with nothing due before it, outside a
gang and a handler and with no queue mapped.
-/
open Sys2Proof
namespace Sys2Proof.Machine

/-! ### What fetching leaves -/

section
variable {s : State}

theorem State.quad_key (s : State) (n : Nat) : (s.quad n).key = n := by
  rw [State.quad]
  cases h : s.quads.find? (·.key == n) with
  | none => rfl
  | some q => simpa using List.find?_some h
/-- The state `t` differs from `s` in translation entries alone, as far as an issue reads it. -/
structure State.Looked (s t : State) : Prop where
  threads : t.threads = s.threads
  iss : t.iss = s.iss
  cores : t.cores = s.cores
  gang : ∀ q, (t.quad q).gang = (s.quad q).gang

theorem State.Looked.refl (s : State) : s.Looked s := ⟨rfl, rfl, rfl, fun _ => rfl⟩
theorem State.gang_fillQuad (s : State) (q : Nat) (e : Tlb) (k : Nat) : ((s.fillQuad q e).quad k).gang = (s.quad k).gang := by
  rw [State.fillQuad]
  have hkey : ({ s.quad q with tlb := lruPut Config.quadTable e (s.quad q).tlb } : Quad).key = q := s.quad_key q
  by_cases h : k = q
  · have hself := s.quad_setQuad { s.quad q with tlb := lruPut Config.quadTable e (s.quad q).tlb }
    rw [hkey] at hself
    rw [h, hself]
  · rw [s.quad_setQuad_other _ k (hkey.symm ▸ h)]
theorem State.looked_lookupTlb (s : State) (q asid sel va : Nat) : s.Looked (s.lookupTlb q asid sel va).2 := by
  unfold State.lookupTlb
  split
  · exact ⟨rfl, rfl, rfl, s.gang_fillQuad _ _⟩
  · split
    · exact ⟨rfl, rfl, rfl, State.gang_fillQuad _ _ _⟩
    · exact State.Looked.refl s
theorem State.looked_of_fetch {t : State} {l : Line} (e : s.fetch = (t, l, none)) : s.Looked t := by
  revert e
  fun_cases State.fetch s with
  | case8 _ _ _ _ _ _ _ look =>
    intro e
    obtain ⟨rfl, -⟩ := Prod.mk.inj e
    have h := s.looked_lookupTlb s.myQuad s.me.asid 4 (pcLine s.me.pc.toNat % 2 ^ 48)
    rw [show s.lookupTlb s.myQuad s.me.asid 4 (pcLine s.me.pc.toNat % 2 ^ 48) = _ from look] at h
    exact h
  | case1 | case2 | case3 | case4 | case5 | case6 | case7 =>
    exact fun e => absurd (congrArg (·.2.2) e) (Option.some_ne_none _)
end

/-! ### An issue with nothing before it -/

/-- The operation `o` alone, parked at its issue on `s` (00 R9). -/
def State.parking (s : State) (o : Op) : Parked := { op := o, v := none, succ := s.iss.succ, lead := none, half := false }
/-- The stream that `o`, run on `s`, has opened in `t`, if any, is resumed from `s` (17 R290). -/
def State.opening (s : State) (o : Op) (t : State) : State :=
  t.modMe fun x => { x with stream := x.stream.map fun y => y.opened s o.instr s.iss.pc s.iss.succ false }
/-- What is kept of an operation `o`, run on `s`, that has left `t`: the stream it has opened, and the operation itself if it is parked before
its effect (00 R9, 17 R290). -/
def State.kept (s : State) (o : Op) (t : State) : State :=
  t.modThread t.iss.gid fun x => { x with
    stream := x.stream.map (fun y => y.opened s o.instr s.iss.pc s.iss.succ false)
    parked := match x.wait with
      | some w => (match w.why with
        | .parked _ _ => if t.iss.again = true then some (s.parking o) else x.parked
        | _ => x.parked)
      | none => x.parked }
/-- A thread that waits for nothing, has nothing due before its issue, is in no handler and maps no queue. -/
structure Thread.Free (m : Thread) : Prop where
  wait : m.wait = none
  stream : m.stream = none
  halfOnly : m.halfOnly = false
  qmap : m.qmap = 0
  handler : m.handler = false
  dfr : m.dfr = []
  cycle : m.cycle = none
  wdPending : m.wdPending = false
  uiOn : m.uiOn = false

section
variable {s s2 : State} {g : Nat} {m : Thread} {l : Line} {o : Op} {exec : Instr → State → Out}

theorem State.preIssue_of_free (hm : s.thread? g = some m) (hh : m.handler = false) (hd : m.dfr = []) (hc : m.cycle = none)
    (hw : m.wdPending = false) (hu : m.uiOn = false) : s.preIssue g = none := by
  simp [State.preIssue, State.thread_of hm, hh, hd, hc, hw, hu, State.takesInterrupt]
/-- The state in which a thread that may issue fetches its line. -/
def State.fetching (s : State) (g : Nat) (pc : Nat) : State :=
  { s.modThread g (fun x => { x with wait := none, stat := .running, halfOnly := false }) with iss := { Issue.none with gid := g, pc := pc } }
/-- The PC after the head at `pc`. -/
def lineSucc (l : Line) (pc : Nat) : Nat := if pcSlot pc < l.nh then pc + 1 else pcLine pc + 65
theorem lineSucc_eq (l : Line) (pc : Nat) :
    (if pcSlot pc < l.nh then pcLine pc + pcSlot pc + 1 else pcLine pc + 65) = lineSucc l pc := by
  rw [lineSucc, pcLine, pcSlot, Nat.div_add_mod' pc 64]
theorem issueWith_eq_issueOps (hm : s.thread? g = some m) (hready : s.ready m = true) (h : m.Free)
    (hgang : (s.quad (gidQk g)).gang = none) (hf : (s.fetching g m.pc.toNat).fetch = (s2, l, none))
    (ho : opAt l (pcSlot m.pc.toNat) = some o) (hb : o.bp = false) :
    issueWith exec g s =
      ({ s2 with iss := { s2.iss with succ := lineSucc l m.pc.toNat } }).issueOps exec o none none := by
  unfold issueWith
  rw [hm]
  dsimp -zeta only
  rw [if_neg (by simp [hready])]
  extract_lets +onlyGivenNames half s1 q lead
  have hhalf : half = false := by simp [half, h.halfOnly, h.wait]
  have hlead : lead = none := by
    have hq : q.gang = none := hgang
    simp only [lead, hq]
  have hm1 := s.thread?_modThread_self g
    (fun t => { t with wait := none, stat := .running, halfOnly := if t.stream.isSome then t.halfOnly else half }) m hm fun _ e => e
  have hpre : s1.preIssue g = none := State.preIssue_of_free hm1 h.handler h.dfr h.cycle h.wdPending h.uiOn
  rw [h.stream, h.wait]
  dsimp -zeta only
  rw [hpre]
  dsimp -zeta only
  extract_lets +onlyGivenNames pc moved blank s3
  have hmoved : s1.modThread g (fun t => { t with halfOnly := false }) =
      s.modThread g (fun x => { x with wait := none, stat := .running, halfOnly := false }) := s.modThread_modThread g _ _ fun _ => rfl
  have h3 : s3 = s.fetching g m.pc.toNat := by
    show ({ s1.modThread g (fun t => { t with halfOnly := false }) with
      iss := { Issue.none with gid := g, pc := m.pc.toNat, follow := lead.map Prod.fst, half := half } } : State) = _
    rw [hlead, hhalf, hmoved]
    rfl
  rw [h3, hf]
  dsimp -zeta only
  extract_lets +onlyGivenNames i after stop
  have hop : opIn (m.qmap != 0) l i = some o := by rw [h.qmap]; exact ho
  have hafter : after i = lineSucc l m.pc.toNat := lineSucc_eq ..
  rw [hop, hlead]
  dsimp -zeta only
  rw [if_pos (by simp [hb]), hafter]

/-! ### Running one head -/

theorem State.budget_core {t : State} (h : t.cores = s.cores) (k : Nat) : (t.core k).budget = (s.core k).budget := by
  rw [State.core, State.core, h]
  cases s.cores.find? (·.key == k) <;> rfl
/-- An issue is not held for energy unless it is a vector issue on a spent budget. -/
theorem State.issueOps_one (hm : s.thread? s.iss.gid = some m) (hh : m.handler = false)
    (hgang : (s.quad (gidQk s.iss.gid)).gang = none)
    (henergy : isV (opcodeOf o.instr) = false ∨ 0 < (s.core (gidCk s.iss.gid)).budget) :
    s.issueOps exec o none none = (s.turn s.iss.gid).runOps exec o none none := by
  have hno : 0 < (s.core (gidCk s.iss.gid)).budget → s.noEnergy s.iss.gid = false := fun h => by
    have hg : s.gangOf s.iss.gid = [] := by rw [State.gangOf, hgang]
    simp [State.noEnergy, State.thread_of hm, hh, hg, h]
  rw [State.issueOps]
  rcases henergy with hv | hb
  · simp [hv]
  · simp [hno hb]
theorem State.modThread_congr {f k : Thread → Thread} (h : ∀ x ∈ s.threads, x.gid = g → f x = k x) :
    s.modThread g f = s.modThread g k := by
  rw [State.modThread, State.modThread]
  congr 1
  refine List.map_congr_left fun x hx => ?_
  by_cases hg : x.gid = g
  · rw [h x hx hg]
  · simp [hg]
theorem State.modThread_same {f : Thread → Thread} (h : ∀ x, f x = x) : s.modThread g f = s := by
  have hmap : (s.threads.map fun x => if x.gid == g then f x else x) = s.threads :=
    (List.map_congr_left fun x _ => by rw [h x, ite_self]; rfl).trans (List.map_id _)
  rw [State.modThread, hmap]
theorem State.alike.me (h : s.alike) {x : Thread} (hx : x ∈ s.threads) (hg : x.gid = s.iss.gid) :
    (x.wait.map Wait.parks).getD false = (s.me.wait.map Wait.parks).getD false := by
  obtain ⟨b, hb⟩ := h
  cases hfind : s.thread? s.iss.gid with
  | none => exact absurd (beq_iff_eq.2 hg) (List.find?_eq_none.1 hfind x hx)
  | some y =>
    rw [hb x hx hg, s.me_of y hfind]
    exact (hb y (List.mem_of_find?_eq_some hfind) (s.thread?_gid _ _ hfind)).symm
theorem State.alike.modMe (h : s.alike) {f : Thread → Thread} (hw : ∀ x, (f x).wait = x.wait) : (s.modMe f).alike := by
  obtain ⟨b, hb⟩ := h
  exact alike_modMe fun x hx hgid => (hw x).symm ▸ hb x hx hgid
/-- What `x` keeps as parked, by what its wait is and whether it issues again. -/
theorem State.parkedAs (x : Thread) (again : Bool) (p : Parked) :
    (if (again && (x.wait.map Wait.parks).getD false) = true then some p else x.parked) = match x.wait with
      | some w => (match w.why with
        | .parked _ _ => if again = true then some p else x.parked
        | _ => x.parked)
      | none => x.parked := by
  cases hw : x.wait with
  | none => simp
  | some w =>
    cases hy : w.why <;> simp [Wait.parks, hy]
/-- Where the threads of the issuing thread's number are parked alike, each is kept as the first of them is. -/
theorem State.kept_eq {t : State} (h : t.iss.again = true → t.alike) :
    (if (s.opening o t).iss.again && (match (s.opening o t).me.wait with
      | some w => (match w.why with | .parked _ _ => true | _ => false) | none => false)
    then (s.opening o t).modMe fun x => { x with parked := some (s.parking o) }
    else s.opening o t) = State.kept s o t := by
  have hkept : State.kept s o t = (s.opening o t).modMe fun x => { x with
      parked := if ((s.opening o t).iss.again && (x.wait.map Wait.parks).getD false) = true then some (s.parking o) else x.parked } := by
    rw [State.modMe, show (s.opening o t).iss = t.iss from rfl, State.opening, State.modMe, State.modThread_modThread _ _
      (fun x => { x with stream := x.stream.map fun y => y.opened s o.instr s.iss.pc s.iss.succ false }) _ fun _ => rfl]
    refine State.modThread_congr fun x _ _ => ?_
    rw [← State.parkedAs]
  generalize hu : s.opening o t = u at *
  have hparks : (match u.me.wait with | some w => (match w.why with | .parked _ _ => true | _ => false) | none => false) =
      (u.me.wait.map Wait.parks).getD false := by
    cases u.me.wait with
    | none => rfl
    | some w => rfl
  rw [hkept, hparks]
  cases ha : u.iss.again with
  | false => exact (State.modThread_same fun x => by simp).symm
  | true =>
    have halike : u.alike := by
      subst hu
      exact (h ha).modMe fun _ => rfl
    split
    · next hp =>
      refine State.modThread_congr fun x hx hg => ?_
      rw [halike.me hx hg]
      simp [hp]
    · next hp =>
      refine Eq.trans (State.modThread_same fun _ => rfl).symm (State.modThread_congr (f := id) fun x hx hg => ?_)
      rw [halike.me hx hg]
      simp [hp]
theorem State.qcheck_of_unmapped {is : List Instr} (hm : s.thread? s.iss.gid = some m) (hq : m.qmap = 0) : s.qcheck is = .go [] := by
  simp [State.qcheck, s.me_of m hm, hq]
/-- An operation of a free thread outside a gang runs alone; what it leaves may be a stream, or an operation parked before its effect. -/
theorem State.runOps_one (hm : s.thread? s.iss.gid = some m) (hq : m.qmap = 0) (hgang : (s.quad (gidQk s.iss.gid)).gang = none)
    (hpops : s.iss.pops = []) (hhalf : s.iss.half = false)
    (hend : ∀ t, s.runOne exec o.instr (Op.head o) (m.pred o.p.val != o.pn) = .next t → t.iss.again = true → t.alike) :
    s.runOps exec o none none = match s.runOne exec o.instr (Op.head o) (m.pred o.p.val != o.pn) with
      | .next t => .next (State.kept s o t).finish
      | r => r := by
  unfold State.runOps
  extract_lets +onlyGivenNames io ion von is kp
  have hion : ion = (m.pred o.p.val != o.pn) := by
    simp only [ion, State.takes, State.p, s.me_of m hm]
  rw [State.qcheck_of_unmapped hm hq]
  dsimp -zeta only
  extract_lets +onlyGivenNames issue s' whole r
  have hs : s' = s := by
    have hiss : ({ s.iss with pops := [] } : Issue) = s.iss := by rw [← hpops]
    show ({ s with iss := { s.iss with pops := [] } } : State) = s
    rw [hiss]
  have hr : r = match s.runOne exec o.instr (Op.head o) ion with
      | .next t => .next (t.modMe fun x => { x with stream := x.stream.map fun y => y.opened s o.instr s.iss.pc s.iss.succ s.iss.half })
      | o => o := by
    show (match s'.runOne exec o.instr (Op.head o) ion with
      | .next t => .next (t.modMe fun x => { x with stream := x.stream.map fun y => y.opened s' o.instr s'.iss.pc s'.iss.succ s'.iss.half })
      | o => o : Out) = _
    rw [hs]
  have hlead : ∀ (t : State) (pred all : Bool), t.lead s' pred all = t := fun t pred all => by
    rw [State.lead, hs, hgang]
  clear_value ion
  rw [hr, hion]
  cases e : s.runOne exec o.instr (Op.head o) (m.pred o.p.val != o.pn) with
  | next t =>
    dsimp -zeta only
    rw [hlead, ← State.kept_eq (hend t e), hhalf]
    simp only [kp, hhalf] <;> rfl
  | fault | refused => rfl
/-- What runs one head leaves the threads of its number parked alike where it is to issue again. -/
theorem State.alike_of_runOne {t : State} {i : Instr} {hw : Nat} {on : Bool} (hgang : (s.quad (gidQk s.iss.gid)).gang = none)
    (hagain : s.iss.again = false) (e : s.runOne Machine.exec i hw on = .next t) : t.iss.again = true → t.alike := by
  have hfit : Out.fit .single (s.runOne Machine.exec i hw on) := by
    have hs : s.fit .single := hagain
    rw [State.runOne]
    exact Out.fit_ite (fit_exec i hs fun _ => hgang) (fit_ok hs)
  rw [e] at hfit
  exact hfit
/-- The state in which the head at `pc` of a fetched line issues: the issue is recorded, and the thread has taken its turn. -/
def State.issuing (s : State) (g pc succ : Nat) : State :=
  { s.turn g with iss := { Issue.none with gid := g, pc := pc, succ := succ } }
/-- A step with a free thread outside a gang selected: the head at its PC runs alone on the state in which it issues, and what it leaves is
kept. -/
theorem issueWith_one (hm : s.thread? g = some m) (hready : s.ready m = true) (h : m.Free)
    (hgang : (s.quad (gidQk g)).gang = none) (hf : (s.fetching g m.pc.toNat).fetch = (s2, l, none))
    (ho : opAt l (pcSlot m.pc.toNat) = some o) (hb : o.bp = false)
    (henergy : isV (opcodeOf o.instr) = false ∨ 0 < (s.core (gidCk g)).budget) :
    let u := s2.issuing g m.pc.toNat (lineSucc l m.pc.toNat)
    issueWith Machine.exec g s = match u.runOne Machine.exec o.instr (Op.head o) (m.pred o.p.val != o.pn) with
      | .next t => .next (State.kept u o t).finish
      | r => r := by
  intro u
  obtain ⟨hthreads, hiss, hcores, hgangs⟩ := State.looked_of_fetch hf
  have hm1 : (s.fetching g m.pc.toNat).thread? g = some { m with wait := none, stat := .running, halfOnly := false } :=
    s.thread?_modThread_self g (fun x => { x with wait := none, stat := .running, halfOnly := false }) m hm fun _ e => e
  have hm2 : s2.thread? g = some { m with wait := none, stat := .running, halfOnly := false } := by
    rw [State.thread?, hthreads]; exact hm1
  have hgang2 : (s2.quad (gidQk g)).gang = none := (hgangs _).trans hgang
  have hu : u.thread? g = some { m with wait := none, stat := .running, halfOnly := false, lastIssue := some s2.clock } :=
    State.thread?_modThread_self (s2.setCore _) g (fun t => { t with lastIssue := some s2.clock }) _ hm2 fun _ e => e
  rw [issueWith_eq_issueOps hm hready h hgang hf ho hb, hiss]
  have henergy2 := henergy.imp_right fun h => (State.budget_core hcores (gidCk g)).symm ▸ h
  refine (State.issueOps_one (s := { s2 with iss := { Issue.none with gid := g, pc := m.pc.toNat, succ := lineSucc l m.pc.toNat } })
    hm2 h.handler hgang2 henergy2).trans ?_
  exact State.runOps_one (s := u) (m := { m with wait := none, stat := .running, halfOnly := false, lastIssue := some s2.clock }) hu
    h.qmap hgang2 rfl rfl fun t e => State.alike_of_runOne (s := u) hgang2 rfl e
end
end Sys2Proof.Machine
open Sys2Proof.Machine

/-- Settles O55: an issue of a free thread outside a gang is one run of its head, after which the queues close and the parked operations
that are awake complete. That an operation which is to issue again leaves its threads parked alike, whatever it is, is `fit_exec`. -/
theorem stepRunsDecoded : Obligations.StepRunsDecoded := by
  intro s s2 g rest m l o hq hm hready hwait hstream hhalf hqmap hhandler hdfr hcycle hwd hui hgang pc own hf ho hb henergy next sel s3 keep after
  have h : m.Free := ⟨hwait, hstream, hhalf, hqmap, hhandler, hdfr, hcycle, hwd, hui⟩
  have hone := issueWith_one (s := { s with issueQ := rest }) hm hready h hgang hf ho hb henergy
  rw [step, stepWith, hq]
  dsimp -zeta only
  rw [hone]
  have hrun : (s2.issuing g m.pc.toNat (lineSucc l m.pc.toNat)).runOne exec o.instr (Op.head o) (m.pred o.p.val != o.pn) =
      if (m.pred o.p.val != o.pn) = true then exec o.instr s3 else sel.ok := rfl
  rw [hrun]
  cases (if (m.pred o.p.val != o.pn) = true then exec o.instr s3 else sel.ok) <;> rfl
end

section
/-! Statements of `00_scope` that the laws of memory and the reset state give at once. -/
open Sys2Proof Sys2Proof.Machine

/-- Settles O16. -/
theorem memoryReadAfterWrite : Obligations.MemoryReadAfterWrite :=
  fun m k a bs h => m.byte_write h k a bs

/-- Settles O57: no core and no quad is listed at reset, so each reads its default. -/
theorem resetState : Obligations.ResetState :=
  ⟨rfl, rfl, rfl, rfl, rfl, rfl, rfl, rfl, rfl, rfl, rfl, rfl, rfl, rfl, rfl, fun _ => ⟨rfl, rfl⟩, fun _ => ⟨rfl, rfl⟩⟩

/-- Settles O58: nothing is listed in reset memory. -/
theorem resetMemoryCanonical : Obligations.ResetMemoryCanonical := rfl
end

section
/-!
SUPPORT. The closure of an instant (02 R41, R42): what the dealer's steps leave of a domain whose threads are all paused and
stand in no guard, and of one without threads.
-/
open Sys2Proof
namespace Sys2Proof.Machine

section
variable {s t : State} {n k a : Nat} {d x : Domain} {l : List Nat}

/-! ### Records of a domain, and the threads of a domain -/

theorem State.domain?_modDomain (h : s.domain? n = some d) (f : Domain → Domain) (hf : ∀ x, (f x).num = x.num) :
    (s.modDomain n f).domain? n = some (f d) := by
  have hmap := find?_map_key Domain.num f n n s.domains fun x hx => (hf x).trans hx
  rw [if_pos rfl] at hmap
  exact hmap.trans (congrArg (Option.map f) h)

/-- Every thread of a domain changes. -/
def State.modThreadsOf (s : State) (n : Nat) (f : Thread → Thread) : State :=
  { s with threads := s.threads.map fun m => if m.dom == n then f m else m }
theorem State.thread?_modThreadsOf (s : State) (n : Nat) {f : Thread → Thread} (hf : ∀ m, (f m).gid = m.gid) (g : Nat) :
    (s.modThreadsOf n f).thread? g = (s.thread? g).map fun m => if m.dom = n then f m else m := by
  have hgid : ((·.gid == g) ∘ fun m : Thread => if m.dom = n then f m else m) = (·.gid == g) := by
    funext m
    by_cases h : m.dom = n <;> simp [h, hf]
  simp only [State.thread?, State.modThreadsOf, beq_iff_eq, List.find?_map, hgid]
/-- What the threads of the domain become depends on the threads alone. -/
theorem State.modThreadsOf_threads {f : Thread → Thread} (h : s.threads = t.threads) :
    (s.modThreadsOf n f).threads = (t.modThreadsOf n f).threads := by
  rw [State.modThreadsOf, h]; rfl
/-- A property that the change gives each thread of the domain holds of its threads. -/
theorem State.forall_modThreadsOf {f : Thread → Thread} {P : Thread → Prop} (h : ∀ m ∈ s.threads, m.dom = n → P (f m)) :
    ∀ m ∈ (s.modThreadsOf n f).threads, m.dom = n → P m := by
  intro m hm hn
  obtain ⟨x, hx, rfl⟩ := List.mem_map.1 hm
  by_cases hd : x.dom = n
  · simpa [hd] using h x hx hd
  · simp [hd] at hn

/-! ### What the dealer leaves alone -/

/-- Only the fields that the dealer's steps write have changed. -/
def State.Dealt (s t : State) : Prop :=
  ∃ ths ds cs m ps, t = { s with threads := ths, domains := ds, cores := cs, mem := m, pages := ps }
theorem State.Dealt.trans {u : State} (hst : s.Dealt t) (htu : t.Dealt u) : s.Dealt u := by
  obtain ⟨_, _, _, _, _, rfl⟩ := hst
  obtain ⟨ths, ds, cs, m, ps, rfl⟩ := htu
  exact ⟨ths, ds, cs, m, ps, rfl⟩
theorem State.Dealt.eq (h : s.Dealt t) :
    t = { s with threads := t.threads, domains := t.domains, cores := t.cores, mem := t.mem, pages := t.pages } := by
  obtain ⟨_, _, _, _, _, rfl⟩ := h
  rfl
theorem State.dealt_modDomain (s : State) (n : Nat) (f : Domain → Domain) : s.Dealt (s.modDomain n f) := ⟨_, _, _, _, _, rfl⟩
theorem State.dealt_modThreadsOf (s : State) (n : Nat) (f : Thread → Thread) : s.Dealt (s.modThreadsOf n f) := ⟨_, _, _, _, _, rfl⟩

/-! ### Step 2 without guards -/

theorem Thread.guardAt_of_nil {m : Thread} (h : m.guards = []) (k : Nat) : m.guardAt k = none := by
  have hvisited : m.visited = [] := by unfold Thread.visited; split <;> simp [h]
  rw [Thread.guardAt, hvisited, List.getElem?_nil]
theorem State.visitDepth_unguarded (h : ∀ m ∈ s.threads, m.dom = n → m.guards = []) (held : List (Nat × Nat)) (k : Nat) :
    State.visitDepth n (s, held) k = (s, held) := by
  have hnone : ((s.threads.filter (·.dom == n)).filterMap fun m => (m.guardAt k).map (·.id)) = [] := by
    refine List.filterMap_eq_nil_iff.2 fun m hm => ?_
    obtain ⟨hm, hn⟩ := List.mem_filter.1 hm
    rw [Thread.guardAt_of_nil (h m hm (by simpa using hn))]
    rfl
  rw [State.visitDepth, hnone]
  rfl
/-- A thread of the domain that no guard holds, after step 2. -/
def Thread.rested (m : Thread) : Thread := { m with stat := .paused, heldBy := none }
theorem State.dealerGuards_unguarded (h : ∀ m ∈ s.threads, m.dom = n → m.guards = []) :
    s.dealerGuards n = s.modThreadsOf n Thread.rested := by
  rw [State.dealerGuards, List.foldl_fixed' (State.visitDepth_unguarded h [])]
  refine congrArg (fun ts => ({ s with threads := ts } : State)) (List.map_congr_left fun m _ => ?_)
  by_cases hn : m.dom = n <;> simp [hn, Thread.rested]

/-! ### The inputs of an instant -/

/-- The inputs to a domain that a page has accepted and not performed: signal and value of each (22 R383; log 49). -/
def State.accepted (s : State) (d : Domain) : List (Nat × Nat) :=
  s.pages.flatMap fun p => (p.cmds.filter (s.takesInput d p)).map fun c => (c.arg 2 2, c.arg 4 8)
/-- The host's inputs that the closure of a domain applies. -/
def State.given (s : State) (d : Domain) : List (Nat × Nat) := d.inputs ++ s.accepted d
/-- The pages once the closure has performed their inputs. -/
def State.givenPages (s : State) (d : Domain) : List Page :=
  s.pages.map fun p => { p with
    cmds := p.cmds.map fun c => if s.takesInput d p c = true then { c with result := some (0, d.inst + 1, 0) } else c }
/-- The state with the accepted inputs among those of the domain. -/
def State.withInputs (s : State) (n : Nat) (d : Domain) : State :=
  ({ s with pages := s.givenPages d } : State).modDomain n fun x => { x with inputs := x.inputs ++ s.accepted d }
@[simp] theorem State.withInputs_threads (s : State) (n : Nat) (d : Domain) : (s.withInputs n d).threads = s.threads := rfl
@[simp] theorem State.withInputs_cores (s : State) (n : Nat) (d : Domain) : (s.withInputs n d).cores = s.cores := rfl
@[simp] theorem State.withInputs_pages (s : State) (n : Nat) (d : Domain) : (s.withInputs n d).pages = s.givenPages d := rfl
@[simp] theorem State.withInputs_iqs (s : State) (n : Nat) (d : Domain) : (s.withInputs n d).iqs = s.iqs := rfl
@[simp] theorem State.withInputs_clock (s : State) (n : Nat) (d : Domain) : (s.withInputs n d).clock = s.clock := rfl
@[simp] theorem State.withInputs_mem (s : State) (n : Nat) (d : Domain) : (s.withInputs n d).mem = s.mem := rfl
theorem State.dealt_withInputs (s : State) (n : Nat) (d : Domain) : s.Dealt (s.withInputs n d) := ⟨_, _, _, _, _, rfl⟩
theorem State.takeInputs_of (h : s.domain? n = some d) : s.takeInputs n = s.withInputs n d := by
  rw [State.takeInputs, h]
  rfl
theorem State.domain?_withInputs (h : s.domain? n = some d) :
    (s.withInputs n d).domain? n = some { d with inputs := s.given d } :=
  State.domain?_modDomain (s := { s with pages := s.givenPages d }) h _ fun _ => rfl

/-! ### Entries brought into an instant -/

@[simp] theorem Sig.inst_combine (g : Sig) (v : Nat) : (g.combine v).inst = g.inst := by
  unfold Sig.combine; split <;> rfl
theorem Sig.inst_bring (g : Sig) (k c : Nat) (ins : List Nat) : (g.bring k c ins).inst = k % 2 ^ 24 := by
  unfold Sig.bring
  split
  · assumption
  · refine List.foldlRecOn ins Sig.combine (motive := fun x => x.inst = k % 2 ^ 24) ?_ fun x hx v _ => (x.inst_combine v).trans hx
    rfl
/-- An entry that stands in the instant is left as it is. -/
theorem Sig.bring_bring (g : Sig) (k c c' : Nat) (ins ins' : List Nat) : (g.bring k c ins).bring k c' ins' = g.bring k c ins := by
  rw [Sig.bring, if_pos (g.inst_bring k c ins)]

/-- The byte at `a` lies in none of the three words of the entry `k`. -/
def Domain.Clear (d : Domain) (k a : Nat) : Prop :=
  ∀ arr, arr = 0 ∨ arr = 0x8000 ∨ arr = 0x10000 → a < d.sigKey arr k ∨ d.sigKey arr k + 8 ≤ a
theorem Memory.byte_write_outside {m : Memory} (hm : m.wf = true) {w : Nat} (ha : a < w ∨ w + 8 ≤ a) (v : Nat) :
    (m.write w (bytesOf 8 v)).byte a = m.byte a := by
  rw [m.byte_write hm, bytesOf_length, if_neg (by omega)]
theorem Domain.byte_tableMem {m : Memory} (hm : m.wf = true) (ha : d.Clear k a) (g : Sig) :
    (d.tableMem k g m).byte a = m.byte a := by
  have hm1 := m.wf_write hm (d.sigKey 0 k) (bytesOf 8 g.word)
  have hm2 := Memory.wf_write _ hm1 (d.sigKey 0x8000 k) (bytesOf 8 g.val)
  rw [Domain.tableMem, Memory.byte_write_outside hm2 (ha _ (.inr (.inr rfl))),
    Memory.byte_write_outside hm1 (ha _ (.inr (.inl rfl))), Memory.byte_write_outside hm (ha _ (.inl rfl))]

/-- The values of a list of inputs that are meant for the signal `k`. -/
def insOf (given : List (Nat × Nat)) (k : Nat) : List Nat := (given.filter (·.1 == k)).map (·.2)
theorem insOf_ne_nil {given : List (Nat × Nat)} : insOf given k ≠ [] ↔ ∃ v, (k, v) ∈ given := by
  simp [insOf]

/-- `sigs` is the table of `d` with the entries of `l` brought into the instant of `d`. -/
def Domain.Brought (d : Domain) (l : List Nat) (sigs : List Sig) : Prop :=
  sigs.length = d.sigs.length ∧ ∀ k, (k ∉ l → sigs.getD k Sig.none = d.sigs.getD k Sig.none) ∧
    (k ∈ l → k < d.sigs.length → ∃ c, sigs.getD k Sig.none = (d.sigs.getD k Sig.none).bring d.inst c (insOf d.inputs k))
theorem Domain.Brought.concat {sigs : List Sig} (h : d.Brought l sigs) (k c : Nat) :
    d.Brought (l ++ [k]) (sigs.set k ((sigs.getD k Sig.none).bring d.inst c (insOf d.inputs k))) := by
  obtain ⟨hlen, hsigs⟩ := h
  refine ⟨by rw [List.length_set, hlen], fun j => ?_⟩
  obtain ⟨hout, hin⟩ := hsigs j
  by_cases hj : j = k
  · subst hj
    refine ⟨fun hl => absurd (by simp) hl, fun _ hlt => ?_⟩
    have hset : ∀ x, (sigs.set j x).getD j Sig.none = x := fun x => by simp [hlen, hlt]
    rw [hset]
    by_cases hl : j ∈ l
    · obtain ⟨c', hc⟩ := hin hl hlt
      exact ⟨c', by rw [hc, Sig.bring_bring]⟩
    · exact ⟨c, by rw [hout hl]⟩
  · have hset : ∀ x, (sigs.set k x).getD j Sig.none = sigs.getD j Sig.none := fun x => by simp [Ne.symm hj]
    rw [hset]
    simpa [hj] using hsigs j

/-- `t` is `s` with the entries of `l` of the domain `n`, whose record is `d`, brought into its instant. -/
structure State.Refreshed (s : State) (n : Nat) (d : Domain) (l : List Nat) (t : State) : Prop where
  frame : ∃ ds m, t = { s with domains := ds, mem := m }
  table : ∃ sigs, t.domain? n = some { d with sigs := sigs } ∧ d.Brought l sigs
  mem : s.mem.wf = true → t.mem.wf = true ∧ ∀ a, (∀ k ∈ l, d.Clear k a) → t.mem.byte a = s.mem.byte a
theorem State.Refreshed.threads (h : s.Refreshed n d l t) : t.threads = s.threads := by
  obtain ⟨_, _, rfl⟩ := h.frame; rfl
theorem State.Refreshed.cores (h : s.Refreshed n d l t) : t.cores = s.cores := by
  obtain ⟨_, _, rfl⟩ := h.frame; rfl
theorem State.Refreshed.dealt (h : s.Refreshed n d l t) : s.Dealt t := by
  obtain ⟨_, _, rfl⟩ := h.frame; exact ⟨_, _, _, _, _, rfl⟩
theorem State.Refreshed.pages (h : s.Refreshed n d l t) : t.pages = s.pages := by
  obtain ⟨_, _, rfl⟩ := h.frame; rfl
theorem State.Refreshed.clock (h : s.Refreshed n d l t) : t.clock = s.clock := by
  obtain ⟨_, _, rfl⟩ := h.frame; rfl
theorem State.Refreshed.iqs (h : s.Refreshed n d l t) : t.iqs = s.iqs := by
  obtain ⟨_, _, rfl⟩ := h.frame; rfl
theorem State.refresh_of (h : s.domain? n = some d) (k : Nat) :
    s.refresh n k = s.setEntry n k ((d.sigs.getD k Sig.none).bring d.inst (s.claimsOn n k) (insOf d.inputs k)) := by
  rw [State.refresh, h]
  rfl
theorem State.Refreshed.concat (h : s.Refreshed n d l t) (k : Nat) : s.Refreshed n d (l ++ [k]) (t.refresh n k) := by
  obtain ⟨⟨ds, m, hframe⟩, ⟨sigs, hdom, hsigs⟩, hmem⟩ := h
  rw [State.refresh_of hdom]
  generalize hc : t.claimsOn n k = c
  generalize hg : (sigs.getD k Sig.none).bring d.inst c (insOf d.inputs k) = g
  have hset : (t.setEntry n k g).mem = ({ d with sigs := sigs } : Domain).tableMem k g t.mem := by rw [State.setEntry, hdom]
  refine ⟨⟨(t.setEntry n k g).domains, (t.setEntry n k g).mem, ?_⟩, ⟨sigs.set k g, ?_, ?_⟩, fun hwf => ?_⟩
  · subst hframe; rfl
  · exact State.domain?_modDomain hdom _ fun _ => rfl
  · subst hg; exact hsigs.concat k c
  · obtain ⟨hwf, hbyte⟩ := hmem hwf
    rw [hset]
    refine ⟨Domain.wf_tableMem hwf, fun a ha => ?_⟩
    exact (Domain.byte_tableMem hwf (ha k (by simp)) g).trans (hbyte a fun j hj => ha j (by simp [hj]))
theorem State.refreshed_foldl (h : s.domain? n = some d) (l : List Nat) :
    s.Refreshed n d l (l.foldl (fun s k => s.refresh n k) s) := by
  induction l using List.reverseRecOn with
  | nil => exact ⟨⟨s.domains, s.mem, rfl⟩, ⟨d.sigs, h, rfl, by simp⟩, fun hwf => ⟨hwf, fun _ _ => rfl⟩⟩
  | append_singleton l k ih => rw [List.foldl_concat]; exact ih.concat k

/-! ### Step 3 -/

/-- The entries that step 3 brings into the instant `d` stands in. -/
def Domain.due (d : Domain) : List Nat :=
  (if d.inst % 2 ^ 23 = 0 then List.range d.sigs.length else []) ++ dedup (d.inputs.map (·.1))
theorem Domain.mem_due : k ∈ d.due ↔ (k < d.sigs.length ∧ d.inst % 2 ^ 23 = 0) ∨ ∃ v, (k, v) ∈ d.inputs := by
  rw [Domain.due, List.mem_append, mem_dedup]
  simp [and_comm]
/-- The record of a domain as its next instant begins. -/
def Domain.next (d : Domain) : Domain := { d with inst := (d.inst + 1) % 2 ^ 64 }
/-- A thread's claims are live again. -/
def Thread.reclaimed (m : Thread) : Thread := { m with claims := m.claims.map fun c => { c with live := true } }
/-- A core without what it has cached for a domain. -/
def Core.forgets (c : Core) (n : Nat) : Core :=
  { c with status := c.status.filter (·.1 != n), handles := c.handles.filter (·.1 != n) }
/-- The next instant of a domain begins; no entry has been brought into it yet. -/
def State.turnInstant (s : State) (n : Nat) : State :=
  { (s.modDomain n Domain.next).modThreadsOf n Thread.reclaimed with cores := s.cores.map (·.forgets n) }
@[simp] theorem State.turnInstant_threads (s : State) (n : Nat) :
    (s.turnInstant n).threads = (s.modThreadsOf n Thread.reclaimed).threads := rfl
@[simp] theorem State.turnInstant_cores (s : State) (n : Nat) : (s.turnInstant n).cores = s.cores.map (·.forgets n) := rfl
@[simp] theorem State.turnInstant_pages (s : State) (n : Nat) : (s.turnInstant n).pages = s.pages := rfl
@[simp] theorem State.turnInstant_iqs (s : State) (n : Nat) : (s.turnInstant n).iqs = s.iqs := rfl
@[simp] theorem State.turnInstant_clock (s : State) (n : Nat) : (s.turnInstant n).clock = s.clock := rfl
@[simp] theorem State.turnInstant_mem (s : State) (n : Nat) : (s.turnInstant n).mem = s.mem := rfl
theorem State.dealt_turnInstant (s : State) (n : Nat) : s.Dealt (s.turnInstant n) := ⟨_, _, _, _, _, rfl⟩
theorem State.domain?_turnInstant (h : s.domain? n = some d) : (s.turnInstant n).domain? n = some d.next :=
  State.domain?_modDomain h Domain.next fun _ => rfl
/-- The inputs of a domain have acted. -/
def State.withoutInputs (s : State) (n : Nat) : State := s.modDomain n fun x => { x with inputs := [] }
theorem State.domain?_withoutInputs (h : s.domain? n = some d) : (s.withoutInputs n).domain? n = some { d with inputs := [] } :=
  State.domain?_modDomain h (fun x => { x with inputs := [] }) fun _ => rfl
/-- Step 3: the next instant begins, its entries are brought into it, and the inputs have acted. -/
theorem State.dealerAdvance_of (h : s.domain? n = some d) :
    ∃ t, (s.turnInstant n).Refreshed n d.next d.next.due t ∧ s.dealerAdvance n = t.withoutInputs n := by
  have hdom : (s.turnInstant n).domain? n = some d.next := State.domain?_turnInstant h
  refine ⟨_, State.refreshed_foldl hdom d.next.due, ?_⟩
  unfold State.dealerAdvance
  dsimp only
  split
  · next hnone => exact absurd (hdom.symm.trans hnone) nofun
  · next x hx =>
    cases hdom.symm.trans hx
    rfl

/-! ### Step 4 for threads that are all paused -/

theorem State.iqSettle_of_none (h : ∀ q ∈ s.iqs, q.dom ≠ n) : s.iqSettle n = s := by
  have hnone : s.iqs.filter (·.dom == n) = [] := List.filter_eq_nil_iff.2 fun q hq => by simpa using h q hq
  rw [State.iqSettle, hnone]
  rfl
/-- The record of a domain that goes on. -/
def Domain.resumed (d : Domain) : Domain := { d with stat := .reacting, suspendTo := none }
/-- The threads of a domain run again, and it reacts. -/
def State.resumed (s : State) (n : Nat) : State :=
  (s.modThreadsOf n (Thread.resumed · s.clock)).modDomain n Domain.resumed
theorem State.dealerResume_of_paused (hpaused : ∀ m ∈ s.threads, m.dom = n → m.stat = .paused) (hiqs : ∀ q ∈ s.iqs, q.dom ≠ n) :
    s.dealerResume n = s.resumed n := by
  have hnone : (s.threads.filter fun m => m.dom == n && m.stat == .suspended) = [] :=
    List.filter_eq_nil_iff.2 fun m hm => by
      by_cases hn : m.dom = n <;> simp [hn]
      simp [hpaused m hm hn]
  have hthreads : (s.threads.map fun m => if m.dom == n && m.stat == .paused then m.resumed s.clock else m) =
      (s.modThreadsOf n (Thread.resumed · s.clock)).threads :=
    List.map_congr_left fun m hm => by
      by_cases hn : m.dom = n
      · simp [hn, hpaused m hm hn]
      · simp [hn]
  rw [State.dealerResume, hnone, List.foldl_nil, hthreads]
  exact State.iqSettle_of_none (s := s.resumed n) hiqs

/-! ### The four steps together -/

/-- The record of a domain whose outputs of the instant are closed (22 R384). -/
def Domain.outClosed (d : Domain) : Domain :=
  { d with outs := (d.outs ++ [(d.inst, d.outRecord)]).drop (d.outs.length + 1 - 16) }
/-- The state after steps 1 and 2 of a domain without guards. -/
def State.rested (s : State) (n : Nat) : State := (s.modDomain n Domain.outClosed).modThreadsOf n Thread.rested
@[simp] theorem State.rested_cores (s : State) (n : Nat) : (s.rested n).cores = s.cores := rfl
@[simp] theorem State.rested_iqs (s : State) (n : Nat) : (s.rested n).iqs = s.iqs := rfl
@[simp] theorem State.rested_clock (s : State) (n : Nat) : (s.rested n).clock = s.clock := rfl
@[simp] theorem State.rested_mem (s : State) (n : Nat) : (s.rested n).mem = s.mem := rfl
theorem State.dealt_rested (s : State) (n : Nat) : s.Dealt (s.rested n) := ⟨_, _, _, _, _, rfl⟩
theorem State.takesInput_rested (s : State) (n : Nat) (d : Domain) : (s.rested n).takesInput d.outClosed = s.takesInput d := by
  funext p c
  have hcore : (s.rested n).core (cmdCore p.die) = s.core (cmdCore p.die) := rfl
  rw [State.takesInput, hcore]
  rfl
/-- What the domain applies is what it was given before it rested. -/
theorem State.given_rested (s : State) (n : Nat) (d : Domain) : (s.rested n).given d.outClosed = s.given d := by
  rw [State.given, State.accepted, State.takesInput_rested]
  rfl
theorem State.givenPages_rested (s : State) (n : Nat) (d : Domain) : (s.rested n).givenPages d.outClosed = s.givenPages d := by
  rw [State.givenPages, State.takesInput_rested]
  rfl
/-- The state in which step 3 brings the entries of a domain without guards into the next instant. -/
def State.nextInstant (s : State) (n : Nat) (d : Domain) : State := ((s.rested n).withInputs n d.outClosed).turnInstant n
theorem State.dealt_nextInstant (s : State) (n : Nat) (d : Domain) : s.Dealt (s.nextInstant n d) :=
  ((s.dealt_rested n).trans (State.dealt_withInputs ..)).trans (State.dealt_turnInstant ..)
/-- The record of the domain there. -/
def State.nextDomain (s : State) (d : Domain) : Domain := ({ d.outClosed with inputs := s.given d } : Domain).next
theorem State.mem_due_nextDomain :
    k ∈ (s.nextDomain d).due ↔ (k < d.sigs.length ∧ (d.inst + 1) % 2 ^ 23 = 0) ∨ ∃ v, (k, v) ∈ s.given d := by
  have hinst : (s.nextDomain d).inst % 2 ^ 23 = (d.inst + 1) % 2 ^ 23 := Nat.mod_mod_of_dvd _ (by decide)
  rw [Domain.mem_due, hinst]
  rfl
/-- An entry without inputs stays as it is while the tag does not turn; any other of the table is brought into the instant. -/
theorem State.getD_of_brought {sigs : List Sig} (h : (s.nextDomain d).Brought (s.nextDomain d).due sigs) (k : Nat) :
    if insOf (s.given d) k = [] ∧ (d.inst + 1) % 2 ^ 23 ≠ 0 then sigs.getD k Sig.none = d.sigs.getD k Sig.none
    else k < d.sigs.length → ∃ c, sigs.getD k Sig.none =
      (d.sigs.getD k Sig.none).bring ((d.inst + 1) % 2 ^ 64) c (insOf (s.given d) k) := by
  obtain ⟨-, hsigs⟩ := h
  obtain ⟨hout, hin⟩ := hsigs k
  split
  · next hk =>
    obtain ⟨hins, htag⟩ := hk
    exact hout fun hdue => (State.mem_due_nextDomain.1 hdue).elim (fun h => htag h.2) fun hv => insOf_ne_nil.2 hv hins
  · next hk =>
    refine fun hlt => hin (State.mem_due_nextDomain.2 ?_) hlt
    by_cases htag : (d.inst + 1) % 2 ^ 23 = 0
    · exact .inl ⟨hlt, htag⟩
    · exact .inr (insOf_ne_nil.1 fun hins => hk ⟨hins, htag⟩)
/-- A domain whose next instant has begun goes on: no input is pending, and its threads run. -/
def State.reactsAgain (s : State) (n : Nat) : State := (s.withoutInputs n).resumed n
theorem State.domain?_reactsAgain (h : s.domain? n = some d) :
    (s.reactsAgain n).domain? n = some { d with inputs := [], stat := .reacting, suspendTo := none } :=
  State.domain?_modDomain (s := (s.withoutInputs n).modThreadsOf n _) (State.domain?_withoutInputs h) Domain.resumed fun _ => rfl
/-- The closure of a domain with threads, none of them in a guard: its entries are brought into the next instant, and it goes on. -/
theorem State.closure_of_unguarded (hd : s.domain? n = some d) (hsome : ∃ m ∈ s.threads, m.dom = n)
    (hguards : ∀ m ∈ s.threads, m.dom = n → m.guards = []) (hiqs : ∀ q ∈ s.iqs, q.dom ≠ n) (hsuspend : d.suspendTo = none) :
    ∃ t, (s.nextInstant n d).Refreshed n (s.nextDomain d) (s.nextDomain d).due t ∧ s.closure n = t.reactsAgain n := by
  have hany : (s.dealerClose n).threads.any (·.dom == n) = true := by
    obtain ⟨m, hm, hn⟩ := hsome
    exact List.any_eq_true.2 ⟨m, hm, by simpa using hn⟩
  have hrested : (s.dealerClose n).dealerGuards n = s.rested n := State.dealerGuards_unguarded (s := s.dealerClose n) hguards
  have hclosed : (s.rested n).domain? n = some d.outClosed := State.domain?_modDomain hd _ fun _ => rfl
  obtain ⟨t, hfresh, hadvance⟩ := State.dealerAdvance_of (State.domain?_withInputs hclosed)
  rw [State.given_rested] at hfresh
  have hsuspended : ((t.withoutInputs n).domain? n).bind (·.suspendTo) = none := by
    obtain ⟨sigs, hdom, -⟩ := hfresh.table
    rw [State.domain?_withoutInputs hdom]
    exact hsuspend
  have hpaused : ∀ m ∈ (t.withoutInputs n).threads, m.dom = n → m.stat = .paused := by
    rw [State.withoutInputs, State.modDomain_threads, hfresh.threads, State.turnInstant_threads,
      State.modThreadsOf_threads (State.withInputs_threads ..)]
    exact State.forall_modThreadsOf (State.forall_modThreadsOf fun _ _ _ => rfl)
  have hqueues : ∀ q ∈ (t.withoutInputs n).iqs, q.dom ≠ n := by
    rw [State.withoutInputs, State.modDomain_iqs, hfresh.iqs]
    simpa using hiqs
  refine ⟨t, hfresh, ?_⟩
  rw [State.closure]
  dsimp only
  rw [if_neg (by simp [hany]), hrested, State.takeInputs_of hclosed, hadvance, hsuspended]
  exact State.dealerResume_of_paused hpaused hqueues
theorem State.dealt_reactsAgain (s : State) (n : Nat) : s.Dealt (s.reactsAgain n) :=
  ((State.dealt_modDomain ..).trans (State.dealt_modThreadsOf ..)).trans (State.dealt_modDomain ..)
@[simp] theorem State.reactsAgain_cores (s : State) (n : Nat) : (s.reactsAgain n).cores = s.cores := rfl
@[simp] theorem State.reactsAgain_pages (s : State) (n : Nat) : (s.reactsAgain n).pages = s.pages := rfl
@[simp] theorem State.reactsAgain_threads (s : State) (n : Nat) :
    (s.reactsAgain n).threads = (s.modThreadsOf n (Thread.resumed · s.clock)).threads := rfl

/-! What goes on from `nextInstant`, once its entries are refreshed -/

theorem State.Refreshed.pages_reactsAgain (h : (s.nextInstant n d).Refreshed n x l t) : (t.reactsAgain n).pages = s.givenPages d := by
  simp [h.pages, State.nextInstant, State.givenPages_rested]
theorem State.Refreshed.cores_reactsAgain (h : (s.nextInstant n d).Refreshed n x l t) :
    (t.reactsAgain n).cores = s.cores.map (·.forgets n) := by
  simp [h.cores, State.nextInstant]
theorem State.Refreshed.threads_reactsAgain (h : (s.nextInstant n d).Refreshed n x l t) :
    (t.reactsAgain n).threads =
      (((s.modThreadsOf n Thread.rested).modThreadsOf n Thread.reclaimed).modThreadsOf n (Thread.resumed · s.clock)).threads := by
  have hclock : t.clock = s.clock := by simp [h.clock, State.nextInstant]
  rw [State.reactsAgain_threads, hclock]
  refine State.modThreadsOf_threads (h.threads.trans ?_)
  rw [State.nextInstant, State.turnInstant_threads]
  exact State.modThreadsOf_threads (State.withInputs_threads ..)
/-- Of memory only the words of the entries that were brought in have changed. -/
theorem State.Refreshed.byte_reactsAgain (h : (s.nextInstant n d).Refreshed n x l t) (hwf : s.mem.wf = true)
    (ha : ∀ k ∈ l, x.Clear k a) : (t.reactsAgain n).mem.byte a = s.mem.byte a := by
  have hmem := h.mem
  rw [show (s.nextInstant n d).mem = s.mem by simp [State.nextInstant]] at hmem
  exact (hmem hwf).2 a ha
/-- A thread of the domain runs in the next instant with its claims live and its watchdog started; no other thread changes. -/
theorem State.Refreshed.thread?_reactsAgain (h : (s.nextInstant n d).Refreshed n x l t) (g : Nat) :
    (t.reactsAgain n).thread? g = (s.thread? g).map fun m => if m.dom = n then { m with
      stat := .running, heldBy := none, claims := m.claims.map fun c => { c with live := true },
      wdStart := s.clock, wdRun := true, wdFired := false, wdArmed := false, wdPending := false } else m := by
  rw [State.thread?, h.threads_reactsAgain, ← State.thread?,
    State.thread?_modThreadsOf _ n (f := (Thread.resumed · s.clock)) fun _ => rfl,
    State.thread?_modThreadsOf _ n (f := Thread.reclaimed) fun _ => rfl,
    State.thread?_modThreadsOf _ n (f := Thread.rested) fun _ => rfl]
  cases s.thread? g with
  | none => rfl
  | some m => by_cases hn : m.dom = n <;> simp [hn, Thread.rested, Thread.reclaimed, Thread.resumed]

/-! ### The closure of a domain without threads, and the step -/

/-- The record of a domain that has ended by itself (22 R385). -/
def Domain.terminated (d : Domain) : Domain := { d with stat := .terminated, endWord := 1, endVal := 0, endTval := 0 }
theorem State.closure_of_none (h : ∀ m ∈ s.threads, m.dom ≠ n) :
    s.closure n = ((s.modDomain n Domain.outClosed).freeDomain n).modDomain n Domain.terminated := by
  have hnone : s.threads.filter (·.dom == n) = [] := List.filter_eq_nil_iff.2 fun m hm => by simpa using h m hm
  have hany : s.threads.any (·.dom == n) = false := List.any_eq_false.2 fun m hm => by simpa using h m hm
  rw [State.closure]
  dsimp only
  have hthreads : (s.dealerClose n).threads = s.threads := rfl
  rw [hthreads, hany, State.endDomain, hthreads, hnone]
  rfl
theorem exec_lull (h : s.domain? n = some d) :
    exec (.lull n) s = .next (if d.stat == .reacting && s.quiet n then s.closure n else s) := by
  show execLull n s = _
  rw [execLull, h]
theorem exec_lull_of_quiet (h : s.domain? n = some d) (hstat : d.stat = .reacting) (hquiet : s.quiet n = true) :
    exec (.lull n) s = .next (s.closure n) := by
  rw [exec_lull h, hstat, hquiet]
  rfl

end
end Sys2Proof.Machine
open Sys2Proof.Machine

/-- Settles O51: a closure without guards is the four steps of the dealer one after the other, and the refresh of entries is the one of
them that writes memory. -/
theorem instantClosure : Obligations.InstantClosure := by
  intro s n d hd outs given ended
  refine ⟨fun hrest => ?_, fun hstat hquiet => ⟨fun hnone => ?_, fun hsome hthreads hiqs hsuspend => ?_⟩⟩
  · rw [exec_lull hd, if_neg]
    rcases hrest with h | h <;> simp [h]
  · refine ⟨s.closure n, exec_lull_of_quiet hd hstat hquiet, ?_⟩
    rw [State.closure_of_none hnone]
    have hclosed : (s.modDomain n Domain.outClosed).domain? n = some d.outClosed := State.domain?_modDomain hd _ fun _ => rfl
    exact ⟨State.domain?_modDomain (s := (s.modDomain n _).freeDomain n) hclosed Domain.terminated fun _ => rfl, rfl, rfl⟩
  · obtain ⟨t, hfresh, ht⟩ := State.closure_of_unguarded hd hsome (fun m hm hn => (hthreads m hm hn).1) hiqs hsuspend
    obtain ⟨sigs, hdom, hsigs⟩ := hfresh.table
    have hframe := (((s.dealt_nextInstant n d).trans hfresh.dealt).trans (t.dealt_reactsAgain n)).eq
    rw [hfresh.pages_reactsAgain] at hframe
    refine ⟨t.reactsAgain n, _, (exec_lull_of_quiet hd hstat hquiet).trans (congrArg _ ht), hframe, State.domain?_reactsAgain hdom,
      hfresh.cores_reactsAgain, fun hwf a ha => ?_, rfl, State.getD_of_brought hsigs, fun g m hm => ?_⟩
    · exact hfresh.byte_reactsAgain hwf fun k hk arr harr => ha k arr (State.mem_due_nextDomain.1 hk) harr
    · rw [hfresh.thread?_reactsAgain, hm]
      rfl
end

section
/-!
SUPPORT. Rules shared by the instructions of `02_execution_model`: changes of the issuing thread alone compose; instructions that slot 15
may not run (05 R91); the record of the issuing thread changed, and a result written.
-/
open Sys2Proof
namespace Sys2Proof.Machine

section
variable {s t u : State} {g : Nat} {m n : Thread}

/-! ### Changes of one thread alone -/

theorem OnlyThread.trans (h : OnlyThread s t g m) (k : OnlyThread t u g n) : OnlyThread s u g n := by
  obtain ⟨ht, -, hother⟩ := h
  obtain ⟨hu, hn, kother⟩ := k
  exact ⟨by rw [hu, ht], hn, fun x hx => (kother x hx).trans (hother x hx)⟩
/-- What a state is besides its threads carries over. -/
theorem OnlyThread.iss (h : OnlyThread s t g m) : t.iss = s.iss := by
  obtain ⟨ht, -, -⟩ := h
  rw [ht]
theorem OnlyThread.thread? (h : OnlyThread s t g m) : t.thread? g = some m := h.2.1
theorem OnlyThread.modMe (hm : s.thread? s.iss.gid = some m) (f : Thread → Thread) (hf : ∀ t, (f t).gid = t.gid) :
    OnlyThread s (s.modMe f) s.iss.gid (f m) := OnlyThread.modThread hm f hf
theorem State.modMe_thread? (hm : s.thread? s.iss.gid = some m) (f : Thread → Thread) (hf : ∀ t, (f t).gid = t.gid) :
    (s.modMe f).thread? s.iss.gid = some (f m) := (OnlyThread.modMe hm f hf).thread?
/-- Writing a register of a thread that maps no queue. -/
theorem OnlyThread.put (hm : s.thread? s.iss.gid = some m) (hq : m.qmap = 0) (d : Reg) (v : Word) :
    OnlyThread s (s.put d v) s.iss.gid (m.setReg d.val v) := by
  rw [State.put_plain hm hq]
  exact OnlyThread.modMe hm _ fun t => t.setReg_gid _ _
/-- Going on to the next head. -/
theorem OnlyThread.advance (hm : s.thread? s.iss.gid = some m) (hj : s.iss.jumped = false) :
    OnlyThread s s.advance s.iss.gid { m with pc := wd s.iss.succ } := by
  rw [State.advance, if_neg (by simp [hj])]
  exact OnlyThread.modMe hm _ fun _ => rfl
theorem OnlyThread.after (h : OnlyThread s t s.iss.gid m) (k : OnlyThread t u t.iss.gid n) : OnlyThread s u s.iss.gid n := by
  rw [h.iss] at k
  exact h.trans k
/-- After a change of the issuing thread, the instruction goes on. -/
theorem OnlyThread.ok (h : OnlyThread s t s.iss.gid n) (hj : s.iss.jumped = false) :
    ∃ u, t.ok = .next u ∧ OnlyThread s u s.iss.gid { n with pc := wd s.iss.succ } := by
  have hn : t.thread? t.iss.gid = some n := by rw [h.iss]; exact h.thread?
  have hgo := OnlyThread.advance hn (by rw [h.iss]; exact hj)
  have hgo' := h.after hgo
  rw [h.iss] at hgo'
  exact ⟨t.advance, rfl, hgo'⟩
/-- After such a change, the instruction writes a result and goes on. -/
theorem OnlyThread.res (h : OnlyThread s t s.iss.gid n) (hj : s.iss.jumped = false) (hq : n.qmap = 0) (d : Reg) (v : Word) :
    ∃ u, t.res d v = .next u ∧ OnlyThread s u s.iss.gid { n.setReg d.val v with pc := wd s.iss.succ } := by
  have hn : t.thread? t.iss.gid = some n := by rw [h.iss]; exact h.thread?
  exact (h.after (OnlyThread.put hn hq d v)).ok hj

/-- A change of the issuing thread's record, and going on. -/
theorem State.turns_of_ok (h : s.issues m) (f : Thread → Thread) (hf : ∀ t, (f t).gid = t.gid) {i : Instr}
    (hi : exec i s = (s.modMe f).ok) : Turns i s f := by
  obtain ⟨hm, hj, -, -⟩ := h
  obtain ⟨u, hu, honly⟩ := (OnlyThread.modMe hm f hf).ok hj
  exact ⟨u, m, hi.trans hu, hm, honly⟩
theorem State.puts_of_res (h : s.issues m) {i : Instr} {d : Reg} {v : Word} (hi : exec i s = s.res d v) : Puts i s d v := by
  rw [Puts, hi]
  exact State.res_wrote h d v
theorem State.putsP_of_resP (h : s.issues m) {i : Instr} {p : PReg} {v : Bool} (hi : exec i s = s.resP p v) : PutsP i s p v := by
  rw [PutsP, hi]
  exact State.resP_wrote h p v

/-! ### Slot 15 -/

theorem State.inSuper_eq : s.inSuper = decide (s.iss.gid % 16 = 15) := by
  rw [State.inSuper, gidSlot, beq_eq_decide]
theorem State.inSuper_of_slot (h : s.iss.gid % 16 = 15) : s.inSuper = true := by simp [State.inSuper_eq, h]
theorem State.not_inSuper (h : s.iss.gid % 16 ≠ 15) : s.inSuper = false := by simp [State.inSuper_eq, h]
/-- An instruction for user threads in slot 15, and elsewhere. -/
theorem State.user_of_slot (h : s.iss.gid % 16 = 15) (f : State → Out) : s.user f = .next (s.fault 8 s.iss.opc) := by
  rw [State.user, if_pos (State.inSuper_of_slot h)]
  rfl
theorem State.user_eq (h : s.iss.gid % 16 ≠ 15) (f : State → Out) : s.user f = f s := by
  rw [State.user, if_neg (by simp [State.not_inSuper h])]

/-! ### The issuing thread's record -/

theorem State.myDom_of (hm : s.thread? s.iss.gid = some m) : s.myDom = m.dom := by rw [State.myDom, s.me_of m hm]
theorem State.issues.me (h : s.issues m) : s.me = m := s.me_of m h.1
theorem State.issues.myDom (h : s.issues m) : s.myDom = m.dom := State.myDom_of h.1

end
end Sys2Proof.Machine
end

section
/-!
SUPPORT. The watchdog of a thread (12 R222; 02 R48, R49).
-/
open Sys2Proof
namespace Sys2Proof.Machine

/-- The limit that `wdarm` sets where the domain's is `c`; 0 stands for none. -/
def wdLimit (v c : Nat) : Nat := if c != 0 && (v == 0 || c < v) then c else v
theorem wdLimit_eq (v c : Nat) : wdLimit v c = if c = 0 then v else if v = 0 then c else min v c := by
  by_cases hc : c = 0
  · simp [wdLimit, hc]
  · by_cases hv : v = 0
    · simp [wdLimit, hc, hv]
    · by_cases h : c < v
      · simp [wdLimit, hc, hv, h, Nat.min_eq_right (Nat.le_of_lt h)]
      · simp [wdLimit, hc, hv, h, Nat.min_eq_left (Nat.le_of_not_lt h)]
/-- A thread that has armed its watchdog. -/
def Thread.armed (t : Thread) (lim clock : Nat) (first : Bool) : Thread :=
  { t with wdlim := lim, wdArmed := true, wdStart := if first then clock else t.wdStart }
theorem Thread.setReg_armed (t : Thread) (lim clock : Nat) (first : Bool) (d : Nat) (v : Word) :
    (t.armed lim clock first).setReg d v = (t.setReg d v).armed lim clock first := by
  unfold Thread.setReg
  split <;> rfl
theorem Thread.armed_again {t : Thread} (h : t.wdArmed = true) (lim clock : Nat) :
    t.armed lim clock false = { t with wdlim := lim } := by
  cases t
  cases h
  rfl
theorem exec_wdarm {s : State} {m : Thread} (hi : s.issues m) (d a : Reg) : ∃ t, exec (.wdarm d a) s = .next t ∧ OnlyThread s t s.iss.gid
    { (m.setReg d.val (if !m.wdArmed then 0 else 1)).armed (wdLimit ((m.reg a.val).toNat % 2 ^ 32) m.wdlimMax) s.clock (!m.wdArmed) with
      pc := wd s.iss.succ } := by
  rw [← Thread.setReg_armed]
  show ∃ t, execWdarm d a s = _ ∧ _
  rw [execWdarm, State.gv_plain hi, hi.me]
  obtain ⟨hm, hj, hq, -, -⟩ := hi
  exact (OnlyThread.modMe hm (·.armed (wdLimit ((m.reg a.val).toNat % 2 ^ 32) m.wdlimMax) s.clock (!m.wdArmed)) fun _ => rfl).res hj hq d _

end Sys2Proof.Machine
open Sys2Proof.Machine

/-- Settles O30: `wdarm` writes the limit and its answer, and a firing before its time, or kept already, changes nothing. -/
theorem watchdog : Obligations.Watchdog := by
  intro s m d a
  dsimp only
  rw [← wdLimit_eq]
  refine ⟨fun hi ha => ?_, fun hi ha => ?_, fun hm hrun hlim hwait hpend => ⟨fun hdue => ?_, fun hearly => ?_⟩⟩
  · obtain ⟨t, ht, honly⟩ := exec_wdarm hi d a
    rw [ha] at honly
    exact ⟨t, m, ht, hi.1, honly⟩
  · obtain ⟨t, ht, honly⟩ := exec_wdarm hi d a
    have ha' : (m.setReg d.val 1).wdArmed = true := by rw [Thread.setReg_eq]; exact ha
    rw [ha] at honly
    rw [show (!true) = false from rfl, if_neg Bool.false_ne_true, Thread.armed_again ha'] at honly
    exact ⟨t, m, ht, hi.1, honly⟩
  · refine ⟨s.modThread m.gid fun t => { t with wdPending := true }, ?_, OnlyThread.modThread hm _ fun _ => rfl⟩
    show execWatchdogFiring m.gid s = _
    rw [execWatchdogFiring, hm]
    simp [hrun, hlim, hwait, hpend, Nat.not_lt.2 hdue, State.openWait]
  · show execWatchdogFiring m.gid s = _
    rw [execWatchdogFiring, hm]
    simp [hearly]
end

section
/-!
SUPPORT. Reading and writing state registers (12 R214, R216, R219; 02 R25, R48).
-/
open Sys2Proof
namespace Sys2Proof.Machine

section
variable {s : State} {m n : Thread}

/-! ### Words and their fields -/

@[simp] theorem wd_toNat (v : Word) : wd v.toNat = v := BitVec.ofNat_toNat ..
/-- A field of the upper bits is zero exactly where the number is small. -/
theorem bits_upper_eq_zero {x k : Nat} (hx : x < 2 ^ 64) (hk : k ≤ 64) : bits x 63 k = 0 ↔ x < 2 ^ k := by
  have hpow : 2 ^ k * 2 ^ (63 + 1 - k) = 2 ^ 64 := by rw [← Nat.pow_add]; congr 1; omega
  have hlt : x / 2 ^ k < 2 ^ (63 + 1 - k) := Nat.div_lt_of_lt_mul (by rw [hpow]; exact hx)
  rw [bits, Nat.mod_eq_of_lt hlt, Nat.div_eq_zero_iff_lt (Nat.two_pow_pos k)]
theorem bits_upper_ne_zero (v : Word) {k : Nat} (hk : k ≤ 64) : (bits v.toNat 63 k != 0) = decide (2 ^ k ≤ v.toNat) := by
  rw [bne, beq_eq_decide, ← decide_not]
  exact decide_eq_decide.2 ((not_congr (bits_upper_eq_zero v.isLt hk)).trans Nat.not_lt)
/-- The word of `sr.ebud`: the refill above the budget, which stands in two's complement. -/
theorem wd_refill_budget {refill : Nat} {v : BitVec 32} (h : refill < 2 ^ 32) :
    wd (refill * 2 ^ 32 + unsignedOf 32 v.toInt) = BitVec.ofNat 32 refill ++ v := by
  have hv : unsignedOf 32 v.toInt = v.toNat := by
    have := v.isLt
    rw [unsignedOf, BitVec.toInt_eq_toNat_cond]
    split <;> omega
  apply BitVec.eq_of_toNat_eq
  rw [hv, BitVec.toNat_append, wd, BitVec.toNat_ofNat, BitVec.toNat_ofNat, Nat.mod_eq_of_lt h, Nat.shiftLeft_eq,
    Nat.mod_eq_of_lt (by have := v.isLt; omega), Nat.mul_comm, Nat.two_pow_add_eq_or_of_lt v.isLt]

/-! ### The thread that a register number names -/

theorem State.srOf_self {c : Fin 32} (hc : c.val < 16) : s.srOf c = s.iss.gid := if_pos hc
theorem State.srOf_eq {c : Fin 32} (hslot : s.iss.gid % 16 = 15) :
    s.srOf c = if c.val < 16 then s.iss.gid else s.iss.gid - 15 + (c.val - 16) := by
  rw [State.srOf]
  split <;> omega

/-! ### Reading -/

theorem exec_srr_own (d : Reg) (e : Fin 128) {c : Fin 32} (hc : c.val < 16) :
    exec (.srr d e c) s = s.res d (s.srRead s.iss.gid e.val) := by
  show execSrr d e c s = _
  rw [execSrr, if_neg (by simp; omega), State.srOf_self hc]
theorem exec_srr_refused (d : Reg) (e : Fin 128) {c : Fin 32} (hc : 16 ≤ c.val) (hslot : s.iss.gid % 16 ≠ 15) :
    exec (.srr d e c) s = .next (s.fault 8 s.iss.opc) := by
  show execSrr d e c s = _
  rw [execSrr, if_pos (by simp [hc, State.not_inSuper hslot])]
  rfl
theorem exec_srr_super (d : Reg) (e : Fin 128) (c : Fin 32) (hslot : s.iss.gid % 16 = 15) :
    exec (.srr d e c) s = s.res d (s.srRead (s.srOf c) e.val) := by
  show execSrr d e c s = _
  rw [execSrr, if_neg (by simp [State.inSuper_of_slot hslot])]

/-! ### Writing -/

/-- A register of another thread, outside slot 15. -/
theorem exec_srw_refused (a : Reg) (e : Fin 128) {c : Fin 32} (hc : 16 ≤ c.val) (hslot : s.iss.gid % 16 ≠ 15) :
    exec (.srw a e c) s = .next (s.fault 8 s.iss.opc) := by
  show execSrw a e c s = _
  rw [execSrw, if_pos (by simp [hc, State.not_inSuper hslot])]
  rfl
/-- A register that may not be written, or a value with reserved bits. -/
theorem exec_srw_faults (hi : s.issues m) (a : Reg) (e : Fin 128) {c : Fin 32} (hc : c.val < 16 ∨ s.iss.gid % 16 = 15)
    (h : srWritable e.val (decide (s.iss.gid % 16 = 15)) = false ∨ srReserved e.val (m.reg a.val).toNat = true) :
    exec (.srw a e c) s = .next (s.fault 8 e.val) := by
  show execSrw a e c s = _
  rw [execSrw, State.gv_plain hi, State.inSuper_eq, if_neg (by rcases hc with h | h <;> simp [h]), if_pos (by simpa using h)]
  rfl
/-- A register that is written. -/
theorem exec_srw_writes (hi : s.issues m) (a : Reg) (e : Fin 128) {c : Fin 32} (hc : c.val < 16 ∨ s.iss.gid % 16 = 15)
    (hw : srWritable e.val (decide (s.iss.gid % 16 = 15)) = true) (hr : srReserved e.val (m.reg a.val).toNat = false) :
    exec (.srw a e c) s = (s.modThread (s.srOf c) (·.srWrite e.val (m.reg a.val).toNat)).ok := by
  show execSrw a e c s = _
  rw [execSrw, State.gv_plain hi, State.inSuper_eq, if_neg (by rcases hc with h | h <;> simp [h]), if_neg (by simp [hw, hr])]
theorem Thread.srWrite_gid (t : Thread) (e v : Nat) : (t.srWrite e v).gid = t.gid := by
  unfold Thread.srWrite
  split <;> rfl
/-- A user thread writes its own register. -/
theorem turns_srw (hi : s.issues m) (a : Reg) (e : Fin 128) {c : Fin 32} (hc : c.val < 16)
    (hw : srWritable e.val (decide (s.iss.gid % 16 = 15)) = true) (hr : srReserved e.val (m.reg a.val).toNat = false) :
    Turns (.srw a e c) s (·.srWrite e.val (m.reg a.val).toNat) := by
  refine State.turns_of_ok hi _ (Thread.srWrite_gid · _ _) ?_
  rw [exec_srw_writes hi a e (.inl hc) hw hr, State.srOf_self hc]
  rfl
/-- The state `t` is `s` but for thread `g`, which was `n` and is changed by `f`, and the issuing thread `m`, which has gone on. -/
def SiblingWrote (s t : State) (g : Nat) (m n : Thread) (f : Thread → Thread) : Prop :=
  t = { s with threads := t.threads } ∧ (∀ h, h ≠ g → h ≠ s.iss.gid → t.thread? h = s.thread? h) ∧
    (g = s.iss.gid → t.thread? g = some { f m with pc := wd s.iss.succ }) ∧
    (g ≠ s.iss.gid → t.thread? g = some (f n) ∧ t.thread? s.iss.gid = some { m with pc := wd s.iss.succ })
theorem siblingWrote_modThread {g : Nat} (hi : s.issues m) (hn : s.thread? g = some n) (f : Thread → Thread)
    (hf : ∀ t, (f t).gid = t.gid) : ∃ t, (s.modThread g f).ok = .next t ∧ SiblingWrote s t g m n f := by
  obtain ⟨hm, hj, -, -⟩ := hi
  by_cases hg : g = s.iss.gid
  · subst hg
    obtain ⟨t, ht, heq, hself, hother⟩ := (OnlyThread.modThread hm f hf).ok hj
    exact ⟨t, ht, heq, fun h hne _ => hother h hne, fun _ => hself, fun h => absurd rfl h⟩
  · have hmod := OnlyThread.modThread hn f hf
    have hm' : (s.modThread g f).thread? s.iss.gid = some m := (hmod.2.2 _ (Ne.symm hg)).trans hm
    obtain ⟨heq, hself, hother⟩ := OnlyThread.advance (s := s.modThread g f) hm' hj
    refine ⟨(s.modThread g f).advance, rfl, ?_, fun h hne hne' => ?_, fun h => absurd h hg, fun _ => ⟨?_, hself⟩⟩
    · rw [heq]; rfl
    · exact (hother h hne').trans (hmod.2.2 h hne)
    · exact (hother g hg).trans hmod.thread?
/-- The supervisor writes a register of its own or of a sibling. -/
theorem super_srw {g : Nat} (hi : s.issues m) (hslot : s.iss.gid % 16 = 15) (a : Reg) (e : Fin 128) {c : Fin 32} (hg : s.srOf c = g)
    (hn : s.thread? g = some n) (hw : srWritable e.val true = true) (hr : srReserved e.val (m.reg a.val).toNat = false) :
    ∃ t, exec (.srw a e c) s = .next t ∧ SiblingWrote s t g m n (·.srWrite e.val (m.reg a.val).toNat) := by
  rw [exec_srw_writes hi a e (.inr hslot) (by simpa [hslot] using hw) hr, hg]
  exact siblingWrote_modThread hi hn _ (Thread.srWrite_gid · _ _)

/-! ### Reserved bits -/

theorem srReserved_cause (v : Word) : srReserved 6 v.toNat = decide (2 ^ 11 ≤ v.toNat) := bits_upper_ne_zero v (by decide)
theorem srReserved_uien (v : Word) : srReserved 11 v.toNat = (decide (2 ^ 15 ≤ v.toNat) || v.getLsbD 0) := by
  rw [← bits_upper_ne_zero v (by decide), ← tbit_toNat]
  rfl
theorem srReserved_wdlim (v : Word) : srReserved 5 v.toNat = decide (2 ^ 32 ≤ v.toNat) := bits_upper_ne_zero v (by decide)
theorem srReserved_asid (v : Word) : srReserved 12 v.toNat = decide (2 ^ 14 ≤ v.toNat) := bits_upper_ne_zero v (by decide)
theorem srReserved_prio (v : Word) : srReserved 2 v.toNat = (decide (2 ^ 11 ≤ v.toNat) || decide (v.toNat / 8 % 2 ^ 5 ≠ 0)) := by
  rw [← bits_upper_ne_zero v (by decide), decide_not, ← beq_eq_decide]
  rfl
end
end Sys2Proof.Machine
open Sys2Proof.Machine

theorem stateRegisterReads : Clause.StateRegisterReads := by
  intro s m dom d c hi hdom hc
  have hm := State.thread_of hi.1
  have own (e : Nat) (h : e < 128) {v : Word} (hv : s.srRead s.iss.gid e = v) : Puts (.srr d ⟨e, h⟩ c) s d v :=
    State.puts_of_res hi (hv ▸ exec_srr_own d ⟨e, h⟩ hc)
  have read (e : Nat) {f : Thread → Word} (hv : s.srRead s.iss.gid e = f (s.thread s.iss.gid)) : s.srRead s.iss.gid e = f m := by
    rw [hv, hm]
  refine ⟨own 0 _ rfl, own 1 _ ?_, own 2 _ (read 2 (f := fun t => wd (t.prioCeil * 2 ^ 8 + t.prioBase)) rfl), own 3 _ rfl,
    own 5 _ (read 5 (f := fun t => wd t.wdlim) rfl), own 6 _ (read 6 (f := (·.cause)) rfl), own 7 _ (read 7 (f := (·.tval)) rfl),
    own 8 _ (read 8 (f := (·.epc)) rfl), own 9 _ (read 9 (f := (·.trec)) rfl), own 10 _ (read 10 (f := (·.uih)) rfl),
    own 11 _ (read 11 (f := (·.uien)) rfl), own 12 _ (read 12 (f := fun t => wd t.asid) rfl), fun v hv hr => own 4 _ ?_,
    fun k e hk hslot => exec_srr_refused d e hk hslot, fun k n hk hslot hn => ?_⟩
  · rw [read 1 (f := fun t => wd (((s.domain? t.dom).map (·.inst)).getD 0)) rfl, hdom]
    rfl
  · rw [← wd_refill_budget hr, ← hv]
    rfl
  · have hg : s.thread (s.srOf k) = n := State.thread_of (by rw [State.srOf_eq hslot, if_neg (by omega)]; exact hn)
    refine ⟨State.puts_of_res hi ((exec_srr_super d 8 k hslot).trans ?_), State.puts_of_res hi ((exec_srr_super d 6 k hslot).trans ?_)⟩
    · rw [← hg]; rfl
    · rw [← hg]; rfl

theorem stateRegisterWrites : Clause.StateRegisterWrites := by
  intro s m a c e hi hslot hc
  have user : decide (s.iss.gid % 16 = 15) = false := by simp [hslot]
  have own (n : Nat) (h : n < 128) (hw : srWritable n false = true) (hr : srReserved n (m.reg a.val).toNat = false) :
      Turns (.srw a ⟨n, h⟩ c) s (·.srWrite n (m.reg a.val).toNat) := turns_srw hi a ⟨n, h⟩ hc (user ▸ hw) hr
  have faults (e : Fin 128) (h : srWritable e.val false = false ∨ srReserved e.val (m.reg a.val).toNat = true) :
      exec (.srw a e c) s = .next (s.fault 8 e.val) := exec_srw_faults hi a e (.inl hc) (by rw [user]; exact h)
  refine ⟨fun hv => ?_, ?_, ?_, ?_, ?_, fun hv hv0 => ?_, fun hv => ?_, fun hv => ?_, fun he => ?_, ?_, fun k hk => ⟨?_, ?_⟩⟩
  · simpa [Thread.srWrite] using own 6 (by decide) rfl (by rw [srReserved_cause]; simpa using hv)
  · simpa [Thread.srWrite] using own 7 (by decide) rfl rfl
  · simpa [Thread.srWrite] using own 8 (by decide) rfl rfl
  · simpa [Thread.srWrite] using own 9 (by decide) rfl rfl
  · simpa [Thread.srWrite] using own 10 (by decide) rfl rfl
  · simpa [Thread.srWrite] using own 11 (by decide) rfl (by rw [srReserved_uien, hv0]; simpa using hv)
  · exact faults 6 (.inr ((srReserved_cause _).trans (by simpa using hv)))
  · exact faults 11 (.inr ((srReserved_uien _).trans (by simpa using hv)))
  · exact faults e (.inl (by simp [srWritable]; omega))
  · show execSrwEbud a c s = _
    rw [execSrwEbud, if_neg (by simp; omega), State.not_inSuper hslot]
    rfl
  · exact exec_srw_refused a e hk hslot
  · show execSrwEbud a k s = _
    rw [execSrwEbud, if_pos (by simp [hk, State.not_inSuper hslot])]
    rfl

theorem supervisorRegisterWrites : Clause.SupervisorRegisterWrites := by
  intro s m n a c e hi hslot g hn v x w faults
  have hg : s.srOf c = g := State.srOf_eq hslot
  have writes (k : Nat) (h : k < 128) (hw : srWritable k true = true) (hr : srReserved k x = false) (f : Thread → Thread)
      (hf : ∀ t : Thread, t.srWrite k x = f t) : w k h f := by
    have hf' : (·.srWrite k x) = f := funext hf
    rw [← hf']
    exact super_srw hi hslot a ⟨k, h⟩ hg hn hw hr
  have super : decide (s.iss.gid % 16 = 15) = true := by simp [hslot]
  have refuses (k : Fin 128) (h : srWritable k.val true = false ∨ srReserved k.val x = true) :
      exec (.srw a k c) s = .next (s.fault 8 k.val) := exec_srw_faults hi a k (.inr hslot) (by rw [super]; exact h)
  have word : wd x = v := wd_toNat v
  refine ⟨fun hx h8 => ?_, fun hx => ?_, fun hx => ?_, fun hx => ?_, ?_, ?_, ?_, ?_, fun hx h0 => ?_, fun hx => refuses 2 (.inr ?_),
    fun hx => refuses 5 (.inr ?_), fun hx => refuses 6 (.inr ?_), fun hx => refuses 11 (.inr ?_), fun hx => refuses 12 (.inr ?_),
    fun he => refuses e (.inl ?_)⟩
  · have hceil : bits x 10 8 = x / 2 ^ 8 := Nat.mod_eq_of_lt (Nat.div_lt_of_lt_mul (by simpa using hx))
    have hbase : bits x 2 0 = x % 8 := by simp [bits]
    exact writes 2 _ rfl ((srReserved_prio v).trans (by rw [h8]; simpa using hx)) _ fun t => by rw [Thread.srWrite, hceil, hbase]
  · exact writes 5 _ rfl ((srReserved_wdlim v).trans (by simpa using hx)) _ fun t => rfl
  · exact writes 12 _ rfl ((srReserved_asid v).trans (by simpa using hx)) _ fun t => rfl
  · exact writes 6 _ rfl ((srReserved_cause v).trans (by simpa using hx)) _ fun t => by rw [Thread.srWrite, word]
  · exact writes 7 _ rfl rfl _ fun t => by rw [Thread.srWrite, word]
  · exact writes 8 _ rfl rfl _ fun t => by rw [Thread.srWrite, word]
  · exact writes 9 _ rfl rfl _ fun t => by rw [Thread.srWrite, word]
  · exact writes 10 _ rfl rfl _ fun t => by rw [Thread.srWrite, word]
  · exact writes 11 _ rfl ((srReserved_uien v).trans (by rw [h0]; simpa using hx)) _ fun t => by rw [Thread.srWrite, word]
  · exact (srReserved_prio v).trans (by simpa using hx)
  · exact (srReserved_wdlim v).trans (by simpa using hx)
  · exact (srReserved_cause v).trans (by simpa using hx)
  · exact (srReserved_uien v).trans (by simpa using hx)
  · exact (srReserved_asid v).trans (by simpa using hx)
  · simp [srWritable]; omega

/-- Settles O28: what is read and what is refused by the register's number, and which bits of a value are reserved. -/
theorem stateRegisters : Obligations.StateRegisters := ⟨stateRegisterReads, stateRegisterWrites, supervisorRegisterWrites⟩
end

section
/-!
SUPPORT. What only slot 15 may do, the energy budget and the translation entries (12 R219, R220, R223; 02 R25; 05 R91; 21 R358).
-/
open Sys2Proof
namespace Sys2Proof.Machine

/-- A record of a key after a change of every record that keeps the keys. -/
theorem find?_map_keeps {α : Type} (key : α → Nat) (f : α → α) (hf : ∀ a, key (f a) = key a) (l : List α) (k : Nat) :
    (l.map f).find? (fun a => key a == k) = (l.find? fun a => key a == k).map f := by
  rw [List.find?_map]
  congr 2
  funext a
  simp [hf]

section
variable {s t : State} {m : Thread}

/-- What a thread alone may do, in slot 15. -/
theorem State.alone_of_slot (h : s.iss.gid % 16 = 15) (f : State → Out) : s.alone f = .next (s.fault 8 s.iss.opc) := by
  rw [State.alone, if_pos (by simp [State.inSuper_of_slot h])]
  rfl
theorem State.withSig_of_slot (h : s.iss.gid % 16 = 15) (op : SigOp) (f : Nat → State → Out) :
    s.withSig op f = .next (s.fault 8 s.iss.opc) := State.user_of_slot h _
theorem State.regObj_of_slot (h : s.iss.gid % 16 = 15) (a : Reg) (fe : Bool) (f : Nat → State → Out) :
    s.regObj a fe f = .next (s.fault 8 s.iss.opc) := State.user_of_slot h _
theorem State.service_of_slot (h : s.iss.gid % 16 = 15) (d : Reg) (n v : Nat) : s.service d n v = .next (s.fault 8 s.iss.opc) :=
  State.user_of_slot h _

/-! ### The energy budget -/

/-- A core with its refill and budget set. -/
def Core.budgeted (c : Core) (v : Word) : Core := { c with refill := v.toNat / 2 ^ 32, budget := (v.extractLsb' 0 32).toInt }
theorem signed_word (v : Word) : signed 32 v.toNat = (v.extractLsb' 0 32).toInt := by
  rw [← signed_toNat, BitVec.extractLsb'_toNat, Nat.shiftRight_zero, signed, signed, Nat.mod_mod]

/-- A thread of a core whose held threads may run where `go` says so. -/
def Thread.unholdIn (t : Thread) (core : Nat) (go : Prop) [Decidable go] : Thread :=
  if gidCk t.gid = core ∧ t.stat = .held ∧ go then { t with stat := .running } else t
theorem Thread.unholdIn_gid (t : Thread) (core : Nat) (go : Prop) [Decidable go] : (t.unholdIn core go).gid = t.gid := by
  rw [Thread.unholdIn]; split <;> rfl
/-- A core's held threads, let run where `go` says so. -/
def State.unholds (s : State) (core : Nat) (go : Prop) [Decidable go] : State :=
  { s with threads := s.threads.map (·.unholdIn core go) }
theorem State.unholdCore_if (s : State) (core : Nat) (go : Prop) [Decidable go] :
    (if go then s.unholdCore core else s) = s.unholds core go := by
  by_cases h : go
  · rw [if_pos h, State.unholdCore, State.unholds]
    congr 1
    refine List.map_congr_left fun t _ => ?_
    simp only [Thread.unholdIn, h, and_true, Bool.and_eq_true, beq_iff_eq]
  · rw [if_neg h]
    simp [State.unholds, Thread.unholdIn, h]
theorem State.thread?_unholds (s : State) (core : Nat) (go : Prop) [Decidable go] (g : Nat) :
    (s.unholds core go).thread? g = (s.thread? g).map (·.unholdIn core go) :=
  find?_map_keeps Thread.gid _ (fun t => t.unholdIn_gid core go) s.threads g

/-! ### Translation entries -/

/-- A quad's table and a die's store without the entries a test picks. -/
def Quad.without (q : Quad) (asid : Nat) (pick : Tlb → Bool) : Quad := { q with tlb := q.tlb.filter fun e => !(e.asid == asid && pick e) }
def Die.without (d : Die) (asid : Nat) (pick : Tlb → Bool) : Die := { d with store := d.store.filter fun e => !(e.asid == asid && pick e) }
theorem State.quad_invalidate (s : State) (asid : Nat) (pick : Tlb → Bool) (q : Nat) :
    (s.invalidate asid pick).quad q = (s.quad q).without asid pick := by
  show ((s.quads.map (·.without asid pick)).find? (·.key == q)).getD (Quad.fresh q) = _
  rw [find?_map_keeps Quad.key (·.without asid pick) fun _ => rfl, State.quad]
  cases s.quads.find? (·.key == q) <;> rfl
theorem State.die_invalidate (s : State) (asid : Nat) (pick : Tlb → Bool) (n : Nat) :
    (s.invalidate asid pick).die n = (s.die n).without asid pick := by
  show ((s.dies.map (·.without asid pick)).find? (·.num == n)).getD (Die.fresh n) = _
  rw [find?_map_keeps Die.num (·.without asid pick) fun _ => rfl, State.die]
  cases s.dies.find? (·.num == n) <;> rfl
theorem mem_filter_invalidate {l : List Tlb} {asid : Nat} {pick : Tlb → Bool} {hit : Tlb → Prop} (hpick : ∀ e, pick e = true ↔ hit e)
    {e : Tlb} : (e ∈ l.filter fun e => !(e.asid == asid && pick e)) ↔ e ∈ l ∧ ¬(e.asid = asid ∧ hit e) := by
  rw [List.mem_filter, ← hpick]
  simp [imp_iff_not_or]
/-- The walks found in flight at an invalidation are those it discards. -/
theorem State.tlbiDue_invalidate (s : State) (asid before : Nat) (pick : Tlb → Bool) :
    (s.invalidate asid pick).tlbiDue asid before = s.walks.any fun w => w.asid == asid && decide (w.id < before) && w.state == 1 := by
  rw [State.tlbiDue, State.invalidate, List.any_map]
  congr 1
  funext w
  by_cases h : w.asid = asid <;> by_cases h' : w.state = 1 <;> simp [h, h']
/-- `i` invalidates the entries of an address space that `hit` names, in the words of 12 R220. -/
def Invalidates (i : Instr) (s : State) (m : Thread) (asid : Nat) (hit : Tlb → Prop) : Prop :=
  ∃ t, exec i s = .next t ∧ t = { s with threads := t.threads, quads := t.quads, dies := t.dies, walks := t.walks } ∧
    (∀ q e, e ∈ (t.quad q).tlb ↔ e ∈ (s.quad q).tlb ∧ ¬(e.asid = asid ∧ hit e)) ∧
    (∀ d e, e ∈ (t.die d).store ↔ e ∈ (s.die d).store ∧ ¬(e.asid = asid ∧ hit e)) ∧
    (t.walks = s.walks.map fun w => if w.asid = asid ∧ w.state = 1 then { w with discard := true } else w) ∧
    (∀ h, h ≠ s.iss.gid → t.thread? h = s.thread? h) ∧
    t.thread? s.iss.gid = some (if s.walks.any (fun w => w.asid == asid && decide (w.id < s.nextId) && w.state == 1) then
        { m with pc := wd s.iss.pc, wait := some { why := .tlbi asid s.nextId, again := false, half := s.iss.half, fin := s.doneTo 0 0 0 8 false } }
      else { m with pc := wd s.iss.succ })
theorem invalidates_of_tlbi (hi : s.issues m) {asid : Nat} (pick : Tlb → Bool) {hit : Tlb → Prop} (hpick : ∀ e, pick e = true ↔ hit e)
    {i : Instr} (h : exec i s = s.tlbi asid pick) : Invalidates i s m asid hit := by
  obtain ⟨hm, hj, -⟩ := hi
  have hdue := s.tlbiDue_invalidate asid s.nextId pick
  have htlb (q : Nat) (e : Tlb) : e ∈ ((s.invalidate asid pick).quad q).tlb ↔ e ∈ (s.quad q).tlb ∧ ¬(e.asid = asid ∧ hit e) := by
    rw [s.quad_invalidate]
    exact mem_filter_invalidate hpick
  have hstore (n : Nat) (e : Tlb) : e ∈ ((s.invalidate asid pick).die n).store ↔ e ∈ (s.die n).store ∧ ¬(e.asid = asid ∧ hit e) := by
    rw [s.die_invalidate]
    exact mem_filter_invalidate hpick
  have hwalks : (s.invalidate asid pick).walks =
      s.walks.map fun w => if w.asid = asid ∧ w.state = 1 then { w with discard := true } else w := by simp [State.invalidate]
  have put (u : State) (n : Thread) (hu : s.tlbi asid pick = .next u) (honly : OnlyThread (s.invalidate asid pick) u s.iss.gid n)
      (hn : n = if s.walks.any (fun w => w.asid == asid && decide (w.id < s.nextId) && w.state == 1) then
        { m with pc := wd s.iss.pc, wait := some { why := .tlbi asid s.nextId, again := false, half := s.iss.half, fin := s.doneTo 0 0 0 8 false } }
      else { m with pc := wd s.iss.succ }) : Invalidates i s m asid hit := by
    obtain ⟨heq, hself, hother⟩ := honly
    refine ⟨u, h.trans hu, ?_, fun q e => ?_, fun n e => ?_, ?_, hother, hn ▸ hself⟩
    · rw [heq]; rfl
    · rw [heq]; exact htlb q e
    · rw [heq]; exact hstore n e
    · rw [heq]; exact hwalks
  have hm' : (s.invalidate asid pick).thread? (s.invalidate asid pick).iss.gid = some m := hm
  cases hbusy : (s.invalidate asid pick).tlbiDue asid s.nextId
  case true =>
    refine put _ _ ?_ (OnlyThread.modMe hm' (fun t => { t with
      wait := some { why := .tlbi asid s.nextId, again := false, half := s.iss.half, fin := s.doneTo 0 0 0 8 false }, pc := wd s.iss.pc })
      fun _ => rfl) ?_
    · rw [State.tlbi]
      exact if_pos hbusy
    · rw [if_pos (hdue ▸ hbusy)]
  case false =>
    refine put _ _ ?_ (OnlyThread.advance hm' hj) ?_
    · rw [State.tlbi]
      exact if_neg (by rw [show (s.invalidate asid pick).nextId = s.nextId from rfl, hbusy]; exact Bool.false_ne_true)
    · rw [if_neg (by rw [← hdue, hbusy]; exact Bool.false_ne_true)]
      rfl
/-- A translated address by its selector. -/
theorem placeOf_virt {pkg gid sel x : Nat} (hsel : sel = 4 ∨ sel = 5 ∨ sel = 6) (hx : x / 2 ^ 60 = sel) (hva : x % 2 ^ 60 < 2 ^ 48) :
    placeOf pkg gid x = .virt sel (x % 2 ^ 60) := by
  have hhi : bits x 59 48 = 0 := by simp only [bits]; omega
  have hlo : bits x 47 0 = x % 2 ^ 60 := by simp only [bits]; omega
  rw [placeOf, hx]
  rcases hsel with rfl | rfl | rfl <;> simp [hhi, hlo]

end
end Sys2Proof.Machine
open Sys2Proof.Machine

theorem supervisorRefusals : Clause.SupervisorRefusals := by
  intro s m d a b p op sc slot imm sn wt _ hslot hsc
  have user := State.user_of_slot hslot
  have alone := State.alone_of_slot hslot
  have sig := State.withSig_of_slot hslot
  have obj := State.regObj_of_slot hslot
  have service := State.service_of_slot hslot
  unfold exec
  dsimp only
  exact ⟨user _, user _, sig _ _, sig _ _, sig _ _, sig _ _, sig _ _, sig _ _, sig _ _, sig _ _, sig _ _, sig _ _, user _, user _, user _,
    user _, user _, user _, (if_pos hsc).trans (user _), user _, user _, user _, user _, obj _ _ _, obj _ _ _, obj _ _ _, obj _ _ _,
    obj _ _ _, user _, user _, service _ _ _, service _ _ _, service _ _ _, user _, alone _, alone _, user _, user _, user _, alone _,
    alone _, alone _, alone _, user fun s => s.enqueue d (s.command a 1) wt fun s => s.streamChecks (s.command a 1),
    user fun s => s.enqueue d (s.command a 2) wt fun s => s.streamChecks (s.command a 2)⟩

theorem energyBudgetWrite : Clause.EnergyBudgetWrite := by
  intro s m a c hi hslot v
  let cs := s.setCore ((s.core s.myCore).budgeted v)
  let u := cs.unholds (s.core s.myCore).key (0 < (v.extractLsb' 0 32).toInt)
  have hexec : exec (.srwEbud a c) s = u.ok := by
    show execSrwEbud a c s = _
    rw [execSrwEbud, State.gv_plain hi, if_neg (by simp [State.inSuper_of_slot hslot]), if_neg (by simp [State.inSuper_of_slot hslot])]
    dsimp only
    rw [signed_word]
    exact congrArg State.ok (cs.unholdCore_if _ _)
  obtain ⟨hm, hj, -⟩ := hi
  have hu (g : Nat) : u.thread? g = (s.thread? g).map (·.unholdIn s.myCore (0 < (v.extractLsb' 0 32).toInt)) := by
    rw [← State.core_key s s.myCore]
    exact cs.thread?_unholds _ _ g
  obtain ⟨heq, -, hother⟩ := OnlyThread.advance (s := u) ((hu _).trans (congrArg (Option.map _) hm)) hj
  have hcore (k : Nat) : u.advance.core k = cs.core k := by rw [heq]; rfl
  have hkey : ((s.core s.myCore).budgeted v).key = s.myCore := s.core_key _
  refine ⟨u.advance, hexec, by rw [heq]; rfl, ?_, fun k hk => ?_, fun g n hn hg => ?_⟩
  · rw [hcore]
    exact (congrArg cs.core hkey).symm.trans (s.core_setCore _)
  · rw [hcore]
    exact s.core_setCore_other _ k (by rw [hkey]; exact hk)
  · rw [hother g hg, hu, hn]
    simp [Thread.unholdIn, State.thread?_gid s g n hn]

theorem translationInvalidation : Clause.TranslationInvalidation := by
  intro s m a hi does va
  refine ⟨invalidates_of_tlbi hi (fun _ => true) (fun _ => by simp) ?_, fun hslot => invalidates_of_tlbi hi (fun _ => true) (fun _ => by simp) ?_,
    fun hslot => ?_, fun sel hsel hx hva =>
      invalidates_of_tlbi hi (fun e => e.sel == sel && decide (e.va ≤ va) && decide (va < e.va + e.size)) (fun e => by simp [and_assoc]) ?_⟩
  · show execTlbiAll s = _
    rw [execTlbiAll, hi.me]
  · show execTlbiAsid a s = _
    rw [execTlbiAsid, if_pos (State.inSuper_of_slot hslot), State.gv_plain hi]
  · show execTlbiAsid a s = _
    rw [execTlbiAsid, if_neg (by simp [State.not_inSuper hslot])]
    rfl
  · show execTlbiPage a s = _
    rw [execTlbiPage, State.gv_plain hi, placeOf_virt hsel hx hva, hi.me]

/-- Settles O25: the check of slot 15 comes first in each; the budget is written before the held threads run. -/
theorem supervisorOnly : Obligations.SupervisorOnly := ⟨supervisorRefusals, energyBudgetWrite, translationInvalidation⟩
end

section
/-!
SUPPORT. The signal table: bringing an entry into the instant, writing it, and what its bank answers (02 R33 to R40; 05 R91 to R93).
-/
open Sys2Proof
namespace Sys2Proof.Machine

section
variable {s x t : State} {m n : Thread} {d : Domain} {k : Nat} {e f : Sig} {cs : List Core} {es : List Edge} {op : SigOp}

/-! ### The words of an entry -/

/-- Writing a word twice leaves what the second wrote. -/
theorem Memory.byte_write_congr {μ ν : Memory} (hμ : μ.wf = true) (hν : ν.wf = true) {w a : Nat} {bs : List Byte}
    (h : ¬(w ≤ a ∧ a < w + bs.length) → μ.byte a = ν.byte a) : (μ.write w bs).byte a = (ν.write w bs).byte a := by
  rw [μ.byte_write hμ, ν.byte_write hν]
  split
  · rfl
  · exact h ‹_›
/-- The words of an entry, written in memories that differ at most there. -/
theorem Domain.byte_tableMem_congr {μ ν : Memory} (hμ : μ.wf = true) (hν : ν.wf = true) {a : Nat} (h : d.Clear k a → μ.byte a = ν.byte a)
    (f : Sig) : (d.tableMem k f μ).byte a = (d.tableMem k f ν).byte a := by
  have hμ1 := μ.wf_write hμ (d.sigKey 0 k) (bytesOf 8 f.word)
  have hν1 := ν.wf_write hν (d.sigKey 0 k) (bytesOf 8 f.word)
  refine Memory.byte_write_congr (Memory.wf_write _ hμ1 _ _) (Memory.wf_write _ hν1 _ _) fun h2 => ?_
  refine Memory.byte_write_congr hμ1 hν1 fun h1 => Memory.byte_write_congr hμ hν fun h0 => h ?_
  simp only [bytesOf_length] at h0 h1 h2
  rintro arr (rfl | rfl | rfl) <;> omega

/-! ### States that differ in one entry -/

/-- The table of signals of the domains of a number with the entry of a signal now `e`. -/
def State.domainsWith (s : State) (n k : Nat) (e : Sig) : List Domain :=
  s.domains.map fun d => if d.num = n then { d with sigs := d.sigs.set k e } else d
theorem State.domainsWith_eq (s : State) (n k : Nat) (e : Sig) : (s.modDomain n fun d => { d with sigs := d.sigs.set k e }).domains = s.domainsWith n k e := by
  simp [State.modDomain, State.domainsWith]
theorem State.setEntry_entered (hm : s.thread? s.iss.gid = some m) (hd : s.domain? m.dom = some d) (k : Nat) (e : Sig) :
    Entered s (s.setEntry m.dom k e) d m k e s.cores s.edges := by
  refine ⟨?_, hm, fun _ _ => rfl, fun a => ?_⟩
  · show State.setEntry s m.dom k e = { s.setEntry m.dom k e with domains := s.domainsWith m.dom k e }
    rw [← State.domainsWith_eq]
    rfl
  · rw [State.setEntry, hd]
theorem State.setEntry_domain? {n : Nat} (hd : s.domain? n = some d) (k : Nat) (e : Sig) :
    (s.setEntry n k e).domain? n = some { d with sigs := d.sigs.set k e } :=
  State.domain?_modDomain hd (fun d => { d with sigs := d.sigs.set k e }) fun _ => rfl
/-- Two writes of an entry are one, but for the words under the second. -/
theorem State.setEntry_setEntry {n : Nat} (hd : s.domain? n = some d) (k : Nat) (e f : Sig) :
    (s.setEntry n k e).setEntry n k f =
      { s with domains := s.domainsWith n k f, mem := d.tableMem k f (d.tableMem k e s.mem) } := by
  have hd' := State.setEntry_domain? hd k e
  have hmem : ((s.setEntry n k e).setEntry n k f).mem = d.tableMem k f (d.tableMem k e s.mem) := by
    rw [State.setEntry, hd', State.setEntry, hd]
    rfl
  have hdoms : ((s.setEntry n k e).setEntry n k f).domains = s.domainsWith n k f := by
    show ((s.setEntry n k e).modDomain n fun d => { d with sigs := d.sigs.set k f }).domains = _
    rw [State.domainsWith_eq, State.domainsWith, State.domainsWith]
    show ((s.modDomain n fun d => { d with sigs := d.sigs.set k e }).domains.map _) = _
    rw [State.domainsWith_eq, State.domainsWith, List.map_map]
    refine List.map_congr_left fun y _ => ?_
    by_cases hy : y.num = n <;> simp [hy]
  rw [← hmem, ← hdoms]
  rfl
section
variable (h : Entered s x d n k e cs es)
include h
theorem Entered.iss : x.iss = s.iss := by
  obtain ⟨hx, -⟩ := h
  rw [hx]
theorem Entered.thread? : x.thread? x.iss.gid = some n := by
  rw [h.iss]
  exact h.2.1
theorem Entered.me : x.me = n := x.me_of n h.thread?
theorem Entered.myDom : x.myDom = n.dom := State.myDom_of h.thread?
theorem Entered.myCore : x.myCore = s.myCore := by rw [State.myCore, State.myCore, h.iss]
theorem Entered.doneTo (a b p w : Nat) (sx : Bool) : x.doneTo a b p w sx = s.doneTo a b p w sx := by rw [State.doneTo, State.doneTo, h.iss]
theorem Entered.domains : x.domains = s.domainsWith n.dom k e := by
  obtain ⟨hx, -⟩ := h
  rw [hx]
  rfl
theorem Entered.cores : x.cores = cs := by
  obtain ⟨hx, -⟩ := h
  rw [hx]
theorem Entered.edges : x.edges = es := by
  obtain ⟨hx, -⟩ := h
  rw [hx]
theorem Entered.domain? (hd : s.domain? n.dom = some d) : x.domain? n.dom = some { d with sigs := d.sigs.set k e } := by
  have := State.domain?_modDomain hd (fun d => { d with sigs := d.sigs.set k e }) fun _ => rfl
  rw [State.domain?, State.domainsWith_eq, ← h.domains] at this
  exact this
theorem Entered.homeBank (hd : s.domain? n.dom = some d) : x.homeBank n.dom = d.home := by rw [State.homeBank, h.domain? hd]; rfl
theorem Entered.homeDie (hd : s.domain? n.dom = some d) : x.homeDie n.dom = qkDie d.home := by rw [State.homeDie, h.domain? hd]; rfl
theorem Entered.entry (hd : s.domain? n.dom = some d) (hk : k < d.sigs.length) : x.entry n.dom k = e := by
  rw [State.entry, h.domain? hd]
  simp [hk]
/-- The issuing thread changed within its domain. -/
theorem Entered.modMe (f : Thread → Thread) (hf : ∀ t, (f t).gid = t.gid) (hdom : (f n).dom = n.dom) :
    Entered s (x.modMe f) d (f n) k e cs es := by
  obtain ⟨-, hn, hother⟩ := OnlyThread.modMe h.thread? f hf
  rw [h.iss] at hn hother
  obtain ⟨hx, -, hs, hmem⟩ := h
  refine ⟨?_, hn, fun g hg => (hother g hg).trans (hs g hg), hmem⟩
  rw [hdom]
  exact congrArg (fun y : State => { y with threads := (x.modMe f).threads }) hx
/-- The entry written again. -/
theorem Entered.setEntry (hd : s.domain? n.dom = some d) (hwf : s.mem.wf = true) (hx : x.mem.wf = true) (f : Sig) :
    Entered s (x.setEntry n.dom k f) d n k f cs es := by
  have hd' := h.domain? hd
  have hdoms : (x.setEntry n.dom k f).domains = s.domainsWith n.dom k f := by
    show (x.modDomain n.dom fun d => { d with sigs := d.sigs.set k f }).domains = _
    rw [State.domainsWith_eq, State.domainsWith, h.domains, State.domainsWith, State.domainsWith, List.map_map]
    refine List.map_congr_left fun y _ => ?_
    by_cases hy : y.num = n.dom <;> simp [hy]
  have hmemd : (x.setEntry n.dom k f).mem = d.tableMem k f x.mem := by
    rw [State.setEntry, hd']
    rfl
  obtain ⟨heq, hn, hs, hmem⟩ := h
  refine ⟨?_, hn, hs, fun a => ?_⟩
  · have hset : x.setEntry n.dom k f = { x with domains := s.domainsWith n.dom k f, mem := (x.setEntry n.dom k f).mem } := by
      rw [← hdoms]
      rfl
    exact hset.trans (congrArg (fun y : State => { y with domains := s.domainsWith n.dom k f, mem := (x.setEntry n.dom k f).mem }) heq)
  · rw [hmemd]
    exact Domain.byte_tableMem_congr hx hwf (fun ha => (hmem a).trans (d.byte_tableMem hwf ha e)) f
theorem Entered.withCores (cs' : List Core) : Entered s { x with cores := cs' } d n k e cs' es := by
  obtain ⟨heq, hn, hs, hmem⟩ := h
  exact ⟨congrArg (fun y : State => { y with cores := cs' }) heq, hn, hs, hmem⟩
theorem Entered.withEdges (es' : List Edge) : Entered s { x with edges := es' } d n k e cs es' := by
  obtain ⟨heq, hn, hs, hmem⟩ := h
  exact ⟨congrArg (fun y : State => { y with edges := es' }) heq, hn, hs, hmem⟩
end

/-! ### An instruction on a signal -/

section
variable (hs : s.signals m d op k e)
include hs
theorem State.signals.dom : s.domain? m.dom = some d := by
  obtain ⟨-, -, hd, -⟩ := hs
  exact hd
theorem State.signals.lt : k < d.sigs.length := by
  obtain ⟨-, -, -, -, hk, -⟩ := hs
  exact hk
theorem State.signals.wf : s.mem.wf = true := by
  obtain ⟨-, -, -, -, -, hwf, -⟩ := hs
  exact hwf
theorem State.signals.issues : s.issues m := hs.1
theorem State.signals.bringIn : s.bringIn m.dom k = s.setEntry m.dom k e := by
  obtain ⟨-, -, hd, -, -, -, he⟩ := hs
  rw [State.bringIn, hd, he]
theorem State.signals.entered : Entered s (s.bringIn m.dom k) d m k e s.cores s.edges := by
  rw [hs.bringIn]
  exact State.setEntry_entered hs.issues.1 hs.dom k e
theorem State.signals.wf_bringIn : (s.bringIn m.dom k).mem.wf = true := by
  rw [hs.bringIn, State.setEntry, hs.dom]
  exact Domain.wf_tableMem hs.wf
/-- The checks of the operand. -/
theorem State.signals.withSig (g : Nat → State → Out) : s.withSig op g = g k s := by
  obtain ⟨hi, hslot, hd, hop, hk, -⟩ := hs
  rw [State.withSig, State.user_eq hslot]
  simp only [hop, hi.myDom, hd, Option.map_some, Option.getD_some]
  exact if_neg (by omega)
theorem State.signals.sigKey : s.sigKey m.dom k = d.sigKey 0 k := by rw [State.sigKey, hs.dom]; rfl
/-- The thread's own earlier cede comes first. -/
theorem State.signals.atEntry_retries (hdue : s.wordsDue m.uid (d.sigKey 0 k) 8 = true) (g : Sig → State → Out) :
    ∃ t, s.atEntry k g = .next t ∧ Retries s t m (.words (d.sigKey 0 k) 8) := by
  refine ⟨_, ?_, State.retry_retries hs.issues.1 _⟩
  rw [State.atEntry, hs.issues.me, hs.issues.myDom, hs.sigKey]
  exact if_pos hdue
/-- The bank brings the entry into the instant. -/
theorem State.signals.atEntry (hdue : s.wordsDue m.uid (d.sigKey 0 k) 8 = false) (g : Sig → State → Out) :
    s.atEntry k g = g e (s.bringIn m.dom k) := by
  have hx := hs.entered
  rw [State.atEntry, hs.issues.me, hs.issues.myDom, hs.sigKey]
  simp only [hdue, Bool.false_eq_true, if_false]
  rw [show (s.bringIn m.dom k).myDom = m.dom from hx.myDom, hx.entry hs.dom hs.lt]
end
/-- The bank answers the issuing thread with a word. -/
theorem Entered.answers (h : Entered s x d n k e cs es) {i : Instr} {rd : Reg} {home v : Nat} (hi : exec i s = x.reply rd home v) :
    Answers i s x n home v rd := by
  obtain ⟨t, ht, hr⟩ := State.reply_replies h.thread? rd home v
  rw [h.doneTo] at hr
  exact ⟨t, hi.trans ht, hr⟩

/-! ### The status that a core remembers -/

/-- A core that remembers a decided status, and what it remembered before as far as there is room. -/
def Core.remembering (c : Core) (n k : Nat) (p : Bool) : Core :=
  { c with status := ((n, k, p) :: c.status.filter fun e => !(e.1 == n && e.2.1 == k)).take Config.statusCache }
theorem State.core_remember (s : State) (c n k : Nat) (p : Bool) : (s.remember c n k p).core c = (s.core c).remembering n k p := by
  have hkey : ((s.core c).remembering n k p).key = c := s.core_key c
  calc (s.remember c n k p).core c = (s.remember c n k p).core ((s.core c).remembering n k p).key := by rw [hkey]
    _ = (s.core c).remembering n k p := s.core_setCore _
theorem State.remember_status (s : State) (c n k : Nat) (p : Bool) : ((s.remember c n k p).core c).status.head? = some (n, k, p) := by
  rw [s.core_remember]
  rfl
theorem State.remember_other (s : State) {c c' : Nat} (hc : c' ≠ c) (n k : Nat) (p : Bool) : (s.remember c n k p).core c' = s.core c' := 
  s.core_setCore_other _ c' (by rw [show _ = c from s.core_key c]; exact hc)
theorem Entered.remember (h : Entered s x d n k e cs es) (c k' : Nat) (p : Bool) :
    Entered s (x.remember c n.dom k' p) d n k e (x.remember c n.dom k' p).cores es := h.withCores _

/-! ### Waiters -/

theorem State.settleSig_of_none {n : Nat} (h : s.parkedOn (sigObj n k) okSig = []) : s.settleSig n k =
    { s with edges := s.edges.filter fun e => !(e.ek == 2 && e.obj == sigObj n k) } := by
  simp only [State.settleSig, h, List.foldl_nil, List.isEmpty_nil, if_true]

/-! ### Emissions and cedes -/

/-- The entry after an emission, with a value or without. -/
def Sig.emitted (e : Sig) : Option Nat → Sig
  | .none => { e with st := 1 }
  | .some v => { e with st := 1 }.combine v
theorem Sig.emitted_some (e : Sig) (v : Nat) :
    e.emitted (some v) = { e with st := 1, val := if e.cmb = 0 then e.val else sigCombine e.cmb e.ty e.val v } := by
  rw [Sig.emitted, Sig.combine]
  by_cases h : e.cmb = 0 <;> simp [h]
/-- An emission by the entries before and after it. -/
theorem State.emission_eq (s : State) (n : Nat) (v : Option Nat) : s.emission n v =
    let x := s.bringIn s.myDom n
    let e := x.entry x.myDom n
    let y := ((x.setEntry x.myDom n (e.emitted v)).remember x.myCore x.myDom n true).settleSig x.myDom n
    if e.st = 2 then x.trap clsLate n else y.replied (y.homeBank y.myDom) 0 0 false (y.doneTo 0 0 0 8 false) := by
  cases v <;> rfl
section
variable (hs : s.signals m d op k e)
include hs
theorem State.signals.emission_late (he : e.st = 2) (v : Option Nat) : s.emission k v = .next ((s.bringIn m.dom k).fault 12 k) := by
  have hx := hs.entered
  rw [State.emission_eq, hs.issues.myDom]
  dsimp only
  rw [hx.myDom, hx.entry hs.dom hs.lt, if_pos he]
  rfl
theorem State.signals.emission (he : e.st ≠ 2) (hpark : s.parkedOn (sigObj m.dom k) okSig = []) (v : Option Nat) :
    ∃ t x, s.emission k v = .next t ∧ Entered s x d m k (e.emitted v) x.cores (s.edges.filter fun x => !(x.ek == 2 && x.obj == sigObj m.dom k)) ∧
      (x.core s.myCore).status.head? = some (m.dom, k, true) ∧ (∀ c, c ≠ s.myCore → x.core c = s.core c) ∧
      Replies x t m d.home 0 0 false (s.doneTo 0 0 0 8 false) := by
  have hx0 := hs.entered
  have hx1 := hx0.setEntry hs.dom hs.wf hs.wf_bringIn (e.emitted v)
  have hx2 := hx1.remember s.myCore k true
  generalize hu : ((s.bringIn m.dom k).setEntry m.dom k (e.emitted v)).remember s.myCore m.dom k true = u at hx2
  have hx := hx2.withEdges (s.edges.filter fun x => !(x.ek == 2 && x.obj == sigObj m.dom k))
  have hupark : u.parkedOn (sigObj m.dom k) okSig = [] := by
    rw [← hpark, ← hu, hs.bringIn]
    rfl
  have hsettle := State.settleSig_of_none hupark
  rw [hx2.edges] at hsettle
  obtain ⟨t, ht, hr⟩ := State.repliedAs_replies hx.thread? .asked d.home 0 0 false (s.doneTo 0 0 0 8 false)
  refine ⟨t, _, ?_, hx, ?_, fun c hc => ?_, hr⟩
  · rw [State.emission_eq, hs.issues.myDom]
    dsimp only
    rw [hx0.myDom, hx0.entry hs.dom hs.lt, if_neg he]
    rw [hx0.myCore, hu, hsettle, hx.myDom, hx.homeBank hs.dom, hx.doneTo]
    exact ht
  · rw [← hu]
    exact State.remember_status _ _ _ _ _
  · rw [← hu]
    refine (State.remember_other _ hc _ _ _).trans ?_
    rw [hs.bringIn]
    rfl
end
end
end Sys2Proof.Machine
open Sys2Proof.Machine

theorem entryInInstant : Clause.EntryInInstant := by
  intro e k claims _
  refine ⟨fun h => if_pos h, fun h => ?_⟩
  have hf : e.bring k claims [] = _ := if_neg h
  rw [hf]
  exact ⟨rfl, rfl, rfl, rfl, rfl, rfl, rfl, fun h => ⟨if_pos h, if_pos h⟩, fun h => ⟨if_neg h, if_neg h⟩⟩

theorem emissions : Clause.Emissions := by
  intro s m d op a k e hs
  have hi := hs.issues
  have emit : exec (.emit op) s = s.afterRelease fun s => s.emission k none := by
    show execEmit op s = _
    exact hs.withSig _
  have emitv : exec (.emitv a op) s = s.afterRelease fun s => s.emission k (some (s.gv a)) := by
    show execEmitv a op s = _
    exact hs.withSig _
  have early (hdue : s.releaseDue = false) (g : State → Out) : s.afterRelease g = g s := if_neg (by simp [hdue])
  refine ⟨fun hdue he hpark => ?_, fun hdue i hi' => ?_, fun hdue he => ⟨?_, ?_⟩⟩
  · dsimp only
    rw [emit, emitv, early hdue, early hdue, State.gv_plain hi, ← e.emitted_some]
    exact ⟨hs.emission he hpark none, hs.emission he hpark (some _)⟩
  · refine ⟨s.retry (.drain (s.dscope m.dom)), ?_, State.retry_retries hi.1 _⟩
    have late (g : State → Out) : s.afterRelease g = .next (s.retry (.drain (s.dscope m.dom))) := by
      rw [State.afterRelease, if_pos hdue, hi.myDom]
    rcases hi' with rfl | rfl
    · rw [emit, late]
    · rw [emitv, late]
  · rw [emit, early hdue, hs.emission_late he]
  · rw [emitv, early hdue, hs.emission_late he]

theorem cedeAtEntry : Clause.CedeAtEntry := by
  intro s r d k hr hop hmay hd hk hpark hwf e f
  have hbring : s.bringIn r.dom k = s.setEntry r.dom k e := by rw [State.bringIn, hd]
  have hentry : (s.setEntry r.dom k e).entry r.dom k = e := by
    rw [State.entry, State.setEntry_domain? hd]
    simp [hk]
  have hf : e.cedeOne = f := by simp [Sig.cedeOne, f]
  have hset := State.setEntry_setEntry (s := s.dropReq r.id) hd k e f
  have hexec : exec (.cedeApply r.id) s = .next ((((s.dropReq r.id).setEntry r.dom k e).setEntry r.dom k f).settleSig r.dom k) := by
    show execCedeApply r.id s = _
    rw [execCedeApply, hr]
    simp only [hop, hmay, if_true, State.applyCede]
    rw [hbring, show ((s.setEntry r.dom k e).dropReq r.id).entry r.dom k = e from hentry, hf]
    rfl
  have hsettle := State.settleSig_of_none (s := ((s.dropReq r.id).setEntry r.dom k e).setEntry r.dom k f) hpark
  refine ⟨_, hexec, ?_, fun a => ?_⟩
  · rw [hsettle, hset]
    rfl
  · rw [hsettle, hset]
    exact Domain.byte_tableMem_congr (Domain.wf_tableMem hwf) hwf (fun ha => d.byte_tableMem hwf ha e) f

/-- Settles O9: each write of an entry is one of its domain's record and of its three words in memory; with nobody parked on the signal, only its
hold edges go. -/
theorem signalTable : Obligations.SignalTable := ⟨entryInInstant, emissions, cedeAtEntry⟩
end

section
/-!
SUPPORT. Reading, claiming and ceding signals (02 R34, R35, R38, R40; 05 R86, R92, R93, R96), and parking (00 R9).
-/
open Sys2Proof
namespace Sys2Proof.Machine

section
variable {s x t : State} {m n : Thread} {d : Domain} {k : Nat} {e f : Sig} {cs : List Core} {es : List Edge} {op : SigOp}

/-! ### Parking on an object that nobody holds -/

/-- The walk from an object without hold edges ends at once. -/
theorem State.walkEdge_clear {g : Nat} {w : Edge} (hw : w.ek = 0) (hhold : s.holdEdges w.obj = []) : s.walkEdge g w = .clear := by
  simp [State.walkEdge, Config.walkLimit, walkLoop, hw, hhold]
/-- A thread that has parked. -/
def Thread.parkedAt (t : Thread) (obj ok : Nat) (half : Bool) (fin : Done) (pc : Nat) : Thread :=
  { t with stat := .parked, pc := wd pc, wait := some { why := .parked obj ok, again := false, half := half, fin := fin } }
theorem State.holdEdges_cons_wait {w : Edge} (hw : w.ek = 0) (s : State) (obj : Nat) :
    ({ s with edges := w :: s.edges } : State).holdEdges obj = s.holdEdges obj := by
  simp [State.holdEdges, hw]
/-- Entering a wait edge on an object that nobody holds closes no cycle. -/
theorem State.enterWait_of_unheld {g die obj ok : Nat} (hhold : s.holdEdges obj = []) :
    ∃ ds es, s.enterWait g die obj ok = ({ s with dies := ds, edges := es }, none) ∧
      ((s.freeEntry die).isSome = true → es.any (fun e => e.die == die && e.obj == obj && e.ok == ok && e.ek == 0 && e.gid == g) = true) := by
  rw [State.enterWait]
  cases hfree : s.freeEntry die with
  | none => exact ⟨(s.overflowed die).dies, s.edges, rfl, fun h => by simp at h⟩
  | some i =>
    let w : Edge := { die := die, idx := i, obj := obj, ok := ok, ek := 0, gid := g, unc := false }
    have hclear : ({ s with edges := w :: s.edges } : State).walkEdge g w = .clear :=
      State.walkEdge_clear rfl ((s.holdEdges_cons_wait rfl obj).trans hhold)
    refine ⟨s.dies, w :: s.edges, ?_, fun _ => by simp [w]⟩
    dsimp only
    rw [hclear]
theorem State.parkMe_parkedOn (hm : s.thread? s.iss.gid = some m) (hwait : m.wait = none) {die obj ok : Nat}
    (hhold : s.holdEdges obj = []) (fin : Done) : ParkedOn s (s.parkMe die obj ok fin) m die obj ok fin := by
  let f : Thread → Thread := fun t => { t with
    wait := some { why := .parked obj ok, again := false, half := (t.wait.map (·.half)).getD (s.iss.gid == s.iss.gid && s.iss.half), fin := fin },
    stat := .parked, pc := wd s.iss.pc }
  obtain ⟨-, hn, hother⟩ := OnlyThread.modMe hm f fun _ => rfl
  obtain ⟨ds, es, henter, hedge⟩ := (s.modMe f).enterWait_of_unheld (g := s.iss.gid) (die := die) (ok := ok) hhold
  have hpark : s.parkMe die obj ok fin = { s.modMe f with dies := ds, edges := es } := by
    rw [State.parkMe, State.park]
    exact congrArg (fun r : State × Option Trap => match r with
      | (s, none) => s
      | (s, some tr) => { s.trapWaiting s.iss.gid tr false with iss := { (s.trapWaiting s.iss.gid tr false).iss with trapped := true } }) henter
  rw [hpark]
  refine ⟨hn.trans (congrArg some ?_), hother, rfl, rfl, rfl, hedge⟩
  simp [f, hwait]

/-! ### Claims -/

/-- A signal whose count is 0 is claimed by no thread. -/
theorem State.claimEdges_of_none {n : Nat} (h : s.claimsOn n k = 0) : s.claimEdges n k = s := by
  have hnone : (s.threads.filter fun t => t.dom == n && t.claims.any fun c => c.sig == k && c.live) = [] := by
    rw [State.claimsOn, Nat.add_eq_zero_iff] at h
    obtain ⟨h, -⟩ := h
    rw [List.filter_eq_nil_iff]
    intro t ht hc
    rw [Bool.and_eq_true, List.any_eq_true] at hc
    obtain ⟨hdom, c, hc, hlive⟩ := hc
    have hlen : (t.claims.filter fun c => c.sig == k && c.live).length = 0 :=
      List.sum_eq_zero_iff.1 h _ (List.mem_map.2 ⟨t, List.mem_filter.2 ⟨ht, hdom⟩, rfl⟩)
    have hnil := List.filter_eq_nil_iff.1 (List.length_eq_zero_iff.1 hlen)
    exact hnil c hc hlive
  simp [State.claimEdges, hnone]
/-- Claims counted in a state with the same threads and requests. -/
theorem State.claimsOn_congr (ht : x.threads = s.threads) (hr : x.reqs = s.reqs) (n : Nat) : x.claimsOn n k = s.claimsOn n k := by
  rw [State.claimsOn, State.claimsOn, ht, hr]
section
variable (hs : s.signals m d op k e)
include hs
theorem State.signals.threads_bringIn : (s.bringIn m.dom k).threads = s.threads := by
  rw [hs.bringIn]
  rfl
theorem State.signals.reqs_bringIn : (s.bringIn m.dom k).reqs = s.reqs := by
  rw [hs.bringIn]
  rfl
theorem State.signals.edges_bringIn : (s.bringIn m.dom k).edges = s.edges := by
  rw [hs.bringIn]
  rfl
theorem State.signals.core_bringIn (c : Nat) : (s.bringIn m.dom k).core c = s.core c := by
  rw [hs.bringIn]
  rfl
/-- `pres` of a signal whose status the core remembers, and of another. -/
theorem State.signals.exec_pres_of_some (pd : PReg) {y : Nat × Nat × Bool}
    (hc : ((s.core s.myCore).status.find? fun x => x.1 == m.dom && x.2.1 == k) = some y) : exec (.pres pd op) s = s.resP pd y.2.2 := by
  show execPres pd op s = _
  rw [execPres, hs.withSig, hs.issues.myDom, hc]
theorem State.signals.exec_pres_of_none (pd : PReg)
    (hc : ((s.core s.myCore).status.find? fun x => x.1 == m.dom && x.2.1 == k) = none) :
    exec (.pres pd op) s = s.atEntry k fun e s =>
      if e.st = 0 then .next (s.parkSig k (s.doneTo 0 0 pd.val 0 false))
      else (s.remember s.myCore s.myDom k (e.st == 1)).replied (s.homeBank s.myDom) 0 0 (e.st == 1) (s.doneTo 0 0 pd.val 8 false) := by
  show execPres pd op s = _
  rw [execPres, hs.withSig, hs.issues.myDom, hc]
/-- Parking on a signal that nobody claims. -/
theorem State.signals.parkSig (hwait : m.wait = none) (hclaims : s.claimsOn m.dom k = 0) (hhold : s.holdEdges (sigObj m.dom k) = []) (fin : Done) :
    ParkedOn (s.bringIn m.dom k) ((s.bringIn m.dom k).parkSig k fin) m (qkDie d.home) (sigObj m.dom k) okSig fin := by
  have hx := hs.entered
  rw [State.parkSig, hx.myDom, hx.homeDie hs.dom,
    State.claimEdges_of_none ((State.claimsOn_congr hs.threads_bringIn hs.reqs_bringIn m.dom).trans hclaims)]
  refine State.parkMe_parkedOn hx.thread? hwait ?_ fin
  rw [State.holdEdges, hs.edges_bringIn]
  exact hhold
end
end
end Sys2Proof.Machine
open Sys2Proof.Machine

theorem signalReadsClause : Clause.SignalReads := by
  intro s m d op rd pd k e hs cached
  have hi := hs.issues
  have hx := hs.entered
  have sigvCur : exec (.sigvCur rd op) s = s.atEntry k fun e s =>
      if e.st = 0 || e.cnt != 0 then .next (s.parkSig k (s.doneTo rd.val 0 0 8 false)) else s.reply rd (s.homeBank s.myDom) e.current := by
    show execSigvCur rd op s = _
    exact hs.withSig _
  have sigvPrev : exec (.sigvPrev rd op) s = s.atEntry k fun e s =>
      s.reply rd (s.homeBank s.myDom) (if e.cmb = 0 then 0 else e.prev) := by
    show execSigvPrev rd op s = _
    exact hs.withSig _
  refine ⟨fun c hc => ?_, fun hdue i hi' => ?_, fun hdue => ⟨fun hc he => ?_, fun hc he hwait hclaims hhold => ?_, fun he hcnt => ⟨_, hx, ?_⟩, _, hx, ?_⟩⟩
  · exact State.putsP_of_resP hi (hs.exec_pres_of_some pd hc)
  · rcases hi' with ⟨rfl, hc⟩ | rfl | rfl
    · rw [hs.exec_pres_of_none pd hc]
      exact hs.atEntry_retries hdue _
    · rw [sigvCur]
      exact hs.atEntry_retries hdue _
    · rw [sigvPrev]
      exact hs.atEntry_retries hdue _
  · have hy := hx.remember s.myCore k (e.st == 1)
    obtain ⟨t, ht, hr⟩ := State.repliedAs_replies hy.thread? .asked d.home 0 0 (e.st == 1) (s.doneTo 0 0 pd.val 8 false)
    refine ⟨t, _, ?_, hy, State.remember_status _ _ _ _ _, fun c hc' => ?_, hr⟩
    · rw [hs.exec_pres_of_none pd hc, hs.atEntry hdue, if_neg he, hx.myDom, hx.homeBank hs.dom, hx.doneTo, hx.myCore]
      exact ht
    · rw [State.remember_other _ hc', hs.core_bringIn]
  · refine ⟨_, _, ?_, hx, hs.parkSig hwait hclaims hhold _⟩
    rw [hs.exec_pres_of_none pd hc, hs.atEntry hdue, if_pos he, hx.doneTo]
  · refine hx.answers ?_
    rw [sigvCur, hs.atEntry hdue, if_neg (by simp [he, hcnt]), hx.myDom, hx.homeBank hs.dom]
    rfl
  · refine hx.answers ?_
    rw [sigvPrev, hs.atEntry hdue, hx.myDom, hx.homeBank hs.dom]

theorem instResults : Clause.InstResults := by
  intro s m dom d hi hslot hdom
  have user := State.user_eq hslot
  have reads {g : Domain → Nat} {i : Instr} (h : exec i s = s.user fun s => s.res d (wd (((s.domain? s.myDom).map g).getD 0))) :
      Puts i s d (BitVec.ofNat 64 (g dom)) := by
    refine State.puts_of_res hi (h.trans ?_)
    rw [user, hi.myDom, hdom]
    rfl
  exact ⟨reads (g := (·.inst)) rfl, reads (g := (·.seed)) rfl, reads (g := (·.sigs.length)) rfl⟩

/-- Settles O10: the core's memory of a status first, then the entry at its home; parking where nobody claims closes no cycle. -/
theorem signalReads : Obligations.SignalReads := ⟨signalReadsClause, instResults⟩
end

section
/-!
SUPPORT. Claims: the results of `claim`, and the posted cede of `cede` and `unclaim` (02 R34, R35; 05 R86, R92).
-/
open Sys2Proof
namespace Sys2Proof.Machine

section
variable {s x t : State} {m n : Thread} {d : Domain} {k : Nat} {e f : Sig} {cs : List Core} {es : List Edge} {op : SigOp}

/-- Threads that wait on an object are the same after a change that keeps what each waits for. -/
theorem State.parkedOn_modMe {f : Thread → Thread} (hf : ∀ t, (f t).wait = t.wait) {obj ok : Nat} (h : s.parkedOn obj ok = []) :
    (s.modMe f).parkedOn obj ok = [] := by
  rw [State.parkedOn, List.filter_eq_nil_iff] at h ⊢
  intro t ht
  obtain ⟨y, hy, rfl⟩ := List.mem_map.1 ht
  by_cases hg : (y.gid == s.iss.gid) = true
  · rw [if_pos hg, hf]
    exact h y hy
  · rw [if_neg hg]
    exact h y hy
/-- A thread with one more claim. -/
def Thread.claiming (t : Thread) (k : Nat) (live : Bool) : Thread := { t with claims := t.claims ++ [{ sig := k, live := live }] }
/-- A thread whose claims of a signal are ceded, and one that holds none. -/
def Thread.ceding (t : Thread) (k : Nat) : Thread := { t with claims := t.claims.map fun c => if c.sig == k then { c with live := false } else c }
def Thread.unclaiming (t : Thread) (k : Nat) : Thread := { t with claims := t.claims.filter (·.sig != k) }
theorem Thread.unclaiming_ceding (t : Thread) (k : Nat) : (t.ceding k).unclaiming k = t.unclaiming k := by
  have h (l : List Claim) : (l.map fun c => if c.sig == k then { c with live := false } else c).filter (·.sig != k) = l.filter (·.sig != k) := by
    induction l with
    | nil => rfl
    | cons c l ih => by_cases hc : c.sig = k <;> simp [hc] at ih ⊢ <;> exact ih
  rw [Thread.unclaiming, Thread.ceding, h]
  rfl

/-- What the bank makes of a claim of a signal whose entry is `e`. -/
def State.claimAt (s : State) (rd : Reg) (k : Nat) (e : Sig) : Out :=
  let y := (s.modMe (·.claiming k true)).setEntry s.myDom k { e with cnt := e.cnt + 1 }
  if s.claimed k then s.reply rd (s.homeBank s.myDom) 0
  else if 8 ≤ s.me.claims.length then s.reply rd (s.homeBank s.myDom) 2
  else if 1048575 ≤ e.cnt then s.reply rd (s.homeBank s.myDom) 3
  else if e.st = 2 then (s.modMe (·.claiming k false)).reply rd (s.homeBank s.myDom) 1
  else (if (y.parkedOn (sigObj y.myDom k) okSig).isEmpty then y else y.claimEdges y.myDom k).reply rd (s.homeBank s.myDom) 0
theorem State.signals.exec_claim (hs : s.signals m d op k e) (rd : Reg) :
    exec (.claim rd op) s = s.atEntry k fun e s => s.claimAt rd k e := by
  show execClaim rd op s = _
  rw [execClaim, hs.withSig]
  rfl

/-- The hold edges of a signal on other threads, and every other edge. -/
def State.edgesUnclaimed (s : State) (n k g : Nat) : List Edge := s.edges.filter fun x => !(x.ek == 2 && x.obj == sigObj n k && x.gid == g)
/-- A state whose issuing thread has ceded its claims of a signal. -/
def State.ceded (s : State) (k : Nat) : State := { s.modMe (·.ceding k) with edges := s.edgesUnclaimed s.myDom k s.iss.gid }
/-- The request of a cede, as it sets out, and the state with it. -/
def State.cedeReq (s : State) (d : Domain) (k : Nat) : Req :=
  (s.ceded k).newReq s.iss.gid (.cede k) (d.sigKey 0 k) 8 (d.sigKey 0 k) ((s.ceded k).dscope s.myDom) true false true
def State.withCede (s : State) (d : Domain) (k : Nat) : State :=
  { s with reqs := s.reqs ++ [s.cedeReq d k], nextId := s.nextId + 1, edges := s.edgesUnclaimed s.myDom k s.iss.gid }

section
variable (hs : s.signals m d op k e)
include hs
theorem State.signals.postCede : s.postCede s.iss.gid k = ((s.withCede d k).modMe (·.ceding k)).modMe fun t => { t with seq := t.seq + 1 } := by
  have hm := State.thread_of hs.issues.1
  have hd : s.domain? (s.thread s.iss.gid).dom = some d := by rw [hm]; exact hs.dom
  rw [State.postCede]
  dsimp only
  split
  · next h => exact absurd (hd.symm.trans h) (by simp)
  · next y h =>
    cases hd.symm.trans h
    rfl
theorem State.signals.withCede_thread? : (s.withCede d k).thread? s.iss.gid = some m := hs.issues.1
theorem State.signals.cedeReq : (s.cedeReq d k).uid = m.uid ∧ (s.cedeReq d k).dom = m.dom := by
  have hn := State.modMe_thread? hs.issues.1 (·.ceding k) fun _ => rfl
  obtain ⟨-, -, huid, -, -, -, -, -, -, -, -, -, hdom, -⟩ := State.newReq_made (s := s.ceded k) hn (.cede k)
    (d.sigKey 0 k) 8 (d.sigKey 0 k) ((s.ceded k).dscope s.myDom) true false true
  exact ⟨huid, hdom⟩
end
end
end Sys2Proof.Machine
open Sys2Proof.Machine

theorem claimResults : Clause.ClaimResults := by
  intro s m d op rd k e hs held gives
  have hx := hs.entered
  have keeps {n : Thread} {y : State} {f : Sig} {v : Nat} (hy : Entered s y d n k f s.cores s.edges)
      (h : exec (.claim rd op) s = y.reply rd d.home v) : gives n f v := ⟨y, hy, hy.answers h⟩
  refine ⟨fun hdue => ?_, fun hdue => ?_⟩
  · rw [hs.exec_claim]
    exact hs.atEntry_retries hdue _
  · have claim := hs.exec_claim rd
    have hclaimed : (s.bringIn m.dom k).claimed k = held := by rw [State.claimed, hx.me]
    rw [hs.atEntry hdue, State.claimAt, hclaimed, hx.me, hx.myDom, hx.homeBank hs.dom] at claim
    refine ⟨fun h => keeps hx ?_, fun h hlen => keeps hx ?_, fun h hlen hcnt => keeps hx ?_,
      fun h hlen hcnt he => keeps (hx.modMe (·.claiming k false) (fun _ => rfl) rfl) ?_, fun h hlen hcnt he hpark => ?_⟩
    · rw [claim, if_pos h]
    · rw [claim, if_neg (by simp [h]), if_pos hlen]
    · rw [claim, if_neg (by simp [h]), if_neg (Nat.not_le.2 hlen), if_pos hcnt]
    · rw [claim, if_neg (by simp [h]), if_neg (Nat.not_le.2 hlen), if_neg (Nat.not_le.2 hcnt), if_pos he]
    · let y := ((s.bringIn m.dom k).modMe (·.claiming k true)).setEntry m.dom k { e with cnt := e.cnt + 1 }
      have hy : Entered s y d (m.claiming k true) k { e with cnt := e.cnt + 1 } s.cores s.edges :=
        (hx.modMe (·.claiming k true) (fun _ => rfl) rfl).setEntry hs.dom hs.wf hs.wf_bringIn _
      have hypark : y.parkedOn (sigObj m.dom k) okSig = [] := by
        refine State.parkedOn_modMe (s := s.bringIn m.dom k) (f := (·.claiming k true)) (fun _ => rfl) ?_
        rw [State.parkedOn, hs.threads_bringIn]
        exact hpark
      refine keeps hy ?_
      rw [claim, if_neg (by simp [h]), if_neg (Nat.not_le.2 hlen), if_neg (Nat.not_le.2 hcnt), if_neg he, show State.myDom _ = m.dom from hy.myDom]
      exact congrArg (State.reply · rd d.home 0) (if_pos (List.isEmpty_iff.2 hypark))

theorem cedeAndUnclaim : Clause.CedeAndUnclaim := by
  intro s m d op k e hs live dropped ceded gone posts
  have hi := hs.issues
  have hlive : s.claimedLive k = live := by rw [State.claimedLive, hi.me]
  have cede : exec (.cede op) s = if !s.claimedLive k then s.ok
      else if s.bufferRoom 1 then (s.postCede s.iss.gid k).ok else .next (s.retry (.buffer 1)) := by
    show execCede op s = _
    rw [execCede, hs.withSig]
  have unclaim : exec (.unclaim op) s = if !s.claimedLive k then (s.modMe (·.unclaiming k)).ok
      else if s.bufferRoom 1 then ((s.postCede s.iss.gid k).modMe (·.unclaiming k)).ok else .next (s.retry (.buffer 1)) := by
    show execUnclaim op s = _
    rw [execUnclaim, hs.withSig]
    rfl
  rw [hlive] at cede unclaim
  refine ⟨fun h => ⟨?_, ?_⟩, fun h hroom => ?_⟩
  · rw [cede, h]
    exact State.ok_wentOn hi
  · refine State.turns_of_ok hi (·.unclaiming k) (fun _ => rfl) ?_
    rw [unclaim, h]
    rfl
  · have hm := hs.withCede_thread?
    have hj : (s.withCede d k).iss.jumped = false := hi.2.1
    have hceding := OnlyThread.modMe hm (·.ceding k) fun _ => rfl
    have hposted := hceding.after (OnlyThread.modMe hceding.thread? (fun t => { t with seq := t.seq + 1 }) fun _ => rfl)
    rw [← hs.postCede] at hposted
    obtain ⟨huid, hdom⟩ := hs.cedeReq
    have hgone : gone = s.edgesUnclaimed s.myDom k s.iss.gid := by rw [hi.myDom]; rfl
    have puts {i : Instr} {u : State} {cs : List Claim} (hexec : exec i s = u.ok)
        (hu : OnlyThread (s.withCede d k) u s.iss.gid { m with claims := cs, seq := m.seq + 1 }) : posts i cs := by
      obtain ⟨t, ht, honly⟩ := hu.ok hj
      refine ⟨t, s.cedeReq d k, hexec.trans ht, ?_, rfl, huid, hdom, rfl, rfl, rfl⟩
      rw [hgone]
      exact honly
    refine ⟨puts (u := s.postCede s.iss.gid k) ?_ hposted, puts (u := (s.postCede s.iss.gid k).modMe (·.unclaiming k)) ?_ ?_⟩
    · rw [cede, h, hroom]
      rfl
    · rw [unclaim, h, hroom]
      rfl
    · have hdrop := hposted.after (OnlyThread.modMe (s := s.postCede s.iss.gid k) (by rw [hposted.iss]; exact hposted.thread?) (·.unclaiming k) fun _ => rfl)
      have hdropped : Thread.unclaiming { m.ceding k with seq := m.seq + 1 } k = { m with claims := dropped, seq := m.seq + 1 } :=
        congrArg (fun t : Thread => { t with seq := m.seq + 1 }) (m.unclaiming_ceding k)
      rw [← hdropped]
      exact hdrop

/-- Settles O11: the bank decides a claim by what the thread holds, the count and the status in this order; a posted cede is one request behind
the release. -/
theorem claims : Obligations.Claims := ⟨claimResults, cedeAndUnclaim⟩
end

section
/-!
SUPPORT. Guards: their entries, and the abort of one at a closure (02 R43, R44; 05 R90, R91, R94).
-/
open Sys2Proof
namespace Sys2Proof.Machine

section
variable {s x t : State} {m n : Thread} {d : Domain} {k : Nat} {e f : Sig} {op : SigOp}

/-! ### Targets of the issuing instruction -/

section
variable {imm : BitVec 32} {slot : Fin 64}

theorem State.toTarget_of_ok (h : s.tgtOk imm slot = true) (hmiss : s.targetMiss s.iss.gid (s.tgt imm slot) = none) (f : Bool → State → Out) :
    s.toTarget (tgtForm imm slot) (s.tgt imm slot) f = f true s := by
  rw [State.tgtOk, Bool.and_eq_true] at h
  obtain ⟨hform, hok⟩ := h
  rw [State.toTarget, if_pos hform, hmiss, hok]
/-- A target that waits for its line's translation is not yet judged illegal. -/
theorem State.targetMiss_of_not_ok {g pc : Nat} (h : s.targetOk g pc = false) : s.targetMiss g pc = none := by
  rw [State.targetOk, State.targetOkAs] at h
  rw [State.targetMiss]
  cases hd : s.domain? (s.thread g).dom with
  | none => rfl
  | some d =>
    rw [hd] at h
    cases hline : s.peekLine g (pcLine pc) with
    | none =>
      rw [hline] at h
      exact if_neg (by simpa using h)
    | some l => exact if_neg (by simp)
theorem State.toTarget_of_not_ok (h : s.tgtOk imm slot = false) (f : Bool → State → Out) :
    s.toTarget (tgtForm imm slot) (s.tgt imm slot) f = f false s := by
  rw [State.tgtOk] at h
  rw [State.toTarget]
  cases hform : tgtForm imm slot with
  | false => rfl
  | true =>
    have hok : s.targetOk s.iss.gid (s.tgt imm slot) = false := by simpa [hform] using h
    rw [if_pos rfl, State.targetMiss_of_not_ok hok, hok]
end

/-! ### Entries -/

/-- A thread in one more guard of its own. -/
def Thread.guarded (t : Thread) (abort : Bool) (k exit id : Nat) : Thread :=
  { t with guards := t.guards ++ [{ abort := abort, sig := k, exit := exit, id := id, own := true }] }
theorem State.pushGuard_ok (hi : s.issues m) (abort : Bool) (k exit : Nat) : ∃ t, (s.pushGuard abort k exit).ok = .next t ∧
    OnlyThread { s with nextId := s.nextId + 1 } t s.iss.gid { m.guarded abort k exit s.nextId with pc := wd s.iss.succ } := by
  obtain ⟨hm, hj, -⟩ := hi
  exact (OnlyThread.modMe (s := { s with nextId := s.nextId + 1 }) hm (·.guarded abort k exit s.nextId) fun _ => rfl).ok hj

/-! ### A signal number past the table -/

theorem State.withSig_of_ge (hm : s.thread? s.iss.gid = some m) (hslot : s.iss.gid % 16 ≠ 15) (hd : s.domain? m.dom = some d)
    (hlen : d.sigs.length ≤ s.sigNo op) (g : Nat → State → Out) : s.withSig op g = .next (s.fault 4 (s.sigNo op)) := by
  rw [State.withSig, State.user_eq hslot]
  simp only [State.myDom_of hm, hd, Option.map_some, Option.getD_some]
  exact if_pos hlen

/-! ### An abort at a closure -/

/-- A thread whose outermost guard has aborted. -/
def Thread.aborted (t : Thread) (exit : Nat) : Thread := { t with guards := [], pc := wd exit }
/-- The one thread of a domain, once its guard has aborted, stands in none. -/
theorem State.guards_aborted {n : Nat} (hone : s.threads.filter (·.dom == n) = [m]) (exit : Nat) :
    ∀ y ∈ (s.modThread m.gid (·.aborted exit)).threads, y.dom = n → y.guards = [] := by
  intro y hy hn
  obtain ⟨z, hz, rfl⟩ := List.mem_map.1 hy
  by_cases hg : z.gid = m.gid
  · simp [hg, Thread.aborted]
  · have hz' : z ∈ s.threads.filter (·.dom == n) := List.mem_filter.2 ⟨hz, by simpa [hg] using hn⟩
    rw [hone, List.mem_singleton] at hz'
    exact absurd (congrArg Thread.gid hz') hg
section
variable {n : Nat} {x : Guard} (hd : s.domain? n = some d) (hone : s.threads.filter (·.dom == n) = [m]) (hstat : m.stat = .paused)
  (hguards : m.guards = [x]) (habort : x.abort = true) (hown : x.own = true) (hpresent : ((d.sigs.getD x.sig Sig.none).closed d.inst).1 = 1)
include hd hone hstat hguards habort hown hpresent
/-- The one guard of the domain's one thread is visited, and its signal is present. -/
theorem State.visitDepth_aborts : State.visitDepth n (s, []) 0 = (s.modThread m.gid (·.aborted x.exit), []) := by
  have hat : m.guardAt 0 = some x := by rw [Thread.guardAt, Thread.visited, hstat, hguards]; rfl
  have hids : dedup ((s.threads.filter (·.dom == n)).filterMap fun t => (t.guardAt 0).map (·.id)) = [x.id] := by
    rw [hone]
    simp [hat, dedup]
  have hentry : s.entry n x.sig = d.sigs.getD x.sig Sig.none := by rw [State.entry, hd]
  rw [State.visitDepth, hids, List.foldl_cons, List.foldl_nil, State.visitGuard]
  simp only [hone, List.filterMap_cons, List.filterMap_nil, hat, beq_self_eq_true, if_true, hentry, hd, Option.map_some, Option.getD_some,
    hpresent, bne_self_eq_false, Bool.false_eq_true, if_false, habort, List.foldl_cons, List.foldl_nil, State.abortGuard, hown, List.take_zero]
  rfl
/-- Step 2 is that of a domain whose thread has left its guard. -/
theorem State.dealerGuards_aborts : s.dealerGuards n = (s.modThread m.gid (·.aborted x.exit)).dealerGuards n := by
  have hout := State.visitDepth_unguarded (State.guards_aborted hone x.exit) []
  have hrest : (List.range 8).foldl (State.visitDepth n) (s, []) = (s.modThread m.gid (·.aborted x.exit), []) := by
    rw [List.range_succ_eq_map, List.foldl_cons, State.visitDepth_aborts hd hone hstat hguards habort hown hpresent]
    exact List.foldl_fixed' hout _
  have hfixed : (List.range 8).foldl (State.visitDepth n) (s.modThread m.gid (·.aborted x.exit), []) = (s.modThread m.gid (·.aborted x.exit), []) :=
    List.foldl_fixed' hout _
  rw [State.dealerGuards, State.dealerGuards, show Config.guardEntries = 8 from rfl, hrest, hfixed]
theorem State.closure_aborts : s.closure n = (s.modThread m.gid (·.aborted x.exit)).closure n := by
  have hclosed : (s.dealerClose n).domain? n = some d.outClosed := State.domain?_modDomain hd _ fun _ => rfl
  have hguards' : (s.dealerClose n).dealerGuards n = ((s.modThread m.gid (·.aborted x.exit)).dealerClose n).dealerGuards n :=
    State.dealerGuards_aborts (s := s.dealerClose n) hclosed hone hstat hguards habort hown hpresent
  have hany : (s.modThread m.gid (·.aborted x.exit)).threads.any (·.dom == n) = s.threads.any (·.dom == n) := by
    refine (List.any_map ..).trans (congrArg s.threads.any (funext fun t => ?_))
    by_cases hg : t.gid = m.gid <;> simp [hg, Thread.aborted]
  have hany' : ((s.modThread m.gid (·.aborted x.exit)).dealerClose n).threads.any (·.dom == n) = (s.dealerClose n).threads.any (·.dom == n) := hany
  have hthreads : s.threads.any (·.dom == n) = true := by
    have hm : m ∈ s.threads.filter (·.dom == n) := hone ▸ List.mem_singleton_self m
    exact List.any_eq_true.2 ⟨m, List.mem_filter.1 hm⟩
  have hthreads' : (s.dealerClose n).threads.any (·.dom == n) = true := hthreads
  rw [State.closure, State.closure]
  dsimp only
  rw [hany', hthreads', hguards']
  rfl
end
end
end Sys2Proof.Machine
open Sys2Proof.Machine

theorem guardEntries : Clause.GuardEntries := by
  intro s m d op sn slot imm k e dest pushed
  have suspw (hs : s.signals m d op k e) : exec (.suspw op) s =
      if 8 ≤ m.guards.length then .next (s.fault 8 m.guards.length) else (s.pushGuard false k 0).ok := by
    show execSuspw op s = _
    rw [execSuspw, hs.withSig, hs.issues.me]
    rfl
  have abortw (hs : s.signals m d (.imm sn) k e) : exec (.abortw sn slot imm) s =
      if 8 ≤ m.guards.length then .next (s.fault 8 m.guards.length)
      else s.toTarget (tgtForm imm slot) dest fun ok s =>
        if ok then (s.pushGuard true k (s.tgt imm slot)).ok else s.trap 4 (s.tgt imm slot) := by
    show execAbortw sn slot imm s = _
    rw [execAbortw, hs.withSig, hs.issues.me]
    rfl
  have endw (hi : s.issues m) (hslot : s.iss.gid % 16 ≠ 15) : exec .endw s =
      if m.guards.isEmpty then .next (s.fault 8 0) else (s.modMe fun t => { t with guards := t.guards.dropLast }).ok := by
    show execEndw s = _
    rw [execEndw, State.user_eq hslot, hi.me]
    rfl
  refine ⟨fun hs hlen => ?_, fun hs hlen => ?_, fun hs hlen hok hmiss => ?_, fun hs hlen => ?_, fun hs hlen hok => ?_, fun hi hslot hne => ?_,
    fun hi hslot hnil => ?_⟩
  · rw [suspw hs, if_neg (Nat.not_le.2 hlen)]
    exact State.pushGuard_ok hs.issues false k 0
  · rw [suspw hs, if_pos hlen]
  · rw [abortw hs, if_neg (Nat.not_le.2 hlen), State.toTarget_of_ok hok hmiss]
    exact State.pushGuard_ok hs.issues true k dest
  · rw [abortw hs, if_pos hlen]
  · rw [abortw hs, if_neg (Nat.not_le.2 hlen), State.toTarget_of_not_ok hok]
    rfl
  · exact State.turns_of_ok hi (fun t => { t with guards := t.guards.dropLast }) (fun _ => rfl) ((endw hi hslot).trans (if_neg (by simp [hne])))
  · rw [endw hi hslot, hnil]
    rfl

theorem signalNumberTraps : Clause.SignalNumberTraps := by
  intro s m d op a pd hi hslot hd hlen
  have traps := State.withSig_of_ge hi.1 hslot hd hlen
  unfold exec
  dsimp only
  exact ⟨traps _, traps _, traps _, traps _, traps _, traps _, traps _, traps _, traps _⟩

theorem guardAbort : Clause.GuardAbort := by
  intro s n d m x hd hreact hquiet hsuspend hiqs hone hm hstat hguards habort hown hpresent
  have hmem : m ∈ s.threads.filter (·.dom == n) := hone ▸ List.mem_singleton_self m
  have hdom : m.dom = n := by simpa using (List.mem_filter.1 hmem).2
  let u := s.modThread m.gid (·.aborted x.exit)
  have hu : u.thread? m.gid = some (m.aborted x.exit) := s.thread?_modThread_self m.gid (·.aborted x.exit) m hm fun _ h => h
  obtain ⟨t, hfresh, hclosure⟩ := State.closure_of_unguarded (s := u) (n := n) hd ⟨_, List.mem_of_find?_eq_some hu, hdom⟩
    (State.guards_aborted hone x.exit) hiqs hsuspend
  obtain ⟨sigs, htable, -⟩ := hfresh.table
  have hexec := exec_lull_of_quiet hd hreact hquiet
  rw [State.closure_aborts hd hone hstat hguards habort hown hpresent, hclosure] at hexec
  have hlast := hfresh.thread?_reactsAgain m.gid
  rw [hu, Option.map_some, if_pos (show (m.aborted x.exit).dom = n from hdom)] at hlast
  refine ⟨_, _, hexec, hlast, rfl, rfl, rfl, rfl, rfl, ?_⟩
  rw [State.domain?_reactsAgain htable]
  rfl

/-- Settles O12: the checks of the operand, of the count and of the target in this order; a closure that aborts the one guard of a domain's one thread is
the closure of the domain whose thread has left it. -/
theorem guards : Obligations.Guards := ⟨guardEntries, signalNumberTraps, guardAbort⟩
end

section
/-!
SUPPORT. The end of a reaction: pausing and halting of a thread that nothing else waits for (02 R35), and gangs (02 R28; 05 R98).
-/
open Sys2Proof
namespace Sys2Proof.Machine

/-! ### A thread leaves while nobody joins it -/

/-- The threads listed and the domains of the incremental queues are those of `o`, and no thread of which `u` is a child waits. -/
structure Unstirred (u : Nat) (o s : State) : Prop where
  gids : s.threads.map (·.gid) = o.threads.map (·.gid)
  doms : s.iqs.map (·.dom) = o.iqs.map (·.dom)
  still : ∀ x ∈ s.threads, x.children.contains u = true → x.wait = none
/-- A change of a thread that keeps its identifier and its children, and gives it no new wait. -/
def Thread.Settling (f : Thread → Thread) : Prop := ∀ t, (f t).gid = t.gid ∧ (f t).children = t.children ∧ (t.wait = none → (f t).wait = none)

section
variable {u : Nat} {o s : State}

theorem unstirred_ite {a b : State} {c : Prop} [Decidable c] (ha : Unstirred u o a) (hb : Unstirred u o b) : Unstirred u o (if c then a else b) := by
  split <;> assumption
theorem unstirred_foldl {α : Type} {f : State → α → State} {l : List α} (h : Unstirred u o s)
    (hf : ∀ s a, Unstirred u o s → Unstirred u o (f s a)) : Unstirred u o (l.foldl f s) :=
  List.foldlRecOn l f (motive := Unstirred u o) h fun s hs a _ => hf s a hs
/-- A state with the same threads and queues. -/
theorem Unstirred.congr {t : State} (h : Unstirred u o s) (ht : t.threads = s.threads) (hq : t.iqs = s.iqs) : Unstirred u o t := by
  obtain ⟨hg, hd, hs⟩ := h
  exact ⟨ht ▸ hg, hq ▸ hd, ht ▸ hs⟩
theorem unstirred_modThread {g : Nat} {f : Thread → Thread} (h : Unstirred u o s) (hf : Thread.Settling f) : Unstirred u o (s.modThread g f) := by
  obtain ⟨hg, hd, hs⟩ := h
  refine ⟨?_, hd, fun x hx hc => ?_⟩
  · rw [← hg]
    refine (List.map_map ..).trans (List.map_congr_left fun t _ => ?_)
    obtain ⟨hgid, -, -⟩ := hf t
    dsimp only [Function.comp]
    split
    · exact hgid
    · rfl
  · obtain ⟨y, hy, rfl⟩ := List.mem_map.1 hx
    obtain ⟨-, hchildren, hwait⟩ := hf y
    by_cases h : (y.gid == g) = true
    · rw [if_pos h] at hc ⊢
      exact hwait (hs y hy (hchildren ▸ hc))
    · rw [if_neg h] at hc ⊢
      exact hs y hy hc
theorem Thread.settling_setReg (r : Nat) (v : Word) : Thread.Settling (·.setReg r v) := by
  intro t
  dsimp only
  rw [Thread.setReg_eq]
  exact ⟨rfl, rfl, id⟩
theorem unstirred_putFor {g r : Nat} {v : Word} (h : Unstirred u o s) : Unstirred u o (s.putFor g r v) :=
  unstirred_ite (h.congr rfl rfl) (unstirred_modThread h (Thread.settling_setReg _ _))
theorem unstirred_complete {g val val2 : Nat} {pred : Bool} (h : Unstirred u o s) : Unstirred u o (s.complete g val val2 pred) := by
  unfold State.complete
  split
  · exact h
  · refine unstirred_modThread (unstirred_putFor (unstirred_putFor h)) fun t => ?_
    dsimp only
    rw [Thread.setPred_eq]
    exact ⟨rfl, rfl, fun _ => rfl⟩
theorem unstirred_enter {die obj ok ek gid : Nat} (h : Unstirred u o s) : Unstirred u o (s.enter die obj ok ek gid).1 := by
  unfold State.enter
  split
  · exact h.congr rfl rfl
  · exact h.congr rfl rfl
theorem unstirred_wake {g objDie val val2 : Nat} {pred : Bool} (h : Unstirred u o s) : Unstirred u o (s.wake g objDie val val2 pred) := by
  have hunwait : Unstirred u o (s.unwait g) := h.congr rfl rfl
  refine unstirred_ite (unstirred_complete hunwait) ?_
  refine (unstirred_modThread (s := (s.unwait g).takeId.2) (hunwait.congr rfl rfl) (g := g) (f := fun t => { t with
    stat := .running, wait := t.wait.map fun w => { w with why := .reply (s.unwait g).takeId.1 } }) fun t => ⟨rfl, rfl, fun h => ?_⟩).congr rfl rfl
  exact congrArg (Option.map _) h
theorem unstirred_passHold {w : Nat} (h : Unstirred u o s) : Unstirred u o (s.passHold w) := by
  unfold State.passHold
  dsimp only
  split
  · exact h.congr rfl rfl
  · next x _ =>
    have hhold : Unstirred u o (State.hold { { s with rsvs := s.rsvs.filter fun x => !(x.word == w && x.hold) } with
        rsvs := (s.rsvs.filter fun x => !(x.word == w && x.hold)).map fun y => if y == x then { y with hold := true } else y }
        (((homeQuad w).map qkDie).getD 0) w okRsv 1 x.gid) := unstirred_enter (h.congr rfl rfl)
    split
    · exact unstirred_ite (unstirred_wake hhold) hhold
    · exact hhold
theorem unstirred_abandon {uid g : Nat} (h : Unstirred u o s) : Unstirred u o (s.abandon uid g) :=
  unstirred_foldl (h.congr rfl rfl) fun _ _ h => unstirred_ite (unstirred_passHold (h.congr rfl rfl)) h
theorem unstirred_releaseHolds {g : Nat} (h : Unstirred u o s) : Unstirred u o (s.releaseHolds g) :=
  unstirred_foldl (h.congr rfl rfl) fun _ _ h => unstirred_ite h (unstirred_foldl h fun _ _ h => unstirred_wake h)
theorem unstirred_iqUnbind {uid : Nat} (h : Unstirred u o s) : Unstirred u o (s.iqUnbind uid) := by
  obtain ⟨hg, hd, hs⟩ := h
  refine ⟨hg, ?_, hs⟩
  rw [← hd]
  refine (List.map_map ..).trans (List.map_congr_left fun q _ => ?_)
  dsimp only [Function.comp]
  split <;> rfl
theorem unstirred_completeBar {b : NetBar} (h : Unstirred u o s) : Unstirred u o (s.completeBar b) := by
  unfold State.completeBar
  split
  · exact unstirred_foldl (h.congr rfl rfl) fun _ _ h => unstirred_wake h
  · exact h.congr rfl rfl
theorem unstirred_barSettle {dom : Nat} (h : Unstirred u o s) : Unstirred u o (s.barSettle dom) :=
  unstirred_foldl h fun _ _ h => unstirred_ite (unstirred_completeBar h) h
/-- Without a thread that joins it the child's end takes edges alone. -/
theorem State.joinStir_of_still (h : ∀ x ∈ s.threads, x.children.contains u = true → x.wait = none) (n : Nat) :
    ∃ es, s.joinStir u (n + 1) = { s with edges := es } := by
  rw [State.joinStir]
  dsimp only
  split
  · split
    · exact ⟨_, rfl⟩
    · exact ⟨s.edges, rfl⟩
  · next p hp =>
    have hmem : p ∈ s.threads := by
      have := List.mem_of_find?_eq_some hp
      revert this
      split <;> exact id
    have hfound := List.find?_some hp
    rw [Bool.and_eq_true] at hfound
    obtain ⟨hchild, hwait⟩ := hfound
    rw [h p hmem hchild] at hwait
    exact absurd hwait (by simp)
end

section
variable {s t : State} {m : Thread}

/-- The threads that are listed, by identifier. -/
theorem State.thread?_isSome_iff {g : Nat} : (s.thread? g).isSome = true ↔ g ∈ s.threads.map (·.gid) := by
  simp [State.thread?]

/-! ### Pausing and halting outside a gang -/

/-- A thread whose reaction has ended. -/
def Thread.restingAt (t : Thread) (clock pc : Nat) : Thread :=
  { t with stat := .paused, wait := none, wdRun := false, wdStart := clock - t.wdStart, pc := wd pc }
theorem Thread.liveSigs_of_nil (h : m.claims = []) : m.liveSigs = [] := by rw [Thread.liveSigs, h]; rfl
theorem State.wholeGang_of_none {g : Nat} (h : s.gangOf g = []) : s.wholeGang g = [g] := by rw [State.wholeGang, h]; rfl
theorem State.pauseCore_of (hm : s.thread? m.gid = some m) (hclaims : m.claims = []) (pc : Nat) :
    s.pauseCore m.gid pc = s.modThread m.gid (·.restingAt s.clock pc) := by
  rw [State.pauseCore, State.thread_of hm, Thread.liveSigs_of_nil hclaims]
  rfl
/-- What the end of its reaction leaves of a thread that nothing else waits for. -/
theorem State.pauseThread_of (hm : s.thread? s.iss.gid = some m) (hclaims : m.claims = []) (hun : s.unwatched m) (pc : Nat) :
    OnlyThread { s with edges := (s.pauseThread s.iss.gid pc).edges } (s.pauseThread s.iss.gid pc) s.iss.gid (m.restingAt s.clock pc) := by
  obtain ⟨-, hiqs, hjoin⟩ := hun
  have hgid := s.thread?_gid _ m hm
  have hstill : ∀ x ∈ (s.modMe (·.restingAt s.clock pc)).threads, x.children.contains m.uid = true → x.wait = none := by
    intro x hx hc
    obtain ⟨y, hy, rfl⟩ := List.mem_map.1 hx
    by_cases h : (y.gid == s.iss.gid) = true
    · rw [if_pos h]
      rfl
    · rw [if_neg h] at hc ⊢
      exact hjoin y hy hc
  obtain ⟨es, hes⟩ := State.joinStir_of_still hstill s.threads.length
  have hpause : s.pauseThread s.iss.gid pc = { s.modMe (·.restingAt s.clock pc) with edges := es } := by
    have hcore := State.pauseCore_of (hgid ▸ hm) hclaims pc
    rw [hgid] at hcore
    have hsettle : (s.modThread s.iss.gid (·.restingAt s.clock pc)).iqSettle m.dom = _ := State.iqSettle_of_none hiqs
    rw [State.pauseThread, State.thread_of hm, hcore]
    dsimp only
    rw [hsettle]
    exact hes
  rw [hpause]
  exact OnlyThread.modMe (s := { s with edges := es }) hm (·.restingAt s.clock pc) fun _ => rfl
theorem State.unowned_of (howns : s.ownsEntries = false) (f : State → Out) : s.unowned [s.iss.gid] f = f s := by
  have hmine : (s.entriesOf (s.thread s.iss.gid)).isEmpty = true := by simpa [State.ownsEntries, State.me] using howns
  rw [State.unowned, howns]
  simp [hmine]
theorem State.cedeSome_of (hm : s.thread? s.iss.gid = some m) (hclaims : m.claims = []) :
    s.cedeSome [s.iss.gid] = s ∧ s.cedesLeft [s.iss.gid] = false := by
  have hlive := Thread.liveSigs_of_nil hclaims
  rw [State.cedeSome, State.cedesLeft]
  simp [State.thread_of hm, hlive]
theorem State.retire_of (hm : s.thread? s.iss.gid = some m) (htask : m.task = false) (hpost : m.postDue = 0) (k : State → Out) :
    s.retire k = k s := by
  rw [State.retire, State.trigger, s.me_of m hm]
  simp [htask, hpost]
/-- A thread that nothing else waits for has left its core; every other thread is still listed. -/
theorem State.endThread_of {g : Nat} (hm : s.thread? g = some m) (hwait : m.wait = none) (hgang : s.gangOf g = [])
    (hiqs : ∀ q ∈ s.iqs, q.dom ≠ m.dom) (hjoin : ∀ x ∈ s.threads, x.children.contains m.uid = true → x.wait = none) :
    (s.endThread g).threads.map (·.gid) = (s.threads.map (·.gid)).filter (· != g) := by
  fun_cases State.endThread s g with
  | case1 h => exact absurd (h.symm.trans hm) nofun
  | case2 t ht s1 s2 c s3 s4 =>
    cases ht.symm.trans hm
    have hwithdraw : s.withdraw g = s.unwait g := by
      rw [State.withdraw, State.thread_of hm, hwait]
    have h0 : Unstirred m.uid s ((s.withdraw g).dissolve g) := by
      rw [hwithdraw, State.dissolve, show (s.unwait g).gangOf g = [] from hgang]
      exact ⟨rfl, rfl, hjoin⟩
    have h2 : Unstirred m.uid s s2 := unstirred_iqUnbind (unstirred_releaseHolds (unstirred_abandon h0))
    have h3 : Unstirred m.uid s s3 := h2.congr rfl rfl
    clear_value s3
    obtain ⟨hgids, hdoms, hstill⟩ := h3
    have hiqs4 : ∀ q ∈ s4.iqs, q.dom ≠ m.dom := by
      intro q hq hdom
      have : m.dom ∈ s.iqs.map (·.dom) := hdoms ▸ hdom ▸ List.mem_map_of_mem hq
      obtain ⟨y, hy, hyd⟩ := List.mem_map.1 this
      exact hiqs y hy hyd
    have h4 : Unstirred m.uid s4 s4 := ⟨rfl, rfl, fun x hx => hstill x (List.mem_filter.1 hx).1⟩
    have hgids4 : s4.threads.map (·.gid) = (s.threads.map (·.gid)).filter (· != g) := by
      rw [← hgids, List.filter_map]
      rfl
    obtain ⟨hgids5, -, hstill5⟩ := unstirred_barSettle (dom := m.dom) h4
    obtain ⟨es, hes⟩ := State.joinStir_of_still hstill5 s4.threads.length
    rw [State.iqSettle_of_none hiqs4, hes, ← hgids4]
    exact hgids5
/-- Who is still listed after a thread that nothing else waits for has halted. -/
theorem State.haltThread_of (hm : s.thread? s.iss.gid = some m) (hwait : m.wait = none) (hgang : s.gangOf s.iss.gid = []) (hclaims : m.claims = [])
    (hun : s.unwatched m) : (s.haltThread s.iss.gid).thread? s.iss.gid = none ∧
      ∀ h, h ≠ s.iss.gid → ((s.haltThread s.iss.gid).thread? h).isSome = (s.thread? h).isSome := by
  obtain ⟨-, hiqs, hjoin⟩ := hun
  have hhalt : s.haltThread s.iss.gid = (s.noteEnd m).endThread s.iss.gid := by
    rw [State.haltThread, State.thread_of hm, Thread.liveSigs_of_nil hclaims]
    dsimp only [List.foldl_nil]
    rw [hm]
  have hgids : (s.haltThread s.iss.gid).threads.map (·.gid) = (s.threads.map (·.gid)).filter (· != s.iss.gid) := by
    rw [hhalt]
    exact State.endThread_of (s := s.noteEnd m) hm hwait hgang hiqs hjoin
  have hlisted (h : Nat) : ((s.haltThread s.iss.gid).thread? h).isSome = true ↔ (s.thread? h).isSome = true ∧ h ≠ s.iss.gid := by
    rw [State.thread?_isSome_iff, State.thread?_isSome_iff, hgids, List.mem_filter]
    simp
  refine ⟨?_, fun h hne => ?_⟩
  · rw [← Option.not_isSome_iff_eq_none, hlisted]
    simp
  · rw [Bool.eq_iff_iff, hlisted]
    simp [hne]
end

/-! ### Gangs -/

section
variable {s t x : State} {m n : Thread}

/-- Only threads, cores, edges, identifiers and crossings have changed. -/
def State.Joined (s t : State) : Prop := ∃ ths cs es, t = { s with threads := ths, cores := cs, edges := es }
theorem State.Joined.trans {u : State} (hst : s.Joined t) (htu : t.Joined u) : s.Joined u := by
  obtain ⟨_, _, _, rfl⟩ := hst
  obtain ⟨ths, cs, es, rfl⟩ := htu
  exact ⟨ths, cs, es, rfl⟩
/-- `t` is `s` but for thread `g`, which is in rotation and waits for nothing, where it waited or was in rotation before. -/
structure State.Freed (s t : State) (g : Nat) (n : Thread) : Prop where
  joined : s.Joined t
  thread : ∃ n', t.thread? g = some n' ∧ n'.wait = none ∧ (n.wait ≠ none ∨ n.stat = .running → n'.stat = .running)
  other : ∀ h, h ≠ g → t.thread? h = s.thread? h
section
variable {g : Nat} (hn : s.thread? g = some n)
include hn
theorem State.putFor_thread (r : Nat) (v : Word) : ∃ n', (s.putFor g r v).thread? g = some n' ∧ n'.gid = g ∧ n'.wait = n.wait := by
  have hgid := s.thread?_gid g n hn
  rw [State.putFor]
  split
  · exact ⟨n, hn, hgid, rfl⟩
  · refine ⟨n.setReg r v, s.thread?_modThread_self g _ n hn fun t ht => (t.setReg_gid _ _).trans ht, ?_⟩
    rw [Thread.setReg_eq]
    exact ⟨hgid, rfl⟩
omit hn in
theorem State.putFor_other (r : Nat) (v : Word) : s.Joined (s.putFor g r v) ∧ ∀ h, h ≠ g → (s.putFor g r v).thread? h = s.thread? h := by
  rw [State.putFor]
  split
  · exact ⟨⟨_, _, _, rfl⟩, fun _ _ => rfl⟩
  · exact ⟨⟨_, _, _, rfl⟩, fun h hne => s.thread?_modThread_other g h _ (fun t ht => (t.setReg_gid _ _).trans ht) hne⟩
theorem State.complete_freed (val val2 : Nat) (p : Bool) : s.Freed (s.complete g val val2 p) g n := by
  rw [State.complete, State.thread_of hn]
  cases hwait : n.wait with
  | none => exact ⟨⟨_, _, _, rfl⟩, ⟨n, hn, hwait, fun h => h.resolve_left (by simp [hwait])⟩, fun _ _ => rfl⟩
  | some w =>
    dsimp only
    obtain ⟨n1, h1, -, -⟩ := s.putFor_thread hn w.fin.d (extN w.fin.width w.fin.sext val)
    obtain ⟨j1, o1⟩ := s.putFor_other (g := g) w.fin.d (extN w.fin.width w.fin.sext val)
    generalize s.putFor g w.fin.d (extN w.fin.width w.fin.sext val) = s1 at h1 j1 o1 ⊢
    obtain ⟨n2, h2, -, -⟩ := s1.putFor_thread h1 w.fin.d2 (wd val2)
    obtain ⟨j2, o2⟩ := s1.putFor_other (g := g) w.fin.d2 (wd val2)
    generalize s1.putFor g w.fin.d2 (wd val2) = s2 at h2 j2 o2 ⊢
    let f : Thread → Thread := fun t => { t.setPred w.fin.pd p with wait := none, stat := .running, pc := wd w.fin.succ }
    have hf (t : Thread) : (f t).gid = t.gid := t.setPred_gid _ _
    obtain ⟨heq, hself, hother⟩ := OnlyThread.modThread h2 f hf
    exact ⟨(j1.trans j2).trans ⟨_, _, _, heq⟩, ⟨f n2, hself, rfl, fun _ => rfl⟩, fun h hne => ((hother h hne).trans (o2 h hne)).trans (o1 h hne)⟩
end

/-- A quad whose gang a thread leads. -/
def Quad.led (q : Quad) (g : Nat) : Quad := { q with gang := some { leader := g, slot := g % 16, todo := [] } }
theorem State.quad_setQuad_of_key {q : Quad} {k : Nat} (h : q.key = k) : (s.setQuad q).quad k = q := h ▸ s.quad_setQuad q
theorem State.quad_congr (h : t.quads = s.quads) (k : Nat) : t.quad k = s.quad k := by rw [State.quad, State.quad, h]
theorem OnlyThread.quads {g : Nat} (h : OnlyThread s t g m) : t.quads = s.quads := by
  obtain ⟨h, -, -⟩ := h
  rw [h]
/-- A thread that joins a gang leaves its wait and goes on after the leader's instruction. -/
def State.joins (s : State) (g : Nat) : State := (s.wake g (gidDie g) 0 0 false).modThread g fun t => { t with pc := wd s.iss.succ }
theorem State.joins_freed {g : Nat} (hn : s.thread? g = some n) (hready : n.wait ≠ none ∨ n.stat = .running) :
    s.Joined (s.joins g) ∧ (∀ h, h ≠ g → (s.joins g).thread? h = s.thread? h) ∧
      ∃ n', (s.joins g).thread? g = some n' ∧ n'.stat = .running ∧ n'.wait = none ∧ n'.pc = wd s.iss.succ := by
  have hwake : s.wake g (gidDie g) 0 0 false = (s.unwait g).complete g 0 0 false := if_pos rfl
  obtain ⟨hjoined, ⟨n', hn', hwait, hstat⟩, hother⟩ := State.complete_freed (s := s.unwait g) hn 0 0 false
  obtain ⟨heq, hself, hother'⟩ := OnlyThread.modThread hn' (fun t => { t with pc := wd s.iss.succ }) fun _ => rfl
  rw [State.joins, hwake]
  exact ⟨(State.Joined.trans ⟨_, _, _, rfl⟩ hjoined).trans ⟨_, _, _, heq⟩, fun h hne => (hother' h hne).trans (hother h hne), _, hself,
    hstat hready, hwait, rfl⟩
/-- Threads that wait, or are in rotation already, join one after the other. -/
theorem State.foldl_joins (gs l : List Nat) (hgs : ∀ g ∈ l, g ∈ gs) (s : State)
    (hready : ∀ g ∈ gs, ∃ n, s.thread? g = some n ∧ (n.wait ≠ none ∨ n.stat = .running)) :
    s.Joined (l.foldl State.joins s) ∧ (∀ h, h ∉ l → (l.foldl State.joins s).thread? h = s.thread? h) ∧
      ∀ g ∈ l, ∃ n, (l.foldl State.joins s).thread? g = some n ∧ n.stat = .running ∧ n.wait = none ∧ n.pc = wd s.iss.succ := by
  induction l generalizing s with
  | nil => exact ⟨⟨_, _, _, rfl⟩, fun _ _ => rfl, nofun⟩
  | cons g l ih =>
    obtain ⟨n, hn, hfree⟩ := hready g (hgs g (by simp))
    obtain ⟨hjoined, hother, n', hn', hstat, hwait, hpc⟩ := State.joins_freed hn hfree
    have hready' : ∀ h ∈ gs, ∃ n, (s.joins g).thread? h = some n ∧ (n.wait ≠ none ∨ n.stat = .running) := by
      intro h hh
      by_cases heq : h = g
      · exact ⟨n', heq ▸ hn', .inr hstat⟩
      · rw [hother h heq]
        exact hready h hh
    have hiss : (s.joins g).iss = s.iss := by
      obtain ⟨_, _, _, heq⟩ := hjoined
      rw [heq]
    obtain ⟨hjoins, houts, hins⟩ := ih (fun h hh => hgs h (by simp [hh])) (s.joins g) hready'
    rw [hiss] at hins
    refine ⟨hjoined.trans hjoins, fun h hh => ?_, fun h hh => ?_⟩
    · rw [List.mem_cons, not_or] at hh
      exact (houts h hh.2).trans (hother h hh.1)
    · by_cases hl : h ∈ l
      · exact hins h hl
      · have heq : h = g := (List.mem_cons.1 hh).resolve_right hl
        subst heq
        exact ⟨n', (houts h hl).trans hn', hstat, hwait, hpc⟩

end
end Sys2Proof.Machine
open Sys2Proof.Machine

theorem pauseAndHalt : Clause.PauseAndHalt := by
  intro s m hi hslot howns hgang hclaims hwait htask hpost hun
  have hm := hi.1
  obtain ⟨hcede, hleft⟩ := State.cedeSome_of hm hclaims
  refine ⟨⟨s.pauseThread s.iss.gid s.iss.succ, ?_, State.pauseThread_of hm hclaims hun s.iss.succ⟩, s.haltThread s.iss.gid, ?_,
    State.haltThread_of hm hwait hgang hclaims hun⟩
  · show execPause s = _
    rw [execPause, State.user_eq hslot, State.wholeGang_of_none hgang, State.unowned_of howns]
    simp [hcede, hleft]
  · show execHalt s = _
    rw [execHalt, State.user_eq hslot, State.wholeGang_of_none hgang, State.unowned_of howns]
    simp only [hcede, hleft, Bool.false_eq_true, if_false]
    rw [State.retireAll, State.retire_of (s := { s with iss := { s.iss with gid := s.iss.gid } }) hm htask hpost]
    rfl

theorem gangResults : Clause.GangResults := by
  intro s m d hi hslot q others
  have hm := hi.1
  have user := State.user_eq hslot
  have gangOn : exec (.gangOn d) s = if q.gang.isSome then s.res d 2 else if others.all s.awaitsGang then
      (others.foldl State.joins (s.setQuad (q.led s.iss.gid))).res d 0
      else s.res d 1 := by
    show execGangOn d s = _
    rw [execGangOn, user]
    rfl
  refine ⟨fun hgang hwait hhold => ⟨_, ?_, State.parkMe_parkedOn hm hwait hhold _⟩, fun hgang => State.puts_of_res hi ?_,
    fun hgang hall => State.puts_of_res hi ?_, fun hgang hall => ?_, fun hgang => ?_⟩
  · show execGangWait s = _
    rw [execGangWait, user, hgang]
    rfl
  · rw [gangOn, if_pos (Option.isSome_iff_ne_none.2 hgang)]
  · rw [gangOn, hgang, hall]
    rfl
  · have hawait : ∀ g ∈ others, ∃ n, s.thread? g = some n ∧ (n.wait ≠ none ∨ n.stat = .running) := by
      intro g hg
      have h := List.all_eq_true.1 hall g hg
      rw [State.awaitsGang] at h
      cases hn : s.thread? g with
      | none => simp [hn] at h
      | some n =>
        refine ⟨n, rfl, .inl fun hwait => ?_⟩
        simp [hn, hwait] at h
    obtain ⟨⟨ths, cs, es, hx⟩, hout, hin⟩ := State.foldl_joins others others (fun _ h => h)
      (s.setQuad (q.led s.iss.gid)) hawait
    generalize others.foldl State.joins _ = x at gangOn hx hout hin
    have hiss : x.iss = s.iss := by rw [hx]; rfl
    have hquads : x.quads = (s.setQuad (q.led s.iss.gid)).quads := by rw [hx]
    have hquad : x.quad (gidQk s.iss.gid) = q.led s.iss.gid :=
      (State.quad_congr hquads _).trans (State.quad_setQuad_of_key (s.quad_key _))
    have hxm : x.thread? x.iss.gid = some m := by
      rw [hiss, hout _ (by simp [others])]
      exact hm
    have hix : x.issues m := ⟨hxm, hiss ▸ hi.2⟩
    obtain ⟨t, ht, n, hn, honly⟩ := State.res_wrote hix d 0
    cases hn.symm.trans hxm
    have htquad := (State.quad_congr honly.quads (gidQk s.iss.gid)).trans hquad
    obtain ⟨-, hself, hother⟩ := honly
    rw [hiss] at hself hother
    refine ⟨t, ?_, by rw [htquad]; rfl, hself, fun g hg => ?_⟩
    · rw [gangOn, hgang, hall]
      exact ht
    · rw [hother g (by rintro rfl; simp [others] at hg)]
      exact hin g hg
  · have hexec : exec .gangOff s = s.ok := by
      show execGangOff s = _
      rw [execGangOff, user, hgang]
      rfl
    rw [hexec]
    exact State.ok_wentOn hi

/-- Settles O13: with nobody joining it the end of a thread wakes others and moves none; the members of a gang leave their waits one by one. -/
theorem reactionEnds : Obligations.ReactionEnds := ⟨pauseAndHalt, gangResults⟩
end

section
/-!
SUPPORT. Forking a thread, joining the children, and triggers (02 R46; 05 R95, R97).
-/
open Sys2Proof
namespace Sys2Proof.Machine

section
variable {s t x : State} {m n : Thread}

/-! ### A new thread -/

theorem find?_insertBy {α : Type} (key : α → Nat) (a : α) {l : List α} (h : ∀ x ∈ l, key x ≠ key a) (k : Nat) :
    (insertBy key a l).find? (fun x => key x == k) = if k = key a then some a else l.find? fun x => key x == k := by
  induction l with
  | nil => by_cases hk : k = key a <;> simp [insertBy, hk, Ne.symm]
  | cons x xs ih =>
    have hx : key x ≠ key a := h x (by simp)
    have ih := ih fun y hy => h y (by simp [hy])
    rw [insertBy]
    split
    · by_cases hk : k = key a <;> simp [List.find?_cons, hk, Ne.symm]
    · rw [List.find?_cons, ih, List.find?_cons]
      have hx' : (key x == key a) = false := beq_false_of_ne hx
      by_cases hk : k = key a
      · simp [hk, hx']
      · simp [hk]
theorem State.thread?_addThread (s : State) (c : Thread) (h : Nat) :
    (s.addThread c).thread? h = if h = c.gid then some c else s.thread? h := by
  rw [State.thread?, State.addThread]
  dsimp only
  rw [find?_insertBy Thread.gid c (fun x hx => by simpa using (List.mem_filter.1 hx).2)]
  split
  · rfl
  · next hne =>
    rw [State.thread?, List.find?_filter]
    congr 1
    funext y
    by_cases hy : y.gid = h
    · simp [hy, hne]
    · simp [hy]
/-- The thread that is created for slot `g`, before its creator gives it anything. -/
def State.newborn (s : State) (g : Nat) (d : Domain) : Thread :=
  { Thread.fresh g s.nextUid d.num with
    asid := d.asid, wdlim := d.wdlim, wdlimMax := d.wdlim, wdStart := s.clock, sqKey := Nat.xor d.seed g, tidNo := d.tidCtr,
    args := d.largs, launchArgs := d.largs }
theorem State.thread?_create (s : State) {g : Nat} (d : Domain) {f : Thread → Thread} (hf : ∀ t, (f t).gid = t.gid) (h : Nat) :
    (s.create g d f).thread? h = if h = g then some (f (s.newborn g d)) else s.thread? h := by
  have hgid : (f (s.newborn g d)).gid = g := hf _
  have := s.thread?_addThread (f (s.newborn g d)) h
  rw [hgid] at this
  exact this
/-- What a fork gives the child beside what every new thread of the domain has. -/
def Thread.forkedBy (t m : Thread) (pc : Nat) : Thread :=
  { t with regs := m.regs, preds := m.preds, prioBase := m.prioBase, prioCeil := m.prioCeil, wdlim := m.wdlim, wdlimMax := m.wdlimMax,
           asid := m.asid, guards := m.guards.map (fun x => { x with own := false }), pc := wd pc }
/-- A thread with one more child. -/
def Thread.adopting (t : Thread) (uid : Nat) : Thread := { t with children := t.children ++ [uid] }
theorem Thread.setReg_adopting (t : Thread) (uid d : Nat) (v : Word) : (t.adopting uid).setReg d v = (t.setReg d v).adopting uid := by
  unfold Thread.setReg
  split <;> rfl

/-! ### Forks -/

section
variable {dom : Domain} {d : Reg} {slot : Fin 64} {imm : BitVec 32} (hi : s.issues m) (hslot : s.iss.gid % 16 ≠ 15) (hgang : s.inGang = false)
  (hok : s.tgtOk imm slot = true) (hmiss : s.targetMiss s.iss.gid (s.tgt imm slot) = none) (hdom : s.domain? m.dom = some dom)
include hi hslot hgang hok hmiss hdom
theorem exec_fork : exec (.fork d slot imm) s = if 64 ≤ m.children.length then s.res d 2 else
    match s.forkSlot dom with
    | none => s.res d 1
    | some g => ((s.create g dom (·.forkedBy m (s.tgt imm slot))).modMe (·.adopting s.nextUid)).res d 0 := by
  show execFork d slot imm s = _
  rw [execFork, State.user_eq hslot, hgang, if_neg Bool.false_ne_true, State.toTarget_of_ok hok hmiss, hi.me, hi.myDom, hdom]
  rfl
end
end
end Sys2Proof.Machine
open Sys2Proof.Machine

theorem forkResults : Clause.ForkResults := by
  intro s m dom d slot imm hi hslot hgang hok hmiss hdom
  have hfork := exec_fork (d := d) hi hslot hgang hok hmiss hdom
  obtain ⟨hm, hj, hq, -⟩ := id hi
  refine ⟨fun hlen => State.puts_of_res hi ?_, fun hlen hnone => State.puts_of_res hi ?_, fun g hlen hsome hg => ?_⟩
  · rw [hfork, if_pos hlen]
  · rw [hfork, if_neg (Nat.not_le.2 hlen), hnone]
  · rw [if_neg (Nat.not_le.2 hlen), hsome] at hfork
    let y := s.create g dom (·.forkedBy m (s.tgt imm slot))
    have hthreads := s.thread?_create (g := g) dom (f := (·.forkedBy m (s.tgt imm slot))) fun _ => rfl
    have hym : y.thread? s.iss.gid = some m := (hthreads _).trans ((if_neg (Ne.symm hg)).trans hm)
    obtain ⟨t, ht, heq, hself, hother⟩ := (OnlyThread.modMe (s := y) hym (·.adopting s.nextUid) fun _ => rfl).res hj hq d 0
    rw [Thread.setReg_adopting] at hself
    have hchildren : (m.setReg d.val 0).children = m.children := by rw [Thread.setReg_eq]
    refine ⟨t, (s.newborn g dom).forkedBy m (s.tgt imm slot), hfork.trans ht, by rw [← hchildren]; exact hself, ?_, fun h hne hne' => ?_, rfl, rfl, rfl, rfl, rfl, rfl, rfl, rfl, rfl, rfl, rfl, rfl, rfl, rfl, rfl,
      rfl, rfl, rfl, ?_, ?_⟩
    · exact (hother g hg).trans ((hthreads g).trans (if_pos rfl))
    · exact (hother h hne).trans ((hthreads h).trans (if_neg hne'))
    · rw [heq]
      rfl
    · rw [heq]
      rfl

theorem joinAndTrig : Clause.JoinAndTrig := by
  intro s m sc hi hslot
  have hm := hi.1
  have user := State.user_eq hslot
  have join : exec .join s = execJoin s := rfl
  rw [execJoin, user, hi.me] at join
  dsimp only at join
  have trig (hsc : s.okScope sc.val = true) (hdue : s.storesDue sc.val = false) : exec (.trig sc) s = s.trigger fun s => s.ok := by
    show execTrig sc s = _
    rw [execTrig, State.scoped_of_ok hsc, user, hdue]
    rfl
  refine ⟨fun hnil => State.turns_of_ok hi (fun t => { t with children := [] }) (fun _ => rfl) ?_, fun hne hall hclaims hgang hwait hun => ?_,
    fun hsc hdue hpost htask => ?_, fun hsc hdue hpost htask htrig hdep =>
      State.turns_of_ok hi (fun t => { t with triggered := true }) (fun _ => rfl) ?_, fun hsc => ?_⟩
  · rw [join, hnil]
    rfl
  · obtain ⟨hcede, hleft⟩ := State.cedeSome_of hm hclaims
    have hpause : s.pauseJoin s.iss.gid s.iss.pc = (s.unwait s.iss.gid).pauseCore s.iss.gid s.iss.pc := by
      rw [State.pauseJoin, State.wholeGang_of_none hgang]
      simp
    refine ⟨(s.unwait s.iss.gid).pauseThread s.iss.gid s.iss.pc, ?_, State.pauseThread_of (s := s.unwait s.iss.gid) hm hclaims hun s.iss.pc⟩
    rw [join, if_neg (by simpa using hne), if_pos hall, State.wholeGang_of_none hgang, hcede, if_neg (by simp [hleft]), hpause, hi.myDom, hi.me,
      State.pauseThread, show (s.unwait s.iss.gid).thread s.iss.gid = m from State.thread_of hm]
    rfl
  · have hgo : s.trigger (fun s => s.ok) = s.ok := by
      rw [State.trigger, hi.me]
      rcases htask with h | h <;> simp [hpost, h]
    rw [trig hsc hdue, hgo]
    exact State.ok_wentOn hi
  · rw [trig hsc hdue, State.trigger, hi.me]
    simp [hpost, htask, htrig, hdep]
  · show execTrig sc s = _
    rw [execTrig, State.scoped_of_not hsc]

/-- Settles O14: the child is listed beside the parent, which then counts it; a `join` whose children rest is a pause at itself. -/
theorem forkAndJoin : Obligations.ForkAndJoin := ⟨forkResults, joinAndTrig⟩
end

section
/-!
SUPPORT. What a thread asks of a home, and what it posts (02 R24; 08 R144; 09 R155 to R170).
-/
open Sys2Proof
namespace Sys2Proof.Machine

section
variable {s t u : State} {m n : Thread} {r : Req}

/-! ### What the checks of an access leave -/

theorem State.Looked.trans (h : s.Looked t) (k : t.Looked u) : s.Looked u :=
  ⟨k.threads.trans h.threads, k.iss.trans h.iss, k.cores.trans h.cores, fun q => (k.gang q).trans (h.gang q)⟩
theorem State.Looked.of_eq {α : Type} {p : α × State} {a : α} (h : s.Looked p.2) (e : p = (a, t)) : s.Looked t := by
  subst e
  exact h
theorem State.looked_pages (w : Who) (q sel : Nat) : ∀ (fuel va len : Nat) (acc : List (Nat × Nat)) (perm : Nat) (s : State),
    s.Looked (s.pages? w q sel fuel va len acc perm).2
  | 0, _, _, _, _, s => State.Looked.refl s
  | fuel + 1, va, len, acc, perm, s => by
    have hlook := s.looked_lookupTlb q w.asid sel va
    rw [State.pages?]
    split
    · next heq => exact hlook.of_eq heq
    · next heq =>
      dsimp only
      split
      · exact hlook.of_eq heq
      · exact (hlook.of_eq heq).trans (State.looked_pages w q sel fuel _ _ _ _ _)
theorem State.looked_check (s : State) (w : Who) (need : Nat) (fe : Bool) (align addr len : Nat) :
    s.Looked (s.check w need fe align addr len).2 := by
  have pages := fun sel va => s.looked_pages w (gidQk w.gid) sel (len / 65536 + 2) va len [] 7
  fun_cases State.check s w need fe align addr len with
  | case9 => exact (pages _ _).of_eq ‹_›
  | case10 => exact (pages _ _).of_eq ‹_›
  | case11 => exact (pages _ _).of_eq ‹_›
  | _ => exact State.Looked.refl s
variable {need align ea len k : Nat} {fe : Bool}
theorem State.looked_access (h : s.access need fe align ea len = .key k u) : s.Looked u := by
  have hlook := s.looked_check s.who need fe align ea len
  rw [State.access] at h
  split at h
  · next heq =>
    cases h
    exact hlook.of_eq heq
  · cases h
  · cases h
  · cases h
theorem State.looked_bankAccess (h : s.bankAccess need align ea len = .key k u) : s.Looked u := by
  rw [State.bankAccess] at h
  split at h
  · cases h
  · exact State.looked_access h
theorem State.looked_cfgBank {b : Reg} (h : s.cfgBank b = .key k u) : s.Looked u := by
  rw [State.cfgBank] at h
  split at h
  · cases h
  · exact State.looked_access h
theorem State.Looked.issues (h : s.Looked u) (hi : s.issues m) : u.issues m := by
  rw [State.issues, h.iss, State.thread?, h.threads]
  exact hi
theorem State.Looked.doneTo (h : s.Looked u) (a b p w : Nat) (sx : Bool) : u.doneTo a b p w sx = s.doneTo a b p w sx := by
  rw [State.doneTo, State.doneTo, h.iss]
/-- An instruction that asks a home once its access is checked. -/
theorem State.Looked.asked (h : s.Looked u) (hi : s.issues m) {i : Instr} {op : ReqOp} {va sc a b p w : Nat} {rel acq sx : Bool}
    (he : exec i s = u.ask op k len va sc rel acq (u.doneTo a b p w sx)) :
    ∃ t, exec i s = .next t ∧ Asked u t m op k len va sc rel acq (s.doneTo a b p w sx) := by
  rw [he, h.doneTo]
  exact State.ask_asked (h.issues hi).1 op k len va sc rel acq _
/-- The same of one that posts. -/
theorem State.Looked.posted (h : s.Looked u) (hi : s.issues m) (hroom : u.bufferRoom 1 = true) {i : Instr} {op : ReqOp} {va sc : Nat} {rel : Bool}
    (he : exec i s = u.post op k len va sc rel) : ∃ t, exec i s = .next t ∧ PostedReq u t m op k len va sc rel := by
  rw [he]
  exact State.post_posted (h.issues hi) hroom op k len va sc rel

/-! ### The shared forms, of another home -/

theorem isOwn_of_ge {x : Nat} (h : 2 ^ 60 ≤ x) : isOwn x = false := by
  rw [isOwn, beq_eq_false_iff_ne]
  omega
/-- An access to another home, or behind earlier entries of the buffer, is not made at issue. -/
theorem State.not_at_issue (hown : 2 ^ 60 ≤ ea ∨ u.buffered = true) : (isOwn ea && !u.buffered) = false := by
  rcases hown with h | h
  · rw [isOwn_of_ge h, Bool.false_and]
  · rw [h, Bool.not_true, Bool.and_false]
theorem State.load_asks {d : Reg} {n sc : Nat} {sx acq : Bool} (h : s.access needR false n ea n = .key k u) (hown : 2 ^ 60 ≤ ea) :
    s.load d ea n sx acq sc = u.ask (.load n) k n ea sc false acq (u.doneTo d.val 0 0 n sx) := by
  rw [State.load, h]
  exact if_neg (by simp [isOwn_of_ge hown])
theorem State.feOp_asks {n data d : Nat} {want isLoad empties sx : Bool} {sc : Scope} (hsc : s.okScope sc.val = true)
    (h : s.access (if isLoad then needR else needW) true n ea n = .key k u) (hown : 2 ^ 60 ≤ ea) :
    s.feOp ea n want isLoad empties sx data d sc =
      u.ask (.fe want isLoad empties n data) k n ea sc.val (!isLoad) isLoad (u.doneTo d 0 0 n sx) := by
  rw [State.feOp, State.scoped_of_ok hsc, h]
  exact if_neg (by simp [isOwn_of_ge hown])
theorem State.atomic_asks {d : Reg} {n : Nat} {sx : Bool} {sc : Scope} {op : ReqOp} (hsc : s.okScope sc.val = true)
    (h : s.access needW false n ea n = .key k u) (hown : 2 ^ 60 ≤ ea) (hsel : keySel k ≠ 6) :
    s.atomic d ea n sx sc op = u.ask op k n ea sc.val true true (u.doneTo d.val 0 0 n sx) := by
  rw [State.atomic, State.scoped_of_ok hsc, h]
  exact (if_neg (by simp [isOwn_of_ge hown])).trans (if_neg (by simp [hsel]))
theorem State.store_posts {n sc : Nat} {bs : List Byte} {rel : Bool} (h : s.access needW false n ea bs.length = .key k u)
    (hown : 2 ^ 60 ≤ ea ∨ u.buffered = true) : s.store ea n bs rel sc = u.post (.store bs (2 ^ bs.length - 1)) k bs.length ea sc rel := by
  rw [State.store, h]
  exact if_neg (by simp [State.not_at_issue hown])
theorem State.fesetOp_posts {a : Reg} {imm : BitVec 32} {e : Bool} (hea : s.ea a imm = ea) (h : s.access needW true 8 ea 8 = .key k u)
    (hown : 2 ^ 60 ≤ ea ∨ u.buffered = true) : s.fesetOp a imm e = u.post (.feset e) k 8 ea 0 false := by
  rw [State.fesetOp, hea, h]
  exact if_neg (by simp [State.not_at_issue hown])

/-! ### Stored data -/

theorem State.stData_plain (hi : s.issues m) (b : Reg) (e : Fin 128) :
    s.stData b e = (m.reg b.val + BitVec.signExtend 64 (BitVec.ofNat 7 e.val)).toNat := by
  have hsigned : wdInt (signed 7 e.val) = BitVec.signExtend 64 (BitVec.ofNat 7 e.val) := by
    have := e.isLt
    rw [wdInt, signed, BitVec.signExtend, BitVec.toInt_eq_toNat_cond, BitVec.toNat_ofNat]
    congr 1
    by_cases h : 2 ^ (7 - 1) ≤ e.val % 2 ^ 7
    · rw [if_pos h, if_neg (by omega)]
      rfl
    · rw [if_neg h, if_pos (by omega)]
  rw [State.stData, State.g_plain hi.1 hi.2.2.1, hsigned]
theorem State.gN_plain (hi : s.issues m) (r : Nat) : s.gN r = m.reg r := by
  simp [State.gN, s.me_of m hi.1, Thread.mapped, hi.2.2.1]

/-! ### Several stores of one instruction -/

/-- One word of a store of several enters the store buffer. -/
def State.enterWord (s : State) (w : Nat × Nat × List Byte × Nat) : State :=
  (s.storeOne w.1 w.2.1 w.2.2.1 w.2.2.2 0 false false).modMe fun t => { t with entered := t.entered + 1 }
/-- A thread after `n` words of its store of several have entered the buffer. -/
def Thread.enteredMore (m : Thread) (n : Nat) : Thread := { m with seq := m.seq + n, entered := m.entered + n }
theorem State.partOf_congr (h : t.thread? s.iss.gid = some n) (hm : s.thread? s.iss.gid = some m) (hdom : n.dom = m.dom)
    (hds : t.domains = s.domains) (hqs : t.quads = s.quads) : t.partOf s.iss.gid = s.partOf s.iss.gid := by
  rw [State.partOf, State.partOf, State.thread_of h, State.thread_of hm, State.quad_congr hqs, State.domain?, State.domain?, hds, hdom]
theorem OnlyThread.myPart (h : OnlyThread s t s.iss.gid n) (hm : s.thread? s.iss.gid = some m) (hdom : n.dom = m.dom) :
    t.myPart = s.myPart := by
  have hds : t.domains = s.domains := by
    obtain ⟨ht, -, -⟩ := h
    rw [ht]
  rw [State.myPart, h.iss]
  exact State.partOf_congr h.thread? hm hdom hds h.quads
/-- What a request holds of its maker: the number, the thread, the core and the part. -/
theorem Made.of_maker {op : ReqOp} {va sc : Nat} {rel acq posted : Bool} (h : Made t n r op k len va sc rel acq posted)
    (hid : t.nextId = s.nextId) (hiss : t.iss = s.iss) (hpart : t.myPart = s.myPart) (hgid : n.gid = m.gid) (huid : n.uid = m.uid)
    (hseq : n.seq = m.seq) (hdom : n.dom = m.dom) : Made s m r op k len va sc rel acq posted := by
  rw [Made, hid, hiss, hpart, hgid, huid, hseq, hdom] at h
  exact h
/-- The state with some more requests made. -/
def State.withReqs (s : State) (rs : List Req) (n : Nat) : State := { s with reqs := s.reqs ++ rs, nextId := s.nextId + n }
theorem State.withReqs_withReqs (s : State) (rs rs' : List Req) (a b : Nat) :
    (s.withReqs rs a).withReqs rs' b = s.withReqs (rs ++ rs') (a + b) := by
  rw [State.withReqs, State.withReqs, State.withReqs, List.append_assoc, Nat.add_assoc]
theorem OnlyThread.withReqs {g : Nat} (h : OnlyThread s t g n) (rs : List Req) (a : Nat) :
    OnlyThread (s.withReqs rs a) (t.withReqs rs a) g n := by
  obtain ⟨ht, hn, hother⟩ := h
  refine ⟨?_, hn, hother⟩
  rw [ht]
  rfl
theorem State.enterWord_posts (hm : s.thread? s.iss.gid = some m) (w : Nat × Nat × List Byte × Nat) :
    ∃ r, Made s m r (.store w.2.2.1 w.2.2.2) w.1 w.2.2.1.length w.2.1 0 false false true ∧
      OnlyThread (s.withReqs [r] 1) (s.enterWord w) s.iss.gid (m.enteredMore 1) := by
  refine ⟨_, s.newReq_made hm _ _ _ _ _ _ _ _, ?_⟩
  show OnlyThread _ ((State.modThread _ s.iss.gid _).modThread s.iss.gid _) _ _
  rw [State.modThread_modThread _ _ (fun t => { t with seq := t.seq + 1 }) _ fun _ => rfl]
  exact OnlyThread.modThread (s := s.withReqs [_] 1) hm _ fun _ => rfl
/-- The words of a store of several enter the buffer in their order, each as one request. -/
theorem State.enterWords_posts : ∀ (ws : List (Nat × Nat × List Byte × Nat)) (s : State) (m : Thread), s.thread? s.iss.gid = some m →
    ∃ rs, rs.length = ws.length ∧
      OnlyThread (s.withReqs rs ws.length) (ws.foldl State.enterWord s) s.iss.gid
        (m.enteredMore ws.length) ∧
      ∀ j w, ws[j]? = some w → ∃ r, rs[j]? = some r ∧ Made { s with nextId := s.nextId + j } { m with seq := m.seq + j } r
        (.store w.2.2.1 w.2.2.2) w.1 w.2.2.1.length w.2.1 0 false false true
  | [], s, m, hm => ⟨[], rfl, ⟨by rw [State.withReqs, List.append_nil]; rfl, hm, fun _ _ => rfl⟩, fun _ _ h => by cases h⟩
  | w :: ws, s, m, hm => by
    obtain ⟨r, hr, hgo⟩ := State.enterWord_posts hm w
    have hiss : (s.enterWord w).iss = s.iss := hgo.iss
    have hpart : (s.enterWord w).myPart = s.myPart := OnlyThread.myPart (s := s.withReqs [r] 1) hgo hm rfl
    have hid : (s.enterWord w).nextId = s.nextId + 1 := by
      obtain ⟨ht, -, -⟩ := hgo
      rw [ht]
      rfl
    obtain ⟨rs, hlen, hend, hrs⟩ := State.enterWords_posts ws (s.enterWord w) _ (hiss ▸ hgo.thread?)
    refine ⟨r :: rs, congrArg (· + 1) hlen, ?_, fun j x hx => ?_⟩
    · have hboth := (hgo.withReqs rs ws.length).trans (hiss ▸ hend)
      have hmore : (m.enteredMore 1).enteredMore ws.length = m.enteredMore (ws.length + 1) := by
        rw [Thread.enteredMore, Thread.enteredMore, Thread.enteredMore, Nat.add_comm ws.length, Nat.add_assoc, Nat.add_assoc]
      rw [hmore, State.withReqs_withReqs, Nat.add_comm 1] at hboth
      exact hboth
    · cases j with
      | zero =>
        cases hx
        exact ⟨r, rfl, hr⟩
      | succ j =>
        obtain ⟨r', hr', hmade⟩ := hrs j x hx
        exact ⟨r', hr', hmade.of_maker (show (s.enterWord w).nextId + j = s.nextId + (j + 1) by rw [hid]; omega) hiss hpart rfl rfl
          (show m.seq + 1 + j = m.seq + (j + 1) by omega) rfl⟩
/-- With room for every word the instruction completes. -/
theorem State.enterWords_completes (hi : s.issues m) (h0 : m.entered = 0) (ws : List (Nat × Nat × List Byte × Nat))
    (hroom : s.bufferRoom ws.length = true) : s.enterWords ws = (ws.foldl State.enterWord s).ok := by
  have hfit : ws.length ≤ Config.storeBuffer - s.bufferUse s.myCore := by
    rw [State.bufferRoom, decide_eq_true_eq] at hroom
    omega
  rw [State.enterWords, s.me_of m hi.1, h0]
  dsimp only
  rw [List.drop_zero, List.take_of_length_le hfit, if_pos hfit]
  rfl
/-- A word that a store of several stores, and its mask bits. -/
def Thread.stmMask (m : Thread) (c : Reg) (i : Nat) : Nat := if c.val = 0 then 255 else (m.reg c.val).toNat / 2 ^ (8 * i) % 256
def Thread.stmWord (m : Thread) (b c : Reg) (segs : List (Nat × Nat)) (ea i : Nat) : Nat × Nat × List Byte × Nat :=
  (segKey segs (8 * i), ea + 8 * i, bytesOf 8 (m.reg (b.val + i)).toNat, m.stmMask c i)
theorem State.stmWords_eq (hi : s.issues m) (b c : Reg) (n : Nat) (segs : List (Nat × Nat)) (ea : Nat) :
    s.stmWords b c n segs ea = ((List.range n).filter fun i => m.stmMask c i != 0).map (m.stmWord b c segs ea) := by
  rw [State.stmWords, ← List.filterMap_eq_map, List.filterMap_filter]
  refine congrArg (List.filterMap · _) (funext fun i => ?_)
  rw [State.gv_plain hi, State.gN_plain hi]
  show (if m.stmMask c i = 0 then none else some (m.stmWord b c segs ea i)) = _
  by_cases h0 : m.stmMask c i = 0
  · rw [if_pos h0, if_neg (by simp [h0])]
  · rw [if_neg h0, if_pos (by simp [h0])]
    rfl
/-- Nothing of a thread is under way: its own view of memory is memory. -/
theorem State.seen_of_idle {uid : Nat} (h : s.pending uid = []) (k n : Nat) : s.seen uid k n = s.bytesAt k n := by
  rw [State.seen, h]
  rfl
theorem State.wordsDue_of_idle {uid : Nat} (h : s.pending uid = []) (k n : Nat) : s.wordsDue uid k n = false := by
  rw [State.wordsDue, h]
  rfl
end
end Sys2Proof.Machine
open Sys2Proof.Machine

theorem homeRequests : Clause.HomeRequests := by
  intro s u m d a b c p sc sx mw imm fn e k hi hsc ea x y n asks
  have hea := State.ea_plain hi a imm
  have hgv := State.gv_plain hi
  have hscoped := State.scoped_of_ok hsc
  refine ⟨fun hown h => ?_, fun h => ?_, fun hown h => ?_, fun hown h => ?_, fun hown h => ?_, fun hown h => ?_, fun hown hsel h => ?_,
    fun h => ?_, fun h => ?_, fun h => ?_, fun h => ?_, fun h => ?_, fun h => ?_, fun w ik hw h hbad hidle => ?_⟩
  · have hl := State.looked_access h
    refine ⟨hl.asked hi ?_, hl.asked hi ?_⟩
    · show execLd d a sx mw imm s = _
      rw [execLd, hea]
      exact State.load_asks h hown
    · show execLda d a sc sx mw imm s = _
      rw [execLda, hscoped, hea]
      exact State.load_asks h hown
  · have hl := State.looked_access h
    refine hl.asked hi ?_
    show execLdc d a c sx mw imm s = _
    rw [execLdc, hea]
    dsimp only
    rw [show s.access needR false (memBytes mw) _ (memBytes mw) = .key k u from h, ← State.gv_plain (hl.issues hi)]
    rfl
  · have hl := State.looked_access h
    refine ⟨hl.asked hi ?_, hl.asked hi ?_⟩
    · show execLdfe d a sc sx mw imm s = _
      rw [execLdfe, hea]
      exact State.feOp_asks hsc h hown
    · show execLdff d a sc sx mw imm s = _
      rw [execLdff, hea]
      exact State.feOp_asks hsc h hown
  · have hl := State.looked_access h
    refine ⟨hl.asked hi ?_, hl.asked hi ?_⟩
    · show execStef a b sc mw e imm s = _
      rw [execStef, hea, State.stData_plain hi]
      exact State.feOp_asks hsc h hown
    · show execStff a b sc mw e imm s = _
      rw [execStff, hea, State.stData_plain hi]
      exact State.feOp_asks hsc h hown
  · refine (State.looked_access h).asked hi ?_
    show execFeqry d a imm s = _
    rw [execFeqry, hea, h]
    exact if_neg (Bool.eq_false_iff.mp (isOwn_of_ge hown))
  · refine (State.looked_access h).asked hi ?_
    show execLdp d a imm s = _
    rw [execLdp, hea, h]
    exact if_neg (Bool.eq_false_iff.mp (isOwn_of_ge hown))
  · have hl := State.looked_access h
    refine ⟨hl.asked hi ?_, hl.asked hi ?_, hl.asked hi ?_, hl.asked hi ?_⟩
    · show execCas d a b c sc sx mw s = _
      rw [execCas, hgv, hgv, hgv]
      exact State.atomic_asks hsc h hown hsel
    · show execSwap d a b sc sx mw s = _
      rw [execSwap, hgv, hgv]
      exact State.atomic_asks hsc h hown hsel
    · show execFetchadd d a b sc sx mw s = _
      rw [execFetchadd, hgv, hgv]
      exact State.atomic_asks hsc h hown hsel
    · show execFetchaddImm d a b sc sx mw imm s = _
      rw [execFetchaddImm, hgv, State.g_plain hi.1 hi.2.2.1, sxImm_eq]
      exact State.atomic_asks hsc h hown hsel
  · have hl := State.looked_bankAccess h
    refine hl.asked hi ?_
    have hb : u.gv b = y := State.gv_plain (hl.issues hi) b
    show execUpdr d p a b fn imm s = _
    rw [execUpdr, hea, h, ← hb]
    rfl
  · refine (State.looked_bankAccess h).asked hi ?_
    show execLrw d p a sc sx mw s = _
    rw [execLrw, hscoped, hgv]
    exact congrArg (Acc.bind · _ _) h
  · have hl := State.looked_bankAccess h
    refine hl.asked hi ?_
    have hb : u.gv b = y := State.gv_plain (hl.issues hi) b
    show execSch p a b sc mw s = _
    rw [execSch, hscoped, hgv, ← hb]
    exact congrArg (Acc.bind · _ _) h
  · refine (State.looked_bankAccess h).asked hi ?_
    show execRsvx a s = _
    rw [execRsvx, hgv, h]
    rfl
  · have hl := State.looked_bankAccess h
    have hb : u.gv b = y := State.gv_plain (hl.issues hi) b
    refine ⟨hl.asked hi ?_, hl.asked hi ?_⟩
    · show execBarinit d a b e sc s = _
      rw [execBarinit, hscoped, hgv, h, ← hb]
      rfl
    · show execBarObject d a sc s = _
      rw [execBarObject, hscoped, hgv, h]
      rfl
  · have hl := State.looked_cfgBank h
    have hb : u.gv b = y := State.gv_plain (hl.issues hi) b
    refine ⟨hl.asked hi ?_, hl.asked hi ?_⟩
    · show execUpdcfgSt d b imm s = _
      rw [execUpdcfgSt, h, ← hb]
      rfl
    · show execUpdcfgClr d b imm s = _
      rw [execUpdcfgClr, h, ← hb]
      rfl
  · have hlw := State.looked_cfgBank hw
    have hl := hlw.trans (State.looked_access h)
    have hu := hl.issues hi
    refine hl.asked hi ?_
    show execUpdcfgLd d a b imm s = _
    have ha : w.gv a = x := State.gv_plain (hlw.issues hi) a
    have hb : u.gv b = y := State.gv_plain hu b
    rw [execUpdcfgLd, hw]
    dsimp only [Acc.bind]
    rw [ha, h]
    dsimp only [Acc.bind]
    rw [u.me_of m hu.1, State.wordsDue_of_idle hidle, hbad, State.seen_of_idle hidle, hb]
    rfl
theorem postedRequests : Clause.PostedRequests := by
  intro s u m a b sc mw imm fn e k hi hsc hroom ea n bs z posts hown
  have hea := State.ea_plain hi a imm
  have hlater : ¬(isOwn ea && !u.buffered) = true := Bool.eq_false_iff.mp (State.not_at_issue hown)
  refine ⟨fun h => ?_, fun hsel h => ?_, fun h => ?_, fun h => ?_, fun h => ?_⟩
  · have hl := State.looked_access h
    have hbs : bs.length = n := bytesOf_length _ _
    have hposts (rel : Bool) (sc : Nat) : s.store ea n bs rel sc = u.post (.store bs (2 ^ n - 1)) k n ea sc rel := by
      have h' : s.access needW false n ea bs.length = .key k u := by rw [hbs, h]
      have hp := State.store_posts (rel := rel) (sc := sc) h' hown
      rw [hbs] at hp
      exact hp
    refine ⟨hl.posted hi hroom ?_, hl.posted hi hroom ?_⟩
    · show execSt a b mw e imm s = _
      rw [execSt, hea, State.stData_plain hi]
      exact hposts false 0
    · show execStl a b sc mw e imm s = _
      rw [execStl, State.scoped_of_ok hsc, hea, State.stData_plain hi]
      exact hposts true sc.val
  · refine (State.looked_access h).posted hi hroom ?_
    show execStp a b imm s = _
    rw [execStp, hea, h, State.gv_plain hi, State.gN_plain hi]
    exact (if_pos hsel).trans (if_neg hlater)
  · refine (State.looked_access h).posted hi hroom ?_
    show execZfill a fn imm s = _
    rw [execZfill, hea, show s.access needW false _ _ _ = .key k u from h]
    exact if_neg hlater
  · have hl := State.looked_access h
    exact ⟨hl.posted hi hroom (State.fesetOp_posts hea h hown), hl.posted hi hroom (State.fesetOp_posts hea h hown)⟩
  · have hl := State.looked_bankAccess h
    refine hl.posted hi hroom ?_
    have hb : u.gv b = (m.reg b.val).toNat := State.gv_plain (hl.issues hi) b
    show execUpd a b fn imm s = _
    rw [execUpd, hea, h, ← hb]
    rfl

theorem storeMultiple : Clause.StoreMultiple := by
  intro s u m a b c op imm segs hi h0 _ _ ea mask is hcheck hown hroom
  have hl : s.Looked u := (State.looked_check s s.who needW false 8 ea (8 * op.val)).of_eq hcheck
  have hu := hl.issues hi
  have hws : u.stmWords b c op.val segs ea = is.map (m.stmWord b c segs ea) := State.stmWords_eq hu b c op.val segs ea
  have hlen : (u.stmWords b c op.val segs ea).length = is.length := by rw [hws, List.length_map]
  have hexec : exec (.stm a b c op imm) s = ((u.stmWords b c op.val segs ea).foldl State.enterWord u).ok := by
    rw [← State.enterWords_completes hu h0 _ (hlen ▸ hroom)]
    show execStm a b c op imm s = _
    rw [execStm, State.ea_plain hi, hcheck]
    exact if_neg (by rw [State.not_at_issue hown]; exact Bool.false_ne_true)
  obtain ⟨rs, hrs, hgo, hmade⟩ := State.enterWords_posts (u.stmWords b c op.val segs ea) u m hu.1
  rw [hlen] at hrs hgo
  obtain ⟨t, ht, hend⟩ := OnlyThread.ok (s := u.withReqs rs is.length) hgo hu.2.1
  refine ⟨t, rs, hexec.trans ht, hrs, ?_, fun j i hj => ?_⟩
  · have hadd : 0 + is.length = is.length := Nat.zero_add _
    rw [Thread.enteredMore, h0, hadd, show (u.withReqs rs is.length).iss = s.iss from hl.iss] at hend
    exact hend
  · obtain ⟨r, hr, hm⟩ := hmade j _ (by rw [hws, List.getElem?_map, hj]; rfl)
    refine ⟨r, hr, ?_⟩
    rw [Thread.stmWord, bytesOf_length] at hm
    exact hm

/-- Settles O18. An access to another home, or behind earlier entries of the buffer, makes one request with the operands as they
are read; a store of several words makes one for each, by induction on the words. -/
theorem requests : Obligations.Requests := ⟨homeRequests, postedRequests, storeMultiple⟩
end

section
/-!
SUPPORT. What a home does with loads, stores and atomics, and what the thread that waits does with the reply (07 R125, R126; 08 R142;
09 R155, R158, R159, R166; 12 R221).
-/
open Sys2Proof
namespace Sys2Proof.Machine

section
variable {s t u : State} {m n : Thread} {r : Req} {k len j : Nat}

/-! ### Sampling -/

/-- A sample changes no more than the monitors of a quad. -/
theorem State.sampled_eq (s : State) (q src v : Nat) : s.sampled q src v = { s with quads := (s.sampled q src v).quads } := by
  rw [State.sampled]
  split <;> rfl
theorem State.sliceSeen_eq (s : State) (r : Req) : s.sliceSeen r = { s with quads := (s.sliceSeen r).quads } := by
  rw [State.sliceSeen]
  split
  · exact s.sampled_eq _ _ _
  · rfl

/-! ### Ordinary words -/

/-- The words of an extent overlap it. -/
theorem overlaps_of_mem_wordsOf {w : Nat} (h : w ∈ wordsOf k len) : k < w + 8 ∧ w < k + len := by
  obtain ⟨i, hi, rfl⟩ := List.mem_map.1 h
  rw [List.mem_range] at hi
  omega
theorem State.plainAt_clear (h : s.plainAt k len) {w : Nat} (hw : k < w + 8 ∧ w < k + len) :
    w ∉ s.bad ∧ w ∉ s.soft ∧ w ∉ s.barWaits.map (·.word) := by
  obtain ⟨hlo, hhi⟩ := hw
  have hnot : ¬(w + 8 ≤ k ∨ k + len ≤ w) := by omega
  have hout (hc : w ∈ s.bad ∨ w ∈ s.soft ∨ w ∈ s.barWaits.map (·.word) ∨ w ∈ s.feWaits.map (·.word)) : False := by
    refine hnot ((h w hc).imp (fun h => ?_) fun h => ?_)
    all_goals split at h <;> omega
  exact ⟨fun hb => hout (.inl hb), fun hb => hout (.inr (.inl hb)), fun hb => hout (.inr (.inr (.inl hb)))⟩
theorem State.plainAt_word (h : s.plainAt k len) (hj : j ≤ len) {w : Nat} (hw : w ∈ wordsOf k j) :
    w ∉ s.bad ∧ w ∉ s.soft ∧ w ∉ s.barWaits.map (·.word) := by
  obtain ⟨hlo, hhi⟩ := overlaps_of_mem_wordsOf hw
  exact State.plainAt_clear h ⟨hlo, by omega⟩
theorem State.badIn_of_plain (h : s.plainAt k len) (hj : j ≤ len) : s.badIn k j = none := by
  refine List.find?_eq_none.2 fun w hw => ?_
  rw [List.contains_iff_mem]
  exact (State.plainAt_word h hj hw).1
theorem State.countSoft_of_plain (h : s.plainAt k len) (hj : j ≤ len) : s.countSoft k j = s := by
  have hnone : (wordsOf k j).filter (fun w => s.soft.contains w) = [] := by
    refine List.filter_eq_nil_iff.2 fun w hw => ?_
    rw [List.contains_iff_mem]
    exact (State.plainAt_word h hj hw).2.1
  rw [State.countSoft, hnone]
  split
  · exact if_pos rfl
  · rfl
/-- No word of the granules that a plain extent lies in is uncorrectable. -/
theorem State.partBad_of_plain (h : s.plainAt k len) (hj : j ≤ len) (mask : Nat) : s.partBad k j mask = none := by
  have hgood {w : Nat} (hw : w ∉ s.bad) (b : Bool) : ¬(s.bad.contains w && b) = true := by
    rw [Bool.and_eq_true, List.contains_iff_mem]
    exact fun hb => hw hb.1
  rw [State.partBad]
  dsimp only
  split
  · next hreg =>
    refine List.find?_eq_none.2 fun w hw => hgood (fun hb => ?_) _
    obtain ⟨hlo, hhi⟩ := overlaps_of_mem_wordsOf hw
    have hout := h w (.inl hb)
    rw [if_pos hreg] at hout
    omega
  · exact List.find?_eq_none.2 fun w hw => hgood (State.plainAt_word h hj hw).1 _
theorem State.homeWrite_of_plain (h : s.plainAt k len) {bs : List Byte} (hj : bs.length ≤ len) : s.homeWrite k bs = s.writeBytes k bs := by
  have hnone : (s.barWaits.map (·.word)).filter (fun w => (wordsOf k bs.length).contains w) = [] := by
    refine List.filter_eq_nil_iff.2 fun w hw => ?_
    rw [List.contains_iff_mem]
    exact fun hm => (State.plainAt_word h hj hm).2.2 hw
  rw [State.homeWrite, hnone]
  rfl
theorem State.guarded_of_plain (h : s.plainAt r.key len) (hj : j ≤ len) (f : State → State) : s.guarded r j f = f s := by
  rw [State.guarded, State.badIn_of_plain h hj]
  exact congrArg f (State.countSoft_of_plain h hj)
theorem State.guardedW_of_plain (h : s.plainAt r.key len) (hj : j ≤ len) (f : State → State) : s.guardedW r j f = f s := by
  rw [State.guardedW, State.guarded_of_plain h hj, State.partBad_of_plain h hj]
theorem State.plainAt_sliceSeen (h : s.plainAt k len) (r : Req) : (s.sliceSeen r).plainAt k len := by
  rw [s.sliceSeen_eq]
  exact h
theorem mem_sortBy {α : Type} (key : α → Nat) (l : List α) (x : α) : x ∈ sortBy key l ↔ x ∈ l := by
  have hinsert (a : α) (l : List α) : x ∈ sortBy.insertBefore key a l ↔ x = a ∨ x ∈ l := by
    induction l with
    | nil => simp [sortBy.insertBefore]
    | cons y ys ih =>
      rw [sortBy.insertBefore]
      split
      · rw [List.mem_cons]
      · rw [List.mem_cons, ih, List.mem_cons, or_left_comm]
  induction l with
  | nil => rfl
  | cons a l ih => exact (hinsert a _).trans (by rw [List.mem_cons]; exact or_congr_right ih)
/-- A thread without a plain store under way sees what stands at the home. -/
theorem State.atHome.seen (h : s.atHome r len) (k j : Nat) : (s.sliceSeen r).seen r.uid k j = s.bytesAt k j := by
  obtain ⟨-, -, -, -, hstores⟩ := h
  have hsee : (s.sliceSeen r).seen r.uid k j = s.seen r.uid k j := by
    rw [s.sliceSeen_eq]
    rfl
  rw [hsee, State.seen]
  refine List.foldlRecOn _ _ (motive := fun bs => bs = s.bytesAt k j) rfl fun bs hbs x hx => ?_
  have hmem := List.mem_filter.1 ((mem_sortBy _ _ _).1 hx)
  have hop := hstores x hmem.1 (beq_iff_eq.1 ((Bool.and_eq_true _ _).mp hmem.2).1)
  split
  · next heq => rw [heq] at hop; exact hop.elim
  · next heq => rw [heq] at hop; exact hop.elim
  · exact hbs

/-! ### Performing and answering -/

theorem State.admitReq_of_mayPerform (h : s.mayPerform r = true) : s.admitReq r = s := by
  have hbucket : r.bucket = false := by
    simp only [State.mayPerform, Bool.and_eq_true, Bool.not_eq_true'] at h
    exact h.1.1.2
  rw [State.admitReq, hbucket]
  rfl
/-- A request that may be performed at its home, and into which none is combined, is performed there. -/
theorem State.homeAccess_performs (hfind : s.reqs.find? (·.id == r.id) = some r) (hcomb : r.comb = []) (hmay : s.mayPerform r = true) :
    exec (.homeAccess r.id) s = .next ((s.sliceSeen r).perform r) := by
  show execHomeAccess r.id s = _
  simp only [execHomeAccess, hfind, State.admitReq_of_mayPerform hmay, hmay, if_true, State.performAll, hcomb, List.foldl_nil]
/-- A state with another memory and other marks of codewords. -/
def State.remembers (s : State) (μ : Memory) (bad soft : List Nat) : State := { s with mem := μ, bad := bad, soft := soft }
/-- An answer from a state that differs in memory and in marks. -/
theorem State.remembers_answered (s : State) (r : Req) (μ : Memory) (bad soft : List Nat) (x : Res) :
    Answered s (((s.sliceSeen r).remembers μ bad soft).answer r x) r μ x := by
  rw [Answered, s.sliceSeen_eq]
  simp only [State.answer, State.modReq, State.remembers, beq_iff_eq]
theorem State.sliceSeen_answered (s : State) (r : Req) (x : Res) : Answered s ((s.sliceSeen r).answer r x) r s.mem x := by
  rw [Answered, s.sliceSeen_eq]
  simp only [State.answer, State.modReq, beq_iff_eq]
theorem State.sliceSeen_of_ne (h : keySel r.key ≠ 4) : s.sliceSeen r = s := if_neg h
/-! ### Reading and writing in one step -/

theorem State.serveRmw_of (hsel : keySel r.key ≠ 6) : s.serveRmw r = (s.rmw r.op r.key).2.answer r (okRes (s.rmw r.op r.key).1 0 false) :=
  if_neg (by simp [hsel])
/-- An operation that writes: its new value stands there, and the old one is answered. -/
theorem State.serveRmw_writes (hsel : keySel r.key ≠ 6) (hp : s.plainAt r.key len) (hj : j ≤ len) (hn : (rmwNew r.op 0).1 = j) {v : Nat}
    (hnew : rmwNew r.op (s.readN r.key j) = (j, v, true)) :
    s.serveRmw r = (s.writeBytes r.key (bytesOf j v)).answer r (okRes (s.readN r.key j) 0 false) := by
  have hrmw : s.rmw r.op r.key = (s.readN r.key j, s.writeBytes r.key (bytesOf j v)) := by
    rw [State.rmw, hn]
    dsimp only
    rw [hnew, ← State.homeWrite_of_plain hp (show (bytesOf j v).length ≤ len by rw [bytesOf_length]; exact hj)]
    rfl
  rw [State.serveRmw_of hsel, hrmw]
/-- One that does not. -/
theorem State.serveRmw_keeps (hsel : keySel r.key ≠ 6) (hn : (rmwNew r.op 0).1 = j) {v : Nat}
    (hnew : rmwNew r.op (s.readN r.key j) = (j, v, false)) : s.serveRmw r = s.answer r (okRes (s.readN r.key j) 0 false) := by
  have hrmw : s.rmw r.op r.key = (s.readN r.key j, s) := by
    rw [State.rmw, hn]
    dsimp only
    rw [hnew]
    rfl
  rw [State.serveRmw_of hsel, hrmw]
theorem State.readN_sliceSeen (s : State) (r : Req) (k j : Nat) : (s.sliceSeen r).readN k j = s.mem.read k j := by
  rw [s.sliceSeen_eq]
  rfl
theorem State.sliceSeen_writeBytes (s : State) (r : Req) (k : Nat) (bs : List Byte) :
    ∃ bad soft, (s.sliceSeen r).writeBytes k bs = (s.sliceSeen r).remembers (s.mem.write k bs) bad soft :=
  ⟨_, _, by rw [s.sliceSeen_eq]; rfl⟩
theorem State.perform_rmw {c v : Nat} (hop : r.op = .cas j c v ∨ r.op = .swap j v ∨ r.op = .fadd j v) :
    s.perform r = if (rmwNew r.op (s.readN r.key j)).2.2 then s.guardedW r j (·.serveRmw r) else s.guarded r j (·.serveRmw r) := by
  rcases hop with hop | hop | hop
  all_goals
    rw [State.perform, hop]
theorem rmwNew_length {op : ReqOp} {c v : Nat} (hop : op = .cas j c v ∨ op = .swap j v ∨ op = .fadd j v) : (rmwNew op 0).1 = j := by
  rcases hop with rfl | rfl | rfl <;> rfl
theorem bytesOf_mod (n x : Nat) : bytesOf n (x % 2 ^ (8 * n)) = bytesOf n x := by
  induction n generalizing x with
  | zero => rfl
  | succ n ih =>
    have hlow : BitVec.ofNat 8 (x % 2 ^ (8 * (n + 1))) = BitVec.ofNat 8 x := by
      exact BitVec.eq_of_toNat_eq (by rw [BitVec.toNat_ofNat, BitVec.toNat_ofNat, Nat.mod_mod_of_dvd _ (pow_dvd_pow 2 (by omega))])
    have hhigh : x % 2 ^ (8 * (n + 1)) / 256 = x / 256 % 2 ^ (8 * n) := by
      rw [show 2 ^ (8 * (n + 1)) = 256 * 2 ^ (8 * n) by rw [Nat.mul_succ, Nat.pow_add, Nat.mul_comm], Nat.mod_mul_right_div_self]
    rw [bytesOf, bytesOf, hlow, hhigh, ih]
/-! ### Stores -/

theorem State.merged_length (s : State) (k : Nat) (bs : List Byte) (mask : Nat) : (s.merged k bs mask).length = bs.length := by
  rw [State.merged, List.length_map, List.length_range]
theorem State.merged_getD (s : State) {bs : List Byte} {i : Nat} (hi : i < bs.length) (mask : Nat) :
    (s.merged k bs mask).getD i 0 = if mask.testBit i = true then bs.getD i 0 else s.mem.byte (k + i) := by
  rw [State.merged, List.getD_eq_getElem?_getD, List.getElem?_map, List.getElem?_range hi, ← tbit_eq_testBit]
  rfl
/-- The unmasked bytes stand where they were stored. -/
theorem State.byte_merged (s : State) (hwf : s.mem.wf = true) (bs : List Byte) (mask a : Nat) :
    (s.mem.write k (s.merged k bs mask)).byte a =
      if k ≤ a ∧ a < k + bs.length ∧ mask.testBit (a - k) = true then bs.getD (a - k) 0 else s.mem.byte a := by
  rw [s.mem.byte_write hwf, State.merged_length]
  by_cases hin : k ≤ a ∧ a < k + bs.length
  · rw [if_pos hin, s.merged_getD (by omega), Nat.add_sub_cancel' hin.1]
    refine if_congr ?_ rfl rfl
    rw [← and_assoc, and_iff_right hin]
  · rw [if_neg hin, if_neg fun h => hin ⟨h.1, h.2.1⟩]

/-! ### Replies -/

/-- The thread `m`, whose wait is completed with two values and a predicate. -/
def Thread.answeredBy (m : Thread) (fin : Done) (val val2 : Nat) (p : Bool) : Thread :=
  { ((m.setReg fin.d (extN fin.width fin.sext val)).setReg fin.d2 (wd val2)).setPred fin.pd p with
    wait := none, stat := .running, pc := wd fin.succ }
variable {g : Nat}
theorem State.putFor_plain (hm : s.thread? g = some m) (hq : m.qmap = 0) (d : Nat) (v : Word) :
    OnlyThread s (s.putFor g d v) g (m.setReg d v) := by
  have hput : s.putFor g d v = s.modThread g (·.setReg d v) := by
    rw [State.putFor, State.thread_of hm]
    exact if_neg (by simp [Thread.mapped, hq])
  rw [hput]
  exact OnlyThread.modThread hm _ fun t => t.setReg_gid _ _
theorem State.complete_plain (hm : s.thread? g = some m) (hq : m.qmap = 0) {w : Wait} (hw : m.wait = some w) (val val2 : Nat) (p : Bool) :
    OnlyThread s (s.complete g val val2 p) g (m.answeredBy w.fin val val2 p) := by
  rw [State.complete, State.thread_of hm, hw]
  have hone := State.putFor_plain hm hq w.fin.d (extN w.fin.width w.fin.sext val)
  have htwo := State.putFor_plain hone.thread? (by rw [Thread.setReg_qmap]; exact hq) w.fin.d2 (wd val2)
  exact (hone.trans htwo).trans (OnlyThread.modThread htwo.thread? _ fun t => t.setPred_gid _ _)
/-- The word a reply's value becomes. -/
theorem extN_extended {sx : Bool} {v : Nat} (hv : v < 2 ^ (8 * j)) : extN j sx v = extended sx j v := by
  rw [extN, extended, signed, Nat.mod_eq_of_lt hv]
  cases sx
  · rw [if_neg Bool.false_ne_true, if_neg (fun h => Bool.false_ne_true h.1), wd, BitVec.ofInt_natCast]
  · rw [if_pos rfl]
    refine congrArg (BitVec.ofInt 64) (if_congr ?_ rfl rfl)
    rw [and_iff_right rfl]
/-- Registers of different numbers are written in either order. -/
theorem Thread.setReg_comm {a b : Nat} (h : a ≠ b) (m : Thread) (x y : Word) : (m.setReg a x).setReg b y = (m.setReg b y).setReg a x := by
  unfold Thread.setReg
  by_cases ha : a = 0
  · rw [if_pos ha, if_pos ha]
  · rw [if_neg ha, if_neg ha]
    by_cases hb : b = 0
    · rw [if_pos hb, if_pos hb]
    · rw [if_neg hb, if_neg hb]
      exact congrArg (fun regs => { m with regs := regs }) (Vector.setIfInBound_comm _ _ h)
/-- The state after request `r` has come back and its time has been sampled. -/
def State.repliedTo (s : State) (r : Req) : State := (s.dropReq r.id).sampled (gidQk r.gid) 0 (s.clock - r.born)
theorem State.repliedTo_eq (s : State) (r : Req) :
    s.repliedTo r = { s with reqs := s.reqs.filter (·.id != r.id), quads := (s.repliedTo r).quads } := (s.dropReq r.id).sampled_eq _ _ _
theorem State.repliedTo_thread? (s : State) (r : Req) (g : Nat) : (s.repliedTo r).thread? g = s.thread? g := by
  rw [s.repliedTo_eq]
  rfl
theorem OnlyThread.of_repliedTo (h : OnlyThread (s.repliedTo r) t g n) :
    OnlyThread { s with reqs := s.reqs.filter (·.id != r.id), quads := t.quads } t g n := by
  obtain ⟨ht, hn, hother⟩ := h
  refine ⟨?_, hn, fun x hx => (hother x hx).trans (s.repliedTo_thread? r x)⟩
  have hq : t.quads = (s.repliedTo r).quads := by rw [ht]
  rw [ht, s.repliedTo_eq]
end
end Sys2Proof.Machine
open Sys2Proof.Machine

theorem homeAtomics : Clause.HomeAtomics := by
  intro s r n c v h old ok does
  obtain ⟨hfind, hmay, hcomb, hplain, -⟩ := id h
  have hp := State.plainAt_sliceSeen hplain r
  have hexec := State.homeAccess_performs hfind hcomb hmay
  have hn : n ≤ max n 16 := Nat.le_max_left _ _
  have h16 : 16 ≤ max n 16 := Nat.le_max_right _ _
  have answers {x : Res} (hx : (s.sliceSeen r).perform r = (s.sliceSeen r).answer r x) : does s.mem x :=
    ⟨_, hexec, hx ▸ s.sliceSeen_answered r x⟩
  have hseen (j k : Nat) : ofBytes ((s.sliceSeen r).seen r.uid k j) = s.mem.read k j := congrArg ofBytes (h.seen k j)
  have hread := s.readN_sliceSeen r r.key n
  have writes {v v' : Nat} (hop : r.op = .cas n c v ∨ r.op = .swap n v ∨ r.op = .fadd n v) (hsel : keySel r.key ≠ 6)
      (hnew : rmwNew r.op old = (n, v', true)) : does (s.mem.write r.key (bytesOf n v')) (ok old) := by
    have hnew' : rmwNew r.op ((s.sliceSeen r).readN r.key n) = (n, v', true) := by rw [hread]; exact hnew
    obtain ⟨bad, soft, hw⟩ := s.sliceSeen_writeBytes r r.key (bytesOf n v')
    have hperform := State.perform_rmw (s := s.sliceSeen r) hop
    rw [hnew', if_pos rfl, State.guardedW_of_plain hp hn, State.serveRmw_writes hsel hp hn (rmwNew_length hop) hnew', hread, hw] at hperform
    exact ⟨_, hexec, hperform ▸ s.remembers_answered r _ _ _ _⟩
  refine ⟨fun hop => answers ?_, fun hop hsel => answers ?_, fun hop hsel => ?_, fun lo hop => answers ?_, fun hop => answers ?_,
    fun hsel hpos => ⟨fun hop => ?_, fun hop => ?_, fun hop heq => ?_, fun hop hne => ?_⟩⟩
  · rw [State.perform, hop]
    dsimp only
    rw [State.guarded_of_plain hp hn, hseen]
    rfl
  · rw [State.perform, hop]
    dsimp only
    rw [if_neg (by omega), State.guarded_of_plain hp h16, hseen, hseen]
    rfl
  · refine ⟨_, hexec, ?_⟩
    rw [State.sliceSeen_of_ne (by omega), State.perform, hop]
    dsimp only
    rw [if_pos hsel, State.guarded_of_plain hplain (by omega)]
    have hsee := hseen 8 r.key
    rw [State.sliceSeen_of_ne (by omega)] at hsee
    rw [hsee, State.modReq]
    simp only [beq_iff_eq]
  · rw [State.perform, hop]
    dsimp only
    rw [State.guarded_of_plain hp (by omega), hseen]
    rfl
  · rw [State.perform, hop]
    dsimp only
    rw [State.guarded_of_plain hp (by omega), show (s.sliceSeen r).isEmpty r.key = s.empties.contains (r.key / 8 * 8) by rw [s.sliceSeen_eq]; rfl]
    by_cases hin : r.key / 8 * 8 ∈ s.empties
    · rw [if_pos hin, List.contains_iff_mem.2 hin]
      rfl
    · rw [if_neg hin, Bool.eq_false_iff.2 (fun hc => hin (List.contains_iff_mem.1 hc))]
      rfl
  · exact writes (.inr (.inl hop)) hsel (by rw [hop]; rfl)
  · have hdone := writes (.inr (.inr hop)) hsel (v' := (old + v) % 2 ^ (8 * n)) (by rw [hop]; rfl)
    rw [bytesOf_mod] at hdone
    exact hdone
  · exact writes (.inl hop) hsel (by rw [hop, rmwNew, beq_iff_eq.2 heq])
  · have hnew : rmwNew r.op ((s.sliceSeen r).readN r.key n) = (n, v, false) := by
      rw [hread, hop, rmwNew, beq_eq_false_iff_ne.2 hne]
    refine answers ?_
    rw [State.perform_rmw (.inl hop), hnew, if_neg Bool.false_ne_true, State.guarded_of_plain hp hn,
      State.serveRmw_keeps hsel (rmwNew_length (.inl hop)) hnew, hread]
    rfl

theorem homeStores : Clause.HomeStores := by
  intro s r bs mask hfind hcomb hmay hplain hwf hop
  refine ⟨_, State.homeAccess_performs hfind hcomb hmay, ?_⟩
  have hdone : (s.sliceSeen r).perform r =
      ((s.sliceSeen r).dropReq r.id).writeBytes r.key ((s.sliceSeen r).merged r.key bs mask) := by
    have hp := State.plainAt_sliceSeen hplain r
    rw [State.perform, hop]
    dsimp only
    rw [State.partBad_of_plain hp (le_refl _), ← State.homeWrite_of_plain (s := (s.sliceSeen r).dropReq r.id) hp (State.merged_length _ _ _ _).le]
  rw [hdone]
  refine ⟨by rw [s.sliceSeen_eq]; rfl, fun a => ?_⟩
  have hmem : (s.sliceSeen r).mem = s.mem := by rw [s.sliceSeen_eq]
  have hbyte := (s.sliceSeen r).byte_merged (k := r.key) (by rw [hmem]; exact hwf) bs mask a
  rw [hmem] at hbyte
  rw [← hbyte, ← hmem]
  rfl

theorem replyCompletes : Clause.ReplyCompletes := by
  intro s r m w x hfind hres hhop hm huid hw hwhy hq _ _ _ hwid hpos hval got
  have hthread : (s.repliedTo r).thread? r.gid = some m := (s.repliedTo_thread? r r.gid).trans hm
  have hth : ((s.dropReq r.id).sampled (gidQk r.gid) 0 (s.clock - r.born)).thread r.gid = m := State.thread_of hthread
  refine ⟨fun htrap hbind hword hline => ?_, fun tr htrap hword hline => ?_⟩
  · have hext : extN w.fin.width w.fin.sext x.val = extended w.fin.sext w.fin.width x.val := extN_extended hval
    show ∃ t n, execReplyArrival r.id s = _ ∧ _
    simp only [execReplyArrival, hfind, hres, hhop, bne_self_eq_false, Bool.false_eq_true, if_false, hth, hword, hline, huid, hw, hwhy, htrap, Bool.or_self]
    by_cases hstat : ∃ v, r.op = .stat v
    · obtain ⟨third, hop⟩ := hstat
      rw [hop]
      have hput := State.putFor_plain hthread hq (w.fin.d2 + 1) (wd third)
      have hdone := State.complete_plain hput.thread? (by rw [Thread.setReg_qmap]; exact hq) (w := w) (by rw [Thread.setReg_eq]; exact hw) x.val x.val2 false
      refine ⟨_, _, rfl, (hput.trans hdone).of_repliedTo, fun hno => (hno third rfl).elim, fun v hv hd2 hne => ?_⟩
      cases hv
      rw [Thread.answeredBy, hext, Thread.setReg_comm (Ne.symm hne), Thread.setReg_comm (Nat.succ_ne_self _)]
      rfl
    · have hdone := State.complete_plain hthread hq hw x.val x.val2 x.pred
      refine ⟨_, _, ?_, hdone.of_repliedTo, fun _ => ?_, fun v hv => (hstat ⟨v, hv⟩).elim⟩
      · refine congrArg Host.Outcome.next ?_
        split
        · next hop => exact (hbind _ _ _ hop).elim
        · next hop => exact (hstat ⟨_, hop⟩).elim
        · rfl
      · rw [Thread.answeredBy, hext]
        rfl
  · show execReplyArrival r.id s = _
    simp only [execReplyArrival, hfind, hres, hhop, bne_self_eq_false, Bool.false_eq_true, if_false, hth, hword, hline, huid, hw, hwhy, htrap, Bool.or_self]
    rfl

theorem wordReplies : Clause.WordReplies := by
  intro s r m w x since ws hfind hres hhop hm huid hw hwhy hsince hkey takes
  have hthread : (s.repliedTo r).thread? r.gid = some m := (s.repliedTo_thread? r r.gid).trans hm
  have hth : ((s.dropReq r.id).sampled (gidQk r.gid) 0 (s.clock - r.born)).thread r.gid = m := State.thread_of hthread
  have hany : (ws.any fun e => e.1 == r.key) = true := by
    obtain ⟨e, he, hk⟩ := List.mem_map.1 hkey
    exact List.any_eq_true.2 ⟨e, he, beq_iff_eq.2 hk⟩
  obtain ⟨why, again, half, fin⟩ := w
  cases hwhy
  have hgo (l : List (Nat × Nat × Bool)) := (OnlyThread.modThread hthread (fun t => { t with words := l ++ t.words }) fun _ => rfl).of_repliedTo
  refine ⟨fun hop => ⟨_, ?_, hgo _⟩, fun hop => ⟨_, ?_, hgo _⟩⟩
  · show execReplyArrival r.id s = _
    simp only [execReplyArrival, hfind, hres, hhop, bne_self_eq_false, Bool.false_eq_true, if_false, hth, hop, huid, hw, if_true, decide_true, decide_eq_true hsince, hany, Bool.and_self]
    rfl
  · show execReplyArrival r.id s = _
    simp only [execReplyArrival, hfind, hres, hhop, bne_self_eq_false, Bool.false_eq_true, if_false, hth, hop, huid, hw, if_true, decide_true, decide_eq_true hsince, hany, Bool.and_self, reduceCtorEq, tbit_eq_testBit]
    rfl

/-- Settles O21. On ordinary words a home answers with what stands there and writes the new value in one step with reading the old
one; a reply completes the wait it belongs to. -/
theorem homeAccesses : Obligations.HomeAccesses := ⟨homeAtomics, homeStores, replyCompletes, wordReplies⟩
end

section
/-!
SUPPORT. The slot that a core issues and the refill of its energy budget (02 R23, R25, R27; 12 R221).
-/
open Sys2Proof
namespace Sys2Proof.Machine

section
variable {s : State} {m : Thread} {core : Nat}

/-! ### The choice of a slot -/

/-- Where no gang runs, the barrel may pick a thread that is ready and whose revisit rule is met. -/
theorem State.eligible_iff (hgang : ∀ q, (s.quad q).gang = none) (m : Thread) :
    s.eligible m = true ↔ s.ready m = true ∧ (m.stream.isSome = true ∨ ∀ k, m.lastIssue = some k → k + 8 ≤ s.clock) := by
  rw [State.eligible, hgang, Bool.and_true, Bool.and_eq_true, State.revisit, Bool.or_eq_true]
  refine and_congr_right fun _ => or_congr_right ?_
  cases m.lastIssue with
  | none => exact iff_of_true rfl fun k h => nomatch h
  | some k => exact ⟨fun h j hj => by cases hj; exact of_decide_eq_true h, fun h => decide_eq_true (h k rfl)⟩
/-- Whether the thread that stands at an identifier, if one does, may be picked. -/
def State.picks (s : State) (g : Nat) : Bool := match s.thread? g with | some t => s.eligible t | none => false
theorem State.picks_iff (g : Nat) : s.picks g = true ↔ ∃ m, s.thread? g = some m ∧ s.eligible m = true := by
  rw [State.picks]
  cases s.thread? g with
  | none => exact iff_of_false Bool.false_ne_true fun ⟨_, h, _⟩ => nomatch h
  | some m => exact ⟨fun h => ⟨m, rfl, h⟩, fun ⟨_, h, he⟩ => by cases h; exact he⟩
/-- Slot `i` after the one that issued last. -/
def State.slotAfter (s : State) (core i : Nat) : Nat := s.gidOf core (((s.core core).last + 1 + i) % 16)
theorem State.rotation_eq_some {i : Nat} (hi : i < 16) (hpick : s.picks (s.slotAfter core i) = true)
    (hfirst : ∀ j, j < i → ¬s.picks (s.slotAfter core j) = true) : s.rotation core = some (s.slotAfter core i) := by
  rw [State.rotation, List.find?_map]
  have hfind : (List.range 16).find? (fun i => s.picks (s.slotAfter core i)) = some i :=
    List.find?_range_eq_some.2 ⟨hpick, List.mem_range.2 hi, fun j hj => by simpa using hfirst j hj⟩
  exact congrArg (Option.map (s.slotAfter core)) hfind
theorem State.rotation_eq_none (hno : ∀ i, i < 16 → ¬s.picks (s.slotAfter core i) = true) : s.rotation core = none := by
  rw [State.rotation, List.find?_map]
  have hfind : (List.range 16).find? (fun i => s.picks (s.slotAfter core i)) = none :=
    List.find?_range_eq_none.2 fun j hj => by simpa using hno j hj
  exact congrArg (Option.map (s.slotAfter core)) hfind
/-- Without a gang and without a released thread the rotation chooses. -/
theorem State.chosen_eq_rotation (hgang : ∀ q, (s.quad q).gang = none)
    (hrel : (s.core core).released = [] ∨ (s.core core).relClock + 16 ≤ s.clock) (hissued : (s.core core).issuedAt ≠ some s.clock) :
    s.chosen core = s.rotation core := by
  have hfollower : s.followerDue core = none := by rw [State.followerDue, hgang]
  have hreleased : s.releasedFirst core = none := by
    rw [State.releasedFirst]
    split
    · rfl
    · next hnot =>
      rw [hrel.resolve_right hnot]
      rfl
  rw [State.chosen, if_neg (by simpa using hissued), hfollower, hreleased]

/-! ### The refill -/

/-- Whether a thread is its own, or leads its gang. -/
theorem State.leads_iff (s : State) (m : Thread) : s.leads m = true ↔
    m.handler = true ∨ ∀ x, (s.quad (gidQk m.gid)).gang = some x → x.slot ≠ gidSlot m.gid ∨ x.leader = m.gid := by
  rw [State.leads, Bool.or_eq_true]
  refine or_congr_right ?_
  cases (s.quad (gidQk m.gid)).gang with
  | none => exact iff_of_true rfl fun x h => nomatch h
  | some x =>
    refine ⟨fun h y hy => ?_, fun h => ?_⟩
    · cases hy
      simpa using h
    · simpa using h x rfl
theorem State.isHeld_iff (s : State) (m : Thread) : s.isHeld m = true ↔ m.stat = .held ∨
    ((m.handler = true ∨ ∀ x, (s.quad (gidQk m.gid)).gang = some x → x.slot ≠ gidSlot m.gid ∨ x.leader = m.gid) ∧
      m.stat = .running ∧ m.wait = none ∧ m.stream = none ∧ s.noEnergy m.gid = true ∧ s.vectorNext m = true) := by
  rw [← s.leads_iff]
  simp only [State.isHeld, Bool.or_eq_true, Bool.and_eq_true, beq_iff_eq, Option.isNone_iff_eq_none, and_assoc]
/-- The threads of a core that a refill finds held. -/
def State.heldOn (s : State) (core : Nat) : List Nat := (s.threads.filter fun t => gidCk t.gid == core && s.isHeld t).map (·.gid)
theorem State.mem_heldOn (s : State) (core g : Nat) :
    g ∈ s.heldOn core ↔ gidCk g = core ∧ ∃ m ∈ s.threads, m.gid = g ∧ s.isHeld m = true := by
  simp only [State.heldOn, List.mem_map, List.mem_filter, Bool.and_eq_true, beq_iff_eq]
  constructor
  · rintro ⟨m, ⟨hm, hcore, hheld⟩, rfl⟩
    exact ⟨hcore, m, hm, rfl, hheld⟩
  · rintro ⟨hcore, m, hm, rfl, hheld⟩
    exact ⟨m, ⟨hm, hcore, hheld⟩, rfl⟩
theorem State.core_setCore_of_key {c : Core} (h : c.key = core) : (s.setCore c).core core = c := h ▸ s.core_setCore c
/-- A core whose budget has been filled again and which releases some threads. -/
def Core.refilled (c : Core) (clock : Nat) (released : List Nat) : Core :=
  { c with budget := signed 32 (max c.refill 64), released := released, relClock := clock }
/-- A sample as each of a quad's monitors takes it. -/
def Mon.sampledBy (src v : Nat) (m : Mon) : Mon := if m.on = true ∧ m.src = src then m.sample v else m
theorem State.quad_sampled (s : State) (q src v k : Nat) : (s.sampled q src v).quad k =
    if k = q then { s.quad k with mons := (s.quad k).mons.map (Mon.sampledBy src v) } else s.quad k := by
  have hcond (m : Mon) : (m.on && m.src == src) = true ↔ m.on = true ∧ m.src = src := by rw [Bool.and_eq_true, beq_iff_eq]
  have hmap : (s.quad q).mons.map (fun m => if m.on && m.src == src then m.sample v else m) = (s.quad q).mons.map (Mon.sampledBy src v) :=
    List.map_congr_left fun m _ => if_congr (hcond m) rfl rfl
  rw [State.sampled]
  dsimp only
  rw [hmap]
  split
  · by_cases hk : k = q
    · subst hk
      rw [if_pos rfl]
      exact State.quad_setQuad_of_key (q := { s.quad k with mons := (s.quad k).mons.map (Mon.sampledBy src v) }) (s.quad_key k)
    · rw [if_neg hk]
      exact s.quad_setQuad_other _ _ (by rw [s.quad_key]; exact hk)
  · next hnone =>
    have hsame : (s.quad q).mons.map (Mon.sampledBy src v) = (s.quad q).mons := by
      refine (List.map_congr_left fun m hm => ?_).trans (List.map_id _)
      exact if_neg fun h => hnone (List.any_eq_true.2 ⟨m, hm, (hcond m).2 h⟩)
    split
    · next hk => rw [hk, hsame]
    · rfl
/-- The cores and the threads are not the monitors'. -/
theorem State.core_sampled (s : State) (q src v k : Nat) : (s.sampled q src v).core k = s.core k := by
  rw [s.sampled_eq]
  rfl
theorem State.sampled_threads (s : State) (q src v : Nat) : (s.sampled q src v).threads = s.threads := by rw [s.sampled_eq]
end
end Sys2Proof.Machine
open Sys2Proof.Machine

/-- Settles O50. Without gangs and released threads the barrel's choice is the rotation's, and a refill changes its own core, the
monitors of its quad and the threads it finds held. -/
theorem issueSlots : Obligations.IssueSlots := by
  intro s core c g may held
  have hpicks (hgang : ∀ q, (s.quad q).gang = none) (i : Nat) : s.picks (s.slotAfter core i) = true ↔ may i :=
    (s.picks_iff _).trans (exists_congr fun m => and_congr_right fun _ => State.eligible_iff hgang m)
  refine ⟨fun hissued => ?_, fun hgang hrel hissued => ⟨fun i hi hmay hfirst => ?_, fun hno => ?_⟩, fun hnot => ?_, fun hclock hrel => ?_⟩
  · show execBarrelIssue core s = _
    rw [execBarrelIssue, State.chosen, if_pos (by rw [hissued]; exact beq_self_eq_true _)]
  · show execBarrelIssue core s = _
    rw [execBarrelIssue, State.chosen_eq_rotation hgang hrel hissued,
      State.rotation_eq_some hi ((hpicks hgang i).2 hmay) fun j hj h => hfirst j hj ((hpicks hgang j).1 h)]
    rfl
  · show execBarrelIssue core s = _
    rw [execBarrelIssue, State.chosen_eq_rotation hgang hrel hissued,
      State.rotation_eq_none fun i hi h => hno i hi ((hpicks hgang i).1 h)]
  · show execEnergyRefill core s = _
    rw [execEnergyRefill]
    exact if_pos (by simpa using hnot)
  · have hexec : exec (.energyRefill core) s = .next ((s.sampled (ckQuad core) 5 (unsignedOf 32 c.budget)).setCore
        (c.refilled s.clock (s.heldOn core)) |>.unholds core True) := by
      show execEnergyRefill core s = _
      have hdue : ¬(s.clock % 1024 != 0 || decide (s.clock = c.relClock)) = true := by simp [hclock, hrel]
      have hclk : (s.sampled (ckQuad core) 5 (unsignedOf 32 c.budget)).clock = s.clock := by rw [s.sampled_eq]
      rw [execEnergyRefill, ← State.unholdCore_if, if_pos trivial]
      refine (if_neg hdue).trans ?_
      dsimp only
      rw [show (s.sampled (ckQuad core) 5 (unsignedOf 32 (s.core core).budget)).clock = s.clock from hclk]
      rfl
    have hkey : (c.refilled s.clock (s.heldOn core)).key = core := s.core_key core
    refine ⟨_, s.heldOn core, hexec, by rw [s.sampled_eq]; rfl, ?_, fun h => ?_, fun k hk => ?_, fun k => ?_, fun h m hm => ?_⟩
    · exact State.core_setCore_of_key (c := c.refilled s.clock (s.heldOn core)) hkey
    · exact (s.mem_heldOn core h).trans (and_congr_right fun _ => exists_congr fun m => and_congr_right fun _ =>
        and_congr_right fun _ => s.isHeld_iff m)
    · exact (State.core_setCore_other _ (c.refilled s.clock (s.heldOn core)) k (fun h => hk (h.trans hkey))).trans (s.core_sampled _ _ _ k)
    · exact s.quad_sampled _ _ _ k
    · refine (State.thread?_unholds _ core True h).trans ?_
      have hthread : (s.sampled (ckQuad core) 5 (unsignedOf 32 c.budget)).thread? h = some m := by
        rw [State.thread?, State.sampled_threads]
        exact hm
      refine (congrArg _ hthread).trans (congrArg some ?_)
      show m.unholdIn core True = _
      rw [Thread.unholdIn, s.thread?_gid h m hm]
      simp only [and_true]
end

section
/-!
SUPPORT. The threads that a domain's end leaves (02 R30; 22 R381).
-/
open Sys2Proof
namespace Sys2Proof.Machine

/-! ### The roll of the threads -/

/-- The identifiers of the threads, each with its domain. -/
def State.roll (s : State) : List (Nat × Nat) := s.threads.map fun t => (t.gid, t.dom)
/-- The threads listed are those of `o`, each of its domain. -/
def Rolled (o s : State) : Prop := s.roll = o.roll
/-- A change of a thread that leaves it its identifier and its domain. -/
def Thread.Staying (f : Thread → Thread) : Prop := ∀ t, (f t).gid = t.gid ∧ (f t).dom = t.dom

section
variable {o s : State}

theorem Rolled.congr {t : State} (h : Rolled o s) (ht : t.threads = s.threads) : Rolled o t := by
  rw [Rolled, State.roll, ht]
  exact h
theorem rolled_ite {a b : State} {c : Prop} [Decidable c] (ha : Rolled o a) (hb : Rolled o b) : Rolled o (if c then a else b) := by
  split <;> assumption
theorem rolled_foldl {α : Type} {f : State → α → State} {l : List α} (h : Rolled o s) (hf : ∀ s a, Rolled o s → Rolled o (f s a)) :
    Rolled o (l.foldl f s) :=
  List.foldlRecOn l f (motive := Rolled o) h fun s hs a _ => hf s a hs
theorem rolled_modThread {g : Nat} {f : Thread → Thread} (h : Rolled o s) (hf : Thread.Staying f) : Rolled o (s.modThread g f) := by
  refine Eq.trans ((List.map_map ..).trans (List.map_congr_left fun t _ => ?_)) h
  obtain ⟨hgid, hdom⟩ := hf t
  dsimp only [Function.comp]
  split
  · rw [hgid, hdom]
  · rfl
theorem Thread.staying_setReg (r : Nat) (v : Word) : Thread.Staying (·.setReg r v) := by
  intro t
  dsimp only
  rw [Thread.setReg_eq]
  exact ⟨rfl, rfl⟩
theorem Thread.staying_setGroup (d v : Nat) : Thread.Staying (·.setGroup d v) := by
  have one (t : Thread) (r : Nat) (x : Word) := Thread.staying_setReg r x t
  intro t
  dsimp only [Thread.setGroup] at one ⊢
  exact ⟨by rw [(one _ _ _).1, (one _ _ _).1, (one _ _ _).1, (one _ _ _).1], by rw [(one _ _ _).2, (one _ _ _).2, (one _ _ _).2, (one _ _ _).2]⟩
theorem rolled_putFor {g r : Nat} {v : Word} (h : Rolled o s) : Rolled o (s.putFor g r v) :=
  rolled_ite (h.congr rfl) (rolled_modThread h (Thread.staying_setReg _ _))
theorem rolled_complete {g val val2 : Nat} {pred : Bool} (h : Rolled o s) : Rolled o (s.complete g val val2 pred) := by
  unfold State.complete
  split
  · exact h
  · refine rolled_modThread (rolled_putFor (rolled_putFor h)) fun t => ?_
    dsimp only
    rw [Thread.setPred_eq]
    exact ⟨rfl, rfl⟩
theorem rolled_enter {die obj ok ek gid : Nat} (h : Rolled o s) : Rolled o (s.enter die obj ok ek gid).1 := by
  unfold State.enter
  split
  · exact h.congr rfl
  · exact h.congr rfl
theorem rolled_hold {die obj ok ek gid : Nat} (h : Rolled o s) : Rolled o (s.hold die obj ok ek gid) := rolled_enter h
theorem rolled_wake {g objDie val val2 : Nat} {pred : Bool} (h : Rolled o s) : Rolled o (s.wake g objDie val val2 pred) := by
  have hunwait : Rolled o (s.unwait g) := h.congr rfl
  refine rolled_ite (rolled_complete hunwait) ?_
  exact (rolled_modThread (s := (s.unwait g).takeId.2) (g := g) (f := fun t => { t with
    stat := .running, wait := t.wait.map fun w => { w with why := .reply (s.unwait g).takeId.1 } }) hunwait fun t => ⟨rfl, rfl⟩).congr rfl
theorem rolled_wakeBar {word status : Nat} (h : Rolled o s) : Rolled o (s.wakeBar word status) :=
  rolled_foldl (h.congr rfl) fun _ _ h => rolled_wake h
theorem rolled_homeWrite {k : Nat} {bs : List Byte} (h : Rolled o s) : Rolled o (s.homeWrite k bs) :=
  rolled_foldl (h.congr rfl) fun _ _ h => rolled_wakeBar h
theorem rolled_barTakeBack {uid : Nat} (h : Rolled o s) : Rolled o (s.barTakeBack uid) := by
  unfold State.barTakeBack
  split
  · exact h
  · exact rolled_ite (h.congr rfl) (h.congr rfl)
theorem rolled_withdraw {g : Nat} (h : Rolled o s) : Rolled o (s.withdraw g) := by
  unfold State.withdraw
  dsimp only
  split
  · exact h.congr rfl
  · split
    · exact h.congr rfl
    · exact rolled_barTakeBack (h.congr rfl)
    · exact h.congr rfl
    · exact h.congr rfl
    · exact h.congr rfl
    · exact h.congr rfl
theorem rolled_passHold {w : Nat} (h : Rolled o s) : Rolled o (s.passHold w) := by
  unfold State.passHold
  dsimp only
  split
  · exact h.congr rfl
  · split
    · exact rolled_ite (rolled_wake (rolled_hold (h.congr rfl))) (rolled_hold (h.congr rfl))
    · exact rolled_hold (h.congr rfl)
theorem rolled_abandon {uid g : Nat} (h : Rolled o s) : Rolled o (s.abandon uid g) :=
  rolled_foldl (h.congr rfl) fun _ _ h => rolled_ite (rolled_passHold (h.congr rfl)) h
theorem rolled_postCede {g sig : Nat} (h : Rolled o s) : Rolled o (s.postCede g sig) := by
  have hmod : Rolled o (s.modThread g fun t => { t with claims := t.claims.map fun c => if c.sig == sig then { c with live := false } else c }) :=
    rolled_modThread h fun _ => ⟨rfl, rfl⟩
  unfold State.postCede
  dsimp only
  split
  · exact hmod.congr rfl
  · exact rolled_modThread (hmod.congr rfl) fun _ => ⟨rfl, rfl⟩
theorem rolled_lookupTlb {q asid sel va : Nat} (h : Rolled o s) : Rolled o (s.lookupTlb q asid sel va).2 :=
  h.congr (s.looked_lookupTlb q asid sel va).threads
theorem rolled_iqTouch {q : Iq} {i : Nat} (h : Rolled o s) : Rolled o (s.iqTouch q i) := by
  unfold State.iqTouch
  split
  · exact h
  · split
    · exact h
    · next d _ =>
      have hlook : Rolled o (s.lookupTlb q.bank d.asid 4 (q.spillVa i)).2 := rolled_lookupTlb h
      split
      · next heq =>
        rw [heq] at hlook
        exact hlook
      · next heq =>
        rw [heq] at hlook
        split
        · exact hlook.congr rfl
        · exact hlook
theorem rolled_iqOut {q : Iq} (h : Rolled o s) : Rolled o (s.iqOut q) := by
  unfold State.iqOut
  refine rolled_foldl (h.congr rfl) fun _ _ h => ?_
  dsimp only
  split
  · exact rolled_ite h (rolled_homeWrite (rolled_iqTouch h))
  · exact h
theorem rolled_iqServe {id : Nat} (h : Rolled o s) : Rolled o (s.iqServe id) := by
  unfold State.iqServe
  dsimp only
  split
  · exact h
  · split
    · exact h
    · split
      · refine rolled_wake (rolled_modThread (rolled_iqOut (rolled_iqTouch h)) fun t => ?_)
        exact Thread.staying_setGroup _ _ t
      · exact rolled_ite (rolled_wake (rolled_modThread h fun _ => ⟨rfl, rfl⟩)) h
theorem rolled_iqEdges {q : Iq} (h : Rolled o s) : Rolled o (s.iqEdges q) :=
  rolled_ite h (rolled_foldl (h.congr rfl) fun _ _ h => rolled_ite h (rolled_hold (h.congr rfl)))
theorem rolled_iqSettleOne {id : Nat} (h : Rolled o s) : Rolled o (s.iqSettleOne id) := by
  have opened (q : Iq) : Rolled o (if s.iqDone q && !q.closed then s.iqOut { (s.iqIn q).consolidate.1 with closed := true }
      else if !s.iqDone q && q.closed then s.modIq id fun q => { q with closed := false } else s) :=
    rolled_ite (rolled_iqOut h) (rolled_ite (h.congr rfl) h)
  unfold State.iqSettleOne
  dsimp only
  split
  · exact h
  · split
    · exact rolled_iqEdges (rolled_iqServe (opened _))
    · exact opened _
theorem rolled_iqSettle {dom : Nat} (h : Rolled o s) : Rolled o (s.iqSettle dom) := rolled_foldl h fun _ _ h => rolled_iqSettleOne h
theorem rolled_completeBar {b : NetBar} (h : Rolled o s) : Rolled o (s.completeBar b) := by
  unfold State.completeBar
  split
  · exact rolled_foldl (h.congr rfl) fun _ _ h => rolled_wake h
  · exact h.congr rfl
theorem rolled_barSettle {dom : Nat} (h : Rolled o s) : Rolled o (s.barSettle dom) :=
  rolled_foldl h fun _ _ h => rolled_ite (rolled_completeBar h) h
theorem rolled_wakeReg {obj status : Nat} (h : Rolled o s) : Rolled o (s.wakeReg obj status) :=
  rolled_foldl h fun _ _ h => rolled_wake h
theorem rolled_releaseHolds {g : Nat} (h : Rolled o s) : Rolled o (s.releaseHolds g) :=
  rolled_foldl (h.congr rfl) fun _ _ h => rolled_ite h (rolled_wakeReg h)
theorem rolled_dissolve {g : Nat} (h : Rolled o s) : Rolled o (s.dissolve g) := rolled_ite h (h.congr rfl)
theorem rolled_pauseCore {g pc : Nat} (h : Rolled o s) : Rolled o (s.pauseCore g pc) :=
  rolled_modThread (rolled_foldl h fun _ _ h => rolled_postCede h) fun _ => ⟨rfl, rfl⟩
theorem rolled_pauseJoin {g pc : Nat} (h : Rolled o s) : Rolled o (s.pauseJoin g pc) :=
  rolled_foldl h fun _ _ h =>
    rolled_ite (rolled_modThread (rolled_pauseCore (h.congr rfl)) fun _ => ⟨rfl, rfl⟩) (rolled_pauseCore (h.congr rfl))
theorem rolled_joinStir {u a : Nat} (h : Rolled o s) : Rolled o (s.joinStir u a) := by
  induction a generalizing s u with
  | zero => exact h
  | succ n ih =>
    rw [State.joinStir]
    dsimp only
    split
    · split <;> exact h.congr rfl
    · split <;> exact rolled_ite (rolled_complete (rolled_modThread (h.congr rfl) fun _ => ⟨rfl, rfl⟩))
        (rolled_ite (ih (rolled_iqSettle (rolled_pauseJoin (h.congr rfl)))) (h.congr rfl))
/-- The end of a thread takes it from the roll, and no other. -/
theorem State.roll_endThread (s : State) (g : Nat) : (s.endThread g).roll = s.roll.filter (·.1 != g) := by
  fun_cases State.endThread s g with
  | case1 hnone =>
    refine (List.filter_eq_self.2 fun e he => ?_).symm
    obtain ⟨t, ht, rfl⟩ := List.mem_map.1 he
    have hne := List.find?_eq_none.1 hnone t ht
    simpa using hne
  | case2 t _ s1 s2 c s3 s4 =>
    have h2 : Rolled s s2 := Rolled.congr (rolled_releaseHolds (rolled_abandon (rolled_dissolve (rolled_withdraw rfl)))) rfl
    have h3 : Rolled s s3 := h2.congr rfl
    clear_value s3
    have h4 : s4.roll = s.roll.filter (·.1 != g) := by
      rw [← h3]
      show (s3.threads.filter fun t => t.gid != g).map (fun t => (t.gid, t.dom)) = _
      rw [State.roll, List.filter_map]
      rfl
    have hstir : Rolled s4 (((s4.iqSettle t.dom).barSettle t.dom).joinStir t.uid (s4.threads.length + 1)) :=
      rolled_joinStir (rolled_barSettle (rolled_iqSettle rfl))
    exact hstir.trans h4
theorem State.mem_roll_foldl_endThread (gs : List Nat) (s : State) (e : Nat × Nat) :
    e ∈ (gs.foldl State.endThread s).roll ↔ e ∈ s.roll ∧ e.1 ∉ gs := by
  induction gs generalizing s with
  | nil => simp
  | cons g gs ih =>
    rw [List.foldl_cons, ih, State.roll_endThread, List.mem_filter, List.mem_cons, not_or, bne_iff_ne, and_assoc]
/-- A domain that has ended has no thread. -/
theorem State.dom_endDomain (s : State) (dom : Nat) (stat : DStat) (word val : Nat) :
    ∀ y ∈ (s.endDomain dom stat word val).threads, y.dom ≠ dom := by
  intro y hy hdom
  have hmem : (y.gid, y.dom) ∈ (s.endDomain dom stat word val).roll := List.mem_map.2 ⟨y, hy, rfl⟩
  have hwithdrawn : Rolled s (((s.threads.filter (·.dom == dom)).map (·.gid)).foldl
      (fun s g => (s.withdraw g).modThread g fun t => { t with wait := none }) s) :=
    rolled_foldl rfl fun _ _ h => rolled_modThread (rolled_withdraw h) fun _ => ⟨rfl, rfl⟩
  obtain ⟨hold, hnot⟩ := (State.mem_roll_foldl_endThread _ _ _).1 hmem
  rw [hwithdrawn] at hold
  obtain ⟨x, hx, heq⟩ := List.mem_map.1 hold
  obtain ⟨hgid, hxdom⟩ := Prod.mk.inj heq
  exact hnot (List.mem_map.2 ⟨x, List.mem_filter.2 ⟨hx, beq_iff_eq.2 (hxdom.trans hdom)⟩, hgid⟩)
/-- Giving up what a suspended domain's threads hold leaves the domains. -/
theorem State.domain?_endSaved (s : State) (dom n : Nat) : (s.endSaved dom).domain? n = s.domain? n := by
  have hkept : Kept s (s.endSaved dom) :=
    kept_foldl (Kept.refl s) fun _ _ hk => kept_ite (kept_releaseHolds (kept_iqUnbind (kept_abandon hk))) (kept_iqUnbind (kept_abandon hk))
  rw [State.domain?, hkept.1, State.domain?]
end
end Sys2Proof.Machine
open Sys2Proof.Machine

end

section
/-!
SUPPORT. The host's commands on domains (22 R380 to R385; 02 R22, R30, R50; 11 R201 to R203).
-/
open Sys2Proof
namespace Sys2Proof.Machine

section
variable {s t u : State} {fn page code num : Nat} {c : Cmd} {d : Domain}

/-! ### What a command comes to -/

/-- What the host is told, and the state that is left. -/
def Ans.taken (a : Ans) (fn page : Nat) : Out := match a with | .done r x y t => t.resulted fn page r x y | .wait t => .next t
/-- A command that is due is performed. -/
theorem State.command1_due (h : s.hasDue fn page code c) (f : Cmd → State → Ans) : s.command1 fn page code f = (f c s).taken fn page := by
  obtain ⟨hdue, hcode, hwell, hhalt, hgen, hpf⟩ := h
  have hans : (if !c.wellFormed then s.deny 1 else if code != 1 && c.gen != (s.page fn page).gen then s.deny 2
      else if pfOnly code && fn != 0 then s.deny 4 else f c s) = f c s := by
    rw [if_neg (by simp [hwell]), if_neg (by rcases hgen with h | h <;> simp [h]), if_neg]
    rw [Bool.and_eq_true, bne_iff_ne]
    exact fun h => h.2 (hpf h.1)
  rw [State.command1, hdue]
  dsimp only
  rw [if_neg (by simp [hcode, hhalt]), hans]
  cases f c s <;> rfl
/-- One that comes to a result, and one that goes on. -/
theorem State.command1_done (h : s.hasDue fn page code c) {f : Cmd → State → Ans} {r a b : Nat} (hf : f c s = .done r a b u) :
    s.command1 fn page code f = u.resulted fn page r a b := by
  rw [State.command1_due h, hf]
  rfl
theorem State.command1_wait (h : s.hasDue fn page code c) {f : Cmd → State → Ans} (hf : f c s = .wait u) :
    s.command1 fn page code f = .next u := by
  rw [State.command1_due h, hf]
  rfl
theorem State.onDomain_of_none (h : s.domain? num = none) (f : Domain → State → Ans) : s.onDomain fn num f = .done 3 0 0 s := by
  rw [State.onDomain, h]
  rfl
theorem State.onDomain_of_other (h : s.domain? num = some d) (hfn : d.fn ≠ fn) (f : Domain → State → Ans) :
    s.onDomain fn num f = .done 4 0 0 s := by
  rw [State.onDomain, h]
  exact if_pos (by simpa using hfn)
theorem State.onDomain_of (h : s.domain? num = some d) (hfn : d.fn = fn) (f : Domain → State → Ans) : s.onDomain fn num f = f d s := by
  rw [State.onDomain, h]
  exact if_neg (by simp [hfn])
theorem State.modDomain_eq (s : State) (n : Nat) (f : Domain → Domain) :
    s.modDomain n f = { s with domains := s.domains.map fun y => if y.num = n then f y else y } := by
  simp only [State.modDomain, beq_iff_eq]
theorem State.num_of_domain? (h : s.domain? num = some d) : d.num = num := beq_iff_eq.1 (List.find?_some (p := fun d : Domain => d.num == num) h)
theorem outBytes_length (k : Nat) (l : List (Nat × Nat × Nat)) : (outBytes (k, l)).length = 16 + 16 * l.length := by
  have hone (l : List (Nat × Nat × Nat)) : (l.flatMap fun (sig, st, v) => bytesOf 2 sig ++ bytesOf 1 st ++ bytesOf 5 0 ++ bytesOf 8 v).length =
      16 * l.length := by
    induction l with
    | nil => rfl
    | cons e l ih =>
      rw [List.flatMap_cons, List.length_append, ih, List.length_cons]
      simp only [List.length_append, bytesOf_length]
      omega
  rw [outBytes, List.length_append, hone]
  simp only [List.length_append, bytesOf_length]

/-! ### Saving -/

/-- What looking an address up leaves: the threads and the domains. -/
structure State.Viewed (s t : State) : Prop where
  threads : t.threads = s.threads
  domains : t.domains = s.domains
theorem State.Viewed.refl (s : State) : s.Viewed s := ⟨rfl, rfl⟩
theorem State.Viewed.trans (h : s.Viewed t) (k : t.Viewed u) : s.Viewed u := ⟨k.threads.trans h.threads, k.domains.trans h.domains⟩
theorem State.Viewed.of_eq {α : Type} {p : α × State} {a : α} (h : s.Viewed p.2) (e : p = (a, t)) : s.Viewed t := by
  subst e
  exact h
theorem State.viewed_lookupTlb (s : State) (q asid sel va : Nat) : s.Viewed (s.lookupTlb q asid sel va).2 :=
  ⟨(s.looked_lookupTlb q asid sel va).threads, (kept_lookupTlb (Kept.refl s)).1⟩
theorem State.viewed_pages (w : Who) (q sel : Nat) : ∀ (fuel va len : Nat) (acc : List (Nat × Nat)) (perm : Nat) (s : State),
    s.Viewed (s.pages? w q sel fuel va len acc perm).2
  | 0, _, _, _, _, s => State.Viewed.refl s
  | fuel + 1, va, len, acc, perm, s => by
    have hview := s.viewed_lookupTlb q w.asid sel va
    rw [State.pages?]
    split
    · next heq => exact hview.of_eq heq
    · next heq =>
      dsimp only
      split
      · exact hview.of_eq heq
      · exact (hview.of_eq heq).trans (State.viewed_pages w q sel fuel _ _ _ _ _)
theorem State.viewed_check (s : State) (w : Who) (need : Nat) (fe : Bool) (align addr len : Nat) :
    s.Viewed (s.check w need fe align addr len).2 := by
  have pages := fun sel va => s.viewed_pages w (gidQk w.gid) sel (len / 65536 + 2) va len [] 7
  fun_cases State.check s w need fe align addr len with
  | case9 => exact (pages _ _).of_eq ‹_›
  | case10 => exact (pages _ _).of_eq ‹_›
  | case11 => exact (pages _ _).of_eq ‹_›
  | _ => exact State.Viewed.refl s
theorem State.viewed_fill (s : State) (d q : Nat) (e : Tlb) : s.Viewed ((s.fillDie d e).fillQuad q e) := ⟨rfl, rfl⟩
theorem State.viewed_writeBytes (s : State) (k : Nat) (bs : List Byte) : s.Viewed (s.writeBytes k bs) := ⟨rfl, rfl⟩
theorem State.viewed_engineCheck (w : Who) (need : Nat) (fe : Bool) (align addr len : Nat) : ∀ (fuel : Nat) (s : State),
    s.Viewed (s.engineCheck w need fe align addr len fuel).2
  | 0, s => s.viewed_check w need fe align addr len
  | fuel + 1, s => by
    have hview := s.viewed_check w need fe align addr len
    rw [State.engineCheck]
    split
    · next heq =>
      split
      · exact (hview.of_eq heq).trans ((State.viewed_fill _ _ _ _).trans (State.viewed_engineCheck w need fe align addr len fuel _))
      · exact hview.of_eq heq
    · exact hview
theorem State.viewed_segWrite : ∀ (segs : List (Nat × Nat)) (bs : List Byte) (s : State), s.Viewed (s.segWrite segs bs)
  | [], _, s => State.Viewed.refl s
  | (k, n) :: segs, bs, s => (s.viewed_writeBytes k (bs.take n)).trans (State.viewed_segWrite segs (bs.drop n) _)
/-- A suspended domain whose save stands at an area. -/
def Domain.savedAt (d : Domain) (area : Nat) : Domain := { d with stat := .suspended, suspendTo := none, saveAt := some area }
/-- A save takes the snapshot of the domain, after its bytes have been written. -/
theorem State.save_takes {area : Nat} (h : s.save d area = some u) :
    ∃ v, s.Viewed v ∧ u = (v.takeSaved (s.snapshot d.num area)).modDomain d.num (·.savedAt area) := by
  rw [State.save] at h
  split at h
  · next v heq =>
    split at h
    · cases h
    · cases h
      exact ⟨_, ((State.viewed_engineCheck _ _ _ _ _ _ _ s).of_eq heq).trans (State.viewed_segWrite _ _ v), rfl⟩
  · cases h
end
end Sys2Proof.Machine
open Sys2Proof.Machine

theorem domainCommands : Clause.DomainCommands := by
  intro s u fn page c d x num area with' args
  refine ⟨fun h hd => ?_, fun hd hfn h => ?_, fun hd hfn => ⟨fun h => ?_, fun h hstat => ?_, fun h hstat => ?_, fun h hlen => ?_, fun h g hg => ?_,
    fun h => ?_, fun h hlive => ?_, fun h hlive => ?_, fun h hstat hto => ?_, fun h hstat hto hq hready hsave => ?_, fun h hstat => ?_,
    fun h hstat hnone => ?_, fun h hstat hsaved => ?_⟩⟩
  · show execEndStatus fn page s = _
    exact State.command1_done h (State.onDomain_of_none hd _)
  · show execEndStatus fn page s = _
    exact State.command1_done h (State.onDomain_of_other hd hfn _)
  · show execEndStatus fn page s = _
    exact State.command1_done h (State.onDomain_of hd hfn _)
  · show execLaunch fn page s = _
    exact State.command1_done h ((State.onDomain_of hd hfn _).trans (if_pos (by simpa using hstat)))
  · show execLaunch fn page s = _
    refine State.command1_done h ((State.onDomain_of hd hfn _).trans ((if_neg (by simpa using hstat)).trans ?_))
    rw [State.num_of_domain? hd, State.launch, State.modDomain_eq]
    simp only [beq_iff_eq]
    rfl
  · show execEmitInput fn page s = _
    exact State.command1_done h ((State.onDomain_of hd hfn _).trans (if_pos hlen))
  · have hsig : ¬d.sigs.length ≤ c.arg 2 2 := by
      obtain ⟨hlt, -⟩ := List.getElem?_eq_some_iff.1 hg
      omega
    have hget : d.sigs.getD (c.arg 2 2) Sig.none = g := by rw [List.getD_eq_getElem?_getD, hg]; rfl
    refine ⟨fun hno => ?_, fun hout hact => ?_⟩
    · show execEmitInput fn page s = _
      refine State.command1_done h ((State.onDomain_of hd hfn _).trans ((if_neg hsig).trans (if_pos ?_)))
      rw [hget]
      rcases hno with h | h <;> simp [h]
    · show execEmitInput fn page s = _
      refine State.command1_done h ((State.onDomain_of hd hfn _).trans ((if_neg hsig).trans ((if_neg ?_).trans ?_)))
      · rw [hget, hout, hact]
        exact Bool.false_ne_true
      · rw [State.num_of_domain? hd, State.modDomain_eq]
  · refine ⟨fun k l hfind => ?_, fun hfind => ?_⟩
    · show execReadOutputs fn page s = _
      refine State.command1_done h ((State.onDomain_of hd hfn _).trans ?_)
      dsimp only
      rw [hfind, ← outBytes_length k l]
      rfl
    · show execReadOutputs fn page s = _
      refine State.command1_done h ((State.onDomain_of hd hfn _).trans ?_)
      dsimp only
      rw [hfind]
      simp only [Bool.and_eq_true, bne_iff_ne]
      rfl
  · show execAbort fn page s = _
    exact State.command1_done h ((State.onDomain_of hd hfn _).trans (if_neg (by simp [hlive])))
  · have hexec : exec (.abort fn page) s = ((s.endSaved num).abortDomain num 6 0 0 area).resulted fn page 0 0 0 := by
      show execAbort fn page s = _
      refine State.command1_done h ((State.onDomain_of hd hfn _).trans ((if_pos hlive).trans ?_))
      rw [State.num_of_domain? hd]
    refine ⟨_, d.ended (endWord 6 0 0) area, hexec, State.dom_endDomain (s.endSaved num) num .aborted (endWord 6 0 0) area, ?_, rfl, rfl, rfl, rfl⟩
    refine (State.domain?_abortDomain (s.endSaved num) num 6 0 0 area num).trans ?_
    rw [if_pos rfl, State.domain?_endSaved, hd]
    rfl
  · refine ⟨fun hq => ?_, fun hq => ?_⟩
    · show execSuspend fn page s = _
      refine State.command1_done h ((State.onDomain_of hd hfn _).trans ?_)
      dsimp only
      rw [hstat, hto, State.num_of_domain? hd]
      exact if_pos hq
    · show execSuspend fn page s = _
      refine State.command1_wait h ((State.onDomain_of hd hfn _).trans ?_)
      dsimp only
      rw [hstat, hto, State.num_of_domain? hd]
      refine (if_neg (by simp [hq])).trans ?_
      rw [State.modDomain_eq]
  · have hnum := State.num_of_domain? hd
    obtain ⟨v, hview, hu⟩ := State.save_takes hsave
    refine ⟨?_, ?_, ⟨d.savedAt area, ?_, rfl, rfl⟩, s.snapshot num area, ?_, rfl, rfl, rfl⟩
    · show execSuspend fn page s = _
      refine State.command1_done h ((State.onDomain_of hd hfn _).trans ?_)
      dsimp only
      rw [hstat, hto, hnum]
      refine (if_neg (show ¬(area != area) = true by simp)).trans ((if_neg (by simp [hq])).trans ((if_neg (by simp [hready])).trans ?_))
      rw [hsave]
    · rw [hu, hnum, ← hview.threads]
      rfl
    · rw [hu, hnum]
      have hv : v.domain? num = some d := by rw [State.domain?, hview.domains]; exact hd
      exact State.domain?_modDomain (s := v.takeSaved (s.snapshot num area)) hv _ fun _ => rfl
    · rw [hu, hnum]
      exact List.mem_append_right _ (List.mem_singleton_self _)
  · show execResume fn page s = _
    exact State.command1_done h ((State.onDomain_of hd hfn _).trans (if_pos (by simpa using hstat)))
  · show execResume fn page s = _
    refine State.command1_done h ((State.onDomain_of hd hfn _).trans ((if_neg (by simp [hstat])).trans ?_))
    rw [State.num_of_domain? hd, hnone]
    rfl
  · refine ⟨fun hroom => ?_, fun hroom => ?_⟩
    · show execResume fn page s = _
      refine State.command1_done h ((State.onDomain_of hd hfn _).trans ((if_neg (by simp [hstat])).trans ?_))
      rw [State.num_of_domain? hd, hsaved]
      exact if_neg (by simp [hroom])
    · show execResume fn page s = _
      refine State.command1_done h ((State.onDomain_of hd hfn _).trans ((if_neg (by simp [hstat])).trans ?_))
      rw [State.num_of_domain? hd, hsaved]
      exact if_pos hroom
end

section
/-!
SUPPORT. The system commands on tenants (22 R388 to R392; 07 R140, R141; 11 R205; 19 R340 to R342).
-/
open Sys2Proof
namespace Sys2Proof.Machine

section
variable {s t u : State} {fn page code part : Nat} {c : Cmd} {p : Partition}

/-! ### Partitions and key tables -/

theorem State.modPart_eq (s : State) (n : Nat) (f : Partition → Partition) :
    s.modPart n f = { s with parts := s.parts.map fun x => if x.num = n then f x else x } := by
  simp only [State.modPart, beq_iff_eq]
theorem State.onPart_of (hfn : fn ≠ 0) (h : s.part? (fn - 1) = some p) (f : Partition → State → Ans) : s.onPart fn f = f p s := by
  rw [State.onPart, fnPart, if_neg hfn, Option.bind_some, h]
theorem not_isNone_of_ne {α : Type} {o : Option α} (h : o ≠ none) : ¬o.isNone = true := by
  rw [Option.isNone_iff_eq_none]
  exact h
/-- A table of one to eight keys whose identifiers are their hashes. -/
theorem State.keyTable_of {addr n : Nat} {ks : List (List Byte × List Byte)} (hlo : 1 ≤ n) (hhi : n ≤ 8)
    (hks : ks = (List.range n).map fun i => (s.hostBytes (addr + 2656 * i) 64, s.hostBytes (addr + 2656 * i + 64) 2592))
    (hsha : ∀ k ∈ ks, sha3 k.2 = k.1) : s.keyTable addr n = some ks := by
  have hany : ks.any (fun k => sha3 k.2 != k.1) = false :=
    List.any_eq_false.2 fun k hk => by simp [hsha k hk]
  rw [State.keyTable, ← hks, hany]
  exact if_neg (by simp; omega)

/-! ### Giving quads to a tenant -/

/-- A partition at its creation. -/
def Partition.fresh (part policy : Nat) (ks : List (List Byte × List Byte)) : Partition :=
  { num := part, policy := policy, keys := ks, roots := [], faultQ := none, recNum := 0, rates := [], buckets := [] }
/-- One quad goes to a tenant, its memory under a key. -/
def State.giveQuad (s : State) (part key q : Nat) : State :=
  { s.setQuad { s.quad q with part := some part } with mem := s.mem.rekey q key }
theorem State.owner_giveQuad (s : State) (part key q k : Nat) : (s.giveQuad part key q).owner k = if k = q then some part else s.owner k := by
  by_cases hk : k = q
  · subst hk
    rw [if_pos rfl]
    exact congrArg Quad.part (State.quad_setQuad_of_key (q := { s.quad k with part := some part }) (s.quad_key k))
  · rw [if_neg hk]
    exact congrArg Quad.part (s.quad_setQuad_other { s.quad q with part := some part } k (by rw [show Quad.key _ = q from s.quad_key q]; exact hk))
theorem State.owner_foldl_giveQuad (part key k : Nat) : ∀ (qs : List Nat) (s : State),
    (qs.foldl (fun s q => s.giveQuad part key q) s).owner k = if k ∈ qs then some part else s.owner k
  | [], s => rfl
  | q :: qs, s => by
    rw [List.foldl_cons, State.owner_foldl_giveQuad part key k qs, State.owner_giveQuad]
    by_cases hq : k = q
    · simp [hq]
    · simp [hq]
theorem State.foldl_giveQuad_eq (part key : Nat) (qs : List Nat) (s : State) :
    qs.foldl (fun s q => s.giveQuad part key q) s =
      { s with quads := (qs.foldl (fun s q => s.giveQuad part key q) s).quads, mem := (qs.foldl (fun s q => s.giveQuad part key q) s).mem } :=
  List.foldlRecOn qs _ (motive := fun t : State => t = { s with quads := t.quads, mem := t.mem }) rfl fun t ht q _ => by
    rw [ht]
    rfl
/-- The partition's slot takes a fresh key, and the words of the quads are full. -/
def State.keyed (s : State) (part : Nat) (qs : List Nat) : State :=
  { s with keySlots := putRec Prod.fst (part, s.keyCtr + 1) s.keySlots, keyCtr := s.keyCtr + 1,
           empties := s.empties.filter fun w => !(match keyRegion w with | some q => qs.contains q | none => false) }
theorem State.owner_giveQuads (s : State) (part : Nat) (qs : List Nat) (k : Nat) :
    (s.giveQuads part qs).owner k = if k ∈ qs then some part else s.owner k := State.owner_foldl_giveQuad part (s.keyCtr + 1) k qs _
theorem State.giveQuads_eq (s : State) (part : Nat) (qs : List Nat) : s.giveQuads part qs =
    { s.keyed part qs with quads := (s.giveQuads part qs).quads, mem := (s.giveQuads part qs).mem } :=
  State.foldl_giveQuad_eq part (s.keyCtr + 1) qs (s.keyed part qs)
/-- No word of the quads is empty any longer. -/
theorem State.empties_keyed {qs : List Nat} {w k : Nat} (hw : w ∈ (s.keyed part qs).empties) (hk : keyRegion w = some k) : k ∉ qs := by
  have hfull := (List.mem_filter.1 hw).2
  rw [hk] at hfull
  simpa using hfull

/-! ### Ending a tenant -/

/-- The parts of a teardown that what it leaves turns on: units, cores, copies and walks, quads, and what is the tenant's (22 R391). -/
def State.withoutUnits (s : State) (part : Nat) : State :=
  { s with convs := s.convs.filter (·.part != part), rects := s.rects.filter (·.part != part) }
def State.clearCores (s : State) (cs : List Core) : State :=
  cs.foldl (fun s c => s.setCore { s.core c.key with mail := [], deque := [], post := [], fifo := [], recv := [], posted := [] }) s
def State.withoutCopies (s : State) (part : Nat) : State :=
  { s with copies := s.copies.filter (fun c => c.part != part || c.state == 1), walks := s.walks.filter (·.part != part) }
def State.clearQuads (s : State) (qs : List Nat) : State :=
  qs.foldl (fun s q =>
    let s := s.setQuad { s.quad q with part := none, slots := [], sums := [], rowBuf := [], parts := [], gang := none }
    { s with mem := (List.range 4).foldl (fun m c => m.clearCore (q * 4 + c)) s.mem }) s
def State.withoutTenant (s : State) (part : Nat) : State :=
  { s with parts := s.parts.filter (·.num != part), objs := s.objs.filter (·.part != part), arrs := s.arrs.filter (·.part != part) }
theorem State.teardown_parts (s : State) (part : Nat) : ∃ x qs cs, s.teardown part =
    (((((State.withoutUnits x part).clearCores cs).withoutCopies part).discardHomes part qs).clearQuads qs).withoutTenant part :=
  ⟨_, _, _, rfl⟩
theorem State.clearCores_eq (s : State) (cs : List Core) : s.clearCores cs = { s with cores := (s.clearCores cs).cores } :=
  List.foldlRecOn cs _ (motive := fun t : State => t = { s with cores := t.cores }) rfl fun t ht c _ => by
    rw [ht]
    rfl
theorem State.clearQuads_eq (s : State) (qs : List Nat) :
    s.clearQuads qs = { s with quads := (s.clearQuads qs).quads, mem := (s.clearQuads qs).mem } :=
  List.foldlRecOn qs _ (motive := fun t : State => t = { s with quads := t.quads, mem := t.mem }) rfl fun t ht c _ => by
    rw [ht]
    rfl
/-- What a teardown leaves holds nothing of the tenant. -/
structure State.Without (t : State) (part : Nat) : Prop where
  gone : t.part? part = none
  keys : ∀ x ∈ t.keySlots, x.1 ≠ part
  rects : ∀ x ∈ t.rects, x.part ≠ part
  convs : ∀ x ∈ t.convs, x.part ≠ part
  copies : ∀ x ∈ t.copies, x.part = part → x.state = 1
  objs : ∀ x ∈ t.objs, x.part ≠ part
theorem ne_of_mem_filter {α : Type} {key : α → Nat} {l : List α} {n : Nat} {x : α} (hx : x ∈ l.filter fun x => key x != n) : key x ≠ n :=
  bne_iff_ne.1 (List.mem_filter.1 hx).2
theorem State.without_teardown (s : State) (part : Nat) : (s.teardown part).Without part := by
  obtain ⟨x, qs, cs, h⟩ := s.teardown_parts part
  rw [h, State.clearQuads_eq, State.clearCores_eq]
  refine ⟨?_, fun _ hx => ne_of_mem_filter hx, fun _ hx => ne_of_mem_filter hx, fun _ hx => ne_of_mem_filter hx, fun y hy hpart => ?_,
    fun _ hx => ne_of_mem_filter hx⟩
  · exact List.find?_eq_none.2 fun p hp => by simpa using ne_of_mem_filter hp
  · have hkeep := (List.mem_filter.1 hy).2
    simpa [hpart] using hkeep

/-! ### Rates and the pod table -/

/-- A tenant's rate at an entry of the table, where the entry is its own and is not 0. -/
def State.rateOf (s : State) (part i e : Nat) : Option (Nat × Nat × Nat) :=
  if (4 * Config.quadsPerDie ≤ i ∨ s.owner (qk (i / Config.quadsPerDie) (i % Config.quadsPerDie)) = some part) ∧ e % 2 ^ 32 ≠ 0
  then some (i, e % 2 ^ 32, e / 2 ^ 32 % 2 ^ 16) else none
theorem Window.same_iff (x y : Window) :
    x.same y = true ↔ x.inbound = y.inbound ∧ x.part = y.part ∧ x.pkg = y.pkg ∧ x.rpart = y.rpart := by
  simp only [Window.same, Bool.and_eq_true, beq_iff_eq, and_assoc]
theorem Window.distinct_iff (ws : List Window) : Window.distinct ws = true ↔
    ws.Pairwise fun x y => ¬(x.inbound = y.inbound ∧ x.part = y.part ∧ x.pkg = y.pkg ∧ x.rpart = y.rpart) := by
  induction ws with
  | nil => simp [Window.distinct]
  | cons w ws ih =>
    rw [Window.distinct, Bool.and_eq_true, ih, List.pairwise_cons, Bool.not_eq_true', List.any_eq_false]
    simp only [Window.same_iff]
theorem padTo_length (n : Nat) (bs : List Byte) : (padTo n bs).length = n := by
  rw [padTo, List.length_take, List.length_append, List.length_replicate]
  omega
end
end Sys2Proof.Machine
open Sys2Proof.Machine

theorem tenantCommands : Clause.TenantCommands := by
  intro s fn page c q ks part withP table keyed
  refine ⟨fun h hkeys hpart hpol => ?_, fun h hnone => ?_, fun h hsome => ?_, fun h hsome hasid => ?_, fun h hsome hkeys => ?_,
    fun h hsome => ?_, fun h => ?_, fun h hfn hq => ?_⟩
  · obtain ⟨hlo, hhi, hks, hsha⟩ := hkeys
    have htable := State.keyTable_of hlo hhi hks hsha
    have hfits : ¬(255 < part || c.arg 10 8 / 4 != 0) = true := by
      rw [Bool.or_eq_true, decide_eq_true_eq, bne_iff_ne]
      omega
    intro qs
    refine ⟨fun hthere => ?_, fun hnone howned => ?_, fun hnone hfree => ?_⟩
    · show execTenantCreate fn page s = _
      refine State.command1_done h ?_
      dsimp only
      rw [htable]
      exact (if_neg hfits).trans (if_pos (Option.isSome_iff_ne_none.2 hthere))
    · obtain ⟨k, hk, hown⟩ := howned
      show execTenantCreate fn page s = _
      refine State.command1_done h ?_
      dsimp only
      rw [htable]
      exact (if_neg hfits).trans ((if_neg (by simp [part, hnone])).trans (if_pos (List.any_eq_true.2 ⟨k, hk, Option.isSome_iff_ne_none.2 hown⟩)))
    · have hany : ¬(qs.any fun q => (s.owner q).isSome) = true := by
        rw [Bool.not_eq_true, List.any_eq_false]
        intro k hk
        rw [hfree k hk]
        exact Bool.false_ne_true
      have hexec : exec (.tenantCreate fn page) s = (State.giveQuads { s with parts := putRec (·.num) (Partition.fresh part (c.arg 10 8) ks) s.parts }
          part qs).resulted fn page 0 0 0 := by
        show execTenantCreate fn page s = _
        refine State.command1_done h ?_
        dsimp only
        rw [htable]
        exact (if_neg hfits).trans ((if_neg (by simp [part, hnone])).trans (if_neg hany))
      have howner := State.owner_giveQuads { s with parts := putRec (·.num) (Partition.fresh part (c.arg 10 8) ks) s.parts } part qs
      have hframe := State.giveQuads_eq { s with parts := putRec (·.num) (Partition.fresh part (c.arg 10 8) ks) s.parts } part qs
      generalize State.giveQuads _ part qs = w at hexec howner hframe
      refine ⟨_, hexec, ?_, fun k hk => (howner k).trans (if_pos hk), fun k hk => (howner k).trans (if_neg hk), ?_, ?_, ?_, ?_, fun e he k hk => ?_⟩
      · show w.parts.find? (·.num == part) = _
        rw [hframe]
        exact (find?_putRec Partition.num _ s.parts part).trans (if_pos rfl)
      · show w.threads = _
        rw [hframe]
        rfl
      · show w.domains = _
        rw [hframe]
        rfl
      · show w.keyCtr = _
        rw [hframe]
        rfl
      · show w.keySlots.find? _ = _
        rw [hframe]
        exact (find?_putRec Prod.fst _ s.keySlots part).trans (if_pos rfl)
      · have hkeyed : e ∈ w.empties := he
        rw [hframe] at hkeyed
        exact State.empties_keyed (part := part) hkeyed hk
  · show execTenantTeardown fn page s = _
    exact State.command1_done h (if_pos (Option.isNone_iff_eq_none.2 hnone))
  · have hexec : exec (.tenantTeardown fn page) s = (s.teardown part).resulted fn page 0 0 0 := by
      show execTenantTeardown fn page s = _
      exact State.command1_done h (if_neg (not_isNone_of_ne hsome))
    obtain ⟨hpart, hkeys, hrects, hconvs, hcopies, hobjs⟩ := s.without_teardown part
    exact ⟨_, hexec, hpart, hkeys, hrects, hconvs, hcopies, hobjs⟩
  · show execSetRoots fn page s = _
    refine State.command1_done h ((if_neg (not_isNone_of_ne hsome)).trans ((if_neg (by omega)).trans ?_))
    exact congrArg (Ans.done 0 0 0) (s.modPart_eq part _)
  · obtain ⟨hlo, hhi, hks, hsha⟩ := hkeys
    show execSetKeys fn page s = _
    refine State.command1_done h ((if_neg (not_isNone_of_ne hsome)).trans ?_)
    rw [State.keyTable_of hlo hhi hks hsha]
    exact congrArg (Ans.done 0 0 0) (s.modPart_eq part _)
  · intro e n
    have hany : ((List.range (n + 4)).map fun i => (i, e i)).any (fun e => e.2 / 2 ^ 48 != 0) = true ↔ ∃ i, i < n + 4 ∧ 2 ^ 48 ≤ e i := by
      simp only [List.any_map, List.any_eq_true, List.mem_range, Function.comp, bne_iff_ne]
      exact exists_congr fun i => and_congr_right fun _ => by omega
    refine ⟨fun hbig => ?_, fun hfit => ?_⟩
    · show execSetRates fn page s = _
      exact State.command1_done h ((if_neg (not_isNone_of_ne hsome)).trans (if_pos (hany.2 hbig)))
    · have hsmall : ¬∃ i, i < n + 4 ∧ 2 ^ 48 ≤ e i := fun ⟨i, hi, hle⟩ => absurd (hfit i hi) (Nat.not_lt.2 hle)
      show execSetRates fn page s = _
      refine State.command1_done h ((if_neg (not_isNone_of_ne hsome)).trans ((if_neg (fun hb => hsmall (hany.1 hb))).trans ?_))
      refine (congrArg (Ans.done 0 0 0) (s.modPart_eq part _)).trans ?_
      rw [List.filterMap_map]
      have hrate (i : Nat) : (if (decide (4 * Config.quadsPerDie ≤ i) || s.owner (qk (i / Config.quadsPerDie) (i % Config.quadsPerDie)) == some part) &&
          e i % 2 ^ 32 != 0 then some (i, e i % 2 ^ 32, bits (e i) 47 32) else none) = s.rateOf part i (e i) := by
        refine if_congr ?_ rfl rfl
        rw [Bool.and_eq_true, Bool.or_eq_true, decide_eq_true_eq, beq_iff_eq, bne_iff_ne]
      have hrates := congrArg (List.filterMap · (List.range (n + 4))) (funext hrate)
      exact congrArg (fun rates => Ans.done 0 0 0 (withP fun x => { x with rates := rates, buckets := [] })) hrates
  · intro age drift at' self n members ws good
    have hgood : (age < 64 || 4096 < age || drift < 11 || 40 < drift || Config.podPackages ≤ self || 16384 < n ||
       s.hostRead (at' + 4) 12 != 0 || !tbit members self || ws.any (·.isNone) || !Window.distinct (ws.filterMap id)) = true ↔ ¬good := by
      rw [← not_iff_not, not_not]
      simp only [good, Bool.or_eq_true, not_or, decide_eq_true_eq, Nat.not_lt, Nat.not_le, bne_iff_ne, ne_eq, not_not, Bool.not_eq_true',
        Bool.not_eq_false, and_assoc, Window.distinct_iff, List.any_eq_true, Option.isNone_iff_eq_none, not_exists, not_and, tbit, beq_iff_eq]
    refine ⟨fun hbad => ?_, fun hok hself hlive => ?_, fun hok hfree => ?_⟩
    · show execSetFabric fn page s = _
      exact State.command1_done h (if_pos (hgood.2 hbad))
    · show execSetFabric fn page s = _
      refine State.command1_done h ((if_neg fun hb => hgood.1 hb hok).trans (if_pos ?_))
      rw [hlive, Bool.and_true]
      exact bne_iff_ne.2 hself
    · show execSetFabric fn page s = _
      refine State.command1_done h ((if_neg fun hb => hgood.1 hb hok).trans (if_neg ?_))
      rw [Bool.and_eq_true, bne_iff_ne]
      rintro ⟨hself, hlive⟩
      exact hfree.elim hself fun hno => Bool.false_ne_true (hno.symm.trans hlive)
  · show execAttest fn page s = _
    refine State.command1_done h ((State.onPart_of hfn hq _).trans ?_)
    refine (congrArg (fun n => Ans.done 0 n 0 _) ?_)
    rw [List.length_append, padTo_length]
end

section
/-!
SUPPORT. Loading an object, and the host's own writes (22 R376, R381; 04 R84; 08 R154).
-/
open Sys2Proof
namespace Sys2Proof.Machine

/-- A write of the host where no thread waits at a barrier object. -/
theorem State.homeWrite_of_noWaiter {s : State} (h : s.barWaits = []) (k : Nat) (bs : List Byte) : s.homeWrite k bs = s.writeBytes k bs := by
  rw [State.homeWrite, h]
  rfl
end Sys2Proof.Machine
open Sys2Proof.Machine

theorem loadAndHostWrites : Clause.LoadAndHostWrites := by
  intro s s1 s2 fn page c p text data ts ds addr bs f z nums asid
  have hthere (hroots : p.roots.any (·.1 == asid) = true) : ¬(!p.roots.any (·.1 == asid)) = true := by
    rw [hroots]
    exact Bool.false_ne_true
  refine ⟨fun h hfn hp => ⟨fun hroots => ?_, fun hroots => ⟨fun n hcode => ?_, fun hcode hroom => ⟨fun hplace => ?_, fun hplace hplace' => ?_⟩⟩⟩,
    fun hbar haddr => ⟨fun hsel hlen => ?_, fun hsel hlen => ?_⟩⟩
  · show execLoad fn page s = _
    exact State.command1_done h ((State.onPart_of hfn hp _).trans (if_pos (by rw [hroots]; rfl)))
  · show execLoad fn page s = _
    refine State.command1_done h ((State.onPart_of hfn hp _).trans ((if_neg (hthere hroots)).trans ?_))
    rw [hcode]
  · show execLoad fn page s = _
    refine State.command1_done h ((State.onPart_of hfn hp _).trans ((if_neg (hthere hroots)).trans ?_))
    rw [hcode]
    refine (if_neg (by rw [← List.countP_eq_length_filter]; omega)).trans ?_
    rw [show s.placeAt p.num asid needX (z.extent 0) [] = none from hplace]
    rfl
  · show execLoad fn page s = _
    refine State.command1_done h ((State.onPart_of hfn hp _).trans ((if_neg (hthere hroots)).trans ?_))
    rw [hcode]
    refine (if_neg (by rw [← List.countP_eq_length_filter]; omega)).trans ?_
    rw [show s.placeAt p.num asid needX (z.extent 0) [] = some ((text, ts), s1) from hplace]
    dsimp only
    rw [show s1.placeAt p.num asid needR (z.extent 3) ts = some ((data, ds), s2) from hplace']
  · have hkey : dramKey (addr % 2 ^ 60) = addr := by
      rw [dramKey]
      omega
    have hexec : exec (.hostPostedWrite addr bs) s =
        .next (if Config.hostView s.clock (addr % 2 ^ 60) bs.length = true then s.writeBytes addr bs else s) := by
      show execHostPostedWrite addr bs s = _
      rw [execHostPostedWrite, keySel, hsel, hkey, ← State.homeWrite_of_noWaiter hbar]
      cases Config.hostView s.clock (addr % 2 ^ 60) bs.length with
      | true => exact if_pos (by simpa using hlen)
      | false => exact (if_neg (by simp)).trans (if_neg (by simp))
    refine ⟨_, hexec, ?_⟩
    by_cases hview : Config.hostView s.clock (addr % 2 ^ 60) bs.length = true
    · rw [if_pos hview, if_pos hview]
      rfl
    · rw [if_neg hview, if_neg hview]
  · have hkey : hostKey (addr % 2 ^ 60) = addr := by
      rw [hostKey]
      omega
    have hexec : exec (.hostPostedWrite addr bs) s = .next (s.writeBytes addr bs) := by
      show execHostPostedWrite addr bs s = _
      rw [execHostPostedWrite, keySel, hsel, hkey]
      refine (if_neg (by simp)).trans ((if_pos (by simpa using hlen)).trans ?_)
      rw [State.homeWrite_of_noWaiter hbar]
    exact ⟨_, hexec, rfl⟩

/-- Settles O49. A command that is due comes to what its step answers; the end of a domain takes its threads from the roll, and a
teardown leaves nothing of the tenant. -/
theorem hostCommands : Obligations.HostCommands := ⟨domainCommands, tenantCommands, loadAndHostWrites⟩
end

section
/-!
SUPPORT. The encoder and the decoder of a head agree (03 R52 to R54, R58, R59): its half-words hold its fields apart, and the table of
the decoder reads the fields that the table of the encoder writes.
-/
namespace Sys2Proof

/-! ### Fields in half-words -/

/-- The operand fields, each inside its width (03 R53, R54). -/
def RawOp.operandsInRange (r : RawOp) : Prop :=
  r.op < 256 ∧ r.d < 32 ∧ r.a < 32 ∧ r.b < 32 ∧ r.m < 64 ∧ r.c < 32 ∧ r.e < 128 ∧ r.imm < 2 ^ 32
/-- The fields that belong to a head and not to its instruction, each inside its width (03 R53, R58). -/
def RawOp.controlInRange (r : RawOp) : Prop := r.tl < 4 ∧ r.bp < 2 ∧ r.p < 8 ∧ r.pn < 2

section
variable {r : RawOp}

theorem RawOp.head_fields (ho : r.operandsInRange) (hc : r.controlInRange) :
    r.head / 256 % 256 = r.op ∧ r.head / 64 % 4 = r.tl ∧ r.head / 32 % 2 = r.bp ∧ r.head % 32 = r.d := by
  obtain ⟨hop, hd, -⟩ := ho
  obtain ⟨htl, hbp, -⟩ := hc
  rw [RawOp.head]
  omega
theorem RawOp.t1_fields (ho : r.operandsInRange) : r.t1 / 2048 % 32 = r.a ∧ r.t1 / 64 % 32 = r.b ∧ r.t1 % 64 = r.m := by
  obtain ⟨-, -, ha, hb, hm, -⟩ := ho
  rw [RawOp.t1]
  omega
theorem RawOp.t2_fields (ho : r.operandsInRange) (hc : r.controlInRange) :
    r.t2 / 8192 % 8 = r.p ∧ r.t2 / 4096 % 2 = r.pn ∧ r.t2 / 128 % 32 = r.c ∧ r.t2 % 128 = r.e := by
  obtain ⟨-, -, -, -, -, hc', he, -⟩ := ho
  obtain ⟨-, -, hp, hpn⟩ := hc
  rw [RawOp.t2]
  omega

/-- A half-word that its tail format leaves out holds only zero fields. -/
theorem RawOp.t1_of_fits (h : r.fits = true) : (if 1 ≤ r.tl then r.t1 else 0) = r.t1 := by
  split
  · rfl
  next hshort =>
    simp only [RawOp.fits, hshort, decide_false, Bool.false_or, Bool.and_eq_true, beq_iff_eq] at h
    obtain ⟨⟨⟨⟨ha, hb⟩, hm⟩, -⟩, -⟩ := h
    rw [RawOp.t1, ha, hb, hm]
theorem RawOp.t2_of_fits (h : r.fits = true) : (if 2 ≤ r.tl then r.t2 else 0) = r.t2 := by
  split
  · rfl
  next hshort =>
    simp only [RawOp.fits, hshort, decide_false, Bool.false_or, Bool.and_eq_true, beq_iff_eq] at h
    obtain ⟨⟨-, ⟨⟨hp, hpn⟩, hc⟩, he⟩, -⟩ := h
    rw [RawOp.t2, hp, hpn, hc, he]
theorem RawOp.imm_of_fits (h : r.fits = true) (ho : r.operandsInRange) :
    (if r.tl = 3 then r.imm % 65536 % 65536 + 65536 * (r.imm / 65536 % 65536) else 0) = r.imm := by
  obtain ⟨-, -, -, -, -, -, -, himm⟩ := ho
  split
  · omega
  next hshort =>
    simp only [RawOp.fits, beq_eq_false_iff_ne.2 hshort, Bool.false_or, Bool.and_eq_true, beq_iff_eq] at h
    obtain ⟨-, hzero⟩ := h
    exact hzero.symm

/-- Half-word `k` of the tail as it is stored. -/
theorem RawOp.stored_tail {k : Nat} (hk : k < tailLen r.tl) : ((List.range (tailLen r.tl)).map r.tail).getD k 0 = r.tail k := by
  simp [List.getD, hk]
/-- The half-words of a head and its tail give its fields back. -/
theorem rawOf_head (ho : r.operandsInRange) (hc : r.controlInRange) (hfits : r.fits = true) {t : Nat → Nat}
    (ht : ∀ k, k < tailLen r.tl → t k = r.tail k) : rawOf r.head t = r := by
  obtain ⟨hop, htl, hbp, hd⟩ := RawOp.head_fields ho hc
  obtain ⟨ha, hb, hm⟩ := RawOp.t1_fields ho
  obtain ⟨hp, hpn, hc', he⟩ := RawOp.t2_fields ho hc
  have h1 : (if 1 ≤ r.tl then t 0 else 0) = r.t1 := by
    rw [← RawOp.t1_of_fits hfits]
    exact if_ctx_congr Iff.rfl (fun h => ht 0 (by rw [tailLen]; split <;> omega)) fun _ => rfl
  have h2 : (if 2 ≤ r.tl then t 1 else 0) = r.t2 := by
    rw [← RawOp.t2_of_fits hfits]
    exact if_ctx_congr Iff.rfl (fun h => ht 1 (by rw [tailLen]; split <;> omega)) fun _ => rfl
  have himm : (if r.tl = 3 then t 2 % 65536 + 65536 * (t 3 % 65536) else 0) = r.imm := by
    rw [← RawOp.imm_of_fits hfits ho]
    refine if_ctx_congr Iff.rfl (fun h => ?_) fun _ => rfl
    rw [ht 2 (by rw [h]; decide), ht 3 (by rw [h]; decide)]
    rfl
  simp only [rawOf, htl, h1, h2, himm, hop, hbp, hd, ha, hb, hm, hp, hpn, hc', he]
end

/-! ### Codes that share a field with others -/

theorem reg_val (r : Reg) : reg r.val = r := Fin.ofNat_val_eq_self r
theorem preg_val (p : PReg) : preg p.val = p := Fin.ofNat_val_eq_self p

theorem ElW.code_lt (w : ElW) : w.code < 64 := by cases w <;> decide
theorem ElW.ofCode_code (w : ElW) : ElW.ofCode w.code = w := by cases w <;> rfl

section
variable (u : Bool) (w : ElW)
theorem signWidth_lt : 4 * u.toNat + w.code < 64 := by cases u <;> cases w <;> decide
theorem ofCode_signWidth : ElW.ofCode (4 * u.toNat + w.code) = w := by cases u <;> cases w <;> rfl
theorem bit_signWidth : bit (4 * u.toNat + w.code) 2 = u := by cases u <;> cases w <;> rfl
end

theorem MemW.code_lt (mw : MemW) : mw.code < 64 := by cases mw <;> decide
theorem MemW.ofCode_code (mw : MemW) : MemW.ofCode mw.code = mw := by cases mw <;> rfl

section
variable (sc : Scope) (x : Bool) (mw : MemW)
theorem extWidth_lt : 4 * x.toNat + mw.code < 64 := by cases x <;> cases mw <;> decide
theorem ofCode_extWidth : MemW.ofCode (4 * x.toNat + mw.code) = mw := by cases x <;> cases mw <;> rfl
theorem bit_extWidth : bit (4 * x.toNat + mw.code) 2 = x := by cases x <;> cases mw <;> rfl

theorem scopeWidth_lt : 8 * sc.val + mw.code < 64 := by cases mw <;> decide +revert
theorem ofCode_scopeWidth : MemW.ofCode (8 * sc.val + mw.code) = mw := by cases mw <;> decide +revert
theorem scope_scopeWidth : Fin.ofNat 8 ((8 * sc.val + mw.code) / 8) = sc := by cases mw <;> decide +revert

theorem scopeExtWidth_lt : 8 * sc.val + 4 * x.toNat + mw.code < 64 := by cases mw <;> decide +revert
theorem ofCode_scopeExtWidth : MemW.ofCode (8 * sc.val + 4 * x.toNat + mw.code) = mw := by cases mw <;> decide +revert
theorem bit_scopeExtWidth : bit (8 * sc.val + 4 * x.toNat + mw.code) 2 = x := by cases mw <;> decide +revert
theorem scope_scopeExtWidth : Fin.ofNat 8 ((8 * sc.val + 4 * x.toNat + mw.code) / 8) = sc := by cases mw <;> decide +revert
end

section
variable (red : Fin 4) (sc : Scope)
theorem redScope_lt : 16 * red.val + sc.val < 64 := by omega
theorem red_redScope : Fin.ofNat 4 ((16 * red.val + sc.val) / 16) = red := by decide +revert
theorem scope_redScope : Fin.ofNat 8 (16 * red.val + sc.val) = sc := by decide +revert
theorem bit_redScope : bit (16 * red.val + sc.val) 3 = false := by decide +revert
theorem drainRedScope_lt : 8 + 16 * red.val + sc.val < 64 := by omega
theorem red_drainRedScope : Fin.ofNat 4 ((8 + 16 * red.val + sc.val) / 16) = red := by decide +revert
theorem scope_drainRedScope : Fin.ofNat 8 (8 + 16 * red.val + sc.val) = sc := by decide +revert
theorem bit_drainRedScope : bit (8 + 16 * red.val + sc.val) 3 = true := by decide +revert
theorem bit_scope : bit sc.val 3 = false := by decide +revert
theorem drainScope_lt : 8 + sc.val < 64 := by omega
theorem scope_drainScope : Fin.ofNat 8 (8 + sc.val) = sc := by decide +revert
theorem bit_drainScope : bit (8 + sc.val) 3 = true := by decide +revert
end

section
variable (th : Bool) (fmt : Fin 16) (rm : Fin 8)
theorem handleFormat_lt : 16 * th.toNat + fmt.val < 64 := by decide +revert
theorem bit_handleFormat : bit (16 * th.toNat + fmt.val) 4 = th := by decide +revert
theorem format_handleFormat : Fin.ofNat 16 (16 * th.toNat + fmt.val) = fmt := by decide +revert
theorem handleRounding_lt : 8 * th.toNat + rm.val < 64 := by decide +revert
theorem bit_handleRounding : bit (8 * th.toNat + rm.val) 3 = th := by decide +revert
theorem rounding_handleRounding : Fin.ofNat 8 (8 * th.toNat + rm.val) = rm := by decide +revert
theorem flag_lt : th.toNat < 64 := by decide +revert
theorem bit_flag : bit th.toNat 0 = th := by decide +revert
end

section
variable (o : SigOp)
theorem SigOp.m_cases : o.m = 0 ∨ o.m = 1 := by
  cases o with
  | imm n => exact .inl rfl
  | ind r => exact .inr rfl
theorem SigOp.m_lt : o.m < 64 := by rcases o.m_cases with h | h <;> rw [h] <;> decide
theorem SigOp.prev_m_lt : 2 + o.m < 64 := by rcases o.m_cases with h | h <;> rw [h] <;> decide
theorem SigOp.b_lt : o.b < 32 := by
  cases o with
  | imm n => exact Nat.zero_lt_succ _
  | ind r => exact r.isLt
theorem SigOp.c_lt : o.c < 32 := by
  cases o with
  | imm n => exact Nat.div_lt_of_lt_mul n.isLt
  | ind r => exact Nat.zero_lt_succ _
theorem SigOp.e_lt : o.e < 128 := by
  cases o with
  | imm n => exact Nat.mod_lt _ (Nat.zero_lt_succ _)
  | ind r => exact Nat.zero_lt_succ _
theorem bit_sigCur : bit o.m 1 = false := by rcases o.m_cases with h | h <;> rw [h] <;> rfl
theorem bit_sigPrev : bit (2 + o.m) 1 = true := by rcases o.m_cases with h | h <;> rw [h] <;> rfl
theorem bit_sigPrev_indirect : bit (2 + o.m) 0 = bit o.m 0 := by rcases o.m_cases with h | h <;> rw [h] <;> rfl
/-- A signal number is split between two fields (03 R59). -/
theorem signalNumber_split (n : Fin 4096) : Fin.ofNat 4096 (128 * (n.val / 128) + n.val % 128) = n := by
  rw [Nat.div_add_mod]
  exact Fin.ofNat_val_eq_self n
/-- A signal operand is read from its four fields; of `m` it takes bit 0. -/
theorem SigOp.ofFields_of_bit (op tl bp d a m p pn imm : Nat) (hm : bit m 0 = bit o.m 0) :
    SigOp.ofFields ⟨op, tl, bp, d, a, o.b, m, p, pn, o.c, o.e, imm⟩ = o := by
  cases o with
  | imm n =>
    have hclear : bit m 0 = false := hm.trans (show bit 0 0 = false from rfl)
    rw [SigOp.ofFields, hclear]
    exact congrArg SigOp.imm (signalNumber_split n)
  | ind r =>
    have hset : bit m 0 = true := hm.trans (show bit 1 0 = true from rfl)
    rw [SigOp.ofFields, hset]
    exact congrArg SigOp.ind (reg_val r)
theorem SigOp.ofFields_cur (op tl bp d a p pn imm : Nat) : SigOp.ofFields ⟨op, tl, bp, d, a, o.b, o.m, p, pn, o.c, o.e, imm⟩ = o :=
  o.ofFields_of_bit op tl bp d a o.m p pn imm rfl
theorem SigOp.ofFields_prev (op tl bp d a p pn imm : Nat) : SigOp.ofFields ⟨op, tl, bp, d, a, o.b, 2 + o.m, p, pn, o.c, o.e, imm⟩ = o :=
  o.ofFields_of_bit op tl bp d a (2 + o.m) p pn imm (bit_sigPrev_indirect o)
end

/-! ### The tables -/

theorem imm_lt (imm : BitVec 32) : imm.toNat < 4294967296 := imm.isLt
theorem signalHigh_lt (n : Fin 4096) : n.val / 128 < 32 := by omega
theorem signalLow_lt (n : Fin 4096) : n.val % 128 < 128 := by omega
/-- Every operand lies inside its field, for each row of the encoder's table. -/
theorem fieldsOf_inRange (i : Instr) : ∀ f ∈ fieldsOf i, f.operandsInRange := by
  cases i <;> simp [fieldsOf, RawOp.operandsInRange, ElW.code_lt, signWidth_lt, MemW.code_lt, extWidth_lt, scopeWidth_lt, scopeExtWidth_lt,
    redScope_lt, drainRedScope_lt, drainScope_lt, handleFormat_lt, handleRounding_lt, flag_lt, SigOp.m_lt, SigOp.prev_m_lt, SigOp.b_lt,
    SigOp.c_lt, SigOp.e_lt, Fin.val_lt_of_le, imm_lt, signalHigh_lt, signalLow_lt]

section
variable {i : Instr} {f : RawOp} {tl bp p pn : Nat}

theorem tailOk_iff : tailOk i tl = true ↔ (tailRange i).1 ≤ tl ∧ tl ≤ (tailRange i).2 := by
  rw [tailOk, Bool.and_eq_true, decide_eq_true_eq, decide_eq_true_eq]
theorem tailOk_lt (h : tailOk i tl = true) : tl < 4 := by
  have hmax : (tailRange i).2 ≤ 3 := by cases i <;> simp [tailRange]
  have hle := (tailOk_iff.1 h).2
  omega

/-- The fields of an instruction in a head of given tail format, bundle bit and predicate. -/
def RawOp.inHead (f : RawOp) (tl bp p pn : Nat) : RawOp := { f with tl := tl, bp := bp, p := p, pn := pn }
theorem RawOp.inHead_operandsInRange (h : f.operandsInRange) : (f.inHead tl bp p pn).operandsInRange := h

/-- The fields in which a reserved one is looked for are the fields of the instruction: the object form of `bar` writes neither `b`
nor `c` (03 R59). -/
theorem judged_fieldsOf (hf : fieldsOf i = some f) : (f.inHead tl bp p pn).judged = f := by
  cases i <;> cases hf <;> simp [RawOp.inHead, RawOp.judged, RawOp.operands, bit_drainRedScope]

/-- The decoder's table reads the fields of each row of the encoder's. What the two leave to a condition is settled by the tail format
(the shifts, `fetchadd`, `fence`) or by a range of the row (`mov`, `bar`, `trap`, `srw`, `vmrgk`, `fjoin`). -/
theorem candidate_fieldsOf (hf : fieldsOf i = some f) (hw : wellFormed i = true) (ht : tailOk i tl = true) :
    candidate (f.inHead tl bp p pn) = some i := by
  obtain ⟨hmin, hmax⟩ := tailOk_iff.1 ht
  cases i <;> cases hf <;> simp only [RawOp.inHead, candidate, candidate0, candidate1, candidate2, candidate3, candidate4, candidate5,
    candidate6, candidate7, candidate8, candidate9, candidate10, candidate11, reg_val, preg_val, Fin.ofNat_val_eq_self,
    BitVec.ofNat_toNat, BitVec.setWidth_eq, ElW.ofCode_code, ofCode_signWidth, bit_signWidth, MemW.ofCode_code, ofCode_extWidth,
    bit_extWidth, ofCode_scopeWidth, scope_scopeWidth, ofCode_scopeExtWidth, bit_scopeExtWidth, scope_scopeExtWidth, red_redScope,
    scope_redScope, bit_redScope, red_drainRedScope, scope_drainRedScope, bit_drainRedScope, bit_scope, scope_drainScope, bit_drainScope,
    bit_handleFormat, format_handleFormat, bit_handleRounding, rounding_handleRounding, bit_flag, bit_sigCur, bit_sigPrev,
    SigOp.ofFields_cur, SigOp.ofFields_prev, signalNumber_split, Nat.reduceDiv, Nat.reduceEqDiff, true_and, and_self, if_true, if_false,
    Bool.false_eq_true]
  case shl.refl | shr.refl | sar.refl | rol.refl | fetchadd.refl => exact if_neg (Nat.ne_of_lt (Nat.lt_succ_of_le hmax))
  case shlImm.refl | shrImm.refl | sarImm.refl | rolImm.refl | fetchaddImm.refl => exact if_pos (Nat.le_antisymm hmax hmin)
  case fenceCore.refl => exact if_pos (Nat.le_zero.1 hmax)
  case fence.refl | fenceDrn.refl => exact if_neg (Nat.ne_of_gt hmin)
  case movFromSpecial.refl =>
    rw [wellFormed, Bool.and_eq_true, decide_eq_true_eq] at hw
    exact if_neg (by omega)
  case barObject.refl | fjoin.refl => exact if_neg (bne_iff_ne.1 hw)
  case vmrgkLocal.refl =>
    simp only [wellFormed, Bool.and_eq_true, bne_iff_ne] at hw
    obtain ⟨⟨⟨-, hb⟩, -⟩, -⟩ := hw
    exact if_neg hb
  case srw.refl =>
    simp only [wellFormed, Bool.and_eq_true, bne_iff_ne] at hw
    obtain ⟨⟨-, he⟩, -⟩ := hw
    exact if_neg he
  case trapNothing.refl d imm =>
    simp only [wellFormed, Bool.and_eq_true, bne_iff_ne] at hw
    obtain ⟨⟨h1, h2⟩, h3⟩ := hw
    rw [if_neg fun e : imm.toNat = 1 => h1 (BitVec.eq_of_toNat_eq e), if_neg fun e : imm.toNat = 2 => h2 (BitVec.eq_of_toNat_eq e),
      if_neg fun e : imm.toNat = 3 => h3 (BitVec.eq_of_toNat_eq e)]

theorem decodeFields_inHead (hf : fieldsOf i = some f) (hw : wellFormed i = true) (ht : tailOk i tl = true) :
    decodeFields (f.inHead tl bp p pn) = some i := by
  rw [decodeFields, candidate_fieldsOf hf hw ht, judged_fieldsOf hf]
  exact if_pos (Bool.and_eq_true_iff.2 ⟨decide_eq_true hf, ht⟩)
end

/-! ### A head and its words -/

section
variable {o : Op} {f : RawOp}

/-- The fields of a head: those of its instruction, and its own. -/
def Op.inHead (o : Op) (f : RawOp) : RawOp := f.inHead o.tl o.bp.toNat o.p.val o.pn.toNat
theorem Op.raw_of (hf : fieldsOf o.instr = some f) : o.raw = some (o.inHead f) := by
  rw [Op.raw, hf]
  rfl
theorem Op.fields_of_wf (h : o.wf = true) :
    ∃ f, fieldsOf o.instr = some f ∧ wellFormed o.instr = true ∧ tailOk o.instr o.tl = true ∧ (o.inHead f).fits = true := by
  cases hf : fieldsOf o.instr with
  | none =>
    rw [Op.wf, Op.raw, hf] at h
    exact absurd h Bool.false_ne_true
  | some f =>
    rw [Op.wf, Op.raw_of hf] at h
    simp only [Bool.and_eq_true] at h
    obtain ⟨⟨hw, ht⟩, hfits⟩ := h
    exact ⟨f, rfl, hw, ht, hfits⟩
theorem Op.inHead_controlInRange (ht : tailOk o.instr o.tl = true) : (o.inHead f).controlInRange :=
  ⟨tailOk_lt ht, o.bp.toNat_lt, o.p.isLt, o.pn.toNat_lt⟩
theorem encode_of (hf : fieldsOf o.instr = some f) :
    encode o = (o.inHead f).head :: (List.range (tailLen (o.inHead f).tl)).map (o.inHead f).tail := by
  rw [encode, Op.raw_of hf]
theorem toNat_beq_one (b : Bool) : (b.toNat == 1) = b := by cases b <;> rfl

/-- A head is decoded to its instruction, once its fields are read back. -/
theorem decodeHead_of_rawOf {head : Nat} {tail : Nat → Nat} (hraw : rawOf head tail = o.inHead f) (hf : fieldsOf o.instr = some f)
    (hw : wellFormed o.instr = true) (ht : tailOk o.instr o.tl = true) : decodeHead head tail = some o := by
  have hfields : decodeFields (o.inHead f) = some o.instr := decodeFields_inHead hf hw ht
  rw [decodeHead, hraw, hfields]
  simp only [Op.inHead, RawOp.inHead, toNat_beq_one, preg_val]
theorem decodeWords_encode (h : o.wf = true) : decodeWords (encode o) = some o := by
  obtain ⟨f, hf, hw, ht, hfits⟩ := Op.fields_of_wf h
  have hraw := rawOf_head (RawOp.inHead_operandsInRange (fieldsOf_inRange _ f hf)) (Op.inHead_controlInRange ht) hfits
    fun _ hk => RawOp.stored_tail hk
  rw [encode_of hf]
  exact decodeHead_of_rawOf hraw hf hw ht
end
end Sys2Proof

/-- Settles O59: the fields of every instruction lie in their widths and in its tail, so they are read back from the half-words; the
decoder's table then names the instruction, and no reserved field of it is set. -/
theorem roundTrip : Obligations.RoundTrip := fun _ => Sys2Proof.decodeWords_encode
end

section
/-!
SUPPORT. Transfers of control (05 R88 to R90): the rule of `State.branchTo` for a transfer that is not taken, for one to a legal target,
for one to an illegal target (03 R57) and for one whose target has no translation yet (11 R208), for an issue that follows no gang leader.
-/
open Sys2Proof
namespace Sys2Proof.Machine

section
variable {s t : State} {m n : Thread} {form : Bool} {pc k : Nat} {f : State → State}

/-! ### Targets -/

theorem tgtForm_iff {imm : BitVec 32} {slot : Fin 64} : tgtForm imm slot = true ↔ imm.toNat % 64 = 0 ∧ 1 ≤ slot.val ∧ slot.val ≤ 31 := by
  simp only [tgtForm, Bool.and_eq_true, beq_iff_eq, decide_eq_true_eq, and_assoc]
/-- The target of the PC-relative forms: the address of the line, the displacement and the slot (05 R85). -/
theorem State.tgt_eq (s : State) (imm : BitVec 32) (slot : Fin 64) : s.tgt imm slot =
    (BitVec.ofNat 64 (s.iss.pc / 64 * 64) + BitVec.signExtend 64 imm + BitVec.ofNat 64 slot.val).toNat := by
  rw [State.tgt, sxImm_eq]
  rfl

/-! ### The condition of `brc` -/

/-- The compare codes of 05 R88 as relations of two words. -/
def CcRelation (c : Nat) (x y : Word) : Prop :=
  match c with
  | 0 => x = y | 1 => x ≠ y | 2 => x.toInt < y.toInt | 3 => x.toInt ≤ y.toInt | 4 => y.toInt < x.toInt
  | 5 => y.toInt ≤ x.toInt | 6 => x.toNat < y.toNat | 7 => x.toNat ≤ y.toNat | 8 => y.toNat < x.toNat
  | _ => y.toNat ≤ x.toNat
theorem ccHolds_iff (c : Nat) (x y : Word) : ccHolds c x y = true ↔ CcRelation c x y :=
  match c with
  | 0 => beq_iff_eq
  | 1 => bne_iff_ne
  | 2 => BitVec.slt_iff_toInt_lt
  | 3 => BitVec.sle_iff_toInt_le
  | 4 => BitVec.slt_iff_toInt_lt
  | 5 => BitVec.sle_iff_toInt_le
  | 6 => decide_eq_true_iff
  | 7 => decide_eq_true_iff
  | 8 => decide_eq_true_iff
  | _ + 9 => decide_eq_true_iff

/-! ### The four ends of a transfer -/

section
variable (hf : s.iss.follow = none)
include hf

theorem State.branchTo_not_taken : s.branchTo false form pc f = (f s).ok := by
  rw [State.branchTo, hf]
  rfl
theorem State.branchTo_taken : s.branchTo true form pc f =
    s.toTarget form pc fun ok s => if ok = true then .next ((f s).jump pc) else .next (s.fault 4 pc) := by
  rw [State.branchTo, hf]
  rfl
theorem State.branchTo_legal (hform : form = true) (hok : s.targetOk s.iss.gid pc = true) (hmiss : s.targetMiss s.iss.gid pc = none) :
    s.branchTo true form pc f = .next ((f s).jump pc) := by
  rw [State.branchTo_taken hf, State.toTarget, if_pos hform, hmiss]
  exact if_pos hok
theorem State.branchTo_illegal (h : form = false ∨ s.targetOk s.iss.gid pc = false) :
    s.branchTo true form pc f = .next (s.fault 4 pc) := by
  rw [State.branchTo_taken hf, State.toTarget]
  cases form with
  | false => rfl
  | true =>
    have hok : s.targetOk s.iss.gid pc = false := h.resolve_left Bool.noConfusion
    rw [if_pos rfl, State.targetMiss_of_not_ok hok, hok]
    rfl
theorem State.branchTo_miss (hform : form = true) (hmiss : s.targetMiss s.iss.gid pc = some k) :
    s.branchTo true form pc f = .next (s.waitWalk 4 4 (k % 2 ^ 48) k) := by
  rw [State.branchTo_taken hf, State.toTarget, if_pos hform, hmiss]
  rfl

/-- After a change of the issuing thread, control is transferred. -/
theorem OnlyThread.jump (h : OnlyThread s t s.iss.gid n) (pc : Nat) :
    OnlyThread { s with iss := { s.iss with jumped := true } } (t.jump pc) s.iss.gid { n with pc := wd pc } := by
  have hiss := h.iss
  obtain ⟨ht, hn, hother⟩ := h
  have hjump : t.jump pc = ({ t with iss := { s.iss with jumped := true } } : State).modThread s.iss.gid fun x => { x with pc := wd pc } := by
    simp only [State.jump, State.modMe, State.modThread, hiss, hf, Option.getD_none]
  have hmoved : OnlyThread { s with iss := { s.iss with jumped := true } } { t with iss := { s.iss with jumped := true } } s.iss.gid n :=
    ⟨by rw [ht], hn, hother⟩
  rw [hjump]
  exact hmoved.trans (OnlyThread.modThread hmoved.thread? (fun x => { x with pc := wd pc }) fun _ => rfl)
end

section
variable (hi : s.issues m)
include hi

/-- An issue that is no gang follower's goes its own way (02 R29). -/
theorem State.issues.follow : s.iss.follow = none := by
  obtain ⟨-, -, -, hf, -⟩ := hi
  exact hf
/-- A transfer that writes a register beside it. -/
theorem State.put_jump (d : Reg) (v : Word) (pc : Nat) :
    OnlyThread { s with iss := { s.iss with jumped := true } } ((s.put d v).jump pc) s.iss.gid { m.setReg d.val v with pc := wd pc } := by
  obtain ⟨hm, -, hq, hf, -⟩ := hi
  exact (OnlyThread.put hm hq d v).jump hf pc

/-! ### The instructions that read registers -/

variable {a b d : Reg} {e : Fin 128} {slot : Fin 64} {imm : BitVec 32}

theorem State.brc_eq : exec (.brc e a b slot imm) s =
    s.branchTo (ccHolds e.val (m.reg a.val) (m.reg b.val)) (tgtForm imm slot) (s.tgt imm slot) id := by
  obtain ⟨hm, -, hq, -⟩ := hi
  show execBrc e a b slot imm s = _
  rw [execBrc, s.g_plain hm hq, s.g_plain hm hq]
theorem State.loop_eq : exec (.loop d slot imm) s =
    s.branchTo (m.reg d.val - 1 != 0) (tgtForm imm slot) (s.tgt imm slot) fun s => s.put d (m.reg d.val - 1) := by
  obtain ⟨hm, -, hq, -⟩ := hi
  show execLoop d slot imm s = _
  rw [execLoop, s.g_plain hm hq]
theorem State.brr_eq : exec (.brr a) s = s.branchTo true true (m.reg a.val).toNat id := by
  show execBrr a s = _
  rw [execBrr, State.gv_plain hi]
theorem State.ret_eq : exec (.ret a) s = s.branchTo true true (m.reg a.val).toNat id := State.brr_eq hi
end
end
end Sys2Proof.Machine

open Sys2Proof.Machine

theorem transfers : Clause.Transfers := by
  intro s m d a b e slot imm hi
  dsimp only
  rw [← State.tgt_eq]
  have hrelative (f : State → State) (h : (imm.toNat % 64 = 0 ∧ 1 ≤ slot.val ∧ slot.val ≤ 31) ∧
      s.targetOk s.iss.gid (s.tgt imm slot) = true ∧ s.targetMiss s.iss.gid (s.tgt imm slot) = none) :
      s.branchTo true (tgtForm imm slot) (s.tgt imm slot) f = .next ((f s).jump (s.tgt imm slot)) :=
    State.branchTo_legal hi.follow (tgtForm_iff.2 h.1) h.2.1 h.2.2
  refine ⟨State.ok_wentOn hi, fun h => ?br, fun _ hcc h => ?brcTaken, fun _ hcc => ?brcNotTaken, fun h => ?brr, fun h => ?ret,
    fun h => ?call, fun hleft h => ?loopAgain, fun hleft => ?loopEnds, fun k hform hmiss => ?brWaits, fun k hmiss => ?registerWaits⟩
  case br => exact ⟨_, hrelative id h, s.jump_wentTo hi _⟩
  case brcTaken =>
    have htaken : ccHolds e.val (m.reg a.val) (m.reg b.val) = true := (ccHolds_iff _ _ _).2 hcc
    rw [State.brc_eq hi, htaken]
    exact ⟨_, hrelative id h, s.jump_wentTo hi _⟩
  case brcNotTaken =>
    have hnot : ccHolds e.val (m.reg a.val) (m.reg b.val) = false := Bool.eq_false_iff.2 fun h => hcc ((ccHolds_iff _ _ _).1 h)
    rw [State.brc_eq hi, hnot, State.branchTo_not_taken hi.follow]
    exact State.ok_wentOn hi
  case brr =>
    rw [State.brr_eq hi]
    exact ⟨_, State.branchTo_legal hi.follow rfl h.1 h.2, s.jump_wentTo hi _⟩
  case ret =>
    rw [State.ret_eq hi]
    exact ⟨_, State.branchTo_legal hi.follow rfl h.1 h.2, s.jump_wentTo hi _⟩
  case call => exact ⟨_, hrelative (fun s => s.put d (wd s.iss.succ)) h, State.put_jump hi d _ _⟩
  case loopAgain =>
    rw [State.loop_eq hi, bne_iff_ne.2 hleft]
    exact ⟨_, hrelative _ h, State.put_jump hi d _ _⟩
  case loopEnds =>
    rw [State.loop_eq hi, bne_eq_false_iff_eq.2 hleft, State.branchTo_not_taken hi.follow]
    exact State.res_wrote hi d _
  case brWaits => exact State.branchTo_miss hi.follow (tgtForm_iff.2 hform) hmiss
  case registerWaits =>
    rw [State.brr_eq hi, State.ret_eq hi, State.branchTo_miss hi.follow rfl hmiss]
    exact ⟨rfl, rfl⟩

theorem transferTraps : Clause.TransferTraps := by
  intro s m d a slot imm hi
  dsimp only
  rw [← State.tgt_eq]
  refine ⟨fun h => ?_, fun h => ?_⟩
  · have hbad : tgtForm imm slot = false ∨ s.targetOk s.iss.gid (s.tgt imm slot) = false := by
      rw [Bool.eq_false_iff, ne_eq, tgtForm_iff]
      rcases h with h | h | h | hok
      case inr.inr.inr => exact .inr hok
      all_goals exact .inl (by omega)
    have htrap (f : State → State) : s.branchTo true (tgtForm imm slot) (s.tgt imm slot) f = .next (s.fault 4 (s.tgt imm slot)) :=
      State.branchTo_illegal hi.follow hbad
    refine ⟨htrap id, htrap fun s => s.put d (wd s.iss.succ), ?_, fun hone => ?_⟩
    · have htaken : ccHolds (0 : Fin 128).val (m.reg a.val) (m.reg a.val) = true := (ccHolds_iff _ _ _).2 rfl
      rw [State.brc_eq hi, htaken, htrap]
    · rw [State.loop_eq hi, bne_iff_ne.2 (sub_ne_zero.2 hone), htrap]
  · rw [State.brr_eq hi, State.ret_eq hi, State.branchTo_illegal hi.follow (.inr h)]
    exact ⟨rfl, rfl⟩

/-- Settles O7: every transfer is `branchTo`, which is taken or not by the condition, judges the form of its target first, waits for the
line's translation and then judges the target. -/
theorem controlTransfers : Obligations.ControlTransfers := ⟨transfers, transferTraps⟩
end

section
/-!
SUPPORT. Words and the encoder: what the encoder lays out for a well-formed head is decoded to that head (03 R52 to R54, R58), so a word
that the spec writes out is compared with the encoding of the instruction it stands for.
-/
namespace Sys2Proof

theorem decodeWords_of_encode {o : Op} {ws : List Nat} (hwords : encode o = ws) (hwf : o.wf = true) : decodeWords ws = some o :=
  hwords ▸ decodeWords_encode hwf
end Sys2Proof

open Sys2Proof

/-- Settles O56: each of the ten heads is well-formed and the encoder lays it out in the words of the spec, so the decoder reads it
back from them. -/
theorem decodeWords : Obligations.DecodeWords := by
  unfold Obligations.DecodeWords
  refine ⟨?brc, ?fence, ?add, ?sar, ?updcfg, ?bar, ?lrw, ?vmrgk, ?arrget, ?msnd⟩
  all_goals exact decodeWords_of_encode rfl rfl
end

section
/-!
SUPPORT. Packed elements (05 R85, R100): the elements of a word that a packed operation answers, and elements as numbers modulo the width.
-/
open Sys2Proof
namespace Sys2Proof.Machine

/-! ### Packing -/

theorem packEl_lt (w : Nat) (l : List Nat) : packEl w l < 2 ^ (w * l.length) := by
  induction l with
  | nil => simp [packEl]
  | cons e es ih =>
    have hlow : e % 2 ^ w < 2 ^ w := Nat.mod_lt _ (Nat.two_pow_pos w)
    have hhigh : 2 ^ w * (packEl w es + 1) ≤ 2 ^ w * 2 ^ (w * es.length) := Nat.mul_le_mul_left _ ih
    have hpow : 2 ^ (w * (e :: es).length) = 2 ^ w * 2 ^ (w * es.length) := by
      rw [List.length_cons, Nat.mul_succ, Nat.add_comm, Nat.pow_add]
    rw [packEl, hpow]
    rw [Nat.mul_add] at hhigh
    omega
theorem packEl_element (w : Nat) (l : List Nat) (j : Nat) : packEl w l / 2 ^ (w * j) % 2 ^ w = l.getD j 0 % 2 ^ w := by
  induction l generalizing j with
  | nil => simp [packEl]
  | cons e es ih =>
    have hlow : e % 2 ^ w < 2 ^ w := Nat.mod_lt _ (Nat.two_pow_pos w)
    cases j with
    | zero => simp [packEl]
    | succ j =>
      have htail : (e % 2 ^ w + 2 ^ w * packEl w es) / 2 ^ w = packEl w es := by
        rw [Nat.add_mul_div_left _ _ (Nat.two_pow_pos w), Nat.div_eq_of_lt hlow, Nat.zero_add]
      rw [packEl, Nat.mul_succ, Nat.add_comm (w * j), Nat.pow_add, ← Nat.div_div_eq_div_mul, htail, ih, List.getD_cons_succ]
theorem elems_getD {w n x j : Nat} (h : j < n / w) : (elems w n x).getD j 0 = x / 2 ^ (w * j) % 2 ^ w := by
  simp [elems, h]
theorem elems_length (w n x : Nat) : (elems w n x).length = n / w := by simp [elems]

/-! ### Element-wise functions -/

theorem elBits_mul (w : ElW) : elBits w * (64 / elBits w) = 64 := by cases w <;> rfl
/-- A packed word of as many elements as it has room for. -/
theorem el_packEl (w : ElW) {l : List Nat} (hl : l.length = 64 / elBits w) (j : Nat) :
    el (elBits w) j (wd (packEl (elBits w) l)) = l.getD j 0 % 2 ^ elBits w := by
  have hlt := packEl_lt (elBits w) l
  rw [hl, elBits_mul] at hlt
  rw [el, wd, BitVec.toNat_ofNat, Nat.mod_eq_of_lt hlt, packEl_element]
theorem el_map1 (w : ElW) (f : Nat → Nat) (x : Word) {j : Nat} (hj : j < 64 / elBits w) :
    el (elBits w) j (map1 (elBits w) f x) = f (el (elBits w) j x) % 2 ^ elBits w := by
  rw [map1, el_packEl w (by rw [List.length_map, elems_length])]
  simp [elems, hj, el]
theorem el_map2 (w : ElW) (f : Nat → Nat → Nat) (x y : Word) {j : Nat} (hj : j < 64 / elBits w) :
    el (elBits w) j (map2 (elBits w) f x y) = f (el (elBits w) j x) (el (elBits w) j y) % 2 ^ elBits w := by
  rw [map2, el_packEl w (by rw [List.length_zipWith, elems_length, elems_length, Nat.min_self])]
  simp [elems, hj, el]

/-! ### Elements as integers -/

theorem el_lt (n j : Nat) (x : Word) : el n j x < 2 ^ n := Nat.mod_lt _ (Nat.two_pow_pos n)
theorem unsignedOf_eq (n : Nat) (v : Int) : (unsignedOf n v : Int) = v % 2 ^ n := by
  have hpos : (0 : Int) < 2 ^ n := by positivity
  rw [unsignedOf, Nat.cast_pow, Nat.cast_ofNat, Int.toNat_of_nonneg (Int.emod_nonneg _ hpos.ne')]
theorem unsignedOf_modEq (n : Nat) (v : Int) : (unsignedOf n v : Int) ≡ v [ZMOD 2 ^ n] := by
  rw [unsignedOf_eq]
  exact Int.mod_modEq v _
/-- A number below 2^n as two's complement. -/
theorem signed_of_lt {n x : Nat} (h : x < 2 ^ n) : signed n x = if x < 2 ^ (n - 1) then (x : Int) else (x : Int) - 2 ^ n := by
  rw [signed, Nat.mod_eq_of_lt h]
  by_cases hx : x < 2 ^ (n - 1)
  · rw [if_neg (Nat.not_le.2 hx), if_pos hx]
  · rw [if_pos (Nat.not_lt.1 hx), if_neg hx]
theorem mod_two_pow_modEq (n x : Nat) : ((x % 2 ^ n : Nat) : Int) ≡ x [ZMOD 2 ^ n] := by
  rw [Int.natCast_mod, Nat.cast_pow, Nat.cast_ofNat]
  exact Int.mod_modEq _ _
theorem signed_modEq (n x : Nat) : signed n x ≡ x [ZMOD 2 ^ n] := by
  rw [signed]
  split
  · exact Int.sub_modulus_modEq_iff.2 (mod_two_pow_modEq n x)
  · exact mod_two_pow_modEq n x
theorem elInt_modEq (n : Nat) (u : Bool) (x : Nat) : elInt n u x ≡ x [ZMOD 2 ^ n] := by
  cases u with
  | true => exact mod_two_pow_modEq n x
  | false => exact signed_modEq n x
theorem elInt_el (n : Nat) (u : Bool) (j : Nat) (x : Word) : elInt n u (el n j x) = elVal u n j x := by
  have hlt := el_lt n j x
  cases u with
  | true => rw [elInt, elVal, if_pos rfl, Nat.mod_eq_of_lt hlt]; rfl
  | false => simp [elInt, elVal, signed_of_lt hlt]
theorem signed_el (n j : Nat) (x : Word) : signed n (el n j x) = elVal false n j x := elInt_el n false j x
theorem elVal_modEq (n : Nat) (u : Bool) (j : Nat) (x : Word) : (el n j x : Int) ≡ elVal u n j x [ZMOD 2 ^ n] := by
  rw [← elInt_el]
  exact (elInt_modEq n u _).symm

end Sys2Proof.Machine
end

section
/-!
SUPPORT. The results of 05 R101 to R106: elements of arithmetic, division and shifts modulo the width, counts of bits, and fields.
-/
open Sys2Proof
namespace Sys2Proof.Machine

/-! ### Elements of sums, products and quotients -/

section
variable {n x y : Nat} {X Y : Int} (hx : (x : Int) ≡ X [ZMOD 2 ^ n]) (hy : (y : Int) ≡ Y [ZMOD 2 ^ n])
include hx hy

theorem elAdd_modEq : (elAdd n x y : Int) ≡ X + Y [ZMOD 2 ^ n] :=
  (mod_two_pow_modEq n (x + y)).trans (by rw [Nat.cast_add]; exact hx.add hy)
theorem elSub_modEq : (elSub n x y : Int) ≡ X - Y [ZMOD 2 ^ n] := by
  have hle : y % 2 ^ n ≤ 2 ^ n := (Nat.mod_lt _ (Nat.two_pow_pos n)).le
  have hneg : (((2 ^ n - y % 2 ^ n : Nat)) : Int) ≡ 0 - Y [ZMOD 2 ^ n] := by
    rw [Nat.cast_sub hle, Nat.cast_pow, Nat.cast_ofNat]
    exact (Int.ModEq.symm (by simp [Int.ModEq])).sub ((mod_two_pow_modEq n y).trans hy)
  refine (mod_two_pow_modEq n _).trans ?_
  rw [Nat.cast_add, sub_eq_add_neg, ← zero_sub]
  exact hx.add hneg
theorem elMul_modEq : (elMul n x y : Int) ≡ X * Y [ZMOD 2 ^ n] :=
  (mod_two_pow_modEq n (x * y)).trans (by rw [Nat.cast_mul]; exact hx.mul hy)
end

section
variable {n : Nat} {u : Bool} {j : Nat} {x y : Word}

theorem elMulh_modEq : (elMulh n u (el n j x) (el n j y) : Int) ≡ elVal u n j x * elVal u n j y / 2 ^ n [ZMOD 2 ^ n] := by
  rw [elMulh, elInt_el, elInt_el, Nat.cast_pow, Nat.cast_ofNat]
  exact unsignedOf_modEq n _
theorem elMin_modEq : (elMin n u (el n j x) (el n j y) : Int) ≡
    (if elVal u n j y < elVal u n j x then elVal u n j y else elVal u n j x) [ZMOD 2 ^ n] := by
  rw [elMin, elInt_el, elInt_el]
  split
  · exact elVal_modEq n u j y
  · exact elVal_modEq n u j x
theorem elMax_modEq : (elMax n u (el n j x) (el n j y) : Int) ≡
    (if elVal u n j x < elVal u n j y then elVal u n j y else elVal u n j x) [ZMOD 2 ^ n] := by
  rw [elMax, elInt_el, elInt_el]
  split
  · exact elVal_modEq n u j y
  · exact elVal_modEq n u j x
theorem elAbs_modEq (v : Nat) : (elAbs n v : Int) ≡ |signed n v| [ZMOD 2 ^ n] := by
  rw [elAbs, ← Int.natCast_natAbs]
  exact unsignedOf_modEq n _
/-- An element is 0 exactly where its integer is. -/
theorem elVal_eq_zero_iff : elVal u n j y = 0 ↔ el n j y % 2 ^ n = 0 := by
  have hlt := el_lt n j y
  have hcast : ((el n j y : Nat) : Int) < 2 ^ n := by exact_mod_cast hlt
  rw [Nat.mod_eq_of_lt hlt, elVal]
  split
  · exact Int.natCast_eq_zero
  · rename_i hneg
    have hpos := Nat.two_pow_pos (n - 1)
    simp only [Bool.or_eq_true, decide_eq_true_eq, not_or, Nat.not_lt] at hneg
    omega
theorem elDiv_modEq : (elDiv n u (el n j x) (el n j y) : Int) ≡
    (if elVal u n j y = 0 then -1 else (elVal u n j x).tdiv (elVal u n j y)) [ZMOD 2 ^ n] := by
  simp only [elDiv, elInt_el, ← elVal_eq_zero_iff (u := u)]
  split
  · rw [Nat.cast_sub Nat.one_le_two_pow, Nat.cast_pow, Nat.cast_ofNat, Nat.cast_one, ← zero_sub (1 : Int)]
    exact Int.ModEq.sub_right 1 (by simp [Int.ModEq])
  · exact unsignedOf_modEq n _
theorem elRem_modEq : (elRem n u (el n j x) (el n j y) : Int) ≡
    (if elVal u n j y = 0 then elVal u n j x
     else elVal u n j x - elVal u n j y * (elVal u n j x).tdiv (elVal u n j y)) [ZMOD 2 ^ n] := by
  simp only [elRem, elInt_el, ← elVal_eq_zero_iff (u := u), ← Int.tmod_def]
  split
  · exact (mod_two_pow_modEq n _).trans (elVal_modEq n u j x)
  · exact unsignedOf_modEq n _

/-! ### Elements of shifts (05 R104) -/

theorem elShl_modEq (k : Nat) : (elShl n (el n j x) k : Int) ≡ (if n ≤ k then 0 else ((el n j x * 2 ^ k : Nat) : Int)) [ZMOD 2 ^ n] := by
  rw [elShl]
  split
  · rfl
  · exact mod_two_pow_modEq n _
theorem elShr_modEq (k : Nat) : (elShr n (el n j x) k : Int) ≡ (if n ≤ k then 0 else ((el n j x / 2 ^ k : Nat) : Int)) [ZMOD 2 ^ n] := by
  rw [elShr]
  split <;> rfl
/-- Shifting right by the width or more leaves the sign alone. -/
theorem ediv_two_pow_min {v : Int} (hlow : -2 ^ n ≤ v) (hhigh : v < 2 ^ n) (k : Nat) : v / (2 ^ min k n : Nat) = v / 2 ^ k := by
  rw [Nat.cast_pow, Nat.cast_ofNat]
  rcases Nat.le_total k n with h | h
  · rw [Nat.min_eq_left h]
  · have hpow : (2 : Int) ^ n ≤ 2 ^ k := pow_le_pow_right₀ (by decide) h
    rw [Nat.min_eq_right h]
    rcases lt_or_ge v 0 with hv | hv
    · rw [Int.ediv_eq_neg_one_of_neg_of_le hv (by omega), Int.ediv_eq_neg_one_of_neg_of_le hv (by omega)]
    · rw [Int.ediv_eq_zero_of_lt hv hhigh, Int.ediv_eq_zero_of_lt hv (by omega)]
theorem signed_bounds (n v : Nat) : -2 ^ n ≤ signed n v ∧ signed n v < 2 ^ n := by
  have hcast : ((v % 2 ^ n : Nat) : Int) < 2 ^ n := by exact_mod_cast Nat.mod_lt v (Nat.two_pow_pos n)
  dsimp only [signed]
  split <;> omega
theorem elSar_modEq (v k : Nat) : (elSar n v k : Int) ≡ signed n v / 2 ^ k [ZMOD 2 ^ n] := by
  obtain ⟨hlow, hhigh⟩ := signed_bounds n v
  rw [elSar, ediv_two_pow_min hlow hhigh]
  exact unsignedOf_modEq n _
theorem elRol_modEq (k : Nat) : (elRol n (el n j x) k : Int) ≡
    ((el n j x * 2 ^ (k % n) + el n j x / 2 ^ (n - k % n) : Nat) : Int) [ZMOD 2 ^ n] := by
  rw [elRol, Nat.cast_add, Nat.cast_add]
  exact (mod_two_pow_modEq n _).add_right _
end

/-! ### Packed instructions -/

section
variable {s : State} {m : Thread} (hi : s.issues m) {i : Instr} {d a b : Reg} {w : ElW}
include hi

/-- An instruction that writes a word of the elements given. -/
theorem State.gives_of_res {v : Word} {g : Nat → Int} (hexec : exec i s = s.res d v)
    (hv : ∀ j < 64 / elBits w, (el (elBits w) j v : Int) ≡ g j [ZMOD 2 ^ elBits w]) : Gives i s d (elBits w) g := by
  obtain ⟨t, ht, hwrote⟩ := State.res_wrote hi d v
  refine ⟨t, v, hexec.trans ht, hwrote, fun j hj => ?_⟩
  rw [← hv j hj, ← Nat.cast_ofNat (n := 2), ← Nat.cast_pow, ← Int.natCast_mod, Nat.mod_eq_of_lt (el_lt _ j v)]
theorem State.gives_packed {f : Nat → Nat → Nat → Nat} {g : Nat → Int} (hexec : exec i s = s.packed d a b w f)
    (hf : ∀ j, (f (elBits w) (el (elBits w) j (m.reg a.val)) (el (elBits w) j (m.reg b.val)) : Int) ≡ g j [ZMOD 2 ^ elBits w]) :
    Gives i s d (elBits w) g := by
  obtain ⟨hm, -, hq, -⟩ := id hi
  rw [State.packed, s.g_plain hm hq, s.g_plain hm hq] at hexec
  refine State.gives_of_res hi hexec fun j hj => ?_
  rw [el_map2 w _ _ _ hj]
  exact (mod_two_pow_modEq _ _).trans (hf j)
theorem State.gives_map1 {f : Nat → Nat} {g : Nat → Int} (hexec : exec i s = s.res d (map1 (elBits w) f (s.g a)))
    (hf : ∀ j, (f (el (elBits w) j (m.reg a.val)) : Int) ≡ g j [ZMOD 2 ^ elBits w]) : Gives i s d (elBits w) g := by
  obtain ⟨hm, -, hq, -⟩ := id hi
  rw [s.g_plain hm hq] at hexec
  refine State.gives_of_res hi hexec fun j hj => ?_
  rw [el_map1 w _ _ hj]
  exact (mod_two_pow_modEq _ _).trans (hf j)
theorem State.gives_packedImm {imm : BitVec 32} {f : Nat → Nat → Nat → Nat} {g : Nat → Int} (hexec : exec i s = s.packedImm d a w imm f)
    (hf : ∀ j, (f (elBits w) (el (elBits w) j (m.reg a.val)) imm.toNat : Int) ≡ g j [ZMOD 2 ^ elBits w]) : Gives i s d (elBits w) g :=
  State.gives_map1 hi hexec hf
/-- `mad` adds to the elements of a product that is itself packed. -/
theorem State.gives_mad {c : Reg} (u : Bool) : Gives (.mad d a b c w) s d (elBits w) fun j =>
    elVal u (elBits w) j (m.reg a.val) * elVal u (elBits w) j (m.reg b.val) + elVal u (elBits w) j (m.reg c.val) := by
  obtain ⟨hm, -, hq, -⟩ := id hi
  have hexec : exec (.mad d a b c w) s = s.res d (map2 (elBits w) (elAdd (elBits w))
      (map2 (elBits w) (elMul (elBits w)) (m.reg a.val) (m.reg b.val)) (m.reg c.val)) := by
    show execMad d a b c w s = _
    rw [execMad, s.g_plain hm hq, s.g_plain hm hq, s.g_plain hm hq]
  refine State.gives_of_res hi hexec fun j hj => ?_
  rw [el_map2 w _ _ _ hj, el_map2 w _ _ _ hj]
  refine (mod_two_pow_modEq _ _).trans (elAdd_modEq ((mod_two_pow_modEq _ _).trans ?_) (elVal_modEq _ u j _))
  exact elMul_modEq (elVal_modEq _ u j _) (elVal_modEq _ u j _)
end

/-! ### Bits (05 R105, R106) -/

theorem leadZeros_spec (x n : Nat) : leadZeros x n ≤ n ∧ (∀ k, n - leadZeros x n ≤ k → k < n → tbit x k = false) ∧
    (leadZeros x n < n → tbit x (n - 1 - leadZeros x n) = true) := by
  induction n with
  | zero => simp [leadZeros]
  | succ n ih =>
    obtain ⟨hle, hzero, hone⟩ := ih
    rw [leadZeros]
    cases hbit : tbit x n with
    | true => exact ⟨Nat.zero_le _, fun k hk hk' => absurd hk' (Nat.not_lt.2 hk), fun _ => hbit⟩
    | false =>
      refine ⟨Nat.succ_le_succ hle, fun k hk hk' => ?_, fun h => ?_⟩
      · rcases Nat.lt_succ_iff_lt_or_eq.1 hk' with hlt | rfl
        · exact hzero k (by simpa using hk) hlt
        · exact hbit
      · have hsub : n + 1 - 1 - (leadZeros x n + 1) = n - 1 - leadZeros x n := by omega
        rw [if_neg Bool.false_ne_true] at h ⊢
        rw [hsub]
        exact hone (by omega)
theorem trailZeros_spec (x n k : Nat) : trailZeros x n k ≤ n ∧ (∀ i < trailZeros x n k, tbit x (k + i) = false) ∧
    (trailZeros x n k < n → tbit x (k + trailZeros x n k) = true) := by
  induction n generalizing k with
  | zero => simp [trailZeros]
  | succ n ih =>
    obtain ⟨hle, hzero, hone⟩ := ih (k + 1)
    rw [trailZeros]
    cases hbit : tbit x k with
    | true => exact ⟨Nat.zero_le _, fun i hi => absurd hi (Nat.not_lt_zero i), fun _ => hbit⟩
    | false =>
      refine ⟨Nat.succ_le_succ hle, fun i hi => ?_, fun h => ?_⟩
      · cases i with
        | zero => exact hbit
        | succ i => rw [← Nat.add_assoc, Nat.add_right_comm]; exact hzero i (by simpa using hi)
      · have h' := hone (by simpa using h)
        rwa [Nat.add_right_comm] at h'
theorem onesIn_eq (x n : Nat) : onesIn x n = (List.range n).countP fun k => tbit x k := by
  induction n with
  | zero => rfl
  | succ n ih =>
    rw [onesIn, ih, List.range_succ, List.countP_append, List.countP_singleton]
    cases tbit x n <;> rfl
/-- The bits reversed so far are the top ones. -/
theorem reversed_spec (x n : Nat) (hn : n ≤ 64) : ∃ r, reversed x n = 2 ^ (64 - n) * r ∧ ∀ k < n, r.testBit k = tbit x (n - 1 - k) := by
  induction n with
  | zero => exact ⟨0, rfl, fun k hk => absurd hk (Nat.not_lt_zero k)⟩
  | succ n ih =>
    obtain ⟨r, hr, hbits⟩ := ih (by omega)
    refine ⟨2 * r + (tbit x n).toNat, ?_, fun k hk => ?_⟩
    · have hpow : 2 ^ (64 - n) = 2 ^ (64 - (n + 1)) * 2 := by rw [← Nat.pow_succ]; congr 1; omega
      rw [reversed, hr, hpow, show 63 - n = 64 - (n + 1) by omega]
      ring
    · cases k with
      | zero => cases hbit : tbit x n <;> simp [hbit]
      | succ k =>
        have hhalf : (2 * r + (tbit x n).toNat) / 2 = r := by have := Bool.toNat_lt (tbit x n); omega
        rw [Nat.testBit_succ, hhalf, hbits k (by omega)]
        congr 1
        omega
theorem reversed_bit (x : Word) {k : Nat} (hk : k < 64) : (wd (reversed x.toNat 64)).getLsbD k = x.getLsbD (63 - k) := by
  obtain ⟨r, hr, hbits⟩ := reversed_spec x.toNat 64 le_rfl
  rw [hr, wd, BitVec.getLsbD_ofNat, ← tbit_toNat]
  simpa [hk] using hbits k hk
theorem signed_bitVec {n : Nat} (v : BitVec n) : signed n v.toNat = v.toInt := by
  rw [signed_of_lt v.isLt, BitVec.toInt_eq_toNat_cond]
  cases n with
  | zero => rw [BitVec.eq_nil v]; rfl
  | succ n =>
    have hpow : 2 ^ (n + 1) = 2 * 2 ^ n := by rw [Nat.pow_succ, Nat.mul_comm]
    rw [hpow, Nat.add_sub_cancel]
    exact if_congr (by omega) rfl (by push_cast; rw [pow_succ, Int.mul_comm])
/-- A field read as two's complement is its bits, the top one repeated. -/
theorem wdInt_signed_bit {n : Nat} (hn : 0 < n) (f : Nat) {k : Nat} (hk : k < 64) :
    (wdInt (signed n f)).getLsbD k = f.testBit (min k (n - 1)) := by
  have hfield : signed n f = (BitVec.ofNat n f).toInt := by
    rw [← signed_bitVec, BitVec.toNat_ofNat, signed, signed, Nat.mod_mod]
  have hext : wdInt (signed n f) = BitVec.signExtend 64 (BitVec.ofNat n f) := by rw [hfield]; rfl
  rw [hext, BitVec.getLsbD_signExtend, BitVec.msb_eq_getLsbD_last, BitVec.getLsbD_ofNat, BitVec.getLsbD_ofNat]
  by_cases h : k < n
  · simp [hk, h, Nat.min_eq_left (Nat.le_sub_one_of_lt h)]
  · simp [hk, h, hn, Nat.min_eq_right (Nat.le_trans (Nat.sub_le n 1) (Nat.not_lt.1 h))]
theorem setBits_testBit (x v : Nat) {lo n : Nat} (hn : 0 < n) (k : Nat) : (setBits x (lo + n - 1) lo v).testBit k =
    if lo ≤ k ∧ k < lo + n then v.testBit (k - lo) else x.testBit k := by
  have hwidth : lo + n - 1 + 1 - lo = n := by omega
  have hlow : x % 2 ^ lo < 2 ^ lo := Nat.mod_lt _ (Nat.two_pow_pos lo)
  have hsplit : setBits x (lo + n - 1) lo v = 2 ^ lo * (2 ^ n * (x / 2 ^ lo / 2 ^ n) + v % 2 ^ n) + x % 2 ^ lo := by
    have hx := Nat.div_add_mod x (2 ^ lo)
    have hhigh := Nat.div_add_mod (x / 2 ^ lo) (2 ^ n)
    rw [← hhigh] at hx
    rw [setBits, bits, hwidth]
    nth_rewrite 1 [← hx]
    rw [Nat.mul_add, Nat.mul_add, Nat.mul_comm (2 ^ lo) (x / 2 ^ lo % 2 ^ n), Nat.mul_comm (2 ^ lo) (v % 2 ^ n)]
    omega
  rw [hsplit, Nat.testBit_two_pow_mul_add _ hlow]
  split
  · rw [if_neg (by omega), Nat.testBit_mod_two_pow]
    simp [*]
  · rw [Nat.testBit_two_pow_mul_add _ (Nat.mod_lt _ (Nat.two_pow_pos n))]
    split
    · rw [if_pos (by omega), Nat.testBit_mod_two_pow]
      simp [*]
    · rw [if_neg (by omega), Nat.testBit_div_two_pow, Nat.testBit_div_two_pow]
      congr 1
      omega

end Sys2Proof.Machine
open Sys2Proof.Machine

theorem integerElements : Clause.IntegerElements := by
  intro s m d a b c u w imm hi
  dsimp only
  have val (v : Bool) (r : Reg) (j : Nat) := elVal_modEq (elBits w) v j (m.reg r.val)
  refine ⟨?add, ?sub, ?mul, ?mulh, ?min, ?max, ?abs, ?mad, ?addi⟩
  case add => exact State.gives_packed hi rfl fun j => elAdd_modEq (val u a j) (val u b j)
  case sub => exact State.gives_packed hi rfl fun j => elSub_modEq (val u a j) (val u b j)
  case mul => exact State.gives_packed hi rfl fun j => elMul_modEq (val u a j) (val u b j)
  case mulh => exact State.gives_packed (f := fun w => elMulh w u) hi rfl fun _ => elMulh_modEq
  case min => exact State.gives_packed (f := fun w => elMin w u) hi rfl fun _ => elMin_modEq
  case max => exact State.gives_packed (f := fun w => elMax w u) hi rfl fun _ => elMax_modEq
  case abs =>
    refine State.gives_map1 hi rfl fun j => ?_
    rw [← signed_el]
    exact elAbs_modEq _
  case mad => exact State.gives_mad hi u
  case addi =>
    obtain ⟨hm, -, hq, -⟩ := id hi
    refine State.puts_of_res hi ?_
    show execAddi d a imm s = _
    rw [execAddi, s.g_plain hm hq, sxImm_eq]

theorem bitResults : Clause.BitResults := by
  intro s m d a b pos e hi
  dsimp only
  have hm := hi.1
  obtain ⟨-, -, hq, -⟩ := id hi
  have logic {i : Instr} {f : Word → Word → Word} (hexec : exec i s = s.res d (f (s.g a) (s.g b))) :
      Puts i s d (f (m.reg a.val) (m.reg b.val)) := by
    rw [s.g_plain hm hq, s.g_plain hm hq] at hexec
    exact State.puts_of_res hi hexec
  have unary {i : Instr} {f : Nat → Word} (hexec : exec i s = s.res d (f (s.gv a))) : Puts i s d (f (m.reg a.val).toNat) := by
    rw [State.gv_plain hi] at hexec
    exact State.puts_of_res hi hexec
  refine ⟨logic (f := (· &&& ·)) rfl, logic (f := (· ||| ·)) rfl, logic (f := (· ^^^ ·)) rfl, logic (f := (· &&& ~~~·)) rfl,
    logic (f := (· ||| ~~~·)) rfl, ?clz, ?ctz, ?popc, ?brev, fun he hfit => ⟨?bfx, ?bfxSigned, ?bfi⟩⟩
  case clz =>
    obtain ⟨hle, hzero, hone⟩ := leadZeros_spec (m.reg a.val).toNat 64
    refine ⟨_, unary (f := fun x => wd (leadZeros x 64)) rfl, hle, fun k hk => ?_, fun h => ?_⟩
    · rcases Nat.lt_or_ge k 64 with hlt | hge
      · rw [← tbit_toNat, hzero k hk hlt]
      · exact BitVec.getLsbD_of_ge _ _ hge
    · rw [← tbit_toNat]
      exact hone h
  case ctz =>
    obtain ⟨hle, hzero, hone⟩ := trailZeros_spec (m.reg a.val).toNat 64 0
    simp only [tbit_toNat, Nat.zero_add] at hzero hone
    exact ⟨_, unary (f := fun x => wd (trailZeros x 64 0)) rfl, hle, hzero, hone⟩
  case popc =>
    have h := onesIn_eq (m.reg a.val).toNat 64
    simp only [tbit_toNat] at h
    rw [← h]
    exact unary (f := fun x => wd (onesIn x 64)) rfl
  case brev => exact ⟨_, unary (f := fun x => wd (reversed x 64)) rfl, fun k hk => reversed_bit _ hk⟩
  case bfx =>
    refine ⟨_, unary (f := fun x => wd (x / 2 ^ pos.val % 2 ^ e.val)) rfl, fun k hk => ?_⟩
    rw [wd, BitVec.getLsbD_ofNat, Nat.testBit_mod_two_pow, Nat.testBit_div_two_pow, Nat.add_comm k]
    by_cases h : k < e.val <;> simp [hk, h, BitVec.getLsbD]
  case bfxSigned =>
    refine ⟨_, unary (f := fun x => wdInt (signed e.val (x / 2 ^ pos.val % 2 ^ e.val))) rfl, fun k hk => ?_⟩
    have hin : min k (e.val - 1) < e.val := by omega
    rw [wdInt_signed_bit he _ hk, Nat.testBit_mod_two_pow, Nat.testBit_div_two_pow, Nat.add_comm (min k _)]
    simp [hin, BitVec.getLsbD]
  case bfi =>
    have hexec : exec (.bfi d a pos e) s = s.res d (wd (setBits (m.reg d.val).toNat (pos.val + e.val - 1) pos.val (m.reg a.val).toNat)) := by
      show execBfi d a pos e s = _
      rw [execBfi, State.gv_plain hi, State.gv_plain hi]
    refine ⟨_, State.puts_of_res hi hexec, fun k hk => ?_⟩
    rw [wd, BitVec.getLsbD_ofNat, setBits_testBit _ _ he, decide_eq_true hk, Bool.true_and]
    rfl

theorem shiftElements : Clause.ShiftElements := by
  intro s m d a b w imm hi
  dsimp only
  simp only [← signed_el]
  refine ⟨?shl, ?shlImm, ?shr, ?shrImm, ?sar, ?sarImm, ?rol, ?rolImm⟩
  case shl => exact State.gives_packed hi rfl fun _ => elShl_modEq _
  case shlImm => exact State.gives_packedImm hi rfl fun _ => elShl_modEq _
  case shr => exact State.gives_packed hi rfl fun _ => elShr_modEq _
  case shrImm => exact State.gives_packedImm hi rfl fun _ => elShr_modEq _
  case sar => exact State.gives_packed hi rfl fun _ => elSar_modEq _ _
  case sarImm => exact State.gives_packedImm hi rfl fun _ => elSar_modEq _ _
  case rol => exact State.gives_packed hi rfl fun _ => elRol_modEq _
  case rolImm => exact State.gives_packedImm hi rfl fun _ => elRol_modEq _

/-- Settles O1: what a packed instruction writes is known element by element modulo the width, and fields and counts bit by bit. -/
theorem integerResults : Obligations.IntegerResults := ⟨integerElements, shiftElements, bitResults⟩

/-- Settles O2: each element is the model's `elDiv` or `elRem`, whose zero divisor is decided first. -/
theorem divisionElements : Obligations.DivisionElements := by
  intro s m d a b u w hi
  exact ⟨State.gives_packed (f := fun w => elDiv w u) hi rfl fun _ => elDiv_modEq, State.gives_packed (f := fun w => elRem w u) hi rfl fun _ => elRem_modEq⟩
end

section
/-!
SUPPORT. Compares, selects and moves (05 R107 to R111), and registers: hard-wired ones (05 R85) and destinations that name a queue (20 R353).
-/
open Sys2Proof
namespace Sys2Proof.Machine

section
variable {s : State} {m : Thread} (hi : s.issues m)
include hi

theorem State.p_plain (r : PReg) : s.p r = m.pred r.val := by rw [State.p, hi.me]
/-- An instruction that writes what it makes of one register. -/
theorem State.puts_of_reg {i : Instr} {d a : Reg} {f : Word → Word} (hexec : exec i s = s.res d (f (s.g a))) : Puts i s d (f (m.reg a.val)) := by
  obtain ⟨hm, -, hq, -⟩ := id hi
  rw [s.g_plain hm hq] at hexec
  exact State.puts_of_res hi hexec
/-- An instruction that writes what it makes of its thread's record. -/
theorem State.puts_of_me {i : Instr} {d : Reg} {f : Thread → Word} (hexec : exec i s = s.res d (f s.me)) : Puts i s d (f m) := by
  rw [hi.me] at hexec
  exact State.puts_of_res hi hexec
theorem State.putsP_of_me {i : Instr} {p : PReg} {f : Thread → Bool} (hexec : exec i s = s.resP p (f s.me)) : PutsP i s p (f m) := by
  rw [hi.me] at hexec
  exact State.putsP_of_resP hi hexec
end

/-! ### Extensions of an element (05 R85, R111) -/

theorem sx_eq (n : Nat) (x : Word) : sx n x = BitVec.signExtend 64 (x.setWidth n) := by
  have h : signed n x.toNat = (x.setWidth n).toInt := by
    rw [← signed_bitVec, BitVec.toNat_setWidth, signed, signed, Nat.mod_mod]
  rw [sx, h]
  rfl
theorem zx_eq (n : Nat) (x : Word) : zx n x = BitVec.zeroExtend 64 (x.setWidth n) :=
  BitVec.eq_of_toNat_eq (by simp [zx, wd])
theorem wd_append (hi : BitVec 32) (x : Word) : wd (hi.toNat * 2 ^ 32 + x.toNat % 2 ^ 32) = hi ++ x.extractLsb' 0 32 := by
  have hlow : x.toNat % 2 ^ 32 < 2 ^ 32 := Nat.mod_lt _ (by decide)
  have hhigh := hi.isLt
  apply BitVec.eq_of_toNat_eq
  rw [BitVec.toNat_append, BitVec.extractLsb'_toNat, Nat.shiftRight_zero, wd, BitVec.toNat_ofNat, Nat.shiftLeft_eq, Nat.mod_eq_of_lt (by omega),
    Nat.mul_comm, Nat.two_pow_add_eq_or_of_lt hlow]

end Sys2Proof.Machine
open Sys2Proof.Machine

theorem compareResults : Clause.CompareResults := by
  intro s m pd pa pb pc d a b imm hi x i cc
  have hm := hi.1
  obtain ⟨-, -, hq, -⟩ := id hi
  have code (c : Nat) (y z : Word) : ccHolds c y z = cc c y z := by
    match c with
    | 0 => exact beq_eq_decide ..
    | 1 => exact Bool.eq_iff_iff.2 (bne_iff_ne.trans decide_eq_true_iff.symm)
    | 2 | 3 | 4 | 5 | 6 | 7 | 8 => rfl
    | _ + 9 => rfl
  have plog (op : Fin 64) : PutsP (.plog pd pa pb op) s pd (plogOp op.val (m.pred pa.val) (m.pred pb.val)) :=
    State.putsP_of_me hi (f := fun t => plogOp op.val (t.pred pa.val) (t.pred pb.val)) rfl
  refine ⟨fun c _ => ⟨?cmp, ?cmpi⟩, ?sel, plog 0, plog 1, ?xor, plog 3, plog 4, plog 5⟩
  case cmp =>
    refine State.putsP_of_resP hi ?_
    show execCmp pd a b c s = _
    rw [execCmp, s.g_plain hm hq, s.g_plain hm hq, code]
  case cmpi =>
    refine State.putsP_of_resP hi ?_
    show execCmpi pd a c imm s = _
    rw [execCmpi, s.g_plain hm hq, sxImm_eq, code]
  case sel =>
    refine State.puts_of_res hi ?_
    show execSel d pc a b s = _
    rw [execSel, State.p_plain hi, s.g_plain hm hq, s.g_plain hm hq]
  case xor => exact plog 2

theorem moveResults : Clause.MoveResults := by
  intro s m d a b pa pd w sh imm hi
  dsimp only
  have hm := hi.1
  obtain ⟨-, -, hq, -⟩ := id hi
  have special (n : Reg) : Puts (.movFromSpecial d n) s d (m.special n.val) := State.puts_of_me hi (f := (·.special n.val)) rfl
  refine ⟨?movi, ?moviZx, ?moviHi, State.puts_of_reg hi (f := id) rfl, special 2, special 3, fun k => ?args, special 8, special 9, ?fromPred, ?toPred,
    ?lea, ?sext, ?zext⟩
  case movi =>
    refine State.puts_of_res hi ?_
    show execMovi d imm s = _
    rw [execMovi, sxImm_eq]
  case moviZx =>
    refine State.puts_of_res hi ?_
    show execMoviZx d imm s = _
    rw [execMoviZx]
    congr 1
    exact BitVec.eq_of_toNat_eq (by simp [wd])
  case moviHi =>
    refine State.puts_of_res hi ?_
    show execMoviHi d imm s = _
    rw [execMoviHi, State.gv_plain hi, wd_append]
  case args =>
    fin_cases k
    exacts [special 4, special 5, special 6, special 7]
  case fromPred =>
    refine State.puts_of_res hi ?_
    show execMovFromPred d pa s = _
    rw [execMovFromPred, State.p_plain hi]
    cases m.pred pa.val <;> rfl
  case toPred =>
    refine State.putsP_of_resP hi ?_
    show execMovToPred pd a s = _
    rw [execMovToPred, s.g_plain hm hq]
    congr 1
    exact Bool.eq_iff_iff.2 (bne_iff_ne.trans decide_eq_true_iff.symm)
  case lea =>
    refine State.puts_of_res hi ?_
    show execLea d a b sh imm s = _
    rw [execLea, s.g_plain hm hq, s.g_plain hm hq, sxImm_eq]
    congr 3
    exact BitVec.eq_of_toNat_eq (by simp [Nat.shiftLeft_eq])
  case sext => exact sx_eq (elBits w) (m.reg a.val) ▸ State.puts_of_reg hi (f := sx (elBits w)) rfl
  case zext => exact zx_eq (elBits w) (m.reg a.val) ▸ State.puts_of_reg hi (f := zx (elBits w)) rfl

/-- Settles O3: each is one write of a result made of the registers, the predicates or the record of the issuing thread. -/
theorem comparesAndMoves : Obligations.ComparesAndMoves := ⟨compareResults, moveResults⟩

theorem registerFile : Clause.RegisterFile := by
  intro t r q p o v b
  have hr : r ≠ 0 → r.val ≠ 0 := fun h h0 => h (Fin.ext h0)
  have hp : p ≠ 0 → p.val ≠ 0 := fun h h0 => h (Fin.ext h0)
  refine ⟨t.reg_zero, t.setReg_zero v, fun h => ?_, fun h => ?_, by rw [t.setReg_eq], t.pred_zero, rfl, fun h => ?_, fun h => ?_, by rw [t.setPred_eq]⟩
  · rw [t.reg_setReg _ _ v r.isLt, if_pos ⟨rfl, hr h⟩]
  · rw [t.reg_setReg _ _ v r.isLt, if_neg fun hc => h (Fin.ext hc.1)]
  · rw [t.pred_setPred _ _ b p.isLt, if_pos ⟨rfl, hp h⟩]
  · rw [t.pred_setPred _ _ b p.isLt, if_neg fun hc => h (Fin.ext hc.1)]

theorem mappedDestination : Clause.MappedDestination := by
  intro s m d a hm hj hq hd ha
  have hmapped (r : Nat) : m.mapped r = decide (28 ≤ r) := by simp [Thread.mapped, hq]
  have hsrc : s.g a = m.reg a.val := by
    rw [State.g, State.gN, s.me_of m hm, hmapped, if_neg (by simpa using ha)]
  let t := s.hwPush s.myCore (d.val - 28) (m.reg a.val)
  have hpush : exec (.mov d a) s = t.ok := by
    show execMov d a s = _
    rw [execMov, hsrc, State.res, State.put, State.putN, s.me_of m hm, hmapped, if_pos (by simpa using hd)]
  have hm' : t.thread? t.iss.gid = some m := hm
  obtain ⟨hframe, hself, hother⟩ := OnlyThread.advance hm' hj
  have hcore (k : Nat) : t.advance.core k = t.core k := by rw [hframe]; rfl
  have hown : t.core s.myCore = { s.core s.myCore with
      hwq := (s.core s.myCore).hwq.setIfInBounds (d.val - 28) ((s.core s.myCore).hwq.toList.getD (d.val - 28) [] ++ [m.reg a.val]) } :=
    State.core_setCore_of_key (s.core_key s.myCore)
  have hlt : d.val - 28 < 4 := by omega
  refine ⟨t.advance, hpush, ?frame, hself, hother, ?pushed, fun n hn => ?rest, fun k hk => ?cores⟩
  case frame => rw [hframe]; rfl
  case pushed =>
    rw [hcore, hown]
    simp [Vector.toList_setIfInBounds, List.getD, hlt]
  case rest =>
    rw [hcore, hown]
    simp [Vector.toList_setIfInBounds, List.getD, Ne.symm hn]
  case cores =>
    rw [hcore]
    exact s.core_setCore_other _ k (by rw [show _ = s.myCore from s.core_key _]; exact hk)

/-- Settles O6: reading a register file after a write, and a push on a queue in place of a write. -/
theorem registerFiles : Obligations.RegisterFiles := ⟨registerFile, mappedDestination⟩
end

section
/-!
SUPPORT. The codes of FP32, FP16 and BF16 (14 R238, R242): a finite code is a whole number of the format's least steps, so that rounding it
again changes nothing and codes compare as signed magnitudes.
-/
open Sys2Proof
namespace Sys2Proof.Machine

/-! ### Codes -/

/-- A format with infinities and a sign bit above its magnitude: FP32, FP16 or BF16. -/
def IsIeee (f : Nat) : Prop := f = 8 ∨ f = 9 ∨ f = 10
/-- Sign and magnitude of a code. -/
def codeNeg (f x : Nat) : Bool := tbit x (fmtWidth f - 1)
def codeMag (f x : Nat) : Nat := x % 2 ^ (fmtWidth f - 1)
/-- A finite magnitude is `significand * 2^raised` least steps of its format of `M` mantissa bits. -/
def significand (M mag : Nat) : Nat := if mag / 2 ^ M = 0 then mag % 2 ^ M else 2 ^ M + mag % 2 ^ M
def raised (M mag : Nat) : Nat := mag / 2 ^ M - 1
def steps (M mag : Nat) : Nat := significand M mag * 2 ^ raised M mag
/-- The least step of a format is `2^-fineness`. -/
def fineness (f : Nat) : Nat := fmtBias f + fmtMant f - 1

section
variable {f : Nat} (hf : IsIeee f)
include hf

theorem IsIeee.hasInf : fmtHasInf f = true := by rcases hf with rfl | rfl | rfl <;> rfl
theorem IsIeee.signBit : fmtSignBit f = 2 ^ (fmtWidth f - 1) := by rcases hf with rfl | rfl | rfl <;> rfl
theorem IsIeee.ne_fourteen : f ≠ 14 := by rcases hf with rfl | rfl | rfl <;> decide
theorem IsIeee.width_pos : 0 < fmtWidth f := by rcases hf with rfl | rfl | rfl <;> decide
theorem IsIeee.bias_pos : 0 < fmtBias f := by rcases hf with rfl | rfl | rfl <;> decide
/-- The value of a code, by its magnitude. -/
theorem IsIeee.fdecode_eq (x : Nat) : fdecode f x =
    if fmtMax f < codeMag f x then if codeMag f x = fmtMax f + 1 then .inf (codeNeg f x) else .nan
    else scaled (codeNeg f x) (significand (fmtMant f) (codeMag f x)) ((raised (fmtMant f) (codeMag f x) : Int) - fineness f) := by
  have h14 : (f == 14) = false := beq_false_of_ne hf.ne_fourteen
  have hbias := hf.bias_pos
  simp only [fdecode, h14, hf.hasInf, bne, Bool.not_false, Bool.true_and, Bool.false_eq_true, if_false, beq_iff_eq]
  rw [← codeNeg, ← codeMag]
  refine if_congr Iff.rfl rfl ?_
  rw [significand, raised, fineness]
  generalize codeMag f x / 2 ^ fmtMant f = e
  split
  · congr 1
    omega
  · congr 1
    omega
end

theorem significand_lt (M mag : Nat) : significand M mag < 2 ^ (M + 1) := by
  have h : mag % 2 ^ M < 2 ^ M := Nat.mod_lt _ (Nat.two_pow_pos M)
  rw [significand, Nat.pow_succ]
  split <;> omega
theorem raised_significand (M mag : Nat) : raised M mag = 0 ∨ 2 ^ M ≤ significand M mag := by
  rw [raised, significand]
  split
  · omega
  · exact .inr (Nat.le_add_right _ _)
/-- A magnitude is its exponent above its significand. -/
theorem raised_mul_add (M mag : Nat) : raised M mag * 2 ^ M + significand M mag = mag := by
  have h := Nat.div_add_mod mag (2 ^ M)
  rw [Nat.mul_comm] at h
  rw [raised, significand]
  split
  · rename_i h0
    rw [h0] at h ⊢
    simpa using h
  · rename_i h0
    obtain ⟨e, he⟩ := Nat.exists_eq_succ_of_ne_zero h0
    rw [he, Nat.succ_mul] at h
    rw [he, Nat.succ_sub_one]
    omega

/-! ### Rounding a value that the format holds -/

theorem scaled_eq_fin (neg : Bool) (n : Nat) (k : Int) : scaled neg n k = .fin neg (n * 2 ^ k.toNat) (2 ^ (-k).toNat) := by
  rw [scaled]
  split
  · rw [show (-k).toNat = 0 by omega, Nat.pow_zero]
  · rw [show k.toNat = 0 by omega, Nat.pow_zero, Nat.mul_one]
theorem log2_mul_two_pow {n : Nat} (hn : n ≠ 0) (k : Nat) : Nat.log2 (n * 2 ^ k) = Nat.log2 n + k := by
  have hpos := Nat.two_pow_pos k
  rw [Nat.log2_eq_iff (Nat.mul_ne_zero hn hpos.ne'), Nat.add_right_comm, Nat.pow_add, Nat.pow_add _ (_ + 1)]
  exact ⟨Nat.mul_le_mul_right _ (Nat.log2_self_le hn), Nat.mul_lt_mul_of_pos_right Nat.lt_log2_self hpos⟩
theorem ilog2_of_le {n d : Nat} {a : Int} (ha : (Nat.log2 n : Int) - Nat.log2 d = a) (hpos : 0 ≤ a → d * 2 ^ a.toNat ≤ n)
    (hneg : a < 0 → d ≤ n * 2 ^ (-a).toNat) : ilog2 n d = a := by
  rw [ilog2, ha]
  by_cases h : 0 ≤ a
  · simp [h, hpos h]
  · simp [h, hneg (Int.not_le.1 h)]
/-- The exponent of `n * 2^k`. -/
theorem ilog2_scaled {n : Nat} (hn : n ≠ 0) (k : Int) : ilog2 (n * 2 ^ k.toNat) (2 ^ (-k).toNat) = Nat.log2 n + k := by
  have hself := Nat.log2_self_le hn
  refine ilog2_of_le (by rw [log2_mul_two_pow hn, Nat.log2_two_pow]; omega) (fun h => ?_) fun h => ?_
  · have hsum : (-k).toNat + (Nat.log2 n + k).toNat = Nat.log2 n + k.toNat := by omega
    rw [← Nat.pow_add, hsum, Nat.pow_add]
    exact Nat.mul_le_mul_right _ hself
  · have hsum : (-k).toNat = Nat.log2 n + k.toNat + (-(Nat.log2 n + k)).toNat := by omega
    rw [hsum, Nat.pow_add, Nat.pow_add]
    exact Nat.mul_le_mul_right _ (Nat.mul_le_mul_right _ hself)
theorem roundUpMag_exact (mode : Rm) (neg : Bool) (q draw : Nat) {den : Nat} (h : 0 < den) : roundUpMag mode neg q 0 den draw = false := by
  cases mode <;> simp [roundUpMag, h.ne]
/-- A value of whole steps, in range of the significand, rounds to its own code in every mode. -/
theorem roundCode_scaled {M bias n j : Nat} (hbias : 0 < bias) (hn : n < 2 ^ (M + 1)) (hj : j = 0 ∨ 2 ^ M ≤ n) {k : Int}
    (hk : k = (j : Int) - (bias + M - 1 : Nat)) (mode : Rm) (neg : Bool) (draw : Nat) :
    roundCode M bias mode neg (n * 2 ^ k.toNat) (2 ^ (-k).toNat) draw = j * 2 ^ M + n := by
  rcases Nat.eq_zero_or_pos n with rfl | hpos
  · have hj0 : j = 0 := hj.resolve_right (by simp)
    simp [roundCode, hj0]
  · have hnum : n * 2 ^ k.toNat ≠ 0 := Nat.mul_ne_zero hpos.ne' (Nat.two_pow_pos _).ne'
    have hhigh : Nat.log2 n < M + 1 := (Nat.log2_lt hpos.ne').2 hn
    have hexp : max ((Nat.log2 n : Int) + k) (1 - (bias : Int)) - M = k := by
      rcases hj with rfl | hj
      · omega
      · have hlow : ¬ Nat.log2 n < M := by rw [Nat.log2_lt hpos.ne']; exact Nat.not_lt.2 hj
        omega
    have hplace : (k - (1 - (bias : Int) - M)).toNat = j := by omega
    have hden : 0 < 2 ^ k.toNat * 2 ^ (-k).toNat := Nat.mul_pos (Nat.two_pow_pos _) (Nat.two_pow_pos _)
    have hnumer : (if 0 ≤ k then n * 2 ^ k.toNat else n * 2 ^ k.toNat * 2 ^ (-k).toNat) = n * (2 ^ k.toNat * 2 ^ (-k).toNat) := by
      split
      · rw [show (-k).toNat = 0 by omega, Nat.pow_zero, Nat.mul_one]
      · rw [Nat.mul_assoc]
    have hdenom : (if 0 ≤ k then 2 ^ (-k).toNat * 2 ^ k.toNat else 2 ^ (-k).toNat) = 2 ^ k.toNat * 2 ^ (-k).toNat := by
      split
      · rw [Nat.mul_comm]
      · rw [show k.toNat = 0 by omega, Nat.pow_zero, Nat.one_mul]
    rw [roundCode, if_neg hnum]
    dsimp only
    rw [ilog2_scaled hpos.ne', hexp, hplace, hnumer, hdenom, Nat.mul_div_left _ hden, Nat.mul_mod_left, roundUpMag_exact mode neg n draw hden]
    rfl

section
variable {f : Nat} (hf : IsIeee f)
include hf

theorem IsIeee.code_eq {x : Nat} (hx : x < 2 ^ fmtWidth f) : codeMag f x + (if codeNeg f x then fmtSignBit f else 0) = x := by
  obtain ⟨w, hw⟩ := Nat.exists_eq_succ_of_ne_zero hf.width_pos.ne'
  have hdiv := Nat.div_add_mod x (2 ^ w)
  have htop : x / 2 ^ w < 2 := Nat.div_lt_of_lt_mul (by rw [← Nat.pow_succ, ← hw]; exact hx)
  rw [hf.signBit, codeMag, codeNeg, tbit, hw, Nat.succ_sub_one]
  rcases Nat.lt_succ_iff_lt_or_eq.1 htop with h | h
  · rw [Nat.lt_one_iff.1 h] at hdiv ⊢
    simpa using hdiv
  · rw [h] at hdiv ⊢
    simpa [Nat.add_comm] using hdiv
theorem IsIeee.isNaN_fdecode (x : Nat) : (fdecode f x).isNaN = decide (fmtMax f + 1 < codeMag f x) := by
  rw [hf.fdecode_eq]
  split
  · split
    · simp [FV.isNaN, *]
    · simp only [FV.isNaN]
      exact (decide_eq_true (by omega)).symm
  · rw [scaled_eq_fin]
    exact (decide_eq_false (by omega)).symm
/-- A code that is no NaN is its own rounding. -/
theorem IsIeee.fencode_fdecode {x : Nat} (hx : x < 2 ^ fmtWidth f) (hnan : (fdecode f x).isNaN = false) (mode : Rm) (draw : Nat) :
    fencode f mode false draw (fdecode f x) = x := by
  have h14 : (f == 14) = false := beq_false_of_ne hf.ne_fourteen
  rw [hf.isNaN_fdecode, decide_eq_false_iff_not] at hnan
  rw [hf.fdecode_eq]
  split
  · have hmag : codeMag f x = fmtMax f + 1 := by omega
    rw [if_pos hmag, fencode, h14, hf.hasInf, if_neg Bool.false_ne_true, if_pos rfl, ← hmag]
    exact hf.code_eq hx
  · rename_i hmag
    rw [scaled_eq_fin, fencode, roundCode_scaled hf.bias_pos (significand_lt _ _) (raised_significand _ _) (by rw [fineness]), raised_mul_add]
    simpa [h14, hmag] using hf.code_eq hx

/-! ### Comparing codes -/

/-- A code that is no NaN is an infinity, or a whole number of steps. -/
theorem IsIeee.fdecode_cases {x : Nat} (hnan : (fdecode f x).isNaN = false) :
    (codeMag f x = fmtMax f + 1 ∧ fdecode f x = .inf (codeNeg f x)) ∨ (codeMag f x ≤ fmtMax f ∧ ∃ n d, fdecode f x = .fin (codeNeg f x) n d ∧
      0 < d ∧ n * 2 ^ fineness f = steps (fmtMant f) (codeMag f x) * d) := by
  rw [hf.isNaN_fdecode, decide_eq_false_iff_not] at hnan
  rw [hf.fdecode_eq]
  split
  · have hmag : codeMag f x = fmtMax f + 1 := by omega
    exact .inl ⟨hmag, if_pos hmag⟩
  · refine .inr ⟨by omega, _, _, scaled_eq_fin _ _ _, ?_, ?_⟩
    · exact Nat.two_pow_pos _
    · rw [steps, Nat.mul_assoc, Nat.mul_assoc, ← Nat.pow_add, ← Nat.pow_add]
      congr 2
      omega
end

/-- Steps rise with the magnitude. -/
theorem steps_strictMono (M : Nat) : StrictMono (steps M) := by
  intro x y hxy
  have hx := raised_mul_add M x
  have hy := raised_mul_add M y
  have hraised : raised M x ≤ raised M y := Nat.sub_le_sub_right (Nat.div_le_div_right hxy.le) 1
  rcases Nat.eq_or_lt_of_le hraised with h | h
  · rw [h] at hx
    rw [steps, steps, h]
    exact Nat.mul_lt_mul_of_pos_right (by omega) (Nat.two_pow_pos _)
  · have hfull : 2 ^ M ≤ significand M y := (raised_significand M y).resolve_left (by omega)
    calc steps M x < 2 ^ (M + 1) * 2 ^ raised M x := Nat.mul_lt_mul_of_pos_right (significand_lt M x) (Nat.two_pow_pos _)
      _ = 2 ^ M * 2 ^ (raised M x + 1) := by rw [← Nat.pow_add, ← Nat.pow_add]; congr 1; omega
      _ ≤ steps M y := Nat.mul_le_mul hfull (Nat.pow_le_pow_right (by decide) h)
theorem steps_zero (M : Nat) : steps M 0 = 0 := by simp [steps, significand]

theorem sInt_mul (s : Bool) (a b : Nat) : sInt s (a * b) = sInt s a * b := by
  cases s <;> simp [sInt]
theorem sInt_lt_iff {g : Nat → Nat} (hg : StrictMono g) (h0 : g 0 = 0) (s t : Bool) (a b : Nat) :
    sInt s (g a) < sInt t (g b) ↔ sInt s a < sInt t b := by
  have hab := hg.lt_iff_lt (a := a) (b := b)
  have hba := hg.lt_iff_lt (a := b) (b := a)
  have ha := hg.lt_iff_lt (a := 0) (b := a)
  have hb := hg.lt_iff_lt (a := 0) (b := b)
  rw [h0] at ha hb
  cases s <;> cases t <;> simp only [sInt, ↓reduceIte, Bool.false_eq_true] <;> omega
/-- Two fractions in whole steps compare as their numbers of steps. -/
theorem fin_lt_iff {s t : Bool} {n d m e u v c : Nat} (hc : 0 < c) (hd : 0 < d) (he : 0 < e) (hu : n * c = u * d) (hv : m * c = v * e) :
    sInt s (n * e) < sInt t (m * d) ↔ sInt s u < sInt t v := by
  have hx : sInt s (n * e) * c = sInt s u * (d * e : Nat) := by
    rw [← sInt_mul, ← sInt_mul, Nat.mul_right_comm, hu, Nat.mul_assoc]
  have hy : sInt t (m * d) * c = sInt t v * (d * e : Nat) := by
    rw [← sInt_mul, ← sInt_mul, Nat.mul_right_comm, hv, Nat.mul_assoc, Nat.mul_comm e d]
  rw [← Int.mul_lt_mul_right (Int.natCast_pos.2 hc), hx, hy, Int.mul_lt_mul_right (Int.natCast_pos.2 (Nat.mul_pos hd he))]
theorem FV.eq_of_lt {x y : FV} (hx : x.isNaN = false) (hy : y.isNaN = false) : x.eq y = (!x.lt y && !y.lt x) := by
  cases x with
  | nan => cases hx
  | inf s =>
    cases y with
    | nan => cases hy
    | inf t => cases s <;> cases t <;> rfl
    | fin t m e => cases s <;> rfl
  | fin s n d =>
    cases y with
    | nan => cases hy
    | inf t => cases t <;> rfl
    | fin t m e =>
      rw [FV.eq, FV.lt, FV.lt, Bool.eq_iff_iff]
      simp only [Bool.and_eq_true, Bool.not_eq_true', decide_eq_true_eq, decide_eq_false_iff_not]
      omega
theorem FV.eq_nan {x : FV} (h : x.isNaN = true) : x = .nan := by
  cases x with
  | nan => rfl
  | inf _ => cases h
  | fin _ _ _ => cases h
theorem FV.unordered {x y : FV} (h : (x.isNaN || y.isNaN) = true) : x.lt y = false ∧ y.lt x = false ∧ x.eq y = false := by
  rcases Bool.or_eq_true_iff.1 h with h | h
  · rw [FV.eq_nan h]
    cases y <;> exact ⟨rfl, rfl, rfl⟩
  · rw [FV.eq_nan h]
    cases x <;> exact ⟨rfl, rfl, rfl⟩

/-- A code that is no NaN, as a signed magnitude. -/
def codeKey (f x : Nat) : Int := sInt (codeNeg f x) (codeMag f x)

section
variable {f x y : Nat} (hf : IsIeee f) (hx : (fdecode f x).isNaN = false) (hy : (fdecode f y).isNaN = false)
include hf hx hy

theorem IsIeee.lt_fdecode : (fdecode f x).lt (fdecode f y) = decide (codeKey f x < codeKey f y) := by
  rw [codeKey, codeKey]
  rcases hf.fdecode_cases hx with ⟨hmx, ex⟩ | ⟨hmx, n, d, ex, hd, hn⟩ <;> rcases hf.fdecode_cases hy with ⟨hmy, ey⟩ | ⟨hmy, m, e, ey, he, hm⟩ <;>
    rw [ex, ey, FV.lt]
  case inr.inr => exact decide_eq_decide.2 ((fin_lt_iff (Nat.two_pow_pos _) hd he hn hm).trans (sInt_lt_iff (steps_strictMono _) (steps_zero _) _ _ _ _))
  all_goals
    cases codeNeg f x <;> cases codeNeg f y <;> simp [sInt] <;> omega
theorem IsIeee.eq_fdecode : (fdecode f x).eq (fdecode f y) = decide (codeKey f x = codeKey f y) := by
  rw [FV.eq_of_lt hx hy, hf.lt_fdecode hx hy, hf.lt_fdecode hy hx, Bool.eq_iff_iff]
  simp only [Bool.and_eq_true, Bool.not_eq_true', decide_eq_true_eq, decide_eq_false_iff_not]
  omega
end

end Sys2Proof.Machine
end

section
/-!
SUPPORT. FP32 scalars (05 R112 to R114; 14 R239, R243): a result rounded once and written, the operands whose result is the NaN, and the
conditions of a compare by the codes of its operands.
-/
open Sys2Proof
namespace Sys2Proof.Machine

/-! ### Rounding and writing -/

/-- A thread that has rounded a result in the mode of a code: `sto` spends a block of its stream. -/
def Thread.rounding (t : Thread) (rm : Nat) : Thread := if rm = 4 then { t with sqCtr := (t.sqCtr + 1) % 2 ^ 128 } else t
theorem Thread.rounding_qmap (t : Thread) (rm : Nat) : (t.rounding rm).qmap = t.qmap := by
  rw [Thread.rounding]
  split <;> rfl
/-- A state in which nothing has changed yet. -/
theorem OnlyThread.refl {s : State} {g : Nat} {m : Thread} (hm : s.thread? g = some m) : OnlyThread s s g m := ⟨rfl, hm, fun _ _ => rfl⟩
theorem State.rounding_only {s : State} {m : Thread} (hm : s.thread? s.iss.gid = some m) (rm : Nat) :
    OnlyThread s (if rm = 4 then s.spend 1 else s) s.iss.gid (m.rounding rm) := by
  rw [Thread.rounding]
  split
  · exact OnlyThread.modMe hm (fun t => { t with sqCtr := (t.sqCtr + 1) % 2 ^ 128 }) fun _ => rfl
  · exact OnlyThread.refl hm

section
variable {s : State} {m : Thread} (hi : s.issues m) {i : Instr} {d : Reg} {rm : Nat} {v : Rm → FV} (hexec : exec i s = s.resF d rm v)
include hi

theorem State.draw_plain (k : Nat) : s.draw k = drawAt m.sqKey ((m.stream.map (·.ctr)).getD m.sqCtr) k := by
  rw [State.draw, State.drawCtr, hi.me]
  cases m.stream <;> rfl
include hexec
/-- A float result in any mode. -/
theorem State.turns_of_resF : Turns i s fun t => (t.rounding rm).setReg d.val
    (wd (fencode 8 (Rm.ofCode rm) false (drawAt m.sqKey ((m.stream.map (·.ctr)).getD m.sqCtr) 0) (v (Rm.ofCode rm)))) := by
  rw [← State.draw_plain hi]
  obtain ⟨hm, hj, hq, -⟩ := hi
  obtain ⟨t, ht, honly⟩ := (State.rounding_only hm rm).res hj ((m.rounding_qmap rm).trans hq) d (wd (fencode 8 (Rm.ofCode rm) false (s.draw 0) (v (Rm.ofCode rm))))
  exact ⟨t, m, hexec.trans ht, hm, honly⟩
theorem State.puts_of_resF (hrm : rm < 4) : Puts i s d (wd (fencode 8 (Rm.ofCode rm) false (s.draw 0) (v (Rm.ofCode rm)))) :=
  State.puts_of_res hi (by rw [hexec, State.resF, if_neg (Nat.ne_of_lt hrm)])
/-- The result of an operation that has none but the NaN. -/
theorem State.puts_nan (hrm : rm < 4) (hnan : v (Rm.ofCode rm) = .nan) : Puts i s d (BitVec.ofNat 64 0x7FC00000) := by
  have h := State.puts_of_resF hi hexec hrm
  rw [hnan] at h
  exact h
end

/-- A rounded FP32 value is a code of 32 bits. -/
theorem fencode_lt (mode : Rm) (draw : Nat) (v : FV) : fencode 8 mode false draw v < 2 ^ 32 := by
  have hmax : fmtMax 8 = 0x7F7FFFFF := rfl
  have hsign (neg : Bool) : (if neg then fmtSignBit 8 else 0) ≤ 2 ^ 31 := by cases neg <;> decide
  cases v with
  | nan =>
    show fmtNaN 8 < _
    decide
  | inf neg =>
    have hneg := hsign neg
    show fmtMax 8 + 1 + (if neg then fmtSignBit 8 else 0) < _
    omega
  | fin neg n d =>
    have hneg := hsign neg
    simp only [fencode, show (8 == 14) = false from rfl, Bool.false_and, Bool.false_eq_true, if_false]
    split
    · cases mode <;> cases neg <;> decide
    · omega

/-! ### Operands -/

theorem isIeee_fp32 : IsIeee 8 := .inl rfl
theorem codeMag_fp32 (x : Nat) : codeMag 8 (x % 2 ^ 32) = x % 2 ^ 32 % 2 ^ 31 := rfl
theorem isNaN_f32 (x : Nat) : (f32 x).isNaN = decide (0x7F800000 < x % 2 ^ 32 % 2 ^ 31) := isIeee_fp32.isNaN_fdecode (x % 2 ^ 32)
theorem f32_nan {x : Nat} (h : 0x7F800000 < x % 2 ^ 32 % 2 ^ 31) : f32 x = .nan := FV.eq_nan ((isNaN_f32 x).trans (decide_eq_true h))
theorem f32_inf {x : Nat} (h : x % 2 ^ 32 % 2 ^ 31 = 0x7F800000) : f32 x = .inf (tbit (x % 2 ^ 32) 31) := by
  rw [f32, isIeee_fp32.fdecode_eq, codeMag_fp32, h]
  rfl
theorem f32_zero {x : Nat} (h : x % 2 ^ 32 % 2 ^ 31 = 0) : ∃ neg d, f32 x = .fin neg 0 d := by
  rw [f32, isIeee_fp32.fdecode_eq, codeMag_fp32, h]
  exact ⟨_, _, rfl⟩
theorem FV.add_nan_right (mode : Rm) (x : FV) : x.add mode .nan = .nan := by cases x <;> rfl
theorem FV.mul_nan_right (x : FV) : x.mul .nan = .nan := by cases x <;> rfl
/-- Two infinities of different codes have different signs. -/
theorem add_f32_nan (mode : Rm) {x y : Nat} (h : 0x7F800000 < x % 2 ^ 32 % 2 ^ 31 ∨ 0x7F800000 < y % 2 ^ 32 % 2 ^ 31 ∨
    (x % 2 ^ 32 % 2 ^ 31 = 0x7F800000 ∧ y % 2 ^ 32 % 2 ^ 31 = 0x7F800000 ∧ x % 2 ^ 32 ≠ y % 2 ^ 32)) : (f32 x).add mode (f32 y) = .nan := by
  rcases h with hx | hy | ⟨hx, hy, hne⟩
  · rw [f32_nan hx]
    rfl
  · rw [f32_nan hy, FV.add_nan_right]
  · have hsign : (tbit (x % 2 ^ 32) 31 == tbit (y % 2 ^ 32) 31) = false := by
      refine beq_false_of_ne fun heq => hne ?_
      rw [tbit, tbit, Bool.eq_iff_iff, beq_iff_eq, beq_iff_eq] at heq
      omega
    rw [f32_inf hx, f32_inf hy, FV.add, hsign]
    rfl
theorem mul_f32_nan {x y : Nat} (h : 0x7F800000 < x % 2 ^ 32 % 2 ^ 31 ∨ 0x7F800000 < y % 2 ^ 32 % 2 ^ 31 ∨
    (x % 2 ^ 32 % 2 ^ 31 = 0x7F800000 ∧ y % 2 ^ 32 % 2 ^ 31 = 0) ∨ (x % 2 ^ 32 % 2 ^ 31 = 0 ∧ y % 2 ^ 32 % 2 ^ 31 = 0x7F800000)) :
    (f32 x).mul (f32 y) = .nan := by
  rcases h with hx | hy | ⟨hx, hy⟩ | ⟨hx, hy⟩
  · rw [f32_nan hx]
    rfl
  · rw [f32_nan hy, FV.mul_nan_right]
  · obtain ⟨neg, d, ey⟩ := f32_zero hy
    rw [f32_inf hx, ey]
    rfl
  · obtain ⟨neg, d, ex⟩ := f32_zero hx
    rw [ex, f32_inf hy]
    rfl

/-! ### The instructions -/

section
variable {s : State} {m : Thread} (hi : s.issues m)
include hi

theorem exec_fadd (d a b : Reg) (rm : Fin 64) : exec (.fadd d a b rm) s =
    s.resF d rm.val fun mode => (f32 (m.reg a.val).toNat).add mode (f32 (m.reg b.val).toNat) := by
  show execFadd d a b rm s = _
  rw [execFadd, State.gv_plain hi, State.gv_plain hi]
theorem exec_fmul (d a b : Reg) (rm : Fin 64) : exec (.fmul d a b rm) s =
    s.resF d rm.val fun _ => (f32 (m.reg a.val).toNat).mul (f32 (m.reg b.val).toNat) := by
  show execFmul d a b rm s = _
  rw [execFmul, State.gv_plain hi, State.gv_plain hi]
theorem exec_ffma (d a b c : Reg) (rm : Fin 64) : exec (.ffma d a b c rm) s =
    s.resF d rm.val fun mode => FV.fma mode (f32 (m.reg a.val).toNat) (f32 (m.reg b.val).toNat) (f32 (m.reg c.val).toNat) := by
  show execFfma d a b c rm s = _
  rw [execFfma, State.gv_plain hi, State.gv_plain hi, State.gv_plain hi]
theorem exec_fcmp (pd : PReg) (a b : Reg) (c : Fin 64) : exec (.fcmp pd a b c) s =
    s.resP pd (fccHolds c.val (f32 (m.reg a.val).toNat) (f32 (m.reg b.val).toNat)) := by
  show execFcmp pd a b c s = _
  rw [execFcmp, State.gv_plain hi, State.gv_plain hi]
end

/-- A condition of `fcmp` by the codes of its operands: none but the unordered ones and `un` holds of a NaN. -/
theorem fccHolds_fdecode {f : Nat} (hf : IsIeee f) (c x y : Nat) :
    let un := (fdecode f x).isNaN || (fdecode f y).isNaN
    fccHolds c (fdecode f x) (fdecode f y) = match c with
      | 0 => !un && decide (codeKey f x = codeKey f y) | 1 => un || decide (codeKey f x ≠ codeKey f y)
      | 2 => !un && decide (codeKey f x < codeKey f y) | 3 => !un && decide (codeKey f x ≤ codeKey f y)
      | 4 => !un && decide (codeKey f y < codeKey f x) | 5 => !un && decide (codeKey f y ≤ codeKey f x)
      | 6 => un | _ => !un := by
  intro un
  have hle (p q : Int) : (decide (p < q) || decide (p = q)) = decide (p ≤ q) := by
    rw [Bool.eq_iff_iff]
    simp only [Bool.or_eq_true, decide_eq_true_eq]
    omega
  cases hun : un with
  | true =>
    obtain ⟨hlt, hgt, heq⟩ := FV.unordered hun
    match c with
    | 0 | 1 | 2 | 3 | 4 | 5 =>
      have hnan : ((fdecode f x).isNaN || (fdecode f y).isNaN) = true := hun
      simp only [fccHolds, hlt, hgt, heq, hnan, Bool.not_true, Bool.false_and, Bool.true_or, Bool.or_self]
    | 6 => exact hun
    | _ + 7 => exact congrArg not hun
  | false =>
    obtain ⟨hx, hy⟩ := (Bool.or_eq_false_iff).1 hun
    have hlt := hf.lt_fdecode hx hy
    have hgt := hf.lt_fdecode hy hx
    have heq := hf.eq_fdecode hx hy
    match c with
    | 0 => simp [fccHolds, heq]
    | 1 => simp [fccHolds, hx, hy, heq]
    | 2 => simp [fccHolds, hlt]
    | 3 => simp [fccHolds, hlt, heq, hle]
    | 4 => simp [fccHolds, hgt]
    | 5 => simp [fccHolds, hgt, heq, eq_comm (a := codeKey f x), hle]
    | 6 => exact hun
    | _ + 7 => exact congrArg not hun

end Sys2Proof.Machine
open Sys2Proof.Machine

theorem floatResults : Clause.FloatResults := by
  intro s m d a b c rm op hi _ _ mode x y z spend draw out
  have rounds {i : Instr} {v : Rm → FV} (hexec : exec i s = s.resF d rm.val v) : Turns i s (out (v mode)) := State.turns_of_resF hi hexec
  refine ⟨?fadd, ?fmul, ?ffma, State.puts_of_res hi ?_⟩
  case fadd => exact rounds (v := (x.add · y)) (exec_fadd hi d a b rm)
  case fmul => exact rounds (v := fun _ => x.mul y) (exec_fmul hi d a b rm)
  case ffma => exact rounds (v := (FV.fma · x y z)) (exec_ffma hi d a b c rm)
  show execCvti d a op s = _
  rw [execCvti, State.gv_plain hi]
  rfl

theorem floatSpecialCases : Clause.FloatSpecialCases := by
  intro s m d a b c rm hi hrm
  dsimp only
  have word {i : Instr} {v : Rm → FV} (hexec : exec i s = s.resF d rm.val v) : ∃ x : BitVec 32, Puts i s d (x.setWidth 64) := by
    refine ⟨BitVec.ofNat 32 (fencode 8 (Rm.ofCode rm.val) false (s.draw 0) (v (Rm.ofCode rm.val))), ?_⟩
    have h := State.puts_of_resF hi hexec hrm
    rwa [← Nat.mod_eq_of_lt (fencode_lt _ _ _), ← BitVec.toNat_ofNat, wd, BitVec.ofNat_toNat] at h
  have hadd := exec_fadd hi d a b rm
  have hmul := exec_fmul hi d a b rm
  have hfma := exec_ffma hi d a b c rm
  refine ⟨fun h => State.puts_nan hi hadd hrm (add_f32_nan _ h), fun h => State.puts_nan hi hmul hrm (mul_f32_nan h),
    fun h => State.puts_nan hi hfma hrm ?_, word hadd, word hmul, word hfma⟩
  rw [FV.fma]
  rcases h with hx | hy | hz | hxy
  · rw [mul_f32_nan (.inl hx)]
    rfl
  · rw [mul_f32_nan (.inr (.inl hy))]
    rfl
  · rw [f32_nan hz, FV.add_nan_right]
  · rw [mul_f32_nan (.inr (.inr hxy))]
    rfl

theorem floatRoundTrip : Clause.FloatRoundTrip :=
  fun _ _ draw mode hf hx hnan => IsIeee.fencode_fdecode hf hx hnan mode draw

/-- Settles O4: each result is one rounding of the exact value, a NaN where that has none, and rounding a code's own value gives the code. -/
theorem floatArithmetic : Obligations.FloatArithmetic := ⟨floatResults, floatSpecialCases, floatRoundTrip⟩

/-- Settles O5: codes that are no NaN compare as signed magnitudes, the two zeros being the same. -/
theorem floatCompares : Obligations.FloatCompares := by
  intro s m pd a b c hi x y nan key un
  have hkey (v : Nat) (hv : v < 2 ^ 32) : codeKey 8 v = key v := by
    have hneg : codeNeg 8 v = decide (2 ^ 31 ≤ v) := by
      rw [codeNeg, tbit, beq_eq_decide]
      exact decide_eq_decide.2 (by show v / 2 ^ 31 % 2 = 1 ↔ _; omega)
    have hmag : codeMag 8 v = v % 2 ^ 31 := rfl
    have hvalue : key v = if v < 2 ^ 31 then (v : Int) else -(v % 2 ^ 31 : Nat) := rfl
    rw [codeKey, hneg, hmag, hvalue, sInt]
    by_cases h : v < 2 ^ 31
    · rw [if_neg (by simpa using h), if_pos h, Nat.mod_eq_of_lt h]
    · rw [if_pos (by simpa using h), if_neg h]
  have hx := hkey x (Nat.mod_lt _ (by decide))
  have hy := hkey y (Nat.mod_lt _ (by decide))
  have hun : ((f32 (m.reg a.val).toNat).isNaN || (f32 (m.reg b.val).toNat).isNaN) = un := by rw [isNaN_f32, isNaN_f32]
  refine ⟨rfl, fun hc => decide_eq_false (Nat.not_lt.2 hc), fun _ => State.putsP_of_resP hi ?_⟩
  rw [exec_fcmp hi]
  have h := fccHolds_fdecode isIeee_fp32 c.val x y
  dsimp only at h
  rw [show fdecode 8 x = f32 (m.reg a.val).toNat from rfl, show fdecode 8 y = f32 (m.reg b.val).toNat from rfl, hx, hy, hun] at h
  exact congrArg (s.resP pd) h
end

section
/-!
SUPPORT. An issue that changes its thread and its core's record: the two changes side by side, and going on after them.
-/
open Sys2Proof
namespace Sys2Proof.Machine

section
variable {s t : State} {g : Nat} {m n : Thread} {c : Core}

/-- A further change of the issuing thread. -/
theorem OnlyThread.andModMe (h : OnlyThread s t s.iss.gid n) (f : Thread → Thread) (hf : ∀ t, (f t).gid = t.gid) :
    OnlyThread s (t.modMe f) s.iss.gid (f n) := by
  have hn : t.thread? t.iss.gid = some n := by rw [h.iss]; exact h.thread?
  exact h.after (OnlyThread.modMe hn f hf)
/-- Going on after a change of the issuing thread, with a predicate written. -/
theorem OnlyThread.resP (h : OnlyThread s t s.iss.gid n) (hj : s.iss.jumped = false) (p : PReg) (v : Bool) :
    ∃ u, t.resP p v = .next u ∧ OnlyThread s u s.iss.gid { n.setPred p.val v with pc := wd s.iss.succ } := by
  exact (h.andModMe (·.setPred p.val v) fun t => t.setPred_gid p.val v).ok hj
/-- Changing the issuing thread's record, then writing a result. -/
theorem State.turns_of_modMe_res (hi : s.issues m) (f : Thread → Thread) (hf : ∀ t, (f t).gid = t.gid) (hq : (f m).qmap = 0) {i : Instr} {d : Reg}
    {v : Word} (hexec : exec i s = (s.modMe f).res d v) : Turns i s fun t => (f t).setReg d.val v := by
  obtain ⟨hm, hj, -⟩ := hi
  obtain ⟨t, ht, honly⟩ := (OnlyThread.modMe hm f hf).res hj hq d v
  exact ⟨t, m, hexec.trans ht, hm, honly⟩
theorem OnlyThread.setCore (h : OnlyThread s t g n) (c : Core) : OnlyThread (s.setCore c) (t.setCore c) g n := by
  obtain ⟨ht, hn, hother⟩ := h
  exact ⟨by rw [ht]; rfl, hn, hother⟩
theorem OnlyThread.core (h : OnlyThread s t g n) (k : Nat) : t.core k = s.core k := by
  obtain ⟨ht, -, -⟩ := h
  rw [ht]
  rfl
theorem OnlyThread.myCore (h : OnlyThread s t g n) : t.myCore = s.myCore := by rw [State.myCore, h.iss, State.myCore]
theorem CoreTo.of_only (hc : c.key = s.myCore) (h : OnlyThread (s.setCore c) t s.iss.gid n) : CoreTo s t n s.myCore c := by
  have hcore := h.core
  obtain ⟨ht, hn, hother⟩ := h
  refine ⟨by rw [ht]; rfl, hn, hother, ?_, fun k hk => ?_⟩
  · rw [hcore]
    exact State.core_setCore_of_key hc
  · rw [hcore]
    exact s.core_setCore_other c k (by rw [hc]; exact hk)
end

end Sys2Proof.Machine
end

section
/-!
SUPPORT. Class V in register mode (17 R289): register groups and their elements, the charge (02 R26), and what an element-wise operation
writes once its format is resolved.
-/
open Sys2Proof
namespace Sys2Proof.Machine

/-! ### Register groups -/

@[simp] theorem Thread.setReg_sqCtr (t : Thread) (r : Nat) (v : Word) : (t.setReg r v).sqCtr = t.sqCtr := by
  unfold Thread.setReg
  split <;> rfl
theorem Thread.setGroup_spending {t : Thread} (h : t.sqCtr < 2 ^ 128) (d v : Nat) :
    { t.setGroup d v with sqCtr := (t.sqCtr + 0) % 2 ^ 128 } = t.setGroup d v := by
  have hctr : (t.sqCtr + 0) % 2 ^ 128 = (t.setGroup d v).sqCtr := by
    rw [Nat.add_zero, Nat.mod_eq_of_lt h]
    simp [Thread.setGroup]
  rw [hctr]
theorem Thread.vel_lt (m : Thread) (w : Nat) (r : Reg) (j : Nat) : m.vel w r j < 2 ^ w := Nat.mod_lt _ (Nat.two_pow_pos w)

section
variable {s t : State} {m n : Thread}

theorem State.group_plain (hi : s.issues m) (r : Nat) : s.group r = m.groupOf r := by
  rw [State.group, State.gN_plain hi, State.gN_plain hi, State.gN_plain hi, State.gN_plain hi, Thread.groupOf]
  ring
theorem State.els_getD (hi : s.issues m) {w j : Nat} (hj : j < 256 / w) (a : Reg) : (s.els w a).getD j 0 = m.vel w a j := by
  rw [State.els, elems_getD hj, State.group_plain hi, Thread.vel]
theorem State.els_length (s : State) (w : Nat) (a : Reg) : (s.els w a).length = 256 / w := elems_length ..
theorem State.rowOf_els (hi : s.issues m) {w j : Nat} (hj : j < 256 / w) (as : List Reg) :
    rowOf (as.map fun a => s.els w a) j = as.map fun a => m.vel w a j := by
  rw [rowOf, List.map_map]
  exact List.map_congr_left fun a _ => State.els_getD hi hj a
theorem Thread.setReg_setReg (t : Thread) (r : Nat) (v w : Word) : (t.setReg r v).setReg r w = t.setReg r w := by
  unfold Thread.setReg
  split
  · rfl
  · simp [Vector.setIfInBounds]
theorem OnlyThread.putN (hm : s.thread? s.iss.gid = some m) (hq : m.qmap = 0) (r : Nat) (v : Word) :
    OnlyThread s (s.putN r v) s.iss.gid (m.setReg r v) := by
  have hput : s.putN r v = s.modMe (·.setReg r v) := by simp [State.putN, s.me_of m hm, Thread.mapped, hq]
  rw [hput]
  exact OnlyThread.modMe hm _ fun t => t.setReg_gid _ _
/-- A further register, written after a change of the issuing thread. -/
theorem OnlyThread.andPutN (h : OnlyThread s t s.iss.gid n) (hq : n.qmap = 0) (r : Nat) (v : Word) :
    OnlyThread s (t.putN r v) s.iss.gid (n.setReg r v) := by
  have hn : t.thread? t.iss.gid = some n := by rw [h.iss]; exact h.thread?
  exact h.after (OnlyThread.putN hn hq r v)
theorem OnlyThread.putGroup (hm : s.thread? s.iss.gid = some m) (hq : m.qmap = 0) (d v : Nat) :
    OnlyThread s (s.putGroup d v) s.iss.gid (m.setGroup d v) :=
  (((OnlyThread.putN hm hq d _).andPutN (by simp [hq]) (d + 1) _).andPutN (by simp [hq]) (d + 2) _).andPutN (by simp [hq]) (d + 3) _
/-- After a change of the issuing thread, its core is charged and the instruction goes on. -/
theorem OnlyThread.charged (h : OnlyThread s t s.iss.gid n) (hj : s.iss.jumped = false) (units : Nat) :
    ∃ u, (t.charge units).ok = .next u ∧ Charged s u n units := by
  have hcharge : t.charge units = t.setCore { s.core s.myCore with budget := (s.core s.myCore).budget - units } := by
    rw [State.charge, h.myCore, h.core]
  rw [hcharge]
  obtain ⟨u, hu, honly⟩ := (h.setCore _).ok hj
  exact ⟨u, hu, CoreTo.of_only (s.core_key s.myCore) honly⟩
end

/-! ### Formats -/

theorem arithUnit_eq (f : Nat) : arithUnit f = if f = 8 then 4 else if f = 9 ∨ f = 10 then 3 else 2 := by simp [arithUnit]
/-- An element of an integer format as the integer it stands for, in the two spellings of the model. -/
theorem intVal_of_lt {f v : Nat} (hv : v < 2 ^ fmtWidth f) : intVal f v =
    if f < 4 ∧ 2 ^ (fmtWidth f - 1) ≤ v then (v : Int) - 2 ^ fmtWidth f else (v : Int) := by
  rw [intVal, fmtSigned]
  by_cases hf : f < 4
  · rw [if_pos (by simpa using hf), signed, Nat.mod_eq_of_lt hv]
    simp [hf]
  · rw [if_neg (by simpa using hf), Nat.mod_eq_of_lt hv]
    simp [hf]
theorem elInt_eq_intVal (f v : Nat) : elInt (fmtWidth f) (!fmtSigned f) v = intVal f v := by
  rw [elInt, intVal]
  cases fmtSigned f <;> rfl
/-- Numbers that are the same modulo a width give the same element. -/
theorem mod_eq_of_modEq {w x : Nat} {v : Int} (h : (x : Int) ≡ v [ZMOD 2 ^ w]) : x % 2 ^ w = (v % 2 ^ w).toNat % 2 ^ w := by
  have hpos : (0 : Int) < 2 ^ w := by positivity
  have hcast : ((x % 2 ^ w : Nat) : Int) = v % 2 ^ w := by
    rw [Int.natCast_mod, Nat.cast_pow, Nat.cast_ofNat]
    exact h
  rw [← hcast, Int.toNat_natCast, Nat.mod_mod]

/-! ### Element-wise operations -/

section
variable {s : State} {m : Thread} {fmt : Fin 16} {f : Nat} (hv : s.vectors m fmt f) {i : Instr} {d : Reg} {as : List Reg}
include hv

theorem State.vectors.issues : s.issues m := hv.1
theorem State.vectors.resolveFmt : resolveFmt s.ef fmt.val = f := by
  obtain ⟨hi, -, rfl⟩ := hv
  rw [Machine.resolveFmt, State.ef, hi.me]
theorem State.vectors.withFmt {ok : Nat → Bool} (hok : ok f = true) (g : Nat → Out) : s.withFmt fmt.val ok g = g f := by
  rw [State.withFmt, hv.resolveFmt]
  exact if_pos hok
theorem State.vgives_rmap {w ws n units : Nat} {g : Nat → Nat} {h : Nat → List Nat → Nat}
    (hexec : exec i s = (s.rmap d as w ws n units h).ok)
    (hg : ∀ j < n, h j (rowOf (as.map fun a => s.els ws a) j) % 2 ^ w = g j % 2 ^ w) : VGives i s m d w n units 0 g := by
  obtain ⟨⟨hm, hj, hq, -⟩, hctr, -⟩ := hv
  obtain ⟨t, ht, hcharged⟩ := (OnlyThread.putGroup hm hq d.val
    (packEl w ((List.range n).map fun j => h j (rowOf (as.map fun a => s.els ws a) j)))).charged hj units
  refine ⟨t, _, hexec.trans ht, ?_, fun j hj => ?_, (Thread.setGroup_spending hctr d.val _).symm ▸ hcharged⟩
  · simpa using packEl_lt w ((List.range n).map fun j => h j (rowOf (as.map fun a => s.els ws a) j))
  · rw [packEl_element]
    simpa [hj] using hg j hj
theorem State.vgives_vmap {ok : Nat → Bool} {unit : Nat → Nat} {g : Nat → Nat} {h : Nat → Nat → List Nat → Nat}
    (hexec : exec i s = s.vmap d as false fmt ok unit h) (hok : ok f = true)
    (hg : ∀ j < 256 / fmtWidth f, h f j (as.map fun a => m.vel (fmtWidth f) a j) % 2 ^ fmtWidth f = g j % 2 ^ fmtWidth f) :
    VGives i s m d (fmtWidth f) (256 / fmtWidth f) (unit f) 0 g := by
  rw [State.vmap, hv.withFmt (by simpa using hok)] at hexec
  refine State.vgives_rmap hv hexec fun j hj => ?_
  rw [State.rowOf_els hv.issues hj]
  exact hg j hj
theorem State.vgives_arith {int flt : Nat → List Nat → Nat} {g : Nat → Nat} (hf : f < 13) (hexec : exec i s = s.arith d as false fmt int flt)
    (hg : ∀ j, (if f < 8 then int f (as.map fun a => m.vel (fmtWidth f) a j) else flt f (as.map fun a => m.vel (fmtWidth f) a j)) % 2 ^ fmtWidth f =
      g j % 2 ^ fmtWidth f) :
    VGives i s m d (fmtWidth f) (256 / fmtWidth f) (if f = 8 then 4 else if f = 9 ∨ f = 10 then 3 else 2) 0 g := by
  rw [← arithUnit_eq]
  refine State.vgives_vmap hv hexec (decide_eq_true hf) fun j _ => ?_
  simpa only [fmtIsInt, decide_eq_true_eq] using hg j
end

end Sys2Proof.Machine
end

section
/-!
SUPPORT. The element functions of class V (17 R292 to R294) beside the results that the clauses give for them.
-/
open Sys2Proof
namespace Sys2Proof.Machine

section
variable {f x y : Nat}

theorem elDiv_intVal (hy : y < 2 ^ fmtWidth f) : elDiv (fmtWidth f) (!fmtSigned f) x y =
    if y = 0 then 2 ^ fmtWidth f - 1 else ((intVal f x).tdiv (intVal f y) % 2 ^ fmtWidth f).toNat := by
  rw [elDiv, elInt_eq_intVal, elInt_eq_intVal, Nat.mod_eq_of_lt hy, unsignedOf, Nat.cast_pow, Nat.cast_ofNat]
theorem fmtIsInt_of_lt (hf : f < 8) : fmtIsInt f = true := decide_eq_true hf
theorem not_fmtIsInt_of_le (hf : 8 ≤ f) : ¬ fmtIsInt f = true := by simpa [fmtIsInt] using hf
theorem fmtMin_int (hf : f < 8) : fmtMin f x y = if intVal f y < intVal f x then y else x := if_pos (fmtIsInt_of_lt hf)
theorem fmtMax_int (hf : f < 8) : fmtMax' f x y = if intVal f x < intVal f y then y else x := if_pos (fmtIsInt_of_lt hf)
theorem elAbs_intVal : (if fmtSigned f then elAbs (fmtWidth f) x else x : Nat) ≡ |intVal f x| [ZMOD 2 ^ fmtWidth f] := by
  rw [intVal]
  split
  · exact elAbs_modEq x
  · rw [Nat.abs_cast]
    exact (mod_two_pow_modEq _ x).symm
theorem fmtWidth_pos (f : Nat) : 0 < fmtWidth f := by
  unfold fmtWidth
  split <;> decide
/-- The top bit of an element. -/
theorem tbit_top (hx : x < 2 ^ fmtWidth f) : tbit x (fmtWidth f - 1) = decide (2 ^ (fmtWidth f - 1) ≤ x) := by
  obtain ⟨w, hw⟩ := Nat.exists_eq_succ_of_ne_zero (fmtWidth_pos f).ne'
  rw [hw, Nat.pow_succ, Nat.mul_comm] at hx
  have hdiv : x / 2 ^ w < 2 := Nat.div_lt_of_lt_mul (by rwa [Nat.mul_comm] at hx)
  have hle : 1 ≤ x / 2 ^ w ↔ 2 ^ w ≤ x := by rw [Nat.le_div_iff_mul_le (Nat.two_pow_pos w), Nat.one_mul]
  rw [hw, Nat.succ_sub_one, tbit, beq_eq_decide]
  generalize x / 2 ^ w = q at *
  exact decide_eq_decide.2 (by omega)
theorem ccElem_eq (c : Nat) : ccElem f c x y = match c with
    | 0 => decide (x = y) | 1 => decide (x ≠ y)
    | 2 => decide (intVal f x < intVal f y) | 3 => decide (intVal f x ≤ intVal f y)
    | 4 => decide (intVal f y < intVal f x) | 5 => decide (intVal f y ≤ intVal f x)
    | 6 => decide (x < y) | 7 => decide (x ≤ y) | 8 => decide (y < x) | _ => decide (y ≤ x) :=
  match c with
  | 0 => beq_eq_decide ..
  | 1 => Bool.eq_iff_iff.2 (bne_iff_ne.trans decide_eq_true_iff.symm)
  | 2 | 3 | 4 | 5 | 6 | 7 | 8 => rfl
  | _ + 9 => rfl
end

end Sys2Proof.Machine
open Sys2Proof.Machine

theorem vectorArithmeticClause : Clause.VectorArithmetic := by
  intro s m d a b c fmt f hv hf13 _ _
  dsimp only
  have hlt (r : Reg) (j : Nat) := m.vel_lt (fmtWidth f) r j
  simp only [← intVal_of_lt (hlt _ _)]
  have sound {as : List Reg} {i : Instr} {int flt : Nat → List Nat → Nat} {g : Nat → Nat} (hexec : exec i s = s.arith d as false fmt int flt)
      (hg : ∀ j, (if f < 8 then int f (as.map fun a => m.vel (fmtWidth f) a j) else flt f (as.map fun a => m.vel (fmtWidth f) a j)) %
        2 ^ fmtWidth f = g j % 2 ^ fmtWidth f) := State.vgives_arith hv hf13 hexec hg
  refine ⟨fun hf => ?ints, fun hf => ?floats, ?vclamp, fun h8 h10 => ?vlerp⟩
  case ints =>
    refine ⟨?vadd, ?vsub, ?vmul, ?vfma, ?vdiv, ?vmin, ?vmax, ?vabs, ?vneg⟩
    case vadd =>
      refine sound (rfl : _ = execVadd d a b false fmt s) fun j => ?_
      rw [if_pos hf]
      exact Nat.mod_mod _ _
    case vsub =>
      refine sound (rfl : _ = execVsub d a b false fmt s) fun j => ?_
      rw [if_pos hf]
      exact mod_eq_of_modEq (elSub_modEq rfl rfl)
    case vmul =>
      refine sound (rfl : _ = execVmul d a b false fmt s) fun j => ?_
      rw [if_pos hf]
      exact Nat.mod_mod _ _
    case vfma =>
      refine sound (rfl : _ = execVfma d a b c false fmt s) fun j => ?_
      rw [if_pos hf]
      exact (Nat.mod_mod _ _).trans (Nat.mod_add_mod _ _ _)
    case vdiv =>
      refine sound (rfl : _ = execVdiv d a b false fmt s) fun j => ?_
      rw [if_pos hf]
      exact congrArg (· % 2 ^ fmtWidth f) (elDiv_intVal (hlt b j))
    case vmin =>
      refine sound (rfl : _ = execVmin d a b false fmt s) fun j => ?_
      rw [if_pos hf]
      exact congrArg (· % 2 ^ fmtWidth f) (fmtMin_int hf)
    case vmax =>
      refine sound (rfl : _ = execVmax d a b false fmt s) fun j => ?_
      rw [if_pos hf]
      exact congrArg (· % 2 ^ fmtWidth f) (fmtMax_int hf)
    case vabs =>
      refine sound (rfl : _ = execVabs d a false fmt s) fun j => ?_
      rw [if_pos hf]
      exact mod_eq_of_modEq elAbs_intVal
    case vneg =>
      refine sound (rfl : _ = execVneg d a false fmt s) fun j => ?_
      rw [if_pos hf, ← zero_sub]
      exact mod_eq_of_modEq (elSub_modEq rfl rfl)
  case floats =>
    have float {as : List Reg} {i : Instr} {int flt : Nat → List Nat → Nat} (hexec : exec i s = s.arith d as false fmt int flt) :=
      sound hexec (g := fun j => flt f (as.map fun a => m.vel (fmtWidth f) a j)) fun j => by rw [if_neg (Nat.not_lt.2 hf)]
    exact ⟨float (i := .vadd d a b false fmt) (rfl : _ = execVadd d a b false fmt s), float (i := .vsub d a b false fmt) (rfl : _ = execVsub d a b false fmt s), float (i := .vmul d a b false fmt) (rfl : _ = execVmul d a b false fmt s),
      float (i := .vfma d a b c false fmt) (rfl : _ = execVfma d a b c false fmt s), float (i := .vdiv d a b false fmt) (rfl : _ = execVdiv d a b false fmt s), float (i := .vmin d a b false fmt) (rfl : _ = execVmin d a b false fmt s),
      float (i := .vmax d a b false fmt) (rfl : _ = execVmax d a b false fmt s), float (i := .vabs d a false fmt) (rfl : _ = execVabs d a false fmt s), float (i := .vneg d a false fmt) (rfl : _ = execVneg d a false fmt s)⟩
  case vclamp =>
    refine sound (rfl : _ = execVclamp d a b c false fmt s) fun j => ?_
    by_cases hf : f < 8
    · rw [if_pos hf, if_pos hf]
      refine congrArg (· % 2 ^ fmtWidth f) ((fmtMin_int hf).trans ?_)
      rw [fmtMax_int hf, apply_ite (intVal f)]
      rfl
    · rw [if_neg hf, if_neg hf]
      rfl
  case vlerp =>
    rw [← arithUnit_eq]
    exact State.vgives_vmap hv (rfl : _ = execVlerp d a b c false fmt s) (by simp [fFlt]; omega) fun j _ => rfl

theorem vectorMoves : Clause.VectorMoves := by
  intro s m d a b c e fmt f hv hf15 _ _
  dsimp only
  have hi := hv.issues
  have hlt (r : Reg) (j : Nat) := m.vel_lt (fmtWidth f) r j
  simp only [← intVal_of_lt (hlt _ _)]
  have moved {as : List Reg} {i : Instr} {ok : Nat → Bool} {h : Nat → Nat → List Nat → Nat} {g : Nat → Nat}
      (hexec : exec i s = s.vmap d as false fmt ok (fun _ => 1) h) (hok : ok f = true)
      (hg : ∀ j < 256 / fmtWidth f, h f j (as.map fun a => m.vel (fmtWidth f) a j) % 2 ^ fmtWidth f = g j % 2 ^ fmtWidth f) :
      VGives i s m d (fmtWidth f) (256 / fmtWidth f) 1 0 g := State.vgives_vmap hv hexec hok hg
  have hall : fAll f = true := decide_eq_true hf15
  refine ⟨?vsel, moved (rfl : _ = execVand d a b false fmt s) hall fun _ _ => rfl, moved (rfl : _ = execVor d a b false fmt s) hall fun _ _ => rfl,
    moved (rfl : _ = execVxor d a b false fmt s) hall fun _ _ => rfl, ?vfill, moved (rfl : _ = execVcpy d a false fmt s) hall fun _ _ => rfl,
    ?vbcast, ?vperm, ?vmask, fun hf => ⟨?vshl, ?vshr, ?vsar, fun he => ?vcmpInt⟩, fun h8 h13 he => ?vcmpFloat⟩
  case vsel =>
    refine moved (rfl : _ = execVsel d a b c false fmt s) hall fun j _ => congrArg (· % 2 ^ fmtWidth f) ?_
    show (if tbit (m.vel (fmtWidth f) c j) (fmtWidth f - 1) then m.vel (fmtWidth f) a j else m.vel (fmtWidth f) b j) = _
    rw [tbit_top (hlt c j)]
    by_cases h : m.vel (fmtWidth f) c j < 2 ^ (fmtWidth f - 1)
    · rw [if_pos h, if_neg (by simpa using h)]
    · rw [if_neg h, if_pos (by simpa using h)]
  case vfill =>
    have hexec : exec (.vfill d a false fmt) s = s.vmap d [] false fmt fAll (fun _ => 1) fun w _ _ => (m.reg a.val).toNat % 2 ^ fmtWidth w := by
      show execVfill d a false fmt s = _
      rw [execVfill, State.gv_plain hi]
    exact moved hexec hall fun _ _ => Nat.mod_mod _ _
  case vbcast =>
    have hexec : exec (.vbcast d a b fmt) s = (s.rmap d [] (fmtWidth f) 0 (256 / fmtWidth f) 1 fun _ _ =>
        (s.els (fmtWidth f) a).getD ((m.reg b.val).toNat % (256 / fmtWidth f)) 0).ok := by
      show execVbcast d a b fmt s = _
      rw [execVbcast, hv.withFmt hall, State.gv_plain hi]
      dsimp only
      rw [State.els_length]
    refine State.vgives_rmap hv hexec fun j hj => ?_
    rw [State.els_getD hi (Nat.mod_lt _ (by omega))]
  case vperm =>
    have hexec : exec (.vperm d a b c fmt) s = (s.rmap d [c] (fmtWidth f) (fmtWidth f) (256 / fmtWidth f) 1 fun _ y =>
        (s.els (fmtWidth f) a ++ s.els (fmtWidth f) b).getD (e0 y % (2 * (256 / fmtWidth f))) 0).ok := by
      show execVperm d a b c fmt s = _
      rw [execVperm, hv.withFmt hall]
      simp only [List.length_append, State.els_length, ← Nat.two_mul]
    refine State.vgives_rmap hv hexec fun j hj => ?_
    rw [State.rowOf_els hi hj]
    show (s.els (fmtWidth f) a ++ s.els (fmtWidth f) b).getD (m.vel (fmtWidth f) c j % (2 * (256 / fmtWidth f))) 0 % _ = _
    have hin : m.vel (fmtWidth f) c j % (2 * (256 / fmtWidth f)) < 2 * (256 / fmtWidth f) := Nat.mod_lt _ (by omega)
    split
    · rename_i h
      rw [List.getD_append _ _ _ _ (by rwa [State.els_length]), State.els_getD hi h]
    · rename_i h
      rw [List.getD_append_right _ _ _ _ (by rw [State.els_length]; omega), State.els_length, State.els_getD hi (by omega)]
  case vmask =>
    have hexec : exec (.vmask d a b false fmt) s = s.vmap d [] false fmt fAll (fun _ => 1) fun w j _ =>
        maskEl (fmtWidth w) (decide ((m.reg b.val).toNat ≤ j ∧ j < (m.reg a.val).toNat)) := by
      show execVmask d a b false fmt s = _
      rw [execVmask, State.gv_plain hi, State.gv_plain hi]
      simp only [Bool.decide_and]
    exact moved hexec hall fun _ _ => rfl
  case vshl =>
    refine moved (rfl : _ = execVshl d a b false fmt s) (decide_eq_true hf) fun j _ => ?_
    show elShl (fmtWidth f) (m.vel (fmtWidth f) a j) (m.vel (fmtWidth f) b j) % _ = _
    rw [elShl]
    split
    · rfl
    · exact Nat.mod_mod _ _
  case vshr => exact moved (rfl : _ = execVshr d a b false fmt s) (decide_eq_true hf) fun j _ => rfl
  case vsar =>
    refine moved (rfl : _ = execVsar d a b false fmt s) (decide_eq_true hf) fun j _ => ?_
    rw [← signed_of_lt (hlt a j)]
    exact mod_eq_of_modEq (elSar_modEq _ _)
  case vcmpInt =>
    have hok : (fArith f && (fmtIsInt f || decide (e.val < 8))) = true := by simp [fArith, fmtIsInt, hf]; omega
    refine moved (rfl : _ = execVcmp d a b e false fmt s) hok fun j _ => congrArg (· % 2 ^ fmtWidth f) ?_
    rw [if_pos (fmtIsInt_of_lt hf), ccElem_eq]
    rfl
  case vcmpFloat =>
    have hok : (fArith f && (fmtIsInt f || decide (e.val < 8))) = true := by simp [fArith, he, h13]
    refine moved (rfl : _ = execVcmp d a b e false fmt s) hok fun j _ => congrArg (· % 2 ^ fmtWidth f) ?_
    rw [if_neg (not_fmtIsInt_of_le h8)]
    rfl

/-- Settles O31: every operation is `State.rmap` in the resolved format, whose elements are those of the groups read, and the core is charged. -/
theorem vectorArithmetic : Obligations.VectorArithmetic := ⟨vectorArithmeticClause, vectorMoves⟩
end

section
/-!
SUPPORT. Messages, continuations and the mailbox (19 R335 to R337; 21 R360 to R363, R366, R367): headers, a flit that enters the send
buffer, and what leaves the receive store and the mailbox of the issuer's core.
-/
open Sys2Proof
namespace Sys2Proof.Machine

/-! ### Headers -/

/-- The headers of 19 R335: a message of 0 to 7 words, and one for a continuation. -/
def LegalHeader (v : Nat) : Prop :=
  v / 2 ^ 62 = 0 ∧ v / 2 ^ 59 % 8 = 0 ∧ v / 2 ^ 30 % 2 ^ 26 = 0 ∨
    v / 2 ^ 62 = 1 ∧ v / 2 ^ 45 % 8 = 0 ∧ v / 2 ^ 30 % 2 ^ 10 = 0 ∧ v / 2 ^ 40 % 32 ≠ 0
theorem hdrOk_iff (v : Nat) : hdrOk v = true ↔ LegalHeader v := by
  rw [hdrOk, LegalHeader]
  generalize v / 2 ^ 62 = kind
  match kind with
  | 0 => simp [bits]
  | 1 => simp [bits, and_assoc]
  | _ + 2 => simp
theorem hdrOk_of_legal {v : Nat} (h : LegalHeader v) : hdrOk v = true := (hdrOk_iff v).2 h
theorem hdrOk_of_not_legal {v : Nat} (h : ¬LegalHeader v) : hdrOk v = false := Bool.eq_false_iff.2 fun h' => h ((hdrOk_iff v).1 h')
theorem gidPkg_hdrGid (v : Nat) : gidPkg (hdrGid v) = gidPkg v := by
  rw [gidPkg, gidPkg, hdrGid]
  omega

section
variable {s t : State} {m k : Thread}

/-! ### Sending -/

theorem State.sendRoom_eq (s : State) : s.sendRoom =
    decide ((s.msgs.filter fun x => gidCk x.flit.src == s.myCore && x.ldc.isNone).length < Config.sendBuffer) := rfl
/-- A thread that has no part of a message entered, or has entered `p`. -/
def Thread.entering (t : Thread) (p : Option (Nat × List Nat)) : Thread := { t with sendPart := p }
/-- What entering a flit makes of the state. -/
theorem State.inject_eq (s : State) (hdr : Nat) (ws : List Nat) : ∃ x : Msg,
    s.inject hdr ws = ({ s with msgs := s.msgs ++ [x], nextId := s.nextId + 1 } : State).modMe (fun t => { t with seq := t.seq + 1 }) ∧
    x.id = s.nextId ∧ x.flit = { hdr := hdr, words := ws, src := s.me.gid, dom := s.me.dom } ∧ x.seq = s.me.seq ∧ x.srcUid = s.me.uid ∧
    x.resendAt = 0 ∧ x.ldc = none ∧ x.hop.cur = s.myQuad ∧
    x.hop.dst = (if gidPkg (hdrGid hdr) = s.pkg then gidQk (hdrGid hdr) else s.myQuad) :=
  ⟨_, rfl, rfl, rfl, rfl, rfl, rfl, rfl, rfl, rfl⟩
/-- A flit enters the send buffer after a change of what its thread has entered. -/
theorem State.inject_sent (hi : s.issues m) (p : Option (Nat × List Nat)) (h : OnlyThread s t s.iss.gid (m.entering p)) (hdr : Nat) (ws : List Nat) :
    ∃ u, (t.inject hdr ws).ok = .next u ∧ Sent s u m (m.entering p) hdr ws := by
  obtain ⟨hm, hj, -⟩ := hi
  obtain ⟨x, hinject, hid, hflit, hseq, huid, hresend, hldc, hcur, hdst⟩ := t.inject_eq hdr ws
  have hiss := h.iss
  obtain ⟨ht, hn, hother⟩ := h
  have hme : t.me = m.entering p := t.me_of _ (by rw [hiss]; exact hn)
  have hid' : t.nextId = s.nextId := by rw [ht]
  have hpkg : t.pkg = s.pkg := by rw [ht]
  have hquad : t.myQuad = gidQk s.iss.gid := by rw [State.myQuad, hiss]
  have hentered : OnlyThread { s with msgs := s.msgs ++ [x], nextId := s.nextId + 1 } { t with msgs := t.msgs ++ [x], nextId := t.nextId + 1 }
      s.iss.gid (m.entering p) := ⟨by rw [ht], hn, hother⟩
  have hcount := OnlyThread.modMe (s := { t with msgs := t.msgs ++ [x], nextId := t.nextId + 1 }) (m := m.entering p) (by rw [← hn, hiss]; rfl)
    (fun t => { t with seq := t.seq + 1 }) fun _ => rfl
  obtain ⟨u, hu, honly⟩ := (hentered.after hcount).ok hj
  refine ⟨u, by rw [hinject]; exact hu, x, hid.trans hid', ?_, ?_, ?_, hresend, hldc, hcur.trans hquad, ?_, honly⟩
  · rw [hflit, hme]
    rfl
  · rw [hseq, hme]
    rfl
  · rw [huid, hme]
    rfl
  · rw [hdst, gidPkg_hdrGid, hpkg, hquad]
    rfl
theorem State.enters (hi : s.issues m) {i : Instr} (p : Option (Nat × List Nat)) (h : OnlyThread s t s.iss.gid (m.entering p)) {hdr : Nat} {ws : List Nat}
    (hexec : exec i s = if s.sendRoom then (t.inject hdr ws).ok else .next (s.retry .sendRoom)) :
    ((s.msgs.filter fun x => gidCk x.flit.src == s.myCore && x.ldc.isNone).length < Config.sendBuffer →
      ∃ u, exec i s = .next u ∧ Sent s u m (m.entering p) hdr ws) ∧
    (¬(s.msgs.filter fun x => gidCk x.flit.src == s.myCore && x.ldc.isNone).length < Config.sendBuffer →
      ∃ u, exec i s = .next u ∧ Retries s u m .sendRoom) := by
  refine ⟨fun hroom => ?_, fun hfull => ?_⟩
  · rw [hexec, State.sendRoom_eq, if_pos (decide_eq_true hroom)]
    exact State.inject_sent hi p h hdr ws
  · rw [hexec, State.sendRoom_eq, if_neg (by simpa using hfull)]
    exact ⟨_, rfl, State.retry_retries hi.1 .sendRoom⟩

section
variable (hi : s.issues m) {n a : Reg} (hn : n.val = 0)
include hi hn

/-- A word given to `msnd` while no message is entered is a header. -/
theorem exec_msnd_header (hpart : m.sendPart = none) : exec (.msndWrite n a) s =
    if !hdrOk (m.reg a.val).toNat then .next (s.fault 8 (m.reg a.val).toNat)
    else if hdrLen (m.reg a.val).toNat != 0 then (s.modMe (·.entering (some ((m.reg a.val).toNat, [])))).ok
    else if s.sendRoom then (s.inject (m.reg a.val).toNat []).ok
    else .next (s.retry .sendRoom) := by
  show execMsndWrite n a s = _
  rw [execMsndWrite, State.gv_plain hi, hi.me, if_neg (by simp [hn]), hpart]
  rfl
/-- A further word goes behind those before it. -/
theorem exec_msnd_word {h : Nat} {ws : List Nat} (hpart : m.sendPart = some (h, ws)) : exec (.msndWrite n a) s =
    if ws.length + 1 < hdrLen h then (s.modMe (·.entering (some (h, ws ++ [(m.reg a.val).toNat])))).ok
    else if s.sendRoom then ((s.modMe (·.entering none)).inject h (ws ++ [(m.reg a.val).toNat])).ok
    else .next (s.retry .sendRoom) := by
  show execMsndWrite n a s = _
  rw [execMsndWrite, State.gv_plain hi, hi.me, if_neg (by simp [hn]), hpart]
  rfl
end
theorem exec_send (hi : s.issues m) (a b : Reg) (op : Fin 64) : exec (.send a b op) s =
    if !hdrOk (m.reg a.val).toNat || hdrLen (m.reg a.val).toNat != op.val then .next (s.fault 8 (m.reg a.val).toNat)
    else if (m.reg a.val).toNat / 2 ^ 62 = 0 && !s.mayReach (hdrGid (m.reg a.val).toNat) then .next (s.fault 8 (m.reg a.val).toNat)
    else if m.sendPart.isSome then .next (s.fault 8 0xA8)
    else if s.sendRoom then (s.inject (m.reg a.val).toNat ((List.range op.val).map fun i => (m.reg (b.val + i)).toNat)).ok
    else .next (s.retry .sendRoom) := by
  show execSend a b op s = _
  rw [execSend, State.gv_plain hi, hi.me]
  simp only [State.gN_plain hi]
  rfl

/-! ### Receiving -/

theorem Thread.foldl_setReg_gid (g : Nat → Nat) (h : Nat → Word) (l : List Nat) (t : Thread) :
    (l.foldl (fun t i => t.setReg (g i) (h i)) t).gid = t.gid := by
  induction l generalizing t with
  | nil => rfl
  | cons i l ih => rw [List.foldl_cons, ih, Thread.setReg_gid]
theorem Thread.setFlit_gid (t : Thread) (d : Nat) (f : Flit) : (t.setFlit d f).gid = t.gid := Thread.foldl_setReg_gid _ _ _ t
/-- A core without the oldest message of a slot, and without the oldest completion. -/
def Core.received (c : Core) (f : Flit) : Core := { c with recv := c.recv.erase f }
def Core.collected (c : Core) (x : Compl) : Core := { c with mail := c.mail.erase x }
theorem State.takeFlit_of {core slot : Nat} {o : Option Flit} (h : (s.core core).recv.find? (fun f => hdrGid f.hdr % 16 == slot) = o) :
    s.takeFlit core slot = o.map fun f => (f, s.setCore ((s.core core).received f)) := by
  have h' : (s.core core).recv.find? (fun f => gidSlot (hdrGid f.hdr) == slot) = o := h
  rw [State.takeFlit, h']
  cases o <;> rfl
theorem State.takeCompl_of {core slot : Nat} {o : Option Compl} (h : (s.core core).mail.find? (fun x => x.slot == slot) = o) :
    s.takeCompl core slot = o.map fun x => (x.word, s.setCore ((s.core core).collected x)) := by
  rw [State.takeCompl, h]
  cases o <;> rfl
/-- What an issue does with its core's record changed first. -/
theorem State.coreTo_of {i : Instr} {o : Out} {c : Core} (hc : c.key = s.myCore) (hexec : exec i s = o)
    (h : ∃ u, o = .next u ∧ OnlyThread (s.setCore c) u s.iss.gid k) : ∃ u, exec i s = .next u ∧ CoreTo s u k s.myCore c := by
  obtain ⟨u, hu, honly⟩ := h
  exact ⟨u, hexec.trans hu, CoreTo.of_only hc honly⟩
end
end Sys2Proof.Machine
open Sys2Proof.Machine

theorem sendResults : Clause.SendResults := by
  intro s m n a b op hi v kind legal len room enters
  have hlen (h : Nat) : hdrLen h = len h := rfl
  have hsame (hpart : m.sendPart = none) : m.entering none = m := by rw [← hpart]; rfl
  have hstill (hpart : m.sendPart = none) : OnlyThread s s s.iss.gid (m.entering none) :=
    OnlyThread.refl ((hsame hpart).symm ▸ hi.1)
  refine ⟨fun hn => ?_, fun hn hpart => ⟨fun hbad => ?_, fun hok hsome => ?_, fun hok hnone => ?_⟩, fun h ws hn hpart => ⟨fun hmore => ?_, fun hlast => ?_⟩,
    fun hbad => ?_, fun hok hop hreach => ⟨fun hpart => ?_, fun hpart => ?_⟩⟩
  · show execMsndWrite n a s = _
    rw [execMsndWrite, if_pos (bne_iff_ne.2 hn)]
    rfl
  · rw [exec_msnd_header hi hn hpart, hdrOk_of_not_legal hbad]
    rfl
  · refine State.turns_of_ok hi (·.entering (some (v, []))) (fun _ => rfl) ?_
    rw [exec_msnd_header hi hn hpart, hdrOk_of_legal hok, hlen, if_neg (by simp), if_pos (by simpa using hsome)]
  · have hexec := exec_msnd_header hi (a := a) hn hpart
    rw [hdrOk_of_legal hok, hlen, if_neg (by simp), if_neg (by simpa using hnone)] at hexec
    have h := State.enters hi none (hstill hpart) hexec
    rw [hsame hpart] at h
    exact h
  · refine State.turns_of_ok hi (·.entering (some (h, ws ++ [v]))) (fun _ => rfl) ?_
    rw [exec_msnd_word hi hn hpart, hlen, if_pos hmore]
  · have hexec := exec_msnd_word hi (a := a) hn hpart
    rw [hlen, if_neg (Nat.not_lt.2 hlast)] at hexec
    exact State.enters hi none (OnlyThread.modMe hi.1 (·.entering none) fun _ => rfl) hexec
  · have hcond : (!hdrOk v || hdrLen v != op.val) = true := by
      by_cases hok : legal
      · have hne : hdrLen v ≠ op.val := fun h => hbad ⟨hok, h⟩
        simp [hne]
      · simp [hdrOk_of_not_legal hok]
    rw [exec_send hi, if_pos hcond]
  all_goals
    have hcond : (!hdrOk v || hdrLen v != op.val) = false := by simp [hdrOk_of_legal hok, hlen, hop]
    have hto : (decide (v / 2 ^ 62 = 0) && !s.mayReach (hdrGid v)) = false := by
      rcases hreach with h | h
      · have hkind : v / 2 ^ 62 ≠ 0 := fun h0 => Nat.one_ne_zero (h.symm.trans h0)
        rw [decide_eq_false hkind, Bool.false_and]
      · simp [show s.mayReach (hdrGid v) = true from h]
    have hexec := exec_send hi a b op
    rw [hcond, hto, if_neg Bool.false_ne_true, if_neg Bool.false_ne_true] at hexec
  · rw [hexec, if_pos (Option.isSome_iff_ne_none.2 hpart)]
  · rw [hpart, if_neg (by simp)] at hexec
    have h := State.enters hi none (hstill hpart) hexec
    rw [hsame hpart] at h
    exact h

theorem receiveResults : Clause.ReceiveResults := by
  intro s m d p hi slot c first takes parks
  obtain ⟨hm, hj, hq, -⟩ := id hi
  have hkey (f : Flit) : (c.received f).key = s.myCore := s.core_key s.myCore
  have hfirst (o : Option Flit) (h : first = o) : s.takeFlit s.myCore (gidSlot s.iss.gid) = o.map fun f => (f, s.setCore (c.received f)) :=
    State.takeFlit_of h
  have hflit (f : Flit) : OnlyThread (s.setCore (c.received f)) ((s.setCore (c.received f)).modMe (·.setFlit d.val f)) s.iss.gid (m.setFlit d.val f) :=
    OnlyThread.modMe (s := s.setCore (c.received f)) hm _ fun t => t.setFlit_gid _ _
  refine ⟨fun v rest hpart => ⟨?_, ?_, ?_⟩, fun hpart => ⟨fun f hf => ⟨?_, ?_, ?_⟩, fun hnone => ⟨fun hwait hhold => ?_, fun hwait hhold => ?_, ?_⟩⟩⟩
  · refine State.turns_of_modMe_res hi (fun t => { t with recvPart := rest }) (fun _ => rfl) hq ?_
    show execMrcvRead d s = _
    rw [execMrcvRead, hi.me, hpart]
    rfl
  · show execRecvWait d s = _
    rw [execRecvWait, hi.me, hpart]
    rfl
  · show execRecvPoll d p s = _
    rw [execRecvPoll, hi.me, hpart]
    rfl
  · refine State.coreTo_of (hkey f) (o := (State.modMe (s.setCore (c.received f)) fun t => { t with recvPart := f.words }).res d (wd f.hdr)) ?_ ?_
    · show execMrcvRead d s = _
      rw [execMrcvRead, hi.me, hpart, hfirst _ hf]
      rfl
    · exact (OnlyThread.modMe (s := s.setCore (c.received f)) hm (fun t => { t with recvPart := f.words }) fun _ => rfl).res hj hq d (wd f.hdr)
  · refine State.coreTo_of (hkey f) (o := (State.modMe (s.setCore (c.received f)) (·.setFlit d.val f)).ok) ?_ ((hflit f).ok hj)
    show execRecvWait d s = _
    rw [execRecvWait, hi.me, hpart, hfirst _ hf]
    rfl
  · refine State.coreTo_of (hkey f) (o := (State.modMe (s.setCore (c.received f)) (·.setFlit d.val f)).resP p true) ?_ ((hflit f).resP hj p true)
    show execRecvPoll d p s = _
    rw [execRecvPoll, hi.me, hpart]
    dsimp only
    rw [hfirst _ hf]
    rfl
  · refine ⟨s.parkRecv d.val 8, ?_, State.parkMe_parkedOn hm hwait hhold _⟩
    show execMrcvRead d s = _
    rw [execMrcvRead, hi.me, hpart, hfirst _ hnone]
    rfl
  · refine ⟨s.parkRecv d.val 0, ?_, State.parkMe_parkedOn hm hwait hhold _⟩
    show execRecvWait d s = _
    rw [execRecvWait, hi.me, hpart, hfirst _ hnone]
    rfl
  · let posting : Core := { c with posted := (slot, s.clock + 64) :: c.posted.filter fun x => x.1 != slot }
    have hposting : posting.key = s.myCore := s.core_key s.myCore
    refine State.coreTo_of hposting (o := (s.setCore posting).resP p false) ?_ ((OnlyThread.refl (s := s.setCore posting) hm).resP hj p false)
    show execRecvPoll d p s = _
    rw [execRecvPoll, hi.me, hpart]
    dsimp only
    rw [hfirst _ hnone]
    rfl

theorem continuationResults : Clause.ContinuationResults := by
  intro s m d a p hi slot c seq first takes
  obtain ⟨hm, hj, hq, -⟩ := id hi
  have hkey (x : Compl) : (c.collected x).key = s.myCore := s.core_key s.myCore
  have hfirst (o : Option Compl) (h : first = o) :
      s.takeCompl s.myCore (gidSlot s.iss.gid) = o.map fun x => (x.word, s.setCore (c.collected x)) := State.takeCompl_of h
  refine ⟨?cont, fun hreg => ?none, fun r v hreg hval => ?value, fun r hreg hval => ?waits, fun x hx => ⟨?mbox, ?waitm⟩,
    fun hnone => ⟨?poll, fun hwait hhold => ?parks⟩, fun hslot => ⟨?off, ?on⟩, fun hslot => ⟨?offRefused, ?onRefused⟩⟩
  case cont =>
    refine State.turns_of_modMe_res hi (fun t => { t with contSeq := seq, contReg := some a.val, contVal := none }) (fun _ => rfl) hq ?_
    show execCont d a s = _
    rw [execCont, hi.me]
    rfl
  case none =>
    refine State.puts_of_res hi ?_
    show execWaitr d s = _
    rw [execWaitr, hi.me, hreg]
  case value =>
    have hexec : exec (.waitr d) s = (((if d.val = r then s else s.put d 0).putN r v).modMe fun t => { t with contReg := none, contVal := none }).ok := by
      show execWaitr d s = _
      rw [execWaitr, hi.me, hreg, hval]
    have hstatus : OnlyThread s (if d.val = r then s else s.put d 0) s.iss.gid (if d.val = r then m else m.setReg d.val 0) := by
      split
      · exact OnlyThread.refl hm
      · exact OnlyThread.put hm hq d 0
    have hqmap : (if d.val = r then m else m.setReg d.val 0).qmap = 0 := by
      split
      · exact hq
      · rw [Thread.setReg_qmap, hq]
    have hboth : (if d.val = r then m else m.setReg d.val 0).setReg r v = (m.setReg d.val 0).setReg r v := by
      split
      · rename_i h
        rw [h, Thread.setReg_setReg]
      · rfl
    have hwritten := hstatus.andPutN hqmap r v
    rw [hboth] at hwritten
    obtain ⟨u, hu, honly⟩ := (hwritten.andModMe (fun t => { t with contReg := none, contVal := none }) fun _ => rfl).ok hj
    exact ⟨u, m, hexec.trans hu, hm, honly⟩
  case waits =>
    refine ⟨s.await .cont (s.doneTo d.val 0 0 8 false), ?_, OnlyThread.modMe hm _ fun _ => rfl⟩
    show execWaitr d s = _
    rw [execWaitr, hi.me, hreg, hval]
  case mbox =>
    refine State.coreTo_of (hkey x) (o := (State.put (s.setCore (c.collected x)) d (wd x.word)).resP p true) ?_ ?_
    · show execMbox d p s = _
      rw [execMbox, hfirst _ hx]
      rfl
    · exact (OnlyThread.put (s := s.setCore (c.collected x)) hm hq d (wd x.word)).resP hj p true
  case waitm =>
    refine State.coreTo_of (hkey x) (o := State.res (s.setCore (c.collected x)) d (wd x.word)) ?_ ?_
    · show execWaitm d s = _
      rw [execWaitm, hfirst _ hx]
      rfl
    · exact (OnlyThread.refl (s := s.setCore (c.collected x)) hm).res hj hq d (wd x.word)
  case poll =>
    refine State.putsP_of_resP hi ?_
    show execMbox d p s = _
    rw [execMbox, hfirst _ hnone]
    rfl
  case parks =>
    refine ⟨s.parkMe s.myDie (queueObj 4 s.iss.gid) okQueue (s.doneTo d.val 0 0 8 false), ?_, State.parkMe_parkedOn hm hwait hhold _⟩
    show execWaitm d s = _
    rw [execWaitm, hfirst _ hnone]
    rfl
  case off =>
    refine State.turns_of_modMe_res hi (fun t => { t with uiOn := false }) (fun _ => rfl) hq ?_
    show execUisetOff d s = _
    rw [execUisetOff, State.user_eq hslot, hi.me]
    cases m.uiOn <;> rfl
  case on =>
    refine State.turns_of_modMe_res hi (fun t => { t with uiOn := true }) (fun _ => rfl) hq ?_
    show execUisetOn d s = _
    rw [execUisetOn, State.user_eq hslot, hi.me]
    cases m.uiOn <;> rfl
  case offRefused =>
    show execUisetOff d s = _
    exact State.user_of_slot hslot _
  case onRefused =>
    show execUisetOn d s = _
    exact State.user_of_slot hslot _

/-- Settles O41: what is entered or taken is a part of the thread's record and of its core's, changed together; a thread that finds nothing parks. -/
theorem messages : Obligations.Messages := ⟨sendResults, receiveResults, continuationResults⟩
end

section
/-!
SUPPORT. Barrier objects at their home (09 R176, R177), and arrivals at a barrier that is still incomplete (06 R117; 09 R173, R174, R177).
-/
open Sys2Proof
namespace Sys2Proof.Machine

section
variable {s t u : State} {m : Thread} {r : Req} {w : Wait} {k v : Nat}

/-! ### The word of a barrier object -/

theorem ofBytes_lt (bs : List Byte) : ofBytes bs < 256 ^ bs.length := by
  induction bs with
  | nil => exact Nat.one_pos
  | cons b bs ih =>
    have hb := b.isLt
    rw [ofBytes, List.length_cons, Nat.pow_succ]
    omega
theorem State.readN_lt (s : State) (k n : Nat) : s.readN k n < 256 ^ n := by
  have h := ofBytes_lt (s.mem.bytes k n)
  rwa [Memory.bytes_length] at h
theorem bits_arrived (v : Nat) : bits v 15 0 = v % 2 ^ 16 := by rw [bits, Nat.pow_zero, Nat.div_one]
/-- The word of an object at which nobody has arrived. -/
theorem barWord_unarrived (auto spent : Bool) (gen cnt : Nat) : barWord auto spent gen cnt 0 =
    2 ^ 63 + (if auto then 2 ^ 62 else 0) + spent.toNat * 2 ^ 61 + gen % 2 ^ 29 * 2 ^ 32 + cnt * 2 ^ 16 := by
  cases auto with
  | false => rw [barWord, Bool.toNat_false, Nat.zero_mul, if_neg Bool.false_ne_true, Nat.add_zero (_ + _)]
  | true => rw [barWord, Bool.toNat_true, Nat.one_mul, if_pos rfl, Nat.add_zero (_ + _)]
/-- One more arrival adds 1 to the word of an object that is valid and not spent. -/
theorem barWord_succ (hv : v < 2 ^ 64) (hvalid : v.testBit 63 = true) (hspent : v.testBit 61 = false) :
    barWord (v.testBit 62) false (v / 2 ^ 32 % 2 ^ 29) (v / 2 ^ 16 % 2 ^ 16) (v % 2 ^ 16 + 1) = v + 1 := by
  rw [Nat.testBit_eq_decide_div_mod_eq] at hvalid hspent
  have h63 := of_decide_eq_true hvalid
  have h61 := of_decide_eq_false hspent
  have h62 : (v.testBit 62).toNat = v / 2 ^ 62 % 2 := by
    rw [Nat.testBit_eq_decide_div_mod_eq]
    rcases Nat.mod_two_eq_zero_or_one (v / 2 ^ 62) with h | h <;> rw [h] <;> rfl
  rw [barWord, h62, Bool.toNat_false]
  omega

/-! ### What a home does at an object -/

/-- Nobody is parked on the word: nobody is woken. -/
theorem State.wakeBar_of_unwaited (h : k ∉ s.barWaits.map (·.word)) (status : Nat) : s.wakeBar k status = s := by
  have hne : ∀ x ∈ s.barWaits, x.word ≠ k := fun x hx he => h (List.mem_map.2 ⟨x, hx, he⟩)
  have hnone : s.barWaits.filter (·.word == k) = [] := List.filter_eq_nil_iff.2 fun x hx => by simpa using hne x hx
  have hall : s.barWaits.filter (·.word != k) = s.barWaits := List.filter_eq_self.2 fun x hx => by simpa using hne x hx
  rw [State.wakeBar, hnone, hall]
  rfl
theorem State.barInit_of_bad_count {cnt : Nat} (h : cnt = 0 ∨ 65535 < cnt) (auto : Bool) : s.barInit k auto cnt = (2, s) :=
  if_pos (by simpa using h)
theorem State.barInit_of_unwaited (h : k ∉ s.barWaits.map (·.word)) {cnt : Nat} (h1 : 1 ≤ cnt) (h2 : cnt ≤ 65535) (auto : Bool) :
    s.barInit k auto cnt = (0, s.writeN k 8
      (barWord auto false (if (s.readN k 8).testBit 63 then s.readN k 8 / 2 ^ 32 % 2 ^ 29 + 1 else 0) cnt 0)) := by
  have hcount : ¬(decide (cnt = 0) || decide (65535 < cnt)) = true := by
    rw [Bool.or_eq_true, decide_eq_true_iff, decide_eq_true_iff]
    omega
  have hnobody : (s.barWaits.any fun x => x.word == k) = false :=
    List.any_eq_false.2 fun x hx he => h (List.mem_map.2 ⟨x, hx, beq_iff_eq.1 he⟩)
  rw [State.barInit, if_neg hcount]
  dsimp only
  rw [hnobody, State.wakeBar_of_unwaited (by rwa [State.writeN, State.writeBytes_barWaits]), tbit_eq_testBit]
  rfl
section
variable (hv : s.readN k 8 = v) {g uid : Nat}
include hv
theorem State.barArrive_of_invalid (h63 : v.testBit 63 = false) : s.barArrive k g uid = (some 4, s) := by
  rw [State.barArrive, hv, tbit_eq_testBit, h63]
  rfl
theorem State.barArrive_of_spent (h63 : v.testBit 63 = true) (h61 : v.testBit 61 = true) : s.barArrive k g uid = (some 3, s) := by
  rw [State.barArrive, hv, tbit_eq_testBit, h63, tbit_eq_testBit, h61]
  rfl
/-- The last arrival, on an object on which nobody is parked. -/
theorem State.barArrive_of_last (h63 : v.testBit 63 = true) (h61 : v.testBit 61 = false)
    (hlast : v / 2 ^ 16 % 2 ^ 16 ≤ v % 2 ^ 16 + 1) (hnone : k ∉ s.barWaits.map (·.word)) :
    s.barArrive k g uid = (some 0, s.writeN k 8 (if v.testBit 62 then barWord true false (v / 2 ^ 32 % 2 ^ 29 + 1) (v / 2 ^ 16 % 2 ^ 16) 0
      else barWord false true (v / 2 ^ 32 % 2 ^ 29) (v / 2 ^ 16 % 2 ^ 16) 0)) := by
  have hcount : ¬bits v 15 0 + 1 < bits v 31 16 := by
    rw [bits_arrived]
    exact Nat.not_lt.2 hlast
  rw [State.barArrive, hv]
  dsimp only
  rw [tbit_eq_testBit, tbit_eq_testBit, tbit_eq_testBit, h63, h61, if_neg (by decide), if_neg (by decide), if_neg hcount,
    ← apply_ite (s.writeN k 8), State.wakeBar_of_unwaited (by rwa [State.writeN, State.writeBytes_barWaits])]
  rfl
/-- An arrival before the last one. -/
theorem State.barArrive_of_earlier (h63 : v.testBit 63 = true) (h61 : v.testBit 61 = false)
    (hmore : v % 2 ^ 16 + 1 < v / 2 ^ 16 % 2 ^ 16) :
    s.barArrive k g uid = (none, { s.writeN k 8 (v + 1) with
      barWaits := s.barWaits ++ [{ word := k, gid := g, uid := uid, gen := v / 2 ^ 32 % 2 ^ 29 }] }) := by
  have hlt : v < 2 ^ 64 := hv ▸ s.readN_lt k 8
  have hcount : bits v 15 0 + 1 < bits v 31 16 := by
    rw [bits_arrived]
    exact hmore
  rw [State.barArrive, hv]
  dsimp only
  rw [tbit_eq_testBit, tbit_eq_testBit, tbit_eq_testBit, h63, h61, if_neg (by decide), if_neg (by decide), if_pos hcount, bits_arrived,
    show bits v 60 32 = v / 2 ^ 32 % 2 ^ 29 from rfl, show bits v 31 16 = v / 2 ^ 16 % 2 ^ 16 from rfl, barWord_succ hlt h63 h61]
  rfl
end
/-- The state once the arrival that request `r` brings has been counted in the object's word, which was `v`. -/
def State.counted (s : State) (r : Req) (v : Nat) : State := { s with
  mem := s.mem.write r.key (bytesOf 8 (v + 1)), reqs := s.reqs.filter (·.id != r.id),
  barWaits := s.barWaits ++ [{ word := r.key, gid := r.gid, uid := r.uid, gen := v / 2 ^ 32 % 2 ^ 29 }] }
theorem State.dropReq_arrived (hbad : s.bad = []) (hsoft : s.soft = []) (r : Req) (v : Nat) :
    ({ s.writeN r.key 8 (v + 1) with
      barWaits := s.barWaits ++ [{ word := r.key, gid := r.gid, uid := r.uid, gen := v / 2 ^ 32 % 2 ^ 29 }] } : State).dropReq r.id =
      s.counted r v := by
  simp only [State.dropReq, State.writeN, State.writeBytes, State.counted, hbad, hsoft, List.filter_nil]
theorem State.perform_barinit {auto : Bool} {cnt : Nat} (hop : r.op = .barinit auto cnt) (hp : s.plainAt r.key 8) :
    s.perform r = (s.barInit r.key auto cnt).2.answer r (okRes (s.barInit r.key auto cnt).1 0 false) := by
  rw [State.perform, hop]
  dsimp only
  rw [State.guardedW_of_plain hp (le_refl 8)]
/-- On a word that can be read and written, an arrival is answered with its status, or parks its thread. -/
theorem State.perform_barObj (hop : r.op = .barObj) (hread : ∀ f, s.guarded r 8 f = f s) (hwrite : ∀ f, s.guardedW r 8 f = f s)
    {status : Option Nat} (h : s.barArrive r.key r.gid r.uid = (status, t)) :
    s.perform r = status.elim ((t.dropReq r.id).parkReq r r.key okBar) fun v => t.answer r (okRes v 0 false) := by
  rw [State.perform, hop]
  dsimp only
  rw [hread, hwrite, ite_self, h]
  cases status <;> rfl
theorem State.guarded_of_good (hbad : s.bad = []) (hsoft : s.soft = []) (r : Req) (n : Nat) (f : State → State) : s.guarded r n f = f s := by
  have hgood : s.badIn r.key n = none := by simp [State.badIn, hbad]
  have hcount : s.countSoft r.key n = s := by
    rw [State.countSoft]
    split
    · exact if_pos (by simp [hsoft])
    · rfl
  rw [State.guarded, hgood]
  exact congrArg f hcount
theorem State.guardedW_of_good (hbad : s.bad = []) (hsoft : s.soft = []) (r : Req) (n : Nat) (f : State → State) :
    s.guardedW r n f = f s := by
  have hgood : s.partBad r.key n 0 = none := by
    rw [State.partBad, hbad]
    split <;> exact List.find?_eq_none.2 fun _ _ h => nomatch h
  rw [State.guardedW, State.guarded_of_good hbad hsoft, hgood]

/-! ### Parking on an object that nobody holds -/

/-- A thread as it parks, with the half of the instruction that waits. -/
def State.parks (s : State) (g obj ok : Nat) (fin : Done) (pc : Nat) (t : Thread) : Thread :=
  t.parkedAt obj ok ((t.wait.map (·.half)).getD (g == s.iss.gid && s.iss.half)) fin pc
/-- Parking changes the thread's record and the tables of edges. -/
theorem State.park_of_unheld {g die obj ok : Nat} (hhold : s.holdEdges obj = []) (fin : Done) (pc : Nat) :
    ∃ ds es, s.park g die obj ok fin pc = ({ s.modThread g (s.parks g obj ok fin pc) with dies := ds, edges := es }, none) ∧
      ((s.freeEntry die).isSome = true → es.any (fun e => e.die == die && e.obj == obj && e.ok == ok && e.ek == 0 && e.gid == g) = true) :=
  (s.modThread g (s.parks g obj ok fin pc)).enterWait_of_unheld hhold
theorem State.parkMe_of_unheld {die obj ok : Nat} (hhold : s.holdEdges obj = []) (fin : Done) :
    ∃ ds es, s.parkMe die obj ok fin = { s.modMe (s.parks s.iss.gid obj ok fin s.iss.pc) with dies := ds, edges := es } := by
  obtain ⟨ds, es, hpark, -⟩ := State.park_of_unheld (g := s.iss.gid) (die := die) (ok := ok) hhold fin s.iss.pc
  exact ⟨ds, es, by rw [State.parkMe, hpark]; rfl⟩
/-- A request whose thread waits for it parks that thread on an object. -/
theorem State.parkReq_of_unheld (hm : s.thread? r.gid = some m) (hw : m.wait = some w) {obj ok : Nat} (hhold : s.holdEdges obj = []) :
    ∃ ds es, s.parkReq r obj ok = { s.modThread r.gid (s.parks r.gid obj ok w.fin m.pc.toNat) with dies := ds, edges := es } ∧
      ((s.freeEntry (((homeQuad r.key).map qkDie).getD (gidDie r.gid))).isSome = true →
        es.any (fun e => e.die == ((homeQuad r.key).map qkDie).getD (gidDie r.gid) && e.obj == obj && e.ok == ok && e.ek == 0 &&
          e.gid == r.gid) = true) := by
  obtain ⟨ds, es, hpark, hedge⟩ := State.park_of_unheld (g := r.gid) (die := ((homeQuad r.key).map qkDie).getD (gidDie r.gid)) (ok := ok)
    hhold w.fin m.pc.toNat
  refine ⟨ds, es, ?_, hedge⟩
  rw [State.parkReq, State.thread_of hm, hw]
  dsimp only
  rw [State.parkAt, hpark]
theorem State.parks_of_wait {g obj ok : Nat} (hw : m.wait = some w) : s.parks g obj ok w.fin m.pc.toNat m =
    { m with stat := .parked, wait := some { w with why := .parked obj ok, again := false } } := by
  rw [State.parks, Thread.parkedAt, hw, wd, BitVec.ofNat_toNat, BitVec.setWidth_eq]
  rfl
end
end Sys2Proof.Machine
open Sys2Proof.Machine

theorem barrierObjects : Clause.BarrierObjects := by
  intro s r auto cnt h v valid gen word ok does
  obtain ⟨hfind, hmay, hcomb, hplain, -⟩ := h
  have hp := State.plainAt_sliceSeen hplain r
  have hexec := State.homeAccess_performs hfind hcomb hmay
  have hread : (s.sliceSeen r).readN r.key 8 = v := s.readN_sliceSeen r r.key 8
  have hnone : r.key ∉ (s.sliceSeen r).barWaits.map (·.word) := (State.plainAt_clear hp ⟨by omega, by omega⟩).2.2
  have answers {x : Res} (hx : (s.sliceSeen r).perform r = (s.sliceSeen r).answer r x) : does s.mem x :=
    ⟨_, hexec, hx ▸ s.sliceSeen_answered r x⟩
  have writes {x : Res} {n : Nat} (hx : (s.sliceSeen r).perform r = ((s.sliceSeen r).writeN r.key 8 n).answer r x) :
      does (s.mem.write r.key (bytesOf 8 n)) x := by
    obtain ⟨bad, soft, hw⟩ := s.sliceSeen_writeBytes r r.key (bytesOf 8 n)
    rw [State.writeN, hw] at hx
    exact ⟨_, hexec, hx ▸ s.remembers_answered r _ bad soft x⟩
  have arrives (hop : r.op = .barObj) {status : Option Nat} {t : State} (ht : (s.sliceSeen r).barArrive r.key r.gid r.uid = (status, t)) :=
    State.perform_barObj hop (State.guarded_of_plain hp (le_refl 8)) (State.guardedW_of_plain hp (le_refl 8)) ht
  have hword (a spent : Bool) (g c : Nat) : bytesOf 8 (barWord a spent g c 0) = word a spent.toNat g c :=
    congrArg (bytesOf 8) (barWord_unarrived a spent g c)
  refine ⟨fun hop hcnt => ?_, fun hop h1 h2 => ?_, fun hop h63 => ?_, fun hop h63 h61 => ?_, fun hop h63 h61 hlast => ?_⟩
  · refine answers ?_
    rw [State.perform_barinit hop hp, State.barInit_of_bad_count hcnt]
    rfl
  · have hdone := State.perform_barinit hop hp
    rw [State.barInit_of_unwaited hnone h1 h2, hread] at hdone
    rw [← show bytesOf 8 _ = word auto 0 _ cnt from hword auto false _ cnt]
    exact writes hdone
  · exact answers (arrives hop (State.barArrive_of_invalid hread h63))
  · exact answers (arrives hop (State.barArrive_of_spent hread h63 h61))
  · have hdone := writes (arrives hop (State.barArrive_of_last hread h63 h61 hlast hnone))
    rw [apply_ite (bytesOf 8), hword, hword] at hdone
    exact hdone

theorem barrierArrivals : Clause.BarrierArrivals := by
  intro s r m w hfind hop hmay hcomb hbad hsoft hm hw hhold v die h63 h61 hmore
  have hseen := s.sliceSeen_eq r
  have hbad' : (s.sliceSeen r).bad = [] := by rw [hseen]; exact hbad
  have hsoft' : (s.sliceSeen r).soft = [] := by rw [hseen]; exact hsoft
  have harrive := State.barArrive_of_earlier (g := r.gid) (uid := r.uid) (s.readN_sliceSeen r r.key 8) h63 h61 hmore
  have hperform := State.perform_barObj hop (State.guarded_of_good hbad' hsoft' r 8) (State.guardedW_of_good hbad' hsoft' r 8) harrive
  rw [State.dropReq_arrived hbad' hsoft'] at hperform
  generalize hx : (s.sliceSeen r).counted r v = x at hperform
  have hthreads : x.threads = s.threads := by rw [← hx, hseen]; rfl
  have hedges : x.edges = s.edges := by rw [← hx, hseen]; rfl
  have hm' : x.thread? r.gid = some m := by rw [State.thread?, hthreads]; exact hm
  obtain ⟨ds, es, hpark, hedge⟩ := State.parkReq_of_unheld (ok := okBar) hm' hw (by rw [State.holdEdges, hedges]; exact hhold)
  rw [State.freeEntry, hedges] at hedge
  obtain ⟨-, hself, hother⟩ := OnlyThread.modThread hm' (x.parks r.gid r.key okBar w.fin m.pc.toNat) fun _ => rfl
  rw [State.parks_of_wait hw] at hself
  refine ⟨_, (State.homeAccess_performs hfind hcomb hmay).trans (congrArg _ (hperform.trans hpark)), ?_, hself, fun h hne => ?_, hedge⟩
  · rw [← hx, hseen]
    rfl
  · exact (hother h hne).trans (by rw [State.thread?, hthreads]; rfl)
end

section
/-!
SUPPORT. What the checks of an access leave of the state, and arrivals at a network barrier (06 R117; 09 R173, R174; 11 R204).
-/
open Sys2Proof
namespace Sys2Proof.Machine

section
variable {s t u : State} {m : Thread}

/-! ### Looking addresses up -/

/-- What every look-up keeps, the translation of an access keeps. -/
theorem State.pages_keeps {P : State → Prop} (hlook : ∀ x q asid sel va, P x → P (x.lookupTlb q asid sel va).2) (w : Who) (q sel : Nat) :
    ∀ (fuel va len : Nat) (acc : List (Nat × Nat)) (perm : Nat) (s : State), P s → P (s.pages? w q sel fuel va len acc perm).2
  | 0, _, _, _, _, _, h => h
  | fuel + 1, va, len, acc, perm, s, h => by
    have hone := hlook s q w.asid sel va h
    rw [State.pages?]
    split
    · next heq =>
      rw [heq] at hone
      exact hone
    · next heq =>
      rw [heq] at hone
      dsimp only
      split
      · exact hone
      · exact State.pages_keeps hlook w q sel fuel _ _ _ _ _ hone
theorem State.check_keeps {P : State → Prop} (hlook : ∀ x q asid sel va, P x → P (x.lookupTlb q asid sel va).2) (h : P s) (w : Who)
    (need : Nat) (fe : Bool) (align addr len : Nat) : P (s.check w need fe align addr len).2 := by
  have pages {sel va : Nat} {a : Option (List (Nat × Nat) × Nat) × Nat} {x : State}
      (e : s.pages? w (gidQk w.gid) sel (len / 65536 + 2) va len [] 7 = (a, x)) : P x := by
    have hx := State.pages_keeps hlook w (gidQk w.gid) sel (len / 65536 + 2) va len [] 7 s h
    rw [e] at hx
    exact hx
  fun_cases State.check s w need fe align addr len with
  | case9 => exact pages ‹_›
  | case10 => exact pages ‹_›
  | case11 => exact pages ‹_›
  | _ => exact h
/-- The state `t` is `s` but for translation entries: the quads belong to the same partitions. -/
structure State.Filled (s t : State) : Prop where
  rest : t = { s with quads := t.quads, dies := t.dies }
  owner : ∀ q, t.owner q = s.owner q
theorem State.Filled.refl (s : State) : s.Filled s := ⟨rfl, fun _ => rfl⟩
theorem State.Filled.trans (h : s.Filled t) (k : t.Filled u) : s.Filled u :=
  ⟨by rw [k.rest, h.rest], fun q => (k.owner q).trans (h.owner q)⟩
theorem State.filled_fillQuad (s : State) (q : Nat) (e : Tlb) : s.Filled (s.fillQuad q e) := by
  refine ⟨rfl, fun k => ?_⟩
  rw [State.owner, State.owner, State.fillQuad]
  by_cases h : k = q
  · subst h
    have hfilled := State.quad_setQuad_of_key (s := s) (q := { s.quad k with tlb := lruPut Config.quadTable e (s.quad k).tlb }) (s.quad_key k)
    rw [hfilled]
  · rw [s.quad_setQuad_other _ k (by rw [s.quad_key]; exact h)]
theorem State.filled_lookupTlb (s : State) (q asid sel va : Nat) : s.Filled (s.lookupTlb q asid sel va).2 := by
  unfold State.lookupTlb
  split
  · exact s.filled_fillQuad _ _
  · split
    · exact State.Filled.trans (t := s.fillDie _ _) ⟨rfl, fun _ => rfl⟩ (State.filled_fillQuad _ _ _)
    · exact State.Filled.refl s
theorem State.filled_bankAccess {need align ea len k : Nat} (h : s.bankAccess need align ea len = .key k u) : s.Filled u := by
  have hcheck := State.check_keeps (P := s.Filled) (fun x q asid sel va hx => hx.trans (x.filled_lookupTlb q asid sel va)) (State.Filled.refl s)
    s.who need true align ea len
  rw [State.bankAccess] at h
  split at h
  · cases h
  · rw [State.access] at h
    split at h
    · next heq =>
      cases h
      rw [heq] at hcheck
      exact hcheck
    · cases h
    · cases h
    · cases h
section
variable (h : s.Filled u)
include h
theorem State.Filled.partOf (g : Nat) : u.partOf g = s.partOf g := by
  have hpart : (u.quad (gidQk g)).part = (s.quad (gidQk g)).part := h.owner (gidQk g)
  rw [State.partOf, hpart, h.rest]
  rfl
theorem State.Filled.inExtent (g scope k : Nat) : u.inExtent g scope k = s.inExtent g scope k := by
  unfold State.inExtent
  simp only [h.owner, h.partOf]
theorem State.Filled.msgIn (g scope : Nat) (x : Msg) : u.msgIn g scope x = s.msgIn g scope x := by
  have hpkg : u.pkg = s.pkg := by rw [h.rest]
  unfold State.msgIn
  simp only [h.owner, h.partOf, hpkg]
/-- A look-up performs none of a thread's accesses and sends none of its messages. -/
theorem State.Filled.storesDue (scope : Nat) : u.storesDue scope = s.storesDue scope := by
  have hiss : u.iss = s.iss := by rw [h.rest]
  have hthread (g : Nat) : u.thread g = s.thread g := by rw [h.rest]; rfl
  have hpending (uid : Nat) : u.pending uid = s.pending uid := by rw [h.rest]; rfl
  have hmsgs : u.msgs = s.msgs := by rw [h.rest]
  unfold State.storesDue State.storesDueOf State.msgsDue
  simp only [hiss, hthread, hpending, hmsgs, h.inExtent, h.msgIn]
end

/-! ### Arrivals at a network barrier -/

/-- A barrier that a thread of the domain has still to arrive at is not complete. -/
theorem State.barSettle_of_waiting {dom : Nat}
    (h : ∀ b ∈ s.netBars, ∃ x ∈ s.participants b, (b.arrivals.any fun a => a.uid == x.uid) = false) : s.barSettle dom = s := by
  refine List.foldlRecOn _ _ (motive := fun t => t = s) rfl fun t ht b hb => ?_
  obtain ⟨x, hx, hnot⟩ := h b (List.mem_filter.1 hb).1
  subst ht
  exact if_neg fun hall => by rw [List.all_eq_true.1 hall x hx] at hnot; exact Bool.noConfusion hnot
/-- Parking leaves a barrier's participants what they are. -/
theorem State.mem_participants_modMe {b : NetBar} {x : Thread} (hx : x ∈ s.participants b) (obj ok : Nat) (fin : Done) (pc : Nat) :
    ∃ y ∈ (s.modMe (s.parks s.iss.gid obj ok fin pc)).participants b, y.uid = x.uid := by
  obtain ⟨hmem, hpart⟩ := List.mem_filter.1 hx
  refine ⟨_, List.mem_filter.2 ⟨List.mem_map.2 ⟨x, hmem, rfl⟩, ?_⟩, ?_⟩
  · split <;> exact hpart
  · split <;> rfl
/-- A thread that parks on an object which nobody holds completes no barrier that another thread has still to arrive at. -/
theorem State.parkMe_of_waiting {b : NetBar} (hbars : s.netBars = [b]) {x : Thread} (hx : x ∈ s.participants b)
    (hnot : (b.arrivals.any fun a => a.uid == x.uid) = false) {die obj ok : Nat} (hhold : s.holdEdges obj = []) (fin : Done) (dom : Nat) :
    (s.parkMe die obj ok fin).netBars = [b] ∧ (s.parkMe die obj ok fin).barSettle dom = s.parkMe die obj ok fin := by
  obtain ⟨ds, es, hpark⟩ := State.parkMe_of_unheld (die := die) (ok := ok) hhold fin
  have hkept : (s.parkMe die obj ok fin).netBars = [b] := by rw [hpark]; exact hbars
  obtain ⟨y, hy, huid⟩ := State.mem_participants_modMe hx obj ok fin s.iss.pc
  refine ⟨hkept, State.barSettle_of_waiting fun b' hb' => ⟨y, ?_, ?_⟩⟩
  · rw [hkept, List.mem_singleton] at hb'
    rw [hb', hpark]
    exact hy
  · rw [hkept, List.mem_singleton] at hb'
    rw [hb', huid]
    exact hnot
/-- The barrier that the arrival of `m` begins, in its scope `sc`. -/
def Thread.begins (m : Thread) (sc red : Nat) (drn : Bool) (operand : Nat) (drain : Option Nat) : NetBar :=
  { dom := m.dom, obj := netObj m.dom sc m.gid, scope := sc, red := red, drn := drn,
    arrivals := [{ gid := m.gid, uid := m.uid, operand := operand, drain := drain, gone := false }], poisoned := false, draining := none }
/-- The first arrival at a barrier that another thread has still to arrive at. -/
theorem State.arriveBar_first (hi : s.issues m) {sc : Nat} (hbars : s.netBars = []) (hdue : s.storesDue sc = false) (hwait : m.wait = none)
    (hhold : s.holdEdges (netObj m.dom sc m.gid) = [])
    (hlate : (s.threads.any fun t => t.dom == m.dom && netObj m.dom sc t.gid == netObj m.dom sc m.gid && t.uid != m.uid &&
      !s.lostDies.contains (gidDie t.gid)) = true)
    (d b c : Reg) (tval red : Nat) (drn : Bool) (drain : Option Nat) :
    ∃ t, s.arriveBar d b c tval red sc drn drain = .next t ∧
      ParkedOn s t m (netDie m.gid sc) (netObj m.dom sc m.gid) okNet (s.doneTo d.val (if red = 0 then 0 else c.val) 0 8 false) ∧
      t.netBars = [m.begins sc red drn (m.reg b.val).toNat drain] := by
  obtain ⟨hm, -⟩ := id hi
  let x : State := { s with netBars := [m.begins sc red drn (m.reg b.val).toNat drain] }
  have hhold' : x.holdEdges (netObj m.dom sc m.gid) = [] := hhold
  obtain ⟨y, hy, hpart⟩ := List.any_eq_true.1 hlate
  simp only [Bool.and_eq_true, bne_iff_ne] at hpart
  obtain ⟨⟨⟨hdom, hobj⟩, huid⟩, hdie⟩ := hpart
  have hyet : y ∈ x.participants (m.begins sc red drn (m.reg b.val).toNat drain) :=
    List.mem_filter.2 ⟨hy, by rw [Bool.and_eq_true, Bool.and_eq_true]; exact ⟨⟨hdom, hobj⟩, hdie⟩⟩
  have hnot : ((m.begins sc red drn (m.reg b.val).toNat drain).arrivals.any fun a => a.uid == y.uid) = false := by
    simpa [Thread.begins] using Ne.symm huid
  let fin := s.doneTo d.val (if red = 0 then 0 else c.val) 0 8 false
  obtain ⟨hkept, hsettle⟩ := State.parkMe_of_waiting (s := x) rfl hyet hnot (die := netDie m.gid sc) (ok := okNet) hhold' fin m.dom
  refine ⟨_, ?_, State.parkMe_parkedOn (s := x) hm hwait hhold' fin, hkept⟩
  have hnext : s.arriveBar d b c tval red sc drn drain = .next ((x.parkMe (netDie m.gid sc) (netObj m.dom sc m.gid) okNet fin).barSettle m.dom) := by
    rw [State.arriveBar, s.me_of m hm, State.gv_plain hi, hbars]
    dsimp only [List.find?_nil, List.nil_append, Option.any_none]
    rw [hdue]
    rfl
  rw [hnext, hsettle]
end
end Sys2Proof.Machine
open Sys2Proof.Machine

theorem networkBarriers : Clause.NetworkBarriers := by
  intro s m d a b c red sc hi hsc obj arrive new fin hbars hdue hwait hhold hlate
  refine ⟨?_, fun k u hkey => ?_⟩
  · obtain ⟨t, ht, hparked, hbar⟩ := State.arriveBar_first hi hbars hdue hwait hhold hlate d b c (sc.val + 16 * red.val) red.val false none
    refine ⟨t, ?_, hparked, hbar⟩
    show execBarNetwork d b c red sc s = _
    rw [execBarNetwork, State.scoped_of_ok hsc, ht]
  · have hl := State.looked_bankAccess hkey
    have hf := State.filled_bankAccess hkey
    have hbars' : u.netBars = [] := by rw [hf.rest]; exact hbars
    have hhold' : u.holdEdges obj = [] := by rw [hf.rest]; exact hhold
    obtain ⟨t, ht, hparked, hbar⟩ := State.arriveBar_first (hl.issues hi) hbars' ((hf.storesDue sc.val).trans hdue) hwait hhold'
      (by rw [hf.rest]; exact hlate) d b c (sc.val + 8 + 16 * red.val) red.val true (some ((homeQuad k).getD 0))
    rw [hl.doneTo] at hparked
    refine ⟨t, ?_, hparked, hbar⟩
    show execBarDrain d a b c red sc s = _
    rw [execBarDrain, State.scoped_of_ok hsc]
    dsimp only
    rw [State.gv_plain hi, hkey]
    exact ht

/-- Settles O23: what a home answers and writes follows from the fields of the object's word; an arrival before the last one parks its thread,
and at a network barrier the thread that has still to come keeps it incomplete. -/
theorem barriers : Obligations.Barriers := ⟨barrierObjects, barrierArrivals, networkBarriers⟩
end
section
/-!
SUPPORT. Reservations at their home (07 R136, R137; 09 R170).
-/
open Sys2Proof
namespace Sys2Proof.Machine

section
variable {s t : State} {r : Req} {n v : Nat}

/-- The answer of a home stands in the request. -/
theorem State.answer_find (hfind : t.reqs.find? (·.id == r.id) = some r) (x : Res) :
    ∃ q, (t.answer r x).reqs.find? (·.id == r.id) = some q ∧ q.res = some x := by
  have hmap := find?_map_key Req.id (fun q => { q with res := some x, hop :=
    { q.hop with cur := q.hop.dst, dst := gidQk q.gid, mid := none, chan := 1, port := .here, since := t.clock, age := 0, urgent := false } })
    r.id r.id t.reqs fun _ h => h
  rw [if_pos rfl, hfind] at hmap
  exact ⟨_, hmap, rfl⟩
/-- Entering a hold edge leaves everything but the tables of edges. -/
theorem State.hold_eq (s : State) (die obj ok ek gid : Nat) : ∃ ds es, s.hold die obj ok ek gid = { s with dies := ds, edges := es } := by
  rw [State.hold, State.enter]
  cases s.freeEntry die with
  | none => exact ⟨(s.overflowed die).dies, s.edges, rfl⟩
  | some i => exact ⟨s.dies, _, rfl⟩
/-- The first `lrw` of a word, at a home that holds no other reservation, holds the word and reads it. -/
theorem State.lrwAt_free (h : s.rsvs = []) (r : Req) (n : Nat) :
    ∃ t, s.lrwAt r n = (some (s.readN r.key n, true), t) ∧ t.reqs = s.reqs ∧ t.mem = s.mem ∧
      t.rsvs = [{ word := wordKey r.key, gid := r.gid, uid := r.uid, hold := true, scope := r.scope, off := r.key % 8 }] := by
  obtain ⟨ds, es, hhold⟩ := State.hold_eq
    { s with rsvs := [{ word := wordKey r.key, gid := r.gid, uid := r.uid, hold := true, scope := r.scope, off := r.key % 8 }] }
    (((homeQuad (wordKey r.key)).map qkDie).getD 0) (wordKey r.key) okRsv 1 r.gid
  have hat : s.lrwAt r n = (some (s.readN r.key n, true), { s with
      dies := ds, edges := es
      rsvs := [{ word := wordKey r.key, gid := r.gid, uid := r.uid, hold := true, scope := r.scope, off := r.key % 8 }] }) := by
    rw [State.lrwAt, h]
    exact congrArg (Prod.mk _) hhold
  exact ⟨_, hat, rfl, rfl, rfl⟩
/-- Giving up the hold of the one reservation there is: nobody queues behind it. -/
theorem State.dropHold_one {x : Rsv} {k : Nat} (h : s.rsvs = [x]) (hword : x.word = wordKey k) (hhold : x.hold = true) (g : Nat) :
    s.dropHold (wordKey k) g = { s.unhold (wordKey k) okRsv g with rsvs := [] } := by
  have hnone : (s.unhold (wordKey k) okRsv g).rsvs.filter (fun x => !(x.word == wordKey k && x.hold)) = [] := by
    show s.rsvs.filter _ = []
    rw [h]
    simp [hword, hhold]
  rw [State.dropHold, State.passHold, hnone]
  rfl
end
end Sys2Proof.Machine
open Sys2Proof.Machine

/-- Settles O22: each operation changes the list of reservations and memory, and then answers its request. -/
theorem reservations : Obligations.Reservations := by
  intro s r n v h hn hkey w mine answered
  obtain ⟨hfind, hmay, hcomb, hplain, -⟩ := h
  have hp := State.plainAt_sliceSeen hplain r
  have hexec := State.homeAccess_performs hfind hcomb hmay
  have hseen := s.sliceSeen_eq r
  generalize s.sliceSeen r = y at hp hexec hseen
  have hreqs : y.reqs = s.reqs := by rw [hseen]
  have hmem : y.mem = s.mem := by rw [hseen]
  have hrsvs : y.rsvs = s.rsvs := by rw [hseen]
  have answers {t : State} (ht : t.reqs = y.reqs) (x : Res) : answered (t.answer r x) x :=
    State.answer_find (by rw [ht, hreqs]; exact hfind) x
  refine ⟨fun hop hfree => ?lrw, fun hop hnot => ?schRefused, fun x hop hone hmine => ?sch, fun x hop hone hword huid => ?rsvx⟩
  case lrw =>
    obtain ⟨t, hat, htreqs, htmem, htrsvs⟩ := State.lrwAt_free (s := y) (hrsvs.trans hfree) r n
    have hperform : y.perform r = t.answer r (okRes (s.readN r.key n) 0 true) := by
      rw [State.perform, hop]
      dsimp only
      rw [State.guarded_of_plain hp hn, hat, State.readN, State.readN, hmem]
    exact ⟨_, hexec.trans (congrArg _ hperform), htmem.trans hmem, htrsvs, answers htreqs _⟩
  case schRefused =>
    have hperform : y.perform r = y.answer r (okRes 0 0 false) := by
      rw [State.perform, hop]
      dsimp only
      rw [hrsvs, if_neg (by rw [Bool.not_eq_true]; exact hnot)]
    exact ⟨_, hexec.trans (congrArg _ hperform), hmem, hrsvs, answers rfl _⟩
  case sch =>
    obtain ⟨⟨hword, huid⟩, hhold⟩ : (x.word = w ∧ x.uid = r.uid) ∧ x.hold = true := by simpa [mine] using hmine
    have hlen : (bytesOf n v).length ≤ 8 := by rw [bytesOf_length]; exact hn
    have hperform : y.perform r =
        ({ (y.writeBytes r.key (bytesOf n v)).unhold w okRsv r.gid with rsvs := [] } : State).answer r (okRes 0 0 true) := by
      rw [State.perform, hop]
      dsimp only
      rw [hrsvs, hone, if_pos (by simpa [mine, wordKey] using hmine), State.partBad_of_plain hp hn, State.homeWrite_of_plain hp hlen]
      dsimp only
      rw [State.dropHold_one (s := y.writeBytes r.key (bytesOf n v)) (hrsvs.trans hone) hword hhold]
      rfl
    exact ⟨_, hexec.trans (congrArg _ hperform), congrArg (fun μ => μ.write r.key (bytesOf n v)) hmem, rfl, answers rfl _⟩
  case rsvx =>
    have hperform : ∃ t : State, y.perform r = t.answer r (okRes 0 0 false) ∧ t.reqs = y.reqs ∧ t.mem = y.mem ∧ t.rsvs = [] := by
      rw [State.perform, hop]
      dsimp only
      rw [hrsvs, hone]
      cases hhold : x.hold with
      | true =>
        rw [if_pos (by simp [hword, huid, hhold, wordKey, w]), State.dropHold_one (hrsvs.trans hone) hword hhold]
        exact ⟨_, rfl, rfl, rfl, rfl⟩
      | false =>
        rw [if_neg (by simp [hhold])]
        exact ⟨_, rfl, rfl, rfl, by simp [hword, huid, wordKey, w]⟩
    obtain ⟨t, ht, htreqs, htmem, htrsvs⟩ := hperform
    exact ⟨_, hexec.trans (congrArg _ ht), htmem.trans hmem, htrsvs, answers htreqs _⟩
end

section
/-!
SUPPORT. A thread that moves while its own message is under way (08 R144; 09 R179; 19 R338).
-/
open Sys2Proof
namespace Sys2Proof.Machine

/-- A thread of quad 0 whose g[1] names the granule of quad 1. -/
def mover : Thread := (Thread.fresh 0 1 0).setReg 1 (BitVec.ofNat 64 (4 * 2 ^ 60 + 4096))
/-- Its domain, which has no free slot in quad 1. -/
def moverDomain : Domain :=
  { num := 0, stat := .reacting, fn := 1, part := 0, asid := 0, seed := 7, wdlim := 0, home := 0, sigOff := 0, sigs := [],
    inst := 1, inputs := [], outs := [], endWord := 0, endVal := 0, endTval := 0, code := [(4 * 2 ^ 60, 256)], forks := [], tidCtr := 1,
    largs := Vector.replicate 4 0, suspendTo := none, saveAt := none }
/-- A message it has sent to a core of its own die, which has not taken it yet. -/
def moverMessage : Msg :=
  { id := 0, flit := { hdr := 0, words := [7], src := 0, dom := 0 }, seq := 0, srcUid := 1,
    hop := { chan := 0, cur := 0, dst := 0, mid := none, port := .here, since := 0, age := 0, urgent := false },
    resendAt := 0, prio := 0, ldc := none }
/-- The thread issues; a page of DRAM covers the granule, and both quads are its partition's. -/
def moverState : State :=
  { State.reset with
    parts := [{ num := 0, policy := 0, keys := [], roots := [], faultQ := none, recNum := 0, rates := [], buckets := [] }]
    domains := [moverDomain], threads := [mover], msgs := [moverMessage], nextUid := 2, nextId := 1
    quads := [{ Quad.fresh 0 with part := some 0, tlb := [{ asid := 0, sel := 4, va := 0, size := 65536, pa := 0, perm := 7 }] },
              { Quad.fresh 1 with part := some 0 }]
    iss := { Issue.none with gid := 0, pc := 4 * 2 ^ 60 + 1, succ := 4 * 2 ^ 60 + 2, opc := 0x18 } }

/-- What the second part of `Clause.Migration` presupposes holds of it: no pending request, and no free slot in quad 1. -/
theorem moverState_premises : moverState.issues mover ∧ moverState.iss.gid % 16 ≠ 15 ∧ moverState.inGang = false ∧
    moverState.ownsEntries = false ∧ (mover.reg 1).toNat / 2 ^ 60 = 4 ∧ moverState.domain? mover.dom = some moverDomain ∧
    moverState.pending mover.uid = [] := by
  unfold State.issues; decide +kernel
/-- The granule's home is quad 1, and translating the address issues nothing. -/
theorem moverState_reaches : ∃ k u, moverState.access needR false 8 (mover.reg 1).toNat 8 = .key k u ∧
    (homeQuad k).getD 0 = 1 ∧ ((List.range 4).map (1 * 4 + ·)).findSome? (u.freeFork moverDomain) = none ∧ u.iss.again = false := by
  have hkey : (match moverState.access needR false 8 (mover.reg 1).toNat 8 with
      | .key k u => decide ((homeQuad k).getD 0 = 1) && (((List.range 4).map (1 * 4 + ·)).findSome? (u.freeFork moverDomain)).isNone &&
          !u.iss.again
      | _ => false) = true := by decide +kernel
  split at hkey
  case h_1 k u haccess =>
    simp only [Bool.and_eq_true, decide_eq_true_eq, Option.isNone_iff_eq_none, Bool.not_eq_true'] at hkey
    exact ⟨k, u, haccess, hkey.1.1, hkey.1.2, hkey.2⟩
  case h_2 => cases hkey
/-- The message is still buffered, so `migr` is issued again (08 R144). -/
theorem moverState_migr_again {t : State} (h : exec (.migr 2 1) moverState = .next t) : t.iss.again = true := by
  have hagain : (match exec (.migr 2 1) moverState with
      | .next t => t.iss.again
      | _ => false) = true := by decide +kernel
  rwa [h] at hagain
end Sys2Proof.Machine
open Sys2Proof.Machine

/-- Refutes O44: `Clause.Migration` asks only that no request of the thread be pending, but `migr` also waits while a message of
the thread is still to be taken on its die (08 R144; 19 R338), and so does not report 1. -/
theorem not_tasks : ¬ Obligations.Tasks := by
  rintro ⟨-, -, hmigr⟩
  obtain ⟨hissues, hslot, hgang, hentries, hsel, hdom, hpending⟩ := moverState_premises
  obtain ⟨k, u, haccess, hquad, hfull, hagain⟩ := moverState_reaches
  obtain ⟨-, hreports, -⟩ := hmigr moverState u mover moverDomain 2 1 k hissues hslot hgang hentries hsel haccess hdom
  rw [hquad] at hreports
  obtain ⟨t, hexec, m, -, ⟨ht, -⟩⟩ := hreports (by decide) hpending hfull
  have htagain := moverState_migr_again hexec
  rw [ht, hagain] at htagain
  cases htagain
end

section
/-!
SUPPORT. The checks of an access in their order, by the space of the address (07 R122, R125; 11 R204, R206).
-/
open Sys2Proof
namespace Sys2Proof.Machine

section
variable {s t : State} {w : Who} {need align addr len : Nat} {fe : Bool}

/-! ### The place of an address -/

/-- The selectors of a core's memory, and of shared SRAM. -/
theorem placeOf_one {pkg gid x : Nat} (h : x / 2 ^ 60 = 1) :
    placeOf pkg gid x = if bits x 57 46 < Config.quadsPerDie && bits x 43 15 == 0
      then .priv (bits x 59 58) (bits x 57 46) (bits x 45 44) (bits x 14 0) else .bad := by
  rw [placeOf, h]
  rfl
theorem placeOf_two {pkg gid x : Nat} (h : x / 2 ^ 60 = 2) :
    placeOf pkg gid x = if bits x 57 32 == 0 && bits x 31 0 < Config.sharedBytes then .shared (bits x 59 58) (bits x 31 0) else .bad := by
  rw [placeOf, h]
  rfl
/-- An address of the memory of the issuer's own core, and one past its end. -/
theorem placeOf_own {pkg gid x : Nat} (h : x < 0x8000) :
    placeOf pkg gid x = .priv (gidDie gid) (gidQuad gid) (gidCore gid) x := by
  have hsel : x / 2 ^ 60 = 0 := by omega
  have hhi : bits x 59 15 = 0 := by simp only [bits]; omega
  have hlo : bits x 14 0 = x := by simp only [bits]; omega
  rw [placeOf, hsel]
  simp [hhi, hlo]
theorem placeOf_own_past {pkg gid x : Nat} (hsel : x / 2 ^ 60 = 0) (h : 0x8000 ≤ x) : placeOf pkg gid x = .bad := by
  have hhi : bits x 59 15 ≠ 0 := by simp only [bits]; omega
  rw [placeOf, hsel]
  simp [hhi]
/-- An address of a core's memory that names the core, of a quad that a die has or has not and inside the memory or past its end. -/
theorem placeOf_privKey {pkg gid die quad core off : Nat} (hdie : die < 4) (hquad : quad < 2 ^ 12) (hcore : core < 4) (hoff : off < 2 ^ 44) :
    placeOf pkg gid (privKey die quad core off) = if quad < 2560 ∧ off < 0x8000 then .priv die quad core off else .bad := by
  have hsel : privKey die quad core off / 2 ^ 60 = 1 := by simp only [privKey]; omega
  have hbdie : bits (privKey die quad core off) 59 58 = die := by simp only [bits, privKey]; omega
  have hbquad : bits (privKey die quad core off) 57 46 = quad := by simp only [bits, privKey]; omega
  have hbcore : bits (privKey die quad core off) 45 44 = core := by simp only [bits, privKey]; omega
  have hhi : bits (privKey die quad core off) 43 15 = 0 ↔ off < 0x8000 := by simp only [bits, privKey]; omega
  have hlo : bits (privKey die quad core off) 14 0 = off % 0x8000 := by simp only [bits, privKey]; omega
  rw [placeOf_one hsel, hbdie, hbquad, hbcore, hlo]
  have hcond : (decide (quad < Config.quadsPerDie) && bits (privKey die quad core off) 43 15 == 0) = true ↔ quad < 2560 ∧ off < 0x8000 := by
    simp only [Bool.and_eq_true, decide_eq_true_eq, beq_iff_eq, hhi]
    rfl
  by_cases hin : quad < 2560 ∧ off < 0x8000
  · rw [if_pos hin, Nat.mod_eq_of_lt hin.2]
    rw [if_pos (hcond.2 hin)]
  · rw [if_neg hin]
    rw [if_neg (mt hcond.1 hin)]
/-- An address of shared SRAM, inside it or past its end. -/
theorem placeOf_sharedKey {pkg gid die off : Nat} (hdie : die < 4) (hoff : off < 2 ^ 58) :
    placeOf pkg gid (sharedKey die off) = if off < 0xC0000000 then .shared die off else .bad := by
  have hsel : sharedKey die off / 2 ^ 60 = 2 := by simp only [sharedKey]; omega
  have hbdie : bits (sharedKey die off) 59 58 = die := by simp only [bits, sharedKey]; omega
  have hhi : bits (sharedKey die off) 57 32 = 0 ↔ off < 2 ^ 32 := by simp only [bits, sharedKey]; omega
  have hlo : bits (sharedKey die off) 31 0 = off % 2 ^ 32 := by simp only [bits, sharedKey]; omega
  rw [placeOf_two hsel, hbdie, hlo]
  have hcond : (bits (sharedKey die off) 57 32 == 0 && decide (off % 2 ^ 32 < Config.sharedBytes)) = true ↔ off < 0xC0000000 := by
    simp only [Bool.and_eq_true, decide_eq_true_eq, beq_iff_eq, hhi]
    simp only [Config.sharedBytes]
    omega
  by_cases hin : off < 0xC0000000
  · rw [if_pos hin, if_pos (hcond.2 hin), Nat.mod_eq_of_lt (by omega)]
  · rw [if_neg hin, if_neg (mt hcond.1 hin)]
theorem placeOf_outside {pkg gid x : Nat} (h : x / 2 ^ 60 = 3 ∨ 8 ≤ x / 2 ^ 60) : placeOf pkg gid x = .bad := by
  unfold placeOf
  split
  case h_8 => rfl
  all_goals omega

/-! ### The checks, in their order -/

theorem State.check_misaligned (s : State) (w : Who) (need len : Nat) (fe : Bool) (h : addr % align ≠ 0) :
    s.check w need fe align addr len = (.trap 5 addr, s) := by
  rw [State.check, if_pos (by simpa using h)]
/-- The second check: the address lies in no space, or its range passes the end of the space. -/
theorem State.check_outside (s : State) (w : Who) (need : Nat) (fe : Bool) (halign : addr % align = 0)
    (h : placeOf s.pkg w.gid addr = .bad ∨ (placeOf s.pkg w.gid addr).room addr < len) :
    s.check w need fe align addr len = (.trap 6 addr, s) := by
  rw [State.check, if_neg (by simpa using halign)]
  exact if_pos (by simpa using h)
/-- The third check in a core's memory: the quad is the partition's own. -/
theorem State.check_priv {die quad core off : Nat} (need : Nat) (fe : Bool) (halign : addr % align = 0)
    (hp : placeOf s.pkg w.gid addr = .priv die quad core off) (hend : off + len ≤ 0x8000) (hlen : 0 < len) :
    s.check w need fe align addr len =
      if s.owner (qk die quad) = some w.part then (.ok [(privKey die quad core off, len)], s) else (.trap 8 addr, s) := by
  have hroom : ¬(placeOf s.pkg w.gid addr).room addr < len := by
    rw [hp]
    simp only [Place.room, Config.privBytes]
    omega
  rw [State.check, if_neg (by simpa using halign)]
  dsimp only
  rw [if_neg (by simpa [hp] using hroom), hp]
/-- The third check in shared SRAM: its banks are the partition's own and hold no table of the hardware's. -/
theorem State.check_shared {die off : Nat} (need : Nat) (fe : Bool) (halign : addr % align = 0)
    (hp : placeOf s.pkg w.gid addr = .shared die off) (hend : off + len ≤ 0xC0000000) (hlen : 0 < len) :
    s.check w need fe align addr len =
      if s.ownsShared w.part die off len = true ∧ s.reservedShared die off len = false
      then (.ok [(sharedKey die off, len)], s) else (.trap 8 addr, s) := by
  have hroom : ¬(placeOf s.pkg w.gid addr).room addr < len := by
    rw [hp]
    simp only [Place.room, Config.sharedBytes]
    omega
  rw [State.check, if_neg (by simpa using halign)]
  dsimp only
  rw [if_neg (by simpa [hp] using hroom), hp]
  simp
/-- A full/empty operation, a reservation or a bank update on CXL or host memory. -/
theorem State.check_unsupported {sel va : Nat} (s : State) (w : Who) (need : Nat) (halign : addr % align = 0)
    (hp : placeOf s.pkg w.gid addr = .virt sel va) (hsel : sel ≠ 4) (h7 : addr / 2 ^ 60 ≠ 7) (hend : va + len ≤ 2 ^ 48) :
    s.check w need true align addr len = (.trap 9 addr, s) := by
  have hroom : ¬(placeOf s.pkg w.gid addr).room addr < len := by
    rw [hp, Place.room, if_neg h7]
    omega
  rw [State.check, if_neg (by simpa using halign)]
  dsimp only
  rw [if_neg (by simpa [hp] using hroom), hp]
  simp [hsel]

/-! ### Translation -/

theorem State.lookupTlb_hit {q asid sel va : Nat} {e : Tlb} (h : (s.quad q).tlb.find? (·.hits asid sel va) = some e) :
    s.lookupTlb q asid sel va = (some e, s.fillQuad q e) := by
  rw [State.lookupTlb, h]
/-- A range inside one page of the quad's table. -/
theorem State.pages_hit {q sel va : Nat} {e : Tlb} (h : (s.quad q).tlb.find? (·.hits w.asid sel va) = some e)
    (hend : va + len ≤ e.va + e.size) (fuel : Nat) : s.pages? w q sel (fuel + 1) va len [] 7 =
      ((some ([(virtKey sel (e.pa + (va - e.va)), len)], Nat.land 7 e.perm), va), s.fillQuad q e) := by
  have hmin : min len (e.va + e.size - va) = len := by omega
  rw [State.pages?, State.lookupTlb_hit h]
  dsimp only
  rw [hmin, if_pos le_rfl]
  rfl
/-- The permissions that `need` asks for are among the three there are. -/
theorem land_seven_land {need : Nat} (h : need ≤ 7) (perm : Nat) : Nat.land (Nat.land 7 perm) need = Nat.land perm need := by
  show (7 &&& perm) &&& need = perm &&& need
  rw [Nat.and_comm 7, Nat.and_assoc, show 7 &&& need = need from by interval_cases need <;> rfl]
theorem State.Filled.ownsDram (h : s.Filled t) (part pa n : Nat) : t.ownsDram part pa n = s.ownsDram part pa n := by
  simp only [State.ownsDram, h.owner]
theorem State.Filled.ownsPages (h : s.Filled t) (part sel : Nat) (segs : List (Nat × Nat)) :
    t.ownsPages part sel segs = s.ownsPages part sel segs := by
  simp only [State.ownsPages, h.ownsDram]
end
end Sys2Proof.Machine
open Sys2Proof.Machine

theorem accessChecksInOrder : Clause.AccessChecks := by
  intro s w need align addr len fe haddr hlen hlen' halign sel own
  refine ⟨s.check_misaligned w need len fe, fun hal => ⟨fun hsel => ?outside, fun hsel hpast => ?ownPast, fun hsel hend => ?own,
    fun die quad core off haddr' hdie hquad hcore hoff => ?named, fun die off haddr' hdie hoff => ?shared, fun hfe hsel hend => ?unsupported⟩⟩
  case outside => exact s.check_outside w need fe hal (.inl (placeOf_outside hsel))
  case ownPast =>
    refine s.check_outside w need fe hal ?_
    by_cases hin : addr < 0x8000
    · right
      rw [placeOf_own hin, Place.room, Config.privBytes]
      omega
    · exact .inl (placeOf_own_past hsel (by omega))
  case own => exact State.check_priv need fe hal (placeOf_own (by omega)) hend hlen
  case named =>
    have hp := placeOf_privKey (pkg := s.pkg) (gid := w.gid) hdie hquad hcore hoff
    rw [show privKey die quad core off = addr from haddr'.symm] at hp
    split
    · next hin =>
      rw [if_pos ⟨hin.1, by omega⟩] at hp
      rw [State.check_priv need fe hal hp hin.2 hlen, show privKey die quad core off = addr from haddr'.symm]
      rfl
    · next hout =>
      refine s.check_outside w need fe hal ?_
      split at hp
      · right
        rw [hp, Place.room, Config.privBytes]
        omega
      · exact .inl hp
  case shared =>
    have hp := placeOf_sharedKey (pkg := s.pkg) (gid := w.gid) hdie hoff
    rw [show sharedKey die off = addr from haddr'.symm] at hp
    split
    · next hin =>
      rw [if_pos (by omega)] at hp
      rw [State.check_shared need fe hal hp hin hlen, show sharedKey die off = addr from haddr'.symm]
    · next hout =>
      refine s.check_outside w need fe hal ?_
      split at hp
      · right
        rw [hp, Place.room, Config.sharedBytes]
        omega
      · exact .inl hp
  case unsupported =>
    subst hfe
    exact s.check_unsupported w need hal
      (placeOf_virt (hsel.elim (fun h => .inr (.inl h)) fun h => .inr (.inr h)) rfl (by omega)) (by omega) (by omega) hend

theorem translatedAccess : Clause.TranslatedAccess := by
  intro s w need addr len e hneed hlen hlen' sel va hsel hend hhit hpage
  have hfilled := s.filled_fillQuad (gidQk w.gid) e
  have hp : placeOf s.pkg w.gid addr = .virt sel va := placeOf_virt hsel rfl (by omega)
  have hroom : ¬(placeOf s.pkg w.gid addr).room addr < len := by
    rw [hp, Place.room, if_neg (by omega)]
    omega
  have hlast := State.pages_hit (w := w) hhit hpage (len / 65536 + 1)
  have howns : (s.fillQuad (gidQk w.gid) e).ownsPages w.part sel [(virtKey sel (e.pa + (va - e.va)), len)] = true ↔
      (sel = 4 → s.ownsDram w.part (keyPa (4 * 2 ^ 60 + (e.pa + (va - e.va)))) len = true) := by
    rw [hfilled.ownsPages, State.ownsPages]
    by_cases h4 : sel = 4
    · simp [h4, virtKey]
    · simp [h4]
  refine ⟨s.fillQuad (gidQk w.gid) e, ?_, rfl⟩
  rw [State.check, if_neg (by simp [Nat.mod_one])]
  dsimp only
  rw [if_neg (by simpa [hp] using hroom), hp]
  dsimp only
  rw [if_neg (by simp), hlast]
  dsimp only
  rw [land_seven_land hneed]
  by_cases hok : Nat.land e.perm need = need ∧ (sel = 4 → s.ownsDram w.part (keyPa (4 * 2 ^ 60 + (e.pa + (va - e.va)))) len = true)
  · rw [if_pos hok, if_pos (by simpa [howns] using hok)]
    rfl
  · rw [if_neg hok, if_neg (by simpa [howns] using hok)]

/-- Settles O15: the place of the address decides which check refuses it; a page of the table translates it. -/
theorem accessChecks : Obligations.AccessChecks := ⟨accessChecksInOrder, translatedAccess⟩
end

section
/-!
SUPPORT. Accesses of a thread's own memory, which are made at issue (07 R127; 08 R144; 09 R155 to R166).
-/
open Sys2Proof
namespace Sys2Proof.Machine

/-! ### Bytes of two extents side by side -/

theorem Memory.bytes_add (μ : Memory) (k i j : Nat) : μ.bytes k (i + j) = μ.bytes k i ++ μ.bytes (k + i) j := by
  induction i generalizing k with
  | zero => rw [Nat.zero_add]; rfl
  | succ i ih =>
    rw [Nat.add_right_comm, Memory.bytes, Memory.bytes, ih, Nat.add_right_comm]
    rfl
theorem ofBytes_append (xs ys : List Byte) : ofBytes (xs ++ ys) = ofBytes xs + 256 ^ xs.length * ofBytes ys := by
  induction xs with
  | nil => simp [ofBytes]
  | cons x xs ih =>
    rw [List.cons_append, ofBytes, ih, ofBytes, List.length_cons, Nat.pow_succ]
    ring
theorem Memory.read_add (μ : Memory) (k i j : Nat) : μ.read k (i + j) = μ.read k i + 256 ^ i * μ.read (k + i) j := by
  rw [Memory.read, Memory.bytes_add, ofBytes_append, Memory.bytes_length]
  rfl
theorem Memory.read_lt (μ : Memory) (k n : Nat) : μ.read k n < 2 ^ (8 * n) := by
  have h := ofBytes_lt (μ.bytes k n)
  rwa [Memory.bytes_length, show 256 = 2 ^ 8 from rfl, ← Nat.pow_mul] at h
/-- One byte of a number. -/
theorem getD_bytesOf (n v : Nat) : ∀ i, i < n → (bytesOf n v).getD i 0 = BitVec.ofNat 8 (v / 2 ^ (8 * i)) := by
  induction n generalizing v with
  | zero => exact fun i hi => absurd hi (Nat.not_lt_zero i)
  | succ n ih =>
    intro i hi
    cases i with
    | zero => simp [bytesOf]
    | succ i =>
      rw [bytesOf, List.getD_cons_succ, ih _ i (by omega), Nat.div_div_eq_div_mul, show 256 * 2 ^ (8 * i) = 2 ^ (8 * (i + 1)) by
        rw [Nat.mul_add, Nat.pow_add]; ring]
theorem bytesOf_zero (n : Nat) : bytesOf n 0 = List.replicate n 0 := by
  induction n with
  | zero => rfl
  | succ n ih =>
    rw [bytesOf, Nat.zero_div, ih, List.replicate_succ]
    rfl

section
variable {s t : State} {m n : Thread} {ea k len j : Nat} {μ : Memory} {es bad soft : List Nat} {g : Nat}

/-! ### Words with no waiter -/

theorem State.noWaiter_of_plain (h : s.plainAt k len) {w : Nat} (hw : k < w + 8 ∧ w < k + len) : s.feWaits.find? (·.word == w) = none := by
  refine List.find?_eq_none.2 fun x hx heq => ?_
  have hout := h w (.inr (.inr (.inr (List.mem_map.2 ⟨x, hx, beq_iff_eq.1 heq⟩))))
  split at hout <;> omega
/-- Where nobody waits on a word, a change of its state serves nobody. -/
theorem State.feChanged_of_noWaiter (h : s.feWaits.find? (·.word == wordKey k) = none) (was : Bool) : s.feChanged k was = s := by
  rw [State.feChanged]
  split
  · rfl
  · rw [State.feServe, h]
theorem State.feNow_of_noWaiter (h : s.feWaits.find? (·.word == wordKey k) = none) (isLoad makeEmpty : Bool) (n data : Nat)
    (hkeeps : (s.feAct isLoad makeEmpty k n data).2.feWaits = s.feWaits) :
    s.feNow isLoad makeEmpty k n data = s.feAct isLoad makeEmpty k n data := by
  rw [State.feNow]
  dsimp only
  rw [State.feChanged_of_noWaiter (by rw [hkeeps]; exact h)]
theorem State.mem_setEmpty (e : Bool) (x : Nat) :
    x ∈ (s.setEmpty k e).empties ↔ if e then x = wordKey k ∨ x ∈ s.empties else x ∈ s.empties ∧ x ≠ wordKey k := by
  cases e with
  | true => exact mem_insertNat
  | false => simp [State.setEmpty]
theorem State.setEmpty_full (h : wordKey k ∉ s.empties) : s.setEmpty k false = s := by
  have hall : s.empties.filter (· != wordKey k) = s.empties :=
    List.filter_eq_self.2 fun x hx => bne_iff_ne.2 fun heq => h (heq ▸ hx)
  show { s with empties := s.empties.filter (· != wordKey k) } = s
  rw [hall]
theorem State.isEmpty_eq : s.isEmpty k = decide (wordKey k ∈ s.empties) := by rw [State.isEmpty, List.contains_eq_mem]

/-- g0 is hard-wired. -/
theorem State.putN_zero (s : State) (v : Word) : s.putN 0 v = s := by
  rw [State.putN, if_neg (by simp [Thread.mapped])]
  exact State.modThread_same fun _ => rfl

/-! ### The checks of an access of the thread's own memory, and the conditions for making it at issue -/

theorem qk_gid (g : Nat) : qk (gidDie g) (gidQuad g) = gidQk g := by
  simp only [qk, gidDie, gidQuad, gidQk]
  omega
/-- An accessor's own core is its partition's. -/
theorem State.check_own {w : Who} (hend : ea + len ≤ 0x8000) (hown : s.owner (gidQk w.gid) = some w.part) (hlen : 0 < len) {align : Nat}
    (halign : ea % align = 0) (need : Nat) (fe : Bool) :
    s.check w need fe align ea len = (.ok [(privKey (gidDie w.gid) (gidQuad w.gid) (gidCore w.gid) ea, len)], s) := by
  rw [State.check_priv need fe halign (placeOf_own (by omega)) hend hlen, if_pos (by rw [qk_gid]; exact hown)]
section
variable (h : s.privateAt m ea len k)
include h
theorem State.privateAt.issues : s.issues m := h.1
theorem State.privateAt.plain : s.plainAt k len := by
  obtain ⟨-, -, -, -, -, -, hp⟩ := h
  exact hp
theorem State.privateAt.check (hlen : 0 < len) {align : Nat} (halign : ea % align = 0) (need : Nat) (fe : Bool) :
    s.check s.who need fe align ea len = (.ok [(k, len)], s) := by
  obtain ⟨-, hend, hown, -, -, rfl, -⟩ := h
  exact State.check_own (w := s.who) hend hown hlen halign need fe
theorem State.privateAt.access (hlen : 0 < len) {align : Nat} (halign : ea % align = 0) (need : Nat) (fe : Bool) :
    s.access need fe align ea len = .key k s := by
  rw [State.access, h.check hlen halign]
  exact congrArg (Acc.key · s) (if_pos hlen)
theorem State.privateAt.isOwn : isOwn ea = true := by
  obtain ⟨-, hend, -⟩ := h
  rw [Machine.isOwn, beq_iff_eq]
  omega
theorem State.privateAt.pending : s.pending s.me.uid = [] := by
  obtain ⟨hi, -, -, hnone, -⟩ := h
  rw [s.me_of m hi.1, hnone]
theorem State.privateAt.msgsDue (scope : Nat) : s.msgsDue s.iss.gid scope = false := by
  obtain ⟨hi, -, -, -, hmsgs, -⟩ := h
  refine List.any_eq_false.2 fun x hx => ?_
  rw [show s.thread s.iss.gid = m from s.me_of m hi.1]
  simp [hmsgs x hx]
theorem State.privateAt.buffered : s.buffered = false := by
  rw [State.buffered, h.pending, h.msgsDue]
  rfl
theorem State.privateAt.atIssue : (Machine.isOwn ea && !s.buffered) = true := by
  rw [h.isOwn, h.buffered]
  rfl
/-- Nothing of the thread is under way that an access at issue would come after. -/
theorem State.privateAt.mustDrain (rel : Bool) (sc : Nat) : s.mustDrain rel sc = none := by
  have hpending : s.pending (s.thread s.iss.gid).uid = [] := h.pending
  have hnear : s.nearDueOf s.iss.gid = false := by
    rw [State.nearDueOf, hpending, h.msgsDue]
    rfl
  have hstores : s.storesDue sc = false := by
    rw [State.storesDue, State.storesDueOf, hpending, h.msgsDue]
    rfl
  rw [State.mustDrain, hnear, hstores, Bool.and_false]
  rfl
/-- What a load sees is what stands there. -/
theorem State.privateAt.seen (n : Nat) : s.seen s.me.uid k n = s.mem.bytes k n := by
  rw [State.seen, h.pending]
  rfl
theorem State.privateAt.goodWord (hlen : 0 < len) : s.badIn (wordKey k) 8 = none := by
  refine List.find?_eq_none.2 fun w hw => ?_
  rw [List.contains_iff_mem]
  obtain ⟨hlo, hhi⟩ := overlaps_of_mem_wordsOf hw
  obtain ⟨i, -, rfl⟩ := List.mem_map.1 hw
  rw [wordKey] at hlo hhi ⊢
  exact (State.plainAt_clear h.plain (by omega)).1
theorem State.privateAt.noWaiter (hlen : 0 < len) : s.feWaits.find? (·.word == wordKey k) = none :=
  State.noWaiter_of_plain h.plain (by rw [wordKey]; omega)
theorem State.privateAt.keyRegion : keyRegion k = none := by
  obtain ⟨-, hend, -, -, -, rfl, -⟩ := h
  have hsel : keySel (privKey (gidDie s.iss.gid) (gidQuad s.iss.gid) (gidCore s.iss.gid) ea) = 1 := by
    simp only [keySel, privKey, gidDie, gidQuad, gidCore]
    omega
  rw [Machine.keyRegion, hsel]
  rfl
/-- A part of the extent, which lies in the core's memory as well. -/
theorem State.privateAt.plain_part {i w : Nat} (hi : i + w ≤ len) : s.plainAt (k + i) w := by
  have hpart : s.privateAt m (ea + i) w (k + i) → s.plainAt (k + i) w := fun h => h.plain
  have hregion := h.keyRegion
  obtain ⟨-, hend, -, -, -, rfl, hp⟩ := h
  have hsel : keySel (privKey (gidDie s.iss.gid) (gidQuad s.iss.gid) (gidCore s.iss.gid) ea + i) = 1 := by
    simp only [keySel, privKey, gidDie, gidQuad, gidCore]
    omega
  have hregion' : Machine.keyRegion (privKey (gidDie s.iss.gid) (gidQuad s.iss.gid) (gidCore s.iss.gid) ea + i) = none := by
    rw [Machine.keyRegion, hsel]
    rfl
  intro x hx
  have hout := hp x hx
  rw [hregion] at hout
  rw [hregion']
  simp only [Option.isSome_none, Bool.false_eq_true, if_false, Nat.div_one, Nat.mul_one, Nat.add_sub_cancel] at hout ⊢
  omega

/-! ### The operations -/

theorem State.privateAt.load (hlen : 0 < len) (halign : ea % len = 0) (d : Reg) (sx acq : Bool) (sc : Nat) :
    s.load d ea len sx acq sc = s.res d (extended sx len (s.mem.read k len)) := by
  rw [State.load, h.access hlen halign, Acc.bind, if_pos h.isOwn, State.badIn_of_plain h.plain le_rfl, h.seen]
  dsimp only
  rw [State.countSoft_of_plain h.plain le_rfl]
  exact congrArg (s.res d) (extN_extended (s.mem.read_lt k len))
theorem State.privateAt.store (hlen : 0 < len) {align : Nat} (halign : ea % align = 0) {bs : List Byte} (hbs : bs.length = len) (rel : Bool)
    (sc : Nat) : s.store ea align bs rel sc = (s.writeBytes k bs).ok := by
  rw [State.store, hbs, h.access hlen halign, Acc.bind]
  dsimp only
  rw [if_pos (by simp [h.isOwn, h.buffered, h.msgsDue]), State.partBad_of_plain h.plain le_rfl]
  dsimp only
  rw [State.homeWrite_of_plain h.plain (by omega)]
theorem State.privateAt.feAct (isLoad makeEmpty : Bool) (data : Nat) : s.feAct isLoad makeEmpty k len data =
    if isLoad then (s.mem.read k len, s.setEmpty k makeEmpty) else (0, (s.writeBytes k (bytesOf len data)).setEmpty k false) := by
  rw [State.feAct, State.homeWrite_of_plain h.plain (by rw [bytesOf_length])]
  rfl
/-- A full/empty operation whose requirement holds. -/
theorem State.privateAt.feOp (hlen : 0 < len) (halign : ea % len = 0) {sc : Scope} (hsc : s.okScope sc.val = true) {want : Bool}
    (hwant : s.feHolds want k = true) (isLoad empties sx : Bool) (data d : Nat) :
    s.feOp ea len want isLoad empties sx data d sc =
      ((s.feAct isLoad empties k len data).2.putN d (extended sx len (s.feAct isLoad empties k len data).1)).ok := by
  have hact := h.feAct isLoad empties data
  have hnow : s.feNow isLoad empties k len data = s.feAct isLoad empties k len data :=
    State.feNow_of_noWaiter (h.noWaiter hlen) _ _ _ _ (by rw [hact]; cases isLoad <;> rfl)
  have hlt : (s.feAct isLoad empties k len data).1 < 2 ^ (8 * len) := by
    rw [hact]
    cases isLoad with
    | true => exact s.mem.read_lt k len
    | false => exact Nat.two_pow_pos _
  rw [State.feOp, State.scoped_of_ok hsc, h.access hlen halign, Acc.bind]
  dsimp only
  rw [if_pos h.isOwn, h.mustDrain]
  dsimp only
  rw [h.goodWord hlen]
  dsimp only
  rw [if_pos hwant, hnow, extN_extended hlt]
/-- A read-modify-write. -/
theorem State.privateAt.atomic (hlen : 0 < len) (halign : ea % len = 0) {sc : Scope} (hsc : s.okScope sc.val = true) (d : Reg) (sx : Bool)
    {op : ReqOp} (hop : (rmwNew op 0).1 = len) {v : Nat} {w : Bool} (hnew : rmwNew op (s.mem.read k len) = (len, v, w)) :
    s.atomic d ea len sx sc op =
      (if w then s.writeBytes k (bytesOf len v) else s).res d (extended sx len (s.mem.read k len)) := by
  have hrmw : s.rmw op k = (s.mem.read k len, if w then s.writeBytes k (bytesOf len v) else s) := by
    rw [State.rmw, hop]
    dsimp only
    rw [State.readN, hnew]
    dsimp only
    rw [State.homeWrite_of_plain h.plain (by rw [bytesOf_length])]
  rw [State.atomic, State.scoped_of_ok hsc, h.access hlen halign, Acc.bind]
  dsimp only
  rw [if_pos h.isOwn, h.mustDrain]
  dsimp only
  rw [State.badIn_of_plain h.plain le_rfl]
  dsimp only
  rw [hrmw, extN_extended (s.mem.read_lt k len)]
theorem State.privateAt.feset (halign : ea % 8 = 0) (hlen : len = 8) {a : Reg} {imm : BitVec 32} (hea : s.ea a imm = ea) (e : Bool) :
    s.fesetOp a imm e = (s.setEmpty k e).ok := by
  subst hlen
  have hset : s.feSet k e = s.setEmpty k e :=
    State.feChanged_of_noWaiter (s := s.setEmpty k e) (h.noWaiter (by omega)) _
  rw [State.fesetOp, hea, h.access (by omega) halign, Acc.bind]
  rw [if_pos h.atIssue, State.badIn_of_plain h.plain le_rfl]
  dsimp only
  rw [hset]
end

/-- The words of a store of several, written at issue one after the other: each leaves its unmasked bytes. -/
def State.writeWord (s : State) (x : Nat × Nat × List Byte × Nat) : State := s.storeOne x.1 x.2.1 x.2.2.1 x.2.2.2 0 false true
theorem State.writeWord_plain (hbuf : s.buffered = false) {x : Nat × Nat × List Byte × Nat} (hp : s.plainAt x.1 x.2.2.1.length) :
    s.writeWord x = s.writeBytes x.1 (s.merged x.1 x.2.2.1 x.2.2.2) := by
  rw [State.writeWord, State.storeOne, if_pos (by simp [hbuf]), State.homeWrite_of_plain hp (s.merged_length _ _ _).le]
theorem State.plainAt_writeBytes {w : Nat} (h : s.plainAt k len) (bs : List Byte) : (s.writeBytes w bs).plainAt k len := by
  intro x hx
  exact h x (hx.imp (fun h => (List.mem_filter.1 h).1) (.imp (fun h => (List.mem_filter.1 h).1) id))
/-- Byte `x` of the stored words. -/
def Thread.stmByte (m : Thread) (b : Reg) (x : Nat) : Byte := BitVec.ofNat 8 ((m.reg (b.val + x / 8)).toNat / 2 ^ (8 * (x % 8)))
theorem Thread.getD_stmWord (m : Thread) (b : Reg) {i x : Nat} (hx : x / 8 = i) :
    (bytesOf 8 (m.reg (b.val + i)).toNat).getD (x - 8 * i) 0 = m.stmByte b x := by
  rw [getD_bytesOf _ _ _ (by omega), Thread.stmByte, hx, show x - 8 * i = x % 8 by omega]

/-- The words written one after the other leave their unmasked bytes, and every other byte as it was. -/
theorem State.foldl_writeWord (hbuf : s.buffered = false) (b c : Reg) (ea : Nat) {segs : List (Nat × Nat)} {l : List Nat}
    (hkey : ∀ {i}, i ∈ l → (m.stmWord b c segs ea i).1 = k + 8 * i) (hp : ∀ {i}, i ∈ l → s.plainAt (k + 8 * i) 8) :
    ∃ μ bad soft, (l.map (m.stmWord b c segs ea)).foldl State.writeWord s = { s with mem := μ, bad := bad, soft := soft } ∧
      (s.mem.wf = true → ∀ x, μ.byte x = if k ≤ x ∧ (x - k) / 8 ∈ l ∧ (m.stmMask c ((x - k) / 8)).testBit ((x - k) % 8) = true
        then m.stmByte b (x - k) else s.mem.byte x) := by
  induction l generalizing s with
  | nil => exact ⟨s.mem, s.bad, s.soft, rfl, fun _ x => by simp⟩
  | cons i l ih =>
    have hlen : (m.stmWord b c segs ea i).2.2.1.length = 8 := bytesOf_length _ _
    have hword : s.writeWord (m.stmWord b c segs ea i) =
        s.writeBytes (k + 8 * i) (s.merged (k + 8 * i) (bytesOf 8 (m.reg (b.val + i)).toNat) (m.stmMask c i)) := by
      rw [State.writeWord_plain hbuf (by rw [hlen, hkey (by simp)]; exact hp (by simp)), hkey (by simp)]
      rfl
    rw [List.map_cons, List.foldl_cons, hword]
    obtain ⟨μ, bad, soft, hfold, hbytes⟩ := ih (s := s.writeBytes (k + 8 * i) _) hbuf (fun h => hkey (by simp [h]))
      (fun h => State.plainAt_writeBytes (hp (by simp [h])) _)
    refine ⟨μ, bad, soft, hfold, fun hwf x => ?_⟩
    rw [hbytes (s.mem.wf_write hwf _ _) x]
    show (if _ then _ else (s.mem.write _ _).byte x) = _
    rw [s.byte_merged hwf, bytesOf_length]
    by_cases hhere : k ≤ x ∧ (x - k) / 8 = i
    · obtain ⟨hle, hword⟩ := hhere
      have hin : k + 8 * i ≤ x ∧ x < k + 8 * i + 8 := by omega
      have hbyte : (bytesOf 8 (m.reg (b.val + i)).toNat).getD (x - (k + 8 * i)) 0 = m.stmByte b (x - k) := by
        rw [← Nat.sub_sub]
        exact m.getD_stmWord b hword
      rw [hbyte, show x - (k + 8 * i) = (x - k) % 8 by omega, hword]
      by_cases hbit : (m.stmMask c i).testBit ((x - k) % 8) = true
      · rw [if_pos (⟨hin.1, hin.2, hbit⟩ : _ ∧ x < k + 8 * i + 8 ∧ _), ite_self]
        exact (if_pos ⟨hle, List.mem_cons_self, hbit⟩).symm
      · rw [if_neg fun h => hbit h.2.2, if_neg fun h => hbit h.2.2, if_neg fun h => hbit h.2.2]
    · have hout : ¬(k + 8 * i ≤ x ∧ x < k + 8 * i + 8 ∧ (m.stmMask c i).testBit (x - (k + 8 * i)) = true) :=
        fun ⟨hlo, hhi, _⟩ => hhere (by omega)
      rw [if_neg hout]
      refine if_congr (and_congr_right fun hle => ?_) rfl rfl
      rw [List.mem_cons, or_iff_right fun h => hhere ⟨hle, h⟩]

/-! ### The state that an access leaves -/

/-- What a state is that differs in memory, in marks and in one thread. -/
theorem OnlyThread.stored (h : OnlyThread { s with mem := μ, bad := bad, soft := soft } t g n) :
    OnlyThread { s with mem := μ, bad := t.bad, soft := t.soft } t g n := by
  have hbad : t.bad = bad := by rw [h.1]
  have hsoft : t.soft = soft := by rw [h.1]
  rw [hbad, hsoft]
  exact h
theorem OnlyThread.marked (h : OnlyThread { s with mem := μ, empties := es, bad := bad, soft := soft } t g n) :
    OnlyThread { s with mem := μ, empties := t.empties, bad := t.bad, soft := t.soft } t g n ∧ t.empties = es := by
  have hempties : t.empties = es := by rw [h.1]
  have hbad : t.bad = bad := by rw [h.1]
  have hsoft : t.soft = soft := by rw [h.1]
  rw [hempties, hbad, hsoft]
  exact ⟨h, rfl⟩
end
end Sys2Proof.Machine
open Sys2Proof.Machine

theorem privateLoads : Clause.PrivateLoads := by
  intro s m d a sc sx mw imm k ea n v w
  have hn : 0 < n := Nat.two_pow_pos _
  refine ⟨fun hal h => ?loads, fun hal h => ?feqry, fun hal hd h => ?ldp⟩
  case loads =>
    have hi := h.issues
    have hea : s.ea a imm = ea := State.ea_plain hi a imm
    have full (hw : w ∉ s.empties) : s.feHolds true k = true := by
      rw [State.feHolds, State.isEmpty_eq, show decide (wordKey k ∈ s.empties) = false from decide_eq_false hw]
      rfl
    refine ⟨State.puts_of_res hi ?ld, fun hsc => State.puts_of_res hi ?lda, fun hsc hw => State.puts_of_res hi ?ldff, fun hsc hw => ?ldfe⟩
    case ld =>
      show execLd d a sx mw imm s = _
      rw [execLd, hea, memBytes, h.load hn hal]
    case lda =>
      show execLda d a sc sx mw imm s = _
      rw [execLda, State.scoped_of_ok hsc, hea, memBytes, h.load hn hal]
    case ldff =>
      show execLdff d a sc sx mw imm s = _
      rw [execLdff, hea, memBytes, h.feOp hn hal hsc (full hw), h.feAct, if_pos rfl]
      dsimp only
      rw [State.setEmpty_full hw]
      rfl
    case ldfe =>
      have hexec : exec (.ldfe d a sc sx mw imm) s = ((s.setEmpty k true).putN d v).ok := by
        show execLdfe d a sc sx mw imm s = _
        rw [execLdfe, hea, memBytes, h.feOp hn hal hsc (full hw), h.feAct, if_pos rfl]
      obtain ⟨hm, hj, hq, -⟩ := hi
      obtain ⟨t, ht, honly⟩ := (OnlyThread.putN (s := s.setEmpty k true) hm hq d v).ok hj
      have hempties : t.empties = (s.setEmpty k true).empties := by rw [honly.1]
      rw [hexec, ht]
      refine ⟨t, rfl, ?_, fun x => ?_⟩
      · rw [hempties]
        exact honly
      · rw [hempties]
        exact State.mem_setEmpty true x
  case feqry =>
    refine State.puts_of_res h.issues ?_
    show execFeqry d a imm s = _
    rw [execFeqry, State.ea_plain h.issues, h.access (by decide) hal, Acc.bind]
    rw [if_pos h.isOwn, State.badIn_of_plain h.plain le_rfl, State.seenEmpty, h.pending]
    show s.res d (wd (s.isEmpty k).toNat) = _
    by_cases hw : w ∈ s.empties
    · rw [if_pos hw, State.isEmpty_eq, show decide (wordKey k ∈ s.empties) = true from decide_eq_true hw]
      rfl
    · rw [if_neg hw, State.isEmpty_eq, show decide (wordKey k ∈ s.empties) = false from decide_eq_false hw]
      rfl
  case ldp =>
    have hread : s.mem.read k 16 = s.mem.read k 8 + 2 ^ 64 * s.mem.read (k + 8) 8 := s.mem.read_add k 8 8
    have hlow : s.mem.read k 8 < 2 ^ 64 := s.mem.read_lt k 8
    have hlo : wd (s.mem.read k 16) = BitVec.ofNat 64 (s.mem.read k 8) := by
      refine BitVec.eq_of_toNat_eq ?_
      rw [wd, BitVec.toNat_ofNat, BitVec.toNat_ofNat, hread, Nat.add_mul_mod_self_left]
    have hhi : s.mem.read k 16 / 2 ^ 64 = s.mem.read (k + 8) 8 := by rw [hread]; omega
    have hexec : exec (.ldp d a imm) s = (((s.put d (wd (s.mem.read k 16))).putN (d.val + 1) (wd (s.mem.read k 16 / 2 ^ 64)))).ok := by
      show execLdp d a imm s = _
      rw [execLdp, State.ea_plain h.issues, h.access (by decide) hal, Acc.bind]
      dsimp only
      rw [if_pos h.isOwn, State.badIn_of_plain h.plain le_rfl, h.seen, State.countSoft_of_plain h.plain le_rfl]
      rfl
    rw [hlo, hhi] at hexec
    obtain ⟨hm, hj, hq, -⟩ := h.issues
    rw [hexec]
    exact ((OnlyThread.put hm hq d _).andPutN (by simp [hq]) (d.val + 1) _).ok hj

theorem privateStores : Clause.PrivateStores := by
  intro s m a b c sc mw e op imm k ea n data z mask
  have hn : 0 < n := Nat.two_pow_pos _
  -- writing and going on
  have stores {len : Nat} (h : s.privateAt m ea len k) {i : Instr} {bs : List Byte} (hexec : exec i s = (s.writeBytes k bs).ok) :
      ∃ t, exec i s = .next t ∧ Stored s t m k bs := by
    obtain ⟨hm, hj, -⟩ := h.issues
    obtain ⟨t, ht, honly⟩ := (OnlyThread.refl (s := s.writeBytes k bs) hm).ok hj
    exact ⟨t, hexec.trans ht, OnlyThread.stored honly⟩
  refine ⟨fun hal h => stores h ?st, fun hal hsc h => stores h ?stl, fun hal hb h => stores h ?stp, fun hop hal h => stores h ?zfill,
    fun hop hb hal hentered h => ?stm⟩
  case st =>
    show execSt a b mw e imm s = _
    rw [execSt, State.ea_plain h.issues, State.stData_plain h.issues, memBytes, h.store hn hal (bytesOf_length _ _)]
  case stl =>
    show execStl a b sc mw e imm s = _
    rw [execStl, State.scoped_of_ok hsc, State.ea_plain h.issues, State.stData_plain h.issues, memBytes, h.store hn hal (bytesOf_length _ _)]
  case stp =>
    have hsel : keySel k < 5 := by
      obtain ⟨-, hend, -, -, -, rfl, -⟩ := h
      simp only [keySel, privKey, gidDie, gidQuad, gidCore]
      omega
    show execStp a b imm s = _
    rw [execStp, State.ea_plain h.issues, State.gv_plain h.issues, State.gN_plain h.issues, h.access (by decide) hal, Acc.bind]
    rw [if_pos hsel, if_pos h.atIssue, State.homeWrite_of_plain h.plain (by simp [bytesOf_length])]
  case zfill =>
    have hz : 0 < z := by
      show 0 < if _ then _ else _
      split
      · decide
      · split <;> decide
    show execZfill a op imm s = _
    rw [execZfill, State.ea_plain h.issues]
    show (s.access needW false z ea z).bind _ _ = _
    rw [h.access hz hal, Acc.bind, if_pos h.atIssue, State.homeWrite_of_plain h.plain (bytesOf_length _ _).le]
    exact congrArg (fun bs => (s.writeBytes k bs).ok) (bytesOf_zero z)
  case stm =>
    have hi := h.issues
    let l := (List.range op.val).filter fun i => m.stmMask c i != 0
    have hl {i : Nat} (h : i ∈ l) : i < op.val := List.mem_range.1 (List.mem_filter.1 h).1
    have hkey {i : Nat} (h : i ∈ l) : (m.stmWord b c [(k, 8 * op.val)] ea i).1 = k + 8 * i := if_pos (by have := hl h; omega)
    have hplain {i : Nat} (hil : i ∈ l) : s.plainAt (k + 8 * i) 8 := h.plain_part (by have := hl hil; omega)
    obtain ⟨μ, bad, soft, hfold, hbytes⟩ := State.foldl_writeWord h.buffered b c ea hkey hplain
    have hexec : exec (.stm a b c op imm) s = ({ s with mem := μ, bad := bad, soft := soft } : State).ok := by
      show execStm a b c op imm s = _
      rw [execStm, State.ea_plain hi]
      dsimp only
      rw [h.check (by omega) hal]
      dsimp only
      rw [State.stmWords_eq hi, if_pos (by rw [h.atIssue, s.me_of m hi.1, hentered]; rfl)]
      have hgood : ((l.map (m.stmWord b c [(k, 8 * op.val)] ea)).findSome?
          fun x => (s.partBad x.1 x.2.2.1.length x.2.2.2).map (ownVa x.2.1 x.1)) = none := by
        refine List.findSome?_eq_none_iff.2 fun x hx => ?_
        obtain ⟨i, hil, rfl⟩ := List.mem_map.1 hx
        have hlen : (m.stmWord b c [(k, 8 * op.val)] ea i).2.2.1.length = 8 := bytesOf_length _ _
        rw [hkey hil, hlen, State.partBad_of_plain (hplain hil) le_rfl]
        rfl
      rw [hgood]
      exact congrArg State.ok hfold
    obtain ⟨hm, hj, -⟩ := hi
    obtain ⟨t, ht, honly⟩ := (OnlyThread.refl (s := { s with mem := μ, bad := bad, soft := soft }) hm).ok hj
    have hmem : t.mem = μ := by rw [honly.1]
    have hstored := OnlyThread.stored (s := s) honly
    obtain ⟨hrest, hthread, hother⟩ := hstored
    rw [hexec]
    refine ⟨t, ht, by rw [hmem]; exact hrest, hthread, hother, fun hwf x => ?_⟩
    rw [hmem, hbytes hwf x]
    have hmask (i : Nat) : m.stmMask c i = mask i := rfl
    refine if_congr ⟨fun ⟨hle, hil, hbit⟩ => ⟨hle, by have := hl hil; omega, hbit⟩, fun ⟨hle, hlt, hbit⟩ => ⟨hle, ?_, hbit⟩⟩ rfl rfl
    refine List.mem_filter.2 ⟨List.mem_range.2 (by omega), bne_iff_ne.2 fun hzero => ?_⟩
    rw [← hmask, hzero, Nat.zero_testBit] at hbit
    cases hbit

theorem fullEmptyStores : Clause.FullEmptyStores := by
  intro s m a b sc mw e imm k ea n data w marked
  have hn : 0 < n := Nat.two_pow_pos _
  -- writing the bytes, setting the state, and going on
  have goes {len : Nat} (h : s.privateAt m ea len k) {i : Instr} {μ : Memory} {es bad soft : List Nat} {f : Nat → Prop}
      (hexec : exec i s = ({ s with mem := μ, empties := es, bad := bad, soft := soft } : State).ok) (hes : ∀ x, x ∈ es ↔ f x) :
      ∃ t, exec i s = .next t ∧ marked t μ f := by
    obtain ⟨hm, hj, -⟩ := h.issues
    obtain ⟨t, ht, honly⟩ := (OnlyThread.refl (s := { s with mem := μ, empties := es, bad := bad, soft := soft }) hm).ok hj
    obtain ⟨hmarked, hempties⟩ := OnlyThread.marked (s := s) honly
    exact ⟨t, hexec.trans ht, hmarked, fun x => by rw [hempties]; exact hes x⟩
  have writes (h : s.privateAt m ea n k) {i : Instr} {want : Bool} (hsc : s.okScope sc.val = true) (hal : ea % n = 0)
      (hwant : s.feHolds want k = true) (hexec : exec i s = s.feOp ea n want false false false
        (m.reg b.val + BitVec.signExtend 64 (BitVec.ofNat 7 e.val)).toNat 0 sc) :
      ∃ t, exec i s = .next t ∧ marked t (s.mem.write k data) fun x => x ∈ s.empties ∧ x ≠ w := by
    refine goes h (bad := (s.writeBytes k data).bad) (soft := (s.writeBytes k data).soft) (hexec.trans ?_) fun x =>
      State.mem_setEmpty (s := s.writeBytes k data) (k := k) false x
    rw [h.feOp hn hal hsc hwant, h.feAct, if_neg Bool.false_ne_true, State.putN_zero]
    rfl
  refine ⟨fun hal hsc h hw => ?stef, fun hal hsc h hw => ?stff, fun hal h => ⟨?full, ?empty⟩⟩
  case stef =>
    refine writes h hsc hal (want := false) ?_ ?_
    · rw [State.feHolds, State.isEmpty_eq, show decide (wordKey k ∈ s.empties) = true from decide_eq_true hw]
      rfl
    · show execStef a b sc mw e imm s = _
      rw [execStef, State.ea_plain h.issues, State.stData_plain h.issues, memBytes]
  case stff =>
    obtain ⟨t, ht, honly, hes⟩ := writes h hsc hal (i := .stff a b sc mw e imm) (want := true)
      (by rw [State.feHolds, State.isEmpty_eq, show decide (wordKey k ∈ s.empties) = false from decide_eq_false hw]; rfl)
      (by show execStff a b sc mw e imm s = _
          rw [execStff, State.ea_plain h.issues, State.stData_plain h.issues, memBytes])
    exact ⟨t, ht, honly, fun x => (hes x).trans (and_iff_left_of_imp fun hx heq => hw (heq ▸ hx))⟩
  case full =>
    exact goes h (h.feset hal rfl (State.ea_plain h.issues a imm) false) fun x => State.mem_setEmpty (s := s) (k := k) false x
  case empty =>
    exact goes h (h.feset hal rfl (State.ea_plain h.issues a imm) true) fun x => State.mem_setEmpty (s := s) (k := k) true x

theorem privateAtomics : Clause.PrivateAtomics := by
  intro s m d a b c sc sx mw imm k ea n old after y gives hal hsc h
  have hn : 0 < n := Nat.two_pow_pos _
  have hi := h.issues
  -- the operation writes `bs`, or nothing
  have does {i : Instr} {op : ReqOp} {v : Nat} {w : Bool} (hop : (rmwNew op 0).1 = n) (hnew : rmwNew op old = (n, v, w))
      (hexec : exec i s = s.atomic d ea n sx sc op) : gives i (if w then bytesOf n v else []) := by
    obtain ⟨hm, hj, hq, -⟩ := hi
    have hw : ∃ bad soft, (if w then s.writeBytes k (bytesOf n v) else s) =
        { s with mem := s.mem.write k (if w then bytesOf n v else []), bad := bad, soft := soft } := by
      cases w with
      | true => exact ⟨_, _, rfl⟩
      | false => exact ⟨_, _, rfl⟩
    obtain ⟨bad, soft, hw⟩ := hw
    rw [h.atomic hn hal hsc d sx hop hnew, hw] at hexec
    obtain ⟨t, ht, honly⟩ := (OnlyThread.refl (s := { s with mem := s.mem.write k _, bad := bad, soft := soft }) hm).res hj hq d
      (extended sx n old)
    exact ⟨t, hexec.trans ht, OnlyThread.stored honly⟩
  refine ⟨fun heq => ?casWrites, fun hne => ?casKeeps, ?swap, ?fadd, ?faddImm⟩
  case casWrites =>
    refine does (op := .cas n y (m.reg c.val).toNat) (w := true) rfl (by rw [rmwNew, beq_iff_eq.2 heq]) ?_
    show execCas d a b c sc sx mw s = _
    rw [execCas, State.gv_plain hi, State.gv_plain hi, State.gv_plain hi, memBytes]
  case casKeeps =>
    refine does (op := .cas n y (m.reg c.val).toNat) (w := false) rfl (by rw [rmwNew, beq_eq_false_iff_ne.2 hne]) ?_
    show execCas d a b c sc sx mw s = _
    rw [execCas, State.gv_plain hi, State.gv_plain hi, State.gv_plain hi, memBytes]
  case swap =>
    refine does (op := .swap n y) (w := true) rfl rfl ?_
    show execSwap d a b sc sx mw s = _
    rw [execSwap, State.gv_plain hi, State.gv_plain hi, memBytes]
  case fadd =>
    rw [← bytesOf_mod]
    refine does (op := .fadd n y) (w := true) rfl rfl ?_
    show execFetchadd d a b sc sx mw s = _
    rw [execFetchadd, State.gv_plain hi, State.gv_plain hi, memBytes]
  case faddImm =>
    rw [← bytesOf_mod]
    refine does (op := .fadd n (m.reg b.val + BitVec.signExtend 64 imm).toNat) (w := true) rfl rfl ?_
    show execFetchaddImm d a b sc sx mw imm s = _
    rw [execFetchaddImm, State.gv_plain hi, State.g_plain hi.1 hi.2.2.1, sxImm_eq, memBytes]

/-- Settles O17: an access of the thread's own memory is checked, found ordinary and made at issue. -/
theorem privateMemory : Obligations.PrivateMemory := ⟨privateLoads, privateStores, fullEmptyStores, privateAtomics⟩
end

section
/-!
SUPPORT. Requests to the copy engine and the streamer (18 R317; 19 R328 to R330; 21 R365).
-/
open Sys2Proof
namespace Sys2Proof.Machine

section
variable {s : State} {m : Thread} {d a : Reg} {ins : Instr} {c : Copy} {checks : State → Got Unit} {w : Who}

/-! ### Extents of an accessor's own memory -/

theorem State.spanOf_of_check {need addr len : Nat} {segs : List (Nat × Nat)}
    (h : s.check w need false 1 addr len = (.ok segs, s)) (eng : Bool) : s.spanOf w eng need addr len = .ok (.here segs) s := by
  have heng : s.engineCheck w need false 1 addr len (pageFuel len) = (.ok segs, s) := by
    rw [pageFuel, State.engineCheck, h]
  cases eng with
  | true => rw [State.spanOf, if_pos rfl, heng]
  | false => rw [State.spanOf, if_neg Bool.false_ne_true, h]
/-- The memory of the accessor's own core, by the selector that names none. -/
theorem State.spanOf_own {addr len : Nat} (hend : addr + len ≤ 0x8000) (hown : s.owner (gidQk w.gid) = some w.part) (hlen : 0 < len)
    (eng : Bool) (need : Nat) : s.spanOf w eng need addr len =
      .ok (.here [(privKey (gidDie w.gid) (gidQuad w.gid) (gidCore w.gid) addr, len)]) s :=
  State.spanOf_of_check (State.check_own hend hown hlen (Nat.mod_one _) need false) eng
/-- The same by its full address. -/
theorem State.spanOf_named {off len : Nat} (hquad : gidQuad w.gid < Config.quadsPerDie) (hend : off + len ≤ 0x8000)
    (hown : s.owner (gidQk w.gid) = some w.part) (hlen : 0 < len) (eng : Bool) (need : Nat) :
    s.spanOf w eng need (privKey (gidDie w.gid) (gidQuad w.gid) (gidCore w.gid) off) len =
      .ok (.here [(privKey (gidDie w.gid) (gidQuad w.gid) (gidCore w.gid) off, len)]) s := by
  have hplace := placeOf_privKey (pkg := s.pkg) (gid := w.gid) (die := gidDie w.gid) (quad := gidQuad w.gid) (core := gidCore w.gid) (off := off)
    (Nat.mod_lt _ (by decide)) (Nat.mod_lt _ (by decide)) (Nat.mod_lt _ (by decide)) (by omega)
  rw [if_pos ⟨hquad, by omega⟩] at hplace
  refine State.spanOf_of_check ?_ eng
  rw [State.check_priv need false (Nat.mod_one _) hplace hend hlen, if_pos (by rw [qk_gid]; exact hown)]

/-! ### The answers of the engine -/

/-- The issuing thread's command with the registers of a thread that maps no queue. -/
theorem State.command_eq (hi : s.issues m) (a : Reg) (kind : Nat) :
    s.command a kind = {
      id := s.nextId, core := s.myCore, gid := s.iss.gid, uid := m.uid, dom := m.dom, part := s.myPart, asid := m.asid,
      ef := m.shFmt.toNat % 32, seq := m.seq, kind := kind, w0 := (m.reg (a.val + 0)).toNat, w1 := (m.reg (a.val + 1)).toNat,
      w2 := (m.reg (a.val + 2)).toNat, w3 := (m.reg (a.val + 3)).toNat, state := 0, total := 0, cnt := 0, status := 0 } := by
  simp only [State.command, State.reqWord, State.gN_plain hi, State.myDom, State.ef, s.me_of m hi.1]
theorem State.enqueue_busy (hfull : Config.copyFifo ≤ (s.core s.myCore).fifo.length) (d : Reg) (c : Copy) (checks : State → Got Unit) :
    s.enqueue d c false checks = s.reply d s.myQuad 1 := by
  rw [State.enqueue, if_pos hfull, if_neg Bool.false_ne_true]
theorem State.enqueue_waits (hfull : Config.copyFifo ≤ (s.core s.myCore).fifo.length) (d : Reg) (c : Copy) (checks : State → Got Unit) :
    s.enqueue d c true checks = .next (s.retry .copyRoom) := by
  rw [State.enqueue, if_pos hfull, if_pos rfl]
theorem State.enqueue_scope (hroom : ¬Config.copyFifo ≤ (s.core s.myCore).fifo.length) (hsc : s.okScope c.sc = false) (d : Reg) (wt : Bool)
    (checks : State → Got Unit) : s.enqueue d c wt checks = .next (s.fault clsScope c.sc) := by
  rw [State.enqueue, if_neg hroom, if_pos (by rw [hsc]; rfl)]
  rfl
/-- The state in which an instruction's accesses are plain ones of its thread (17 R289). -/
def State.inPlain (s : State) : State := { s with iss := { s.iss with plain := true, puts := [] } }
theorem State.enqueue_checked (hroom : ¬Config.copyFifo ≤ (s.core s.myCore).fifo.length) (hsc : s.okScope c.sc = true) (d : Reg) (wt : Bool)
    (checks : State → Got Unit) : s.enqueue d c wt checks =
      s.inPlain.settle (checks s.inPlain) fun _ s => (s.queueCopy { c with id := s.nextId }).reply d s.myQuad 0 := by
  rw [State.enqueue, if_neg hroom, if_neg (by rw [hsc]; decide)]
  rfl
/-- A command that passes its checks is put in the FIFO, and the engine answers 0. -/
theorem queued_of_accepted (hi : s.issues m) {kind : Nat}
    (hexec : exec ins s = (s.inPlain.queueCopy (s.command a kind)).reply d s.myQuad 0) : Clause.Queued ins s m d a kind := by
  have hseq : (s.inPlain.queueCopy (s.command a kind)).thread? s.iss.gid = some { m with seq := m.seq + 1 } :=
    State.modMe_thread? (s := s.inPlain) hi.1 (fun t => { t with seq := t.seq + 1 }) fun _ => rfl
  obtain ⟨t, ht, hreplies⟩ := State.reply_replies (s := s.inPlain.queueCopy (s.command a kind)) hseq d s.myQuad 0
  refine ⟨_, s.command a kind, ⟨t, hexec.trans ht, hreplies⟩, rfl, hseq, fun g hg => ?_, ?_, fun j hj => ?_, State.command_eq hi a kind⟩
  · exact (OnlyThread.modMe (s := s.inPlain) hi.1 (fun t => { t with seq := t.seq + 1 }) fun _ => rfl).2.2 g hg
  · exact State.core_setCore_of_key (s.core_key _)
  · exact s.core_setCore_other _ j fun heq => hj (heq.trans (s.core_key s.myCore))

/-! ### The checks of a request -/

/-- The checks of an address to address copy whose two extents lie in the thread's own memory. -/
theorem State.copyChecks_own (h3 : c.w3 < 2 ^ 21) (hown : s.owner (gidQk s.iss.gid) = some s.myPart) (h0 : c.w0 % 8 = 0)
    (h1 : c.w1 % 8 = 0) (h2 : c.w2 % 8 = 0) (hlen : 8 ≤ c.w2) (hend0 : c.w0 + c.w2 ≤ 0x8000) (hend1 : c.w1 + c.w2 ≤ 0x8000) {k0 k1 : Nat}
    (hk0 : k0 = privKey (gidDie s.iss.gid) (gidQuad s.iss.gid) (gidCore s.iss.gid) c.w0)
    (hk1 : k1 = privKey (gidDie s.iss.gid) (gidQuad s.iss.gid) (gidCore s.iss.gid) c.w1) :
    s.copyChecks c = if k0 + c.w2 ≤ k1 ∨ k1 + c.w2 ≤ k0 then .ok () s else .trap clsProtection c.w1 := by
  have hsk : c.sk = 0 := by show c.w3 / 2 ^ 26 % 2 ^ 3 = 0; omega
  have hdk : c.dk = 0 := by show c.w3 / 2 ^ 23 % 2 ^ 3 = 0; omega
  have hclip : c.clip = 0 := by show c.w3 / 2 ^ 21 % 2 ^ 2 = 0; omega
  have h29 : c.w3 / 2 ^ 29 = 0 := by omega
  have side {va need : Nat} (hva : va % 8 = 0) (hend : va + c.w2 ≤ 0x8000) : s.copySide va need c.w2 =
      .ok (.here [(privKey (gidDie s.iss.gid) (gidQuad s.iss.gid) (gidCore s.iss.gid) va, c.w2)]) s := by
    rw [State.copySide, Got.need, if_pos (by simp [hva])]
    exact State.spanOf_own (w := s.who) hend hown (by omega) false need
  rw [State.copyChecks, hsk, hdk, hclip, h29]
  dsimp only
  rw [Got.need, if_pos (by decide), Got.need, if_pos (by simp [h2, hlen]; omega), side h0 hend0, Got.bind, side h1 hend1, Got.bind, ← hk0, ← hk1]
  dsimp only
  rw [Got.need]
  refine if_congr ?_ rfl rfl
  simp only [segsMeet, List.any_cons, List.any_nil, Bool.or_false, Bool.not_eq_true', Bool.and_eq_false_iff, decide_eq_false_iff_not, not_lt]
  omega
/-- The checks of a streamer request whose index list and local buffer lie in the thread's own memory. -/
theorem State.streamChecks_own {n size : Nat} (hn : n = bits c.w3 43 32 + 1) (hsize : size = (bits c.w3 55 44 + 1) * 8)
    (hlow : bits c.w3 31 21 = 0) (hhigh : bits c.w3 63 56 = 0) (h0 : c.w0 % 4 = 0) (h1 : c.w1 % 8 = 0) (h2 : c.w2 % 8 = 0)
    (hsel : c.w2 / 2 ^ 60 = 1 ∨ c.w2 / 2 ^ 60 = 2 ∨ c.w2 / 2 ^ 60 = 4) (hown : s.owner (gidQk s.iss.gid) = some s.myPart)
    (hend0 : c.w0 + 4 * n ≤ 0x8000) (hend1 : c.w1 + n * size ≤ 0x8000) {sp : Span}
    (htable : s.spanOf s.who false (if c.kind = 1 then needR else needW) c.w2 8 = .ok sp s) : s.streamChecks c = .ok () s := by
  have hpos : 0 < n * size := Nat.mul_pos (by omega) (by omega)
  have hspace : (c.w2 % 8 == 0 && (c.w2 / 2 ^ 60 == 1 || c.w2 / 2 ^ 60 == 2 || c.w2 / 2 ^ 60 == 4 ||
      (c.w2 / 2 ^ 60 == 7 && bits c.w2 47 45 != 3))) = true := by
    simp only [Bool.and_eq_true, Bool.or_eq_true, beq_iff_eq]
    exact ⟨h2, .inl (or_assoc.2 hsel)⟩
  have index := State.spanOf_own (w := s.who) hend0 hown (by omega) false needR
  have buffer (need : Nat) := State.spanOf_own (w := s.who) hend1 hown hpos false need
  rw [State.streamChecks]
  rw [← hn, ← hsize, Got.need, if_pos (by simp [hlow, hhigh]), Got.need, if_pos (by simp [h0]), Got.need, if_pos (by simp [h1]), Got.need,
    if_pos hspace, index, Got.bind, State.copySide, Got.need, if_pos (by simp [h1]), buffer, Got.bind,
    State.copySide, Got.need, if_pos (by simp [h2]), htable]
  rfl
end
end Sys2Proof.Machine
open Sys2Proof.Machine

theorem copyRequests : Clause.CopyRequests := by
  intro s m d a k0 k1 hi w full sc accepted readable user
  have hsc (kind : Nat) : (s.command a kind).sc = sc := by
    rw [State.command_eq hi]
    rfl
  have hgath (hu : user) (wt : Bool) : exec (.gath d a wt) s = s.enqueue d (s.command a 1) wt fun t => t.streamChecks (s.command a 1) := by
    show execGath d a wt s = _
    rw [execGath, State.user_eq hu]
  have hscat (hu : user) (wt : Bool) : exec (.scat d a wt) s = s.enqueue d (s.command a 2) wt fun t => t.streamChecks (s.command a 2) := by
    show execScat d a wt s = _
    rw [execScat, State.user_eq hu]
  refine ⟨fun hfull => ?full, fun hroom hbad => ?scope, fun hroom hok => ⟨fun h3 h28 hlen h08 h18 hp0 hp1 => ?copy, ?stream⟩⟩
  case full =>
    have busy {i : Instr} {c : Copy} {checks : State → Got Unit} (hexec : exec i s = s.enqueue d c false checks) :
        Answers i s s m (gidQk s.iss.gid) 1 d := by
      obtain ⟨t, ht, hreplies⟩ := State.reply_replies hi.1 d s.myQuad 1
      exact ⟨t, hexec.trans ((State.enqueue_busy hfull d c checks).trans ht), hreplies⟩
    have waits {i : Instr} {c : Copy} {checks : State → Got Unit} (hexec : exec i s = s.enqueue d c true checks) :
        ∃ t, exec i s = .next t ∧ Retries s t m .copyRoom :=
      ⟨_, hexec.trans (State.enqueue_waits hfull d c checks), State.retry_retries hi.1 _⟩
    exact ⟨busy rfl, waits rfl, fun hu => ⟨busy (hgath hu false), busy (hscat hu false), waits (hgath hu true), waits (hscat hu true)⟩⟩
  case scope =>
    have faults {i : Instr} {wt : Bool} {kind : Nat} {checks : State → Got Unit}
        (hexec : exec i s = s.enqueue d (s.command a kind) wt checks) : exec i s = .next (s.fault clsScope sc) := by
      rw [hexec, State.enqueue_scope hroom (by rw [hsc]; exact hbad), hsc]
    exact ⟨faults rfl, faults rfl, fun hu wt => ⟨faults (hgath hu wt), faults (hscat hu wt)⟩⟩
  case copy =>
    obtain ⟨-, hend0, hown, -, -, hk0, -⟩ := hp0
    obtain ⟨-, hend1, -, -, -, hk1, -⟩ := hp1
    have hc := State.command_eq hi a 0
    have hchecks : s.inPlain.copyChecks (s.command a 0) =
        if k0 + w 2 ≤ k1 ∨ k1 + w 2 ≤ k0 then .ok () s.inPlain else .trap clsProtection (w 1) := by
      rw [hc]
      exact State.copyChecks_own (s := s.inPlain) h3 hown h08 h18 h28 hlen hend0 hend1 hk0 hk1
    have copies {i : Instr} {wt : Bool} (hexec : exec i s = s.enqueue d (s.command a 0) wt fun t => t.copyChecks (s.command a 0)) :
        (k0 + w 2 ≤ k1 ∨ k1 + w 2 ≤ k0 → accepted i 0) ∧
        (¬(k0 + w 2 ≤ k1 ∨ k1 + w 2 ≤ k0) → exec i s = .next (s.inPlain.fault 8 (w 1))) := by
      rw [State.enqueue_checked hroom (by rw [hsc]; exact hok)] at hexec
      rw [hchecks] at hexec
      refine ⟨fun hapart => ?_, fun hmeet => ?_⟩
      · rw [if_pos hapart] at hexec
        exact queued_of_accepted hi hexec
      · rw [if_neg hmeet] at hexec
        exact hexec
    have hcpyq := copies (i := .cpyq d a) rfl
    have hcpyqw := copies (i := .cpyqw d a) rfl
    refine ⟨fun hapart => ⟨hcpyq.1 hapart, hcpyqw.1 hapart⟩, fun hmeet => ⟨s.inPlain, ?_, hcpyq.2 hmeet, hcpyqw.2 hmeet⟩⟩
    refine ⟨rfl, hi.1, fun _ _ => rfl, fun k => ?_⟩
    have hzero : (if k = s.myCore then ((0 : Nat) : Int) else 0) = 0 := ite_self 0
    rw [hzero, Int.sub_zero]
    rfl
  case stream =>
    intro n size hlow hhigh h04 h18 h28 hu hp0 hp1 hsel
    obtain ⟨-, hend0, hown, -, -, -, -⟩ := hp0
    obtain ⟨-, hend1, -, -, -, -, -⟩ := hp1
    have streams {i : Instr} {wt : Bool} {kind : Nat}
        (hexec : exec i s = s.enqueue d (s.command a kind) wt fun t => t.streamChecks (s.command a kind))
        (htable : readable (if kind = 1 then needR else needW) (w 2) 8) : accepted i kind := by
      obtain ⟨sp, hsp⟩ := htable s.inPlain rfl
      have hchecks : s.inPlain.streamChecks (s.command a kind) = .ok () s.inPlain := by
        rw [State.command_eq hi]
        exact State.streamChecks_own (s := s.inPlain) (n := n) (size := size) rfl rfl hlow
          (by show w 3 / 2 ^ 56 % _ = 0; rw [hhigh]; rfl) h04 h18 h28 hsel hown hend0 hend1 hsp
      rw [State.enqueue_checked hroom (by rw [hsc]; exact hok)] at hexec
      rw [hchecks] at hexec
      exact queued_of_accepted hi hexec
    exact ⟨fun wt hr => streams (hgath hu wt) hr, fun wt hr => streams (hscat hu wt) hr⟩
end

section
/-!
SUPPORT. The accesses of an engine in memory without marks or waiters, and its completions (08 R150; 11 R209; 19 R330, R331).
-/
open Sys2Proof
namespace Sys2Proof.Machine

section
variable {s u v : State} {w : Who} {x y : Copy} {k n va need : Nat} {bs : List Byte}

/-! ### Memory -/

theorem Memory.bytes_eq_map (μ : Memory) (k n : Nat) : μ.bytes k n = (List.range n).map fun i => μ.byte (k + i) := by
  induction n generalizing k with
  | zero => rfl
  | succ n ih =>
    rw [Memory.bytes, ih, List.range_succ_eq_map, List.map_cons, List.map_map]
    refine congrArg _ (List.map_congr_left fun i _ => congrArg μ.byte ?_)
    show k + 1 + i = k + (i + 1)
    omega
theorem Memory.write_append (μ : Memory) (k : Nat) (xs ys : List Byte) : μ.write k (xs ++ ys) = (μ.write k xs).write (k + xs.length) ys := by
  induction xs generalizing μ k with
  | nil => rfl
  | cons x xs ih =>
    rw [List.cons_append, Memory.write, ih, Memory.write, List.length_cons, Nat.add_right_comm]
    rfl
/-- A write elsewhere leaves an extent as it was. -/
theorem Memory.bytes_write_apart {μ : Memory} (hwf : μ.wf = true) {a : Nat} (bs : List Byte) (h : k + n ≤ a ∨ a + bs.length ≤ k) :
    (μ.write a bs).bytes k n = μ.bytes k n :=
  Memory.bytes_congr fun i hi => by rw [μ.byte_write hwf, if_neg (by omega)]

/-! ### An engine's accesses -/

/-- No word is uncorrectable, empty or waited for, no write of the shuffler is under way, and accesses are made at once. -/
structure State.Quiet (s : State) : Prop where
  bad : s.bad = []
  soft : s.soft = []
  bars : s.barWaits = []
  waits : s.feWaits = []
  empties : s.empties = []
  now : s.iss.plain = false
  adm : ∀ r ∈ s.reqs, r.adm = none
/-- An extent of `n` bytes at `va` is at key `k` for an engine of `w`, which charges nothing for it. -/
def State.Reaches (s : State) (w : Who) (need va n k : Nat) : Prop :=
  s.spanOf w true need va n = .ok (.here [(k, n)]) s ∧ s.engCharge w (.here [(k, n)]) = s

theorem keysAt_one (k n : Nat) : keysAt [(k, n)] 0 n = (List.range n).map (k + ·) := by
  refine List.map_congr_left fun j hj => ?_
  rw [segKey, if_pos (by simpa using hj), Nat.zero_add]

section
variable (hq : s.Quiet)
include hq
theorem State.Quiet.memory (μ : Memory) : { s with mem := μ }.Quiet := ⟨hq.bad, hq.soft, hq.bars, hq.waits, hq.empties, hq.now, hq.adm⟩
theorem State.Quiet.plainAt (k n : Nat) : s.plainAt k n := by
  intro w hw
  rw [hq.bad, hq.soft, hq.bars, hq.waits] at hw
  simp at hw
theorem State.Quiet.moved (sp : Span) (mine : Option (Nat × Nat)) : s.moved? sp mine = .ok () s := by
  cases sp with
  | away => rfl
  | here segs =>
    have hnone : s.reqs.find? (fun r => r.adm.isSome && r.adm != mine && r.res.isNone && segs.any fun e => overlap r.key r.len e.1 e.2) = none :=
      List.find?_eq_none.2 fun r hr => by simp [hq.adm r hr]
    rw [State.moved?, hnone]
theorem State.Quiet.writeBytes (k : Nat) (bs : List Byte) : s.writeBytes k bs = { s with mem := s.mem.write k bs } := by
  show { s with mem := _, bad := s.bad.filter _, soft := s.soft.filter _ } = _
  rw [hq.bad, hq.soft]
  rfl
theorem State.Quiet.fillWords (keys : List Nat) : s.fillWords keys = s := by
  refine List.foldlRecOn _ _ (motive := fun t => t = s) rfl fun t ht k _ => ?_
  subst ht
  exact if_neg (by simp [State.isEmpty, hq.empties])
/-- A read gives the bytes that stand there. -/
theorem State.Quiet.engBytes (h : s.Reaches w needR va n k) : s.engBytes w va n = .ok (s.mem.bytes k n) s := by
  obtain ⟨hspan, hcharge⟩ := h
  have hgood (keys : List Nat) : ((List.range keys.length).find? fun j => s.bad.contains (wordKey (keys.getD j 0))) = none := by
    simp [hq.bad]
  have hread (va : Nat) (keys : List Nat) : s.readKeys va keys = .ok (keys.map s.mem.byte) s := by
    rw [State.readKeys, hq.now, if_neg Bool.false_ne_true, hgood]
  rw [State.engBytes, hspan, Got.bind, hq.moved, Got.bind, hcharge, State.readSpan]
  rw [hq.soft, keysAt_one]
  show s.readKeys _ _ = _
  rw [hread, List.map_map, Memory.bytes_eq_map]
  rfl
/-- A write at once puts them there. -/
theorem State.Quiet.engNow {x : Writer} (hfills : x.fills = true) (hadmits : x.admits = false) (hpos : 0 < bs.length)
    (h : s.Reaches x.who needW va bs.length k) : s.engNow x va bs = .ok () { s with mem := s.mem.write k bs } := by
  obtain ⟨hspan, hcharge⟩ := h
  have hkeys : keysAt [(k, bs.length)] 0 bs.length = (List.range bs.length).map (k + ·) := keysAt_one k bs.length
  have hhead : ((List.range bs.length).map (k + ·)).headD 0 = k := by
    cases hbs : bs.length with
    | zero => omega
    | succ n => rw [List.range_succ_eq_map]; rfl
  have hwrite (va : Nat) : s.writeKeys va ((List.range bs.length).map (k + ·)) bs = .ok () { s with mem := s.mem.write k bs } := by
    rw [State.writeKeys, hq.now, hhead, List.length_map, List.length_range]
    rw [if_neg Bool.false_ne_true, if_pos (beq_self_eq_true _), State.partBad_of_plain (hq.plainAt k bs.length) le_rfl, List.take_length]
    dsimp only
    rw [State.homeWrite_of_plain (hq.plainAt k bs.length) le_rfl, hq.writeBytes]
  have hmoved := (hq.memory (s.mem.write k bs)).fillWords (keysAt [(k, bs.length)] 0 bs.length)
  rw [State.engNow, State.afterReads, hadmits, if_pos (by decide), Got.bind, hfills, if_pos rfl, State.engFill, hspan, Got.bind, hq.moved, Got.bind,
    hcharge, State.writeSpan, hkeys, hwrite, Got.bind]
  dsimp only
  rw [hmoved]
end

/-! ### Completions -/

/-- The completion of a command that has ended is placed, and the command leaves the list. -/
theorem State.postCopy_mailed {tot cnt st status : Nat}
    (hfind : v.copies.find? (·.id == x.id) = some { x with total := tot, cnt := cnt, state := st, status := status })
    (hrest : v.copies.filter (·.id != x.id) = s.copies.filter (·.id != x.id)) (hcore : ∀ k, v.core k = s.core k)
    (hplace : Clause.Place v x) (hkind : x.kind ≤ 2) (hqueue : ¬(x.kind = 0 ∧ x.dk = 2)) :
    Clause.Mailed s (v.postCopy x.id) v x status (cnt / 8) := by
  obtain ⟨hlive, hpart, hroom, n, hn, hwait⟩ := hplace
  let mail : Compl := {
    slot := gidSlot x.gid, uid := x.uid, dom := x.dom, word := complWord x.w3 status (cnt / 8), scope := x.sc, acq := x.rl }
  have hthread : (v.thread (v.gidOf x.core (gidSlot x.gid))).wait = none := by rw [State.thread, hn]; exact hwait
  have hnone : (v.part? x.part).isNone = false := by rw [← Option.not_isSome, hpart]; rfl
  have hmail : v.complete? x.core mail x.part = some (v.setCore { v.core x.core with mail := (v.core x.core).mail ++ [mail] }) := by
    rw [State.complete?, if_neg (by rw [hnone]; simp [mail, hlive])]
    dsimp only
    rw [hthread]
    dsimp only
    rw [if_neg Bool.false_ne_true, if_neg (by omega)]
  have hpost : v.postCopy x.id = { v.setCore { v.core x.core with mail := (v.core x.core).mail ++ [mail] } with
      copies := v.copies.filter (·.id != x.id) } := by
    rw [State.postCopy, hfind]
    dsimp only
    rw [if_neg (by omega)]
    show (match v.complete? x.core mail x.part with | none => v | some s => _) = _
    rw [hmail]
    refine if_neg fun h => hqueue ?_
    simp only [Bool.and_eq_true, decide_eq_true_eq] at h
    exact h
  rw [hpost, hrest]
  refine ⟨rfl, fun j hj => ?_, ?_⟩
  · rw [← hcore]
    exact v.core_setCore_other _ j fun heq => hj (heq.trans (v.core_key _))
  · rw [← hcore]
    exact State.core_setCore_of_key (v.core_key _)
end
end Sys2Proof.Machine
open Sys2Proof.Machine
end

section
/-!
SUPPORT. A copy from address to address, element by element (19 R330, R331; 08 R150).
-/
open Sys2Proof
namespace Sys2Proof.Machine

section
variable {s u : State} {w : Who} {x : Copy} {k n va total : Nat} {bs : List Byte}

/-! ### The record of a command -/

theorem State.modCopy_find {f : Copy → Copy} (hf : ∀ c, (f c).id = c.id) (h : u.copies.find? (·.id == x.id) = some x) :
    (u.modCopy x.id f).copies.find? (·.id == x.id) = some (f x) := by
  have hmap := find?_map_key Copy.id f x.id x.id u.copies fun c hc => (hf c).trans hc
  rw [if_pos rfl, h] at hmap
  exact hmap
theorem State.modCopy_others (u : State) {f : Copy → Copy} (hf : ∀ c, (f c).id = c.id) (id : Nat) :
    (u.modCopy id f).copies.filter (·.id != id) = u.copies.filter (·.id != id) := by
  rw [State.modCopy, List.filter_map]
  have hkeep : ((·.id != id) ∘ fun c : Copy => if c.id == id then f c else c) = (·.id != id) := by
    funext c
    show ((if c.id == id then f c else c).id != id) = _
    split <;> simp [hf]
  rw [hkeep]
  refine (List.map_congr_left fun c hc => ?_).trans (List.map_id _)
  exact if_neg (by simpa using (List.mem_filter.1 hc).2)
theorem State.modCopy_modCopy (u : State) (id : Nat) {f : Copy → Copy} (hf : ∀ c, (f c).id = c.id) (g : Copy → Copy) :
    (u.modCopy id f).modCopy id g = u.modCopy id fun c => g (f c) := by
  simp only [State.modCopy, List.map_map]
  refine congrArg (fun l => { u with copies := l }) (List.map_congr_left fun c _ => ?_)
  show (if (if c.id == id then f c else c).id == id then _ else _) = _
  by_cases hc : c.id = id
  · simp [hc, hf]
  · simp [hc]
/-- A command whose end is recorded delivers its completion. -/
theorem State.modCopy_mailed (hfind : s.copies.find? (·.id == x.id) = some x) (hcopies : u.copies = s.copies) (hcore : ∀ k, u.core k = s.core k)
    (hplace : Clause.Place u x) (hkind : x.kind ≤ 2) (hqueue : ¬(x.kind = 0 ∧ x.dk = 2)) (tot cnt st status : Nat) :
    Clause.Mailed s ((u.modCopy x.id fun c => { c with total := tot, cnt := cnt, state := st, status := status }).postCopy x.id) u x status
      (cnt / 8) :=
  State.postCopy_mailed (State.modCopy_find (fun _ => rfl) (by rw [hcopies]; exact hfind))
    ((u.modCopy_others (f := fun c => { c with total := tot, cnt := cnt, state := st, status := status }) (fun _ => rfl) x.id).trans
      (by rw [hcopies])) hcore hplace hkind hqueue

/-! ### Elements -/

theorem State.engOut_now {y : Writer} (hrl : y.rl = true) (va : Nat) (bs : List Byte) : s.engOut y va bs = s.engNow y va bs := by
  rw [State.engOut, if_pos hrl]
/-- With the release flag clear a write leaves as a request. -/
theorem State.Quiet.engOut_posts (hq : s.Quiet) {y : Writer} (hrl : y.rl = false) (hfills : y.fills = true)
    (hspan : s.spanOf y.who true needW va bs.length = .ok (.here [(k, bs.length)]) s) :
    s.engOut y va bs = .ok () (s.engPost y (.copyEl bs) k bs.length va) := by
  rw [State.engOut, hrl, if_neg Bool.false_ne_true, hspan, Got.bind, hq.moved, Got.bind]
  dsimp only
  rw [State.partBad_of_plain (hq.plainAt k bs.length) le_rfl, hfills]
  rfl
/-- One element of a copy from address to address. -/
def State.copyWord (s : State) (x : Copy) (i : Nat) : Got Unit :=
  (s.engBytes x.who (x.w0 + 8 * i) 8).bind fun bs s => s.engOut x.writer (x.w1 + 8 * i) bs
theorem State.runCopy_step (hdk : x.dk = 0) {r : Ran} (hr : r.k < total) (fuel : Nat) {t : State} (h : s.copyWord x r.k = .ok () t) :
    s.runCopy x none none total (fuel + 1) r = t.runCopy x none none total fuel { r with k := r.k + 1, cnt := r.cnt + 64 } := by
  have hone : ((s.engBytes x.who (x.w0 + 8 * r.k) 8).bind fun bs s => (s.engOut x.writer (x.w1 + 8 * r.k) bs).bind fun _ s => Got.ok 0 s) =
      Got.ok 0 t := by
    rw [State.copyWord] at h
    cases hread : s.engBytes x.who (x.w0 + 8 * r.k) 8 with
    | ok bs y =>
      rw [hread, Got.bind] at h
      rw [Got.bind, h]
      rfl
    | _ => rw [hread] at h; cases h
  rw [State.runCopy, if_neg (by omega), hdk]
  dsimp only
  rw [if_neg (by decide), if_neg (by decide), hone]
  rfl
theorem State.runCopy_done {r : Ran} (hr : total ≤ r.k) (fuel : Nat) :
    s.runCopy x none none total (fuel + 1) r = ({ r with done := some 0 }, s) := by
  rw [State.runCopy, if_pos hr]
/-- When every element is moved, the copy ends with status 0. -/
theorem State.runCopy_all {st : Nat → State} (hdk : x.dk = 0) (hstep : ∀ i, i < total → (st i).copyWord x i = .ok () (st (i + 1))) :
    ∀ fuel i, i ≤ total → total - i < fuel → (st i).runCopy x none none total fuel { k := i, cnt := 64 * i, done := none } =
      ({ k := total, cnt := 64 * total, done := some 0 }, st total) := by
  intro fuel
  induction fuel with
  | zero => exact fun i _ h => absurd h (Nat.not_lt_zero _)
  | succ fuel ih =>
    intro i hi hfuel
    by_cases hlt : i < total
    · have hrest := ih (i + 1) hlt (by omega)
      rw [Nat.mul_succ] at hrest
      exact (State.runCopy_step (r := { k := i, cnt := 64 * i, done := none }) hdk hlt fuel (hstep i hlt)).trans hrest
    · have heq : i = total := by omega
      subst heq
      exact State.runCopy_done (s := st i) (r := { k := i, cnt := 64 * i, done := none }) (Nat.le_refl i) fuel
/-- The step of a copy from address to address that has just begun and ends in one go. -/
theorem State.copyCompletion_ends (hfind : s.copies.find? (·.id == x.id) = some x) (hstate : x.state = 1) (hkind : x.kind = 0) (hsk : x.sk = 0)
    (hdk : x.dk = 0) (htotal : x.total = 0) (hcnt : x.cnt = 0) (hover : s.overdrawn x.part = false) {tot cnt status : Nat}
    (hrun : s.runCopy x none none (x.w2 / 8) (x.w2 / 8 + 1) { k := 0, cnt := 0, done := none } = ({ k := tot, cnt := cnt, done := some status }, u)) :
    exec (.copyCompletion x.id) s =
      .next ((u.modCopy x.id fun c => { c with total := tot, cnt := cnt, state := 2, status := status }).postCopy x.id) := by
  have hsides : ((s.sideHandle x (x.sk == 1) x.w0).bind fun a s => (s.sideHandle x (x.dk == 1) x.w1).bind fun b s => Got.ok (a, b) s) =
      .ok (none, none) s := by
    rw [hsk, hdk]
    rfl
  have hfuel : x.w2 / 8 - x.total + 1 = x.w2 / 8 + 1 := by rw [htotal, Nat.sub_zero]
  show execCopyCompletion x.id s = _
  rw [execCopyCompletion, hfind]
  dsimp only
  rw [if_neg (by rw [hstate]; decide), if_neg (by rw [hstate, hkind, hover]; decide), hsides]
  dsimp only
  rw [if_neg (show ¬x.dk = 2 by rw [hdk]; decide),
    if_neg (show ¬((none : Option Handle).isSome || (none : Option Handle).isSome) = true from Bool.false_ne_true), hfuel, htotal, hcnt, hrun]
  rfl
end
end Sys2Proof.Machine
open Sys2Proof.Machine
end

section
/-!
SUPPORT. What a copy leaves: its words moved, or requests for its writes (08 R150; 19 R331).
-/
open Sys2Proof
namespace Sys2Proof.Machine

section
variable {s u : State} {w : Who} {x : Copy} {k k0 k1 n va total len off need : Nat} {bs : List Byte}

/-! ### What is charged for an access -/

/-- The pages of an extent of a core's memory are homed by no controller that counts requests. -/
theorem State.engCharge_own (s : State) (w : Who) {die quad core : Nat} (hdie : die < 4) (hquad : quad < 2 ^ 12) (hcore : core < 4)
    (hend : off + n ≤ 0x8000) : s.engCharge w (.here [(privKey die quad core off, n)]) = s := by
  obtain ⟨k, hk, hlo, hhi⟩ : ∃ k, privKey die quad core off = k ∧ 2 ^ 60 ≤ k ∧ k + n < 2 * 2 ^ 60 := by
    refine ⟨_, rfl, ?_, ?_⟩ <;> simp only [privKey] <;> omega
  rw [hk]
  have free {p : Nat} (hp : keySel p = 1) (t : State) : t.takeToken w.part p = t := by
    have hport : bucketPort p = none := by
      rw [bucketPort, hp]
      rfl
    have hrate : t.rateAt w.part p = none := by rw [State.rateAt, hport]
    rw [State.takeToken, hrate]
  refine List.foldlRecOn _ _ (motive := fun t => t = s) rfl fun t ht p hp => ?_
  subst ht
  have hsel : keySel p = 1 := by
    simp only [Span.segs, List.flatMap_cons, List.flatMap_nil, List.append_nil, List.mem_map, List.mem_range] at hp
    obtain ⟨i, hi, rfl⟩ := hp
    rw [keySel]
    omega
  dsimp only
  rw [free hsel]
  split
  · exact if_neg (by simp [hsel])
  · rfl
/-- Where no partition has rates and no monitor samples DRAM accesses, nothing is. -/
theorem State.engCharge_uncharged (h : s.uncharged) (w : Who) (sp : Span) : s.engCharge w sp = s := by
  obtain ⟨hrates, hmons⟩ := h
  have hrate (p : Nat) : s.rateAt w.part p = none := by
    rw [State.rateAt]
    split
    · next hpart => rw [hrates _ (List.mem_of_find?_eq_some hpart)]; rfl
    · rfl
  have hmon (q : Nat) : ((s.quad q).mons.any fun m => m.on && m.src == 3) = false := by
    refine List.any_eq_false.2 fun m hm => ?_
    cases hfind : s.quads.find? (·.key == q) with
    | none =>
      rw [State.quad, hfind] at hm
      simp only [Option.getD_none, Quad.fresh, List.mem_replicate] at hm
      rw [hm.2]
      decide
    | some y =>
      rw [State.quad, hfind] at hm
      have := hmons y (List.mem_of_find?_eq_some hfind) m hm
      simpa using this
  refine List.foldlRecOn _ _ (motive := fun t => t = s) rfl fun t ht p _ => ?_
  subst ht
  dsimp only
  rw [State.takeToken, hrate]
  split
  · exact if_neg (by rw [hmon, Bool.and_false]; exact Bool.false_ne_true)
  · rfl
theorem State.overdrawn_uncharged (h : s.uncharged) (part : Nat) : s.overdrawn part = false := by
  rw [State.overdrawn]
  split
  · rfl
  · next hpart => rw [h.1 _ (List.mem_of_find?_eq_some hpart)]; rfl

/-! ### The accessor's own memory -/

theorem State.reaches_own (hend : va + n ≤ 0x8000) (hown : s.owner (gidQk w.gid) = some w.part) (hpos : 0 < n) (need : Nat) :
    s.Reaches w need va n (privKey (gidDie w.gid) (gidQuad w.gid) (gidCore w.gid) va) :=
  ⟨State.spanOf_own hend hown hpos true need,
    s.engCharge_own w (Nat.mod_lt _ (by decide)) (Nat.mod_lt _ (by decide)) (Nat.mod_lt _ (by decide)) hend⟩
theorem State.reaches_named (hquad : gidQuad w.gid < Config.quadsPerDie) (hend : off + n ≤ 0x8000)
    (hown : s.owner (gidQk w.gid) = some w.part) (hpos : 0 < n) (need : Nat) :
    s.Reaches w need (privKey (gidDie w.gid) (gidQuad w.gid) (gidCore w.gid) off) n
      (privKey (gidDie w.gid) (gidQuad w.gid) (gidCore w.gid) off) :=
  ⟨State.spanOf_named hquad hend hown hpos true need,
    s.engCharge_own w (Nat.mod_lt _ (by decide)) (Nat.mod_lt _ (by decide)) (Nat.mod_lt _ (by decide)) hend⟩
theorem privKey_add (die quad core off i : Nat) : privKey die quad core off + i = privKey die quad core (off + i) := Nat.add_assoc _ _ _

/-! ### A copy with its release flag set -/

theorem State.Quiet.copyWord_now (hq : s.Quiet) (hrl : x.rl = true) {i : Nat} (hread : s.Reaches x.who needR (x.w0 + 8 * i) 8 k)
    (hwrite : s.Reaches x.who needW (x.w1 + 8 * i) 8 k1) :
    s.copyWord x i = .ok () { s with mem := s.mem.write k1 (s.mem.bytes k 8) } := by
  have hlen : (s.mem.bytes k 8).length = 8 := s.mem.bytes_length k 8
  rw [State.copyWord, hq.engBytes hread, Got.bind, State.engOut_now hrl]
  exact hq.engNow rfl rfl (by rw [hlen]; decide) (by rw [hlen]; exact hwrite)
/-- The state when `i` words have been moved. -/
def State.copied (s : State) (k0 k1 i : Nat) : State := { s with mem := s.mem.write k1 (s.mem.bytes k0 (8 * i)) }
theorem State.Quiet.copied_step (hq : s.Quiet) (hwf : s.mem.wf = true) (hrl : x.rl = true) {i : Nat} (hi : i < len)
    (hread : (s.copied k0 k1 i).Reaches x.who needR (x.w0 + 8 * i) 8 (k0 + 8 * i))
    (hwrite : (s.copied k0 k1 i).Reaches x.who needW (x.w1 + 8 * i) 8 (k1 + 8 * i))
    (hapart : k0 + 8 * len ≤ k1 ∨ k1 + 8 * len ≤ k0) : (s.copied k0 k1 i).copyWord x i = .ok () (s.copied k0 k1 (i + 1)) := by
  have hbytes : (s.copied k0 k1 i).mem.bytes (k0 + 8 * i) 8 = s.mem.bytes (k0 + 8 * i) 8 :=
    Memory.bytes_write_apart hwf _ (by rw [Memory.bytes_length]; omega)
  have hmem : (s.copied k0 k1 i).mem.write (k1 + 8 * i) (s.mem.bytes (k0 + 8 * i) 8) = s.mem.write k1 (s.mem.bytes k0 (8 * (i + 1))) := by
    rw [Nat.mul_succ, Memory.bytes_add, Memory.write_append, Memory.bytes_length]
    rfl
  have hword := (hq.memory (s.mem.write k1 (s.mem.bytes k0 (8 * i)))).copyWord_now hrl hread hwrite
  rw [show (s.copied k0 k1 i).copyWord x i = _ from hword]
  show Got.ok () { s with mem := (s.copied k0 k1 i).mem.write (k1 + 8 * i) ((s.copied k0 k1 i).mem.bytes (k0 + 8 * i) 8) } = _
  rw [hbytes, hmem]
  rfl

/-! ### A copy with its release flag clear -/

/-- The state when the writes of `i` words have left. -/
def State.copyPosts (s : State) (x : Copy) (k0 k1 : Nat) : Nat → State
  | 0 => s
  | i + 1 => (s.copyPosts x k0 k1 i).engPost x.writer (.copyEl (s.mem.bytes (k0 + 8 * i) 8)) (k1 + 8 * i) 8 (x.w1 + 8 * i)
/-- The state `t` is `s` with further requests. -/
def State.Posted (s t : State) (rs : List Req) : Prop := t = { s with reqs := s.reqs ++ rs, nextId := t.nextId, freeCtr := t.freeCtr }
theorem State.Posted.trans {t : State} {rs qs : List Req} (h : s.Posted t rs) (k : t.Posted u qs) : s.Posted u (rs ++ qs) := by
  rw [State.Posted] at h k ⊢
  rw [k, h, ← List.append_assoc]
theorem State.engPost_posted (s : State) (y : Writer) (op : ReqOp) (k len va : Nat) :
    ∃ r, s.Posted (s.engPost y op k len va) [r] ∧ r.uid = 0 ∧ r.key = k ∧ r.op = op ∧ r.adm = y.adm := by
  obtain ⟨b, hb⟩ : ∃ b, (s.die (ckDie y.core)).drift = b := ⟨_, rfl⟩
  have hb' : ({ s with nextId := s.nextId + 1 } : State).die (ckDie y.core) = s.die (ckDie y.core) := rfl
  simp only [State.engPost, State.takeId, hb', hb]
  cases b with
  | false => exact ⟨_, rfl, rfl, rfl, rfl, rfl⟩
  | true => exact ⟨_, rfl, rfl, rfl, rfl, rfl⟩
theorem State.copyPosts_posted (s : State) (x : Copy) (k0 k1 i : Nat) : ∃ rs, s.Posted (s.copyPosts x k0 k1 i) rs ∧ (∀ r ∈ rs, r.adm = none) ∧
    rs.map (fun r => (r.uid, r.key, r.op)) = (List.range i).map fun i => (0, k1 + 8 * i, ReqOp.copyEl (s.mem.bytes (k0 + 8 * i) 8)) := by
  induction i with
  | zero => exact ⟨[], by rw [State.Posted, List.append_nil]; rfl, by simp, rfl⟩
  | succ i ih =>
    obtain ⟨rs, hrs, hadm, hmap⟩ := ih
    obtain ⟨r, hr, huid, hkey, hop, hradm⟩ := (s.copyPosts x k0 k1 i).engPost_posted x.writer (.copyEl (s.mem.bytes (k0 + 8 * i) 8))
      (k1 + 8 * i) 8 (x.w1 + 8 * i)
    refine ⟨rs ++ [r], ?_, fun q hq => ?_, ?_⟩
    · exact hrs.trans hr
    · rcases List.mem_append.1 hq with hq | hq
      · exact hadm q hq
      · rw [List.mem_singleton.1 hq, hradm]
        rfl
    · rw [List.map_append, hmap, List.range_succ, List.map_append, List.map_singleton, huid, hkey, hop]
      rfl
section
variable {t : State} {rs : List Req} (h : s.Posted t rs)
include h
theorem State.Posted.mem : t.mem = s.mem := by rw [State.Posted] at h; rw [h]
theorem State.Posted.copies : t.copies = s.copies := by rw [State.Posted] at h; rw [h]
theorem State.Posted.owner (q : Nat) : t.owner q = s.owner q := by rw [State.Posted] at h; rw [h]; rfl
theorem State.Posted.core (k : Nat) : t.core k = s.core k := by rw [State.Posted] at h; rw [h]; rfl
theorem State.Posted.place (hplace : Clause.Place s x) : Clause.Place t x := by rw [State.Posted] at h; rw [h]; exact hplace
end
theorem State.Posted.quiet {t : State} {rs : List Req} (h : s.Posted t rs) (hq : s.Quiet) (hadm : ∀ r ∈ rs, r.adm = none) : t.Quiet := by
  rw [State.Posted] at h
  rw [h]
  exact ⟨hq.bad, hq.soft, hq.bars, hq.waits, hq.empties, hq.now, fun r hr => (List.mem_append.1 hr).elim (hq.adm r) (hadm r)⟩
theorem State.Quiet.copyWord_posts (hq : s.Quiet) (hrl : x.rl = false) {i : Nat} (hread : s.Reaches x.who needR (x.w0 + 8 * i) 8 k)
    (hwrite : s.Reaches x.who needW (x.w1 + 8 * i) 8 k1) :
    s.copyWord x i = .ok () (s.engPost x.writer (.copyEl (s.mem.bytes k 8)) k1 8 (x.w1 + 8 * i)) := by
  have hlen : (s.mem.bytes k 8).length = 8 := s.mem.bytes_length k 8
  have hposts := hq.engOut_posts (y := x.writer) (bs := s.mem.bytes k 8) hrl rfl (by rw [hlen]; exact hwrite.1)
  rw [hlen] at hposts
  rw [State.copyWord, hq.engBytes hread, Got.bind]
  exact hposts

/-! ### The step -/

/-- A copy that has just begun moves all its words in one step and delivers its completion. -/
theorem State.copyCompletion_mailed (hfind : s.copies.find? (·.id == x.id) = some x) (hstate : x.state = 1) (hkind : x.kind = 0) (hsk : x.sk = 0)
    (hdk : x.dk = 0) (htotal : x.total = 0) (hcnt : x.cnt = 0) (hover : s.overdrawn x.part = false) (hlen : x.w2 = 8 * len)
    {st : Nat → State} (h0 : st 0 = s) (hstep : ∀ i, i < len → (st i).copyWord x i = .ok () (st (i + 1)))
    (hcopies : (st len).copies = s.copies) (hcore : ∀ k, (st len).core k = s.core k) (hplace : Clause.Place (st len) x) :
    ∃ t, exec (.copyCompletion x.id) s = .next t ∧ Clause.Mailed s t (st len) x 0 (8 * len) := by
  have hwords : x.w2 / 8 = len := by omega
  have hrun := State.runCopy_all hdk hstep (len + 1) 0 (Nat.zero_le _) (by omega)
  rw [h0] at hrun
  have hexec := State.copyCompletion_ends hfind hstate hkind hsk hdk htotal hcnt hover (by rw [hwords]; exact hrun)
  have hmailed := State.modCopy_mailed hfind hcopies hcore hplace (by omega) (by rw [hdk]; omega) len (64 * len) 2 0
  rw [show 64 * len / 8 = 8 * len by omega] at hmailed
  exact ⟨_, hexec, hmailed⟩
end
end Sys2Proof.Machine
open Sys2Proof.Machine
end

section
/-!
SUPPORT. A gather or a scatter: its rows kept, cut into runs of words with one home, and moved (19 R333).
-/
open Sys2Proof
namespace Sys2Proof.Machine

/-! ### The sub-rows of a row tile it -/

/-- The runs, last one first, begin at 0, follow one another without a gap and end at `e`. -/
def Tiles : List (Nat × Nat) → Nat → Prop
  | [], e => e = 0
  | (o, l) :: r, e => o + l = e ∧ 0 < l ∧ Tiles r o
/-- Word `i` joins the run before it, or begins one of its own. -/
def subRowStep (segs : List (Nat × Nat)) (acc : List (Nat × Nat × Option Nat)) (i : Nat) : List (Nat × Nat × Option Nat) :=
  let hq := homeQuad (segKey segs (8 * i))
  match acc with
  | (o, l, q) :: r => if q == hq then (o, l + 8, q) :: r else (8 * i, 8, hq) :: (o, l, q) :: r
  | [] => [(8 * i, 8, hq)]
/-- The runs of `n` words, last one first. -/
def runsOf (segs : List (Nat × Nat)) (n : Nat) : List (Nat × Nat) :=
  ((List.range n).foldl (subRowStep segs) []).map fun e => (e.1, e.2.1)
theorem subRows_eq (segs : List (Nat × Nat)) (n : Nat) : subRows segs n = (runsOf segs (n / 8)).reverse := by
  rw [runsOf, ← List.map_reverse]
  rfl
theorem tiles_runsOf (segs : List (Nat × Nat)) (n : Nat) : Tiles (runsOf segs n) (8 * n) := by
  induction n with
  | zero => rfl
  | succ n ih =>
    rw [runsOf] at ih ⊢
    rw [List.range_succ, List.foldl_append, List.foldl_cons, List.foldl_nil]
    cases hacc : (List.range n).foldl (subRowStep segs) [] with
    | nil =>
      rw [hacc] at ih
      exact ⟨(Nat.mul_succ 8 n).symm, Nat.succ_pos 7, ih⟩
    | cons e r =>
      rw [hacc] at ih
      obtain ⟨o, l, q⟩ := e
      obtain ⟨hend, hpos, hrest⟩ := ih
      have hend' : o + l = 8 * n := hend
      rw [subRowStep]
      split
      · exact ⟨show o + (l + 8) = 8 * (n + 1) by omega, Nat.succ_pos _, hrest⟩
      · exact ⟨(Nat.mul_succ 8 n).symm, Nat.succ_pos 7, hend, hpos, hrest⟩
/-- A step taken for each run in turn goes from the start to the end. -/
theorem Tiles.foldl {σ : Type} {f : σ → Nat × Nat → σ} {st : Nat → σ} {size : Nat}
    (hstep : ∀ o l, 0 < l → o + l ≤ size → f (st o) (o, l) = st (o + l)) :
    ∀ {l : List (Nat × Nat)} {e : Nat}, Tiles l e → e ≤ size → l.reverse.foldl f (st 0) = st e
  | [], _, h, _ => by rw [show _ = 0 from h]; rfl
  | (o, l) :: r, e, ⟨hend, hpos, hrest⟩, he => by
    rw [List.reverse_cons, List.foldl_append, Tiles.foldl hstep hrest (by omega), List.foldl_cons, List.foldl_nil, hstep o l hpos (by omega), hend]

/-! ### Rows in memory -/

/-- Memory when `n` rows have been copied, each from its place in `μ`. -/
def Memory.rows (μ : Memory) (rd wr : Nat → Nat) (size n : Nat) : Memory :=
  (List.range n).foldl (fun ν j => ν.write (wr j) (μ.bytes (rd j) size)) μ
theorem Memory.rows_succ (μ : Memory) (rd wr : Nat → Nat) (size n : Nat) :
    μ.rows rd wr size (n + 1) = (μ.rows rd wr size n).write (wr n) (μ.bytes (rd n) size) := by
  rw [Memory.rows, List.range_succ, List.foldl_append]
  rfl
theorem Memory.wf_rows {μ : Memory} (h : μ.wf = true) (rd wr : Nat → Nat) (size n : Nat) : (μ.rows rd wr size n).wf = true := by
  induction n with
  | zero => exact h
  | succ n ih => rw [Memory.rows_succ]; exact Memory.wf_write _ ih _ _
/-- An extent apart from the rows written is as it was. -/
theorem Memory.bytes_rows_apart {μ : Memory} (h : μ.wf = true) {rd wr : Nat → Nat} {size n k l : Nat}
    (hapart : ∀ j, j < n → k + l ≤ wr j ∨ wr j + size ≤ k) : (μ.rows rd wr size n).bytes k l = μ.bytes k l := by
  induction n with
  | zero => rfl
  | succ n ih =>
    rw [Memory.rows_succ, Memory.bytes_write_apart (Memory.wf_rows h rd wr size n) _ (by rw [Memory.bytes_length]; exact hapart n (by omega))]
    exact ih fun j hj => hapart j (by omega)

section
variable {s u : State} {x : Copy} {size n ki kl : Nat} {kr row : Nat → Nat}

/-! ### The step of the streamer -/

/-- The runs that a command serves: the local part, the row, and the run in it. -/
def Copy.runs (x : Copy) (size : Nat) (rows : List (Nat × Nat × Span)) : List (Nat × Nat × Nat × Nat) :=
  rows.flatMap fun (j, addr, sp) =>
    (match sp with | .here segs => subRows segs size | .away => [(0, size)]).map fun (e : Nat × Nat) => (x.w1 + j * size, addr, e.1, e.2)
/-- Serving one run: the bytes written so far, the worst status, and the state. -/
def Copy.serve (x : Copy) (acc : Nat × Nat × State) (p : Nat × Nat × Nat × Nat) : Nat × Nat × State :=
  let r := acc.2.2.serveRow x p.1 p.2.1 p.2.2.1 p.2.2.2
  (acc.1 + r.1, max acc.2.1 r.2.1, r.2.2)
/-- With no write on its way the command ends. -/
theorem State.endRows_free (h : u.rowsOwed x = false) : u.endRows x = (u.modCopy x.id fun c => { c with state := 2 }).postCopy x.id := by
  rw [State.endRows, h]
  rfl
/-- What the step leaves when the runs have been served. -/
def Copy.served (x : Copy) (n : Nat) (acc : Nat × Nat × State) : State :=
  (acc.2.2.modCopy x.id fun c => { c with total := n, cnt := 8 * acc.1, status := max acc.2.1 0 }).endRows x
theorem State.streamerCompletion_ends (hfind : s.copies.find? (·.id == x.id) = some x) (hstate : x.state = 1) (hkind : x.kind ≠ 0)
    (htotal : x.total = 0) (hover : s.overdrawn x.part = false) (hadm : ∀ r ∈ s.reqs, r.adm = none) (hn : n = bits x.w3 43 32 + 1)
    (hsize : size = (bits x.w3 55 44 + 1) * 8) {rows : List (Nat × Nat × Span)} (hkeep : s.keepRows x size (List.range n) [] = (rows, 0, s))
    {cnt : Nat} (hserve : (x.runs size rows).foldl x.serve (0, 0, s) = (cnt, 0, u)) (howed : u.rowsOwed x = false) :
    exec (.streamerCompletion x.id) s =
      .next ((u.modCopy x.id fun c => { c with total := n, cnt := 8 * cnt, state := 2, status := 0 }).postCopy x.id) := by
  have hnone : (s.reqs.any fun r => r.uid == 0 && r.adm.isSome && r.res.isNone) = false :=
    List.any_eq_false.2 fun r hr => by simp [hadm r hr]
  have hexec : exec (.streamerCompletion x.id) s = .next (x.served n ((x.runs size rows).foldl x.serve (0, 0, s))) := by
    show execStreamerCompletion x.id s = _
    rw [execStreamerCompletion, hfind]
    dsimp only
    rw [if_neg (by rw [hstate]; decide), if_neg (by rw [htotal]; simp), if_neg (by rw [hstate, hover, hnone]; simpa using hkind), ← hn, ← hsize,
      hkeep]
    rfl
  have hfree : (u.modCopy x.id fun c => { c with total := n, cnt := 8 * cnt, status := 0 }).rowsOwed x = false := howed
  rw [hexec, hserve]
  refine congrArg Host.Outcome.next ((State.endRows_free hfree).trans ?_)
  rw [State.modCopy_modCopy]
  exact fun _ => rfl

/-- The rows of a command whose index list, rows and local parts are all reached. -/
theorem State.keepRows_all {js : List Nat} (hindex : ∀ j ∈ js, s.engBytes x.who (x.w0 + 4 * j) 4 = .ok (s.mem.bytes (ki + 4 * j) 4) s)
    (hrow : ∀ j ∈ js, s.spanOf x.who true (if x.kind = 1 then needR else needW) (x.w2 + s.readN (ki + 4 * j) 4 * size) size =
      .ok (.here [(kr j, size)]) s)
    (hlocal : ∀ j ∈ js, s.spanOf x.who true (if x.kind = 1 then needW else needR) (x.w1 + j * size) size = .ok (.here [(kl + j * size, size)]) s)
    (acc : List (Nat × Nat × Span)) : s.keepRows x size js acc =
      (acc ++ js.map fun j => (j, x.w2 + s.readN (ki + 4 * j) 4 * size, .here [(kr j, size)]), 0, s) := by
  induction js generalizing acc with
  | nil => rw [State.keepRows, List.map_nil, List.append_nil]
  | cons j js ih =>
    have hj : j ∈ j :: js := List.mem_cons_self
    have hrest := ih (fun i hi => hindex i (List.mem_cons_of_mem j hi)) (fun i hi => hrow i (List.mem_cons_of_mem j hi))
      (fun i hi => hlocal i (List.mem_cons_of_mem j hi)) (acc ++ [(j, x.w2 + s.readN (ki + 4 * j) 4 * size, .here [(kr j, size)])])
    have hread : ofBytes (s.mem.bytes (ki + 4 * j) 4) = s.readN (ki + 4 * j) 4 := rfl
    rw [State.keepRows, hindex j hj]
    dsimp only
    rw [hread, hrow j hj, Got.bind, hlocal j hj, Got.bind]
    dsimp only
    rw [hrest, List.map_cons, List.append_assoc, List.singleton_append]
/-- The state when `j` rows and `o` bytes of the next one have been moved, with the count and the status. -/
def State.rowsMoved (s : State) (rd wr : Nat → Nat) (size j o : Nat) : Nat × Nat × State :=
  (j * size + o, 0, { s with mem := (s.mem.rows rd wr size j).write (wr j) (s.mem.bytes (rd j) o) })
theorem State.rowsMoved_row (s : State) (rd wr : Nat → Nat) (size j : Nat) : s.rowsMoved rd wr size j size = s.rowsMoved rd wr size (j + 1) 0 := by
  rw [State.rowsMoved, State.rowsMoved, Memory.rows_succ, Nat.succ_mul]
  rfl
/-- Serving every run of `n` rows moves the rows one after the other. -/
theorem State.runs_served {rd wr : Nat → Nat} (hwf : s.mem.wf = true) (hdvd : size % 8 = 0)
    (hserve : ∀ (μ : Memory) j o l, j < n → 0 < l → o + l ≤ size → { s with mem := μ }.serveRow x (x.w1 + j * size) (row j) o l =
      (l, 0, { s with mem := μ.write (wr j + o) (μ.bytes (rd j + o) l) }))
    (hapart : ∀ i j, i < n → j < n → rd i + size ≤ wr j ∨ wr j + size ≤ rd i) :
    (x.runs size ((List.range n).map fun j => (j, row j, .here [(kr j, size)]))).foldl x.serve (0, 0, s) = s.rowsMoved rd wr size n 0 := by
  -- one run of a row
  have hrun (j o l : Nat) (hj : j < n) (hl : 0 < l) (ho : o + l ≤ size) :
      x.serve (s.rowsMoved rd wr size j o) (x.w1 + j * size, row j, o, l) = s.rowsMoved rd wr size j (o + l) := by
    have hread : ((s.mem.rows rd wr size j).write (wr j) (s.mem.bytes (rd j) o)).bytes (rd j + o) l = s.mem.bytes (rd j + o) l := by
      rw [Memory.bytes_write_apart (Memory.wf_rows hwf rd wr size j) _ (by rw [Memory.bytes_length]; have := hapart j j hj hj; omega)]
      exact Memory.bytes_rows_apart hwf fun i hi => by have := hapart j i hj (by omega); omega
    have hwrite : ((s.mem.rows rd wr size j).write (wr j) (s.mem.bytes (rd j) o)).write (wr j + o) (s.mem.bytes (rd j + o) l) =
        (s.mem.rows rd wr size j).write (wr j) (s.mem.bytes (rd j) (o + l)) := by
      rw [Memory.bytes_add, Memory.write_append, Memory.bytes_length]
    rw [Copy.serve, State.rowsMoved]
    dsimp only
    rw [hserve _ j o l hj hl ho, hread, hwrite]
    show (j * size + o + l, 0, _) = _
    rw [Nat.add_assoc]
    rfl
  have hrow (j : Nat) (hj : j < n) : ((subRows [(kr j, size)] size).map fun (e : Nat × Nat) => (x.w1 + j * size, row j, e.1, e.2)).foldl x.serve
      (s.rowsMoved rd wr size j 0) = s.rowsMoved rd wr size (j + 1) 0 := by
    have htiles := tiles_runsOf [(kr j, size)] (size / 8)
    rw [show 8 * (size / 8) = size by omega] at htiles
    rw [List.foldl_map, subRows_eq, ← State.rowsMoved_row]
    exact htiles.foldl (fun o l => hrun j o l hj) le_rfl
  have hrows (i : Nat) (hi : i ≤ n) : (x.runs size ((List.range i).map fun j => (j, row j, .here [(kr j, size)]))).foldl x.serve (0, 0, s) =
      s.rowsMoved rd wr size i 0 := by
    induction i with
    | zero => rw [State.rowsMoved, Nat.zero_mul]; rfl
    | succ i ih =>
      rw [List.range_succ, List.map_append, Copy.runs, List.flatMap_append, List.foldl_append]
      rw [Copy.runs] at ih
      rw [ih (by omega)]
      show List.foldl x.serve _ (List.map _ (subRows _ _) ++ []) = _
      rw [List.append_nil]
      exact hrow i (by omega)
  exact hrows n le_rfl
end
end Sys2Proof.Machine
open Sys2Proof.Machine
end

section
/-!
SUPPORT. Copies and streams from their start to their completion (18 R317; 19 R330, R331, R333; 21 R365; 08 R150).
-/
open Sys2Proof
namespace Sys2Proof.Machine

section
variable {s : State} {x : Copy} {size n ki kl core : Nat} {kr rd wr : Nat → Nat}

/-- A word whose source is refused or has no translation ends the copy with status 2. -/
theorem State.runCopy_stops (hdk : x.dk = 0) {total : Nat} {r : Ran} (hr : r.k < total)
    (h : (∃ cls tval, cls ≠ clsEcc ∧ s.spanOf x.who true needR (x.w0 + 8 * r.k) 8 = .trap cls tval) ∨
      (∃ a b e f, s.spanOf x.who true needR (x.w0 + 8 * r.k) 8 = .miss a b e f)) (fuel : Nat) :
    s.runCopy x none none total (fuel + 1) r = ({ r with done := some 2 }, s) := by
  rw [State.runCopy, if_neg (by omega), hdk]
  dsimp only
  rw [if_neg (by decide), if_neg (by decide), State.engBytes]
  rcases h with ⟨cls, tval, hcls, h⟩ | ⟨a, b, e, f, h⟩
  · rw [h]
    show ({ r with done := some (if cls = clsEcc then 3 else 2) }, s) = _
    rw [if_neg hcls]
  · rw [h]
    rfl

/-! ### The start of a command -/

/-- The oldest command of a FIFO starts. -/
theorem State.copyStart_starts (hfind : s.copies.find? (·.id == x.id) = some x) {rest : List Nat} (hfifo : (s.core core).fifo = x.id :: rest)
    (hroom : (s.copies.filter fun y => y.core == core && y.state != 0 && y.kind != 3).length < Config.copiesInFlight)
    (hacq : x.aq = true → s.acquireDue x = false) : ∃ t, exec (.copyStart core) s = .next t ∧
      t = { s with cores := t.cores, copies := s.copies.map fun y => if y.id = x.id then { y with state := 1 } else y } ∧
      t.core core = { s.core core with fifo := rest } ∧ ∀ j, j ≠ core → t.core j = s.core j := by
  have hdue : (x.aq && s.acquireDue x) = false := by
    cases haq : x.aq with
    | false => rfl
    | true => rw [hacq haq]; rfl
  have hexec : exec (.copyStart core) s =
      .next ((s.setCore { s.core core with fifo := rest }).modCopy x.id fun x => { x with state := 1 }) := by
    show execCopyStart core s = _
    rw [execCopyStart]
    dsimp only
    rw [hfifo]
    dsimp only
    rw [hfind]
    dsimp only
    rw [if_neg (by simp only [Bool.or_eq_true, decide_eq_true_eq, hdue, Bool.false_eq_true, or_false]; omega)]
  refine ⟨_, hexec, ?_, State.core_setCore_of_key (s.core_key _), fun j hj => ?_⟩
  · simp only [State.modCopy, beq_iff_eq]
    rfl
  · exact s.core_setCore_other _ j fun heq => hj (heq.trans (s.core_key core))

/-! ### Gathers and scatters -/

/-- An extent of the issuer's own memory, by either selector, at a place in it. -/
theorem Copy.reaches_own (hown : s.owner (gidQk x.gid) = some x.part) {o i l : Nat} (hend : o + i + l ≤ 0x8000) (hl : 0 < l) (need : Nat) :
    s.Reaches x.who need (o + i) l (privKey (gidDie x.gid) (gidQuad x.gid) (gidCore x.gid) o + i) := by
  rw [privKey_add]
  exact State.reaches_own (w := x.who) hend hown hl need
theorem Copy.reaches_named (hquad : gidQuad x.gid < Config.quadsPerDie) (hown : s.owner (gidQk x.gid) = some x.part) {o i l : Nat}
    (hend : o + i + l ≤ 0x8000) (hl : 0 < l) (need : Nat) :
    s.Reaches x.who need (privKey (gidDie x.gid) (gidQuad x.gid) (gidCore x.gid) o + i) l
      (privKey (gidDie x.gid) (gidQuad x.gid) (gidCore x.gid) o + i) := by
  rw [privKey_add]
  exact State.reaches_named (w := x.who) hquad hend hown hl need
theorem privKey_apart {die quad core a b m n : Nat} (h : a + m ≤ b ∨ b + n ≤ a) :
    privKey die quad core a + m ≤ privKey die quad core b ∨ privKey die quad core b + n ≤ privKey die quad core a := by
  simp only [privKey]
  omega
/-- Serving one run: its bytes go from the source to the target, which the kind tells apart. -/
theorem State.Quiet.serveRow_moves (hq : s.Quiet) (hrl : x.rl = true) {loc addr o l k k1 : Nat} (hpos : 0 < l)
    (hread : s.Reaches x.who needR (if x.kind = 1 then addr + o else loc + o) l k)
    (hwrite : s.Reaches x.who needW (if x.kind = 1 then loc + o else addr + o) l k1) :
    s.serveRow x loc addr o l = (l, 0, { s with mem := s.mem.write k1 (s.mem.bytes k l) }) := by
  have hlen : (s.mem.bytes k l).length = l := s.mem.bytes_length k l
  have moves {va va1 : Nat} (hr : s.Reaches x.who needR va l k) (hw : s.Reaches x.who needW va1 l k1) :
      ((s.engBytes x.who va l).bind fun bs s => s.engOut x.writer va1 bs) = .ok () { s with mem := s.mem.write k1 (s.mem.bytes k l) } := by
    rw [hq.engBytes hr, Got.bind, State.engOut_now hrl]
    exact hq.engNow rfl rfl (by rw [hlen]; exact hpos) (by rw [hlen]; exact hw)
  rw [State.serveRow]
  by_cases hkind : x.kind = 1
  · rw [if_pos hkind] at hread hwrite
    rw [if_pos hkind, moves hread hwrite]
  · rw [if_neg hkind] at hread hwrite
    rw [if_neg hkind, moves hread hwrite]
/-- A gather or a scatter whose index list, rows and local parts are reached moves its rows in order and ends with status 0. -/
theorem State.streamerCompletion_mailed (hq : s.Quiet) (hwf : s.mem.wf = true) (hfind : s.copies.find? (·.id == x.id) = some x)
    (hstate : x.state = 1) (htotal : x.total = 0) (hrl : x.rl = true) (hover : s.overdrawn x.part = false) (howed : s.rowsOwed x = false)
    (hplace : Clause.Place s x) (hn : n = x.w3 / 2 ^ 32 % 2 ^ 12 + 1) (hsize : size = (x.w3 / 2 ^ 44 % 2 ^ 12 + 1) * 8)
    (hside : (x.kind = 1 ∧ rd = kr ∧ wr = fun j => kl + j * size) ∨ (x.kind = 2 ∧ rd = (fun j => kl + j * size) ∧ wr = kr))
    (hindex : ∀ j, j < n → s.Reaches x.who needR (x.w0 + 4 * j) 4 (ki + 4 * j))
    (hrows : ∀ (μ : Memory) j o l, j < n → 0 < l → o + l ≤ size →
      { s with mem := μ }.Reaches x.who (if x.kind = 1 then needR else needW) (x.w2 + s.readN (ki + 4 * j) 4 * size + o) l (kr j + o) ∧
      { s with mem := μ }.Reaches x.who (if x.kind = 1 then needW else needR) (x.w1 + j * size + o) l (kl + j * size + o))
    (hapart : ∀ j, j < n → kr j + size ≤ kl ∨ kl + n * size ≤ kr j) :
    ∃ t, exec (.streamerCompletion x.id) s = .next t ∧
      Clause.Mailed s t { s with mem := s.mem.rows rd wr size n } x 0 (n * size) := by
  have hpos : 0 < size := by omega
  have hkind : x.kind = 1 ∨ x.kind = 2 := hside.imp (fun h => h.1) fun h => h.1
  have hkeep : s.keepRows x size (List.range n) [] =
      ((List.range n).map fun j => (j, x.w2 + s.readN (ki + 4 * j) 4 * size, .here [(kr j, size)]), 0, s) :=
    State.keepRows_all (fun j hj => hq.engBytes (hindex j (List.mem_range.1 hj)))
      (fun j hj => (hrows s.mem j 0 size (List.mem_range.1 hj) hpos (by omega)).1.1)
      (fun j hj => (hrows s.mem j 0 size (List.mem_range.1 hj) hpos (by omega)).2.1) []
  have hrow {j : Nat} (hj : j < n) : j * size + size ≤ n * size := by
    rw [← Nat.succ_mul]
    exact Nat.mul_le_mul_right size hj
  have hserved := State.runs_served (x := x) (kr := kr) (rd := rd) (wr := wr) (n := n) (size := size)
    (row := fun j => x.w2 + s.readN (ki + 4 * j) 4 * size) hwf (by omega) (fun μ j o l hj hl ho => ?serve) fun i j hi hj => ?apart
  case serve =>
    obtain ⟨hr, hl'⟩ := hrows μ j o l hj hl ho
    rcases hside with ⟨hk, rfl, rfl⟩ | ⟨hk, rfl, rfl⟩
    · rw [if_pos hk] at hr hl'
      exact (hq.memory μ).serveRow_moves hrl hl (by rw [if_pos hk]; exact hr) (by rw [if_pos hk]; exact hl')
    · have hne : x.kind ≠ 1 := by omega
      rw [if_neg hne] at hr hl'
      exact (hq.memory μ).serveRow_moves hrl hl (by rw [if_neg hne]; exact hl') (by rw [if_neg hne]; exact hr)
  case apart =>
    have hi' := hrow hi
    have hj' := hrow hj
    have happi := hapart i hi
    have happj := hapart j hj
    rcases hside with ⟨-, hrd, hwr⟩ | ⟨-, hrd, hwr⟩
    · rw [hrd, hwr]
      dsimp only
      omega
    · rw [hrd, hwr]
      dsimp only
      omega
  have hexec := State.streamerCompletion_ends hfind hstate (by omega) htotal hover hq.adm hn hsize hkeep hserved howed
  refine ⟨_, hexec, ?_⟩
  have hmailed := State.modCopy_mailed (u := { s with mem := s.mem.rows rd wr size n }) hfind rfl (fun _ => rfl) hplace (by omega) (by omega) n
    (8 * (n * size)) 2 0
  rw [Nat.mul_div_cancel_left _ (by decide : 0 < 8)] at hmailed
  exact hmailed
end
end Sys2Proof.Machine
open Sys2Proof.Machine

theorem copySteps : Clause.CopySteps := by
  intro s core x k0 k1 ki kl len kr hfind c plain at'
  -- what the premises say of an engine's accesses
  have quiet (h : plain) : s.Quiet ∧ s.mem.wf = true ∧ s.uncharged := by
    obtain ⟨hbad, hsoft, hbars, hwaits, hempties, hwf, hnow, hadm, hfree⟩ := h
    exact ⟨⟨hbad, hsoft, hbars, hwaits, hempties, hnow, hadm⟩, hwf, hfree⟩
  have reaches (hfree : s.uncharged) {need va n k : Nat} (h : at' need va n k) (μ : Memory) : { s with mem := μ }.Reaches x.who need va n k :=
    ⟨h _ rfl, State.engCharge_uncharged (s := { s with mem := μ }) hfree x.who _⟩
  refine ⟨fun rest hfifo hroom hacq => State.copyStart_starts hfind hfifo hroom hacq, fun hstate hkind hdk hplace => ?delivers,
    fun hstate hkind hsk hdk hlen htotal hcnt hrl hplace hplain hat hapart => ?copies,
    fun hstate hkind hsk hdk hlen htotal hcnt hover hplace hstops => ?stops, ?streams⟩
  case delivers =>
    have hmailed : Clause.Mailed s (s.postCopy x.id) s x x.status (x.cnt / 8) :=
      State.postCopy_mailed hfind rfl (fun _ => rfl) hplace hkind fun h => hdk h.2
    refine ⟨⟨_, ?_, hmailed⟩, ⟨_, ?_, hmailed⟩⟩
    · show execCopyCompletion x.id s = _
      rw [execCopyCompletion, hfind]
      exact if_pos hstate
    · show execStreamerCompletion x.id s = _
      rw [execStreamerCompletion, hfind]
      exact if_pos hstate
  case copies =>
    obtain ⟨hq, hwf, hfree⟩ := quiet hplain
    exact State.copyCompletion_mailed hfind hstate hkind hsk hdk htotal hcnt (State.overdrawn_uncharged hfree _) hlen (st := s.copied k0 k1) rfl
      (fun i hi => hq.copied_step hwf hrl hi (reaches hfree (hat i hi).1 _) (reaches hfree (hat i hi).2 _) hapart) rfl (fun _ => rfl) hplace
  case stops =>
    have hrun := State.runCopy_stops (s := s) hdk (r := { k := 0, cnt := 0, done := none }) (total := x.w2 / 8) (by show 0 < x.w2 / 8; omega)
      hstops (x.w2 / 8)
    exact ⟨_, State.copyCompletion_ends hfind hstate hkind hsk hdk htotal hcnt hover hrun,
      State.modCopy_mailed hfind rfl (fun _ => rfl) hplace (by omega) (by rw [hdk]; omega) 0 0 2 2⟩
  case streams =>
    intro n size row rows apart hstate htotal howed hrl hplace hplain hindex hapart
    obtain ⟨hq, hwf, hfree⟩ := quiet hplain
    have hover := State.overdrawn_uncharged hfree x.part
    refine ⟨fun hkind hrows => ?_, fun hkind hrows => ?_⟩
    · exact State.streamerCompletion_mailed (kr := kr) hq hwf hfind hstate htotal hrl hover howed hplace rfl rfl (.inl ⟨hkind, rfl, rfl⟩)
        (fun j hj => reaches hfree (hindex j hj) s.mem)
        (fun μ j o l hj hl ho => by
          rw [if_pos hkind, if_pos hkind]
          exact ⟨reaches hfree (hrows j o l hj ho).1 μ, reaches hfree (hrows j o l hj ho).2 μ⟩) hapart
    · have hne : x.kind ≠ 1 := by omega
      exact State.streamerCompletion_mailed (kr := kr) hq hwf hfind hstate htotal hrl hover howed hplace rfl rfl (.inr ⟨hkind, rfl, rfl⟩)
        (fun j hj => reaches hfree (hindex j hj) s.mem)
        (fun μ j o l hj hl ho => by
          rw [if_neg hne, if_neg hne]
          exact ⟨reaches hfree (hrows j o l hj ho).1 μ, reaches hfree (hrows j o l hj ho).2 μ⟩) hapart

theorem copyFormsComplete : Clause.CopyFormsComplete := by
  refine ⟨fun s m d a k0 k1 off hi => ?requests, fun s x len off hfind hplace hquad hown hbad hsoft hbars hwaits hempties hadm hwf hnow hover =>
    ?commands⟩
  case requests =>
    intro w n size hroom hok
    obtain ⟨-, -, haccepts⟩ := copyRequests s m d a k0 k1 hi
    obtain ⟨hcopy, hstream⟩ := haccepts (not_le.2 hroom) hok
    refine ⟨fun h3 h28 hlen h08 h18 hp0 hp1 => (hcopy h3 h28 hlen h08 h18 hp0 hp1).1,
      fun hu hlow hhigh h04 h18 hp0 hp1 hoff hend hquad hw2 wt => ?_⟩
    obtain ⟨-, -, hown, -, -, -, -⟩ := id hp0
    have hdie : gidDie s.iss.gid < 4 := Nat.mod_lt _ (by decide)
    have hquad' : gidQuad s.iss.gid < 4096 := Nat.mod_lt _ (by decide)
    have hcore : gidCore s.iss.gid < 4 := Nat.mod_lt _ (by decide)
    have hsel : w 2 / 2 ^ 60 = 1 := by rw [hw2]; simp only [privKey]; omega
    have h28 : w 2 % 8 = 0 := by rw [hw2]; simp only [privKey]; omega
    have readable (need : Nat) : ∀ u : State, u = { s with iss := { s.iss with plain := u.iss.plain, puts := u.iss.puts } } →
        ∃ sp, u.spanOf s.who false need (w 2) 8 = .ok sp u := by
      intro u hu
      have huown : u.owner (gidQk s.iss.gid) = some s.myPart := by rw [hu]; exact hown
      rw [hw2]
      exact ⟨_, State.spanOf_named (w := s.who) hquad hend huown (by decide) false need⟩
    obtain ⟨hgath, hscat⟩ := hstream hlow hhigh h04 h18 h28 hu hp0 hp1 (.inl hsel)
    exact ⟨hgath wt (readable needR), hscat wt (readable needW)⟩
  case commands =>
    intro key n size row
    have hq : s.Quiet := ⟨hbad, hsoft, hbars, hwaits, hempties, hnow, hadm⟩
    refine ⟨fun rest core hfifo haq hroom => ?starts,
      fun hstate hkind hsk hdk hlen htotal hcnt hend0 hend1 hapart => ⟨fun hrl => ?copies, fun hrl => ?posts⟩,
      fun hstate htotal howed hrl hw2 hend0 hend1 hrow hapart => ?streams⟩
    case starts =>
      obtain ⟨t, hexec, ht, hcore, -⟩ := State.copyStart_starts hfind hfifo hroom (by rw [haq]; exact fun h => nomatch h)
      exact ⟨t, hexec, by rw [hcore], by rw [ht]⟩
    case copies =>
      exact State.copyCompletion_mailed hfind hstate hkind hsk hdk htotal hcnt hover hlen (st := s.copied (key x.w0) (key x.w1)) rfl
        (fun i hi => hq.copied_step hwf hrl hi (Copy.reaches_own (s := s.copied _ _ i) hown (by omega) (by decide) needR)
          (Copy.reaches_own (s := s.copied _ _ i) hown (by omega) (by decide) needW) (privKey_apart hapart)) rfl (fun _ => rfl) hplace
    case posts =>
      let st := s.copyPosts x (key x.w0) (key x.w1)
      have word (i : Nat) (hi : i < len) : (st i).copyWord x i = .ok () (st (i + 1)) := by
        obtain ⟨qs, hqs, hqadm, -⟩ := s.copyPosts_posted x (key x.w0) (key x.w1) i
        have howner : (st i).owner (gidQk x.gid) = some x.part := (hqs.owner _).trans hown
        have hword := (hqs.quiet hq hqadm).copyWord_posts hrl (Copy.reaches_own howner (o := x.w0) (i := 8 * i) (by omega) (by decide) needR)
          (Copy.reaches_own howner (o := x.w1) (i := 8 * i) (by omega) (by decide) needW)
        rw [hqs.mem] at hword
        exact hword
      obtain ⟨rs, hrs, -, hmap⟩ := s.copyPosts_posted x (key x.w0) (key x.w1) len
      obtain ⟨t, hexec, ht, hother, hmine⟩ := State.copyCompletion_mailed hfind hstate hkind hsk hdk htotal hcnt hover hlen (st := st) rfl word
        hrs.copies hrs.core (hrs.place hplace)
      refine ⟨t, rs, hexec, ⟨?_, hother, hmine⟩, hmap⟩
      have hid : t.nextId = (st len).nextId := by rw [ht]
      have hctr : t.freeCtr = (st len).freeCtr := by rw [ht]
      have heq : st len = { s with reqs := s.reqs ++ rs, nextId := (st len).nextId, freeCtr := (st len).freeCtr } := hrs
      rw [hid, hctr]
      exact ht.trans (congrArg (fun u : State => { u with copies := s.copies.filter (·.id != x.id), cores := t.cores }) heq)
    case streams =>
      have reaches (μ : Memory) (j o l : Nat) (hj : j < n) (hl : 0 < l) (ho : o + l ≤ size) (need need' : Nat) :
          { s with mem := μ }.Reaches x.who need (x.w2 + s.readN (key x.w0 + 4 * j) 4 * size + o) l (key (row j) + o) ∧
          { s with mem := μ }.Reaches x.who need' (x.w1 + j * size + o) l (key x.w1 + j * size + o) := by
        have hin := hrow j hj
        have hend : j * size + size ≤ n * size := by
          rw [← Nat.succ_mul]
          exact Nat.mul_le_mul_right size hj
        have haddr : x.w2 + s.readN (key x.w0 + 4 * j) 4 * size = key (row j) := by
          rw [hw2]
          exact privKey_add _ _ _ _ _
        rw [haddr, Nat.add_assoc, Nat.add_assoc (key x.w1)]
        exact ⟨Copy.reaches_named (s := { s with mem := μ }) hquad hown (by omega) hl need,
          Copy.reaches_own (s := { s with mem := μ }) hown (by omega) hl need'⟩
      have hindex (j : Nat) (hj : j < n) : s.Reaches x.who needR (x.w0 + 4 * j) 4 (key x.w0 + 4 * j) :=
        Copy.reaches_own hown (by omega) (by decide) needR
      have hkeys (j : Nat) (hj : j < n) := privKey_apart (die := gidDie x.gid) (quad := gidQuad x.gid) (core := gidCore x.gid) (hapart j hj)
      exact ⟨fun hkind => State.streamerCompletion_mailed (kr := fun j => key (row j)) hq hwf hfind hstate htotal hrl hover howed hplace rfl rfl
          (.inl ⟨hkind, rfl, rfl⟩) hindex (fun μ j o l hj hl ho => reaches μ j o l hj hl ho _ _) hkeys,
        fun hkind => State.streamerCompletion_mailed (kr := fun j => key (row j)) hq hwf hfind hstate htotal hrl hover howed hplace rfl rfl
          (.inr ⟨hkind, rfl, rfl⟩) hindex (fun μ j o l hj hl ho => reaches μ j o l hj hl ho _ _) hkeys⟩

/-- Settles O43: the checks of a request decide its acceptance; an accepted command starts, moves its words or rows one after the other and
delivers its completion. -/
theorem copies : Obligations.Copies := ⟨copyRequests, copySteps, copyFormsComplete⟩
end
